-- ==== Sys2Proof/Word.lean ====
section
/-! DEFINITION. The word types of the Graron and the sparse tables its memories are kept in. -/

namespace Sys2Proof

/-- One byte. -/
abbrev Byte := BitVec 8

/-- Partition 0 to 3 (R132, R363). -/
abbrev Part := BitVec 2
/-- Function 0 to 63: 0 to 31 on port A, 32 to 63 on port B. -/
abbrev FnNum := BitVec 6
/-- Ring 0 to 16,383 (R365). -/
abbrev RingNum := BitVec 14
/-- DMA channel 0 to 255 (R399). -/
abbrev ChanNum := BitVec 8
/-- Kolran link KL0 to KL23. -/
abbrev Link := Fin 24
/-- Table identifier 0 to 4,095 (R132). -/
abbrev Tid := BitVec 12
/-- Row index within a table (R132). -/
abbrev RowIx := BitVec 40
/-- Row engine 0 to 15. -/
abbrev Engine := BitVec 4
/-- Lookup group 0 to 63 (R142). -/
abbrev Group := BitVec 6
/-- Exchange entry index (R246). -/
abbrev XIx := BitVec 20
/-- Logical module index (R310). -/
abbrev Lidx := BitVec 14
/-- Node address (R343). -/
abbrev NodeAddr := BitVec 16
/-- A 64-bit word. -/
abbrev W64 := BitVec 64
/-- An Opal32, or any 32-bit, pattern. -/
abbrev W32 := BitVec 32

/-- A sparse table: keys strictly rising, at most one entry a key. -/
abbrev Tab (α : Type) := List (Nat × α)

end Sys2Proof
end

