-- ==== Sys2Proof/Operand.lean ====
section
/-! DEFINITION. The operands of the commands: instruction words of the unit streams, tensor-table entries,
the sections of a step plan, host commands, descriptors and messages. -/

namespace Sys2Proof

/-- The fields of a 128-bit array word but its opcode (R81). -/
structure AWord where
  flg : BitVec 8 := 0
  src : BitVec 21 := 0
  dst : BitVec 21 := 0
  cnt : BitVec 16 := 0
  gst : BitVec 16 := 0
  gct : BitVec 5 := 0
  til : BitVec 6 := 0
  aux : BitVec 19 := 0
  deriving DecidableEq, Repr

/-- The array opcodes of R81. -/
inductive AOp where
  | anop | awld | asld | amm | ammt | atwin | aacc | admp | aldmp | aque | adrn | amov | aclr | amode
  deriving DecidableEq, Repr

/-- The fields of a 128-bit vector word but its opcode (R95). -/
structure VWord where
  flg : BitVec 8 := 0
  td : BitVec 5 := 0
  ta : BitVec 5 := 0
  tb : BitVec 5 := 0
  tc : BitVec 5 := 0
  ci : BitVec 5 := 0
  msk : BitVec 3 := 0
  df : BitVec 2 := 0
  sf : BitVec 2 := 0
  ent : BitVec 19 := 0x7FFFF
  row : BitVec 20 := 0
  col : BitVec 12 := 0
  imm : BitVec 16 := 0
  deriving DecidableEq, Repr

/-- The vector opcodes of R97. -/
inductive VOp where
  | vnop | vld | vst | vmov | vbc | vtr | vgth | vsel | vmsk | vmcmp | vmlog
  | vadd | vsub | vmul | vfma | vdiv | vmax | vmin | vabs | vneg | vscl | vsqrt | vrsq | vexp2 | vlog2
  | vact | vactd | vnrm | vnrmb | vsmx | vsmxb | vbce | vmse | vcvt | vqnt | vdq | vrnd | vdrp
  | rsum | rmax | rmin | rssq | rdot
  deriving DecidableEq, Repr

/-- The three units that run streams (R245); the number is the unit's bit in a cue point's UNITS (R248). -/
inductive SUnit where
  | seq | arr | vec
  deriving DecidableEq, Repr

/-- A tensor-table entry: a tensor in device memory (R121, R533, R534), or a region of the weight shelf (R69). -/
structure TEntry where
  /-- A weight region of the shelf, not a tensor in device memory. -/
  shelf : Bool := false
  /-- Byte address, or byte offset in the shelf. -/
  base : Nat := 0
  /-- Format code 0 to 7 (R533). -/
  fmt : Nat := 0
  /-- Local extent; of a region, the reduction extent P and the width N. -/
  rows : Nat := 0
  cols : Nat := 0
  /-- Row pitch in bytes. -/
  pitch : Nat := 0
  /-- Shift area (R121, R534). -/
  sbase : Nat := 0
  spitch : Nat := 0
  bax : Nat := 0
  /-- Gale tensor identifier (R39). -/
  ident : Nat := 0
  /-- Logical origin of element (0, 0), and the logical shape (R40). -/
  orow : Nat := 0
  ocol : Nat := 0
  lrows : Nat := 0
  lcols : Nat := 0
  /-- The given shift of an ADMP with SHM = 1 (R82). -/
  gshift : Byte := 0
  /-- The first output channel of a region (R69). -/
  n0 : Nat := 0
  /-- Whether a scale block follows the region (R69). -/
  scaled : Bool := false
  deriving DecidableEq, Repr

/-- A lookup group entry: the capacity bucket of each destination module and the squall capacity (R146). -/
structure GroupEntry where
  group : Nat := 0
  buckets : List Nat := []
  squall : Nat := 0
  deriving DecidableEq, Repr

/-- An update program: its 16-byte header and its instruction words (R176, R178). -/
structure UpdProg where
  num : Nat := 0
  nins : Nat := 0
  rowp : Nat := 0
  nv : Nat := 0
  vfmt : Nat := 0
  ns : Nat := 0
  /-- Bytes 5 to 15 of the header, reserved. -/
  resv : Nat := 0
  words : List W32 := []
  deriving DecidableEq, Repr

/-- An exchange plan entry with the member list it names (R274). -/
structure XEntry where
  bits : BitVec 512 := 0
  members : List Nat := []
  deriving DecidableEq, Repr

/-- The three streams of a section, in the order of its directory (R240). -/
structure Streams where
  seq : List (BitVec 128) := []
  arr : List (BitVec 128) := []
  vec : List (BitVec 128) := []
  deriving DecidableEq, Repr

/-- A table reference of the MAP section (R312). -/
structure TableRef where
  tid : Nat := 0
  mbase : Nat := 0
  lbase : Nat := 0
  deriving DecidableEq, Repr

/-- A dense tensor key (R313). -/
structure DenseKey where
  key : Nat := 0
  rq : Nat := 0
  rf : Nat := 0
  ag : Nat := 0
  flush : Nat := 0
  deriving DecidableEq, Repr

/-- An expert entry of an expert slot table (R316). -/
structure ExpertEnt where
  first : Nat := 0
  replicas : Nat := 1
  cap : Nat := 64
  deriving DecidableEq, Repr

/-- An expert slot table (R316). -/
structure ExpertTab where
  layer : Nat := 0
  deal : Nat := 0
  experts : List ExpertEnt := []
  /-- (logical module index, expert) of each slot. -/
  slots : List (Nat × Nat) := []
  deriving DecidableEq, Repr

/-- A step plan: the header fields of R239 and the decoded sections. `readPlan` reads it from the image in T1; a command brings
its tensor entries, lookup group entries and constants, whose byte layouts the specification does not give. -/
structure Plan where
  magic : Nat := 0x47524E31
  ver : Nat := 1
  /-- Whether ICRC matches the image. -/
  icrcOk : Bool := true
  /-- Whether the section table, the directories and the preambles keep their rules (R239, R240). -/
  laidOut : Bool := true
  level : Nat := 0
  look : Nat := 1
  seed : W64 := 0
  nsmp : Nat := 0
  nmb : Nat := 1
  nleaf : Nat := 0
  nmod : Nat := 1
  lidx : Nat := 0
  nstart : Nat := 0
  nrec : Nat := 1
  lsmode : Nat := 0
  ls0 : Int := 0
  lsmin : Int := 0
  lsmax : Int := 0
  lsw : Nat := 1
  ngt : Nat := 0
  epoch : Nat := 0
  step0 : Nat := 0
  part : Part := 0
  compat : Nat := 0
  /-- Types of the sections that the section table lists. -/
  sects : List Nat := [1, 2, 3, 5, 11, 12]
  /-- CONST: the bytes of the 16 polynomial slots (R103). -/
  poly : List Byte := []
  /-- CONST: constant tensors, as (tensor entry, bytes in flat order). -/
  consts : List (Nat × List Byte) := []
  tensors : List TEntry := []
  /-- LOOKUP (R538, R142, R146). -/
  ibase : Nat := 0x07C50000
  slotsz : Nat := 64
  lookups : List (BitVec 256) := []
  groups : List GroupEntry := []
  progs : List UpdProg := []
  cues : List (BitVec 128) := []
  descs : List (BitVec 512) := []
  exch : List XEntry := []
  /-- MAP: node addresses of the job's modules by logical index, table references, dense keys, slot tables. -/
  modules : List NodeAddr := []
  refs : List TableRef := []
  keys : List DenseKey := []
  experts : List ExpertTab := []
  selftest : Option Streams := none
  /-- The expected digest of the SELFTEST section. -/
  digest : Nat := 0
  start : Option Streams := none
  steady : Streams := {}
  recov : Streams := {}
  deriving DecidableEq, Repr

/-- A veto-token contribution or result (R253). -/
structure Token where
  step : Nat := 0
  chka : W32 := 0
  chko : W32 := 0
  veto : W32 := 0
  first : Nat := 0xFFFF
  nveto : Nat := 0
  agra : W32 := 0
  agro : W32 := 0
  grids : List (BitVec 16) := []
  deriving DecidableEq, Repr

/-- A command the ring engine has consumed: who issued it, where it stands, and its tag (R374). -/
structure Cmd where
  fn : FnNum := 0
  ring : RingNum := 0
  /-- Ring index of the entry. -/
  idx : Nat := 0
  tag : Nat := 0
  opc : Nat := 0
  nocq : Bool := false
  fence : Bool := false
  deriving DecidableEq, Repr

/-- Who makes a register access or a steward request: a function, or the management port (R451). -/
abbrev Who := Option FnNum

/-- A round message: the header of R147 with the sender's logical index, and its body. -/
structure RMsg where
  src : Lidx := 0
  group : Group := 0
  round : Nat := 0
  n : Nat := 0
  left : Nat := 0
  step : Nat := 0
  epoch : Nat := 0
  body : List Byte := []
  /-- Model's own, for a gradient message: the places, among the forward entries whose tables the backward exchange
  carries, of rows that only evaluation lookups of the source name; they have no gradient entry (R164, R285). -/
  evals : List Nat := []
  deriving DecidableEq, Repr

/-- What a spill-round message carries (R148, R150). -/
inductive RKind where
  | index | payload | gradient
  deriving DecidableEq, Repr

/-- A token that a router sends to an expert (R318): the expert, its number among the tokens of that expert over the global
batch in canonical order, its leaf, its canonical place, its content. -/
structure ExpTok where
  expert : Nat := 0
  k : Nat := 0
  leaf : Nat := 0
  sample : Nat := 0
  pos : Nat := 0
  data : List Byte := []
  deriving DecidableEq, Repr

/-- A query row of this module against a key and value block: its position, and its scores against the block's keys, none
where one is masked (R321). -/
structure SeqRow where
  row : Nat := 0
  scores : List (Option W32) := []
  deriving DecidableEq, Repr

/-- A key and value block as the step plan uses it on this module (R320, R321): the sequence group in ring order, the length and
block size of the sequence, the block's number, whether the masking is causal, the format of the numerators and values,
that of the output, the raw values of each key, the module's query rows. -/
structure SeqBlock where
  group : List Nat := []
  n : Nat := 0
  kb : Nat := 64
  j : Nat := 0
  causal : Bool := false
  fmt : Nat := 0
  df : Nat := 0
  values : List (List Nat) := []
  rows : List SeqRow := []
  deriving DecidableEq, Repr

/-- An expert message: its header, and the tokens it brings (R318). -/
structure ExpMsg where
  msg : RMsg := {}
  toks : List ExpTok := []
  deriving DecidableEq, Repr

/-- A sequence message: its header and stored bytes, and the block as this module's plan uses it (R320, R321). -/
structure SeqMsg where
  msg : RMsg := {}
  block : SeqBlock := {}
  deriving DecidableEq, Repr

/-- A dense exchange message: the header of R284 with the sender's logical index, and its payload. -/
structure DMsg where
  src : Lidx := 0
  entry : XIx := 0
  first : Nat := 0
  units : Nat := 0
  step : Nat := 0
  epoch : Nat := 0
  body : List Byte := []
  deriving DecidableEq, Repr

/-- A re-shard move: a row record, or elements of a dense area of a key from a flat element on
(role 0 master weights, 1 state, 2 module residual, 3 pod residual, 4 flush value) (R326 to R328); or the
acknowledgement of a move (R325). -/
inductive MoveMsg where
  | row (tid : Tid) (row : RowIx) (bytes : List Byte)
  | dense (key : W32) (role : Nat) (first : Nat) (bytes : List Byte)
  | ack
  deriving DecidableEq, Repr

/-- A re-shard move or acknowledgement from logical module `src` (R325, R326). -/
structure MoveFrom where
  src : Lidx
  msg : MoveMsg
  deriving DecidableEq, Repr

/-- A ready or commit vote from logical module `src`: a contribution to the tree, or its result from the parent (R325, R351). -/
structure VoteMsg where
  src : Lidx
  vote : Bool
  deriving DecidableEq, Repr

/-- A frame as it leaves the link's decoder: its 512 bytes, and whether every codeword carrying them decoded (R334, R338). -/
structure FrameIn where
  bytes : List Byte
  codes : Bool
  deriving DecidableEq, Repr

/-- A list of bisection (R305): the twin's hashes of tables, ranges, sub-ranges, rows, dense areas or blocks,
each with the coordinates it stands for: (table or entry, role, start, end, hash). -/
inductive BisKind where
  | tables | ranges | subs | rows | areas | blocks
  deriving DecidableEq, Repr

/-- One line of a bisection list. -/
structure BisEnt where
  tid : Nat := 0
  role : Nat := 0
  s : Nat := 0
  e : Nat := 0
  hash : Nat := 0
  deriving DecidableEq, Repr

/-- A repaired item: a row record, or a 4 KiB block of a dense area (R306, R307). -/
structure RepairItem where
  isRow : Bool := true
  tid : Nat := 0
  role : Nat := 0
  index : Nat := 0
  bytes : List Byte := []
  deriving DecidableEq, Repr

/-- The repair of a failed record (R309): the owner asks its twin, a twin's request arrives, a twin's copy arrives. -/
inductive RecRepair where
  | ask
  | request
  | copy (bytes : List Byte)
  deriving DecidableEq, Repr

/-- A link message: its routing header and body (R336). -/
structure LinkMsg where
  dst : NodeAddr := 0
  src : NodeAddr := 0
  mtype : Byte := 0
  hops : Byte := 0
  detour : Bool := false
  part : Part := 0
  body : List Byte := []
  deriving DecidableEq, Repr

/-- The fields of a link frame's header, and its slots (R335). -/
structure Frame where
  kind : Byte := 0
  vcmap : BitVec 16 := 0
  som : Byte := 0
  eom : Byte := 0
  seq : W32 := 0
  ack : W32 := 0
  crb : Nat := 0
  crc : Nat := 0
  crk : Nat := 0
  lstat : BitVec 16 := 0
  slots : List (List Byte) := []
  deriving DecidableEq, Repr

/-- A firmware image as the boot ROM reads it (R459). The outcomes of the named hash and signature schemes come
with it: whether the key hashes equal the Locket's root hashes of KSLOT, whether both signatures verify, whether
the stage-1 digest and every other component's digest hold (R460). -/
structure FwImage where
  magic : Nat := 0x46524D31
  ver : Nat := 1
  kslot : Nat := 0
  ncomp : Nat := 1
  svn : Nat := 0
  len : Nat := 8192
  keysOk : Bool := true
  sigsOk : Bool := true
  stage1Ok : Bool := true
  othersOk : Bool := true
  stage1 : List Byte := []
  others : List (List Byte) := []
  deriving DecidableEq, Repr

/-- A signed statement or record, with whether its keys are the ones the rule asks for and whether both
signatures verify (R463, R472). -/
structure Signed where
  bytes : List Byte := []
  keysOk : Bool := true
  sigsOk : Bool := true
  deriving DecidableEq, Repr

/-- The fixed fields of a steward request block (R455). -/
structure SReq where
  who : Who := none
  tag : BitVec 16 := 0
  addr : W64 := 0
  len : W32 := 0
  operand : Byte := 0
  deriving DecidableEq, Repr

/-- An identity certificate (R467). -/
structure Cert where
  serial : List Byte := []
  ekey : List Byte := []
  hkey : List Byte := []
  body : List Byte := []
  deriving DecidableEq, Repr

/-- A JTAG instruction (R476). -/
inductive JtagInst where
  | idcode | bypass | samplePreload | extest | debug | other
  deriving DecidableEq, Repr

/-- An inbound request the port does not support (R361). -/
inductive BadReq where
  | notRootPort | atomicOp
  deriving DecidableEq, Repr

/-- What begins host-loss hold (R390). -/
inductive LossCause where
  | linkDown | hotReset | perst
  deriving DecidableEq, Repr

/-- The fields of a sample record beyond STEP and SRC (R488). -/
structure Sample where
  flg : Byte := 0
  idx : W32 := 0
  opc : Byte := 0
  addr : W64 := 0
  issue : W32 := 0
  lat : W32 := 0
  deriving DecidableEq, Repr

end Sys2Proof
end

