-- ==== Sys2Proof/Syntax.lean ====
section
/-! DEFINITION. The commands of the Graron: one constructor per row of the opcode table, in its order. -/

namespace Sys2Proof

/-- A command from outside, or an event of one of the machine's own engines, with its operands. -/
inductive Instr where
  /-- ANOP (R89). -/
  | anop (p : Part) (w : AWord)
  /-- AWLD (R70). -/
  | awld (p : Part) (w : AWord)
  /-- ASLD (R74). -/
  | asld (p : Part) (w : AWord)
  /-- AMM (R60). -/
  | amm (p : Part) (w : AWord)
  /-- AMMT (R71). -/
  | ammt (p : Part) (w : AWord)
  /-- ATWIN (R64). -/
  | atwin (p : Part) (w : AWord)
  /-- AACC (R62). -/
  | aacc (p : Part) (w : AWord)
  /-- AQUE (R66). -/
  | aque (p : Part) (w : AWord)
  /-- ADRN (R67). -/
  | adrn (p : Part) (w : AWord)
  /-- DEFERRED_ENTRY_DRAIN (R67). -/
  | deferredEntryDrain
  /-- ADMP (R56). -/
  | admp (p : Part) (w : AWord)
  /-- ALDMP (R280). -/
  | aldmp (p : Part) (w : AWord)
  /-- AMOV_TO_SCRATCHPAD (R78). -/
  | amovToScratchpad (p : Part) (w : AWord)
  /-- AMOV_TO_STORE (R78). -/
  | amovToStore (p : Part) (w : AWord)
  /-- ACLR (R78). -/
  | aclr (p : Part) (w : AWord)
  /-- AMODE (R65). -/
  | amode (p : Part) (w : AWord)
  /-- VNOP (R97). -/
  | vnop (p : Part) (w : VWord)
  /-- VLD (R94). -/
  | vld (p : Part) (w : VWord)
  /-- VST (R94). -/
  | vst (p : Part) (w : VWord)
  /-- VMOV (R91). -/
  | vmov (p : Part) (w : VWord)
  /-- VBC (R97). -/
  | vbc (p : Part) (w : VWord)
  /-- VTR (R97). -/
  | vtr (p : Part) (w : VWord)
  /-- VGTH (R97). -/
  | vgth (p : Part) (w : VWord)
  /-- VSEL (R97). -/
  | vsel (p : Part) (w : VWord)
  /-- VMSK (R97). -/
  | vmsk (p : Part) (w : VWord)
  /-- VMCMP (R101). -/
  | vmcmp (p : Part) (w : VWord)
  /-- VMLOG (R97). -/
  | vmlog (p : Part) (w : VWord)
  /-- VADD (R101). -/
  | vadd (p : Part) (w : VWord)
  /-- VSUB (R101). -/
  | vsub (p : Part) (w : VWord)
  /-- VMUL (R101). -/
  | vmul (p : Part) (w : VWord)
  /-- VFMA (R101). -/
  | vfma (p : Part) (w : VWord)
  /-- VDIV (R101). -/
  | vdiv (p : Part) (w : VWord)
  /-- VMAX (R101). -/
  | vmax (p : Part) (w : VWord)
  /-- VMIN (R101). -/
  | vmin (p : Part) (w : VWord)
  /-- VABS (R101). -/
  | vabs (p : Part) (w : VWord)
  /-- VNEG (R101). -/
  | vneg (p : Part) (w : VWord)
  /-- VSCL (R268). -/
  | vscl (p : Part) (w : VWord)
  /-- VSQRT (R101). -/
  | vsqrt (p : Part) (w : VWord)
  /-- VRSQ (R105). -/
  | vrsq (p : Part) (w : VWord)
  /-- VEXP2 (R105). -/
  | vexp2 (p : Part) (w : VWord)
  /-- VLOG2 (R105). -/
  | vlog2 (p : Part) (w : VWord)
  /-- VACT (R104). -/
  | vact (p : Part) (w : VWord)
  /-- VACTD (R105). -/
  | vactd (p : Part) (w : VWord)
  /-- VNRM (R108). -/
  | vnrm (p : Part) (w : VWord)
  /-- VNRMB (R108). -/
  | vnrmb (p : Part) (w : VWord)
  /-- VSMX (R109). -/
  | vsmx (p : Part) (w : VWord)
  /-- VSMXB (R109). -/
  | vsmxb (p : Part) (w : VWord)
  /-- VBCE (R110). -/
  | vbce (p : Part) (w : VWord)
  /-- VMSE (R110). -/
  | vmse (p : Part) (w : VWord)
  /-- VCVT (R111). -/
  | vcvt (p : Part) (w : VWord)
  /-- VQNT (R112). -/
  | vqnt (p : Part) (w : VWord)
  /-- VDQ (R113). -/
  | vdq (p : Part) (w : VWord)
  /-- VRND (R116). -/
  | vrnd (p : Part) (w : VWord)
  /-- VDRP (R115). -/
  | vdrp (p : Part) (w : VWord)
  /-- RSUM (R106). -/
  | rsum (p : Part) (w : VWord)
  /-- RMAX (R106). -/
  | rmax (p : Part) (w : VWord)
  /-- RMIN (R106). -/
  | rmin (p : Part) (w : VWord)
  /-- RSSQ (R106). -/
  | rssq (p : Part) (w : VWord)
  /-- RDOT (R106). -/
  | rdot (p : Part) (w : VWord)
  /-- SAT (R245). -/
  | sat (p : Part) (u : SUnit) (cyc : W32)
  /-- SCUE (R245). -/
  | scue (p : Part) (u : SUnit) (cue : BitVec 12)
  /-- SARR (R245). -/
  | sarr (p : Part) (u : SUnit) (cue : BitVec 12)
  /-- SEND (R245). -/
  | send (p : Part) (u : SUnit)
  /-- PWAKE (R252). -/
  | pwake (p : Part) (mask : W64)
  /-- PGATE_OFF (R252). -/
  | pgateOff (p : Part) (mask : W64)
  /-- PGATE_RETAIN (R131). -/
  | pgateRetain (p : Part) (mask : W64)
  /-- DOMAIN_WAKE_COMPLETE (R429). -/
  | domainWakeComplete (d : BitVec 6)
  /-- DMAQ (R246). -/
  | dmaq (p : Part) (desc : W32) (chan : ChanNum)
  /-- LKG_INDEX_EXCHANGE (R145). -/
  | lkgIndexExchange (p : Part) (g : Group)
  /-- LKG_FETCH_POOL (R156). -/
  | lkgFetchPool (p : Part) (g : Group)
  /-- LKG_BACKWARD_PARTIALS (R165). -/
  | lkgBackwardPartials (p : Part) (g : Group)
  /-- LKG_OWNER_SUMS (R167). -/
  | lkgOwnerSums (p : Part) (g : Group)
  /-- LKG_ROW_UPDATES (R162). -/
  | lkgRowUpdates (p : Part) (g : Group)
  /-- XCH_RQ (R275). -/
  | xchRq (p : Part) (e : XIx)
  /-- XCH_RF (R287). -/
  | xchRf (p : Part) (e : XIx)
  /-- XCH_AG (R290). -/
  | xchAg (p : Part) (e : XIx)
  /-- XCH_CH (R298). -/
  | xchCh (p : Part) (e : XIx)
  /-- CUE_POINT_FIRE (R249). -/
  | cuePointFire (p : Part) (cue : BitVec 12)
  /-- TOKEN_TREE_MESSAGE (R351). -/
  | tokenTreeMessage (p : Part) (src : Lidx) (down : Bool) (t : Token)
  /-- VETO_TOKEN_COMPLETE (R256). -/
  | vetoTokenComplete (p : Part)
  /-- SEAL_CONTRIBUTION (R260). -/
  | sealContribution (p : Part)
  /-- SEAL_TREE_MESSAGE (R351). -/
  | sealTreeMessage (p : Part) (src : Lidx) (step : W64) (hold : Bool)
  /-- STEP_BEACON (R352). -/
  | stepBeacon (p : Part) (step : W64) (hold : Bool) (start : Option W64)
  /-- SEAL_REACHED (R262). -/
  | sealReached (p : Part)
  /-- LOSS_SCALE_GROWTH (R267). -/
  | lossScaleGrowth (p : Part)
  /-- STEP_START (R263). -/
  | stepStart (p : Part)
  /-- START_READINESS (R263). -/
  | startReadiness (p : Part) (src : Lidx)
  /-- RESUME_READINESS (R377). -/
  | resumeReadiness (p : Part) (src : Lidx)
  /-- STEP_ABANDON (R264). -/
  | stepAbandon (p : Part)
  /-- UNIT_FAULT (R264). -/
  | unitFault (p : Part) (src : BitVec 4)
  /-- SELFTEST_COMPLETE (R244). -/
  | selftestComplete (p : Part)
  /-- BATCH (R140). -/
  | batch (c : Cmd) (addr : W64) (len : W32) (step : W64) (chan : ChanNum)
  /-- BATCH_DMA_COMPLETE (R139). -/
  | batchDmaComplete (p : Part) (step : W64) (status : Byte) (data : List Byte)
  /-- SORT_START (R144). -/
  | sortStart (su : BitVec 3) (p : Part) (step : W64) (g : Group) (tid : Tid)
  /-- SORT_COMPLETE (R143). -/
  | sortComplete (su : BitVec 3)
  /-- INDEX_ROUND_MESSAGE (R151). -/
  | indexRoundMessage (p : Part) (m : RMsg)
  /-- OWNER_FETCH (R151). -/
  | ownerFetch (p : Part) (g : Group) (src : Lidx) (round : Byte) (k : W32)
  /-- PAYLOAD_ROUND_MESSAGE (R147). -/
  | payloadRoundMessage (p : Part) (m : RMsg)
  /-- SPILL_ROUND (R148). -/
  | spillRound (p : Part) (g : Group) (src : Lidx)
  /-- SPILL_ROUND_MESSAGE (R148). -/
  | spillRoundMessage (p : Part) (kind : RKind) (m : RMsg)
  /-- POOLING_START (R156). -/
  | poolingStart (p : Part) (g : Group)
  /-- GRADIENT_ROUND_MESSAGE (R299). -/
  | gradientRoundMessage (p : Part) (m : RMsg)
  /-- ROW_UPDATE (R163). -/
  | rowUpdate (p : Part) (g : Group) (tid : Tid) (row : RowIx)
  /-- FORECAST_HINT_MESSAGE (R209). -/
  | forecastHintMessage (p : Part) (m : RMsg)
  /-- HINT_SERVICE (R210). -/
  | hintService (p : Part)
  /-- PROMOTION_READ_COMPLETE (R210). -/
  | promotionReadComplete (p : Part) (tid : Tid) (row : RowIx)
  /-- DRIZZLE_EVICT (R213). -/
  | drizzleEvict (p : Part) (tid : Tid) (e : Engine)
  /-- DRIZZLE_WARM_PROMOTE (R215). -/
  | drizzleWarmPromote (p : Part) (tid : Tid) (e : Engine)
  /-- WRITEBACK (R218). -/
  | writeback (p : Part) (tid : Tid) (row : RowIx)
  /-- WRITEBACK_DURABLE (R217). -/
  | writebackDurable (p : Part) (tid : Tid)
  /-- DECAY_SWEEP (R206). -/
  | decaySweep (p : Part) (tid : Tid) (e : Engine)
  /-- RANGE_MERGE (R221). -/
  | rangeMerge (p : Part) (tid : Tid)
  /-- GARBAGE_COLLECTION (R225). -/
  | garbageCollection
  /-- WEAR_LEVEL_MOVE (R225). -/
  | wearLevelMove
  /-- BLOCK_FAILURE (R224). -/
  | blockFailure (blk : BitVec 20)
  /-- MAP_CHECKPOINT (R227). -/
  | mapCheckpoint
  /-- T3_MOUNT (R227). -/
  | t3Mount
  /-- FTL_REBUILD (R227). -/
  | ftlRebuild
  /-- HOURLY_TICK (R230). -/
  | hourlyTick
  /-- REGULATOR_REFILL (R232). -/
  | regulatorRefill
  /-- DRAM_TEMP_REPORT (R234). -/
  | dramTempReport (s : BitVec 5) (t : Byte)
  /-- DRAM_CAP_TICK (R234). -/
  | dramCapTick
  /-- FLASH_TEMP_REPORT (R235). -/
  | flashTempReport (s : BitVec 3) (t : Byte)
  /-- DRAM_CRITICAL_HOLD (R442). -/
  | dramCriticalHold (s : BitVec 5)
  /-- DRAM_CRITICAL_TRIP (R442). -/
  | dramCriticalTrip (s : BitVec 5)
  /-- DIE_TEMP_REPORT (R442). -/
  | dieTempReport (d : BitVec 2) (t : Byte)
  /-- TDEF (R133). -/
  | tdef (c : Cmd) (d : BitVec 512)
  /-- TREL (R133). -/
  | trel (c : Cmd) (tid : Tid)
  /-- PLACE (R200). -/
  | place (c : Cmd) (e : BitVec 512)
  /-- PARAM (R170). -/
  | param (c : Cmd) (n : W32) (flags : Byte) (ps : List W32)
  /-- STAGE (R158). -/
  | stage (c : Cmd) (tid : Tid) (whole : Bool) (a : W64) (b : W64) (area : W64) (rows : W64)
  /-- COMMIT (R159). -/
  | commit (c : Cmd) (tid : Tid) (target : W64)
  /-- STAGED_CHECK_COMPLETE (R159). -/
  | stagedCheckComplete (p : Part) (tid : Tid)
  /-- EXPORT (R189). -/
  | exportTable (c : Cmd) (tid : Tid) (state : Bool) (chan : ChanNum) (c0 : BitVec 16) (cc : BitVec 16) (a : W64) (b : W64) (x : W64) (shadow : W64) (size : W64)
  /-- EXPORT_WALK_ROW (R190). -/
  | exportWalkRow (p : Part) (tid : Tid) (e : Engine)
  /-- EXPORT_COMPLETE (R193). -/
  | exportComplete (p : Part) (tid : Tid)
  /-- TFLUSH (R220). -/
  | tflush (c : Cmd) (tid : BitVec 16)
  /-- DIGEST_BUILD (R187). -/
  | digestBuild (p : Part) (tid : Tid) (e : Engine)
  /-- PLOAD (R241). -/
  | pload (c : Cmd) (addr : W64) (len : W32) (plan : Plan)
  /-- RESHARD (R323). -/
  | reshard (c : Cmd) (addr : W64) (target : W64) (epoch : W64) (plan : Plan)
  /-- RESHARD_CHECK_COMPLETE (R324). -/
  | reshardCheckComplete (p : Part)
  /-- READY_VOTE (R325). -/
  | readyVote (p : Part) (m : VoteMsg)
  /-- RESHARD_MOVE_MESSAGE (R326). -/
  | reshardMoveMessage (p : Part) (m : MoveFrom)
  /-- COMMIT_VOTE (R325). -/
  | commitVote (p : Part) (m : VoteMsg)
  /-- PAUSE (R376). -/
  | pause (c : Cmd)
  /-- RESUME (R377). -/
  | resume (c : Cmd)
  /-- PAIR (R300). -/
  | pair (c : Cmd) (base : W64) (size : W64)
  /-- ABORT_COMMAND (R396). -/
  | abortCommand (c : Cmd) (ring : RingNum) (tag : BitVec 16)
  /-- ABORT_RING (R396). -/
  | abortRing (c : Cmd) (ring : RingNum)
  /-- ABORT_FUNCTION (R396). -/
  | abortFunction (c : Cmd) (fn : FnNum)
  /-- ABORT_JOB (R396). -/
  | abortJob (c : Cmd)
  /-- ATTACH (R393). -/
  | attach (c : Cmd) (part : Part) (addr : W64) (size : W32)
  /-- ADOPT (R394). -/
  | adopt (c : Cmd) (part : Part) (addr : W64) (size : W32)
  /-- FIRST_HOP_MESSAGE (R276). -/
  | firstHopMessage (p : Part) (m : DMsg)
  /-- SPINE_HOP_MESSAGE (R278). -/
  | spineHopMessage (p : Part) (m : DMsg)
  /-- RELEASE_CHUNK (R287). -/
  | releaseChunk (p : Part) (e : XIx) (chunk : W32)
  /-- CHUNK_UPDATE (R288). -/
  | chunkUpdate (p : Part) (e : XIx) (chunk : W32)
  /-- COPY_HASH (R293). -/
  | copyHash (p : Part) (e : XIx)
  /-- ALLGATHER_SPINE_MESSAGE (R290). -/
  | allgatherSpineMessage (p : Part) (m : DMsg)
  /-- ALLGATHER_POD_MESSAGE (R290). -/
  | allgatherPodMessage (p : Part) (m : DMsg)
  /-- COPY_DIGEST_MESSAGE (R294). -/
  | copyDigestMessage (p : Part) (m : DMsg)
  /-- SHARD_REREQUEST_MESSAGE (R294). -/
  | shardRerequestMessage (p : Part) (m : DMsg)
  /-- CHAIN_HOP_MESSAGE (R298). -/
  | chainHopMessage (p : Part) (m : DMsg)
  /-- EXPERT_TOKEN_MESSAGE (R318). -/
  | expertTokenMessage (p : Part) (m : ExpMsg)
  /-- SEQUENCE_BLOCK_MESSAGE (R320). -/
  | sequenceBlockMessage (p : Part) (m : SeqMsg)
  /-- TWIN_TOKEN_MESSAGE (R301). -/
  | twinTokenMessage (p : Part) (t : Token)
  /-- TWIN_MESSAGE (R302). -/
  | twinMessage (p : Part) (step : W64) (digest : BitVec 128) (grown : Bool) (invalid : Bool)
  /-- TWIN_LOST (R303). -/
  | twinLost (p : Part)
  /-- HISTORY_POLL (R304). -/
  | historyPoll (p : Part) (src : Option Lidx) (grown : Bool)
  /-- BISECTION_LIST_MESSAGE (R305). -/
  | bisectionListMessage (p : Part) (kind : BisKind) (l : List BisEnt)
  /-- REPAIR_DATA_MESSAGE (R306). -/
  | repairDataMessage (p : Part) (m : RepairItem)
  /-- REPAIR_ROUND_COMPLETE (R308). -/
  | repairRoundComplete (p : Part) (digest : BitVec 128)
  /-- FAILED_RECORD_REPAIR (R309). -/
  | failedRecordRepair (p : Part) (tid : Tid) (row : RowIx) (m : RecRepair)
  /-- FRAME_RECEIVE (R338). -/
  | frameReceive (k : Link) (f : FrameIn)
  /-- REPLAY_REQUEST_RECEIVE (R338). -/
  | replayRequestReceive (k : Link) (seq : W32)
  /-- LINK_MESSAGE_RECEIVE (R340). -/
  | linkMessageReceive (k : Link) (m : LinkMsg)
  /-- MESSAGE_RELAY (R348). -/
  | messageRelay (k : Link) (m : LinkMsg)
  /-- LINK_RETRAIN (R356). -/
  | linkRetrain (k : Link)
  /-- ACK_PROGRESS_TIMEOUT (R339). -/
  | ackProgressTimeout (k : Link)
  /-- CODEWORD_LOCK_LOSS (R339). -/
  | codewordLockLoss (k : Link)
  /-- RETRAIN_COMPLETE (R357). -/
  | retrainComplete (k : Link) (lanes : Byte)
  /-- LINK_BACKGROUND_TRAIN (R357). -/
  | linkBackgroundTrain (k : Link) (lanes : Byte)
  /-- LINK_TRAINED (R347). -/
  | linkTrained (k : Link) (partner : NodeAddr) (plink : BitVec 5)
  /-- CHAIN_IN_EDGE (R345). -/
  | chainInEdge (low : BitVec 16)
  /-- CHAIN_IN_LOW_TIMEOUT (R345). -/
  | chainInLowTimeout
  /-- ROLL_CALL_ANNOUNCE (R346). -/
  | rollCallAnnounce
  /-- POD_CONTROLLER_TIMEOUT (R344). -/
  | podControllerTimeout
  /-- TIME_EXCHANGE_TICK (R354). -/
  | timeExchangeTick
  /-- TIME_REQUEST_MESSAGE (R354). -/
  | timeRequestMessage (src : NodeAddr) (t1 : W64) (cf : W32)
  /-- TIME_REPLY_MESSAGE (R354). -/
  | timeReplyMessage (t1 : W64) (t2 : W64) (t3 : W64) (cf : W32) (cb : W32)
  /-- TIME_SYNC_LOST (R355). -/
  | timeSyncLost
  /-- PTM_DIALOG (R448). -/
  | ptmDialog (portB : Bool) (t1 : W64) (t2 : W64) (t3 : W64) (t4 : W64) (delay : W32)
  /-- CRYSTAL_TICK (R446). -/
  | crystalTick
  /-- CALENDAR_TICK (R447). -/
  | calendarTick
  /-- FN_WAKE (R370). -/
  | fnWake (w : Who) (fn : FnNum) (v : W32)
  /-- DOORBELL_POLL_TICK (R371). -/
  | doorbellPollTick (fn : FnNum)
  /-- DOORBELL_READ (R372). -/
  | doorbellRead (ring : RingNum) (v : W64)
  /-- ARBITRATION_ROUND (R386). -/
  | arbitrationRound (portB : Bool)
  /-- COMMAND_CONSUME (R373). -/
  | commandConsume (ring : RingNum) (entry : BitVec 512)
  /-- INTERRUPT_RAISE (R381). -/
  | interruptRaise (ring : RingNum)
  /-- FUNCTION_LEVEL_RESET (R389). -/
  | functionLevelReset (fn : FnNum)
  /-- HOST_LOSS_HOLD (R390). -/
  | hostLossHold (portB : Bool) (cause : LossCause)
  /-- PCIE_LINK_TRAINED (R392). -/
  | pcieLinkTrained (portB : Bool) (rate : BitVec 4) (width : BitVec 5)
  /-- PCIE_RETRAIN (R362). -/
  | pcieRetrain (portB : Bool)
  /-- DESCRIPTOR_FETCH (R407). -/
  | descriptorFetch (chan : ChanNum) (d : BitVec 512)
  /-- DESCRIPTOR_FETCH_FAIL (R416). -/
  | descriptorFetchFail (chan : ChanNum)
  /-- DMA_NOP (R403). -/
  | dmaNop (chan : ChanNum)
  /-- DMA_COPY (R403). -/
  | dmaCopy (chan : ChanNum) (data : List Byte) (fail : Option W32)
  /-- DMA_FILL (R403). -/
  | dmaFill (chan : ChanNum)
  /-- DMA_CLASP (R419). -/
  | dmaClasp (chan : ChanNum)
  /-- DMA_EXPDST (R426). -/
  | dmaExpdst (chan : ChanNum)
  /-- DMA_TRANSFER_COMPLETE (R412). -/
  | dmaTransferComplete (chan : ChanNum)
  /-- CLASP_FLUSH_COMPLETE (R420). -/
  | claspFlushComplete (chan : ChanNum) (ok : Bool)
  /-- DMA_STATUS_WRITE (R408). -/
  | dmaStatusWrite (chan : ChanNum)
  /-- SEMAPHORE_READ (R129). -/
  | semaphoreRead (i : BitVec 12)
  /-- SEMAPHORE_WRITE (R129). -/
  | semaphoreWrite (i : BitVec 12) (v : W64)
  /-- SEMAPHORE_FETCH_ADD (R129). -/
  | semaphoreFetchAdd (i : BitVec 12) (v : W32)
  /-- SEMAPHORE_COMPARE_SWAP (R129). -/
  | semaphoreCompareSwap (i : BitVec 12) (old : W64) (new : W64)
  /-- STALL_STREAK_GRANT (R123). -/
  | stallStreakGrant (bank : Byte) (reqs : List (BitVec 7))
  /-- POWER_54V_IN_RANGE (R526). -/
  | power54vInRange
  /-- POWER_54V_LOSS (R440). -/
  | power54vLoss
  /-- MGMT_BOOT (R434). -/
  | mgmtBoot
  /-- BOOT_VERIFY_DONE (R460). -/
  | bootVerifyDone
  /-- DRAM_TRAINING_DONE (R435). -/
  | dramTrainingDone (s : BitVec 5) (ok : Bool)
  /-- MODULE_READY (R434). -/
  | moduleReady
  /-- REFCLK_LOSS (R524). -/
  | refclkLoss
  /-- REFCLK_RETURN (R524). -/
  | refclkReturn
  /-- PERST_ASSERT (R525). -/
  | perstAssert (portB : Bool)
  /-- PERST_RELEASE (R525). -/
  | perstRelease (portB : Bool)
  /-- PWR_BRAKE_ASSERT (R527). -/
  | pwrBrakeAssert
  /-- PWR_BRAKE_RELEASE (R527). -/
  | pwrBrakeRelease
  /-- POWER_SAMPLE (R441). -/
  | powerSample (watts : BitVec 16)
  /-- DUTY_ADJUST_TICK (R441). -/
  | dutyAdjustTick
  /-- WATCHDOG_EXPIRY (R444). -/
  | watchdogExpiry
  /-- HK_RESTART_COMPLETE (R444). -/
  | hkRestartComplete
  /-- PWR_REQ_SLEEP (R436). -/
  | pwrReqSleep (w : Who)
  /-- PWR_REQ_OFF (R439). -/
  | pwrReqOff (w : Who) (force : Bool)
  /-- PWR_REQ_WAKE (R438). -/
  | pwrReqWake (w : Who)
  /-- SLEEP_WAIT_TIMEOUT (R436). -/
  | sleepWaitTimeout
  /-- SLEEP_ENTRY (R437). -/
  | sleepEntry
  /-- OFF_ENTRY (R439). -/
  | offEntry
  /-- MGMT_WAKE (R438). -/
  | mgmtWake
  /-- WAKE_COMPLETE (R438). -/
  | wakeComplete
  /-- TIM_SET (R445). -/
  | timSet (w : Who) (v : W64)
  /-- TIM_UTC_WRITE (R447). -/
  | timUtcWrite (w : Who) (v : W64)
  /-- ALMANAC_READ (R450). -/
  | almanacRead (w : Who)
  /-- ATTESTATION_REQUEST (R465). -/
  | attestationRequest (w : Who) (nonce : Option (List Byte))
  /-- FWUPDATE (R462). -/
  | fwupdate (r : SReq) (img : FwImage)
  /-- SVCOMMIT (R461). -/
  | svcommit (r : SReq)
  /-- RKREVOKE (R463). -/
  | rkrevoke (r : SReq) (st : Signed)
  /-- LKPROG (R474). -/
  | lkprog (r : SReq) (rec : Signed)
  /-- DBGUNLOCK (R477). -/
  | dbgunlock (r : SReq)
  /-- IDCSR (R467). -/
  | idcsr (r : SReq)
  /-- IDINSTALL (R467). -/
  | idinstall (r : SReq) (cert : Cert)
  /-- RECOVER (R462). -/
  | recover (r : SReq) (img : FwImage)
  /-- ROLL_CALL_RESTART (R344). -/
  | rollCallRestart (w : Who)
  /-- AON_NODE_WRITE (R344). -/
  | aonNodeWrite (w : Who) (v : W64)
  /-- PARTITION_ASSIGN (R503). -/
  | partitionAssign (w : Who) (fn : FnNum) (v : W64)
  /-- FN_RELEASE (R503). -/
  | fnRelease (w : Who) (v : W64)
  /-- RING_ENABLE (R366). -/
  | ringEnable (w : Who) (ring : RingNum) (v : W64)
  /-- RING_DISABLE (R366). -/
  | ringDisable (w : Who) (ring : RingNum) (v : W64)
  /-- LINK_LOOP_WRITE (R511). -/
  | linkLoopWrite (w : Who) (v : BitVec 24)
  /-- BWLEN_WRITE (R491). -/
  | bwlenWrite (w : Who) (v : W64)
  /-- BANDWIDTH_WINDOW_CLOSE (R490). -/
  | bandwidthWindowClose
  /-- FROST_CANCEL (R492). -/
  | frostCancel (w : Who) (set : Fin 5)
  /-- FROST_ARM_TIME (R493). -/
  | frostArmTime (w : Who) (set : Fin 5) (target : W64)
  /-- FROST_ARM_SEAL (R493). -/
  | frostArmSeal (w : Who) (set : Fin 5) (target : W64)
  /-- FROST_AT_ONCE (R495). -/
  | frostAtOnce (w : Who) (set : Fin 5)
  /-- FROST_CAPTURE_TIME (R495). -/
  | frostCaptureTime (set : Fin 5)
  /-- CTR_XSEL_CLEAR (R486). -/
  | ctrXselClear (w : Who) (v : W32)
  /-- SAMPLE_RECORD (R488). -/
  | sampleRecord (p : Part) (src : BitVec 5) (r : Sample)
  /-- REGISTER_WRITE (R499). -/
  | registerWrite (w : Who) (off : BitVec 24) (size : Byte) (v : W64)
  /-- REGISTER_READ_CLEAR (R9). -/
  | registerReadClear (w : Who) (off : BitVec 24) (size : Byte)
  /-- ARRAY_INSTRUCTION_COMPLETE (R84). -/
  | arrayInstructionComplete (i : Byte)
  /-- VECTOR_INSTRUCTION_COMPLETE (R99). -/
  | vectorInstructionComplete (i : Byte)
  /-- FRAME_TRANSMIT (R341). -/
  | frameTransmit (k : Link)
  /-- HOST_WINDOW_WRITE (R501). -/
  | hostWindowWrite (fn : FnNum) (off : W64) (data : List Byte)
  /-- HOST_WINDOW_READ (R418). -/
  | hostWindowRead (fn : FnNum) (off : W64) (len : BitVec 13)
  /-- REGISTER_READ (R453). -/
  | registerRead (w : Who) (off : BitVec 24) (size : Byte)
  /-- HOST_READ_COMPLETION (R390). -/
  | hostReadCompletion (portB : Bool) (fn : FnNum)
  /-- UNSUPPORTED_REQUEST (R361). -/
  | unsupportedRequest (portB : Bool) (kind : BadReq)
  /-- JTAG_ACCESS (R476). -/
  | jtagAccess (inst : JtagInst)
  deriving DecidableEq, Repr

end Sys2Proof
end

