-- ==== Sys2Proof/Config.lean ====
section
/-! DEFINITION. The free values: what the specification leaves open. Each is an opaque constant with no body,
so no proof can see what it is and a statement holds whatever it is. -/

namespace Sys2Proof

/-- The byte a memory holds at an address after loss number `gen` of its contents, until something writes it
(R80, R100, R131, R236, R440). -/
opaque Config.freeByte (gen addr : Nat) : Byte

/-- Free value number `n`: a value the specification does not give (R424, R412, R460). -/
opaque Config.freeNat (n : Nat) : Nat

/-- DONEB of a descriptor whose wrapped buffer of base and size `a`, `w` fails the address check outside the transfer alone
(R404, R411). -/
opaque Config.wrapOutside (a w : Nat) : Nat

/-- SHA-384 of a byte string, a named standard outside the specification (R459). -/
opaque Config.sha384 (bytes : List Byte) : List Byte

/-- The device's ECDSA signature of a byte string, and its HSS signature with a signature index (R466, R468). -/
opaque Config.ecdsaSign (secret message : List Byte) : List Byte
opaque Config.hssSign (secret : List Byte) (index : Nat) (message : List Byte) : List Byte

/-- Whether the module of a slot of the pod has a live spine link, at the `n`th such question: no message tells a module
(R349). -/
opaque Config.spineLive (n slot : Nat) : Bool

/-- Where in the Locket's identity region the serial number lies (R471). -/
opaque Config.serialAt : Nat

/-- The device's ECDSA and HSS public keys, derived from the device secret (R466). -/
opaque Config.ecdsaKey (secret : List Byte) : List Byte
opaque Config.hssKey (secret : List Byte) : List Byte

/-- What a field that names the active Locket generation holds when there is none (R449, R465, R515). -/
opaque Config.noGeneration : Nat

/-- The port whose FN_ and PRT_ blocks the management port's register window shows, and what it reads as the number of
the reading function (R500, R502, R506). -/
opaque Config.mgmtPort : Bool
opaque Config.mgmtFn : Nat

end Sys2Proof
end

