-- ==== Sys2Proof/Machine/Bits.lean ====
section
/-! DEFINITION. Bit fields, byte order and the sparse tables: the helpers every unit of the Graron shares (R6). -/

namespace Sys2Proof.Machine

/-- The value at key `k`, or the default `d` where the table lists none. -/
def tabGet {α : Type} (d : α) : Tab α → Nat → α
  | [], _ => d
  | (j, v) :: t, k => if j = k then v else tabGet d t k

/-- The table with `v` at key `k`, the order of the keys kept. -/
def tabSet {α : Type} : Tab α → Nat → α → Tab α
  | [], k, v => [(k, v)]
  | (j, w) :: t, k, v =>
    if k < j then (k, v) :: (j, w) :: t
    else if k = j then (k, v) :: t
    else (j, w) :: tabSet t k v

/-- The table without key `k`. -/
def tabErase {α : Type} : Tab α → Nat → Tab α
  | [], _ => []
  | (j, w) :: t, k => if j = k then tabErase t k else (j, w) :: tabErase t k

/-- The entry at key `k`, where there is one. -/
def tabFind {α : Type} : Tab α → Nat → Option α
  | [], _ => none
  | (j, v) :: t, k => if j = k then some v else tabFind t k

/-- The table with `f` applied to the value at key `k` (the default `d` where none is listed). -/
def tabMod {α : Type} (d : α) (t : Tab α) (k : Nat) (f : α → α) : Tab α :=
  tabSet t k (f (tabGet d t k))

/-- The sum of a list. -/
def total (l : List Nat) : Nat := l.foldl (· + ·) 0

/-- Little-endian: the byte list of the low `n` bytes of `v` (R6). -/
def bytesOf : Nat → Nat → List Byte
  | 0, _ => []
  | n + 1, v => BitVec.ofNat 8 v :: bytesOf n (v / 256)

/-- Little-endian: the number a byte list spells (R6). -/
def natOf : List Byte → Nat
  | [] => 0
  | b :: bs => b.toNat + 256 * natOf bs

/-- Bits `[hi:lo]` of a number (R6). -/
def bits (hi lo v : Nat) : Nat := (v / 2 ^ lo) % 2 ^ (hi + 1 - lo)

/-- Bit `i` of a number. -/
def bit (i v : Nat) : Bool := (v / 2 ^ i) % 2 = 1

/-- 1 for true, 0 for false. -/
def b2n (b : Bool) : Nat := if b then 1 else 0

/-- `v` with bits `[hi:lo]` set to `x`. -/
def setBits (hi lo v x : Nat) : Nat :=
  v - bits hi lo v * 2 ^ lo + (x % 2 ^ (hi + 1 - lo)) * 2 ^ lo

/-- A byte read as a two's complement number. -/
def s8 (b : Byte) : Int := b.toInt

/-- The low `n` bits of `v` read as a two's complement number. -/
def sgn (n v : Nat) : Int :=
  let w := v % 2 ^ n
  if 2 * w < 2 ^ n then (w : Int) else (w : Int) - (2 ^ n : Nat)

/-- The `n`-bit two's complement pattern of `x`. -/
def pat (n : Nat) (x : Int) : Nat := (x % ((2 ^ n : Nat) : Int)).toNat

/-- Division rounded up. -/
def ceilDiv (a b : Nat) : Nat := (a + b - 1) / b

/-- `n` rounded up to a multiple of `m`. -/
def roundUp (n m : Nat) : Nat := ceilDiv n m * m

/-- Element `i` of a list, or `d` past its end. -/
def nth {α : Type} (d : α) : List α → Nat → α
  | [], _ => d
  | a :: _, 0 => a
  | _ :: t, i + 1 => nth d t i

/-- The list with `f` applied to its element `i`. -/
def modNth {α : Type} : List α → Nat → (α → α) → List α
  | [], _, _ => []
  | a :: t, 0, f => f a :: t
  | a :: t, i + 1, f => a :: modNth t i f

/-- The list with element `i` replaced. -/
def setNth {α : Type} (l : List α) (i : Nat) (v : α) : List α := modNth l i (fun _ => v)

/-- The sub-list of `n` elements from index `i`. -/
def slice {α : Type} (l : List α) (i n : Nat) : List α := (l.drop i).take n

/-- The list padded with `d` to length at least `n`. -/
def padTo {α : Type} (d : α) (n : Nat) (l : List α) : List α := l ++ List.replicate (n - l.length) d

/-- A byte list at exactly `n` bytes. -/
def fit (n : Nat) (l : List Byte) : List Byte := (padTo 0 n l).take n

/-- Insertion of `x` into a list sorted by `key`, ahead of entries of a larger key. -/
def insertBy {α : Type} (key : α → Nat) (x : α) : List α → List α
  | [] => [x]
  | y :: t => if key x < key y then x :: y :: t else y :: insertBy key x t

/-- Stable insertion sort by `key`, ascending. -/
def sortBy {α : Type} (key : α → Nat) (l : List α) : List α :=
  l.foldl (fun acc x => insertBy key x acc) []

/-- The indices of the set bits of `v` below `n`, ascending. -/
def setBitsOf (n v : Nat) : List Nat := (List.range n).filter (fun i => bit i v)

/-- The number of set bits of `v` below `n`. -/
def popCount (n v : Nat) : Nat := (setBitsOf n v).length

end Sys2Proof.Machine
end

