-- ==== Sys2Proof/Machine/Gale.lean ====
section
/-! DEFINITION. Gale, the counter-based random generator (R38 to R41). -/

namespace Sys2Proof.Machine

/-- The four 32-bit words of the generator. -/
structure GaleSt where
  x0 : W32
  x1 : W32
  x2 : W32
  x3 : W32
  deriving DecidableEq, Repr

/-- One round of R38 with the round constant `w`. -/
def galeRound (k0 k1 w : W32) (s : GaleSt) : GaleSt :=
  let x0 := s.x0 + s.x1 + k0
  let x3 := (s.x3 ^^^ x0).rotateLeft 16
  let x2 := s.x2 + x3 + k1
  let x1 := (s.x1 ^^^ x2).rotateLeft 12
  let x0 := x0 + x1 + w
  let x3 := (x3 ^^^ x0).rotateLeft 8
  let x2 := x2 + x3
  let x1 := (x1 ^^^ x2).rotateLeft 20
  { x0 := x0, x1 := x3, x2 := x2, x3 := x1 }

/-- The round constant `w[j]` (R38). -/
def galeW (j : Nat) : W32 := BitVec.ofNat 32 (j * 0x9E3779B9)

/-- The generator: a 64-bit key and a 128-bit counter give 128 bits (R38). -/
def gale (key ctr : Nat) : Nat :=
  let k0 := BitVec.ofNat 32 key
  let k1 := BitVec.ofNat 32 (key / 2 ^ 32)
  let s0 : GaleSt :=
    { x0 := BitVec.ofNat 32 ctr, x1 := BitVec.ofNat 32 (ctr / 2 ^ 32),
      x2 := BitVec.ofNat 32 (ctr / 2 ^ 64), x3 := BitVec.ofNat 32 (ctr / 2 ^ 96) }
  let s := (List.range 10).foldl (fun s j => galeRound k0 k1 (galeW (j + 1)) s) s0
  s.x0.toNat + s.x1.toNat * 2 ^ 32 + s.x2.toNat * 2 ^ 64 + s.x3.toNat * 2 ^ 96

/-- The key of a tensor (R39). -/
def galeKey (seed ident : Nat) : Nat :=
  gale seed (0xFF * 2 ^ 80 + ident % 2 ^ 32) % 2 ^ 64

/-- The 16-bit slice of an element (R40, R41). -/
def galeSlice (seed ident step stream ei : Nat) : Nat :=
  let ctr := step % 2 ^ 40 * 2 ^ 88 + stream % 256 * 2 ^ 80 + ei / 8 % 2 ^ 80
  gale (galeKey seed ident) ctr / 2 ^ (16 * (ei % 8)) % 2 ^ 16

/-- The twelve bits a stochastic rounding draws (R41). -/
def galeR12 (seed ident step stream ei : Nat) : Nat := galeSlice seed ident step stream ei % 4096

end Sys2Proof.Machine
end

