-- ==== Sys2Proof/Machine/Num.lean ====
section
/-! DEFINITION. The number formats: exact values, one rounding, the formats Pearl16, Bead8, Opal32, Facet8
and the grid codes, with the conversion tallies they count (R11 to R37). -/

namespace Sys2Proof.Machine

/-- A decoded operand: NaN or void, an infinity, or the exact value `m * 2^e` (R12 to R17). -/
inductive Num where
  | nan
  | inf (neg : Bool)
  | fin (m e : Int)
  deriving DecidableEq, Repr

/-- The magnitude of an exact result: `m * 2^e`, `(n / d) * 2^e`, or the square root of `m * 2^e` (R23). -/
inductive Mag where
  | dy (m : Nat) (e : Int)
  | ratio (n d : Nat) (e : Int)
  | root (m : Nat) (e : Int)
  deriving DecidableEq, Repr

/-- An exact result before its one rounding. -/
inductive Res where
  | nan
  | inf (neg : Bool)
  | fin (neg : Bool) (mag : Mag)
  deriving DecidableEq, Repr

/-- A rounding mode, the twelve random bits of a stochastic one already drawn (R23, R25). -/
inductive Rnd where
  | away
  | stoch (r : Nat)
  deriving DecidableEq, Repr

/-- The counts one conversion adds to its unit's tallies (R37). -/
structure Counts where
  sat : Nat := 0
  ovf : Nat := 0
  flush : Nat := 0
  nonfin : Nat := 0
  deriving DecidableEq, Repr

/-- The sum of two conversions' counts. -/
def Counts.add (a b : Counts) : Counts :=
  { sat := a.sat + b.sat, ovf := a.ovf + b.ovf, flush := a.flush + b.flush, nonfin := a.nonfin + b.nonfin }

/-- No counts. -/
def Counts.zero : Counts := {}

/-! ### Exact magnitudes -/

/-- Integer square root, by the bits from `k` down. -/
def isqrtFrom : Nat → Nat → Nat → Nat
  | 0, n, r => if (r + 1) * (r + 1) ≤ n then r + 1 else r
  | k + 1, n, r =>
    let c := r + 2 ^ (k + 1)
    isqrtFrom k n (if c * c ≤ n then c else r)

/-- Integer square root. -/
def isqrt (n : Nat) : Nat := isqrtFrom (Nat.log2 n / 2 + 1) n 0

/-- `floor(mag / 2^u)`, and whether that division is exact. -/
def Mag.floorAt (u : Int) : Mag → Nat × Bool
  | .dy m e =>
    let k := e - u
    if 0 ≤ k then (m * 2 ^ k.toNat, true)
    else (m / 2 ^ (-k).toNat, m % 2 ^ (-k).toNat = 0)
  | .ratio n d e =>
    let k := e - u
    if 0 ≤ k then (n * 2 ^ k.toNat / d, n * 2 ^ k.toNat % d = 0)
    else (n / (d * 2 ^ (-k).toNat), n % (d * 2 ^ (-k).toNat) = 0)
  | .root m e =>
    let k := e - 2 * u
    if 0 ≤ k then
      let n := m * 2 ^ k.toNat
      let r := isqrt n
      (r, r * r = n)
    else
      let p := 2 ^ (-k).toNat
      let r := isqrt (m / p)
      (r, r * r * p = m)

/-- Whether the magnitude is zero. -/
def Mag.isZero : Mag → Bool
  | .dy m _ => m = 0
  | .ratio n _ _ => n = 0
  | .root m _ => m = 0

/-- `floor(log2 mag)` of a magnitude that is not zero. -/
def Mag.log2 : Mag → Int
  | .dy m e => (Nat.log2 m : Int) + e
  | .ratio n d e =>
    let k : Int := (Nat.log2 n : Int) - (Nat.log2 d : Int)
    let below : Bool := if 0 ≤ k then n < d * 2 ^ k.toNat else n * 2 ^ (-k).toNat < d
    (if below then k - 1 else k) + e
  | .root m e => ((Nat.log2 m : Int) + e) / 2

/-- The magnitude in units of `2^u`, rounded to an integer: ties away from zero (R24), or by the twelve
bits of a stochastic draw (R25). -/
def Mag.roundAt (u : Int) (rnd : Rnd) (g : Mag) : Nat :=
  let f := g.floorAt (u - 12)
  let lo := f.1 / 4096
  let t := f.1 % 4096
  match rnd with
  | .away => if 2048 ≤ t then lo + 1 else lo
  | .stoch r => if t = 0 then lo else if r < t then lo + 1 else lo

/-! ### Arithmetic on decoded operands (R30) -/

/-- Zero. -/
def Num.zero : Num := .fin 0 0

/-- The sign a value carries. -/
def Num.isNeg : Num → Bool
  | .nan => false
  | .inf n => n
  | .fin m _ => m < 0

/-- Neither NaN nor infinite. -/
def Num.isFinite : Num → Bool
  | .fin _ _ => true
  | _ => false

/-- Exactly zero. -/
def Num.isZero : Num → Bool
  | .fin m _ => m = 0
  | _ => false

/-- A finite value other than zero. -/
def Num.isNonzero : Num → Bool
  | .fin m _ => m ≠ 0
  | _ => false

/-- Negation. -/
def Num.neg : Num → Num
  | .nan => .nan
  | .inf n => .inf (!n)
  | .fin m e => .fin (-m) e

/-- Magnitude. -/
def Num.abs : Num → Num
  | .nan => .nan
  | .inf _ => .inf false
  | .fin m e => .fin m.natAbs e

/-- Exact sum. -/
def Num.add : Num → Num → Num
  | .nan, _ => .nan
  | _, .nan => .nan
  | .inf a, .inf b => if a = b then .inf a else .nan
  | .inf a, .fin _ _ => .inf a
  | .fin _ _, .inf b => .inf b
  | .fin m e, .fin n f =>
    if m = 0 then .fin n f
    else if n = 0 then .fin m e
    else if e ≤ f then .fin (m + n * 2 ^ (f - e).toNat) e
    else .fin (m * 2 ^ (e - f).toNat + n) f

/-- Exact difference. -/
def Num.sub (a b : Num) : Num := a.add b.neg

/-- Exact product. -/
def Num.mul : Num → Num → Num
  | .nan, _ => .nan
  | _, .nan => .nan
  | .inf a, .inf b => .inf (a != b)
  | .inf a, .fin n _ => if n = 0 then .nan else .inf (a != decide (n < 0))
  | .fin m _, .inf b => if m = 0 then .nan else .inf (b != decide (m < 0))
  | .fin m e, .fin n f => .fin (m * n) (e + f)

/-- The value times `2^n`, exactly. -/
def Num.scale (n : Int) : Num → Num
  | .nan => .nan
  | .inf s => .inf s
  | .fin m e => .fin m (e + n)

/-- The exact result that a decoded value is. -/
def Num.toRes : Num → Res
  | .nan => .nan
  | .inf n => .inf n
  | .fin m e => .fin (m < 0) (.dy m.natAbs e)

/-- Exact quotient; a finite nonzero value over +0 is an infinity of the dividend's sign (R101). -/
def Num.div : Num → Num → Res
  | .nan, _ => .nan
  | _, .nan => .nan
  | .inf _, .inf _ => .nan
  | .inf a, .fin n _ => .inf (a != decide (n < 0))
  | .fin _ _, .inf _ => .fin false (.dy 0 0)
  | .fin m e, .fin n f =>
    if n = 0 then (if m = 0 then .nan else .inf (m < 0))
    else .fin (decide (m < 0) != decide (n < 0)) (.ratio m.natAbs n.natAbs (e - f))

/-- Exact square root; a negative value gives NaN (R101). -/
def Num.sqrt : Num → Res
  | .nan => .nan
  | .inf true => .nan
  | .inf false => .inf false
  | .fin m e => if m < 0 then .nan else .fin false (.root m.natAbs e)

/-- `a < b` for two values neither of which is NaN. -/
def Num.lt : Num → Num → Bool
  | .inf a, .inf b => a && !b
  | .inf a, .fin _ _ => a
  | .fin _ _, .inf b => !b
  | .fin m e, .fin n f =>
    if e ≤ f then m < n * 2 ^ (f - e).toNat else m * 2 ^ (e - f).toNat < n
  | _, _ => false

/-- Whether the value is NaN or void. -/
def Num.isNan : Num → Bool
  | .nan => true
  | _ => false

/-- The same value. -/
def Num.eqv (a b : Num) : Bool := !a.isNan && !b.isNan && !a.lt b && !b.lt a

/-- The larger value; NaN when either is NaN (R101). -/
def Num.max (a b : Num) : Num := if a.isNan || b.isNan then .nan else if a.lt b then b else a

/-- The smaller value; NaN when either is NaN (R101). -/
def Num.min (a b : Num) : Num := if a.isNan || b.isNan then .nan else if b.lt a then b else a

/-! ### Floating-point formats -/

/-- A float format: its fraction bits, the exponent of its smallest normal value, and the code of its
largest finite magnitude. -/
structure Fmt where
  fb : Nat
  emin : Int
  maxCode : Nat
  deriving DecidableEq, Repr

/-- Pearl16 (R12). -/
def pearlFmt : Fmt := { fb := 8, emin := -62, maxCode := 0x7EFF }
/-- Bead8 (R14). -/
def beadFmt : Fmt := { fb := 3, emin := -9, maxCode := 0x7F }
/-- Opal32 (R15). -/
def opalFmt : Fmt := { fb := 23, emin := -126, maxCode := 0x7F7FFFFF }

/-- The magnitude code of a rounded result, as if the exponent range had no upper end (R24 to R26): the
exponent and fraction fields read as one number, so a carry out of the fraction moves the exponent. -/
def Fmt.code (f : Fmt) (rnd : Rnd) (g : Mag) : Nat :=
  if g.isZero then 0
  else
    let e := if f.emin ≤ g.log2 then g.log2 else f.emin
    (e - f.emin).toNat * 2 ^ f.fb + g.roundAt (e - f.fb) rnd

/-- Rounds an exact result into Opal32 (R15, R16, R26). -/
def toOpalR (rnd : Rnd) : Res → W32 × Counts
  | .nan => (0x7FC00000#32, {})
  | .inf n => (if n then 0xFF800000#32 else 0x7F800000#32, {})
  | .fin n g =>
    let c := opalFmt.code rnd g
    if opalFmt.maxCode < c then (if n then 0xFF800000#32 else 0x7F800000#32, { ovf := 1 })
    else if c = 0 then (0#32, {})
    else (BitVec.ofNat 32 (b2n n * 2 ^ 31 + c), {})

/-- Rounds an exact result into Pearl16 (R12, R13, R26). -/
def toPearlR (rnd : Rnd) : Res → BitVec 16 × Counts
  | .nan => (0x7F81#16, {})
  | .inf n => (if n then 0xFF00#16 else 0x7F00#16, {})
  | .fin n g =>
    let c := pearlFmt.code rnd g
    if pearlFmt.maxCode < c then (if n then 0xFF00#16 else 0x7F00#16, { ovf := 1 })
    else if c = 0 then (0#16, {})
    else (BitVec.ofNat 16 (b2n n * 2 ^ 15 + c), {})

/-- Rounds an exact result into Bead8 (R14, R26, R29). -/
def toBeadR (rnd : Rnd) : Res → Byte × Counts
  | .nan => (0x80#8, {})
  | .inf _ => (0x80#8, { nonfin := 1 })
  | .fin n g =>
    let c := beadFmt.code rnd g
    if beadFmt.maxCode < c then (if n then 0xFF#8 else 0x7F#8, { sat := 1 })
    else if c = 0 then (0#8, {})
    else (BitVec.ofNat 8 (b2n n * 2 ^ 7 + c), {})

/-- Decodes Opal32; a −0 pattern reads as +0 (R15, R16). -/
def ofOpal (w : W32) : Num :=
  let v := w.toNat
  let e := bits 30 23 v
  let f := bits 22 0 v
  let s : Int := if bit 31 v then -1 else 1
  if e = 255 then (if f = 0 then .inf (bit 31 v) else .nan)
  else if e = 0 then .fin (s * (f : Nat)) (-149)
  else .fin (s * ((2 ^ 23 + f : Nat) : Int)) ((e : Int) - 150)

/-- Decodes Pearl16 (R12, R13). -/
def ofPearl (w : BitVec 16) : Num :=
  let v := w.toNat
  let e := bits 14 8 v
  let f := bits 7 0 v
  let s : Int := if bit 15 v then -1 else 1
  if e = 127 then (if f = 0 then .inf (bit 15 v) else .nan)
  else if e = 0 then .fin (s * (f : Nat)) (-70)
  else .fin (s * ((256 + f : Nat) : Int)) ((e : Int) - 71)

/-- Decodes Bead8; code 0x80 is void (R14). -/
def ofBead (w : Byte) : Num :=
  let v := w.toNat
  let e := bits 6 3 v
  let f := bits 2 0 v
  let s : Int := if bit 7 v then -1 else 1
  if v = 0x80 then .nan
  else if e = 0 then .fin (s * (f : Nat)) (-12)
  else .fin (s * ((8 + f : Nat) : Int)) ((e : Int) - 13)

/-- Decodes a Facet8 code under an effective shift; `-128` is a zero block (R17). -/
def ofFacet (code : Byte) (shift : Int) : Num :=
  if shift = -128 then .zero
  else if code = 0x80#8 then .nan
  else .fin code.toInt shift

/-- One Opal32 rounding of an exact value, ties away (R24). -/
def opal (x : Num) : W32 := (toOpalR .away x.toRes).1

/-- One ties-away Opal32 rounding, read back as a value: the round32 of the vector and row rules. -/
def round32 (x : Num) : Num := ofOpal (opal x)

/-- Round32 of an exact result that need not be dyadic. -/
def round32R (x : Res) : Num := ofOpal (toOpalR .away x).1

/-- Opal32 sum with one rounding. -/
def oadd (a b : W32) : W32 := opal ((ofOpal a).add (ofOpal b))

/-! ### Facet8 (R17 to R20, R32 to R35) -/

/-- The integer code of a finite value on a shift, before any clip. -/
def facetInt (rnd : Rnd) (t : Int) (x : Num) : Int :=
  match x with
  | .fin m e => (if m < 0 then -1 else 1) * ((Mag.dy m.natAbs e).roundAt t rnd : Int)
  | _ => 0

/-- The smallest shift that holds the magnitude of a finite nonzero value, limited to −127 … 127 (R32). -/
def facetShiftOf : Num → Int
  | .fin m e =>
    let l := (Nat.log2 m.natAbs : Int) + e
    let t := l - 6
    let k := e - t
    let fits : Bool := if 0 ≤ k then m.natAbs * 2 ^ k.toNat ≤ 127 else m.natAbs ≤ 127 * 2 ^ (-k).toNat
    let t := if fits then t else t + 1
    if t < -127 then -127 else if 127 < t then 127 else t
  | _ => 0

/-- The larger of two optional shifts. -/
def maxShift : Option Int → Option Int → Option Int
  | none, b => b
  | a, none => a
  | some a, some b => some (if a < b then b else a)

/-- The shift R32 step 3 would choose for a set, where it holds a finite nonzero element. -/
def facetSetShift (xs : List Num) : Option Int :=
  xs.foldl (fun acc x => if x.isNonzero then maxShift acc (some (facetShiftOf x)) else acc) none

/-- One element onto a shift: void where it is not finite, the code otherwise, with its counts (R33, R34). -/
def facetElem (rnd : Rnd) (t : Int) (x : Num) : Byte × Counts :=
  match x with
  | .nan => (0x80#8, {})
  | .inf _ => (0x80#8, { nonfin := 1 })
  | .fin _ _ =>
    let c := facetInt rnd t x
    if 127 < c then (0x7F#8, { sat := 1 })
    else if c < -127 then (0x81#8, { sat := 1 })
    else (BitVec.ofInt 8 c, { flush := b2n (x.isNonzero && c = 0) })

/-- Elements of one set onto a given shift, each with its own rounding (R33). -/
def facetGiven (t : Int) : List (Num × Rnd) → List Byte × Counts
  | [] => ([], {})
  | (x, r) :: rest =>
    let e := facetElem r t x
    let o := facetGiven t rest
    (e.1 :: o.1, e.2.add o.2)

/-- The shift of a set in chosen-shift mode (R32): −128 for a zero block, 0 where only non-finite elements
stand among zeros. -/
def facetChosenShift (xs : List Num) : Int :=
  match facetSetShift xs with
  | some t => t
  | none => if xs.all Num.isZero then -128 else 0

/-- Encodes a set in chosen-shift mode: its shift, codes and counts (R32, R34). -/
def facetChosen (xs : List (Num × Rnd)) : Int × List Byte × Counts :=
  let t := facetChosenShift (xs.map (·.1))
  if t = -128 then (t, xs.map (fun _ => 0#8), {})
  else (t, facetGiven t xs)

/-- The base shift of a two-level set of groups (R35). -/
def twoLevelBase (groups : List (List Num)) : Int :=
  match groups.foldl (fun acc g => maxShift acc (facetSetShift g)) none with
  | some t => if t - 15 < -127 then -127 else t - 15
  | none => if groups.all (fun g => g.all Num.isZero) then -128 else 0

/-- The 4-bit offset of one group under a base (R35). -/
def twoLevelOffset (base : Int) (g : List Num) : Nat :=
  match facetSetShift g with
  | some t => if base = -128 then 0 else (t - base).toNat
  | none => 0

/-- Encodes one group of a two-level set (R35). -/
def twoLevelGroup (base : Int) (g : List (Num × Rnd)) : Nat × List Byte × Counts :=
  let off := twoLevelOffset base (g.map (·.1))
  if base = -128 then (0, g.map (fun _ => 0#8), {})
  else (off, facetGiven (base + off) g)

/-- Two offsets packed into one byte (R20). -/
def packNibbles : List Nat → List Byte
  | a :: b :: t => BitVec.ofNat 8 (a + 16 * b) :: packNibbles t
  | [a] => [BitVec.ofNat 8 a]
  | [] => []

/-! ### Grid codes (R21, R22, R29) -/

/-- A clip to the symmetric range of an `n`-bit grid code, and whether it clipped (R22). -/
def gridClip (n : Nat) (c : Int) : Int × Bool :=
  let top : Int := (2 ^ (n - 1) : Nat) - 1
  if top < c then (top, true) else if c < -top then (-top, true) else (c, false)

/-- What one value becomes on a grid: its code, whether it saturated, whether it was non-finite. -/
structure GridOut where
  code : Int
  sat : Bool
  nf : Bool
  deriving DecidableEq, Repr

/-- Rounds a value onto the grid of exponent `g` in `n` bits, ties away (R21, R26, R29). -/
def toGrid (n : Nat) (g : Int) (x : Num) : GridOut :=
  match x with
  | .fin _ _ =>
    let c := gridClip n (facetInt .away (g - 15) x)
    { code := c.1, sat := c.2, nf := false }
  | _ => { code := 0, sat := false, nf := true }

/-- The counts a grid conversion adds. -/
def GridOut.counts (o : GridOut) : Counts := { sat := b2n o.sat, nonfin := b2n o.nf }

/-- A received `n`-bit grid code, the pattern of the most negative number read as the end of the range with
the saturation flag (R21). -/
def gridDecode (n v : Nat) : Int × Bool := gridClip n (sgn n v)

/-- The value of a grid code. -/
def gridVal (g c : Int) : Num := .fin c (g - 15)

/-! ### The four storage formats of a tensor by code (R533) -/

/-- The element width in bytes of a format code. -/
def fmtWidth (c : Nat) : Nat :=
  match c with
  | 0 => 2 | 1 => 4 | 2 => 1 | 3 => 1 | 4 => 2 | 5 => 4 | 6 => 6 | _ => 1

/-- Decodes the raw bits of an element of format code 0 to 3, a Facet8 one under `shift`. -/
def ofRaw (fmt : Nat) (shift : Int) (v : Nat) : Num :=
  match fmt with
  | 0 => ofPearl (BitVec.ofNat 16 v)
  | 1 => ofOpal (BitVec.ofNat 32 v)
  | 2 => ofBead (BitVec.ofNat 8 v)
  | _ => ofFacet (BitVec.ofNat 8 v) shift

/-- Rounds an exact result into a float format code 0 to 2, as raw bits with the counts. -/
def toRaw (fmt : Nat) (rnd : Rnd) (x : Res) : Nat × Counts :=
  match fmt with
  | 0 => let r := toPearlR rnd x; (r.1.toNat, r.2)
  | 1 => let r := toOpalR .away x; (r.1.toNat, r.2)
  | _ => let r := toBeadR rnd x; (r.1.toNat, r.2)

end Sys2Proof.Machine
end

