-- ==== Sys2Proof/Machine/Units.lean ====
section
/-! DEFINITION. The parts of the machine's state, unit by unit: memories, the array, the vector engine,
the unit streams, the counters. -/

namespace Sys2Proof.Machine

/-- A byte memory: the listed bytes, strictly rising by address and none equal to what an unlisted address
reads as. An unlisted byte reads as 0, or, after loss number `g` of the contents, as a free value below the flash;
`groups` holds the loss number of each scratchpad bank group that has been off since. -/
structure Memory where
  cells : List Host.Cell := []
  lost : Option Nat := none
  groups : Tab Nat := []
  deriving DecidableEq, Repr

/-- Array modes (R62, R65). -/
inductive ArrMode where
  | whole | twin | deferred
  deriving DecidableEq, Repr

/-- The area a product occupies (R62, R87). -/
inductive Area where
  | whole | west | east
  deriving DecidableEq, Repr

/-- The word that waits for the words it prefixes (R64, R66). -/
inductive Lead where
  | none | twin | que
  deriving DecidableEq, Repr

/-- A queued weight-gradient product (R66). -/
structure DefEntry where
  part : Part
  w : AWord
  deriving DecidableEq, Repr

/-- An array instruction that has issued and not yet written its last group or accumulator (R84). -/
structure ArrFlight where
  part : Part
  op : AOp
  w : AWord
  /-- The area a product occupies; none for the other instructions. -/
  area : Option Area
  /-- The AACC of a twin pair, which ends with its AMMT (R64). -/
  mate : Option AWord := none
  /-- A deferred entry that an ADRN, or an entry that finds the queue full, makes the array stream run (R66, R67). -/
  drained : Bool := false
  deriving DecidableEq, Repr

/-- The matrix array with the weight shelf, the scale registers and the accumulator store. -/
structure ArrayUnit where
  mode : ArrMode := .whole
  colr : Bool := false
  /-- Two banks of 4,096 shifts: bank b at byte 4,096 b (R74). -/
  scale : Memory := {}
  /-- Accumulator i at bytes 4i to 4i + 3 (R77). -/
  acc : Memory := {}
  plain : Memory := {}
  trans : Memory := {}
  /-- Shelf region entries whose transposed-valid mark is set, as (partition, tensor entry) (R72). -/
  tvalid : List (Nat × Nat) := []
  /-- Oldest first (R66). -/
  defq : List DefEntry := []
  flying : List ArrFlight := []
  /-- Bit errors that no read has met: the store (0 accumulators, 1 plain copy, 2 transposed copy, 3 scale
  registers), the 64-bit word, and whether the code corrects it. They come from outside (R86). -/
  errs : List (Nat × Nat × Bool) := []
  /-- Issue duty in sixteenths (R441). -/
  duty : Nat := 16
  deriving DecidableEq, Repr

/-- The unit a vector instruction occupies (R97). -/
inductive VUnit where
  | none | load | store | pipe | pipeRed | red | mask
  deriving DecidableEq, Repr

/-- A vector instruction that has issued and not yet written its destination (R99). -/
structure VecFlight where
  part : Part
  op : VOp
  w : VWord
  /-- The pipe it runs on, for a pipe instruction (R100). -/
  pipe : Option Nat := none
  deriving DecidableEq, Repr

/-- The vector engine: tile t row i at byte 2,048 t + 64 i, shift lane entry at 32 t + i, mask register k
row i at 128 k + 4 i, slot n of the polynomial table at 1,040 n. -/
structure VectorUnit where
  tile : Memory := {}
  lane : Memory := {}
  mask : Memory := {}
  poly : Memory := {}
  flying : List VecFlight := []
  deriving DecidableEq, Repr

/-- A word of a unit stream (R245, R246). -/
inductive SWord where
  | arr (op : AOp) (w : AWord)
  | vec (op : VOp) (w : VWord)
  | sat (cyc : Nat)
  | scue (cue : Nat)
  | sarr (cue : Nat)
  | send
  | pwake (mask : W64)
  | pgateOff (mask : W64)
  | pgateRetain (mask : W64)
  | dmaq (desc : Nat) (chan : ChanNum)
  | lkg (group : Group) (phase : Nat)
  | xch (entry : XIx)
  deriving DecidableEq, Repr

/-- One unit's stream of one job (R245, R247). -/
structure Stream where
  /-- The cue point the stream waits at. -/
  wait : Option Nat := none
  /-- The anchor, as a core-cycle count. -/
  anchor : Nat := 0
  /-- The next word issues no earlier than this core cycle. -/
  earliest : Nat := 0
  /-- Past the gate cue point: in the update segment (R258). -/
  gated : Bool := false
  ended : Bool := false
  lead : Lead := .none
  /-- Words taken from the stream that have not issued, oldest first. -/
  held : List SWord := []
  /-- Core cycle at which a hold of the oldest held word began, and whether it waits for a domain. -/
  heldAt : Option Nat := none
  heldWake : Bool := false
  /-- Cycles of the holds of that word that ended before, for another cause: held, and waiting for a domain. -/
  heldCyc : Nat := 0
  wakeCyc : Nat := 0
  /-- Deferred entries that an ADRN of the stream has still to run (R67). -/
  drain : Nat := 0
  /-- Core cycle at which the stream arrived at the cue point it waits at. -/
  waitAt : Nat := 0
  /-- Index of the next word in the stream. -/
  index : Nat := 0
  deriving DecidableEq, Repr

/-- One counter block (R478). -/
structure CtrBlk where
  ovf : Nat := 0
  sel : List Nat := List.replicate 8 0xF00000
  val : List Nat := List.replicate 8 0
  tly : List Nat := List.replicate 4 0
  alo : Nat := 0
  ahi : Nat := 0
  deriving DecidableEq, Repr

/-- One table counter (R484). -/
structure TblCtr where
  total : Nat := 0
  ovf : Bool := false
  step : Nat := 0
  run : Nat := 0
  deriving DecidableEq, Repr

/-- The lateness counters of one cue point (R485). -/
structure CueCtr where
  last : Nat := 0
  max : Nat := 0
  sum : Nat := 0
  deriving DecidableEq, Repr

/-- The counters a Frost copies (R492). -/
structure CtrSet where
  cycCore : Nat := 0
  cycM : Nat := 0
  blk : Tab CtrBlk := []
  /-- Table counter i of table t of partition p at key (4,096 p + t) 12 + i. -/
  tbl : Tab TblCtr := []
  /-- Cue point c of partition p at key 4,096 p + c. -/
  cue : Tab CueCtr := []
  /-- Byte counts of the window in progress, by channel, and its start time (R489, R490). -/
  win : Tab Nat := []
  winStart : Nat := 0
  bwIdx : Nat := 0
  deriving DecidableEq, Repr

/-- A Frost request register set (R492). -/
structure Frost where
  mode : Nat := 0
  target : Nat := 0
  seq : Nat := 0
  res : Nat := 0
  done : Bool := false
  armed : Bool := false
  capTime : Nat := 0
  capSeal : Nat := 0
  set : CtrSet := {}
  deriving DecidableEq, Repr

/-- A trace configuration (R487). -/
structure TraceCfg where
  size : Nat := 0
  ovw : Bool := false
  srcm : Nat := 0
  n : Nat := 0
  base : Nat := 0
  trp : Nat := 0
  trc : Nat := 0
  drop : Nat := 0
  deriving DecidableEq, Repr

/-- The counter island (R478 to R497). -/
structure Island where
  live : CtrSet := {}
  frost : List Frost := List.replicate 5 {}
  trace : List TraceCfg := List.replicate 4 {}
  /-- Countdown of source s of partition p at key 32 p + s (R488). -/
  down : Tab Nat := []
  /-- Samples that are due and not yet written, at the same keys. -/
  due : Tab Nat := []
  xsel : Nat := 0
  bwLen : Nat := 1000000
  /-- Entry of channel c at slot k at key 64 c + k; the end times at 64 * 58 + k (R490). -/
  ring : Tab Nat := []
  /-- End of the window in progress when it was shortened (R491). -/
  shortEnd : Option Nat := none
  stepped : Bool := false
  shortNext : Bool := false
  vfrd : List Nat := [0, 0]
  deriving DecidableEq, Repr

end Sys2Proof.Machine
end

