-- ==== Sys2Proof/Machine/UnitsHost.lean ====
section
/-! DEFINITION. The parts of the machine's state towards the hosts: functions, rings, ports, events,
completions, counters of the ports; the module's power, clocks and time. -/

namespace Sys2Proof.Machine

/-- An event as it was raised (R382). -/
structure Event where
  code : Nat
  status : Nat := 0
  fn : Nat := 0xFFFF
  part : Option Part := none
  step : Nat := 0
  time : Nat := 0
  detail : List Nat := []
  deriving DecidableEq, Repr

/-- A write the device has posted to a host: its port, address, bytes and whether Relaxed Ordering is set. -/
structure HostTx where
  portB : Bool
  addr : Nat
  bytes : List Byte
  relaxed : Bool := false
  deriving DecidableEq, Repr

/-- How the latest bus access ended: read data, the completion status of a failed one, or the data abort of the
housekeeping controller (R130). -/
inductive BusRsp where
  | none
  | data (v : Nat)
  | bytes (b : List Byte)
  | poisoned (b : List Byte)
  | completerAbort
  | dataAbort
  | unsupported
  deriving DecidableEq, Repr

/-- A ring with its attributes (R366), its indices (R367) and its shadow (R368). -/
structure Ring where
  enable : Bool := false
  /-- An ENABLE write held until the module is ready (R434). -/
  enHeld : Bool := false
  fn : Nat := 0
  cls : Nat := 0
  kind : Nat := 0
  size : Nat := 0
  base : Nat := 0
  dbaddr : Nat := 0
  link : Nat := 0
  emask : Nat := 0
  vec : Nat := 0
  modc : Nat := 0
  modt : Nat := 0
  host : Nat := 0
  dev : Nat := 0
  age : Nat := 0
  cur : Nat := 0
  promoted : Bool := false
  err : Bool := false
  /-- Completion slots held for entries in progress. -/
  slots : Nat := 0
  /-- Commands consumed and not completed, and those of them consumed before a reset of the port. -/
  prog : List Cmd := []
  old : List Cmd := []
  /-- Entries written since the last interrupt, and when the first of them was written. -/
  unrep : Nat := 0
  unrepAt : Nat := 0
  /-- Events dropped (EVT_DROP), and those since the last entry was written. -/
  drop : Nat := 0
  dropNew : Nat := 0
  /-- Entries that the latest service may still deliver (R386). -/
  grant : Nat := 0
  /-- STEP of the BATCH that waits unconsumed at the head of the ring (R373). -/
  batchAt : Option Nat := none
  deriving DecidableEq, Repr

/-- A function's FN_ entry and its doorbell requests (R503, R370). -/
structure Fn where
  pv : Bool := false
  part : Part := 0
  tgrant : Bool := false
  det : Bool := false
  /-- The PF that has adopted the function's partition and not released the function (R394); 255 for none. -/
  adopter : Nat := 255
  poll : Nat := 0
  winbase : Nat := 0
  wakeAll : Bool := false
  wake : List RingNum := []
  /-- Rings whose doorbells a read under way returns. -/
  dbReads : List Nat := []
  noring : Nat := 0
  deriving DecidableEq, Repr

/-- A completion the port could not write during host-loss hold (R390, R395). -/
structure Kept where
  ring : RingNum
  isDesc : Bool
  status : Nat
  idx : Nat
  tag : Nat
  a : Nat
  b : Nat
  part : Part
  deriving DecidableEq, Repr

/-- A ring record of a reattach summary (R395). -/
structure RingRec where
  ring : RingNum
  part : Part
  kind : Nat
  err : Bool
  dev : Nat
  host : Nat
  deriving DecidableEq, Repr

/-- A PCI Express port (R361, R390, R506). -/
structure Port where
  up : Bool := false
  width : Nat := 0
  rate : Nat := 0
  /-- PERST# is asserted. -/
  perst : Bool := false
  hold : Bool := false
  holdStart : Nat := 0
  /-- Last seal reached at the start of host-loss hold, by partition. -/
  holdSeal : Tab Nat := []
  kept : List Kept := []
  keptRings : List RingRec := []
  evBuf : List Event := []
  evDropped : Bool := false
  evDropCount : Nat := 0
  /-- Reads of host memory under way, and those that a hold or an abort has discarded, by function. -/
  reads : List FnNum := []
  discarded : List FnNum := []
  weights : List Nat := [8, 4, 2, 1]
  limits : List Nat := [32, 64, 128]
  /-- Next ring number of the round-robin, by class. -/
  rr : List Nat := [0, 0, 0, 0]
  retrain : Nat := 0
  latedrop : Nat := 0
  /-- Configuration requests get Retry Status (R434). -/
  retryStatus : Bool := true
  deriving DecidableEq, Repr

/-- Module states (R433). -/
inductive ModState where
  | unpowered | off | boot | active | sleep
  deriving DecidableEq, Repr

/-- States of a switched domain (R429). -/
inductive DomState where
  | off | retain | waking | on
  deriving DecidableEq, Repr

/-- The state a plan's request names for a domain (R431). -/
inductive DomReq where
  | off | retain | on
  deriving DecidableEq, Repr

/-- A sleep or off request under way (R436, R439). -/
structure PwrReq where
  off : Bool
  force : Bool
  deriving DecidableEq, Repr

/-- Power and the module state. -/
structure Power where
  mst : ModState := .boot
  pd : List DomState := List.replicate 64 .off
  /-- Current request of partition p for domain d at key 64 p + d. -/
  req : Tab DomReq := []
  /-- Gates that wait for the end of a domain's use. -/
  gates : Tab DomReq := []
  pending : Option PwrReq := none
  regReq : Nat := 0
  regForce : Bool := false
  dpart : Nat := 0
  dtid : Nat := 0
  why : Nat := 0
  rstat : Nat := 0
  wait : Nat := 1000
  limit : Nat := 950
  sample : Nat := 0
  avg : Nat := 0
  /-- Samples of the averaging window, newest first (R441). -/
  samples : List Nat := []
  brake : Bool := false
  trip : Bool := false
  tripCause : Nat := 0
  /-- The trip is still to be recorded at the next boot. -/
  tripNew : Bool := false
  /-- REFCLK is present; it turned the module off when it went away (R524). -/
  refclk : Bool := true
  refOff : Bool := false
  /-- Device time at which the latest boot began. -/
  bootAt : Nat := 0
  hkDown : Bool := false
  /-- A wake has begun and has not ended (R438). -/
  waking : Bool := false
  /-- DRAM stacks that have trained in this boot. -/
  dramDone : List Nat := []
  /-- The boot ROM has verified the firmware; the boot has failed (R435). -/
  fwOk : Bool := false
  bootFailed : Bool := false
  dieTemp : List Int := [0, 0, 0]
  deriving DecidableEq, Repr

/-- Device time, its source and the calendar (R445 to R448, R353 to R355). -/
structure Time where
  now : Nat := 0
  /-- Crystal remainder, 6 bits (R446). -/
  rem : Nat := 0
  utc : Nat := 0
  valid : Bool := false
  calValid : Bool := false
  syncLost : Bool := false
  src : Nat := 0
  ptmInt : Nat := 10
  ptmOff : List Int := [0, 0]
  lead : Nat := 5000
  theta : Int := 0
  /-- Nanoseconds still to be slewed in (R354). -/
  slew : Int := 0
  /-- Nanoseconds since the slew last moved. -/
  slewAge : Nat := 0
  deriving DecidableEq, Repr

end Sys2Proof.Machine
end

