-- ==== Sys2Proof/Machine/UnitsJob.lean ====
section
/-! DEFINITION. The parts of the machine's state that belong to jobs and tables: tables, lookups, row records,
tiers, the running step, the veto token, the dense exchange, the redundant pair, re-shards. -/

namespace Sys2Proof.Machine

/-- A table descriptor (R133). -/
structure Desc where
  lbase : Nat := 0
  mbase : Nat := 0
  rowm1 : Nat := 0
  gen : Nat := 0
  ssz : Nat := 0
  opt : Nat := 0
  slog : Nat := 0
  tier : Nat := 0
  dimq : Nat := 1
  rnd : Bool := false
  pfmt : Nat := 0
  part : Nat := 0
  tid : Nat := 0
  deriving DecidableEq, Repr

/-- A placement entry (R200). -/
structure Place where
  pbase : Nat := 0
  pslots : Nat := 1024
  dbase : Nat := 0
  dlog : Nat := 12
  rbase : Nat := 0
  rslots : Nat := 256
  hlog : Nat := 0
  pthr : Nat := 0
  flo : Nat := 0
  fhi : Nat := 0
  dsh : Nat := 0
  tid : Nat := 0
  deriving DecidableEq, Repr

/-- A parameter block with its bias-correction products (R170). -/
structure Params where
  p : List W32 := List.replicate 16 0
  p1 : W32 := 0x3F800000
  p2 : W32 := 0x3F800000
  /-- The products formed for the running step, kept at its seal unless it is vetoed. -/
  next : Option (W32 × W32) := none
  deriving DecidableEq, Repr

/-- The check of a staged generation before its swap (R159, R188). -/
inductive ChkState where
  | idle | running | passed | failed
  deriving DecidableEq, Repr

/-- A staged generation (R158) and its commit (R159). -/
structure Staged where
  whole : Bool
  a : Nat
  b : Nat
  area : Nat
  rows : Nat
  commit : Option Cmd := none
  target : Nat := 0
  chk : ChkState := .idle
  newHash : Nat := 0
  deriving DecidableEq, Repr

/-- A shadowed record of an active export: the row, its place in the shadow area, and its size (R191). -/
structure ShadowEnt where
  row : Nat
  addr : Nat
  size : Nat
  deriving DecidableEq, Repr

/-- A Cameo export (R189 to R193). -/
structure Export where
  cmd : Cmd
  state : Bool
  chan : ChanNum
  c0 : Nat
  cc : Nat
  a : Nat
  b : Nat
  x : Nat
  shadow : Nat
  size : Nat
  active : Bool := false
  used : Nat := 0
  ents : List ShadowEnt := []
  /-- Rows each engine has still to walk, in order. -/
  todo : List (List Nat) := []
  written : Nat := 0
  /-- Rows not yet in a written Cameo record, shard by shard (R194). -/
  chunks : List (List Nat) := []
  /-- Entries of the Cameo record in progress: rows and their entry bytes. -/
  cur : List (Nat × List Byte) := []
  failRow : Nat := 0
  epoch : Nat := 0
  gen : Nat := 0
  /-- A failure that has ended the walk. -/
  fail : Option Nat := none
  deriving DecidableEq, Repr

/-- A digest build in the background (R187): rows each engine has still to walk. -/
structure Build where
  todo : List (List Nat)
  deriving DecidableEq, Repr

/-- A merge of a committed range into the home area (R221): rows still to merge and the staged area. -/
structure Merge where
  a : Nat
  b : Nat
  area : Nat
  rows : List Nat
  deriving DecidableEq, Repr

/-- The decay sweeps of one segment (R206). -/
structure Sweep where
  seg : Nat
  /-- The shift of each sweep that is due and has not run, the oldest first. -/
  shifts : List Nat := []
  deriving DecidableEq, Repr

/-- A pinned row (R180): its address and FRZ as the fetch read them. -/
structure Pin where
  row : Nat
  addr : Nat
  frz : Bool
  /-- The fetch found a failed record (R153). -/
  bad : Bool := false
  deriving DecidableEq, Repr

/-- A writeback handed to the translation layer (R217, R218). -/
structure Writeback where
  rows : List Nat
  pages : List Nat
  bytes : List (Nat × List Byte)
  urgent : Bool
  deriving DecidableEq, Repr

/-- One table of a partition. -/
structure Table where
  desc : Desc := {}
  par : Params := {}
  place : Option Place := none
  /-- The private copy of the shard map (R136). -/
  map : List Nat := []
  set : Nat := 0
  ranges : Tab Nat := []
  digOk : Bool := false
  build : Option Build := none
  staged : Option Staged := none
  exp : Option Export := none
  pins : List Pin := []
  /-- Rows of ranges whose storage a committed range generation has moved: (first, end, base), newest first. -/
  areas : List (Nat × Nat × Nat) := []
  /-- Pool and reserve slots in use (R201). -/
  usedPool : List Nat := []
  usedRes : List Nat := []
  /-- The clock hand, in windows of 64 pool slots, and the next home page to walk, by segment (R213, R215). -/
  hand : List Nat := List.replicate 16 0
  warm : List Nat := List.replicate 16 0
  sweeps : List Sweep := []
  wbs : List Writeback := []
  merge : Option Merge := none
  /-- Rows whose promotion read is under way, each with its slot (R210). -/
  promoting : List (Nat × Nat) := []
  /-- Rows whose eviction waits for a durable writeback (R212). -/
  evicting : List Nat := []
  /-- Tier flushes in progress: the command, its seal, and the rows it has still to make durable (R220). -/
  flushes : List (Cmd × Nat × List Nat) := []
  deriving DecidableEq, Repr

/-- A table operation that waits for the next seal (R133, R170, R200). -/
inductive TblOp where
  | define (d : Desc) (c : Cmd)
  | release (t : Nat) (c : Cmd)
  | place (e : Place) (c : Cmd)
  | param (xentry : Bool) (n : Nat) (reset : Bool) (ps : List W32) (c : Cmd)
  deriving DecidableEq, Repr

/-- A queued Forecast hint (R209). -/
structure Hint where
  tid : Nat
  row : Nat
  step : Nat
  deriving DecidableEq, Repr

/-- An intake under way: the BATCH command, its step, slot and length (R140, R375). -/
structure Intake where
  cmd : Cmd
  step : Nat
  len : Nat
  chan : ChanNum
  deriving DecidableEq, Repr

/-- A merged list that a sort unit works on (R143, R144). -/
structure SortJob where
  part : Part
  step : Nat
  group : Nat
  tid : Nat
  /-- The unit's domain is not powered yet. -/
  waiting : Bool := false
  deriving DecidableEq, Repr

/-- The result of one sort: the unique list and the inverse map of each feature (R143). -/
structure Sorted where
  step : Nat
  group : Nat
  tid : Nat
  uniq : List Nat
  inv : List (Nat × List Nat)
  deriving DecidableEq, Repr

/-- An entry of an index exchange: the row, its owner and the round it travels in (R146). -/
structure SplitEnt where
  tid : Nat
  row : Nat
  dst : Nat
  round : Nat
  deriving DecidableEq, Repr

/-- A received index message (R147) and the payload entries its fetches have returned so far. -/
structure IdxMsg where
  src : Nat
  round : Nat
  left : Nat
  ents : List (Nat × Nat)
  pay : Tab (List Byte) := []
  /-- Entries whose fetch waits for a promotion or a slot (R211). -/
  waits : List Nat := []
  sent : Bool := false
  deriving DecidableEq, Repr

/-- A received message of payload entries or of backward partials. -/
structure BodyMsg where
  src : Nat
  round : Nat
  body : List Byte
  /-- Places of forward entries without a gradient entry, as in a gradient message. -/
  evals : List Nat := []
  deriving DecidableEq, Repr

/-- One lookup group in one step. -/
structure LkpRun where
  group : Nat
  started : List Nat := []
  done : List Nat := []
  split : List SplitEnt := []
  idxIn : List IdxMsg := []
  payIn : List BodyMsg := []
  gradIn : List BodyMsg := []
  /-- Owner side: spill rounds pulled so far from each source, forward and backward. -/
  pulled : Tab Nat := []
  pulledB : Tab Nat := []
  pooled : Bool := false
  /-- Owner gradients, by (table, row): their columns as Opal32 (R167). -/
  grads : List ((Nat × Nat) × List W32) := []
  /-- Updates still to apply, by (table, row). -/
  todo : List (Nat × Nat) := []
  deriving DecidableEq, Repr

/-- The reports of one grid index in one step (R280). -/
structure GridRep where
  nf : Bool := false
  sat : Bool := false
  emax : Int := -128
  deriving DecidableEq, Repr

/-- What a module has raised for the token of a step (R255). -/
structure Reports where
  bits : W32 := 0
  grids : Tab GridRep := []
  deriving DecidableEq, Repr

/-- The sections a step can run (R251). -/
inductive StepKind where
  | start | steady | recov | selftest
  deriving DecidableEq, Repr

/-- Where a job stands. -/
inductive JobPhase where
  /-- A plan load or resume waits for its self-test. -/
  | testing
  /-- Ready for the first step: waits for the beacon. -/
  | ready
  | running
  /-- Between seal N and the start of step N + 1. -/
  | sealed
  | held
  deriving DecidableEq, Repr

/-- A received contribution of a dense exchange message (R276, R278). -/
structure DenseIn where
  entry : Nat
  kind : Nat
  src : Nat
  first : Nat
  units : Nat
  body : List Byte
  deriving DecidableEq, Repr

/-- A shard of an all-gather as a receiver holds it (R293, R294). -/
structure ShardIn where
  entry : Nat
  owner : Nat
  /-- Payload units received, by unit number. -/
  units : Tab (List Byte) := []
  tries : Nat := 0
  suspect : Bool := false
  /-- A resume has asked its owner for it and has not settled it (R294). -/
  refresh : Bool := false
  digest : Option Nat := none
  deriving DecidableEq, Repr

/-- Work of one exchange entry in one step (R270). -/
structure XRun where
  entry : Nat
  done : Bool := false
  /-- Release chunks released, updated, of this module's shard. -/
  released : List Nat := []
  updated : List Nat := []
  hashSent : Bool := false
  /-- Owner gradients of released chunks, by chunk. -/
  g : Tab (List W32) := []
  deriving DecidableEq, Repr

/-- A re-shard that has been accepted and has not ended (R323 to R331). -/
structure Reshard where
  cmd : Cmd
  plan : Plan
  /-- T1 address of the new plan's image. -/
  image : Nat := 0
  target : Nat
  epoch : Nat
  /-- The check of the new plan has ended. -/
  checked : Bool := false
  /-- The module's own ready vote and commit vote, once made. -/
  ready : Option Bool := none
  voted : Option Bool := none
  aborted : Bool := false
  /-- The ready vote gave 1: the permute is in its moves; they have been sent. -/
  started : Bool := false
  moved : Bool := false
  /-- Outgoing moves that their receivers have not acknowledged. -/
  acks : Nat := 0
  /-- Rows written into new areas, and dense elements received: (key, role, first element, bytes). -/
  rowsIn : List (Nat × Nat × List Byte) := []
  denseIn : List (Nat × Nat × Nat × List Byte) := []
  /-- Status of the module's own failed check or move. -/
  fail : Option Nat := none
  deriving DecidableEq, Repr

/-- The redundant pair (R300 to R309). -/
structure Twin where
  /-- A PAIR command waits for the resume. -/
  cmd : Option Cmd := none
  paired : Bool := false
  agreed : Option Nat := none
  logBase : Nat := 0
  logSize : Nat := 0
  logPtr : Nat := 0
  /-- The twin's token result and message of the step. -/
  token : Option Token := none
  msg : Option (Nat × Nat × Bool × Bool) := none
  /-- The module's own twin message. -/
  own : Option (Nat × Nat × Bool × Bool) := none
  ownAt : Nat := 0
  /-- The modules differ: repair under way. -/
  mismatch : Bool := false
  round : Nat := 0
  items : Nat := 0
  /-- The twin's history is clean; each fabric's history is clean. -/
  twinClean : Bool := true
  fabOwn : Option Bool := none
  fabTwin : Option Bool := none
  /-- The bisection has begun. -/
  begun : Bool := false
  /-- Rows and dense blocks found to differ and not repaired: (kind, table or entry, role, row or block). -/
  diff : List (Nat × Nat × Nat × Nat) := []
  /-- The twin's copies of items that this module has still to find. -/
  early : List RepairItem := []
  /-- Error history size at the agreed seal. -/
  histAt : Nat := 0
  /-- Failed records asked of the twin. -/
  asked : List (Nat × Nat) := []
  deriving DecidableEq, Repr

/-- Contributions received for one kind of tree message of one step. -/
structure TreeSt where
  /-- Children heard from. -/
  kids : List Nat := []
  own : Bool := false
  hold : Bool := false
  vote : Bool := true
  deriving DecidableEq, Repr

/-- The state of a PAUSE or RESUME command (R376, R377). -/
structure JobCmds where
  pause : List Cmd := []
  resume : Option Cmd := none
  abort : List Cmd := []
  deriving DecidableEq, Repr

/-- A block partial of a query row: row maximum, row sum, weighted values; none where every key of the block is masked
(R321). -/
structure SeqPart where
  seq : Nat
  row : Nat
  blk : Nat
  val : Option (W32 × W32 × List W32)
  deriving DecidableEq, Repr

/-- The job of one partition. -/
structure Job where
  plan : Plan
  next : Option Plan := none
  /-- The plan in force while a replacement runs its self-test. -/
  prev : Option Plan := none
  owner : FnNum := 0
  phase : JobPhase := .testing
  kind : StepKind := .steady
  step : Nat := 0
  lastSeal : Option Nat := none
  startLeft : Nat := 0
  recLeft : Nat := 0
  /-- The module has slept since: the resume reloads the plan's constants and polynomial table (R438). -/
  slept : Bool := false
  /-- A resume, not a first load, waits for the self-test. -/
  resuming : Bool := false
  loadCmd : Option Cmd := none
  cmds : JobCmds := {}
  /-- Readiness reported for start or resume. -/
  readyOwn : Bool := false
  started : Bool := false
  /-- Items 7 to 9 of the work at the last seal wait for its re-shard (R262, R324). -/
  sealWork : Bool := false
  /-- Self-test passed since the last load or resume. -/
  testOk : Bool := false
  testDig : Nat := 0
  /-- Tensor entries that the dumps of the running self-test have written (R244). -/
  dumped : List Nat := []
  stepStart : Nat := 0
  seqS : Stream := {}
  arrS : Stream := {}
  vecS : Stream := {}
  /-- (cue point, unit number) arrivals and fired cue points of the step. -/
  arrived : List (Nat × Nat) := []
  fired : List Nat := []
  contributed : Bool := false
  token : Option Token := none
  gate : Bool := false
  vetoed : Bool := false
  sealSent : Bool := false
  /-- HOLD of this module's next seal-wave contribution, and of the combined wave. -/
  hold : Bool := false
  waveHold : Bool := false
  abandoned : Bool := false
  withdrawn : Bool := false
  completing : Bool := false
  ls : Int := 0
  growth : Nat := 0
  rep : Reports := {}
  repNext : Reports := {}
  grid : Tab Int := []
  epoch : Nat := 0
  sealedCount : Nat := 0
  vetoedCount : Nat := 0
  /-- BATCH commands that have been consumed and whose intake has not started yet, with their steps (R538). -/
  taken : List (Cmd × Nat) := []
  /-- Accepted batches: their steps. -/
  accepted : List Nat := []
  sorted : List Sorted := []
  runs : List LkpRun := []
  xruns : List XRun := []
  dense : List DenseIn := []
  /-- Release chunks of each RF entry that are complete, in the order in which they became so (R287). -/
  chunkOrder : Tab (List Nat) := []
  shards : List ShardIn := []
  /-- Residual selectors that stand at 1, by RQ entry (R277). -/
  sels : List Nat := []
  /-- Parameter blocks of RF entries (R288). -/
  rfPar : Tab Params := []
  /-- Dense digests by key 5 entry + role (R295). -/
  denseDig : Tab Nat := []
  consumed : List Nat := []
  /-- LKG and XCH words that the vetoed step skipped (R258). -/
  skipped : List SWord := []
  /-- Flush tensors that hold values not yet consumed, by key. -/
  flushes : List Nat := []
  twin : Twin := {}
  reshard : Option Reshard := none
  tokTree : TreeSt := {}
  sealTree : TreeSt := {}
  startTree : TreeSt := {}
  resTree : TreeSt := {}
  readyTree : TreeSt := {}
  commitTree : TreeSt := {}
  histTree : TreeSt := {}
  tokAcc : Option Token := none
  /-- The combined token result that has come and is not yet stored. -/
  tokRes : Option Token := none
  /-- The result of the seal wave has come. -/
  waveIn : Bool := false
  /-- Fabric time at which the next step starts, from the beacon. -/
  beacon : Option Nat := none
  lateBeacons : Nat := 0
  intakes : List Intake := []
  hints : List Hint := []
  /-- Expert tokens received: (slot table, slot, token); and the rows of each slot as the replica lays them out, by
65,536 table + slot (R318, R319). -/
  expertIn : List (Nat × Nat × ExpTok) := []
  expertLay : Tab (List (List Byte)) := []
  /-- Sequence blocks received, block partials that wait, and the output rows, by 2^32 sequence + row (R320, R321). -/
  seqIn : List BodyMsg := []
  parts : List SeqPart := []
  seqOut : Tab (List Nat) := []
  deriving DecidableEq, Repr

end Sys2Proof.Machine
end

