-- ==== Sys2Proof/Machine/UnitsFab.lean ====
section
/-! DEFINITION. The parts of the machine's state towards the fabric, the DMA channels, the flash and its
governor, the DRAM stacks, the lifetime counts, and security. -/

namespace Sys2Proof.Machine

/-- Link states, in the code of LNK_STAT (R511). -/
inductive LinkState where
  | down | training | full | degraded | dead | loop
  deriving DecidableEq, Repr

/-- Virtual channels (R340). -/
inductive VC where
  | bulk | coll | ctl
  deriving DecidableEq, Repr

/-- A 64-byte slot with its start and end marks (R336). -/
structure Slot where
  som : Bool
  eom : Bool
  bytes : List Byte
  deriving DecidableEq, Repr

/-- One Kolran link (R335 to R341, R356, R357). -/
structure LinkSt where
  st : LinkState := .down
  lanes : Byte := 0
  paddr : NodeAddr := 0
  plink : BitVec 5 := 0
  /-- Sender: next SEQ, data frames not yet acknowledged, frames to resend. -/
  txSeq : Nat := 0
  replay : List Frame := []
  resend : List Frame := []
  /-- Messages of which the partner has not acknowledged every slot, by channel, oldest first. -/
  sent : List (VC × LinkMsg) := []
  /-- Credits sent in idle and request frames, with the SEQ of each, which no ACK covers yet. -/
  idle : List (Nat × Nat × Nat × Nat) := []
  /-- Receiver: next SEQ expected, whether frames are discarded until a replay, SEQ of the latest one discarded. -/
  rxSeq : Nat := 0
  discarding : Bool := false
  seen : Option Nat := none
  reqOut : Bool := false
  /-- Replay requests received that name one SEQ in a row. -/
  reqSeq : Nat := 0
  reqRun : Nat := 0
  credB : Nat := 512
  credC : Nat := 1024
  credK : Nat := 128
  retB : Nat := 0
  retC : Nat := 0
  retK : Nat := 0
  outB : List Slot := []
  outC : List Slot := []
  outK : List Slot := []
  /-- Weighted round-robin: turns left of collective and bulk. -/
  turnC : Nat := 3
  turnB : Nat := 1
  /-- Slots of the message in progress, by channel. -/
  inB : List Byte := []
  inC : List Byte := []
  inK : List Byte := []
  /-- Slots of it that hold their credits, by channel. -/
  curB : Nat := 0
  curC : Nat := 0
  curK : Nat := 0
  /-- Whole messages received, oldest first, and the channel and the slots that hold their credits of each. -/
  inbox : List LinkMsg := []
  holds : List (VC × Nat) := []
  failed : Nat := 0
  once : Bool := false
  /-- Trained again in the background: rejoins routing at the next seal. -/
  rejoin : Bool := false
  retrainCount : Nat := 0
  /-- Model's own: the bytes of the latest frame sent. -/
  lastTx : List Byte := []
  deriving DecidableEq, Repr

/-- The fabric side of the module. -/
structure Fab where
  links : List LinkSt := List.replicate 24 {}
  loop : Nat := 0
  vcwB : Nat := 1
  vcwC : Nat := 3
  fab : Bool := false
  pod : Byte := 0
  slot : BitVec 6 := 0
  fixed : Bool := false
  podW : Bool := false
  roll : Nat := 0
  pulses : Nat := 0
  /-- CHAIN_OUT level, and the pulses still to emit. -/
  chainOut : Bool := true
  /-- Levels of CHAIN_OUT in the announcement, one for each tick (R346). -/
  wave : List Bool := []
  announce : Nat := 0
  /-- Turn counters of R348 and message counts of R349. -/
  turns : Tab Nat := []
  planeN : Tab Nat := []
  /-- Messages that no path reaches, waiting. -/
  stuck : List LinkMsg := []
  /-- Model's own: messages handed to their engines, newest first. -/
  given : List LinkMsg := []
  nojob : Nat := 0
  badtype : Nat := 0
  stale : Nat := 0
  detours : Nat := 0
  deriving DecidableEq, Repr

/-- A descriptor read and not yet reported (R407). -/
structure DescRun where
  d : BitVec 512
  idx : Nat := 0
  /-- The DMA-channel ring, for a ring channel. -/
  ring : Option RingNum := none
  /-- The plan descriptor index, for a plan channel. -/
  pdesc : Option Nat := none
  started : Bool := false
  /-- Status, bytes and result once the transfer has ended. -/
  status : Option Nat := none
  doneb : Nat := 0
  aux : Nat := 0
  complete : Bool := false
  flushed : Bool := false
  deriving DecidableEq, Repr

/-- A DMA channel (R399). -/
structure Chan where
  part : Part := 0
  use : Nat := 0
  dcq : Nat := 0
  bound : Option RingNum := none
  plan : Bool := false
  prog : List DescRun := []
  deriving DecidableEq, Repr

/-- The read buffer of one port's window: the granules it holds, oldest first, by granule number (R418). -/
structure WinBuf where
  lines : List (Nat × List Byte) := []
  deriving DecidableEq, Repr

/-- What the out-of-band area of a physical page carries: its logical page and the program sequence number (R224). Its
CRC-32C is that of the page's data. -/
structure Oob where
  lp : Nat
  seq : Nat
  deriving DecidableEq, Repr

/-- A checkpoint of the live map: its sequence number, the program sequence it was taken at, the map (R227). -/
structure Ckpt where
  seq : Nat
  upTo : Nat
  map : Tab Nat
  deriving DecidableEq, Repr

/-- The flash translation layer (R223 to R228). -/
structure Flash where
  /-- Physical page of each mapped logical page. -/
  map : Tab Nat := []
  /-- Out-of-band area of each physical page programmed and not erased. -/
  oob : Tab Oob := []
  /-- Bands not erased, and the open bands with the next page index of each. -/
  used : List Nat := []
  openB : List (Nat × Nat) := []
  erases : Tab Nat := []
  retired : List Nat := []
  /-- Page programs so far. -/
  seq : Nat := 0
  ckSeq : Nat := 0
  /-- Copies A and B of the map, where they are valid. -/
  ckA : Option Ckpt := none
  ckB : Option Ckpt := none
  /-- Page programs since the last checkpoint, and whether an hour has passed since. -/
  sinceCk : Nat := 0
  ckHour : Bool := false
  ready : Bool := false
  /-- 4 KiB units that cannot be corrected. -/
  bad : List Nat := []
  deriving DecidableEq, Repr

/-- The wear governor (R229 to R231). -/
structure Wear where
  y : Nat := 6
  a : Nat := 0
  c : Int := 0
  cValid : Bool := false
  odPages : Nat := 0
  odTab : Nat := 0
  wornSaid : Bool := false
  deriving DecidableEq, Repr

/-- Zones of a stack (R234, R235). -/
inductive Zone where
  | normal | warm | hot | crit
  deriving DecidableEq, Repr

/-- One DRAM or flash stack (R234, R235, R511). -/
structure Stack where
  temp : Int := 0
  zone : Zone := .normal
  cap : Nat := 8
  refresh2 : Bool := false
  /-- Since when an access has waited for the stack, whose cap is 0 %. -/
  waitFrom : Option Nat := none
  deriving DecidableEq, Repr

/-- The lifetime counts of the Almanac (R449). -/
structure Almanac where
  onSec : Nat := 0
  cycles : Nat := 0
  boots : Nat := 0
  sleeps : Nat := 0
  hkRestarts : Nat := 0
  trips : Nat := 0
  switches : Tab Nat := []
  thermal : Tab Nat := []
  retrains : Tab Nat := []
  degrades : Tab Nat := []
  deads : Tab Nat := []
  gens : Tab Nat := []
  signNext : Nat := 0
  credit : Int := 0
  overdrafts : List (Nat × Nat × Nat) := []
  odTotal : Nat := 0
  /-- Sequence number of the image. -/
  seq : Nat := 0
  /-- Nanoseconds of the running second of power-on time. -/
  frac : Nat := 0
  hours : Nat := 0
  deriving DecidableEq, Repr

/-- Security: the Locket, the boot flash, the mailbox, measurements, signing (R451 to R477). -/
structure Sec where
  otp : Memory := {}
  /-- Signature blocks in the boot NOR, by generation: whether they verify. -/
  sigBlocks : Tab Bool := []
  bankA : Option FwImage := some {}
  bankB : Option FwImage := some {}
  selB : Bool := false
  runB : Bool := false
  fallback : Bool := false
  svn : Nat := 0
  gen : Option Nat := none
  meas : List (List Byte) := List.replicate 8 (List.replicate 48 0)
  dbg : Bool := false
  mbox : List Byte := List.replicate 64 0
  mbDone : Bool := false
  attDst : Nat := 0
  attDone : Bool := false
  attStatus : Nat := 0
  attLen : Nat := 0
  signNext : Nat := 0
  signEnd : Nat := 0
  exhausted : Bool := false
  exhSaid : Bool := false
  /-- The factory certificate, and the installed one (R467). -/
  factory : Cert := {}
  cert : Option Cert := none
  deriving DecidableEq, Repr

end Sys2Proof.Machine
end

