-- ==== Sys2Proof/Machine/State.lean ====
section
/-! DEFINITION. The state of the Graron as plain data, why a step can stop, and the machine after reset. -/

namespace Sys2Proof.Machine

/-- Why the machine stops with a fault. -/
inductive Fault where
  /-- A JTAG debug instruction while debug is enabled: R476 says that it reaches the housekeeping controller, the
  trace and the scratchpad and does not say what it does there. Raised by `execJtagAccess`. Safe: the machine
  stops where the hardware goes on. -/
  | debugInstruction
  deriving DecidableEq, Repr

/-- Why an instruction has no meaning. -/
inductive Refusal where
  /-- The command has no meaning in this model yet, by its mnemonic. Raised by `exec` only. Safe. -/
  | notModelled (mnemonic : String)
  deriving DecidableEq, Repr

/-- The whole machine. -/
structure State where
  /-- The commands that are waiting, first in, first out. -/
  pending : List Instr := []
  /-- Model's own: the number of free values taken so far. -/
  free : Nat := 0
  arr : ArrayUnit := {}
  vec : VectorUnit := {}
  /-- T0 to T3 by device address (R195). -/
  mem : Memory := {}
  /-- Poisoned scratchpad granules (R130). -/
  poison : List Nat := []
  /-- Bit errors in the cells of the scratchpad that no read has met: the granule, and whether the code corrects it.
  They come from outside; no command brings one (R130). -/
  spdErr : List (Nat × Bool) := []
  /-- Scratchpad writes held by a queued deferred entry (R68), oldest first. -/
  parked : List (Nat × List Byte) := []
  /-- Stall streak of class c at bank b at key 8 b + c, and the latest grant of a bank at which classes contended:
  bank, class (R123). -/
  streaks : Tab Nat := []
  granted : Option (Nat × Nat) := none
  /-- Table t of partition p at key 4,096 p + t (R132). -/
  tables : Tab Table := []
  /-- Placement entries in force at key of their table, defined or not (R200). -/
  places : Tab Place := []
  /-- Table operations waiting for the next seal of each partition, oldest first. -/
  tblOps : List (Part × TblOp) := []
  jobs : Tab Job := []
  /-- Accepted batches of every partition, (partition, step), in the order of their acceptance (R144). -/
  sortOrder : List (Nat × Nat) := []
  /-- What each sort unit works on. -/
  sorts : Tab SortJob := []
  rings : Tab Ring := []
  fns : Tab Fn := []
  portA : Port := {}
  portB : Port := {}
  /-- Controlling PF of each partition; 255 for none (R503). -/
  pctl : List Nat := [255, 255, 255, 255]
  msixTab : Memory := {}
  /-- Interrupt messages raised, newest first: (function, vector). -/
  irqs : List (Nat × Nat) := []
  /-- Writes posted to the hosts, newest first. -/
  tx : List HostTx := []
  /-- Every event raised, newest first. -/
  evLog : List Event := []
  /-- The latest bus response. -/
  rsp : BusRsp := .none
  chans : Tab Chan := []
  winA : WinBuf := {}
  winB : WinBuf := {}
  isl : Island := {}
  pwr : Power := {}
  tim : Time := {}
  fabr : Fab := {}
  flash : Flash := {}
  wear : Wear := {}
  /-- Regulator tokens: partition p, bucket b (T1, T2, T3 read, T3 program) at key 4 p + b (R232). -/
  bucket : Tab Nat := []
  /-- Regulator rates in per cent, at the same keys (R512). -/
  rates : Tab Nat := []
  /-- Tier window (base, size in GiB) of partition p, tier k (0 T1, 1 T2, 2 T3) at key 4 p + k (R198). -/
  wins : Tab (Nat × Nat) := []
  tierLock : List Bool := [false, false, false, false]
  /-- ROW_TDIR of each partition (R513). -/
  tdir : List Nat := [0, 0, 0, 0]
  dramStacks : List Stack := List.replicate 28 {}
  /-- The current counts, and the two written copies A and B (R449). -/
  alm : Almanac := { cycles := 1 }
  almA : Option Almanac := none
  almB : Option Almanac := none
  /-- AON_ALMDST and AON_ALMDONE (R450). -/
  almDst : Nat := 0
  almLen : Nat := 0
  almDone : Bool := false
  sec : Sec := {}
  /-- Start readiness that has come before the plan load of its partition has completed: (partition, source) (R263, R337). -/
  early : List (Nat × Nat) := []
  /-- Error history of the module: entries, newest first (R304). -/
  hist : List (Nat × Nat × Nat) := []
  deriving DecidableEq, Repr

/-- The machine after module power-on: 54 V in range, the always-on domain started, boot under way (R10, R434). -/
def State.reset : State :=
  { rates := [(0, 100), (1, 100), (2, 100), (3, 80)] }

end Sys2Proof.Machine
end

