-- ==== Sys2Proof/Machine/Ops.lean ====
section
/-! DEFINITION. The operations that every family shares: memories, jobs, tables, reports, counters, events,
ring entries and completions. -/

namespace Sys2Proof.Machine

/-! ### Memories -/

/-- End of the scratchpad, and start of its dual-port region (R119). -/
def t0End : Nat := 0x08000000
def dualBase : Nat := 0x07C00000

/-- The bank of a scratchpad address (R119). -/
def bankOf (a : Nat) : Nat :=
  let n := a / 64
  if a < dualBase then n % 248 else 248 + (n - 2031616) % 8

/-- The number of the loss that a lost address of a memory has last met. -/
def Memory.lossOf (m : Memory) (a : Nat) : Option Nat :=
  match if a < t0End then tabFind m.groups (bankOf a / 32) else none with
  | some g => some g
  | none => m.lost

/-- What an unlisted address of a memory reads as: zero, or a free value where the contents below address
0x1000_0000_0000 have been lost; the flash above it keeps what it holds. -/
def Memory.dflt (m : Memory) (a : Nat) : Byte :=
  match m.lossOf a with
  | none => 0
  | some g => if a < 0x100000000000 then Config.freeByte g a else 0

/-- The listed byte at an address, where there is one. -/
def cellFind : List Host.Cell → Nat → Option Byte
  | [], _ => none
  | c :: t, a => if c.1 = a then some c.2 else cellFind t a

/-- A byte at an address, the order of the addresses kept. -/
def cellSet : List Host.Cell → Nat → Byte → List Host.Cell
  | [], a, b => [(a, b)]
  | c :: t, a, b =>
    if a < c.1 then (a, b) :: c :: t
    else if a = c.1 then (a, b) :: t
    else c :: cellSet t a b

/-- The cells without an address. -/
def cellErase : List Host.Cell → Nat → List Host.Cell
  | [], _ => []
  | c :: t, a => if c.1 = a then cellErase t a else c :: cellErase t a

/-- Reads one byte. -/
def Memory.get (m : Memory) (a : Nat) : Byte := (cellFind m.cells a).getD (m.dflt a)

/-- Writes one byte, the canonical form kept. -/
def Memory.set (m : Memory) (a : Nat) (b : Byte) : Memory :=
  { m with cells := if b = m.dflt a then cellErase m.cells a else cellSet m.cells a b }

/-- Reads `n` bytes from an address. -/
def Memory.read (m : Memory) (a : Nat) : Nat → List Byte
  | 0 => []
  | n + 1 => m.get a :: m.read (a + 1) n

/-- Writes a byte list from an address. -/
def Memory.write (m : Memory) (a : Nat) : List Byte → Memory
  | [] => m
  | b :: bs => (m.set a b).write (a + 1) bs

/-- Reads an `n`-byte little-endian number. -/
def Memory.readNat (m : Memory) (a n : Nat) : Nat := natOf (m.read a n)

/-- Writes an `n`-byte little-endian number. -/
def Memory.writeNat (m : Memory) (a n v : Nat) : Memory := m.write a (bytesOf n v)

/-- The cells rise strictly from `lo` on. -/
def cellsRise : Nat → List Host.Cell → Bool
  | _, [] => true
  | lo, c :: t => decide (lo ≤ c.1) && cellsRise (c.1 + 1) t

/-- The canonical form of a memory: addresses strictly rising, no cell equal to what an unlisted one reads as. -/
def Memory.wf (m : Memory) : Bool :=
  cellsRise 0 m.cells && m.cells.all (fun c => decide (c.2 ≠ m.dflt c.1))

/-- The memory after a loss of its contents below the flash: every byte of them a free value of number `g`. -/
def Memory.lose (m : Memory) (g : Nat) : Memory :=
  { cells := m.cells.filter (fun c => decide (0x100000000000 ≤ c.1)), lost := some g }

/-- The memory after loss number `g` of one scratchpad bank group. -/
def Memory.loseGroup (m : Memory) (k g : Nat) : Memory :=
  { m with cells := m.cells.filter (fun c => decide (t0End ≤ c.1 ∨ bankOf c.1 / 32 ≠ k)), groups := tabSet m.groups k g }

/-- Writes zeros to the bytes from `a` to `a + n - 1`. -/
def Memory.zero (m : Memory) (a n : Nat) : Memory :=
  if m.lost.isNone && m.groups.isEmpty then { m with cells := m.cells.filter (fun c => decide (c.1 < a ∨ a + n ≤ c.1)) }
  else m.write a (List.replicate n 0)

/-! ### Device addresses (R195 to R199) -/

def t1Base : Nat := 0x10000000000
def t1End : Nat := 0x16000000000
def t2Base : Nat := 0x20000000000
def t2End : Nat := 0x32000000000
def t3Base : Nat := 0x100000000000
def t3End : Nat := 0x1E0000000000
/-- The reserved area of T1 (R197). -/
def t1Resv : Nat := 0x15E00000000
/-- Base of the checksum sidecar (R236). -/
def sidecarBase : Nat := 0x15F00000000
/-- Start of the step-plan part of the dual-port region (R120). -/
def planBase : Nat := 0x07C50000
/-- Fixed areas of the dual-port region (R120, R257). -/
def semBase : Nat := 0x07C40000
def tokBase : Nat := 0x07C48000

/-- The tier of an address: 0 to 3, or none (R195). -/
def tierOf (a : Nat) : Option Nat :=
  if a < t0End then some 0
  else if t1Base ≤ a ∧ a < t1End then some 1
  else if t2Base ≤ a ∧ a < t2End then some 2
  else if t3Base ≤ a ∧ a < t3End then some 3
  else none

/-- Whether a range lies in the partition's window of tier 1 to 3 (R198). -/
def inWindow (s : State) (p : Part) (tier a n : Nat) : Bool :=
  let w := tabGet (0, 0) s.wins (4 * p.toNat + (tier - 1))
  decide (w.1 ≤ a ∧ a + n ≤ w.1 + w.2 * 2 ^ 30)

/-- Whether two ranges `[a, a + n)` and `[b, b + m)` share a byte. -/
def overlaps (a n b m : Nat) : Bool := decide (a < b + m ∧ b < a + n ∧ 0 < n ∧ 0 < m)

/-- Work that goes on only while the module is active: it pauses in sleep, at a boundary of its steps (R437). -/
def whileActive (s : State) (f : State → State) : State := if s.pwr.mst = .active then f s else s

/-! ### Jobs -/

/-- The job of a partition. -/
def getJob (s : State) (p : Part) : Option Job := tabFind s.jobs p.toNat

/-- The state with `f` applied to the job of a partition, where there is one. -/
def modJob (s : State) (p : Part) (f : Job → Job) : State :=
  match getJob s p with
  | none => s
  | some j => { s with jobs := tabSet s.jobs p.toNat (f j) }

/-- A tensor-table entry of a partition's plan. -/
def entry (s : State) (p : Part) (i : Nat) : TEntry :=
  match getJob s p with
  | none => {}
  | some j => nth {} j.plan.tensors i

/-- A tensor entry in the running step: an entry in slot 0 of the intake area names the slot of the step (R538). -/
def tens (s : State) (p : Part) (i : Nat) : TEntry :=
  let e := entry s p i
  match getJob s p with
  | none => e
  | some j =>
    if !e.shelf && decide (j.plan.ibase ≤ e.base) && decide (e.base < j.plan.ibase + j.plan.slotsz) then
      { e with base := e.base + j.step % (j.plan.look + 1) * j.plan.slotsz }
    else e

/-- The step number of a partition's job, 0 outside a job. -/
def stepOf (s : State) (p : Part) : Nat :=
  match getJob s p with
  | none => 0
  | some j => j.step

/-- The job seed of a partition. -/
def seedOf (s : State) (p : Part) : Nat :=
  match getJob s p with
  | none => 0
  | some j => j.plan.seed.toNat

/-- The number the Gale counters of a partition take as the step: 0 in a self-test (R244). -/
def galeStep (s : State) (p : Part) : Nat :=
  match getJob s p with
  | none => 0
  | some j => if j.kind = .selftest then 0 else j.step

/-! ### Reports of the veto token (R253, R255) -/

/-- Whether a report belongs to the next step: the contribution of the running one has been made. What a self-test reports is
discarded with its results (R244, R253). -/
def lateReport (j : Job) : Bool := j.contributed && j.phase != .testing

/-- Sets report bits of the job: in the running step's contribution, or in the next one's where the
contribution has been made. -/
def report (s : State) (p : Part) (bitsToSet : W32) : State :=
  modJob s p fun j =>
    if lateReport j then { j with repNext := { j.repNext with bits := j.repNext.bits ||| bitsToSet } }
    else { j with rep := { j.rep with bits := j.rep.bits ||| bitsToSet } }

/-- VETO bits (R255). -/
def vNonfin : W32 := 0x1
def vCksum : W32 := 0x2
def vSpill : W32 := 0x4
def vWithdraw : W32 := 0x8
def vIncons : W32 := 0x10
def srcArray : W32 := 0x100
def srcVector : W32 := 0x200
def srcRow : W32 := 0x400
def srcXch : W32 := 0x800
def srcSort : W32 := 0x1000
def srcDma : W32 := 0x2000
def srcHk : W32 := 0x4000
def vGsat : W32 := 0x10000

/-- Sets the flags of a grid index in the step's reports (R280). -/
def reportGrid (s : State) (p : Part) (k : Nat) (nf sat : Bool) (emax : Int) : State :=
  let up (r : Reports) : Reports :=
    let g := tabGet {} r.grids k
    let v : GridRep := { nf := g.nf || nf, sat := g.sat || sat, emax := if g.emax < emax then emax else g.emax }
    { r with grids := tabSet r.grids k v }
  modJob s p fun j => if lateReport j then { j with repNext := up j.repNext } else { j with rep := up j.rep }

/-! ### Counters (R478 to R483) -/

/-- The attributes of a counted event (R483): privilege (0 device to 3 steward), function, partition, address. -/
structure EvAt where
  priv : Nat := 0
  fn : Option Nat := none
  part : Option Nat := none
  addr : Option Nat := none
  deriving DecidableEq, Repr

/-- Attributes of a partition's own work. -/
def atPart (p : Part) : EvAt := { part := some p.toNat }

/-- Whether an event of class `c`, number `n` passes a selector (R482, R483). -/
def selPasses (b : CtrBlk) (sel c n : Nat) (at' : EvAt) : Bool :=
  bit 16 sel && decide (bits 15 12 sel = c) && (decide (bits 11 0 sel = n) || decide (bits 11 0 sel = 0xFFF))
  && bit at'.priv (bits 23 20 sel)
  && (match bits 31 30 sel with
      | 0 => true
      | 1 => at'.fn == some (bits 29 24 sel)
      | 2 => at'.part == some (bits 25 24 sel)
      | _ => false)
  && (!bit 32 sel || (match at'.addr with
      | some a => decide (b.alo ≤ a ∧ a < b.ahi)
      | none => false))

/-- Adds a quantity to the counters of a block that select the event; a wrap sets the overflow bit (R480). -/
def ctrAdd (b : CtrBlk) (c n q : Nat) (at' : EvAt) : CtrBlk :=
  (List.range 8).foldl (fun b k =>
    if selPasses b (nth 0 b.sel k) c n at' then
      let v := nth 0 b.val k + q
      { b with val := setNth b.val k (v % 2 ^ 48), ovf := if 2 ^ 48 ≤ v then b.ovf ||| 2 ^ k else b.ovf }
    else b) b

/-- The state with `f` applied to the live counters. -/
def modLive (s : State) (f : CtrSet → CtrSet) : State :=
  { s with isl := { s.isl with live := f s.isl.live } }

/-- Counts an event in block `blk`. -/
def count (s : State) (blk c n q : Nat) (at' : EvAt) : State :=
  modLive s fun live => { live with blk := tabSet live.blk blk (ctrAdd (tabGet {} live.blk blk) c n q at') }

/-- An instruction of a partition's streams, or a record operation, counts once at its sampling source: 0 array,
1 vector engine, 2 + e row engine e; at 0 a sample falls due and the countdown reloads (R488). -/
def sampleTick (s : State) (p : Part) (src : Nat) : State :=
  let cfg := nth {} s.isl.trace p.toNat
  if cfg.n = 0 ∨ !bit src cfg.srcm then s
  else
    let k := 32 * p.toNat + src
    let v := tabGet cfg.n s.isl.down k
    if v ≤ 1 then
      { s with isl := { s.isl with down := tabSet s.isl.down k cfg.n, due := tabMod 0 s.isl.due k (· + 1) } }
    else { s with isl := { s.isl with down := tabSet s.isl.down k (v - 1) } }

/-- A record operation of a row engine starts: it counts, and it is one operation for sampling (R483, R488). -/
def countRec (s : State) (p : Part) (e : Nat) : State :=
  sampleTick (count s (11 + e) 0 2 1 (atPart p)) p (2 + e)

/-- Adds one count to tally `i` of a block (R37). -/
def tlyAdd (b : CtrBlk) (i q : Nat) : CtrBlk :=
  let v := nth 0 b.tly i + q
  { b with tly := setNth b.tly i (v % 2 ^ 48), ovf := if 2 ^ 48 ≤ v then b.ovf ||| 2 ^ (8 + i) else b.ovf }

/-- Adds a conversion's counts to the tallies of block `blk` (R37). -/
def tally (s : State) (blk : Nat) (c : Counts) : State :=
  modLive s fun live =>
    let b := tabGet {} live.blk blk
    let b := tlyAdd (tlyAdd (tlyAdd (tlyAdd b 0 c.sat) 1 c.ovf) 2 c.flush) 3 c.nonfin
    { live with blk := tabSet live.blk blk b }

/-- Counts `q` in table counter `i` of a table (R484). -/
def tblCount (s : State) (p : Part) (t i q : Nat) : State :=
  modLive s fun live =>
    let k := (4096 * p.toNat + t) * 12 + i
    let c := tabGet {} live.tbl k
    let v := c.total + q
    let c := { c with total := v % 2 ^ 48, ovf := c.ovf || decide (2 ^ 48 ≤ v), run := c.run + q }
    { live with tbl := tabSet live.tbl k c }

/-! ### Rings, entries and their shadows (R365 to R368) -/

/-- A ring by number. -/
def getRing (s : State) (n : Nat) : Ring := tabGet {} s.rings n

/-- The 16 bytes of a ring shadow (R368). -/
def shadowBytes (s : State) (r : Ring) : List Byte :=
  let det := (tabGet {} s.fns r.fn).det
  bytesOf 4 r.host ++ bytesOf 4 r.dev ++ bytesOf 2 r.age
  ++ [BitVec.ofNat 8 (r.cur % 4 + 4 * b2n r.promoted + 8 * b2n r.err + 16 * b2n r.enable + 32 * b2n det), 0]
  ++ bytesOf 4 (if r.kind = 0 then r.slots else 0)

/-- Stores a ring and keeps its shadow. -/
def putRing (s : State) (n : Nat) (r : Ring) : State :=
  { s with
    rings := tabSet s.rings n r,
    mem := s.mem.write (dualBase + 16 * n) (shadowBytes s r) }

/-- A function by number. -/
def getFn (s : State) (f : Nat) : Fn := tabGet {} s.fns f

/-- Stores a function. -/
def putFn (s : State) (f : Nat) (v : Fn) : State := { s with fns := tabSet s.fns f v }

/-- The port of a function: `true` for port B. -/
def portOf (f : Nat) : Bool := decide (32 ≤ f)

/-- A port. -/
def getPort (s : State) (b : Bool) : Port := if b then s.portB else s.portA

/-- Stores a port. -/
def putPort (s : State) (b : Bool) (q : Port) : State :=
  if b then { s with portB := q } else { s with portA := q }

/-- Posts a write to a host, dropped in host-loss hold (R390). -/
def hostWrite (s : State) (portB : Bool) (addr : Nat) (bs : List Byte) (relaxed : Bool) : State :=
  if (getPort s portB).hold then s
  else { s with tx := { portB := portB, addr := addr, bytes := bs, relaxed := relaxed } :: s.tx }

/-- The entries of a ring that are not consumed by the other side. -/
def Ring.fill (r : Ring) : Nat :=
  if r.kind = 0 ∨ r.kind = 3 then (r.host + 2 ^ 32 - r.dev) % 2 ^ 32 else (r.dev + 2 ^ 32 - r.host) % 2 ^ 32

/-- Whether a completion or event ring is full, slots reserved for `held` entries counted in (R367, R373). -/
def Ring.full (r : Ring) (held : Nat) : Bool := decide (2 ^ r.size ≤ r.fill + held)

/-- Writes one 64-byte entry at the producer index, its last byte the phase (R378, R380, R382). -/
def ringWrite (s : State) (n : Nat) (bs : List Byte) : State :=
  let r := getRing s n
  let ph := if (r.dev / 2 ^ r.size) % 2 = 0 then 1 else 0
  let body := (padTo 0 63 bs).take 63 ++ [BitVec.ofNat 8 ph]
  let s := hostWrite s (portOf r.fn) (r.base + 64 * (r.dev % 2 ^ r.size)) body false
  putRing s n { r with dev := (r.dev + 1) % 2 ^ 32, unrep := r.unrep + 1,
                       unrepAt := if r.unrep = 0 then s.tim.now else r.unrepAt }

/-! ### Events (R382 to R385, R507, R508) -/

/-- The bytes of an event entry but its phase (R382). -/
def Event.bytes (e : Event) : List Byte :=
  bytesOf 2 e.code ++ bytesOf 1 e.status ++ bytesOf 1 (e.code / 256) ++ bytesOf 2 e.fn
  ++ bytesOf 1 (match e.part with | none => 0xFF | some p => p.toNat) ++ [0]
  ++ bytesOf 8 e.step ++ bytesOf 8 e.time
  ++ ((e.detail ++ [0, 0, 0, 0]).take 4).flatMap (bytesOf 8)

/-- Whether an event ring of a function receives an event (R384). -/
def evWanted (s : State) (r : Ring) (e : Event) : Bool :=
  let f := getFn s r.fn
  decide (r.kind = 2) && r.enable && bit (e.code / 256) r.emask
  && (match e.part with
      | some p => f.pv && decide (f.part = p)
      | none => decide (r.fn % 32 = 0))
  && (decide (e.code / 256 ≠ 0) || decide (e.fn = 0xFFFF) || decide (r.fn = e.fn))

/-- Puts an event into ring `n`, or drops and counts it; the first entry after a drop is EV_EVT_OVERFLOW (R385). -/
def evPut (s : State) (n : Nat) (e : Event) : State :=
  let r := getRing s n
  if r.full 0 then
    putRing s n { r with drop := if r.drop = 0xFFFFFFFF then r.drop else r.drop + 1, dropNew := r.dropNew + 1 }
  else if r.dropNew = 0 then ringWrite s n e.bytes
  else
    let o : Event := { code := 0x0505, fn := r.fn, part := e.part, step := e.step, time := e.time,
                       detail := [r.dropNew] }
    let s := ringWrite (putRing s n { r with dropNew := 0 }) n o.bytes
    let r := getRing s n
    if r.full 0 then
      putRing s n { r with drop := if r.drop = 0xFFFFFFFF then r.drop else r.drop + 1, dropNew := 1 }
    else ringWrite s n e.bytes

/-- Whether nothing is written to a function's rings: its port is in host-loss hold or it is detached. -/
def muted (s : State) (f : Nat) : Bool := (getPort s (portOf f)).hold || (getFn s f).det

/-- Keeps an event in the buffer of a port when it concerns a detached function of the port (R390). -/
def evKeep (s : State) (portB : Bool) (e : Event) : State :=
  let q := getPort s portB
  let mine : Bool := (List.range 32).any fun i =>
    let k := i + 32 * b2n portB
    let f := getFn s k
    f.pv && muted s k && (match e.part with | some p => decide (f.part = p) | none => decide (i = 0))
  if mine then
    if q.evBuf.length < 4096 then putPort s portB { q with evBuf := q.evBuf ++ [e] }
    else putPort s portB { q with evDropped := true, evDropCount := q.evDropCount + 1 }
  else s

/-- Raises an event: logs it, delivers it to every ring that wants it, and counts one for a function with no
ring for its class. -/
def raiseE (s : State) (e : Event) : State :=
  let s := { s with evLog := e :: s.evLog }
  let s := evKeep (evKeep s false e) true e
  let wanted := s.rings.filter (fun kr => evWanted s kr.2 e && !muted s kr.2.fn)
  let s := wanted.foldl (fun s kr => evPut s kr.1 e) s
  if e.fn < 64 && !s.rings.any (fun kr => decide (kr.2.fn = e.fn) && decide (kr.2.kind = 2) && kr.2.enable
      && bit (e.code / 256) kr.2.emask) then
    let f := getFn s e.fn
    putFn s e.fn { f with noring := (f.noring + 1) % 2 ^ 48 }
  else s

/-- Raises an event of a partition. -/
def raise (s : State) (p : Part) (code : Nat) (detail : List Nat) : State :=
  raiseE s { code := code, part := some p, step := stepOf s p, time := s.tim.now, detail := detail }

/-- Raises a module-wide event. -/
def raiseM (s : State) (code : Nat) (detail : List Nat) : State :=
  raiseE s { code := code, time := s.tim.now, detail := detail }

/-- Raises an event with the function that caused it and a status. -/
def raiseF (s : State) (code status : Nat) (fn : Nat) (p : Option Part) (detail : List Nat) : State :=
  raiseE s { code := code, status := status, fn := fn, part := p,
             step := match p with | some q => stepOf s q | none => 0, time := s.tim.now, detail := detail }

/-- Event codes (R508). -/
def evProgError : Nat := 0x0001
def evPlanReject : Nat := 0x0002
def evBatchReject : Nat := 0x0003
def evBatchLate : Nat := 0x0004
def evTblReject : Nat := 0x0005
def evCmdRights : Nat := 0x0006
def evRngSetup : Nat := 0x0007
def evDmaOwn : Nat := 0x0008
def evDmaInvalid : Nat := 0x0009
def evDmaAlign : Nat := 0x000A
def evStepSeal : Nat := 0x0101
def evStepVetoed : Nat := 0x0102
def evStepAbandon : Nat := 0x0103
def evStepIncons : Nat := 0x0104
def evLkpSpill : Nat := 0x0105
def evPlanSelftest : Nat := 0x0106
def evUpdNonfinite : Nat := 0x0107
def evXchNonfinite : Nat := 0x0108
def evDmaPlan : Nat := 0x0109
def evArrEccCorr : Nat := 0x0201
def evArrEccUncorr : Nat := 0x0202
def evSpdEccCorr : Nat := 0x0203
def evSpdEccUncorr : Nat := 0x0204
def evSpdOffAccess : Nat := 0x0205
def evMemCksum : Nat := 0x0206
def evLkpRecord : Nat := 0x0207
def evUpdRecord : Nat := 0x0208
def evXchDigest : Nat := 0x0209
def evXchFormat : Nat := 0x020A
def evDmaBuserr : Nat := 0x020B
def evTierPinfull : Nat := 0x0301
def evTierOverdraft : Nat := 0x0302
def evFtlFull : Nat := 0x0303
def evFtlRebuild : Nat := 0x0304
def evFtlUncorr : Nat := 0x0305
def evFtlWorn : Nat := 0x0306
def evMemWarm : Nat := 0x0307
def evMemHot : Nat := 0x0308
def evMemCrit : Nat := 0x0309
def evLnkRetrain : Nat := 0x0401
def evLnkDegrade : Nat := 0x0402
def evLnkDown : Nat := 0x0403
def evLnkUnreach : Nat := 0x0404
def evLnkWiring : Nat := 0x0405
def evLnkRollcall : Nat := 0x0406
def evLnkAddrlock : Nat := 0x0407
def evLnkNojob : Nat := 0x0408
def evLnkBadtype : Nat := 0x0409
def evXchStale : Nat := 0x040A
def evTimSyncLost : Nat := 0x040B
def evTimSync : Nat := 0x040C
def evTwinMismatch : Nat := 0x040D
def evTwinLost : Nat := 0x040E
def evTwinRepair : Nat := 0x040F
def evTwinAgreed : Nat := 0x0410
def evTwinWide : Nat := 0x0411
def evTwinFail : Nat := 0x0412
def evPrtHostloss : Nat := 0x0501
def evPrtDegraded : Nat := 0x0502
def evRngIndex : Nat := 0x0503
def evDmaFetch : Nat := 0x0504
def evEvtOverflow : Nat := 0x0505
def evPwrRefused : Nat := 0x0601
def evPwrTrip : Nat := 0x0602
def evPwrThermWarn : Nat := 0x0603
def evPwrThermHold : Nat := 0x0604
def evPwrHkrestart : Nat := 0x0605
def evPwrDramtrain : Nat := 0x0606
def evSecAuth : Nat := 0x0607
def evSecFwfallback : Nat := 0x0608
def evSecLmsexh : Nat := 0x0609
def evSecNolocket : Nat := 0x060A
def evSecDebug : Nat := 0x060B
def evGenSwap : Nat := 0x0701
def evGenFail : Nat := 0x0702
def evReshardStart : Nat := 0x0703
def evReshardDone : Nat := 0x0704
def evReshardFail : Nat := 0x0705

/-! ### Completions (R373, R378, R379) -/

/-- Status codes (R379). -/
def stDone : Nat := 0
def stBuserr : Nat := 1
def stAlign : Nat := 2
def stAborted : Nat := 3
def stHostloss : Nat := 4
def stCksum : Nat := 5
def stVetoed : Nat := 6
def stStaleEpoch : Nat := 7
def stNoshadow : Nat := 8
def stSpill : Nat := 9
def stInvalid : Nat := 10

/-- The bytes of a completion entry but its phase (R378). -/
def compBytes (c : Cmd) (sqhead status a b cc : Nat) : List Byte :=
  bytesOf 2 c.tag ++ bytesOf 2 c.ring.toNat ++ bytesOf 4 sqhead ++ bytesOf 1 status ++ bytesOf 1 c.opc
  ++ bytesOf 6 0 ++ bytesOf 8 a ++ bytesOf 8 b ++ bytesOf 8 cc

/-- Takes a command off its ring's list of commands in progress; its completion slot becomes free. -/
def retire (s : State) (c : Cmd) : State :=
  let r := getRing s c.ring.toNat
  if r.old.contains c then putRing s c.ring.toNat { r with old := r.old.erase c }
  else if r.prog.contains c then
    putRing s c.ring.toNat { r with prog := r.prog.erase c, slots := r.slots - 1 }
  else s

/-- The partition of a function. -/
def partOf (s : State) (f : FnNum) : Part := (getFn s f.toNat).part

/-- Whether a command is one of those that a detached function may still issue. -/
def attachOpc (opc : Nat) : Bool := opc == 0x18 || opc == 0x19 || opc == 0x1A

/-- Whether the completion of a command is kept for the reattach summary (R390). -/
def keepsCompletion (s : State) (c : Cmd) : Bool :=
  (getPort s (portOf c.fn.toNat)).hold || ((getFn s c.fn.toNat).det && !attachOpc c.opc)

/-- Completes a command with a status and results: writes its completion entry with consumer index `head`, or keeps it
for the summary while its function is detached (R378, R390). -/
def completeAt (s : State) (c : Cmd) (head status a b cc : Nat) : State :=
  let s := retire s c
  let r := getRing s c.ring.toNat
  let pb := portOf c.fn.toNat
  let q := getPort s pb
  if keepsCompletion s c then
    let k : Kept :=
      { ring := c.ring, isDesc := false, status := status, idx := c.idx, tag := c.tag, a := a, b := b,
        part := partOf s c.fn }
    putPort s pb { q with kept := q.kept ++ [k] }
  else if c.nocq && status = stDone then s
  else if (getRing s r.link).enable && r.kind = 0 && decide ((getRing s r.link).kind = 1) then
    ringWrite s r.link (compBytes c head status a b cc)
  else s

/-- Completes a command with a status and results. -/
def complete (s : State) (c : Cmd) (status a b cc : Nat) : State :=
  completeAt s c (getRing s c.ring.toNat).dev status a b cc

/-- A command ends with a status under R5: a programming-error event and a completion other than DONE. -/
def rejectCmd (s : State) (c : Cmd) (code status : Nat) (detail : List Nat) : State :=
  complete (raiseF s code status c.fn.toNat (some (partOf s c.fn)) detail) c status 0 0 0

/-- The value that reports a seal in result A: the seal, or all ones where none was reached (R536). -/
def sealOrNone : Option Nat → Nat
  | none => 0xFFFFFFFFFFFFFFFF
  | some n => n

/-! ### Tables -/

/-- Key of a table. -/
def tkey (p : Part) (t : Nat) : Nat := 4096 * p.toNat + t

/-- A table, where it is defined. -/
def getTbl (s : State) (p : Part) (t : Nat) : Option Table := tabFind s.tables (tkey p t)

/-- Stores a table. -/
def putTbl (s : State) (p : Part) (t : Nat) (v : Table) : State := { s with tables := tabSet s.tables (tkey p t) v }

/-- The state with `f` applied to a table, where it is defined. -/
def modTbl (s : State) (p : Part) (t : Nat) (f : Table → Table) : State :=
  match getTbl s p t with
  | none => s
  | some v => putTbl s p t (f v)

/-- The tables of a partition, ascending. -/
def tblsOf (s : State) (p : Part) : List Table :=
  (s.tables.filter (fun kt => decide (kt.1 / 4096 = p.toNat))).map (·.2)

/-! ### Power domains -/

/-- The state of a switched domain. -/
def dom (s : State) (d : Nat) : DomState := nth .off s.pwr.pd d

/-- Sets a domain's state; a transition to on from off, retain or self-refresh counts one switching cycle
(R432). -/
def setDom (s : State) (d : Nat) (v : DomState) : State :=
  let s := if v = .on ∧ dom s d ≠ .on then
      { s with alm := { s.alm with switches := tabMod 0 s.alm.switches d (· + 1) } } else s
  { s with pwr := { s.pwr with pd := setNth s.pwr.pd d v } }

/-- Adds an entry to the module's error history (R304). -/
def history (s : State) (kind a b : Nat) : State := { s with hist := (kind, a, b) :: s.hist }

/-- Takes the number of the next free value. -/
def takeFree (s : State) : Nat × State := (s.free, { s with free := s.free + 1 })

/-! ### Scratchpad and DRAM accesses -/

/-- The byte ranges of `n` lines of `len` bytes at a pitch: one where the lines follow each other without a gap. -/
def lineSpans (base n len pitch : Nat) : List (Nat × Nat) :=
  if len = pitch then [(base, n * len)] else (List.range n).map fun i => (base + i * pitch, len)

/-- The byte ranges of device memory that a tensor entry's elements and shifts occupy; bytes between its rows are none of
them (R121, R534, R535). -/
def entrySpans (e : TEntry) : List (Nat × Nat) :=
  let data := lineSpans e.base e.rows (e.cols * fmtWidth e.fmt) e.pitch
  if e.fmt = 3 then
    let lines := if e.bax = 0 then e.rows else if e.bax = 1 then e.cols else ceilDiv e.rows 64
    data ++ lineSpans e.sbase lines (if e.bax = 1 then ceilDiv e.rows 64 else ceilDiv e.cols 64) e.spitch
  else data

/-- The scratchpad ranges that a queued deferred entry reads (R68). -/
def defSpans (s : State) (d : DefEntry) : List (Nat × Nat) :=
  entrySpans (tens s d.part d.w.src.toNat) ++ entrySpans (tens s d.part d.w.aux.toNat)

/-- Whether a write would change a range that a queued deferred entry reads. -/
def hitsDeferred (s : State) (a n : Nat) : Bool :=
  s.arr.defq.any fun d => (defSpans s d).any fun r => overlaps a n r.1 r.2

/-- Removes the poison, and the errors, of every granule that a write covers whole (R130). -/
def unpoison (s : State) (a n : Nat) : State :=
  let keep (g : Nat) : Bool := decide (64 * g < a ∨ a + n < 64 * g + 64)
  { s with
    poison := s.poison.filter keep
    spdErr := s.spdErr.filter fun e => keep e.1 }

/-- A read meets one bit error of the scratchpad: corrected and written back, or the granule is poisoned; both are
counted, raised and recorded (R130, R304). -/
def meetError (s : State) (e : Nat × Bool) : State :=
  let s := { s with spdErr := s.spdErr.filter (· != e) }
  let a := 64 * e.1
  if e.2 then history (raiseM (count s 31 3 1 1 { addr := some a }) evSpdEccCorr [a]) 5 a 0
  else
    let s := history (raiseM (count s 31 3 2 1 { addr := some a }) evSpdEccUncorr [a]) 6 a 0
    { s with poison := e.1 :: s.poison }

/-- A read of a scratchpad range meets the bit errors in its granules. -/
def meetErrors (s : State) (a n : Nat) : State :=
  (s.spdErr.filter fun e => overlaps a n (64 * e.1) 64).foldl meetError s

/-- Whether the bank group of a scratchpad address is off (R131, R429). -/
def spdOff (s : State) (a : Nat) : Bool := decide (a < t0End) && decide (dom s (36 + bankOf a / 32) = .off)

/-- The granules that a range touches. -/
def granulesOf (a n : Nat) : List Nat :=
  if n = 0 then [] else (List.range ((a + n - 1) / 64 - a / 64 + 1)).map fun i => (a / 64 + i) * 64

/-- Whether an access to a range names a bank group that is off. -/
def anyOff (s : State) (a n : Nat) : Bool := decide (a < t0End) && (granulesOf a n).any (spdOff s)

/-- Performs a write to device memory; what falls into a bank group that is off is not performed (R131). -/
def wrNow (s : State) (a : Nat) (bs : List Byte) : State :=
  if anyOff s a bs.length then
    raiseM { s with mem := bs.zipIdx.foldl (fun m x => if spdOff s (a + x.2) then m else m.set (a + x.2) x.1) s.mem }
      evSpdOffAccess [a]
  else unpoison { s with mem := s.mem.write a bs } a bs.length

/-- Whether a range overlaps a write that is held. -/
def hitsParked (s : State) (a n : Nat) : Bool := s.parked.any fun w => overlaps a n w.1 w.2.length

/-- A write to device memory by any unit: held while a queued deferred entry still reads the range, or behind a held write
that it overlaps (R68). -/
def wr (s : State) (a : Nat) (bs : List Byte) : State :=
  if a < t0End ∧ (hitsDeferred s a bs.length || hitsParked s a bs.length) then { s with parked := s.parked ++ [(a, bs)] }
  else wrNow s a bs

/-- What a reader that comes behind the held writes finds in device memory. -/
def memAfter (s : State) : Memory := s.parked.foldl (fun m w => m.write w.1 w.2) s.mem

/-- Performs the held writes that no queued entry reads any more, in order; a write behind a held one that it
overlaps stays held. -/
def unpark (s : State) : State :=
  let step (acc : State × List (Nat × List Byte)) (w : Nat × List Byte) : State × List (Nat × List Byte) :=
    if hitsDeferred acc.1 w.1 w.2.length
        || acc.2.any (fun v => overlaps v.1 v.2.length w.1 w.2.length) then (acc.1, acc.2 ++ [w])
    else (wrNow acc.1 w.1 w.2, acc.2)
  let r := s.parked.foldl step ({ s with parked := [] }, [])
  { r.1 with parked := r.2 }

/-- Whether an access to a range meets a poisoned granule or a bank group that is off, which reads as one (R130,
R131). -/
def poisoned (s : State) (a n : Nat) : Bool := (s.poison.any fun g => overlaps a n (64 * g) 64) || anyOff s a n

/-- A unit's access to a scratchpad range: a read meets the bit errors there; the access wakes the bank groups in
retain, each a wake stall of 280 cycles, and reports a read of one that is off (R131); `wrNow` reports a write. -/
def spdAccess (s : State) (a n : Nat) (write : Bool) : State :=
  if t0End ≤ a then s
  else
    let gs := ((granulesOf a n).map fun g => bankOf g / 32).eraseDups
    gs.foldl (fun s g =>
      match dom s (36 + g) with
      | .retain => count (setDom s (36 + g) .on) 31 1 1 280 {}
      | .off => if write then s else raiseM s evSpdOffAccess [a]
      | _ => s) (if write then s else meetErrors s a n)

/-- The row of a scratchpad address within its bank (R119). -/
def bankRow (a : Nat) : Nat :=
  let n := a / 64
  if a < dualBase then n / 248 else (n - 2031616) / 8

/-! ### The checksum sidecar (R236 to R238) -/

/-- One bit step of the reflected CRC-32C. -/
def crc32cBit (c : BitVec 32) : BitVec 32 := if c.getLsbD 0 then (c >>> 1) ^^^ 0x82F63B78#32 else c >>> 1

/-- One byte of the CRC-32C. -/
def crc32cByte (c : BitVec 32) (b : Byte) : BitVec 32 :=
  (List.range 8).foldl (fun c _ => crc32cBit c) (c ^^^ b.zeroExtend 32)

/-- The CRC-32C of a byte string (R236). -/
def crc32c (bs : List Byte) : BitVec 32 := ~~~ (bs.foldl crc32cByte 0xFFFFFFFF#32)

/-- One bit step of the CRC-16 of row records (R135). -/
def crc16Bit (c : BitVec 16) : BitVec 16 := if c.getLsbD 15 then (c <<< 1) ^^^ 0x1021#16 else c <<< 1

/-- One byte of the CRC-16, most significant bit first. -/
def crc16Byte (c : BitVec 16) (b : Byte) : BitVec 16 :=
  (List.range 8).foldl (fun c _ => crc16Bit c) (c ^^^ (b.zeroExtend 16 <<< 8))

/-- The CRC-16 of a byte string (R135). -/
def crc16 (bs : List Byte) : BitVec 16 := bs.foldl crc16Byte 0xFFFF#16

/-- One bit step of the CRC-64 of frames (R335). -/
def crc64Bit (c : BitVec 64) : BitVec 64 := if c.getLsbD 63 then (c <<< 1) ^^^ 0x42F0E1EBA9EA3693#64 else c <<< 1

/-- One byte of the CRC-64, most significant bit first. -/
def crc64Byte (c : BitVec 64) (b : Byte) : BitVec 64 :=
  (List.range 8).foldl (fun c _ => crc64Bit c) (c ^^^ (b.zeroExtend 64 <<< 56))

/-- The CRC-64 of a byte string (R335). -/
def crc64 (bs : List Byte) : BitVec 64 := bs.foldl crc64Byte 0#64

/-- The sidecar address of the 4 KiB block that holds a T1 or T2 address. -/
def sidecarOf (a : Nat) : Nat :=
  if a < t1End then sidecarBase + 4 * ((a - t1Base) / 4096)
  else sidecarBase + 402653184 + 4 * ((a - t2Base) / 4096)

/-- Whether an address lies in T1 or T2. -/
def inDram (a : Nat) : Bool := decide ((t1Base ≤ a ∧ a < t1End) ∨ (t2Base ≤ a ∧ a < t2End))

/-- Whether the block that holds an address matches its sidecar CRC. -/
def blockOk (s : State) (a : Nat) : Bool :=
  let b := a / 4096 * 4096
  decide (s.mem.readNat (sidecarOf b) 4 = (crc32c (s.mem.read b 4096)).toNat)

/-- The starts of the 4 KiB blocks that a range touches, ascending. -/
def blocksOf (a n : Nat) : List Nat :=
  if n = 0 then [] else (List.range ((a + n - 1) / 4096 - a / 4096 + 1)).map fun i => (a / 4096 + i) * 4096

/-- The re-read of a block that mismatches, which mismatches again, and the consequences 1 to 3 (R238): the event, the
history, and the checksum-fault report where the access belongs to the plan of `p`. -/
def cksumFault (s : State) (p : Part) (inPlan : Bool) (src : W32) (blk b : Nat) : State :=
  let s := history (raise (count s blk 3 3 1 { atPart p with addr := some b }) p evMemCksum [b]) 1 b 0
  if inPlan then report s p (vCksum ||| src) else s

/-- A checked read of a tensor range: the bytes, the state with the consequences of every faulty block, and the
first faulty block (R238). -/
def rdChecked (s : State) (p : Part) (inPlan : Bool) (src : W32) (blk a n : Nat) : List Byte × State × Option Nat :=
  let bs := s.mem.read a n
  if !inDram a then (bs, s, none)
  else
    let bad := (blocksOf a n).filter fun b => !blockOk s b
    (bs, bad.foldl (fun s b => cksumFault s p inPlan src blk b) s, bad.head?)

/-- One block's part of a checked write: the CRC written for a whole block or a good partial one; a faulty
partial block keeps its old CRC (R237). -/
def wrBlock (s : State) (p : Part) (inPlan : Bool) (src : W32) (blk : Nat) (b a : Nat) (bs : List Byte) :
    State × Option Nat :=
  let lo := if a < b then b else a
  let hi := if a + bs.length < b + 4096 then a + bs.length else b + 4096
  let part := slice bs (lo - a) (hi - lo)
  let whole : Bool := decide (hi - lo = 4096)
  let ok := whole || blockOk s b
  let s := if whole then s else count s blk 2 3 1 (atPart p)
  let s := if ok then s else cksumFault s p inPlan src blk b
  let s := wrNow s lo part
  if ok then
    (wrNow s (sidecarOf b) (bytesOf 4 (crc32c (s.mem.read b 4096)).toNat), none)
  else (s, some lo)

/-- A write of a tensor range that maintains the sidecar; the first byte written into a faulty block, where one
was met (R237). -/
def wrChecked (s : State) (p : Part) (inPlan : Bool) (src : W32) (blk : Nat) (a : Nat) (bs : List Byte) :
    State × Option Nat :=
  if !inDram a then (wr s a bs, none)
  else
    (blocksOf a bs.length).foldl (fun acc b =>
      let r := wrBlock acc.1 p inPlan src blk b a bs
      (r.1, acc.2.or r.2)) (s, none)

end Sys2Proof.Machine
end

