-- ==== Sys2Proof/Machine/Operands.lean ====
section
/-! DEFINITION. The operand forms: elements of tensors in device memory, of weight regions, of accumulators, of
tile registers; Gale draws of elements; the decoded words of the unit streams. -/

namespace Sys2Proof
open Machine

/-! ### Tensors in device memory (R121, R533 to R535) -/

/-- Address of element (i, j) (R121). -/
def TEntry.addr (e : TEntry) (i j : Nat) : Nat := e.base + i * e.pitch + j * fmtWidth e.fmt

/-- An entry whose shift area is left aside: its codes alone. -/
def TEntry.codes (e : TEntry) : TEntry := if e.fmt = 3 then { e with fmt := 2 } else e

/-- Row and column of flat element `k` (R535). -/
def TEntry.rc (e : TEntry) (k : Nat) : Nat × Nat := if e.cols = 0 then (k, 0) else (k / e.cols, k % e.cols)

/-- Address of flat element `k`. -/
def TEntry.flat (e : TEntry) (k : Nat) : Nat := e.addr (e.rc k).1 (e.rc k).2

/-- Address of the shift byte of element (i, j), by the blocked axis (R534). -/
def TEntry.shiftAddr (e : TEntry) (i j : Nat) : Nat :=
  if e.bax = 0 then e.sbase + i * e.spitch + j / 64
  else if e.bax = 1 then e.sbase + j * e.spitch + i / 64
  else e.sbase + i / 64 * e.spitch + j / 64

end Sys2Proof

namespace Sys2Proof.Machine

/-- The shift of element (i, j) of a Facet8 entry. -/
def shiftAt (s : State) (e : TEntry) (i j : Nat) : Int := s8 (s.mem.get (e.shiftAddr i j))

/-- The array or the vector engine reads or writes a block of an entry's elements: their bytes, and in a Facet8 entry
their shift bytes, are accessed (R130, R131). What lies beyond the extent is not. -/
def touchBlock (s : State) (e : TEntry) (r0 nr c0 nc : Nat) (write : Bool) : State :=
  let n := Nat.min (c0 + nc) e.cols - c0
  let rows := ((List.range nr).map (· + r0)).filter fun r => decide (r < e.rows)
  let step := if e.bax = 1 then 1 else 64
  if n = 0 ∨ e.shelf then s
  else
    rows.foldl (fun s r =>
      let s := spdAccess s (e.addr r c0) (n * fmtWidth e.fmt) write
      if e.fmt = 3 then
        ((List.range (ceilDiv n step)).foldl (fun s k => spdAccess s (e.shiftAddr r (c0 + step * k)) 1 write) s)
      else s) s

/-- The raw bits of element (i, j). -/
def rawAt (s : State) (e : TEntry) (i j : Nat) : Nat := s.mem.readNat (e.addr i j) (fmtWidth e.fmt)

/-- Element (i, j) decoded: +0 outside the local extent, NaN in a poisoned granule or with its shift in one (R130). -/
def elemAt (s : State) (e : TEntry) (i j : Nat) : Num :=
  if e.rows ≤ i ∨ e.cols ≤ j then .zero
  else if poisoned s (e.addr i j) (fmtWidth e.fmt) || (e.fmt == 3 && poisoned s (e.shiftAddr i j) 1) then .nan
  else ofRaw e.fmt (if e.fmt = 3 then shiftAt s e i j else 0) (rawAt s e i j)

/-- The NaN or void pattern of a format code (R29). -/
def nanRaw (fmt : Nat) : Nat :=
  match fmt with
  | 0 => 0x7F81 | 1 => 0x7FC00000 | 2 => 0x80 | 3 => 0x80 | _ => 0

/-- The raw bits of an element as the array and the vector engine read them: NaN in a poisoned granule. -/
def rawSafe (s : State) (e : TEntry) (i j : Nat) : Nat :=
  if poisoned s (e.addr i j) (fmtWidth e.fmt) then nanRaw e.fmt else rawAt s e i j

end Sys2Proof.Machine

namespace Sys2Proof
open Machine

/-- The element index of local element (i, j) in the tensor's logical shape (R40). -/
def TEntry.gi (e : TEntry) (i j : Nat) : Nat := (e.orow + i) * e.lcols + e.ocol + j

end Sys2Proof

namespace Sys2Proof.Machine

/-- The rounding of one element of an entry: ties-away, or a draw of stream 0x00 (R25, R40). -/
def rndAt (s : State) (p : Part) (stoch : Bool) (e : TEntry) (i j : Nat) : Rnd :=
  if stoch then .stoch (galeR12 (seedOf s p) e.ident (galeStep s p) 0 (e.gi i j)) else .away

/-- The rounding of element `ei` under an explicit tensor identifier and stream. -/
def rndId (s : State) (p : Part) (stoch : Bool) (ident stream ei : Nat) : Rnd :=
  if stoch then .stoch (galeR12 (seedOf s p) ident (galeStep s p) stream ei) else .away

/-! ### Weight regions of the shelf (R69 to R72, R75) -/

end Sys2Proof.Machine

namespace Sys2Proof
open Machine

/-- Bytes of one copy of a region without its scale block. -/
def TEntry.regionBytes (e : TEntry) : Nat := e.rows * e.cols * fmtWidth e.fmt

/-- Bytes of a region with its scale block, whole granules (R69). -/
def TEntry.regionSize (e : TEntry) : Nat :=
  e.regionBytes + if e.scaled then roundUp (1 + ceilDiv e.cols 2) 64 else 0

/-- Offset of element (k, n) in the plain copy. -/
def TEntry.plainOff (e : TEntry) (k n : Nat) : Nat :=
  e.base + ((n / 512) * e.rows + k) * 512 * fmtWidth e.fmt + n % 512 * fmtWidth e.fmt

/-- Offset of element (k, n) in the transposed copy. -/
def TEntry.transOff (e : TEntry) (k n : Nat) : Nat :=
  e.base + ((k / 512) * e.cols + n) * 512 * fmtWidth e.fmt + k % 512 * fmtWidth e.fmt

end Sys2Proof

namespace Sys2Proof.Machine

/-- Bytes of a region's scale block (R20). -/
def scaleLen (r : TEntry) : Nat := 1 + ceilDiv r.cols 2

/-- The effective shift of channel `n` from a region's scale block (R19, R20). -/
def blockShift (m : Memory) (e : TEntry) (n : Nat) : Int :=
  let a := e.base + e.regionBytes
  let base := s8 (m.get a)
  let b := (m.get (a + 1 + n / 2)).toNat
  if base = -128 then -128 else base + ((if n % 2 = 0 then b % 16 else b / 16 : Nat) : Int)

/-! ### Accumulators and scale registers (R74, R77) -/

/-- The bits of accumulator `i`. -/
def accGet (s : State) (i : Nat) : W32 := BitVec.ofNat 32 (s.arr.acc.readNat (4 * i) 4)

/-- Writes accumulator `i`. -/
def accSet (s : State) (i : Nat) (v : W32) : State :=
  { s with arr := { s.arr with acc := s.arr.acc.writeNat (4 * i) 4 v.toNat } }

/-- Sets `n` accumulators from `i` on to +0. -/
def accClear (s : State) (i n : Nat) : State :=
  { s with arr := { s.arr with acc := s.arr.acc.zero (4 * i) (4 * n) } }

/-- A shift of a scale bank. -/
def scaleGet (s : State) (bank i : Nat) : Int := s8 (s.arr.scale.get (4096 * bank + i % 4096))

/-! ### Array words (R81, R82) -/

end Sys2Proof.Machine

namespace Sys2Proof
open Machine

/-- The fields of an array word's 128 bits. -/
def AWord.ofBits (w : BitVec 128) : AWord :=
  { flg := w.extractLsb' 112 8, src := w.extractLsb' 91 21, dst := w.extractLsb' 70 21,
    cnt := w.extractLsb' 54 16, gst := w.extractLsb' 38 16, gct := w.extractLsb' 33 5,
    til := w.extractLsb' 27 6, aux := w.extractLsb' 8 19 }

/-- Format code of FMT or DFMT of the array flags: 0 Facet8, 1 Bead8, 2 Pearl16, 3 Opal32. -/
def AWord.fmt (w : AWord) : Nat :=
  match bits 7 6 w.flg.toNat with
  | 0 => 3 | 1 => 2 | 2 => 0 | _ => 1

/-- Flag bit [112 + i]. -/
def AWord.flag (w : AWord) (i : Nat) : Bool := bit i w.flg.toNat

/-- CONT of a product, CLR of a dump. -/
def AWord.cont (w : AWord) : Bool := w.flag 5
/-- SCL of a product, RND of a dump. -/
def AWord.scl (w : AWord) : Bool := w.flag 4
/-- SBK of a product, SHM of a dump. -/
def AWord.sbk (w : AWord) : Bool := w.flag 3
/-- GRAD of a dump. -/
def AWord.grad (w : AWord) : Bool := w.flag 2
/-- TWO of AWLD, DIR of AMOV. -/
def AWord.two (w : AWord) : Bool := w.flag 7

/-- Accumulators of one row of a block. -/
def AWord.rowLen (w : AWord) : Nat := w.til.toNat * 512

/-! ### Vector words and tile registers (R90 to R96) -/

/-- The fields of a vector word's 128 bits. -/
def VWord.ofBits (w : BitVec 128) : VWord :=
  { flg := w.extractLsb' 112 8, td := w.extractLsb' 107 5, ta := w.extractLsb' 102 5,
    tb := w.extractLsb' 97 5, tc := w.extractLsb' 92 5, ci := w.extractLsb' 87 5, msk := w.extractLsb' 84 3,
    df := w.extractLsb' 82 2, sf := w.extractLsb' 80 2, ent := w.extractLsb' 61 19,
    row := w.extractLsb' 41 20, col := w.extractLsb' 29 12, imm := w.extractLsb' 0 16 }

/-- Flag bit [112 + i]. -/
def VWord.flag (w : VWord) (i : Nat) : Bool := bit i w.flg.toNat
def VWord.men (w : VWord) : Bool := w.flag 7
def VWord.zm (w : VWord) : Bool := w.flag 6
def VWord.rnd (w : VWord) : Bool := w.flag 5
def VWord.bc (w : VWord) : Nat := bits 4 3 w.flg.toNat
def VWord.grad (w : VWord) : Bool := w.flag 2
def VWord.rax (w : VWord) : Bool := w.flag 1
/-- ACC; LDM of VLD; GSH of VQNT. -/
def VWord.acc (w : VWord) : Bool := w.flag 0

end Sys2Proof

namespace Sys2Proof.Machine

/-- Columns of a shape (R90). -/
def shapeCols (fmt : Nat) : Nat :=
  match fmt with
  | 0 => 32 | 1 => 16 | _ => 64

/-- The raw bits of element (i, j) of a tile register in a shape. -/
def tileRaw (s : State) (t fmt i j : Nat) : Nat :=
  s.vec.tile.readNat (2048 * t + 64 * i + j * fmtWidth fmt) (fmtWidth fmt)

/-- The shift lane entry of a row. -/
def laneAt (s : State) (t i : Nat) : Int := s8 (s.vec.lane.get (32 * t + i))

/-- Element (i, j) of a tile register decoded in a shape. -/
def tileNum (s : State) (t fmt i j : Nat) : Num :=
  ofRaw fmt (if fmt = 3 then laneAt s t i else 0) (tileRaw s t fmt i j)

/-- Mask bit (i, j) of a mask register. -/
def maskBit (s : State) (k i j : Nat) : Bool := bit j (s.vec.mask.readNat (128 * k + 4 * i) 4)

/-- The mask bit that governs element (i, j) of a shape (R92). -/
def maskFor (s : State) (k fmt i j : Nat) : Bool :=
  maskBit s k i (if shapeCols fmt = 64 then j / 2 else j)

/-- Whether an instruction leaves a destination element active (R93). -/
def active (s : State) (w : VWord) (fmt i j : Nat) : Bool := !w.men || maskFor s w.msk.toNat fmt i j

/-- Writes raw bits into element (i, j) of a tile register. -/
def tileSet (s : State) (t fmt i j v : Nat) : State :=
  { s with vec := { s.vec with
      tile := s.vec.tile.writeNat (2048 * t + 64 * i + j * fmtWidth fmt) (fmtWidth fmt) v } }

/-- Writes a shift lane entry. -/
def laneSet (s : State) (t i : Nat) (v : Int) : State :=
  { s with vec := { s.vec with lane := s.vec.lane.set (32 * t + i) (BitVec.ofInt 8 v) } }

/-- Writes a row of a mask register. -/
def maskRow (s : State) (k i v : Nat) : State :=
  { s with vec := { s.vec with mask := s.vec.mask.writeNat (128 * k + 4 * i) 4 v } }

/-- The operand that TB supplies to element (i, j): the tile element in SF, or a broadcast (R96, R102). `off` is
the column offset of R101 for a Pearl16 source with an Opal32 result. -/
def tbNum (s : State) (w : VWord) (off i j : Nat) : Num :=
  let t := w.tb.toNat
  match w.bc with
  | 0 => tileNum s t w.sf.toNat i (j + off)
  | 1 => tileNum s t 1 i w.ci.toNat
  | 2 => tileNum s t w.sf.toNat 0 (j + off)
  | _ => tileNum s t 1 0 w.ci.toNat

/-- The column offset of a source: 16 CI[0] when Pearl16 sources fill an Opal32 tile (R101). -/
def colOff (w : VWord) : Nat := if w.sf = 0 ∧ w.df = 1 then 16 * (w.ci.toNat % 2) else 0

/-- The logical element index of tile element (i, j) of a shape under the entry that ENT names (R114). -/
def tileIndex (s : State) (p : Part) (w : VWord) (fmt i j : Nat) : Nat :=
  (tens s p w.ent.toNat).gi (32 * w.row.toNat + i) (shapeCols fmt * w.col.toNat + j)

/-- The rounding of tile element (i, j). -/
def tileRnd (s : State) (p : Part) (w : VWord) (fmt i j : Nat) : Rnd :=
  rndId s p w.rnd (tens s p w.ent.toNat).ident 0 (tileIndex s p w fmt i j)

end Sys2Proof.Machine
end

