-- ==== Sys2Proof/Machine/Flags.lean ====
section
/-! DEFINITION. The reports and counts that results raise: conversion tallies by unit, non-finite reports,
grid flags (R37, R82, R117, R255, R280). -/

namespace Sys2Proof.Machine

/-- Counter blocks of the units (R478). -/
def blkSeq : Nat := 0
def blkArr : Nat := 1
def blkVec : Nat := 2
def blkSort (u : Nat) : Nat := 3 + u
def blkRow (e : Nat) : Nat := 11 + e
def blkXch (m : Nat) : Nat := 27 + m
def blkDma (m : Nat) : Nat := 29 + m
def blkSpd : Nat := 31
def blkPort (b : Bool) : Nat := 32 + b2n b
def blkLink (k : Nat) : Nat := 34 + k

/-- A dump's counts and its non-finite report when GRAD is 1 (R82). -/
def arrReport (s : State) (p : Part) (grad nonfinite : Bool) (c : Counts) : State :=
  let s := tally s blkArr c
  if grad && nonfinite then report s p (vNonfin ||| srcArray) else s

/-- A vector result's counts and its non-finite report when GRAD is 1 (R117). -/
def vecReport (s : State) (p : Part) (grad nonfinite : Bool) (c : Counts) : State :=
  let s := tally s blkVec c
  if grad && nonfinite then report s p (vNonfin ||| srcVector) else s

/-- Whether raw bits of a format code decode to NaN or an infinity. -/
def rawNonfinite (fmt v : Nat) : Bool := !(ofRaw fmt 0 v).isFinite

end Sys2Proof.Machine

namespace Sys2Proof
open Machine

/-- Fields of an exchange entry (R271). -/
def XEntry.fld (x : XEntry) (hi lo : Nat) : Nat := Machine.bits hi lo x.bits.toNat
def XEntry.kind (x : XEntry) : Nat := x.fld 511 508
def XEntry.gidx (x : XEntry) : Nat := x.fld 495 487
def XEntry.hr (x : XEntry) : Nat := x.fld 486 483
def XEntry.g0 (x : XEntry) : Int := sgn 8 (x.fld 482 475)
def XEntry.gtab (x : XEntry) : Bool := bit 474 x.bits.toNat
def XEntry.gtid (x : XEntry) : Nat := x.fld 473 462
def XEntry.src (x : XEntry) : Nat := x.fld 353 333
def XEntry.cfmt (x : XEntry) : Nat := x.fld 505 504
def XEntry.kch (x : XEntry) : Nat := x.fld 373 354
def XEntry.copy (x : XEntry) : Nat := x.fld 248 228

end Sys2Proof

namespace Sys2Proof.Machine

/-- The GR entries of a plan in order: the grid index of an entry is its place here (R274). -/
def grEntries (pl : Plan) : List XEntry := pl.exch.filter (fun x => decide (x.kind = 4))

/-- The place of the first entry that satisfies a test. -/
def findIx {α : Type} (f : α → Bool) : List α → Option Nat
  | [] => none
  | a :: t => if f a then some 0 else (findIx f t).map (· + 1)

/-- The grid index of the GR entry whose SRC names a tensor entry, or a tensor that holds it (R280). -/
def gridOfTensor (pl : Plan) (d : Nat) : Option Nat :=
  let e := nth {} pl.tensors d
  findIx (fun x => !x.gtab && (decide (x.src = d) || (let t := nth {} pl.tensors x.src
      decide (t.base ≤ e.base ∧ e.base < t.base + t.rows * t.pitch)))) (grEntries pl)

/-- The channel length of the Facet8 copy that a tensor entry holds: the COPY of an RF or AG entry (R289). -/
def copyKch (pl : Plan) (i : Nat) : Option Nat :=
  (pl.exch.find? fun x => decide ((x.kind = 1 ∨ x.kind = 2) ∧ x.cfmt = 3 ∧ x.copy = i)).map (·.kch)

/-- The grid exponent of an index in the running step: the job's, G0 before the first seal (R282). -/
def gridExp (j : Job) (k : Nat) : Int := tabGet ((nth {} (grEntries j.plan) k).g0) j.grid k

/-- EMAX of a finite nonzero value, limited below at −127; −128 for any other (R280). -/
def emaxOf : Num → Int
  | .fin m e =>
    if m = 0 then -128
    else
      let l := (Nat.log2 m.natAbs : Int) + e
      if l < -127 then -127 else if 127 < l then 127 else l
  | _ => -128

end Sys2Proof.Machine
end

