-- ==== Sys2Proof/Machine/Array.lean ====
section
/-! DEFINITION. The matrix array: group sums and the exact dot product, and what each array instruction does to
the shelf, the scale registers, the accumulators and the scratchpad. -/

namespace Sys2Proof.Machine

/-! ### The exact dot product (R43 to R57) -/

/-- Whether any element of a list satisfies a test on decoded values. -/
def anyNum (f : Num → Bool) (l : List Num) : Bool := l.any f

/-- `floor(log2)` of a finite nonzero value. -/
def numLog2 : Num → Int
  | .fin m e => (Nat.log2 m.natAbs : Int) + e
  | _ => 0

/-- The largest exponent among finite nonzero products (R49). -/
def maxExp : List Num → Option Int
  | [] => none
  | p :: t => if p.isNonzero then maxShift (some (numLog2 p)) (maxExp t) else maxExp t

/-- A product truncated toward zero to a multiple of `2^lo` (R49). -/
def truncAt (lo : Int) : Num → Num
  | .fin m e =>
    if lo ≤ e then .fin (m * 2 ^ (e - lo).toNat) lo
    else .fin (m.sign * (m.natAbs / 2 ^ (lo - e).toNat : Nat)) lo
  | x => x

/-- The sum of finite values, exact. -/
def sumNum (l : List Num) : Num := l.foldl Num.add .zero

/-- The group sum of a list of products; `fmt` is the operand format code (R48 to R50). -/
def groupSum (fmt : Nat) (ps : List Num) : Num :=
  if ps.any Num.isNan then .nan
  else if ps.contains (.inf false) && ps.contains (.inf true) then .nan
  else if ps.contains (.inf false) then .inf false
  else if ps.contains (.inf true) then .inf true
  else if fmt = 3 then sumNum ps
  else
    match maxExp ps with
    | none => .zero
    | some e => sumNum (ps.map (truncAt (e - 60)))

/-- The products of group `g` of a reduction axis of length `klen`: positions beyond it are padding (R46). -/
def groupProds (klen : Nat) (a w : Nat → Num) (g : Nat) : List Num :=
  ((List.range 64).map (· + 64 * g)).filterMap fun k => if k < klen then some ((a k).mul (w k)) else none

/-- One accumulation step: the accumulator, rounded once (R51). -/
def accStep (fmt klen : Nat) (a w : Nat → Num) (acc : W32 × Counts) (g : Nat) : W32 × Counts :=
  let r := toOpalR .away ((ofOpal acc.1).add (groupSum fmt (groupProds klen a w g))).toRes
  (r.1, acc.2.add r.2)

/-- The accumulation of `n` groups from group `g0` on (R51, R52). -/
def dotFrom (fmt klen : Nat) (a w : Nat → Num) (acc : W32) (g0 n : Nat) : W32 × Counts :=
  ((List.range n).map (· + g0)).foldl (accStep fmt klen a w) (acc, {})

/-! ### Products -/

/-- An element of a streamed or stationary tensor at logical position: +0 outside the local extent. -/
def logAt (s : State) (e : TEntry) (i k : Nat) : Num := if k < e.ocol then .zero else elemAt s e i (k - e.ocol)

/-- An element at logical row `k`, local column `j`. -/
def logRow (s : State) (e : TEntry) (k j : Nat) : Num := if k < e.orow then .zero else elemAt s e (k - e.orow) j

/-- The shift of a Facet8 weight: a scale register, or the region's scale block (R74, R75). -/
def weightShift (s : State) (m : Memory) (r : TEntry) (w : AWord) (ix n : Nat) : Int :=
  if w.scl then blockShift m r n else scaleGet s (b2n w.sbk) ix

/-- The weight at reduction position `k`, output channel `n` of the region (R60, R69). -/
def ammWeight (s : State) (r : TEntry) (w : AWord) (n k : Nat) : Num :=
  ofRaw w.fmt (if w.fmt = 3 then weightShift s s.arr.plain r w n n else 0)
    (s.arr.plain.readNat (r.plainOff k n) (fmtWidth r.fmt))

/-- The weight that an AMMT reads for input feature `p` and output channel `k` of the tensor (R71). -/
def ammtWeight (s : State) (r : TEntry) (w : AWord) (p k : Nat) : Num :=
  let n := k - r.n0
  let m := if s.arr.colr then s.arr.plain else s.arr.trans
  let off := if s.arr.colr then r.plainOff p n else r.transOff p n
  ofRaw w.fmt (if w.fmt = 3 then weightShift s m r w (k - 64 * w.gst.toNat) n else 0)
    (m.readNat off (fmtWidth r.fmt))

/-- A product block: for each row and output index one accumulation (R60, R77, R78). `f` gives the element of the
streamed operand in row `i` at position `k`, `g` that of the stationary one at output index `n`. -/
def productBlock (s : State) (w : AWord) (klen : Nat) (f : Nat → Nat → Num) (g : Nat → Nat → Num) :
    State × Counts :=
  let row := w.rowLen
  (List.range (w.cnt.toNat * row)).foldl (fun acc x =>
    let ix := w.dst.toNat + x
    let a0 := if w.cont then accGet acc.1 ix else 0
    let r := dotFrom w.fmt klen (f (x / row)) (g (x % row)) a0 w.gst.toNat w.gct.toNat
    (accSet acc.1 ix r.1, acc.2.add r.2)) (s, {})

/-! ### Bit errors of the stores (R86) -/

/-- One bit error met by a word of partition `p`: counted, raised and recorded; it no longer stands. -/
def arrError (s : State) (p : Part) (e : Nat × Nat × Bool) : State :=
  let s := { s with arr := { s.arr with errs := s.arr.errs.filter (· != e) } }
  let s := count s blkArr 3 (if e.2.2 then 1 else 2) 1 (atPart p)
  history (raise s p (if e.2.2 then evArrEccCorr else evArrEccUncorr) [e.1, e.2.1]) (if e.2.2 then 8 else 9) e.1 e.2.1

/-- An instruction reads `n` accumulators from `lo` on: one that an uncorrectable word holds becomes NaN. -/
def accMeet (s : State) (p : Part) (lo n : Nat) : State :=
  (s.arr.errs.filter fun e => e.1 == 0 && overlaps (2 * e.2.1) 2 lo n).foldl (fun s e =>
    let s := arrError s p e
    if e.2.2 then s
    else [2 * e.2.1, 2 * e.2.1 + 1].foldl (fun s i => if lo ≤ i ∧ i < lo + n then accSet s i 0x7FC00000 else s) s) s

/-- A write of whole words of a store, from byte `lo` on, replaces what their errors stood in. -/
def errClear (s : State) (store lo n : Nat) : State :=
  { s with arr := { s.arr with errs := s.arr.errs.filter fun e =>
      !(e.1 == store && decide (lo ≤ 8 * e.2.1 ∧ 8 * e.2.1 + 8 ≤ lo + n)) } }

/-- The bytes of a region's scale block that give the shift of channel `n`: the store and the range. -/
def scaleReads (store : Nat) (r : TEntry) (n : Nat) : List (Nat × Nat × Nat) :=
  [(store, r.base + r.regionBytes, 1), (store, r.base + r.regionBytes + 1 + n / 2, 1)]

/-- The bytes of the shelf and the scale registers that a product reads for output index `x` at position `k`. -/
def termReads (s : State) (op : AOp) (r : TEntry) (w : AWord) (x k : Nat) : List (Nat × Nat × Nat) :=
  let wd := fmtWidth r.fmt
  match op with
  | .amm =>
    (1, r.plainOff k x, wd) ::
      (if w.fmt = 3 then (if w.scl then scaleReads 1 r x else [(3, 4096 * b2n w.sbk + x, 1)]) else [])
  | .ammt =>
    let n := k - r.n0
    let st := if s.arr.colr then 1 else 2
    (st, if s.arr.colr then r.plainOff x n else r.transOff x n, wd) ::
      (if w.fmt = 3 then (if w.scl then scaleReads st r n else [(3, 4096 * b2n w.sbk + (k - 64 * w.gst.toNat), 1)])
       else [])
  | _ => []

/-- Whether a 64-bit word of a store is among the bytes that feed output index `x` of a product. -/
def feeds (s : State) (op : AOp) (r : TEntry) (w : AWord) (klen : Nat) (e : Nat × Nat × Bool) (x : Nat) : Bool :=
  ((List.range (64 * w.gct.toNat)).map (· + 64 * w.gst.toNat)).any fun k =>
    decide (k < klen) && (termReads s op r w x k).any fun b => b.1 == e.1 && overlaps (8 * e.2.1) 8 b.2.1 b.2.2

/-- A product whose stationary operand comes from the shelf meets the errors it reads: every accumulator that an
uncorrectable word feeds becomes NaN. -/
def shelfMeet (s : State) (p : Part) (op : AOp) (r : TEntry) (w : AWord) (klen : Nat) : State :=
  s.arr.errs.foldl (fun s e =>
    let xs := (List.range w.rowLen).filter (feeds s op r w klen e)
    if xs.isEmpty then s
    else
      let s := arrError s p e
      if e.2.2 then s
      else
        (List.range w.cnt.toNat).foldl (fun s row =>
          xs.foldl (fun s x => accSet s (w.dst.toNat + row * w.rowLen + x) 0x7FC00000) s) s) s

/-- The accumulators of a product's block before it: read where CONT is 1, else replaced. -/
def blockMeet (s : State) (p : Part) (w : AWord) : State :=
  let n := w.cnt.toNat * w.rowLen
  if w.cont then accMeet s p w.dst.toNat n else errClear s 0 (4 * w.dst.toNat) (4 * n)

/-- The local positions that a product's slab reads of an operand whose logical origin on the reduction axis is `o`, as
(first, count): positions past the axis length are padding and are not read (R46). -/
def slabLocal (w : AWord) (klen o : Nat) : Nat × Nat :=
  let lo := Nat.max (64 * w.gst.toNat) o
  (lo - o, Nat.min (64 * w.gst.toNat + 64 * w.gct.toNat) klen - lo)

/-- The elements of the streamed operand that a product of rows reads. -/
def touchRows (s : State) (e : TEntry) (w : AWord) : State :=
  let k := slabLocal w e.lcols e.ocol
  touchBlock s e 0 w.cnt.toNat k.1 k.2 false

/-- AMM (R60, R82). -/
def ammRun (s : State) (p : Part) (w : AWord) : State :=
  let e := tens s p w.src.toNat
  let r := entry s p w.aux.toNat
  let s := blockMeet (touchRows s e w) p w
  let o := productBlock s w e.lcols (logAt s e) (ammWeight s r w)
  shelfMeet (tally o.1 blkArr o.2) p .amm r w e.lcols

/-- Whether the transposed-valid mark of a region entry is set (R72). -/
def markSet (s : State) (p : Part) (i : Nat) : Bool := s.arr.tvalid.contains (p.toNat, i)

/-- AMMT on a region whose mark is clear: NaN in every accumulator of the block, the event and the report (R72). -/
def ammtVoid (s : State) (p : Part) (w : AWord) (idx : Nat) : State :=
  let s := (List.range (w.cnt.toNat * w.rowLen)).foldl (fun s x => accSet s (w.dst.toNat + x) 0x7FC00000) s
  report (raise s p evProgError [idx]) p (vNonfin ||| srcArray)

/-- AMMT (R71, R72). `idx` is the word's index in its stream. -/
def ammtRun (s : State) (p : Part) (w : AWord) (idx : Nat) : State :=
  if !s.arr.colr && !markSet s p w.aux.toNat then ammtVoid s p w idx
  else
    let e := tens s p w.src.toNat
    let r := entry s p w.aux.toNat
    let s := blockMeet (touchRows s e w) p w
    let o := productBlock s w e.lcols (logAt s e) (ammtWeight s r w)
    shelfMeet (tally o.1 blkArr o.2) p .ammt r w e.lcols

/-- The rows of an operand that an AACC's slab covers, its first `n` columns. -/
def touchSlab (s : State) (e : TEntry) (w : AWord) (klen n : Nat) : State :=
  let k := slabLocal w klen e.orow
  touchBlock s e k.1 k.2 0 n false

/-- AACC (R47, R62, R82): row `c` of the block is gradient column `c`, output index `n` an input feature. The gradient tile
has been read where the AACC is the second half of a twin pair that runs on both halves (R64). -/
def aaccRun (s : State) (p : Part) (w : AWord) (tileRead : Bool) : State :=
  let e := tens s p w.src.toNat
  let a := tens s p w.aux.toNat
  let s := if tileRead then s else touchSlab s e w e.lrows w.cnt.toNat
  let s := blockMeet (touchSlab s a w e.lrows w.rowLen) p w
  let o := productBlock s w e.lrows (fun c k => logRow s e k c) (fun n k => logRow s a k n)
  tally o.1 blkArr o.2

/-! ### The deferred queue (R66 to R68) -/

/-- Runs the oldest queued entry and then performs the writes that waited for it. -/
def runOldest (s : State) : State :=
  match s.arr.defq with
  | [] => s
  | d :: t => unpark (aaccRun { s with arr := { s.arr with defq := t } } d.part d.w false)

/-- Queues an AACC. The queue holds at most 255 entries then: an AACC that finds it full waits (R66). -/
def enqueue (s : State) (p : Part) (w : AWord) : State :=
  { s with arr := { s.arr with defq := s.arr.defq ++ [{ part := p, w := w }] } }

/-- ADRN (R67): the array stream runs the CNT oldest entries, all for 0, before any later word of it. -/
def adrnRun (s : State) (p : Part) (w : AWord) : State :=
  modJob s p fun j => { j with arrS := { j.arrS with
    drain := if w.cnt = 0 then s.arr.defq.length else Nat.min w.cnt.toNat s.arr.defq.length } }

/-- Discards the deferred queue and lets the writes that it held go (R68). -/
def dropDeferred (s : State) : State := unpark { s with arr := { s.arr with defq := [] } }

/-! ### Loads (R70, R74) -/

/-- The raw code of element (k, n) of a source tensor as a region takes it: void where its granule, or a byte of the scale
block that gives its channel's shift, is poisoned (R130); zero outside the extent. -/
def shelfRaw (s : State) (e r : TEntry) (k n : Nat) : Nat :=
  if e.rows ≤ k ∨ e.cols ≤ n then 0
  else if r.scaled && (poisoned s e.sbase 1 || poisoned s (e.sbase + 1 + n / 2) 1) then nanRaw 3
  else rawSafe s e k n

/-- The value of element (k, n) of a gathered Facet8 copy with `kch` elements in a channel: its code at the shift of the
channel that its flat index lies in, exact (R289). -/
def gatheredAt (s : State) (e : TEntry) (kch k n : Nat) : Num :=
  let a := e.sbase + (k * e.cols + n) / kch
  if e.rows ≤ k ∨ e.cols ≤ n then .zero
  else if poisoned s (e.addr k n) 1 || poisoned s a 1 then .nan
  else ofRaw 3 (s8 (s.mem.get a)) (rawAt s e k n)

/-- The values of output channel `n` of a region that a gathered copy fills. -/
def gatheredCol (s : State) (e r : TEntry) (kch n : Nat) : List Num :=
  (List.range r.rows).map fun k => gatheredAt s e kch k n

/-- What an AWLD lays into a region: the code of each element, the scale block, and the counts of an encoding. -/
structure ShelfLoad where
  code : Nat → Nat → Nat
  scale : List Byte
  counts : Counts

/-- The codes of the source with the scale block that its shift area holds (R70); of a gathered copy that goes into a region
with a scale block, the two-level encoding of its values, ties away, by the region's output channels (R35, R289). -/
def shelfLoad (s : State) (p : Part) (src : Nat) (r : TEntry) : ShelfLoad :=
  let e := tens s p src
  match (if r.scaled then (getJob s p).bind fun j => copyKch j.plan src else none) with
  | none => { code := shelfRaw s e r, scale := s.mem.read e.sbase (scaleLen r), counts := {} }
  | some kch =>
    let cols := (List.range r.cols).map (gatheredCol s e r kch)
    let base := twoLevelBase cols
    let os := cols.map fun c => twoLevelGroup base (c.map fun x => (x, .away))
    { code := fun k n => (nth 0 (nth (0, [], {}) os n).2.1 k).toNat
      scale := BitVec.ofInt 8 base :: packNibbles (os.map (·.1))
      counts := os.foldl (fun c o => c.add o.2.2) {} }

/-- Codes laid into one copy of a region. -/
def shelfCodes (r : TEntry) (code : Nat → Nat → Nat) (m : Memory) (off : Nat → Nat → Nat) : Memory :=
  (List.range (r.rows * r.cols)).foldl (fun m x =>
    m.writeNat (off (x / r.cols) (x % r.cols)) (fmtWidth r.fmt) (code (x / r.cols) (x % r.cols))) m

/-- The scale block behind a region, padded with zero bytes to whole granules (R70). -/
def shelfScale (r : TEntry) (block : List Byte) (m : Memory) : Memory :=
  if r.scaled then m.write (r.base + r.regionBytes) (padTo 0 (roundUp (scaleLen r) 64) block) else m

/-- The bytes that an AWLD reads: the codes of the source, and its scale block or channel shifts. -/
def touchLoad (s : State) (p : Part) (src : Nat) (r : TEntry) : State :=
  let e := tens s p src
  let s := touchBlock s e.codes 0 r.rows 0 r.cols false
  if r.scaled then
    spdAccess s e.sbase (match (getJob s p).bind fun j => copyKch j.plan src with
      | some kch => ceilDiv (e.rows * e.cols) kch
      | none => scaleLen r) false
  else s

/-- Whether a marked region other than `(p, i)` overlaps a region. -/
def markHit (s : State) (p : Part) (i : Nat) (r : TEntry) (k : Nat × Nat) : Bool :=
  let o := entry s (BitVec.ofNat 2 k.1) k.2
  (k != (p.toNat, i)) && overlaps o.base o.regionSize r.base r.regionSize

/-- AWLD (R70 to R72). -/
def awldRun (s : State) (p : Part) (w : AWord) : State :=
  let i := w.aux.toNat
  let r := entry s p i
  let two := w.two && !s.arr.colr
  let s := errClear (touchLoad s p w.src.toNat r) 1 r.base r.regionSize
  let s := if two then errClear s 2 r.base r.regionSize else s
  let l := shelfLoad s p w.src.toNat r
  let s := tally s blkArr l.counts
  let plain := shelfScale r l.scale (shelfCodes r l.code s.arr.plain r.plainOff)
  let trans := if two then shelfScale r l.scale (shelfCodes r l.code s.arr.trans r.transOff) else s.arr.trans
  let keep := s.arr.tvalid.filter (fun k => !markHit s p i r k && (k != (p.toNat, i)))
  { s with arr := { s.arr with
      plain := plain, trans := trans, tvalid := if two then (p.toNat, i) :: keep else keep } }

/-- ASLD (R74): CNT shifts, the bytes of the source entry in flat order. -/
def asldRun (s : State) (p : Part) (w : AWord) : State :=
  let e := tens s p w.src.toNat
  let s := touchBlock s e.codes 0 (if e.cols = 0 then 0 else ceilDiv w.cnt.toNat e.cols) 0 e.cols false
  let s := errClear s 3 (4096 * b2n w.sbk) w.cnt.toNat
  let b := (List.range w.cnt.toNat).map fun k => BitVec.ofNat 8 (rawSafe s e.codes (e.rc k).1 (e.rc k).2)
  { s with arr := { s.arr with scale := s.arr.scale.write (4096 * b2n w.sbk) b } }

/-! ### Dumps and moves (R56, R78, R82) -/

/-- The accumulators that row `r` of a block moves: those below the entry's columns. -/
def dumpRow (s : State) (e : TEntry) (w : AWord) (base r : Nat) : List W32 :=
  (List.range (Nat.min e.cols w.rowLen)).map fun c => accGet s (base + r * w.rowLen + c)

/-- Writes one row of raw element bits to device memory through the deferred-queue interlock (R68). -/
def putRow (s : State) (e : TEntry) (i : Nat) (vs : List Nat) : State :=
  wr s (e.addr i 0) (vs.flatMap (bytesOf (fmtWidth e.fmt)))

/-- One Facet8 block of a dumped row (R32, R33): `k` is the block's number along the row. -/
def dumpBlock (s : State) (p : Part) (e : TEntry) (w : AWord) (r k : Nat) (xs : List W32) : State × Counts :=
  let ins := (xs.zipIdx).map fun x => (ofOpal x.1, rndAt s p w.scl e r (64 * k + x.2))
  let a := e.shiftAddr r (64 * k)
  let given := if e.bax = 2 then s8 (s.mem.get a) else s8 e.gshift
  let o : Int × List Byte × Counts :=
    if w.sbk then let g := facetGiven given ins; (given, g.1, g.2) else facetChosen ins
  let s := if e.bax = 2 then s else wr s a [BitVec.ofInt 8 o.1]
  (wr s (e.addr r (64 * k)) o.2.1, o.2.2)

/-- One element of a dump into a float format: an Opal32 destination takes the bits (R56). -/
def dumpElem (s : State) (p : Part) (e : TEntry) (w : AWord) (r c : Nat) (x : W32) : Nat × Counts :=
  if w.fmt = 1 then (x.toNat, {}) else toRaw w.fmt (rndAt s p w.scl e r c) (ofOpal x).toRes

/-- One row of a dump into a float format. -/
def dumpFloat (s : State) (p : Part) (e : TEntry) (w : AWord) (r : Nat) (xs : List W32) : State × Counts :=
  let o := (xs.zipIdx).map fun x => dumpElem s p e w r x.2 x.1
  (putRow s e r (o.map (·.1)), (o.map (·.2)).foldl Counts.add {})

/-- One row of an ADMP. -/
def admpRow (p : Part) (e : TEntry) (w : AWord) (acc : State × Counts) (r : Nat) : State × Counts :=
  let xs := dumpRow acc.1 e w w.src.toNat r
  if w.fmt = 3 then
    (List.range (ceilDiv xs.length 64)).foldl (fun acc k =>
      let o := dumpBlock acc.1 p e w r k (slice xs (64 * k) 64)
      (o.1, acc.2.add o.2)) acc
  else
    let o := dumpFloat acc.1 p e w r xs
    (o.1, acc.2.add o.2)

/-- Whether a dump meets a non-finite value. -/
def dumpNonfinite (s : State) (e : TEntry) (w : AWord) : Bool :=
  (List.range w.cnt.toNat).any fun r => (dumpRow s e w w.src.toNat r).any fun x => !(ofOpal x).isFinite

/-- A dump or a move out reads its accumulators row by row and accesses the rows that it writes. -/
def dumpMeet (s : State) (p : Part) (e : TEntry) (w : AWord) : State :=
  let n := Nat.min e.cols w.rowLen
  let s := (List.range w.cnt.toNat).foldl (fun s r => accMeet s p (w.src.toNat + r * w.rowLen) n) s
  touchBlock s e 0 w.cnt.toNat 0 n true

/-- The digest inputs of a self-test: tensor entries that dumps have written (R244) are kept by the job. -/
def noteDump (s : State) (p : Part) (d : Nat) : State :=
  modJob s p fun j =>
    if j.kind = .selftest ∧ ¬ d ∈ j.dumped then { j with dumped := j.dumped ++ [d] } else j

/-- ADMP (R56, R82). CLR clears the whole block after the moved accumulators are read. A finite accumulator that
overflows into an infinity of the destination is a non-finite value that the dump meets (DEDUCED). -/
def admpRun (s : State) (p : Part) (w : AWord) : State :=
  let e := tens s p w.dst.toNat
  let s := dumpMeet s p e w
  let nf := dumpNonfinite s e w
  let o := (List.range w.cnt.toNat).foldl (admpRow p e w) (s, {})
  let s := if w.cont then accClear o.1 w.src.toNat (w.cnt.toNat * w.rowLen) else o.1
  noteDump (arrReport s p w.grad (nf || decide (0 < o.2.ovf)) o.2) p w.dst.toNat

/-- ALDMP (R54, R280): grid codes of the tensor's grid exponent, the grid index's reports, and the block at +0. -/
def aldmpRun (s : State) (p : Part) (w : AWord) : State :=
  let e := tens s p w.dst.toNat
  let s := dumpMeet s p e w
  let nf := dumpNonfinite s e w
  let ki := match getJob s p with | none => none | some j => gridOfTensor j.plan w.dst.toNat
  let g := match getJob s p, ki with | some j, some k => gridExp j k | _, _ => 0
  let step (acc : State × Counts) (r : Nat) : State × Counts :=
    let os := (dumpRow acc.1 e w w.src.toNat r).map fun x => (toGrid 16 g (ofOpal x), emaxOf (ofOpal x))
    let s := putRow acc.1 e r (os.map fun o => pat 16 o.1.code)
    let s := match ki with
      | some k => os.foldl (fun s o => reportGrid s p k o.1.nf o.1.sat o.2) s
      | none => s
    (s, os.foldl (fun c o => c.add o.1.counts) acc.2)
  let o := (List.range w.cnt.toNat).foldl step (s, {})
  let s := accClear o.1 w.src.toNat (w.cnt.toNat * w.rowLen)
  noteDump (arrReport s p w.grad nf o.2) p w.dst.toNat

/-- AMOV to the scratchpad: the bits unchanged (R78, R82). -/
def amovOut (s : State) (p : Part) (w : AWord) : State :=
  let e := tens s p w.dst.toNat
  (List.range w.cnt.toNat).foldl (fun s r => putRow s e r ((dumpRow s e w w.src.toNat r).map (·.toNat)))
    (dumpMeet s p e w)

/-- AMOV into the accumulator store: the accumulators past the entry's columns keep their values (R82). -/
def amovIn (s : State) (p : Part) (w : AWord) : State :=
  let e := tens s p w.src.toNat
  let n := Nat.min e.cols w.rowLen
  (List.range w.cnt.toNat).foldl (fun s r =>
    (List.range n).foldl (fun s c =>
      accSet s (w.dst.toNat + r * w.rowLen + c) (BitVec.ofNat 32 (rawSafe s e r c)))
      (errClear s 0 (4 * (w.dst.toNat + r * w.rowLen)) (4 * n))) (touchBlock s e 0 w.cnt.toNat 0 n false)

/-- AMOV by its DIR flag. -/
def amovRun (s : State) (p : Part) (w : AWord) : State := if w.two then amovIn s p w else amovOut s p w

/-- ACLR (R78). -/
def aclrRun (s : State) (w : AWord) : State :=
  let n := w.cnt.toNat * w.rowLen
  accClear (errClear s 0 (4 * w.dst.toNat) (4 * n)) w.dst.toNat n

/-- The mode that an AMODE's MODE field names. -/
def arrMode (w : AWord) : ArrMode :=
  match bits 7 6 w.flg.toNat with
  | 0 => .whole | 1 => .twin | _ => .deferred

/-- AMODE (R65, R73): a COMPAT plan keeps COLR = 1 and raises an event where the word clears it. -/
def amodeRun (s : State) (p : Part) (w : AWord) (idx : Nat) : State :=
  let compat : Bool := match getJob s p with | none => false | some j => bit 0 j.plan.compat
  let s := if compat && !w.cont then raise s p evProgError [idx] else s
  { s with arr := { s.arr with mode := arrMode w, colr := w.cont || compat } }

/-! ### What each opcode does once it issues -/

/-- Whether the lead word before an AACC sends it to the deferred queue (R62). -/
def aaccDeferred (s : State) (lead : Lead) : Bool :=
  match lead with
  | .none => false
  | .twin => decide (s.arr.mode = .deferred)
  | .que => true

/-- The effect of an array word of partition `p` after lead word `lead`, at index `idx` of its stream. -/
def arrEffect (s : State) (p : Part) (lead : Lead) (idx : Nat) (op : AOp) (w : AWord) : State :=
  match op with
  | .anop => s
  | .awld => awldRun s p w
  | .asld => asldRun s p w
  | .amm => ammRun s p w
  | .ammt => ammtRun s p w idx
  | .atwin => s
  | .aacc => if aaccDeferred s lead then enqueue s p w else aaccRun s p w (decide (lead = .twin ∧ s.arr.mode = .twin))
  | .admp => admpRun s p w
  | .aldmp => aldmpRun s p w
  | .aque => s
  | .adrn => adrnRun s p w
  | .amov => amovRun s p w
  | .aclr => aclrRun s w
  | .amode => amodeRun s p w idx

/-- The area a product runs on (R62). -/
def productArea (s : State) (lead : Lead) (op : AOp) : Option Area :=
  match op, s.arr.mode with
  | .amm, _ => some .whole
  | .ammt, .twin => some .west
  | .ammt, _ => some .whole
  | .aacc, .twin => if lead = .que then none else some .east
  | .aacc, _ => if aaccDeferred s lead then none else some .whole
  | _, _ => none

end Sys2Proof.Machine
end

