-- ==== Sys2Proof/Machine/Fabric.lean ====
section
/-! DEFINITION. The fabric: node addresses, routing, frames and replay, link training, the roll call, fabric time
(R334 to R360). -/

namespace Sys2Proof.Machine

/-! ### Node addresses and routing (R343, R347 to R350) -/

/-- This module's node address. -/
def myNode (s : State) : NodeAddr :=
  BitVec.ofNat 16 (b2n s.fabr.fab * 16384 + s.fabr.pod.toNat * 64 + s.fabr.slot.toNat)

/-- Fabric, pod and slot of an address. -/
def nodeFab (a : NodeAddr) : Bool := bit 14 a.toNat
def nodePod (a : NodeAddr) : Nat := bits 13 6 a.toNat
def nodeSlot (a : NodeAddr) : Nat := bits 5 0 a.toNat

/-- Coordinate `d` (0 x, 1 y, 2 z) of a slot. -/
def coord (slot d : Nat) : Nat := slot / 4 ^ d % 4

/-- The slot one step along direction `dir` (x+ 0, x− 1, y+ 2, y− 3, z+ 4, z− 5). -/
def stepSlot (slot dir : Nat) : Nat :=
  let d := dir / 2
  let c := coord slot d
  let c' := if dir % 2 = 0 then (c + 1) % 4 else (c + 3) % 4
  slot - c * 4 ^ d + c' * 4 ^ d

/-- The direction a dimension needs from one slot to another: the shorter way, + at distance 2. -/
def dimDir (me dst d : Nat) : Option Nat :=
  let k := (coord dst d + 4 - coord me d) % 4
  if k = 0 then none else if k ≤ 2 then some (2 * d) else some (2 * d + 1)

/-- The next direction of dimension order, over dimensions in the order given. -/
def nextDir (me dst : Nat) (dims : List Nat) : Option Nat := dims.findSome? (dimDir me dst)

/-- A link. -/
def getLink (s : State) (k : Nat) : LinkSt := nth {} s.fabr.links k

/-- Stores a link. -/
def putLink (s : State) (k : Nat) (l : LinkSt) : State :=
  { s with fabr := { s.fabr with links := setNth s.fabr.links k l } }

/-- Whether a link carries new messages. -/
def LinkSt.usable (l : LinkSt) : Bool := decide (l.st = .full ∨ l.st = .degraded)

/-- Whether a direction has a usable link. -/
def dirUsable (s : State) (dir : Nat) : Bool := (getLink s (2 * dir)).usable || (getLink s (2 * dir + 1)).usable

/-- The channel of a message type (R340). -/
def vcOf (m : Byte) : Option VC :=
  let v := m.toNat
  if 1 ≤ v ∧ v ≤ 4 then some .coll
  else if 0x10 ≤ v ∧ v ≤ 0x14 then some .bulk
  else if 0x20 ≤ v ∧ v ≤ 0x25 then some .ctl
  else none

/-- The number of a channel. -/
def VC.num : VC → Nat
  | .bulk => 0
  | .coll => 1
  | .ctl => 2

/-- The link of a direction that takes the next message for a destination and channel: in turn, two on an eight-lane
link for each one on a four-lane link (R348). -/
def pickLink (s : State) (dir : Nat) (dst : NodeAddr) (vc : VC) : Nat × State :=
  let a := getLink s (2 * dir)
  let b := getLink s (2 * dir + 1)
  let key := (dst.toNat * 6 + dir) * 3 + vc.num
  let n := tabGet 0 s.fabr.turns key
  let first : Bool :=
    if !b.usable then true
    else if !a.usable then false
    else if a.st = b.st then decide (n % 2 = 0)
    else if a.st = .full then decide (n % 3 < 2)
    else decide (n % 3 = 2)
  (if first then 2 * dir else 2 * dir + 1,
   { s with fabr := { s.fabr with turns := tabSet s.fabr.turns key (n + 1) } })

/-- The spine link of a message to another pod or fabric: plane (n + destination slot) mod 12, dead planes skipped
(R349). -/
def pickPlane (s : State) (dst : NodeAddr) : Option Nat :=
  let n := tabGet 0 s.fabr.planeN dst.toNat
  ((List.range 12).map fun i => 12 + (n + nodeSlot dst + i) % 12).find? fun k => (getLink s k).usable

/-- The link of a direction for a message: a usable one, or one whose retrain the message waits for; none where the
direction is dead (R348, R356, R358). -/
def takeDir (s : State) (dir : Nat) (dst : NodeAddr) (vc : VC) : Option (Nat × State) :=
  if dirUsable s dir then some (pickLink s dir dst vc)
  else ([2 * dir, 2 * dir + 1].find? fun k => decide ((getLink s k).st = .training)).map fun k => (k, s)

/-- The first hop of the detour of R358 around a dead direction. -/
def takeDetour (s : State) (dir : Nat) (dst : NodeAddr) (vc : VC) : Option (Nat × State) :=
  let d := dir / 2
  [2 * ((d + 1) % 3), 2 * ((d + 2) % 3)].findSome? fun e => takeDir s e dst vc

/-- The R348 distance of two slots. -/
def torusDist (a b : Nat) : Nat :=
  total ([0, 1, 2].map fun d => let k := (coord b d + 4 - coord a d) % 4; Nat.min k (4 - k))

/-- The nearest other module of the pod that has a live spine link, the lowest slot on ties (R349). What the module cannot
know is a free value. -/
def nearestSpine (n me : Nat) : Option Nat :=
  ((List.range 64).filter fun q => q != me && Config.spineLive n q).foldl (fun acc q => match acc with
    | none => some q
    | some b => if torusDist me q < torusDist me b then some q else some b) none

/-- The next hop of a message that the module sends or relays; `from'` is the dimension it arrived along. The link,
whether a detour begins here, and the state with its turn counters. -/
def route (s : State) (m : LinkMsg) (from' : Option Nat) : Option (Nat × Bool × State) :=
  let me := s.fabr.slot.toNat
  let vc := (vcOf m.mtype).getD .ctl
  let samePod : Bool := nodeFab m.dst == s.fabr.fab && nodePod m.dst == s.fabr.pod.toNat
  let along (s : State) (dir : Nat) : Option (Nat × Bool × State) :=
    match takeDir s dir m.dst vc with
    | some r => some (r.1, false, r.2)
    | none => (takeDetour s dir m.dst vc).map fun r => (r.1, true, r.2)
  if samePod then
    let dims := match m.detour, from' with
      | true, some d => ([0, 1, 2].filter (· != d)) ++ [d]
      | _, _ => [0, 1, 2]
    match nextDir me (nodeSlot m.dst) dims with
    | none => none
    | some dir => along s dir
  else
    match pickPlane s m.dst with
    | some k =>
      let n := tabGet 0 s.fabr.planeN m.dst.toNat
      some (k, false, { s with fabr := { s.fabr with planeN := tabSet s.fabr.planeN m.dst.toNat (n + 1) } })
    | none =>
      let g := takeFree s
      match nearestSpine g.1 me with
      | none => none
      | some q => (nextDir me q [0, 1, 2]).bind (along g.2)

/-! ### Messages as slots (R336) -/

end Sys2Proof.Machine

namespace Sys2Proof
open Machine

/-- The 16-byte routing header. -/
def LinkMsg.header (m : LinkMsg) : List Byte :=
  bytesOf 2 m.dst.toNat ++ bytesOf 2 m.src.toNat ++ [m.mtype, m.hops]
  ++ [BitVec.ofNat 8 (b2n m.detour + 4 * m.part.toNat), 0] ++ bytesOf 4 m.body.length ++ bytesOf 4 0

/-- The slots of a message. -/
def LinkMsg.slots (m : LinkMsg) : List Slot :=
  let b := m.header ++ m.body
  let n := ceilDiv b.length 64
  (List.range n).map fun i =>
    { som := decide (i = 0), eom := decide (i + 1 = n), bytes := padTo 0 64 (slice b (64 * i) 64) }

end Sys2Proof

namespace Sys2Proof.Machine

/-- A message from its bytes. -/
def msgOf (b : List Byte) : LinkMsg :=
  let f := (nth 0 b 6).toNat
  { dst := BitVec.ofNat 16 (natOf (slice b 0 2)), src := BitVec.ofNat 16 (natOf (slice b 2 2)), mtype := nth 0 b 4,
    hops := nth 0 b 5, detour := bit 0 f, part := BitVec.ofNat 2 (f / 4),
    body := slice b 16 (natOf (slice b 8 4)) }

/-- The send queue of a channel. -/
def LinkSt.out (l : LinkSt) (v : VC) : List Slot :=
  match v with
  | .bulk => l.outB
  | .coll => l.outC
  | .ctl => l.outK

/-- A link with the send queue of a channel replaced. -/
def LinkSt.setOut (l : LinkSt) (v : VC) (q : List Slot) : LinkSt :=
  match v with
  | .bulk => { l with outB := q }
  | .coll => { l with outC := q }
  | .ctl => { l with outK := q }

/-- Puts a message into the send queue of its channel on a link. -/
def enqueueMsg (s : State) (k : Nat) (m : LinkMsg) : State :=
  let l := getLink s k
  let v := (vcOf m.mtype).getD .ctl
  putLink s k { l.setOut v (l.out v ++ m.slots) with sent := l.sent ++ [(v, m)] }

/-- Sends or relays a message on its next hop; one that no path reaches waits (R358). -/
def forward (s : State) (m : LinkMsg) (from' : Option Nat) : State :=
  match route s m from' with
  | some (k, det, s) =>
    let s := count s (blkLink k) 0 2 1 {}
    let s := if det then
        { count s (blkLink k) 3 6 1 {} with fabr := { s.fabr with detours := s.fabr.detours + 1 } } else s
    enqueueMsg s k { m with detour := m.detour || det }
  | none =>
    let s := { s with fabr := { s.fabr with stuck := s.fabr.stuck ++ [m] } }
    raiseM s evLnkUnreach [m.dst.toNat]

/-- Tries the messages that waited for a path again. -/
def retryStuck (s : State) : State :=
  s.fabr.stuck.foldl (fun s m => forward s m none) { s with fabr := { s.fabr with stuck := [] } }

/-- Whether a type may go to the other fabric: the control types, repairs and shard re-requests (R350). -/
def crossFabric (mtype : Nat) : Bool := decide (mtype = 0x13 ∨ mtype = 0x14 ∨ (0x20 ≤ mtype ∧ mtype ≤ 0x25))

/-- Sends a message of a partition's job to a node. A message to the module itself never enters a link (R360), and none of
another type goes to the other fabric (R350). -/
def sendNode (s : State) (p : Part) (dst : NodeAddr) (mtype : Nat) (body : List Byte) : State :=
  if dst = myNode s ∨ (nodeFab dst ≠ s.fabr.fab ∧ !crossFabric mtype) then s
  else forward s { dst := dst, src := myNode s, mtype := BitVec.ofNat 8 mtype, part := p, body := body } none

/-- The node address of a logical module index. -/
def nodeOf (s : State) (p : Part) (l : Nat) : NodeAddr :=
  match getJob s p with
  | none => 0
  | some j => nth 0 j.plan.modules l

/-- Sends a message to a module of the job by its logical index. -/
def sendTo (s : State) (p : Part) (l mtype : Nat) (body : List Byte) : State :=
  sendNode s p (nodeOf s p l) mtype body

/-! ### Frames, credits and replay (R335, R338, R339, R341) -/

/-- Takes one slot of a channel into a frame under construction: `(slots taken, link)`. -/
def takeSlot (v : VC) (acc : List (VC × Slot) × LinkSt) : Option (List (VC × Slot) × LinkSt) :=
  let l := acc.2
  let cred := match v with | .bulk => l.credB | .coll => l.credC | .ctl => l.credK
  match l.out v with
  | [] => none
  | x :: t =>
    if cred = 0 then none
    else
      let l := l.setOut v t
      some (acc.1 ++ [(v, x)], match v with
        | .bulk => { l with credB := l.credB - 1 }
        | .coll => { l with credC := l.credC - 1 }
        | .ctl => { l with credK := l.credK - 1 })

/-- Whether a channel has a slot and a credit. -/
def canSend (l : LinkSt) (v : VC) : Bool := (takeSlot v ([], l)).isSome

/-- One slot by weighted round-robin between collective and bulk (R341). -/
def takeWeighted (wc wb : Nat) (acc : List (VC × Slot) × LinkSt) : Option (List (VC × Slot) × LinkSt) :=
  let l := if acc.2.turnC = 0 ∧ acc.2.turnB = 0 then { acc.2 with turnC := wc, turnB := wb } else acc.2
  let coll := (takeSlot .coll (acc.1, l)).map fun r => (r.1, { r.2 with turnC := r.2.turnC - 1 })
  let bulk := (takeSlot .bulk (acc.1, l)).map fun r => (r.1, { r.2 with turnB := r.2.turnB - 1 })
  if l.turnC ≠ 0 then (coll.or bulk) else (bulk.or coll)

/-- Fills up to `n` slots: control first, at most two while others wait, then the others. -/
def fillFrame (wc wb : Nat) : Nat → Nat → List (VC × Slot) × LinkSt → List (VC × Slot) × LinkSt
  | 0, _, acc => acc
  | n + 1, ctl, acc =>
    let others := canSend acc.2 .coll || canSend acc.2 .bulk
    let k := if ctl < 2 ∨ !others then takeSlot .ctl acc else none
    match k with
    | some r => fillFrame wc wb n (ctl + 1) r
    | none =>
      match takeWeighted wc wb acc with
      | some r => fillFrame wc wb n ctl r
      | none => acc

/-- The code of a channel in VCMAP. -/
def VC.code : VC → Nat
  | .bulk => 1
  | .coll => 2
  | .ctl => 3

/-- The SEQ of the next frame: that of the first to resend, or the next new one. -/
def LinkSt.nextSeq (l : LinkSt) : Nat :=
  match l.resend with
  | f :: _ => f.seq.toNat
  | [] => l.txSeq

/-- A frame of the slots taken, with the credits to return and the ACK. -/
def mkFrame (kind : Nat) (l : LinkSt) (xs : List (VC × Slot)) : Frame :=
  { kind := BitVec.ofNat 8 kind,
    vcmap := BitVec.ofNat 16 ((xs.zipIdx).foldl (fun n x => n + x.1.1.code * 4 ^ x.2) 0),
    som := BitVec.ofNat 8 ((xs.zipIdx).foldl (fun n x => n + b2n x.1.2.som * 2 ^ x.2) 0),
    eom := BitVec.ofNat 8 ((xs.zipIdx).foldl (fun n x => n + b2n x.1.2.eom * 2 ^ x.2) 0),
    seq := BitVec.ofNat 32 l.nextSeq, ack := BitVec.ofNat 32 (l.rxSeq + 2 ^ 32 - 1),
    crb := l.retB, crc := l.retC, crk := l.retK, lstat := l.lanes.zeroExtend 16, slots := xs.map (·.2.bytes) }

/-- The 512 bytes of a frame with a given FCRC (R335). -/
def frameImage (f : Frame) (fcrc : Nat) : List Byte :=
  [f.kind, 0] ++ bytesOf 2 f.vcmap.toNat ++ [f.som, f.eom, 0, 0] ++ bytesOf 4 f.seq.toNat ++ bytesOf 4 f.ack.toNat
  ++ bytesOf 2 f.crb ++ bytesOf 2 f.crc ++ bytesOf 2 f.crk ++ bytesOf 2 f.lstat.toNat ++ List.replicate 32 0
  ++ bytesOf 8 fcrc ++ padTo 0 448 f.slots.flatten

/-- A frame as it goes out, its FCRC over the whole with those bytes as 0. -/
def frameBytes (f : Frame) : List Byte := frameImage f (crc64 (frameImage f 0)).toNat

/-- The header fields and the slots of 512 bytes. -/
def frameOf (b : List Byte) : Frame :=
  { kind := nth 0 b 0, vcmap := BitVec.ofNat 16 (natOf (slice b 2 2)), som := nth 0 b 4, eom := nth 0 b 5,
    seq := BitVec.ofNat 32 (natOf (slice b 8 4)), ack := BitVec.ofNat 32 (natOf (slice b 12 4)),
    crb := natOf (slice b 16 2), crc := natOf (slice b 18 2), crk := natOf (slice b 20 2),
    lstat := BitVec.ofNat 16 (natOf (slice b 22 2)), slots := (List.range 7).map fun i => slice b (64 * (i + 1)) 64 }

/-- Whether FCRC holds over 512 bytes. -/
def fcrcGood (b : List Byte) : Bool :=
  decide (natOf (slice b 56 8) = (crc64 (b.take 56 ++ List.replicate 8 0 ++ b.drop 64)).toNat)

/-- The link after it has sent a data frame: the credits to return have gone out with it. -/
def sentFrame (l : LinkSt) (f : Frame) : LinkSt := { l with lastTx := frameBytes f, retB := 0, retC := 0, retK := 0 }

/-- The link after it has sent an idle or request frame: its credits are kept until an ACK covers its SEQ. -/
def sentIdle (l : LinkSt) (f : Frame) : LinkSt :=
  let l' := sentFrame l f
  if l.retB + l.retC + l.retK = 0 then l' else { l' with idle := l.idle ++ [(f.seq.toNat, l.retB, l.retC, l.retK)] }

/-- One frame slot of a link (R341): a replay request, a resent frame, a data frame, or an idle frame. -/
def transmit (s : State) (k : Nat) : State :=
  let l := getLink s k
  if !l.usable then s
  else if l.reqOut then
    putLink s k (sentIdle { l with reqOut := false } (mkFrame 2 l []))
  else
    match l.resend with
    | f :: t =>
      let f := { f with ack := BitVec.ofNat 32 (l.rxSeq + 2 ^ 32 - 1), lstat := l.lanes.zeroExtend 16 }
      putLink (count s (blkLink k) 3 5 1 {}) k { l with resend := t, lastTx := frameBytes f }
    | [] =>
      if 4096 ≤ l.replay.length then putLink s k (sentIdle l (mkFrame 1 l []))
      else
        let r := fillFrame s.fabr.vcwC s.fabr.vcwB 7 0 ([], l)
        if r.1.isEmpty then putLink s k (sentIdle r.2 (mkFrame 1 l []))
        else
          let f := mkFrame 0 l r.1
          let s := count s (blkLink k) 2 5 (64 * r.1.length) {}
          let s := modLive s fun v => { v with win := tabMod 0 v.win (4 + 2 * k) (· + 64 * r.1.length) }
          putLink s k (sentFrame { r.2 with txSeq := (l.txSeq + 1) % 2 ^ 32, replay := l.replay ++ [f] } f)

/-- The channel of slot `i` of a frame. -/
def slotVc (f : Frame) (i : Nat) : Option VC :=
  match bits (2 * i + 1) (2 * i) f.vcmap.toNat with
  | 1 => some .bulk
  | 2 => some .coll
  | 3 => some .ctl
  | _ => none

/-- The messages still to be acknowledged once a frame has been: the oldest of a channel goes with each message end. -/
def ackedMsgs (sent : List (VC × LinkMsg)) (f : Frame) : List (VC × LinkMsg) :=
  (List.range f.slots.length).foldl (fun l i =>
    match slotVc f i with
    | some v => if bit i f.eom.toNat then l.eraseP fun x => x.1 == v else l
    | none => l) sent

/-- Drops the frames that an ACK covers from the replay buffer, and the messages that end in them. -/
def acked (l : LinkSt) (ack : Nat) : LinkSt :=
  let gone (q : Nat) : Bool := decide ((ack + 2 ^ 32 - q) % 2 ^ 32 < 2 ^ 31)
  { l with replay := l.replay.filter (fun f => !gone f.seq.toNat), resend := l.resend.filter (fun f => !gone f.seq.toNat),
           idle := l.idle.filter (fun x => !gone x.1),
           sent := (l.replay.filter fun f => gone f.seq.toNat).foldl ackedMsgs l.sent }

/-- Slots of a channel's receive buffer (R339). -/
def VC.room : VC → Nat
  | .bulk => 512
  | .coll => 1024
  | .ctl => 128

/-- Slots of the message in progress of a channel that hold their credits. -/
def LinkSt.cur (l : LinkSt) (v : VC) : Nat := match v with | .bulk => l.curB | .coll => l.curC | .ctl => l.curK

/-- Sets them. -/
def LinkSt.setCur (l : LinkSt) (v : VC) (n : Nat) : LinkSt :=
  match v with
  | .bulk => { l with curB := n }
  | .coll => { l with curC := n }
  | .ctl => { l with curK := n }

/-- Credits of a channel to return. -/
def LinkSt.giveBack (l : LinkSt) (v : VC) (n : Nat) : LinkSt :=
  match v with
  | .bulk => { l with retB := l.retB + n }
  | .coll => { l with retC := l.retC + n }
  | .ctl => { l with retK := l.retK + n }

/-- Bytes of the message in progress of a channel. -/
def LinkSt.inn (l : LinkSt) (v : VC) : List Byte := match v with | .bulk => l.inB | .coll => l.inC | .ctl => l.inK

/-- Sets them. -/
def LinkSt.setIn (l : LinkSt) (v : VC) (b : List Byte) : LinkSt :=
  match v with
  | .bulk => { l with inB := b }
  | .coll => { l with inC := b }
  | .ctl => { l with inK := b }

/-- Slots of a channel's receive buffer that whole messages take. -/
def LinkSt.held (l : LinkSt) (v : VC) : Nat := total ((l.holds.filter fun x => x.1 == v).map (·.2))

/-- Adds one received slot to the message in progress of its channel; a whole message enters the inbox. Where a message fills
the buffer before its end, its slots drain, so that the rest of it can come (R339). -/
def rxSlot (l : LinkSt) (v : VC) (som eom : Bool) (b : List Byte) : LinkSt :=
  let l := if som then (l.giveBack v (l.cur v)).setCur v 0 else l
  let msg := (if som then [] else l.inn v) ++ b
  let n := l.cur v + 1
  if eom then { (l.setIn v []).setCur v 0 with inbox := l.inbox ++ [msgOf msg], holds := l.holds ++ [(v, n)] }
  else if v.room ≤ l.held v + n then ((l.setIn v msg).giveBack v n).setCur v 0
  else (l.setIn v msg).setCur v n

/-- The slots of an accepted frame delivered to the messages in progress. -/
def rxSlots (l : LinkSt) (f : Frame) : LinkSt :=
  (f.slots.zipIdx).foldl (fun l x =>
    match slotVc f x.2 with
    | none => l
    | some v => rxSlot l v (bit x.2 f.som.toNat) (bit x.2 f.eom.toNat) x.1) l

/-- A sender restarts from the frame that a replay request names (R338); the eighth request in a row for one SEQ
retrains the link (R339). The credits of idle frames behind that SEQ, which the partner has discarded, go out again. -/
def replayFrom (l : LinkSt) (seq : Nat) : LinkSt :=
  let run := if l.reqRun ≠ 0 ∧ l.reqSeq = seq then l.reqRun + 1 else 1
  let later (q : Nat) : Bool := decide ((q + 2 ^ 32 - seq) % 2 ^ 32 < 2 ^ 31)
  let lost := l.idle.filter fun x => later x.1 && x.1 != seq
  { l with reqSeq := seq, reqRun := run, resend := l.replay.filter (fun f => later f.seq.toNat), idle := [],
           retB := l.retB + total (lost.map (·.2.1)), retC := l.retC + total (lost.map (·.2.2.1)),
           retK := l.retK + total (lost.map (·.2.2.2)) }

/-- The retrain of a link (R356): its frames stop, the event is raised, the retrain is counted. -/
def retrain (s : State) (k : Nat) : State :=
  let l := getLink s k
  let s := putLink s k { l with st := .training, reqRun := 0, retrainCount := l.retrainCount + 1 }
  let s := { s with alm := { s.alm with retrains := tabMod 0 s.alm.retrains k (· + 1) } }
  raiseM (count s (blkLink k) 3 4 1 {}) evLnkRetrain [k]

/-- Takes a replay request (R338, R339). -/
def replayRequest (s : State) (k seq : Nat) : State :=
  if !(getLink s k).usable then s else
  let l := replayFrom (getLink s k) seq
  let s := putLink s k l
  if 8 ≤ l.reqRun then retrain s k else s

/-- The link after a bad frame: it is discarded with every later one until the expected SEQ comes. The replay request goes
out at the first, at one whose code or FCRC fails, and where the SEQ goes back behind one discarded, which shows a replay
whose first frame was lost. -/
def discard (l : LinkSt) (good : Bool) (seq : Nat) : LinkSt :=
  let back := match l.seen with
    | some q => decide (0 < (q + 2 ^ 32 - seq) % 2 ^ 32 ∧ (q + 2 ^ 32 - seq) % 2 ^ 32 < 2 ^ 31)
    | none => false
  { l with discarding := true, seen := if good then some seq else none, reqOut := l.reqOut || !l.discarding || !good || back }

/-- A frame arrives, `good` telling whether it came whole (R338): it is bad where it did not, or where its SEQ is not the next. A
good one gives its ACK and credits, and a data frame its slots; one of a reserved KIND is discarded (DESIGN CHOICE, entry
135). -/
def takeFrame (s : State) (k : Nat) (f : Frame) (good : Bool) : State :=
  let l := getLink s k
  if !l.usable then s
  else if !good || f.seq.toNat ≠ l.rxSeq then putLink s k (discard l good f.seq.toNat)
  else if 2 < f.kind.toNat then s
  else
      let l := acked { l with discarding := false, seen := none } f.ack.toNat
      let l := { l with credB := l.credB + f.crb, credC := l.credC + f.crc, credK := l.credK + f.crk }
      if f.kind = 2 then replayRequest (putLink s k l) k ((f.ack.toNat + 1) % 2 ^ 32)
      else if f.kind = 0 then
        let l := rxSlots { l with rxSeq := (l.rxSeq + 1) % 2 ^ 32 } f
        let n := (List.range f.slots.length).countP fun i => (slotVc f i).isSome
        let s := count s (blkLink k) 2 6 (64 * n) {}
        let s := modLive s fun v => { v with win := tabMod 0 v.win (5 + 2 * k) (· + 64 * n) }
        putLink s k l
      else putLink s k l

/-- 512 bytes of a frame arrive, `codes` telling whether every codeword under them could be corrected: a frame is whole where that
and FCRC hold. -/
def receiveFrame (s : State) (k : Nat) (bs : List Byte) (codes : Bool) : State :=
  takeFrame s k (frameOf bs) (codes && fcrcGood bs)

/-- Takes a message out of a link's inbox: its slots drain and their credits return. -/
def drainInbox (s : State) (k : Nat) (m : LinkMsg) : State :=
  let l := getLink s k
  let i := l.inbox.idxOf m
  if i < l.inbox.length then
    let h := nth (.ctl, 0) l.holds i
    putLink s k (({ l with inbox := l.inbox.eraseIdx i, holds := l.holds.eraseIdx i }).giveBack h.1 h.2)
  else s

/-- Whether a job is still in its plan load. -/
def Job.loading (j : Job) : Bool := j.phase == .testing && j.prev.isNone && !j.resuming

/-- Whether a job's plan has the engine that a message's type is for (R337): lookups, exchange entries, expert tables, a
sequence ring or chain, the twin of a redundant pair. -/
def typeFits (j : Job) (m : LinkMsg) : Bool :=
  let t := m.mtype.toNat
  if t = 0x01 ∨ t = 0x10 ∨ t = 0x11 then !j.plan.lookups.isEmpty
  else if t = 0x02 ∨ t = 0x14 then !j.plan.exch.isEmpty
  else if t = 0x03 then !j.plan.experts.isEmpty
  else true

/-- Whether a message may be delivered in the state its type needs (R337, R342): a move between the ready vote and the commit, a
request for a failed record's copy to a paired job, repair data while the job holds for repair or its own request stands. -/
def deliverable (s : State) (m : LinkMsg) : Bool :=
  match getJob s m.part with
  | none => false
  | some j =>
    if j.loading || !typeFits j m then false
    else if m.mtype = 0x12 then
      (match j.reshard with | some r => r.ready == some true && r.voted.isNone && !r.aborted | none => false)
    else if m.mtype = 0x13 then
      if m.body.headD 0 = 2 then j.twin.paired
      else (j.phase == .held && j.twin.paired && j.twin.mismatch) || !j.twin.asked.isEmpty
    else true

/-- Whether a message is kept although its partition's plan has not been loaded: start readiness (R263, R337), and time, which is
no job's. -/
def keptEarly (m : LinkMsg) : Bool := decide (m.mtype = 0x22) || (decide (m.mtype = 0x24) && m.body.headD 1 == 0)

/-- A message of a reserved type is discarded, counted and reported (R340). -/
def badType (s : State) (k : Nat) (m : LinkMsg) : State :=
  raiseM { s with fabr := { s.fabr with badtype := s.fabr.badtype + 1 } } evLnkBadtype [m.mtype.toNat, k]

/-- A whole message for this module (R337, R340): handed to its engine, or discarded, counted and reported. -/
def deliver (s : State) (k : Nat) (m : LinkMsg) : State :=
  let s := drainInbox s k m
  match vcOf m.mtype with
  | none => badType s k m
  | some _ =>
    if deliverable s m || keptEarly m then
      { s with fabr := { s.fabr with given := m :: s.fabr.given } }
    else raise { s with fabr := { s.fabr with nojob := s.fabr.nojob + 1 } } m.part evLnkNojob [m.mtype.toNat, k]

/-- A message for another module: one hop more, on its next link (R348); one of a reserved type is discarded here (R340). -/
def relay (s : State) (k : Nat) (m : LinkMsg) : State :=
  let s := drainInbox s k m
  if vcOf m.mtype = none then badType s k m
  else forward s { m with hops := m.hops + 1 } (if k < 12 then some (k / 4) else none)

/-! ### Training (R347, R356, R357) -/

/-- Whether a partner's identity keeps the wiring of R347: the neighbour's opposite link, or a port of the link's own
spine plane. -/
def wiredRight (s : State) (k : Nat) (partner : NodeAddr) (plink : Nat) : Bool :=
  if k < 12 then
    let dir := k / 2
    let opp := if dir % 2 = 0 then dir + 1 else dir - 1
    nodeFab partner == s.fabr.fab && nodePod partner == s.fabr.pod.toNat
    && nodeSlot partner == stepSlot s.fabr.slot.toNat dir && plink == 2 * opp + k % 2
  else plink == k - 12

/-- The parent in the time tree: none for the master of fabric A. -/
def timeParent (s : State) : Option NodeAddr :=
  let f := s.fabr
  let me := f.slot.toNat
  let base := b2n f.fab * 16384
  if me ≠ 0 then
    (nextDir me 0 [0, 1, 2]).map fun d => BitVec.ofNat 16 (base + f.pod.toNat * 64 + stepSlot me d)
  else if f.pod ≠ 0 then some (BitVec.ofNat 16 base)
  else if f.fab then some 0
  else none

/-- A link as training leaves it: credits and replay restarted, its queues empty; what stands in the inbox holds no
credits (R339). -/
def freshLink (l : LinkSt) : LinkSt :=
  { l with txSeq := 0, rxSeq := 0, replay := [], resend := [], sent := [], idle := [], discarding := false, seen := none,
           reqOut := false, reqRun := 0, credB := 512, credC := 1024, credK := 128, retB := 0, retC := 0, retK := 0,
           inB := [], inC := [], inK := [], curB := 0, curC := 0, curK := 0, outB := [], outC := [], outK := [],
           holds := l.holds.map fun x => (x.1, 0) }

/-- Sends messages again on the links that routing gives them now. -/
def sendAgain (s : State) (l : List (VC × LinkMsg)) : State := l.foldl (fun s x => forward s x.2 none) s

/-- Whether a plan's step runs on the module. -/
def stepRuns (s : State) : Bool := s.jobs.any fun kv => kv.2.phase == .running

/-- The first link that trains makes the time tree the source of device time, but on the fabric master (R445). -/
def firstLink (s : State) : State :=
  if !s.fabr.links.any (·.once) && (timeParent s).isSome then { s with tim := { s.tim with src := 3 } } else s

/-- A link trains for the first time or after being down (R344, R347, R360, R438): a looped one against itself, and one
that has trained before rejoins routing at the next seal while a step runs. -/
def trained (s : State) (k : Nat) (partner : NodeAddr) (plink : Nat) : State :=
  let l := getLink s k
  let id := { freshLink l with lanes := 0xFF, paddr := partner, plink := BitVec.ofNat 5 plink }
  if dom s (54 + k / 4) ≠ .on ∨ l.usable ∨ l.st = .training ∨ l.st = .loop then s
  else if bit k s.fabr.loop then sendAgain (putLink s k { id with st := .loop }) l.sent
  else if !wiredRight s k partner plink then
    raiseM (putLink s k { l with st := .dead, paddr := partner, plink := BitVec.ofNat 5 plink }) evLnkWiring
      [(myNode s).toNat, k, partner.toNat, plink]
  else
    let later := l.once && stepRuns s
    let s := putLink (firstLink s) k { id with st := if later then .down else .full, rejoin := later, once := true, failed := 0 }
    sendAgain (retryStuck { s with fabr := { s.fabr with fixed := true } }) l.sent

/-- The messages of a dead link that the partner has not acknowledged whole go out again on other links, so that none is lost
(R359). -/
def reroute (s : State) (k : Nat) : State :=
  let l := getLink s k
  sendAgain (putLink s k (freshLink l)) l.sent

/-- A retrain ends: full width, four lanes, or dead (R356, R357). -/
def retrainDone (s : State) (k : Nat) (lanes : Nat) : State :=
  let l := getLink s k
  if l.st ≠ .training then s
  else if lanes = 0xFF then
    retryStuck (putLink s k { l with st := .full, lanes := 0xFF, failed := 0, resend := l.replay })
  else if lanes % 16 = 15 ∨ lanes / 16 = 15 then
    let s := putLink s k { l with
      st := .degraded, lanes := if lanes % 16 = 15 then 0x0F else 0xF0, failed := 0, resend := l.replay }
    let s := { s with alm := { s.alm with degrades := tabMod 0 s.alm.degrades k (· + 1) } }
    retryStuck (raiseM s evLnkDegrade [k])
  else
    let s := putLink s k { l with st := .dead, lanes := 0, failed := l.failed + 1 }
    let s := { s with alm := { s.alm with deads := tabMod 0 s.alm.deads k (· + 1) } }
    reroute (raiseM s evLnkDown [k]) k

/-- Background training of a dead or degraded link; it rejoins routing at the next seal (R357), where its partner keeps the
wiring (R347). -/
def backgroundTrain (s : State) (k lanes : Nat) : State :=
  let l := getLink s k
  if (l.st = .dead ∨ l.st = .degraded) ∧ lanes = 0xFF then
    if wiredRight s k l.paddr l.plink.toNat then putLink s k { l with rejoin := true }
    else raiseM s evLnkWiring [(myNode s).toNat, k, l.paddr.toNat, l.plink.toNat]
  else s

/-- Links that trained in the background rejoin routing at a seal: their credits and replay restart (R339), and the messages
that a degraded link has not finished go out again. -/
def rejoinLinks (s : State) : State :=
  let l := (List.range 24).filter fun k => (getLink s k).rejoin
  let again := l.flatMap fun k => (getLink s k).sent
  let s := l.foldl (fun s k =>
    putLink s k { freshLink (getLink s k) with st := .full, lanes := 0xFF, rejoin := false, failed := 0 }) s
  sendAgain (retryStuck s) again

/-- A retrain that a cause starts, on a link that runs. -/
def retrainIf (s : State) (k : Nat) (c : Bool) : State := if (getLink s k).usable && c then retrain s k else s

/-! ### The roll call (R345, R346) -/

/-- A rising edge on CHAIN_IN after a low period of `low` ticks. -/
def chainEdge (s : State) (low : Nat) : State :=
  if s.fabr.roll ≠ 0 ∨ s.pwr.mst = .unpowered then s
  else if 1 ≤ low ∧ low ≤ 3 then { s with fabr := { s.fabr with pulses := s.fabr.pulses + 1 } }
  else if 4 ≤ low ∧ low ≤ 7 then raiseM { s with fabr := { s.fabr with pulses := 0 } } evLnkRollcall [low]
  else s

/-- CHAIN_IN has been low for 8 ticks: the count is the slot; above 63 there is none. -/
def chainLow (s : State) : State :=
  if s.fabr.roll ≠ 0 ∨ s.pwr.mst = .unpowered then s
  else if s.fabr.pulses ≤ 63 then
    { s with fabr := { s.fabr with
        slot := BitVec.ofNat 6 s.fabr.pulses, roll := 1, announce := s.fabr.pulses + 1 } }
  else raiseM { s with fabr := { s.fabr with roll := 2 } } evLnkRollcall [s.fabr.pulses]

/-- The pulses on CHAIN_OUT, each 1 tick low and 1 tick high, and its low level after them (R346): for the slot of the roll
call, and under policy 1 for the Locket's (R344). -/
def announceSlot (s : State) : State :=
  if s.fabr.roll = 1 ∨ s.fabr.roll = 3 then
    { s with fabr := { s.fabr with
        announce := 0, chainOut := false
        wave := s.fabr.wave ++ (List.range s.fabr.announce).flatMap (fun _ => [false, true]) ++ [false] } }
  else s

/-! ### Fabric time (R353 to R355) -/

/-- The link of the time tree towards the parent. -/
def timeLink (s : State) : Nat :=
  let me := s.fabr.slot.toNat
  match nextDir me 0 [0, 1, 2] with
  | some d => 2 * d
  | none => if s.fabr.pod ≠ 0 then 12 + s.fabr.pod.toNat % 12 else 12

/-- The end of the bandwidth window in progress (R490, R491). -/
def winEnd (s : State) : Nat :=
  match s.isl.shortEnd with
  | some t => t
  | none => (s.isl.live.winStart / s.isl.bwLen + 1) * s.isl.bwLen

/-- Closes the window in progress at a time: its counts and flags enter the rings (R490). -/
def closeWindow (s : State) (t : Nat) (short : Bool) : State :=
  let i := s.isl
  let w := i.live.bwIdx % 64
  let flags := 2 ^ 48 * b2n (short || i.shortEnd.isSome || i.shortNext) + 2 ^ 49 * b2n i.stepped
  let ring := (List.range 58).foldl (fun r c =>
    tabSet r (64 * c + w) (tabGet 0 i.live.win c % 2 ^ 48 + flags)) i.ring
  let live := { i.live with win := [], winStart := t, bwIdx := (i.live.bwIdx + 1) % 2 ^ 32 }
  { s with isl := { i with live := live, ring := tabSet ring (64 * 58 + w) t, shortEnd := none, stepped := false,
                           shortNext := false } }

/-- A step of device time (R354, R446): forward across a boundary it closes the window in progress at the new time, and
in every case that window is marked (R491). -/
def stepTime (s : State) (t : Nat) : State :=
  let s1 := { s with tim := { s.tim with now := t % 2 ^ 64, slew := 0 }, isl := { s.isl with stepped := true } }
  if winEnd s ≤ t then closeWindow s1 (t % 2 ^ 64) true else s1

/-- Device time follows an offset: a step above 1 µs, a slew otherwise (R354). -/
def follow (s : State) (th : Int) : State :=
  let s := { s with tim := { s.tim with valid := true } }
  if 1000 < th.natAbs then stepTime s ((s.tim.now : Int) - th).toNat else { s with tim := { s.tim with slew := -th } }

/-- A child's time request. -/
def timeRequest (s : State) : State :=
  match timeParent s with
  | none => s
  | some a =>
    let m : LinkMsg := { dst := a, src := myNode s, mtype := 0x22, body := 0 :: bytesOf 8 s.tim.now }
    if (getLink s (timeLink s)).usable then enqueueMsg s (timeLink s) m else s

/-- The link of the time tree to a child: the neighbour's own time link, or the spine plane of its pod (R353). -/
def childLink (s : State) (src : NodeAddr) : Nat :=
  if nodeFab src == s.fabr.fab && nodePod src == s.fabr.pod.toNat then
    match nextDir (nodeSlot src) 0 [0, 1, 2] with
    | some d => 2 * (if d % 2 = 0 then d + 1 else d - 1)
    | none => 12
  else if nodeFab src == s.fabr.fab then 12 + nodePod src % 12
  else 12

/-- A parent's reply on that link; request and reply instants are the parent's time of this event. -/
def timeReplyTo (s : State) (src : NodeAddr) (t1 cf : Nat) : State :=
  let b := 1 :: (bytesOf 8 t1 ++ bytesOf 8 s.tim.now ++ bytesOf 8 s.tim.now ++ bytesOf 4 cf)
  let k := childLink s src
  if (getLink s k).usable then enqueueMsg s k { dst := src, src := myNode s, mtype := 0x22, body := b } else s

/-- A child's offset from a completed exchange (R354). -/
def timeOffset (t1 t2 t3 t4 cf cb : Int) : Int := ((t4 - t3 - cb) - (t2 - t1 - cf)).tdiv 2

/-- A completed exchange: device time follows it where the time tree is its source; sync returns (R354, R355). -/
def timeReply (s : State) (t1 t2 t3 cf cb : Nat) : State :=
  let th := timeOffset t1 t2 t3 s.tim.now cf cb
  let s := { s with tim := { s.tim with theta := th } }
  let s := if s.tim.src = 3 then follow s th else s
  if s.tim.syncLost then raiseM { s with tim := { s.tim with syncLost := false } } evTimSync [] else s

/-- No exchange for 100 ms (R355). -/
def timeLost (s : State) : State :=
  if (timeParent s).isNone || s.tim.syncLost then s
  else raiseM { s with tim := { s.tim with syncLost := true } } evTimSyncLost []

end Sys2Proof.Machine
end

