-- ==== Sys2Proof/Machine/Rows.lean ====
section
/-! DEFINITION. Table descriptors, row records, ownership, and the residency directory of tiered tables
(R132 to R137, R200 to R207, R212). -/

namespace Sys2Proof.Machine

/-! ### Descriptors and placement entries -/

/-- The fields of a table descriptor's 512 bits (R133); GEN is the device's. -/
def descOf (d : BitVec 512) : Desc :=
  let v := d.toNat
  { lbase := bits 255 192 v, mbase := bits 191 128 v, rowm1 := bits 127 88 v, gen := 0, ssz := bits 71 59 v,
    opt := bits 58 51 v, slog := bits 50 46 v, tier := bits 45 44 v, dimq := bits 43 36 v, rnd := bit 35 v,
    pfmt := bits 34 33 v, part := bits 13 12 v, tid := bits 11 0 v }

/-- A descriptor as the 512-bit number of its directory slot. -/
def Desc.num (d : Desc) : Nat :=
  d.tid + d.part * 2 ^ 12 + d.pfmt * 2 ^ 33 + b2n d.rnd * 2 ^ 35 + d.dimq * 2 ^ 36 + d.tier * 2 ^ 44
  + d.slog * 2 ^ 46 + d.opt * 2 ^ 51 + d.ssz * 2 ^ 59 + d.gen % 65536 * 2 ^ 72 + d.rowm1 * 2 ^ 88
  + d.mbase * 2 ^ 128 + d.lbase * 2 ^ 192

/-- The fields of a placement entry's 512 bits (R200). -/
def placeOf (d : BitVec 512) : Place :=
  let v := d.toNat
  { pbase := bits 447 384 v, pslots := bits 383 352 v, dbase := bits 351 288 v, dlog := bits 287 282 v,
    rbase := bits 255 192 v, rslots := bits 191 168 v, hlog := bits 167 152 v, pthr := bits 151 140 v,
    flo := bits 139 132 v, fhi := bits 131 124 v, dsh := bits 123 117 v, tid := bits 11 0 v }

/-- A placement entry as a 512-bit number. -/
def Place.num (e : Place) : Nat :=
  e.tid + e.dsh * 2 ^ 117 + e.fhi * 2 ^ 124 + e.flo * 2 ^ 132 + e.pthr * 2 ^ 140 + e.hlog * 2 ^ 152
  + e.rslots * 2 ^ 168 + e.rbase * 2 ^ 192 + e.dlog * 2 ^ 282 + e.dbase * 2 ^ 288 + e.pslots * 2 ^ 352
  + e.pbase * 2 ^ 384

/-- Row dimension. -/
def Desc.dim (d : Desc) : Nat := 8 * d.dimq
/-- Payload element width in bytes. -/
def Desc.w (d : Desc) : Nat := fmtWidth d.pfmt
/-- The number of 64-element groups. -/
def Desc.groups (d : Desc) : Nat := ceilDiv d.dim 64
/-- Bytes of the group offsets. -/
def Desc.offLen (d : Desc) : Nat := if d.pfmt = 3 then ceilDiv d.groups 2 else 0
/-- Bytes of the payload. -/
def Desc.payLen (d : Desc) : Nat := d.dim * d.w
/-- First byte of the optimizer state (R134). -/
def Desc.soff (d : Desc) : Nat := roundUp (16 + d.payLen + d.offLen) 4
/-- Bytes of a record (R134). -/
def Desc.size (d : Desc) : Nat := roundUp (d.soff + d.ssz) 64
/-- Shard count S. -/
def Desc.shards (d : Desc) : Nat := 2 ^ d.slog
/-- Row count. -/
def Desc.rows (d : Desc) : Nat := d.rowm1 + 1
/-- Record slots of one shard area (R137). -/
def Desc.ns (d : Desc) : Nat := (d.rows + d.shards - 1) / d.shards
/-- Local slot of a row. -/
def Desc.slotOf (d : Desc) (r : Nat) : Nat := r / d.shards
/-- The row engine and segment of a row (R151, R201). -/
def Desc.eng (d : Desc) (r : Nat) : Nat := d.slotOf r % 16

/-! ### Ownership (R136, R137) -/

/-- The logical module index of this module. -/
def lidxOf (s : State) (p : Part) : Nat := match getJob s p with | none => 0 | some j => j.plan.lidx

/-- The owner of a row by a shard map. -/
def ownerOf (map : List Nat) (d : Desc) (r : Nat) : Nat := nth 0 map (r % d.shards)

/-- The number of the module's shards before shard `j`. -/
def shardPos (map : List Nat) (me j : Nat) : Nat := ((map.take j).filter (· == me)).length

/-- The shards that the module owns, ascending. -/
def myShards (map : List Nat) (me : Nat) : List Nat :=
  (map.zipIdx.filter fun x => x.1 == me).map (·.2)

/-- Byte offset of a row's record in the module's local storage. -/
def rowOff (t : Table) (me r : Nat) : Nat :=
  (shardPos t.map me (r % t.desc.shards) * t.desc.ns + t.desc.slotOf r) * t.desc.size

/-- The home of a row of a tiered table, or the record of a row of another: a range generation's storage where one
holds the row (R137, R202, R221). -/
def homeAddr (t : Table) (me r : Nat) : Nat :=
  let moved (l : List (Nat × Nat × Nat)) : Nat :=
    match l.find? (fun x => decide (x.1 ≤ r ∧ r < x.2.1)) with
    | some x => x.2.2 + rowOff t me r
    | none => t.desc.lbase + rowOff t me r
  match t.merge with
  | some m => if m.rows.contains r then m.area + (r - m.a) * t.desc.size else moved t.areas
  | none => moved t.areas

/-- Rows of the module in ascending (shard, local slot) order that an engine serves. -/
def engineRows (t : Table) (me e : Nat) : List Nat :=
  (myShards t.map me).flatMap fun j =>
    ((List.range t.desc.ns).filter fun l => l % 16 == e).filterMap fun l =>
      let r := l * t.desc.shards + j
      if r < t.desc.rows then some r else none

/-! ### Record headers (R134, R135) -/

/-- The 128-bit header of a record. -/
def hdr (b : List Byte) : Nat := natOf (b.take 16)
def hRow (b : List Byte) : Nat := bits 39 0 (hdr b)
def hTid (b : List Byte) : Nat := bits 51 40 (hdr b)
def hHeat (b : List Byte) : Nat := bits 63 52 (hdr b)
def hSeal (b : List Byte) : Nat := bits 79 64 (hdr b)
def hBase (b : List Byte) : Nat := bits 87 80 (hdr b)
def hDirty (b : List Byte) : Bool := bit 88 (hdr b)
def hFrz (b : List Byte) : Bool := bit 96 (hdr b)
def hExs (b : List Byte) : Bool := bit 97 (hdr b)
def hCrc (b : List Byte) : Nat := bits 127 112 (hdr b)

/-- A record with bits of its header replaced. -/
def setHdr (b : List Byte) (hi lo x : Nat) : List Byte := bytesOf 16 (setBits hi lo (hdr b) x) ++ b.drop 16

def setHeat (b : List Byte) (x : Nat) : List Byte := setHdr b 63 52 x
def setDirty (b : List Byte) (x : Bool) : List Byte := setHdr b 88 88 (b2n x)

/-- The CRC of a record, HEAT, DIRTY and CRC taken as zero (R135). -/
def recCrc (b : List Byte) : Nat :=
  (crc16 (setHdr (setDirty (setHeat b 0) false) 127 112 0)).toNat

/-- A record with its CRC recomputed. -/
def fixCrc (b : List Byte) : List Byte := setHdr b 127 112 (recCrc b)

/-- Whether a record's ROW, TID and CRC hold. -/
def recOk (tid row : Nat) (b : List Byte) : Bool :=
  decide (hRow b = row ∧ hTid b = tid ∧ hCrc b = recCrc b)

/-- Whether a read meets an uncorrectable error: poison in the scratchpad, a bad 4 KiB unit of the flash (R228). -/
def badRange (s : State) (a n : Nat) : Bool :=
  poisoned s a n
  || (decide (t3Base ≤ a) && s.flash.bad.any fun u => overlaps a n (t3Base + 4096 * u) 4096)
  || (match tierOf a with | none => true | some _ => false)

/-- A record as a row engine reads it: none where it fails its check (R153). -/
def recRead (s : State) (t : Table) (addr row : Nat) : Option (List Byte) :=
  let b := s.mem.read addr t.desc.size
  if badRange s addr t.desc.size || !recOk t.desc.tid row b then none else some b

/-- Writes a record. Row engines keep no sidecar for records (R237). -/
def recWrite (s : State) (addr : Nat) (b : List Byte) : State := wrNow s addr b

/-! ### Regulators (R232, R233) -/

/-- Bytes per microsecond and per cent of a regulator: T1, T2, T3 read, T3 program. -/
def refillUnit (b : Nat) : Nat := nth 0 [80000, 48000, 960, 240] b

/-- Rate of regulator `b` of a partition, in per cent. -/
def rateOf (s : State) (p : Part) (b : Nat) : Nat := tabGet 0 s.rates (4 * p.toNat + b)

/-- Depth of a bucket. -/
def bucketDepth (s : State) (p : Part) (b : Nat) : Nat := Nat.max (64 * (rateOf s p b * refillUnit b)) 16384

/-- Charges bytes to a bucket. An access that lacks tokens waits for refills; the wait is counted in block `blk` in
cycles of 1.2 GHz and the tokens that have come are spent (R233). -/
def charge (s : State) (p : Part) (b n blk : Nat) : State :=
  let k := 4 * p.toNat + b
  let have' := tabGet 0 s.bucket k
  let s := { s with bucket := tabSet s.bucket k (have' - n) }
  let per := rateOf s p b * refillUnit b
  if n ≤ have' ∨ per = 0 then s else count s blk 1 5 (1200 * ceilDiv (n - have') per) (atPart p)

/-- The bucket that a device address is charged to when it is read. -/
def bucketOf (a : Nat) : Nat := match tierOf a with | some 1 => 0 | some 2 => 1 | _ => 2

/-! ### Where no access may issue (R227, R233 to R235) -/

/-- A stack: N0 to N7, D0 to D11, F0 to F7. -/
def getStack (s : State) (i : Nat) : Stack := nth {} s.dramStacks i

/-- Stores a stack. -/
def putStack (s : State) (i : Nat) (k : Stack) : State := { s with dramStacks := setNth s.dramStacks i k }

/-- The pieces of a range within units of `u` bytes. -/
def unitPieces (u a n : Nat) : List (Nat × Nat) :=
  if n = 0 then []
  else (List.range ((a + n - 1) / u - a / u + 1)).map fun i =>
    let lo := Nat.max a ((a / u + i) * u)
    let hi := Nat.min (a + n) ((a / u + i + 1) * u)
    (lo, hi - lo)

/-- The DRAM stack of an address (R196). -/
def stackOf (a : Nat) : Option Nat :=
  match tierOf a with
  | some 1 => some ((a - t1Base) / 2048 % 8)
  | some 2 => some (8 + (a - t2Base) / 2048 % 12)
  | _ => none

/-- The critical stacks that a range reaches: their cap is 0 % and every access to them waits (R234). -/
def critStacks (s : State) (a n : Nat) : List Nat :=
  (unitPieces 2048 a n).filterMap fun x => match stackOf x.1 with
    | some k => if (getStack s k).cap = 0 then some k else none
    | none => none

/-- The flash stacks that have stopped programming (R235). -/
def stoppedFlash (s : State) : List Nat := (List.range 8).filter fun k => decide ((getStack s (20 + k)).cap = 0)

/-- Whether the flash programs anywhere. -/
def programsOpen (s : State) : Bool := decide ((stoppedFlash s).length < 8)

/-- Whether an access of a partition may issue now. It waits while its regulator's rate is 0 %, for a critical stack, for T3
to be ready, and to program while every flash stack has stopped (R227, R233 to R235). -/
def memOpen (s : State) (p : Part) (a n : Nat) (write : Bool) : Bool :=
  match tierOf a with
  | some 3 => s.flash.ready && decide (0 < rateOf s p (if write then 3 else 2)) && (!write || programsOpen s)
  | some 1 => decide (0 < rateOf s p 0) && (critStacks s a n).isEmpty
  | some 2 => decide (0 < rateOf s p 1) && (critStacks s a n).isEmpty
  | _ => true

/-- An access waits: the stacks that hold it back note since when. -/
def noteWait (s : State) (a n : Nat) (write : Bool) : State :=
  let l := if tierOf a = some 3 then (if write && !programsOpen s then (stoppedFlash s).map (· + 20) else []) else critStacks s a n
  l.foldl (fun s k =>
    let v := getStack s k
    if v.waitFrom.isSome then s else putStack s k { v with waitFrom := some s.tim.now }) s

/-- Whether every access of a list, each an address, a length and whether it writes, may issue. -/
def allOpen (s : State) (p : Part) (l : List (Nat × Nat × Bool)) : Bool := l.all fun x => memOpen s p x.1 x.2.1 x.2.2

/-- Does `f` where every access of a list may issue; else the whole waits. -/
def whenOpen (s : State) (p : Part) (l : List (Nat × Nat × Bool)) (f : State → State) : State :=
  if allOpen s p l then f s else l.foldl (fun s x => noteWait s x.1 x.2.1 x.2.2) s

/-- Adds bytes to a channel of the window in progress (R489). -/
def winAdd (s : State) (c n : Nat) : State := modLive s fun v => { v with win := tabMod 0 v.win c (· + n) }

/-- The counter block of the memory controller that serves an address: near-DRAM, dense-DRAM or flash, of M0 or M1
(R196, R223, R429, R478). -/
def ctrlBlk (s : State) (a : Nat) : Option Nat :=
  match tierOf a with
  | some 1 => some (58 + (a - t1Base) / 2048 % 8 / 4)
  | some 2 => some (60 + (a - t2Base) / 2048 % 12 / 6)
  | some 3 =>
    match tabFind s.flash.map ((a - t3Base) / 16384) with
    | some ph => some (62 + ph % 32 / 16)
    | none => none
  | _ => none

/-- Counts the bytes of an access at the unit's block and at the memory's: the scratchpad, or the controllers
(R483). -/
def countMem (s : State) (p : Part) (a n blk : Nat) (write : Bool) : State :=
  let k := if write then 2 else 1
  let at' (a : Nat) : EvAt := { part := some p.toNat, addr := some a }
  let s := count s blk 2 k n (at' a)
  match tierOf a with
  | none => s
  | some 0 => count s blkSpd 2 k n (at' a)
  | some _ =>
    (unitPieces 2048 a n).foldl (fun s x =>
      match ctrlBlk s x.1 with
      | none => s
      | some c => count s c 2 k x.2 (at' x.1)) s

/-- A read of the flash meets the uncorrectable units of its range (R228). -/
def meetFlash (s : State) (a n : Nat) : State :=
  (s.flash.bad.filter fun u => overlaps a n (t3Base + 4096 * u) 4096).foldl (fun s u =>
    history (raiseM (match ctrlBlk s a with | none => s | some c => count s c 3 2 1 { addr := some a })
      evFtlUncorr [t3Base + 4096 * u]) 7 (t3Base + 4096 * u) 0) s

/-- Charges and counts an access of a row engine, a DMA engine or an exchange engine: 64 bytes a granule in DRAM, 4 KiB
a partial read in T3 (R233, R489). -/
def chargeMem (s : State) (p : Part) (a n blk : Nat) (write : Bool) : State :=
  let s := countMem s p a n blk write
  match tierOf a with
  | some 0 => spdAccess s a n write
  | some 1 => winAdd (charge s p 0 (64 * (granulesOf a n).length) blk) (52 + b2n write) n
  | some 2 => winAdd (charge s p 1 (64 * (granulesOf a n).length) blk) (54 + b2n write) n
  | some 3 =>
    if write then s
    else
      let m := 4096 * (blocksOf a n).length
      winAdd (charge (meetFlash s a n) p 2 m blk) 56 m
  | _ => s

/-- Charges the read of a record. -/
def chargeRead (s : State) (p : Part) (a n blk : Nat) : State := chargeMem s p a n blk false

/-- Charges the write of a record. -/
def chargeWrite (s : State) (p : Part) (a n blk : Nat) : State := chargeMem s p a n blk true

/-! ### The residency directory (R203, R204) -/

/-- The placement entry of a table. -/
def Table.pl (t : Table) : Place := t.place.getD {}

/-- Entries of one segment. -/
def Place.segLen (e : Place) : Nat := 2 ^ (e.dlog - 4)

/-- The directory hash of a row. -/
def dirHash (r : Nat) : Nat := r * 0x9E3779B97F4A7C15 % 2 ^ 64

/-- First index of a row's probe. -/
def dirStart (e : Place) (r : Nat) : Nat := dirHash r / 2 ^ (68 - e.dlog)

/-- The tag of a row. -/
def dirTag (r : Nat) : Nat := bits 24 0 (dirHash r)

/-- Address of entry `i` of segment `g`. -/
def dirAddr (e : Place) (g i : Nat) : Nat := e.dbase + (g * e.segLen + i % e.segLen) * 8

/-- An entry of the directory. -/
def dirGet (s : State) (e : Place) (g i : Nat) : Nat := s.mem.readNat (dirAddr e g i) 8

/-- Writes an entry of the directory. -/
def dirPut (s : State) (e : Place) (g i v : Nat) : State := wrNow s (dirAddr e g i) (bytesOf 8 v)

def deState (v : Nat) : Nat := bits 63 62 v
def deFv (v : Nat) : Bool := bit 61 v
def deStep (v : Nat) : Nat := bits 60 57 v
def deTag (v : Nat) : Nat := bits 56 32 v
def deSlot (v : Nat) : Nat := bits 31 0 v

/-- An entry from its fields. -/
def deMake (state : Nat) (fv : Bool) (step tag slot : Nat) : Nat :=
  slot + tag * 2 ^ 32 + step % 16 * 2 ^ 57 + b2n fv * 2 ^ 61 + state * 2 ^ 62

/-- Address of a slot's record: pool slots first, then reserve slots. -/
def slotAddr (t : Table) (slot : Nat) : Nat :=
  let e := t.pl
  if slot < e.pslots then e.pbase + slot * t.desc.size else e.rbase + (slot - e.pslots) * t.desc.size

/-- The segment of a slot. -/
def slotSeg (t : Table) (slot : Nat) : Nat :=
  if slot < t.pl.pslots then slot % 16 else (slot - t.pl.pslots) % 16

/-- Whether an entry is the row's: its tag and the ROW and TID of its slot's header. A promoting entry's slot holds no
record yet: the list of the rows being promoted, with their slots, tells whose it is. -/
def dirMatch (s : State) (t : Table) (r v : Nat) : Bool :=
  decide (deState v ≠ 0) && decide (deTag v = dirTag r)
  && (if deState v = 2 then t.promoting.contains (r, deSlot v)
      else
        let h := s.mem.read (slotAddr t (deSlot v)) 16
        decide (hRow h = r ∧ hTid h = t.desc.tid))

/-- The probe of R203 from index `i`: the index and value of the row's entry. -/
def dirProbe (s : State) (t : Table) (r : Nat) : Nat → Nat → Option (Nat × Nat)
  | 0, _ => none
  | f + 1, i =>
    let v := dirGet s t.pl (t.desc.eng r) i
    if deState v = 0 then none
    else if dirMatch s t r v then some (i % t.pl.segLen, v)
    else dirProbe s t r f (i + 1)

/-- The entry of a row. -/
def dirFind (s : State) (t : Table) (r : Nat) : Option (Nat × Nat) :=
  dirProbe s t r t.pl.segLen (dirStart t.pl r)

/-- The first empty index from `i` on. -/
def dirEmpty (s : State) (e : Place) (g : Nat) : Nat → Nat → Nat
  | 0, i => i % e.segLen
  | f + 1, i => if deState (dirGet s e g i) = 0 then i % e.segLen else dirEmpty s e g f (i + 1)

/-- Inserts an entry for a row. -/
def dirInsert (s : State) (t : Table) (r v : Nat) : State :=
  let g := t.desc.eng r
  dirPut s t.pl g (dirEmpty s t.pl g t.pl.segLen (dirStart t.pl r)) v

/-- Changes the entry of a row. -/
def dirMod (s : State) (t : Table) (r : Nat) (f : Nat → Nat) : State :=
  match dirFind s t r with
  | none => s
  | some iv => dirPut s t.pl (t.desc.eng r) iv.1 (f iv.2)

/-- The row that an entry's slot holds, or that is being promoted into it. -/
def entryRow (s : State) (t : Table) (v : Nat) : Nat :=
  if deState v = 2 then
    match t.promoting.find? (fun x => x.2 == deSlot v) with
    | some x => x.1
    | none => 0
  else hRow (s.mem.read (slotAddr t (deSlot v)) 16)

/-- Backward-shift deletion: fills the hole at `hole` from the run that follows it (R203). -/
def dirShift (s : State) (t : Table) (g hole : Nat) : Nat → Nat → State
  | 0, _ => dirPut s t.pl g hole 0
  | f + 1, i =>
    let n := t.pl.segLen
    let v := dirGet s t.pl g i
    if deState v = 0 then dirPut s t.pl g hole 0
    else
      let home := dirStart t.pl (entryRow s t v)
      if (i + n - home % n) % n < (i + n - hole) % n then dirShift s t g hole f ((i + 1) % n)
      else dirShift (dirPut s t.pl g hole v) t g i f ((i + 1) % n)

/-- Removes the entry of a row and frees its slot. -/
def dirRemove (s : State) (p : Part) (tid r : Nat) : State :=
  match getTbl s p tid with
  | none => s
  | some t =>
    match dirFind s t r with
    | none => s
    | some iv =>
      let g := t.desc.eng r
      let slot := deSlot iv.2
      let s := dirShift s t g iv.1 t.pl.segLen ((iv.1 + 1) % t.pl.segLen)
      putTbl s p tid { t with
        usedPool := t.usedPool.filter (· != slot),
        usedRes := t.usedRes.filter (fun j => j + t.pl.pslots != slot),
        evicting := t.evicting.filter (· != r), promoting := t.promoting.filter (·.1 != r) }

/-! ### Slots and segments (R201, R212, R214) -/

/-- Free pool slots of a segment. -/
def freeSlots (t : Table) (g : Nat) : Nat :=
  t.pl.pslots / 16 - (t.usedPool.filter fun x => x % 16 == g).length

/-- The lowest slot of a segment not in `used`, from index `i` on. -/
def lowestFree (used : List Nat) (limit g : Nat) : Nat → Nat → Option Nat
  | 0, _ => none
  | f + 1, i =>
    let x := g + 16 * i
    if limit ≤ x then none
    else if used.contains x then lowestFree used limit g f (i + 1) else some x

/-- A free pool slot of a segment. -/
def freePoolSlot (t : Table) (g : Nat) : Option Nat :=
  lowestFree t.usedPool t.pl.pslots g (t.usedPool.length + 1) 0

/-- A free reserve slot of a segment, as a slot number of the directory. -/
def freeResSlot (t : Table) (g : Nat) : Option Nat :=
  (lowestFree t.usedRes t.pl.rslots g (t.usedRes.length + 1) 0).map (· + t.pl.pslots)

/-- Marks a slot as used. -/
def useSlot (t : Table) (slot : Nat) : Table :=
  if slot < t.pl.pslots then { t with usedPool := slot :: t.usedPool }
  else { t with usedRes := (slot - t.pl.pslots) :: t.usedRes }

/-- The number of the step that is running or about to run: the last sealed step plus 1. -/
def nextStep (s : State) (p : Part) : Nat :=
  match getJob s p with
  | none => 0
  | some j => match j.lastSeal with | none => j.plan.step0 | some n => n + 1

/-- Whether a 16-bit step field names a step that the module has not reached: its message waits, and nothing happens
before the module comes to that step (R359). -/
def laterStep (s : State) (p : Part) (step : Nat) : Bool :=
  let d := (step % 65536 + 65536 - nextStep s p % 65536) % 65536
  decide (0 < d ∧ d < 32768)

/-- Whether a mark is held (R212). -/
def markHeld (s : State) (p : Part) (v : Nat) : Bool :=
  deFv v && decide ((deStep v + 16 - nextStep s p % 16) % 16 ≤ 8)

/-- Whether a row is pinned. -/
def Table.pinned (t : Table) (r : Nat) : Bool := t.pins.any fun q => q.row == r

/-- The resident rows of a segment: (row, slot, entry, record header bytes). -/
def residents (s : State) (t : Table) (g : Nat) : List (Nat × Nat × Nat × List Byte) :=
  let slots := t.usedPool ++ t.usedRes.map (· + t.pl.pslots)
  ((sortBy id slots).filter fun x => slotSeg t x == g).filterMap fun x =>
    let h := s.mem.read (slotAddr t x) 16
    match dirFind s t (hRow h) with
    | some iv => if deSlot iv.2 = x ∧ deState iv.2 = 1 then some (hRow h, x, iv.2, h) else none
    | none => none

/-- The coldest of a list of residents, the first on ties. -/
def coldest (l : List (Nat × Nat × Nat × List Byte)) : Option (Nat × Nat × Nat × List Byte) :=
  l.foldl (fun acc x => match acc with
    | none => some x
    | some y => if hHeat x.2.2.2 < hHeat y.2.2.2 then some x else acc) none

/-- Takes a slot for a row and inserts its promoting entry (R210). -/
def promoteInto (s : State) (p : Part) (tid r slot : Nat) (mark : Option Nat) : State :=
  match getTbl s p tid with
  | none => s
  | some t =>
    let t := useSlot { t with promoting := t.promoting ++ [(r, slot)] } slot
    let v := deMake 2 mark.isSome (mark.getD 0) (dirTag r) slot
    dirInsert (putTbl s p tid t) t r v

/-! ### The table directory in T1 (R513, R514) -/

/-- Address of a table's slot in the partition's table directory. -/
def dirSlot (s : State) (p : Part) (tid : Nat) : Nat := nth 0 s.tdir p.toNat + 0x12000 * tid

/-- Writes a table's descriptor, parameter block, products and placement entry into its slot. -/
def writeSlot (s : State) (p : Part) (tid : Nat) (t : Table) : State :=
  let a := dirSlot s p tid
  let head := bytesOf 64 t.desc.num ++ t.par.p.flatMap (fun x => bytesOf 4 x.toNat)
    ++ bytesOf 4 t.par.p1.toNat ++ bytesOf 4 t.par.p2.toNat ++ [BitVec.ofNat 8 (b2n t.digOk)]
  let s := wrNow s a (padTo 0 0xC0 head)
  wrNow s (a + 0xC0) (bytesOf 64 (match t.place with | none => 0 | some e => e.num))

/-- Stores a table and its slot of the directory. -/
def keepTbl (s : State) (p : Part) (tid : Nat) (t : Table) : State := writeSlot (putTbl s p tid t) p tid t

/-- The range of digests that a row belongs to (R185). -/
def rangeOf (d : Desc) (r : Nat) : Nat := r * 4096 / d.rows

/-- XORs a 128-bit hash into the set digest and a range digest of a table. -/
def xorDigest (s : State) (p : Part) (tid : Nat) (k h : Nat) : State :=
  match getTbl s p tid with
  | none => s
  | some t =>
    let set := t.set ^^^ h
    let rng := tabGet 0 t.ranges k ^^^ h
    let a := dirSlot s p tid + 0x100
    let s := putTbl s p tid { t with set := set, ranges := tabSet t.ranges k rng }
    wrNow (wrNow s a (bytesOf 16 set)) (a + 16 + 16 * k) (bytesOf 16 rng)

/-- Sets every digest of a table to zero, not valid. -/
def clearDigests (s : State) (p : Part) (tid : Nat) : State :=
  match getTbl s p tid with
  | none => s
  | some t =>
    let s := putTbl s p tid { t with set := 0, ranges := [], digOk := false }
    { s with mem := s.mem.zero (dirSlot s p tid + 0x100) 65552 }

/-! ### Record hashes (R186) -/

/-- The Gale chain of R186 over 16-byte chunks. -/
def hashChunks (key : Nat) : Nat → List Byte → Nat → Nat
  | 0, _, x => x
  | n + 1, bs, x => hashChunks key n (bs.drop 16) (gale key (x ^^^ natOf (bs.take 16)))

/-- The hash key of a table. -/
def tableKey (p : Part) (tid : Nat) : Nat := galeKey 0 (0x60000000 + p.toNat * 4096 + tid)

/-- The record hash: HEAT, DIRTY, EXS and CRC taken as zero. -/
def recHash (p : Part) (tid : Nat) (b : List Byte) : Nat :=
  let b := setHdr (setHdr (setDirty (setHeat b 0) false) 97 97 0) 127 112 0
  hashChunks (tableKey p tid) (b.length / 16) b 0

end Sys2Proof.Machine
end

