-- ==== Sys2Proof/Machine/Tiers.lean ====
section
/-! DEFINITION. Row tiers: promotion, Drizzle, writeback, the flash translation layer, the wear governor, the
regulators' refill and the thermal limits (R205 to R235). -/

namespace Sys2Proof.Machine

/-! ### The flash translation layer (R223 to R228) -/

/-- Bands that are not reserved (R223). -/
def usableBands : Nat := 32750
/-- Pages of a band. -/
def bandPages : Nat := 32768

/-- Erased bands that remain. -/
def erasedBands (f : Flash) : Nat := usableBands - f.used.length

/-- The block of a physical page: consecutive pages of a band rotate over its 32 blocks (R224). -/
def pageBlock (ph : Nat) : Nat := ph / bandPages * 32 + ph % 32

/-- Erase count of a block. -/
def eraseOf (f : Flash) (blk : Nat) : Nat := tabGet 0 f.erases blk

/-- The blocks of a band that are in service. -/
def bandBlocks (f : Flash) (b : Nat) : List Nat := ((List.range 32).map (· + 32 * b)).filter fun k => !f.retired.contains k

/-- Sum of the erase counts of a band's blocks in service. -/
def bandErases (f : Flash) (b : Nat) : Nat := (bandBlocks f b).foldl (fun n k => n + eraseOf f k) 0

/-- Whether the mean erase count of band `b` is below that of band `c`; a band with no block in service is behind all. -/
def youngerBand (f : Flash) (b c : Nat) : Bool :=
  match (bandBlocks f b).length, (bandBlocks f c).length with
  | 0, _ => false
  | _ + 1, 0 => true
  | m + 1, n + 1 => decide (bandErases f b * (n + 1) < bandErases f c * (m + 1))

/-- The erased band of lowest mean erase count among the first `k` bands, the lowest number on ties. -/
def pickErased (f : Flash) : Nat → Option Nat
  | 0 => none
  | k + 1 =>
    let r := pickErased f k
    if f.used.contains k then r
    else match r with
      | none => some k
      | some b => if youngerBand f k b then some k else some b

/-- How many bands hold every band that can be the youngest: a band with no erase and no retired block stands among them, or
they are all. -/
def youngBands (f : Flash) : Nat := Nat.min usableBands (f.used.length + f.erases.length + f.retired.length + 1)

/-- The next page index of an open band from `i` on whose block is in service and whose stack programs (R224, R235): the
channels of a stack that has stopped are passed over (DESIGN CHOICE, entry 134). -/
def nextIndex (f : Flash) (stopped : List Nat) (b : Nat) : Nat → Nat → Nat
  | 0, i => i
  | n + 1, i =>
    if f.retired.contains (32 * b + i % 32) || stopped.contains (i % 32 / 4) then nextIndex f stopped b n (i + 1) else i

/-- The band that takes the next page, opened where none has room. -/
def openBand (f : Flash) : Flash :=
  if f.openB.any (fun b => decide (b.2 < bandPages)) then f
  else
    match pickErased f (youngBands f) with
    | none => f
    | some b => { f with used := sortBy id (b :: f.used), openB := [(b, 0)] }

/-- Programs logical page `lp`: its physical page with its out-of-band area, the map, the program sequence (R224). The data
is the logical address space's. -/
def programPage (f : Flash) (stopped : List Nat) (lp : Nat) : Flash :=
  let f := openBand f
  match f.openB with
  | [] => f
  | (b, i) :: t =>
    let i := nextIndex f stopped b 32 i
    let ph := b * bandPages + i
    { f with map := tabSet f.map lp ph, oob := tabSet f.oob ph { lp := lp, seq := f.seq }, openB := (b, i + 1) :: t,
             seq := (f.seq + 1) % 2 ^ 64, sinceCk := f.sinceCk + 1 }

/-- The logical pages whose valid copy lies in a band. -/
def validPages (f : Flash) (b : Nat) : List Nat :=
  (f.map.filter fun kv => kv.2 / bandPages == b).map (·.1)

/-- One page program against the wear credit: an urgent one without credit is an overdraft of the table with key
`urgentTid`
(R230, R231). -/
def spendPage (s : State) (urgentTid : Option Nat) : State :=
  let overdrawn : Bool := decide (s.wear.c ≤ 0)
  let s := { s with wear := { s.wear with c := s.wear.c - 1 } }
  match overdrawn, urgentTid with
  | true, some tid =>
    let first : Bool := decide (s.wear.odPages = 0)
    let s := { s with wear := { s.wear with
      odPages := s.wear.odPages + 1, odTab := if first then tid else s.wear.odTab } }
    if first then raiseM s evTierOverdraft [tid % 4096, tid / 4096, s.alm.hours] else s
  | _, _ => s

/-- Programs a list of logical pages. -/
def programPages (s : State) (urgentTid : Option Nat) (lps : List Nat) : State :=
  lps.foldl (fun s lp => spendPage { s with flash := programPage s.flash (stoppedFlash s) lp } urgentTid) s

/-- A checkpoint without the logical pages of a range. -/
def Ckpt.without (k : Ckpt) (lo hi : Nat) : Ckpt := { k with map := k.map.filter fun kv => !decide (lo ≤ kv.1 ∧ kv.1 < hi) }

/-- Trims the logical pages that a T3 range covers whole (R221, R224). A trim outlasts a later mount: the copies of the map
and the out-of-band areas that name its pages count no more (DESIGN CHOICE, entry 134). -/
def trimRange (s : State) (a n : Nat) : State :=
  let lo := ceilDiv (a - t3Base) 16384
  let hi := (a + n - t3Base) / 16384
  let gone := (s.flash.map.filter fun kv => decide (lo ≤ kv.1 ∧ kv.1 < hi)).map (·.1)
  let f := s.flash
  let s := { s with flash := { f with
    map := f.map.filter fun kv => !decide (lo ≤ kv.1 ∧ kv.1 < hi)
    oob := f.oob.filter fun kv => !decide (lo ≤ kv.2.lp ∧ kv.2.lp < hi)
    ckA := f.ckA.map (·.without lo hi), ckB := f.ckB.map (·.without lo hi) } }
  gone.foldl (fun s lp => { s with mem := s.mem.zero (t3Base + 16384 * lp) 16384 }) s

/-- A block of flash whose data is rewritten elsewhere loses its bad units. -/
def healPages (s : State) (lps : List Nat) : State :=
  { s with flash := { s.flash with bad := s.flash.bad.filter fun u => !lps.contains (u / 4) } }

/-- Copies a band's valid pages into the log and erases it (R225). -/
def moveBand (s : State) (b : Nat) : State :=
  let lps := validPages s.flash b
  let s := programPages s none lps
  let f := s.flash
  let es := bandBlocks f b
  { s with flash := { f with
      oob := f.oob.filter (fun kv => kv.1 / bandPages != b), used := f.used.filter (· != b), openB := f.openB.filter (fun x => x.1 != b),
      erases := es.foldl (fun t k => tabMod 0 t k (· + 1)) f.erases } }

/-- The used band, not open, that a cost picks: the smallest cost, the lowest number on ties. -/
def pickBand (f : Flash) (cost : Nat → Nat) : Option Nat :=
  ((sortBy id f.used).filter fun b => !f.openB.any (fun x => x.1 == b && decide (x.2 < bandPages))).foldl
    (fun acc b => match acc with
      | none => some b
      | some c => if cost b < cost c then some b else some c) none

/-- Garbage collection of one band while fewer than 64 erased bands remain (R225). -/
def collectGarbage (s : State) : State :=
  if erasedBands s.flash < 64 then
    match pickBand s.flash (fun b => (validPages s.flash b).length) with
    | none => s
    | some b => moveBand s b
  else s

/-- The spread of the erase counts of blocks in service: blocks never erased count 0. -/
def eraseSpread (f : Flash) : Nat :=
  let es := (f.erases.filter fun kv => !f.retired.contains kv.1).map (·.2)
  let hi := es.foldl Nat.max 0
  let lo := if es.length < 32 * usableBands - f.retired.length then 0 else es.foldl Nat.min hi
  hi - lo

/-- Wear levelling: the band of lowest erase count moves when the spread exceeds 256 (R225). -/
def levelWear (s : State) : State :=
  if 256 < eraseSpread s.flash then
    match pickBand s.flash (bandErases s.flash) with
    | none => s
    | some b => moveBand s b
  else s

/-- A block fails a program or an erase: it is retired and its pages are rewritten elsewhere (R224). -/
def retireBlock (s : State) (blk : Nat) : State :=
  if s.flash.retired.contains blk then s
  else
    let s := { s with flash := { s.flash with retired := blk :: s.flash.retired } }
    let lps := (s.flash.map.filter fun kv => pageBlock kv.2 == blk).map (·.1)
    programPages s none lps

/-- Physical pages of one checkpoint: 4 bytes for each of 939,524,096 logical pages. -/
def ckPages : Nat := 229376

/-- Whether a checkpoint is due: 2^18 page programs since the last one, or an hour (R227). -/
def ckDue (f : Flash) : Bool := f.ckHour || decide (2 ^ 18 ≤ f.sinceCk)

/-- A checkpoint of the live map, where one is due, alternately to copy A and copy B (R227); its pages spend credit
(R230). -/
def checkpointMap (s : State) : State :=
  let f := s.flash
  if !f.ready || !ckDue f then s
  else
    let n := f.ckSeq + 1
    let k : Ckpt := { seq := n, upTo := f.seq, map := f.map }
    let toB : Bool := decide (n % 2 = 0)
    { s with
      flash := { f with ckSeq := n, sinceCk := 0, ckHour := false
                        ckA := if toB then f.ckA else some k, ckB := if toB then some k else f.ckB },
      wear := { s.wear with c := s.wear.c - (ckPages : Int) } }

/-- The newer of the valid copies of the map. -/
def newerCkpt (f : Flash) : Option Ckpt :=
  match f.ckA, f.ckB with
  | some a, some b => if a.seq < b.seq then some b else some a
  | some a, none => some a
  | none, b => b

/-- A map to which the pages programmed from sequence number `upTo` on are added in the order of their numbers (R227). -/
def replayMap (f : Flash) (map : Tab Nat) (upTo : Nat) : Tab Nat :=
  (sortBy (fun x => x.2.seq) (f.oob.filter fun x => decide (upTo ≤ x.2.seq))).foldl (fun m x => tabSet m x.2.lp x.1) map

/-- Mounts T3 where a valid checkpoint exists: the newer one, and the pages programmed after it. -/
def mountT3 (s : State) : State :=
  match newerCkpt s.flash with
  | none => s
  | some k =>
    if s.flash.ready then s
    else { s with flash := { s.flash with map := replayMap s.flash k.map k.upTo, ready := true } }

/-- Rebuilds the map from every out-of-band area where neither copy is valid. -/
def rebuildMap (s : State) : State :=
  match newerCkpt s.flash with
  | none =>
    if s.flash.ready then s
    else raiseM { s with flash := { s.flash with map := replayMap s.flash [] 0, ready := true } } evFtlRebuild []
  | some _ => s

/-! ### The wear governor (R229, R230) -/

/-- Blocks of the bands that are not reserved. -/
def allBlocks : Nat := 1048576

/-- The allowance A of R229, and whether nothing remains. -/
def allowance (s : State) : Nat × Bool :=
  let good := allBlocks - s.flash.retired.length
  let used : Nat := s.flash.erases.foldl (fun n kv => n + kv.2) 0
  let remaining : Int := ((3000 * good : Nat) - (used : Int)) * 1024
  let left := Nat.max (s.wear.y * 8766 - s.alm.hours) 24
  (remaining.toNat / left, decide (remaining ≤ 0))

/-- Recalculates A and raises EV_FTL_WORN once when nothing remains. -/
def setAllowance (s : State) : State :=
  let a := allowance s
  let s := { s with wear := { s.wear with a := a.1 } }
  if a.2 && !s.wear.wornSaid then raiseM { s with wear := { s.wear with wornSaid := true } } evFtlWorn [] else s

/-- The credit at boot: 24 A where the Almanac holds none (R230). -/
def wearBoot (s : State) : State :=
  let s := setAllowance s
  if s.wear.cValid then s
  else { s with wear := { s.wear with c := (24 * s.wear.a : Nat), cValid := true } }

/-- Adds the new allowance to the credit, never above 48 A. -/
def addCredit (w : Wear) : Int :=
  let cap : Int := (48 * w.a : Nat)
  let c := w.c + (w.a : Int)
  if cap < c then (if cap < w.c then w.c else cap) else c

/-- The bytes of an Almanac image (R449). -/
def almLength : Nat := 64 + 64 + 512 + 2097152 + 632 + 384 + 48 + 8 + 8 + 8 + 1048576

/-- The sequence number of a written copy. -/
def copySeq (m : Option Almanac) : Nat := match m with | some v => v.seq | none => 0

/-- The next index that the Almanac states: the end of the block that is reserved (R468). -/
def nextSign (s : State) : Nat := Nat.max s.sec.signNext s.sec.signEnd

/-- Writes the Almanac to the older of its copies; its page programs count against the wear credit (R449). -/
def writeAlmanac (s : State) : State :=
  let s := { s with wear := { s.wear with c := s.wear.c - (ceilDiv almLength 16384 : Nat) } }
  let m := { s.alm with credit := s.wear.c, signNext := nextSign s, seq := Nat.max (copySeq s.almA) (copySeq s.almB) + 1 }
  let s := { s with alm := m }
  if copySeq s.almA ≤ copySeq s.almB then { s with almA := some m } else { s with almB := some m }

/-- One hour of power-on time: the overdraft entry of the hour, A, C, the Almanac (R229 to R231). -/
def hourly (s : State) : State :=
  let m := s.alm
  let m := if s.wear.odPages = 0 then m
    else { m with overdrafts := ((m.hours, s.wear.odPages, s.wear.odTab) :: m.overdrafts).take 65536,
                  odTotal := m.odTotal + s.wear.odPages }
  let s := { s with alm := { m with hours := m.hours + 1 }, wear := { s.wear with odPages := 0 }
                    flash := { s.flash with ckHour := true } }
  let s := setAllowance s
  writeAlmanac { s with wear := { s.wear with c := addCredit s.wear } }

/-! ### Writeback (R217 to R220, R226) -/

/-- Whether a segment has fewer free pool slots than its low watermark. -/
def belowLow (t : Table) (g : Nat) : Bool := decide (freeSlots t g * 256 < t.pl.flo * (t.pl.pslots / 16))

/-- Whether a segment has fewer free pool slots than its high watermark. -/
def belowHigh (t : Table) (g : Nat) : Bool := decide (freeSlots t g * 256 < t.pl.fhi * (t.pl.pslots / 16))

/-- The rows of the module whose home records overlap a logical page: in the home area, or in the staged area of a range
that is still to be merged (R221). -/
def pageRows (s : State) (p : Part) (t : Table) (lp : Nat) : List Nat :=
  let me := lidxOf s p
  let a := t3Base + 16384 * lp
  let k0 := (a - t.desc.lbase) / t.desc.size
  let k1 := (a + 16384 - t.desc.lbase) / t.desc.size
  let shards := myShards t.map me
  let here (r : Nat) : Bool := overlaps (homeAddr t me r) t.desc.size a 16384
  let staged (r : Nat) : Bool := match t.merge with | some m => m.rows.contains r | none => false
  (((List.range (k1 + 1 - k0)).map (· + k0)).filterMap fun k =>
    match shards[k / t.desc.ns]? with
    | none => none
    | some j =>
      let r := (k % t.desc.ns) * t.desc.shards + j
      if r < t.desc.rows ∧ here r ∧ (staged r) = false then some r else none)
  ++ (match t.merge with | some m => m.rows.filter here | none => [])

/-- The resident slot of a row, where its entry is resident or evicting. -/
def residentSlot (s : State) (t : Table) (r : Nat) : Option Nat :=
  match dirFind s t r with
  | some iv => if deState iv.2 = 1 ∨ deState iv.2 = 3 then some (deSlot iv.2) else none
  | none => none

/-- The last logical page that a writeback gathers from a page on: while a record that touches the page crosses into the
next one, that page joins with its records (R218). -/
def gatherPages (s : State) (p : Part) (t : Table) : Nat → Nat → Nat
  | 0, lp => lp
  | f + 1, lp =>
    let me := lidxOf s p
    let last := t3Base + 16384 * (lp + 1)
    if (pageRows s p t lp).any fun r => decide (last < homeAddr t me r + t.desc.size) then gatherPages s p t f (lp + 1) else lp

/-- The 4 KiB units of pages that the spans of the resident records do not cover. -/
def uncovered (pages : List Nat) (spans : List (Nat × Nat)) : List Nat :=
  (pages.flatMap fun lp => (List.range 4).map fun i => t3Base + 16384 * lp + 4096 * i).filter fun u =>
    decide (total (spans.map fun x => Nat.min (x.1 + x.2) (u + 4096) - Nat.max x.1 u) < 4096)

/-- Bytes of the current home, an uncorrectable unit's taken as zero (R228). -/
def homeBytes (s : State) (a n : Nat) : List Byte :=
  (s.mem.read a n).zipIdx.map fun x =>
    if s.flash.bad.contains ((a + x.2 - t3Base) / 4096) then 0 else x.1

/-- Overlays bytes `b` at offset `o` of a list. -/
def overlay (l : List Byte) (o : Int) (b : List Byte) : List Byte :=
  l.zipIdx.map fun x =>
    let k := (x.2 : Int) - o
    if 0 ≤ k ∧ k < (b.length : Int) then nth 0 b k.toNat else x.1

/-- A writeback of the group of home pages from a row's first page on. The gathered resident records are read from their
slots and the units they do not cover from the home; DIRTY is cleared in those that lie in the group whole, and the merged
pages are handed to the translation layer (R217, R218). -/
def writebackRow (s : State) (p : Part) (tid row : Nat) (urgent : Bool) : State :=
  match getTbl s p tid with
  | none => s
  | some t =>
    let me := lidxOf s p
    let lp := (homeAddr t me row - t3Base) / 16384
    let hi := gatherPages s p t 512 lp
    let pages := (List.range (hi + 1 - lp)).map (· + lp)
    let blk := blkRow (t.desc.eng row)
    let rows := (pages.flatMap (pageRows s p t)).foldl (fun l r => if l.contains r then l else l ++ [r]) []
    let recs := rows.filterMap fun r => (residentSlot s t r).map fun x => (r, slotAddr t x)
    let whole (r : Nat) : Bool :=
      decide (t3Base + 16384 * lp ≤ homeAddr t me r ∧ homeAddr t me r + t.desc.size ≤ t3Base + 16384 * (hi + 1))
    let dirty := recs.filter fun x => hDirty (s.mem.read x.2 16) && whole x.1
    let units := uncovered pages (recs.map fun x => (homeAddr t me x.1, t.desc.size))
    let s := units.foldl (fun s u => chargeRead s p u 4096 blk) (countRec s p (t.desc.eng row))
    let s := recs.foldl (fun s x => chargeRead s p x.2 t.desc.size blk) s
    let s := dirty.foldl (fun s x =>
      recWrite (chargeWrite s p x.2 16 blk) x.2 (setDirty (s.mem.read x.2 t.desc.size) false)) s
    let page (lp : Nat) : Nat × List Byte :=
      let a := t3Base + 16384 * lp
      (lp, recs.foldl (fun l x => overlay l ((homeAddr t me x.1 : Int) - (a : Int)) (s.mem.read x.2 t.desc.size))
        (homeBytes s a 16384))
    let wb : Writeback := { rows := dirty.map (·.1), pages := pages, bytes := pages.map page, urgent := urgent }
    let s := tblCount s p tid 10 pages.length
    modTbl s p tid fun t => { t with wbs := t.wbs ++ [wb] }

/-- The accesses of a row's writeback: its slot and its home. -/
def writebackSpans (s : State) (p : Part) (t : Table) (row : Nat) : List (Nat × Nat × Bool) :=
  (match residentSlot s t row with | some x => [(slotAddr t x, t.desc.size, true)] | none => [])
  ++ [(homeAddr t (lidxOf s p) row, t.desc.size, false)]

/-- Whether a routine writeback may run: while the credit is positive (R230, R231). -/
def routineOk (s : State) : Bool := decide (0 < s.wear.c)

/-- Ends the evictions whose rows are written back and still clean (R212). -/
def finishEvictions (s : State) (p : Part) (tid : Nat) (rows : List Nat) : State :=
  rows.foldl (fun s r =>
    match getTbl s p tid with
    | none => s
    | some t =>
      match dirFind s t r with
      | some iv =>
        if t.evicting.contains r && deState iv.2 = 3 && !hDirty (s.mem.read (slotAddr t (deSlot iv.2)) 16) then
          tblCount (dirRemove s p tid r) p tid 11 1
        else s
      | none => s) s

/-- Whether a flush command has rows left in some table. -/
def flushing (s : State) (p : Part) (c : Cmd) : Bool := (tblsOf s p).any fun t => t.flushes.any fun f => f.1 == c

/-- Takes durable rows off the tier flushes and completes those that have none left (R220). -/
def flushProgress (s : State) (p : Part) (tid : Nat) (rows : List Nat) : State :=
  match getTbl s p tid with
  | none => s
  | some t =>
    let fs := t.flushes.map fun f => (f.1, f.2.1, f.2.2.filter fun r => !rows.contains r)
    let s := putTbl s p tid { t with flushes := fs.filter fun f => !f.2.2.isEmpty }
    (fs.filter fun f => f.2.2.isEmpty).foldl (fun s f => if flushing s p f.1 then s else complete s f.1 stDone f.2.1 0 0) s

/-- The oldest writeback of a table becomes durable: its pages are programmed (R217). -/
def durable (s : State) (p : Part) (tid : Nat) : State :=
  match getTbl s p tid with
  | none => s
  | some t =>
    match t.wbs with
    | [] => s
    | wb :: rest =>
      let s := putTbl s p tid { t with wbs := rest }
      let s := winAdd (charge s p 3 (16384 * wb.pages.length) (blkRow 0)) 57 (16384 * wb.pages.length)
      let s := wb.bytes.foldl (fun s x => { s with mem := s.mem.write (t3Base + 16384 * x.1) x.2 }) s
      let s := healPages (programPages s (if wb.urgent then some (tkey p tid) else none) wb.pages) wb.pages
      flushProgress (finishEvictions s p tid wb.rows) p tid wb.rows

/-! ### Eviction and Drizzle (R212 to R216) -/

/-- Sets the state of a row's entry. -/
def dirState (s : State) (t : Table) (r x : Nat) : State := dirMod s t r fun v => setBits 63 62 v x

/-- Whether a resident row is dirty. -/
def dirtyAt (s : State) (t : Table) (r : Nat) : Bool :=
  match residentSlot s t r with
  | some x => hDirty (s.mem.read (slotAddr t x) 16)
  | none => false

/-- Evicts a clean row at once. -/
def evictClean (s : State) (p : Part) (tid r : Nat) : State := tblCount (dirRemove s p tid r) p tid 11 1

/-- Begins the eviction of a dirty row: STATE = 3 and an urgent writeback, unless one of it is under way. -/
def evictDirty (s : State) (p : Part) (tid r : Nat) : State :=
  match getTbl s p tid with
  | none => s
  | some t =>
    let s := putTbl (dirState s t r 3) p tid { t with evicting := t.evicting ++ [r] }
    if t.wbs.any (fun w => w.rows.contains r) && !(dirtyAt s t r) then s else writebackRow s p tid r true

/-- The evictable residents among a list. -/
def evictable (s : State) (p : Part) (t : Table) (l : List (Nat × Nat × Nat × List Byte)) :
    List (Nat × Nat × Nat × List Byte) :=
  l.filter fun x => !t.pinned x.1 && !markHeld s p x.2.2.1

/-- Whether the home record of a resident row is current: the row is not dirty, and every writeback of it is durable
(R212, R217). -/
def settled (t : Table) (x : Nat × Nat × Nat × List Byte) : Bool :=
  !hDirty x.2.2.2 && !(t.wbs.any fun w => w.rows.contains x.1)

/-- One window of Drizzle's clock hand (R213): a clean evictable row goes, or a dirty one is written back. Reserve rows
go first (R216). -/
def drizzleEvict (s : State) (p : Part) (tid g : Nat) : State :=
  match getTbl s p tid with
  | none => s
  | some t =>
    if !belowHigh t g then s
    else
      let all := evictable s p t (residents s t g)
      let h := nth 0 t.hand g
      let windows := Nat.max 1 (ceilDiv (t.pl.pslots / 16) 64)
      let resv := all.filter fun x => decide (t.pl.pslots ≤ x.2.1)
      let win := all.filter fun x => decide (x.2.1 < t.pl.pslots ∧ x.2.1 / 16 / 64 = h % windows)
      let s := putTbl s p tid { t with hand := setNth t.hand g ((h + 1) % windows) }
      let cand := if resv.isEmpty then win else resv
      let urgent := belowLow t g || !resv.isEmpty
      match coldest (cand.filter (settled t)) with
      | some x => evictClean s p tid x.1
      | none =>
        match coldest (cand.filter fun x => hDirty x.2.2.2) with
        | some x =>
          if urgent || routineOk s then whenOpen s p (writebackSpans s p t x.1) fun s => writebackRow s p tid x.1 urgent else s
        | none => s

/-- Whether a slot can be had for a demand promotion, and the state that has it (R214): a free slot, a clean
evictable row's, a clean held row's, or a reserve slot; a dirty row's is waited for, and so is any slot while one of the
segment is not pinned. -/
inductive SlotGet where
  | got (s : State) (slot : Nat)
  | wait (s : State)
  | full

/-- A slot for a demand promotion in the order of R214. -/
def demandSlot (s : State) (p : Part) (tid g : Nat) : SlotGet :=
  match getTbl s p tid with
  | none => .full
  | some t =>
    match freePoolSlot t g with
    | some x => .got s x
    | none =>
      let all := (residents s t g).filter fun x => !t.pinned x.1
      let pool := all.filter fun x => decide (x.2.1 < t.pl.pslots)
      let clean := pool.filter (settled t)
      let mine (l : List Nat) : Bool := l.any fun r => t.desc.eng r == g
      match coldest (clean.filter fun x => !markHeld s p x.2.2.1) with
      | some x => .got (evictClean s p tid x.1) x.2.1
      | none =>
        match coldest clean with
        | some x => .got (tblCount (evictClean s p tid x.1) p tid 8 1) x.2.1
        | none =>
          if mine t.evicting then .wait s
          else match coldest pool with
          | some x => .wait (evictDirty s p tid x.1)
          | none =>
            match freeResSlot t g with
            | some x => .got s x
            | none => if all.isEmpty && !mine (t.promoting.map (·.1)) then .full else .wait s

/-- The check of a home record read for a promotion, and its write into the slot (R207, R210): the state, and whether
the record passed. -/
def promoteStore (s : State) (p : Part) (tid row : Nat) : State × Bool :=
  match getTbl s p tid with
  | none => (s, false)
  | some t =>
    match dirFind s t row with
    | none => (s, false)
    | some iv =>
      match recRead s t (homeAddr t (lidxOf s p) row) row with
      | none => (dirRemove (tblCount s p tid 7 1) p tid row, false)
      | some b =>
        let s := chargeWrite s p (slotAddr t (deSlot iv.2)) t.desc.size (blkRow (t.desc.eng row))
        let s := recWrite s (slotAddr t (deSlot iv.2)) (setDirty (setHeat b (hHeat b / 2)) false)
        let s := dirState s t row 1
        let s := modTbl s p tid fun t => { t with promoting := t.promoting.filter (·.1 != row) }
        (tblCount s p tid 9 1, true)

/-- The home read of a promotion in 4 KiB partial reads, then its check and store. -/
def promoteFinish (s : State) (p : Part) (tid row : Nat) : State × Bool :=
  match getTbl s p tid with
  | none => (s, false)
  | some t =>
    let e := t.desc.eng row
    promoteStore (chargeRead (countRec s p e) p (homeAddr t (lidxOf s p) row) t.desc.size (blkRow e)) p tid row

/-- Sets the Forecast mark of a row's entry. -/
def setMark (s : State) (t : Table) (r step : Nat) : State :=
  dirMod s t r fun v => setBits 60 57 (setBits 61 61 v 1) (step % 16)

/-- Drizzle is asked for a free pool slot: up to `n` windows of its clock hand (R210, R213). -/
def askDrizzle (s : State) (p : Part) (tid g : Nat) : Nat → State
  | 0 => s
  | n + 1 =>
    match getTbl s p tid with
    | none => s
    | some t => if (freePoolSlot t g).isSome then s else askDrizzle (drizzleEvict s p tid g) p tid g n

/-- A hint served by the row's engine (R210): the state, and whether the hint is served; one that finds no free slot
waits. -/
def serveHint (s : State) (p : Part) (h : Hint) : State × Bool :=
  match getTbl s p h.tid with
  | none => (s, true)
  | some t =>
    match dirFind s t h.row with
    | some iv =>
      if deState iv.2 = 3 then
        let s := setMark (dirState s t h.row 1) t h.row h.step
        (modTbl s p h.tid fun t => { t with evicting := t.evicting.filter (· != h.row) }, true)
      else (setMark s t h.row h.step, true)
    | none =>
      let g := t.desc.eng h.row
      match freePoolSlot t g with
      | some x => (promoteInto s p h.tid h.row x (some h.step), true)
      | none =>
        let s := askDrizzle s p h.tid g (Nat.max 1 (ceilDiv (t.pl.pslots / 16) 64))
        match getTbl s p h.tid with
        | none => (s, true)
        | some t =>
          match freePoolSlot t g with
          | some x => (promoteInto s p h.tid h.row x (some h.step), true)
          | none => (s, false)

/-- Whether one more promotion leaves a segment's free slots above the high watermark. -/
def warmRoom (t : Table) (g : Nat) : Bool := decide (t.pl.fhi * (t.pl.pslots / 16) < (freeSlots t g - 1) * 256)

/-- Whether the home record of a non-resident row is hot enough to be promoted; the heat in a unit that cannot be read is not
known. -/
def warmRow (s : State) (t : Table) (me r : Nat) : Bool :=
  (dirFind s t r).isNone && !badRange s (homeAddr t me r) 16
  && decide (t.pl.pthr ≤ hHeat (s.mem.read (homeAddr t me r) 16))

/-- Promotes one row of the warm walk, without a mark. -/
def warmOne (s : State) (p : Part) (tid g r : Nat) : State :=
  match getTbl s p tid with
  | none => s
  | some t =>
    if warmRow s t (lidxOf s p) r && warmRoom t g then
      match freePoolSlot t g with
      | some x => (promoteStore (promoteInto s p tid r x none) p tid r).1
      | none => s
    else s

/-- Drizzle's warm promotion of one home page's records of a segment (R215): the 4 KiB units that hold them are read, and
the records promoted while there is room. The walk goes on to the next page once no hot record of this one is left. -/
def warmPromote (s : State) (p : Part) (tid g : Nat) : State :=
  match getTbl s p tid with
  | none => s
  | some t =>
    let me := lidxOf s p
    let rows := engineRows t me g
    let k := nth 0 t.warm g
    let lps := sortBy id ((rows.map fun r => (homeAddr t me r - t3Base) / 16384).foldl
      (fun l x => if l.contains x then l else l ++ [x]) [])
    match lps[k]? with
    | none => putTbl s p tid { t with warm := setNth t.warm g 0 }
    | some lp =>
      if !warmRoom t g then s
      else
        let here := rows.filter fun r => (homeAddr t me r - t3Base) / 16384 == lp
        let units := (here.flatMap fun r => blocksOf (homeAddr t me r) t.desc.size).foldl
          (fun l x => if l.contains x then l else l ++ [x]) []
        let s := units.foldl (fun s u => chargeRead s p u 4096 (blkRow g)) s
        let s := here.foldl (fun s r => warmOne s p tid g r) s
        modTbl s p tid fun t =>
          if here.any (warmRow s t me) then t
          else { t with warm := setNth t.warm g ((k + 1) % Nat.max 1 lps.length) }

/-- Moves the reserve rows of every segment into free pool slots (R216). -/
def reserveMove (s : State) (p : Part) (tid : Nat) : State :=
  match getTbl s p tid with
  | none => s
  | some t =>
    (sortBy id t.usedRes).foldl (fun s j =>
      match getTbl s p tid with
      | none => s
      | some t =>
        let slot := t.pl.pslots + j
        match freePoolSlot t (j % 16) with
        | none => s
        | some x =>
          let b := s.mem.read (slotAddr t slot) t.desc.size
          let r := hRow b
          match dirFind s t r with
          | none => s
          | some iv =>
            if deSlot iv.2 = slot then
              let s := recWrite s (slotAddr t x) b
              let s := dirMod s t r fun v => setBits 31 0 v x
              putTbl s p tid { useSlot t x with usedRes := t.usedRes.filter (· != j) }
            else s) s

/-! ### Heat decay (R206) -/

/-- The slots of a segment in use, ascending. -/
def segSlots (t : Table) (g : Nat) : List Nat :=
  (sortBy id (t.usedPool ++ t.usedRes.map (· + t.pl.pslots))).filter fun x => slotSeg t x == g

/-- The sweeps of a segment that are due. -/
def Table.shifts (t : Table) (g : Nat) : List Nat :=
  match t.sweeps.find? (fun w => w.seg == g) with
  | some w => w.shifts
  | none => []

/-- Sweeps of a table come due at a seal. One that comes due while an earlier one has not run starts when that has ended and
shifts by 2, since the earlier one has reached no record. -/
def startSweeps (t : Table) : Table :=
  { t with sweeps := (List.range 16).map fun g =>
      { seg := g, shifts := t.shifts g ++ [if (t.shifts g).isEmpty then 1 else 2] } }

/-- One slot of a sweep: the heat of its resident record shifted, its entry's mark cleared where it is not held. -/
def sweepSlot (s : State) (p : Part) (t : Table) (slot sh : Nat) : State :=
  let a := slotAddr t slot
  let blk := blkRow (slotSeg t slot)
  let s := chargeRead s p a 16 blk
  let b := s.mem.read a 16
  let r := match t.promoting.find? (fun x => x.2 == slot) with
    | some x => x.1
    | none => hRow b
  match dirFind s t r with
  | none => s
  | some iv =>
    if deSlot iv.2 = slot then
      let s := if deState iv.2 = 2 then s else wrNow (chargeWrite s p a 16 blk) a (setHeat b (hHeat b / 2 ^ sh))
      if markHeld s p iv.2 then s else dirMod s t r fun v => setBits 61 61 v 0
    else s

/-- Runs the oldest due sweep of a segment to its end over the slots then in use. -/
def runSweep (s : State) (p : Part) (tid g : Nat) : State :=
  match getTbl s p tid with
  | none => s
  | some t =>
    match t.shifts g with
    | [] => s
    | sh :: rest =>
      modTbl ((segSlots t g).foldl (fun s x => sweepSlot s p t x sh) s) p tid fun t =>
        { t with sweeps := t.sweeps.map fun v => if v.seg == g then { v with shifts := rest } else v }

/-! ### Merges of range generations (R221) -/

/-- Merges the staged rows of the lowest home page still to merge, behind the table's earlier writebacks; the staged area
is trimmed when none is left. -/
def mergeRange (s : State) (p : Part) (tid : Nat) : State :=
  match getTbl s p tid with
  | none => s
  | some t =>
    match t.merge, t.wbs with
    | none, _ => s
    | some _, _ :: _ => s
    | some m, [] =>
      let me := lidxOf s p
      let home (r : Nat) : Nat := t.desc.lbase + rowOff t me r
      let page (r : Nat) : Nat := (home r - t3Base) / 16384
      match (sortBy page m.rows).head? with
      | none => s
      | some r0 =>
        let now := m.rows.filter fun r => page r == page r0
        let left := m.rows.filter fun r => page r != page r0
        let s := now.foldl (fun s r =>
          let s := chargeRead (countRec s p (t.desc.eng r)) p (m.area + (r - m.a) * t.desc.size) t.desc.size (blkRow (t.desc.eng r))
          { s with mem := s.mem.write (home r) (s.mem.read (m.area + (r - m.a) * t.desc.size) t.desc.size) }) s
        let pages := now.flatMap fun r =>
          let e := (home r + t.desc.size - 1 - t3Base) / 16384
          if e = page r then [page r] else [page r, e]
        let pages := pages.foldl (fun l x => if l.contains x then l else l ++ [x]) []
        let s := winAdd (charge s p 3 (16384 * pages.length) (blkRow 0)) 57 (16384 * pages.length)
        let s := programPages s none pages
        let s := putTbl s p tid { t with merge := if left.isEmpty then none else some { m with rows := left } }
        if left.isEmpty then trimRange s m.area ((m.b - m.a) * t.desc.size) else s

/-! ### Regulators and thermal limits (R232 to R235) -/

/-- One refill of every bucket of every partition (R232). -/
def refillAll (s : State) : State :=
  (List.range 16).foldl (fun s k =>
    let p : Part := BitVec.ofNat 2 (k / 4)
    let b := k % 4
    let v := tabGet 0 s.bucket k + rateOf s p b * refillUnit b
    { s with bucket := tabSet s.bucket k (Nat.min v (bucketDepth s p b)) }) s

/-- The counter block of the controller of a stack (R478). -/
def stackBlk (i : Nat) : Nat := if i < 8 then 58 + i / 4 else if i < 20 then 60 + (i - 8) / 6 else 62 + (i - 20) / 4

/-- Stores a stack after a report. Where its cap is 0 % no more, the time that accesses have waited for it is counted at its
controller (R234, R235, R483). -/
def capStack (s : State) (i : Nat) (k : Stack) : State :=
  match k.waitFrom with
  | some t0 =>
    if k.cap = 0 then putStack s i k
    else count (putStack s i { k with waitFrom := none }) (stackBlk i) 1 6 ((s.tim.now - t0) * 6 / 5) {}
  | none => putStack s i k

/-- The zone of a DRAM stack after a report (R234). -/
def dramZone (k : Stack) (t : Int) : Zone :=
  if 105 ≤ t then .crit
  else if k.zone = .crit ∧ 100 ≤ t then .crit
  else if 95 ≤ t then .hot
  else if k.zone = .hot ∧ 93 ≤ t then .hot
  else if 85 ≤ t then .warm
  else if k.zone ≠ .normal ∧ (k.cap < 8 ∨ 83 ≤ t) then .warm
  else .normal

/-- The cap, in eighths, after a report: lowered on entry into warm, limited in hot, 0 in critical, 1 on leaving
critical. -/
def dramCap (k : Stack) (z : Zone) : Nat :=
  match z with
  | .crit => 0
  | .hot => if k.zone = .crit then 1 else Nat.min 4 (if k.zone = .normal then k.cap - 1 else k.cap)
  | .warm => if k.zone = .crit then 1 else if k.zone = .normal then Nat.max 1 (k.cap - 1) else k.cap
  | .normal => if k.zone = .crit then 1 else k.cap

/-- A DRAM stack's report (R234). -/
def dramReport (s : State) (i : Nat) (t : Int) : State :=
  let k := getStack s i
  let z := dramZone k t
  let s := capStack s i { k with temp := t, zone := z, cap := dramCap k z, refresh2 := decide (z = .hot ∨ z = .crit) }
  if z = k.zone then s
  else
    match z with
    | .warm => if k.zone = .normal then raiseM s evMemWarm [i] else s
    | .hot => if k.zone = .crit then s else raiseM s evMemHot [i]
    | .crit => raiseM s evMemCrit [i]
    | .normal => s

/-- The cap tick of every DRAM stack each millisecond (R234). -/
def dramTick (k : Stack) : Stack :=
  match k.zone with
  | .crit => k
  | .normal => { k with cap := Nat.min 8 (k.cap + 1) }
  | z =>
    let top := if z = .hot then 4 else 8
    let cap := if 83 ≤ k.temp then Nat.max 1 (k.cap - 1) else Nat.min top (k.cap + 1)
    { k with cap := cap, zone := if z = .warm ∧ cap = 8 then .normal else z }

/-- A flash stack's report: half rate from 85 °C, none from 95 °C (R235); the cap is in eighths of the rate. -/
def flashReport (s : State) (i : Nat) (t : Int) : State :=
  let k := getStack s i
  let z : Zone :=
    if 95 ≤ t then .hot
    else if k.zone = .hot ∧ 93 ≤ t then .hot
    else if 85 ≤ t then .warm
    else if (k.zone = .warm ∨ k.zone = .hot) ∧ 83 ≤ t then .warm
    else .normal
  capStack s i { k with temp := t, zone := z, cap := match z with | .hot => 0 | .warm => 4 | _ => 8 }

end Sys2Proof.Machine
end

