-- ==== Sys2Proof/Machine/Vector.lean ====
section
/-! DEFINITION. The vector engine: what each vector instruction does to the tile, mask and shift-lane registers and
to the scratchpad. Every instruction computes from the registers as they stood before it (R99). -/

namespace Sys2Proof.Machine

/-- A value with the counts that its roundings have added. -/
abbrev Cnum := Num × Counts

/-- One ties-away rounding into Opal32, an overflow counted (R26). -/
def r32 (x : Num) : Cnum := let o := toOpalR .away x.toRes; (ofOpal o.1, o.2)

/-! ### Writing a destination tile (R92, R93, R117) -/

/-- One destination element: its raw bits, its counts, and whether it is a non-finite result. -/
structure Elem where
  raw : Nat
  c : Counts := {}
  nf : Bool := false
  deriving DecidableEq, Repr

/-- A moved element: bits without decoding. -/
def moved (v : Nat) : Elem := { raw := v }

/-- An exact result rounded into the destination format (R101, R117). -/
def rounded (s : State) (p : Part) (w : VWord) (i j : Nat) (x : Res) : Elem :=
  let fmt := w.df.toNat
  let o := toRaw fmt (tileRnd s p w fmt i j) x
  { raw := o.1, c := o.2, nf := rawNonfinite fmt o.1 }

/-- A result that earlier roundings have formed, rounded into the destination format. -/
def roundedC (s : State) (p : Part) (w : VWord) (i j : Nat) (x : Cnum) : Elem :=
  let e := rounded s p w i j x.1.toRes
  { e with c := x.2.add e.c }

/-- What element (i, j) of the destination becomes: the result where it is active, +0 or its old bits where it is
masked off (R93). -/
def tileElem (s : State) (w : VWord) (fmt : Nat) (f : Nat → Nat → Elem) (i j : Nat) : Elem :=
  if active s w fmt i j then f i j
  else if w.zm then moved 0
  else moved (tileRaw s w.td.toNat fmt i j)

/-- One row of a destination tile: its columns from `lo` on, `n` of them. -/
def tileRow (s : State) (w : VWord) (fmt lo n : Nat) (f : Nat → Nat → Elem) (i : Nat) : List Elem :=
  (List.range n).map fun k => tileElem s w fmt f i (lo + k)

/-- Writes the columns `lo` to `lo + n - 1` of every row of TD, with the counts and the report. -/
def tileWrite (s : State) (p : Part) (w : VWord) (fmt lo n : Nat) (f : Nat → Nat → Elem) : State :=
  let rows := (List.range 32).map fun i => (i, tileRow s w fmt lo n f i)
  let t := rows.foldl (fun (m : Memory) r =>
    m.write (2048 * w.td.toNat + 64 * r.1 + lo * fmtWidth fmt) (r.2.flatMap fun e => bytesOf (fmtWidth fmt) e.raw))
    s.vec.tile
  let es := rows.flatMap (·.2)
  let s := { s with vec := { s.vec with tile := t } }
  vecReport s p w.grad (es.any (·.nf)) (es.foldl (fun c e => c.add e.c) {})

/-- Writes the whole of TD in a shape. -/
def tileFull (s : State) (p : Part) (w : VWord) (fmt : Nat) (f : Nat → Nat → Elem) : State :=
  tileWrite s p w fmt 0 (shapeCols fmt) f

/-! ### Loads and stores (R94) -/

/-- Columns of a tile inside the extent of an entry. -/
def extCols (e : TEntry) (w : VWord) : Nat :=
  Nat.min (shapeCols e.fmt) (e.cols - shapeCols e.fmt * w.col.toNat)

/-- Whether row `i` of the tile lies inside the extent. -/
def rowIn (e : TEntry) (w : VWord) (i : Nat) : Bool := decide (32 * w.row.toNat + i < e.rows)

/-- The tile's part of an entry is accessed. -/
def touchTile (s : State) (e : TEntry) (w : VWord) (write : Bool) : State :=
  touchBlock s e (32 * w.row.toNat) 32 (shapeCols e.fmt * w.col.toNat) (shapeCols e.fmt) write

/-- One loaded row: the entry's elements, then +0. -/
def vldRow (s : State) (e : TEntry) (w : VWord) (i : Nat) : List Byte :=
  let n := if rowIn e w i then extCols e w else 0
  (List.range (shapeCols e.fmt)).flatMap fun j =>
    bytesOf (fmtWidth e.fmt)
      (if active s w e.fmt i j then
        (if j < n then rawSafe s e (32 * w.row.toNat + i) (shapeCols e.fmt * w.col.toNat + j) else 0)
      else if w.zm then 0 else tileRaw s w.td.toNat e.fmt i j)

/-- The mask row that LDM writes; bits that stand for no element of the shape are those of `v`. -/
def ldmRow (e : TEntry) (w : VWord) (v i : Nat) : Nat :=
  let n := if rowIn e w i then extCols e w else 0
  let k := if shapeCols e.fmt = 64 then (n + 1) / 2 else n
  if shapeCols e.fmt = 16 then v / 2 ^ (32 * i + 16) % 65536 * 65536 + (2 ^ k - 1) else 2 ^ k - 1

/-- The shift lane that a load from a Facet8 entry writes; a row outside the extent has no shift and takes a free
value. -/
def vldLane (s : State) (e : TEntry) (w : VWord) : State :=
  (List.range 32).foldl (fun st i =>
    if rowIn e w i then laneSet st w.td.toNat i (shiftAt s e (32 * w.row.toNat + i) (64 * w.col.toNat))
    else
      let f := takeFree st
      laneSet f.2 w.td.toNat i (Config.freeNat f.1)) s

/-- VLD. -/
def vldRun (s : State) (p : Part) (w : VWord) : State :=
  let e := tens s p w.ent.toNat
  let s0 := touchTile s e w false
  let t := (List.range 32).foldl (fun (m : Memory) i => m.write (2048 * w.td.toNat + 64 * i) (vldRow s0 e w i))
    s0.vec.tile
  let s := { s0 with vec := { s0.vec with tile := t } }
  let s := if e.fmt = 3 then vldLane s e w else s
  if w.acc then
    let o := if e.fmt = 1 then takeFree s else (0, s)
    (List.range 32).foldl (fun s i => maskRow s w.msk.toNat i (ldmRow e w (Config.freeNat o.1) i)) o.2
  else s

/-- One stored row: runs of unmasked elements, written in one piece where nothing is masked off. -/
def vstRow (s : State) (e : TEntry) (w : VWord) (i : Nat) : State :=
  let n := extCols e w
  let r := 32 * w.row.toNat + i
  let c := shapeCols e.fmt * w.col.toNat
  let bs (j : Nat) : List Byte := bytesOf (fmtWidth e.fmt) (tileRaw s w.ta.toNat e.fmt i j)
  let s' :=
    if w.men then
      (List.range n).foldl (fun st j => if maskFor s w.msk.toNat e.fmt i j then wr st (e.addr r (c + j)) (bs j) else st) s
    else wr s (e.addr r c) ((List.range n).flatMap bs)
  if e.fmt = 3 then wr s' (e.shiftAddr r c) [BitVec.ofInt 8 (laneAt s w.ta.toNat i)] else s'

/-- The scratchpad ranges that a VLD reads or a VST may write: its rows in the extent, and their shift bytes. -/
def tileSpans (s : State) (p : Part) (w : VWord) : List (Nat × Nat) :=
  let e := tens s p w.ent.toNat
  let c := shapeCols e.fmt * w.col.toNat
  ((List.range 32).filter fun i => rowIn e w i && decide (0 < extCols e w)).flatMap fun i =>
    let r := 32 * w.row.toNat + i
    (e.addr r c, extCols e w * fmtWidth e.fmt) :: (if e.fmt = 3 then [(e.shiftAddr r c, 1)] else [])

/-- VST. -/
def vstRun (s : State) (p : Part) (w : VWord) : State :=
  let e := tens s p w.ent.toNat
  (List.range 32).foldl (fun s i => if rowIn e w i && decide (0 < extCols e w) then vstRow s e w i else s)
    (touchTile s e w true)

/-! ### Moves, selections and masks (R97) -/

/-- VMOV: the bits of TA with its shift lane. -/
def vmovRun (s : State) (p : Part) (w : VWord) : State :=
  let lane := (List.range 32).map fun i => s.vec.lane.get (32 * w.ta.toNat + i)
  let s' := tileFull s p w w.df.toNat fun i j => moved (tileRaw s w.ta.toNat w.df.toNat i j)
  { s' with vec := { s'.vec with lane := s'.vec.lane.write (32 * w.td.toNat) lane } }

/-- VBC: the broadcast operand, or the Pearl16 constant IMM for BC = 0. -/
def vbcRun (s : State) (p : Part) (w : VWord) : State :=
  tileFull s p w w.df.toNat fun i j =>
    rounded s p w i j (if w.bc = 0 then (ofPearl w.imm).toRes else (tbNum s w (colOff w) i j).toRes)

/-- VTR: a Pearl16 tile transposed, bits unchanged. -/
def vtrRun (s : State) (p : Part) (w : VWord) : State :=
  tileFull s p w 0 fun i j => moved (tileRaw s w.ta.toNat 0 j i)

/-- VGTH: an index at or above the shape's columns gives +0. -/
def vgthRun (s : State) (p : Part) (w : VWord) : State :=
  let f := w.df.toNat
  tileFull s p w f fun i j =>
    let k := tileRaw s w.tb.toNat f i j
    moved (if k < shapeCols f then tileRaw s w.ta.toNat f i k else 0)

/-- VSEL. -/
def vselRun (s : State) (p : Part) (w : VWord) : State :=
  let f := w.df.toNat
  tileFull s p w f fun i j =>
    moved (tileRaw s (if maskFor s w.msk.toNat f i j then w.ta.toNat else w.tb.toNat) f i j)

/-- The bits of mask rows that stand for no element of an Opal32 tile, after an instruction that writes the mask:
the spec gives them no value (R92), so they are a free value. -/
def maskSpare (v i j : Nat) : Bool := bit (32 * i + j) v

/-- Writes each row of MK[TD], each bit governed as R93 says; bits from `n` on stand for no element. -/
def maskWrite (s0 : State) (w : VWord) (n : Nat) (f : Nat → Nat → Bool) : State :=
  let k := w.td.toNat % 8
  let o := if n < 32 then takeFree s0 else (0, s0)
  (List.range 32).foldl (fun st i =>
    let v := (List.range 32).foldl (fun acc j =>
      let b :=
        if !w.men || maskBit s0 w.msk.toNat i j then (if n ≤ j then maskSpare (Config.freeNat o.1) i j else f i j)
        else if w.zm then false else maskBit s0 k i j
      acc + b2n b * 2 ^ j) 0
    maskRow st k i v) o.2

/-- VMSK. -/
def vmskRun (s : State) (w : VWord) : State :=
  maskWrite s w 32 fun i j => decide (i < bits 5 0 w.imm.toNat) && decide (j < bits 11 6 w.imm.toNat)

/-- A comparison by its code; NaN is unordered (R101). -/
def cmpNum (op : Nat) (a b : Num) : Bool :=
  let un := a.isNan || b.isNan
  match op with
  | 0 => a.eqv b
  | 1 => un || !a.eqv b
  | 2 => !un && a.lt b
  | 3 => !un && !b.lt a
  | 4 => !un && b.lt a
  | 5 => !un && !a.lt b
  | 6 => un
  | _ => false

/-- VMCMP. For comparison code 7, which R97 does not list, each bit is a free value. -/
def vmcmpRun (s : State) (w : VWord) : State :=
  let f := w.sf.toNat
  let op := bits 2 0 w.imm.toNat
  let o := if op = 7 then takeFree s else (0, s)
  maskWrite o.2 w (Nat.min 32 (shapeCols f)) fun i j =>
    if op = 7 then maskSpare (Config.freeNat o.1) i j
    else cmpNum op (tileNum s w.ta.toNat f i j) (tbNum s w 0 i j)

/-- VMLOG. -/
def vmlogRun (s : State) (w : VWord) : State :=
  maskWrite s w 32 fun i j =>
    let a := maskBit s (w.ta.toNat % 8) i j
    let b := maskBit s (w.tb.toNat % 8) i j
    match bits 1 0 w.imm.toNat with
    | 0 => a && b
    | 1 => a || b
    | 2 => a != b
    | _ => a && !b

/-! ### Elementwise arithmetic (R101, R102) -/

/-- The element of TA that feeds destination element (i, j). -/
def taNum (s : State) (w : VWord) (i j : Nat) : Num := tileNum s w.ta.toNat w.sf.toNat i (j + colOff w)

/-- The element of TC that feeds destination element (i, j). -/
def tcNum (s : State) (w : VWord) (i j : Nat) : Num := tileNum s w.tc.toNat w.sf.toNat i (j + colOff w)

/-- An elementwise instruction: the exact result of `f` rounded once. -/
def elementwise (s : State) (p : Part) (w : VWord) (f : Num → Num → Num → Res) : State :=
  tileFull s p w w.df.toNat fun i j =>
    rounded s p w i j (f (taNum s w i j) (tbNum s w (colOff w) i j) (tcNum s w i j))

/-- The loss-scale exponent of the running step. -/
def lsOf (s : State) (p : Part) : Int := match getJob s p with | none => 0 | some j => j.ls

/-- The shift of a VSCL: the immediate, or the loss-scale exponent with its sign (R268). -/
def vsclShift (s : State) (p : Part) (w : VWord) : Int :=
  let v := w.imm.toNat
  if bit 15 v then (if bit 14 v then -lsOf s p else lsOf s p) else sgn 8 v

/-! ### Polynomial functions (R103 to R105) -/

/-- The Opal32 at byte `o` of a slot of the polynomial table. -/
def polyOpal (s : State) (slot o : Nat) : Num := ofOpal (BitVec.ofNat 32 (s.vec.poly.readNat (1040 * slot + o) 4))

/-- A coefficient of a segment. -/
def polyCoef (s : State) (slot seg c : Nat) : Num := polyOpal s slot (16 + 16 * seg + 4 * c)

/-- The segment polynomial at `u`, exact in its last step (R104 step 5). -/
def polySeg (s : State) (slot seg : Nat) (u : Num) : Cnum :=
  let h1 := r32 (((polyCoef s slot seg 3).mul u).add (polyCoef s slot seg 2))
  let h2 := r32 ((h1.1.mul u).add (polyCoef s slot seg 1))
  ((h2.1.mul u).add (polyCoef s slot seg 0), h1.2.add h2.2)

/-- A tail rule of a slot: extend, constant, identity, zero. -/
def polyTail (s : State) (slot rule seg constAt : Nat) (x u : Num) : Cnum :=
  match rule with
  | 0 => polySeg s slot seg u
  | 1 => (polyOpal s slot constAt, {})
  | 2 => (x, {})
  | _ => (.zero, {})

/-- `floor(x * 2^-k)` of a finite value. -/
def floorShift (x : Num) (k : Int) : Int :=
  match x with
  | .fin m e => if k ≤ e then m * 2 ^ (e - k).toNat else m / ((2 ^ (k - e).toNat : Nat) : Int)
  | _ => 0

/-- A slot at an argument, before its last rounding (R104). -/
def polyEval (s : State) (slot : Nat) (x : Num) : Cnum :=
  let lo := polyOpal s slot 0
  let sw := s8 (s.vec.poly.get (1040 * slot + 4))
  let blw := (s.vec.poly.get (1040 * slot + 5)).toNat
  let abv := (s.vec.poly.get (1040 * slot + 6)).toNat
  let d := x.sub lo
  let off (k : Nat) : Cnum := r32 (x.sub (lo.add (.fin (k : Int) sw)))
  let below : Cnum := let u := off 0; let r := polyTail s slot blw 0 8 x u.1; (r.1, if blw = 0 then u.2.add r.2 else r.2)
  let above : Cnum := let u := off 63; let r := polyTail s slot abv 63 12 x u.1; (r.1, if abv = 0 then u.2.add r.2 else r.2)
  match d with
  | .nan => (.nan, {})
  | .inf n => if n then below else above
  | .fin _ _ =>
    let k := floorShift d sw
    if k < 0 then below
    else if 63 < k then above
    else
      let u := off k.toNat
      let r := polySeg s slot k.toNat u.1
      (r.1, u.2.add r.2)

/-- A slot at an argument, its last step rounded into Opal32. -/
def polyOp (s : State) (slot : Nat) (x : Num) : Cnum :=
  let a := polyEval s slot x
  let b := r32 a.1
  (b.1, a.2.add b.2)

/-- `2^x` before the rounding into DF (R105). -/
def exp2Num (s : State) (x : Num) : Cnum :=
  match x with
  | .nan => (.nan, {})
  | .inf n => (if n then .zero else .inf false, {})
  | .fin m e =>
    if !(Num.fin m e).lt (.fin 128 0) then (.inf false, {})
    else if (Num.fin m e).lt (.fin (-150) 0) then (.zero, {})
    else
      let n := floorShift (.fin m e) 0
      let r := polyOp s 14 ((Num.fin m e).sub (.fin n 0))
      (r.1.scale n, r.2)

/-- `log2 x` before the rounding into DF (R105). -/
def log2Num (s : State) (x : Num) : Cnum :=
  match x with
  | .nan => (.nan, {})
  | .inf n => (if n then .nan else .inf false, {})
  | .fin m e =>
    if m = 0 then (.inf true, {})
    else if m < 0 then (.nan, {})
    else
      let n := numLog2' m e
      let r := polyOp s 15 (.fin m (e - n))
      (r.1.add (.fin n 0), r.2)
where
  /-- The exponent of a positive value. -/
  numLog2' (m e : Int) : Int := (Nat.log2 m.natAbs : Int) + e

/-- `1 / sqrt x` before the rounding into DF (R105). -/
def rsqNum (s : State) (x : Num) : Cnum :=
  match x with
  | .nan => (.nan, {})
  | .inf n => (if n then .nan else .zero, {})
  | .fin m e =>
    if m = 0 then (.inf false, {})
    else if m < 0 then (.nan, {})
    else
      let n := ((Nat.log2 m.natAbs : Int) + e) / 2
      let r := polyOp s 13 (.fin m (e - 2 * n))
      (r.1.scale (-n), r.2)

/-- An instruction of one source through a function of the polynomial table. -/
def polyRun (s : State) (p : Part) (w : VWord) (f : Num → Cnum) : State :=
  tileFull s p w w.df.toNat fun i j => roundedC s p w i j (f (taNum s w i j))

/-- VACT. -/
def vactRun (s : State) (p : Part) (w : VWord) : State := polyRun s p w (polyEval s (bits 3 0 w.imm.toNat))

/-- VACTD: the slot at TA, rounded into Opal32, times TB. -/
def vactdRun (s : State) (p : Part) (w : VWord) : State :=
  tileFull s p w w.df.toNat fun i j =>
    let d := polyOp s (bits 7 4 w.imm.toNat) (taNum s w i j)
    roundedC s p w i j (d.1.mul (tbNum s w (colOff w) i j), d.2)

/-! ### Normalisation and softmax (R108, R109) -/

/-- An element of an Opal32 tile. -/
def opalAt (s : State) (t i j : Nat) : Num := tileNum s t 1 i j

/-- The normalised value of VNRM and VNRMB. -/
def xhat (s : State) (w : VWord) (i j : Nat) : Cnum :=
  let t := r32 ((taNum s w i j).sub (opalAt s w.tb.toNat i w.ci.toNat))
  let x := r32 (t.1.mul (opalAt s w.tb.toNat i (w.ci.toNat + 1)))
  (x.1, t.2.add x.2)

/-- VNRM: row 2k of TC holds gamma and row 2k + 1 beta of destination columns 16k to 16k + 15. -/
def vnrmRun (s : State) (p : Part) (w : VWord) : State :=
  tileFull s p w w.df.toNat fun i j =>
    let x := xhat s w i j
    let g := opalAt s w.tc.toNat (2 * (j / 16)) (j % 16)
    let b := opalAt s w.tc.toNat (2 * (j / 16) + 1) (j % 16)
    roundedC s p w i j ((x.1.mul g).add b, x.2)

/-- VNRMB. -/
def vnrmbRun (s : State) (p : Part) (w : VWord) : State :=
  tileFull s p w w.df.toNat fun i j =>
    let x := xhat s w i j
    let st (k : Nat) : Num := opalAt s w.tb.toNat i (w.ci.toNat + k)
    let u := r32 ((tcNum s w i j).sub (st 2))
    let v := r32 (x.1.mul (st 3))
    let d := r32 (u.1.sub v.1)
    roundedC s p w i j ((st 1).mul d.1, ((x.2.add u.2).add v.2).add d.2)

/-- VSMX. -/
def vsmxRun (s : State) (p : Part) (w : VWord) : State :=
  tileFull s p w w.df.toNat fun i j =>
    let a := r32 ((taNum s w i j).sub (opalAt s w.tb.toNat i w.ci.toNat))
    let b := r32 (a.1.mul (ofOpal 0x3FB8AA3B))
    let r := exp2Num s b.1
    roundedC s p w i j (r.1, (a.2.add b.2).add r.2)

/-- VSMXB. -/
def vsmxbRun (s : State) (p : Part) (w : VWord) : State :=
  tileFull s p w w.df.toNat fun i j =>
    let d := r32 ((tcNum s w i j).sub (opalAt s w.tb.toNat i w.ci.toNat))
    roundedC s p w i j ((taNum s w i j).mul d.1, d.2)

/-! ### Reductions (R106, R107) -/

/-- One level of the reduction tree: neighbours combined; an absent value gives way to the other. -/
def pairUp (f : Num → Num → Cnum) : List (Option Num) → List (Option Num) × Counts
  | a :: b :: t =>
    let r := pairUp f t
    match a, b with
    | some x, some y => let c := f x y; (some c.1 :: r.1, c.2.add r.2)
    | some x, none => (some x :: r.1, r.2)
    | none, y => (y :: r.1, r.2)
  | l => (l, {})

/-- The reduction tree over `2^n` values: `n` levels. -/
def treeLevels (f : Num → Num → Cnum) : Nat → List (Option Num) → Option Num × Counts
  | 0, l => (l.head?.getD none, {})
  | n + 1, l =>
    let a := pairUp f l
    let r := treeLevels f n a.1
    (r.1, a.2.add r.2)

/-- The combine step of a reduction. -/
def combineOf (op : VOp) (a b : Num) : Cnum :=
  match op with
  | .rmax => (a.max b, {})
  | .rmin => (a.min b, {})
  | _ => r32 (a.add b)

/-- What a reduction of no value gives. -/
def absentOf (op : VOp) : Num :=
  match op with
  | .rmax => .inf true
  | .rmin => .inf false
  | _ => .zero

/-- One reduced line into element (k, CI) of an Opal32 tile. -/
def redInto (s : State) (t ci : Nat) (op : VOp) (acc : Bool) (k : Nat) (vs : List (Option Num)) : State × Counts × Bool :=
  let r := treeLevels (combineOf op) (Nat.log2 vs.length) vs
  let v := r.1.getD (absentOf op)
  let v := if acc then combineOf op (opalAt s t k ci) v else (v, {})
  let o := toOpalR .away v.1.toRes
  (tileSet s t 1 k ci o.1.toNat, ((r.2.add v.2).add o.2), rawNonfinite 1 o.1.toNat)

/-- One input of a reduction: absent where masked off, a square or product rounded into Opal32 first. -/
def redInput (s : State) (w : VWord) (op : VOp) (i j : Nat) : Option Num × Counts :=
  let f := w.sf.toNat
  if active s w f i j then
    let a := tileNum s w.ta.toNat f i j
    match op with
    | .rssq => let v := r32 (a.mul a); (some v.1, v.2)
    | .rdot => let v := r32 (a.mul (tileNum s w.tb.toNat f i j)); (some v.1, v.2)
    | _ => (some a, {})
  else (none, {})

/-- RSUM, RMAX, RMIN, RSSQ, RDOT. -/
def redRun (s0 : State) (p : Part) (w : VWord) (op : VOp) : State :=
  let n := shapeCols w.sf.toNat
  let lines := if w.rax then n else 32
  let len := if w.rax then 32 else n
  let line (k : Nat) : List (Option Num × Counts) :=
    (List.range len).map fun x => if w.rax then redInput s0 w op x k else redInput s0 w op k x
  let o := (List.range lines).foldl (fun (acc : State × Counts × Bool) k =>
    let vs := line k
    let r := redInto acc.1 w.td.toNat w.ci.toNat op w.acc k (vs.map (·.1))
    (r.1, (vs.foldl (fun c v => c.add v.2) acc.2.1).add r.2.1, acc.2.2 || r.2.2)) (s0, {}, false)
  vecReport o.1 p w.grad o.2.2 o.2.1

/-! ### Losses (R110) -/

/-- The row sums of a loss, reduced as RSUM with RAX = 0 into column CI of the Opal32 tile TC, and reported as any other
destination element is (R117). -/
def lossSums (s0 s : State) (p : Part) (w : VWord) (loss : Nat → Nat → Cnum) : State :=
  let f := w.df.toNat
  let o := (List.range 32).foldl (fun (acc : State × Counts × Bool) i =>
    let vs := (List.range (shapeCols f)).map fun j =>
      if active s0 w f i j then let l := loss i j; (some l.1, l.2) else (none, {})
    let r := redInto acc.1 w.tc.toNat w.ci.toNat .rsum w.acc i (vs.map (·.1))
    (r.1, (vs.foldl (fun c v => c.add v.2) acc.2.1).add r.2.1, acc.2.2 || r.2.2)) (s, {}, false)
  vecReport o.1 p w.grad o.2.2 o.2.1

/-- VBCE. -/
def vbceRun (s : State) (p : Part) (w : VWord) : State :=
  let z (i j : Nat) : Num := taNum s w i j
  let y (i j : Nat) : Num := tbNum s w (colOff w) i j
  let s' := tileFull s p w w.df.toNat fun i j =>
    let g := polyOp s 11 (z i j)
    roundedC s p w i j (g.1.sub (y i j), g.2)
  lossSums s s' p w fun i j =>
    let a := r32 (((z i j).max .zero).sub ((z i j).mul (y i j)))
    let sp := polyOp s 12 (z i j).abs
    let l := r32 (a.1.add sp.1)
    (l.1, (a.2.add sp.2).add l.2)

/-- VMSE. -/
def vmseRun (s : State) (p : Part) (w : VWord) : State :=
  let d (i j : Nat) : Num := (taNum s w i j).sub (tbNum s w (colOff w) i j)
  let s' := tileFull s p w w.df.toNat fun i j => rounded s p w i j (d i j).toRes
  lossSums s s' p w fun i j => r32 ((d i j).mul (d i j))

/-! ### Conversions (R111 to R113) -/

/-- The destination columns of a conversion `(first, count)`, and where column `j` of them comes from
`(register, column)`, by source and destination format. -/
def cvtShape (w : VWord) (sf df : Nat) : (Nat × Nat) × (Nat → Nat × Nat) :=
  let o1 := 32 * (w.ci.toNat % 2)
  let o2 := 16 * (w.ci.toNat % 4)
  let ta := w.ta.toNat
  match sf, df with
  | 1, 0 => ((0, 32), fun j => (if j < 16 then ta else w.tb.toNat, j % 16))
  | 0, 1 => ((0, 16), fun j => (ta, 16 * (w.ci.toNat % 2) + j))
  | 0, 2 => ((o1, 32), fun j => (ta, j - o1))
  | 1, 2 => ((o2, 16), fun j => (ta, j - o2))
  | _, 0 => ((0, 32), fun j => (ta, o1 + j))
  | _, 1 => ((0, 16), fun j => (ta, o2 + j))
  | _, _ => ((0, shapeCols df), fun j => (ta, j))

/-- A conversion with `sf` as the shape whose rows of the table apply. -/
def convRun (s : State) (p : Part) (w : VWord) (shape : Nat) : State :=
  let c := cvtShape w shape w.df.toNat
  tileWrite s p w w.df.toNat c.1.1 c.1.2 fun i j =>
    let src := c.2 j
    rounded s p w i j (ofRaw w.sf.toNat (laneAt s w.ta.toNat i) (tileRaw s src.1 w.sf.toNat i src.2)).toRes

/-- VCVT. -/
def vcvtRun (s : State) (p : Part) (w : VWord) : State := convRun s p w w.sf.toNat

/-- VDQ: the column selection of the Bead8 rows. -/
def vdqRun (s : State) (p : Part) (w : VWord) : State := convRun s p w 2

/-- The source element of column `j` of a VQNT. -/
def vqntSrc (s : State) (w : VWord) (i j : Nat) : Num :=
  if w.sf = 0 then tileNum s (if j < 32 then w.ta.toNat else w.tb.toNat) 0 i (j % 32)
  else
    let t := nth 0 [w.ta.toNat, w.tb.toNat, w.tc.toNat, w.ci.toNat] (j / 16)
    tileNum s t 1 i (j % 16)

/-- Whether element (i, j) of a VQNT lies inside the extent and is active. -/
def vqntIn (s : State) (p : Part) (w : VWord) (i j : Nat) : Bool :=
  let e := tens s p w.ent.toNat
  active s w 3 i j
  && (decide (w.ent = 0x7FFFF) || (rowIn e w i && decide (64 * w.col.toNat + j < e.cols)))

/-- One row of a VQNT: its shift, its codes and counts; padding takes code 0x00 (R112). -/
def vqntRow (s : State) (p : Part) (w : VWord) (i : Nat) : Int × List Byte × Counts :=
  let js := (List.range 64).filter fun j => vqntIn s p w i j
  let ins := js.map fun j => (vqntSrc s w i j, tileRnd s p w 3 i j)
  let g := laneAt s w.td.toNat i
  let o : Int × List Byte × Counts :=
    if w.acc then let r := facetGiven g ins; (g, r.1, r.2) else facetChosen ins
  let row := (js.zip o.2.1).foldl (fun l jc => setNth l jc.1 jc.2) (List.replicate 64 0)
  (o.1, row, o.2.2)

/-- VQNT. -/
def vqntRun (s : State) (p : Part) (w : VWord) : State :=
  let rows := (List.range 32).map fun i => (i, vqntRow s p w i)
  let t := rows.foldl (fun (m : Memory) r => m.write (2048 * w.td.toNat + 64 * r.1) r.2.2.1) s.vec.tile
  let l := rows.foldl (fun (m : Memory) r => m.set (32 * w.td.toNat + r.1) (BitVec.ofInt 8 r.2.1)) s.vec.lane
  let c := rows.foldl (fun c r => c.add r.2.2.2) ({} : Counts)
  let nf := rows.any fun r => r.2.1 != -128 && r.2.2.1.contains 0x80
  vecReport { s with vec := { s.vec with tile := t, lane := l } } p w.grad nf c

/-! ### Draws (R115, R116) -/

/-- The 16-bit slice of tile element (i, j) of a shape under a stream. -/
def tileSlice (s : State) (p : Part) (w : VWord) (stream fmt i j : Nat) : Nat :=
  galeSlice (seedOf s p) (tens s p w.ent.toNat).ident (galeStep s p) stream (tileIndex s p w fmt i j)

/-- VRND: the raw slices. -/
def vrndRun (s : State) (p : Part) (w : VWord) : State :=
  tileFull s p w 0 fun i j => moved (tileSlice s p w 2 0 i j)

/-- VDRP. -/
def vdrpRun (s : State) (p : Part) (w : VWord) : State :=
  let f := w.df.toNat
  let kept (i j : Nat) : Bool := decide (w.imm.toNat ≤ tileSlice s p w 1 f i j)
  let k := opalAt s w.tb.toNat 0 w.ci.toNat
  let s' := tileFull s p w f fun i j => if kept i j then rounded s p w i j ((taNum s w i j).mul k).toRes else moved 0
  if w.men then s'
  else
    let o := if f = 1 then takeFree s' else (0, s')
    (List.range 32).foldl (fun st i =>
      let v := (List.range 32).foldl (fun acc j =>
        acc + b2n (if shapeCols f ≤ j then maskSpare (Config.freeNat o.1) i j else kept i j) * 2 ^ j) 0
      maskRow st w.msk.toNat i v) o.2

/-! ### What each opcode does once it issues -/

/-- The effect of a vector word of partition `p`. -/
def vecEffect (s : State) (p : Part) (op : VOp) (w : VWord) : State :=
  match op with
  | .vnop => s
  | .vld => vldRun s p w
  | .vst => vstRun s p w
  | .vmov => vmovRun s p w
  | .vbc => vbcRun s p w
  | .vtr => vtrRun s p w
  | .vgth => vgthRun s p w
  | .vsel => vselRun s p w
  | .vmsk => vmskRun s w
  | .vmcmp => vmcmpRun s w
  | .vmlog => vmlogRun s w
  | .vadd => elementwise s p w fun a b _ => (a.add b).toRes
  | .vsub => elementwise s p w fun a b _ => (a.sub b).toRes
  | .vmul => elementwise s p w fun a b _ => (a.mul b).toRes
  | .vfma => elementwise s p w fun a b c => ((a.mul b).add c).toRes
  | .vdiv => elementwise s p w fun a b _ => a.div b
  | .vmax => elementwise s p w fun a b _ => (a.max b).toRes
  | .vmin => elementwise s p w fun a b _ => (a.min b).toRes
  | .vabs => elementwise s p w fun a _ _ => a.abs.toRes
  | .vneg => elementwise s p w fun a _ _ => a.neg.toRes
  | .vscl => elementwise s p w fun a _ _ => (a.scale (vsclShift s p w)).toRes
  | .vsqrt => elementwise s p w fun a _ _ => a.sqrt
  | .vrsq => polyRun s p w (rsqNum s)
  | .vexp2 => polyRun s p w (exp2Num s)
  | .vlog2 => polyRun s p w (log2Num s)
  | .vact => vactRun s p w
  | .vactd => vactdRun s p w
  | .vnrm => vnrmRun s p w
  | .vnrmb => vnrmbRun s p w
  | .vsmx => vsmxRun s p w
  | .vsmxb => vsmxbRun s p w
  | .vbce => vbceRun s p w
  | .vmse => vmseRun s p w
  | .vcvt => vcvtRun s p w
  | .vqnt => vqntRun s p w
  | .vdq => vdqRun s p w
  | .vrnd => vrndRun s p w
  | .vdrp => vdrpRun s p w
  | .rsum => redRun s p w op
  | .rmax => redRun s p w op
  | .rmin => redRun s p w op
  | .rssq => redRun s p w op
  | .rdot => redRun s p w op

/-- The unit that an opcode needs (R97). -/
def vecUnit (op : VOp) : VUnit :=
  match op with
  | .vnop => .none
  | .vld => .load
  | .vst => .store
  | .vmsk => .mask
  | .vmlog => .mask
  | .vbce => .pipeRed
  | .vmse => .pipeRed
  | .rsum => .red
  | .rmax => .red
  | .rmin => .red
  | .rssq => .red
  | .rdot => .red
  | _ => .pipe

/-- The tile registers 0 to 31 that an instruction reads, and the mask registers as 32 to 39 (R99). -/
def vecReads (op : VOp) (w : VWord) : List Nat :=
  let m := if w.men || op = .vsel then [32 + w.msk.toNat] else []
  m ++ match op with
    | .vnop => []
    | .vld => []
    | .vst => [w.ta.toNat]
    | .vmov => [w.ta.toNat]
    | .vbc => if w.bc = 0 then [] else [w.tb.toNat]
    | .vtr => [w.ta.toNat]
    | .vmsk => []
    | .vmlog => [32 + w.ta.toNat % 8, 32 + w.tb.toNat % 8]
    | .vabs => [w.ta.toNat]
    | .vneg => [w.ta.toNat]
    | .vscl => [w.ta.toNat]
    | .vsqrt => [w.ta.toNat]
    | .vrsq => [w.ta.toNat]
    | .vexp2 => [w.ta.toNat]
    | .vlog2 => [w.ta.toNat]
    | .vact => [w.ta.toNat]
    | .vfma => [w.ta.toNat, w.tb.toNat, w.tc.toNat]
    | .vnrm => [w.ta.toNat, w.tb.toNat, w.tc.toNat]
    | .vnrmb => [w.ta.toNat, w.tb.toNat, w.tc.toNat]
    | .vsmxb => [w.ta.toNat, w.tb.toNat, w.tc.toNat]
    | .vbce => [w.ta.toNat, w.tb.toNat] ++ if w.acc then [w.tc.toNat] else []
    | .vmse => [w.ta.toNat, w.tb.toNat] ++ if w.acc then [w.tc.toNat] else []
    | .vqnt =>
      [w.ta.toNat, w.tb.toNat] ++ (if w.sf = 0 then [] else [w.tc.toNat, w.ci.toNat]) ++ if w.acc then [w.td.toNat] else []
    | .vcvt => w.ta.toNat :: if w.sf = 1 ∧ w.df = 0 then [w.tb.toNat] else []
    | .vdq => [w.ta.toNat]
    | .vrnd => []
    | .rsum => [w.ta.toNat] ++ if w.acc then [w.td.toNat] else []
    | .rmax => [w.ta.toNat] ++ if w.acc then [w.td.toNat] else []
    | .rmin => [w.ta.toNat] ++ if w.acc then [w.td.toNat] else []
    | .rssq => [w.ta.toNat] ++ if w.acc then [w.td.toNat] else []
    | .rdot => [w.ta.toNat, w.tb.toNat] ++ if w.acc then [w.td.toNat] else []
    | _ => [w.ta.toNat, w.tb.toNat]

/-- The registers that an instruction writes, numbered as `vecReads` numbers them. -/
def vecWrites (op : VOp) (w : VWord) : List Nat :=
  match op with
  | .vnop => []
  | .vst => []
  | .vld => w.td.toNat :: if w.acc then [32 + w.msk.toNat] else []
  | .vmsk => [32 + w.td.toNat % 8]
  | .vmcmp => [32 + w.td.toNat % 8]
  | .vmlog => [32 + w.td.toNat % 8]
  | .vdrp => w.td.toNat :: if w.men then [] else [32 + w.msk.toNat]
  | .vbce => [w.td.toNat, w.tc.toNat]
  | .vmse => [w.td.toNat, w.tc.toNat]
  | _ => [w.td.toNat]

end Sys2Proof.Machine
end

