-- ==== Sys2Proof/Machine/Update.lean ====
section
/-! DEFINITION. Optimizers, update programs and the row update (R162 to R184). -/

namespace Sys2Proof.Machine

/-- One ties-away rounding of an exact result into Opal32, an overflow counted. -/
def r32R (x : Res) : Cnum := let o := toOpalR .away x; (ofOpal o.1, o.2)

/-- The sum of several counts. -/
def sumC (l : List Counts) : Counts := l.foldl Counts.add {}

/-- Opal32 one. -/
def oneNum : Num := .fin 1 0

/-! ### Parameter blocks (R170) -/

/-- A parameter of a block's 16 values as a number. -/
def parNum (ps : List W32) (i : Nat) : Num := ofOpal (nth 0 ps i)

/-- The products p1 and p2 as formed for a step. -/
def formProducts (q : Params) : W32 × W32 :=
  (opal ((ofOpal q.p1).mul (parNum q.p 1)), opal ((ofOpal q.p2).mul (parNum q.p 2)))

/-- `r32(1 / r32(1 - x))`. -/
def biasFactor (x : W32) : W32 :=
  (toOpalR .away (oneNum.div (round32 (oneNum.sub (ofOpal x))))).1

/-- The block with P11 to P15 as the device computes them before the updates of a step; `n` is D, or a shard's
element count, 0 for an empty shard. -/
def deviceParams (q : Params) (n : Nat) (ls : Int) : Params :=
  let pr := formProducts q
  let inv : W32 := if n = 0 then 0 else (toOpalR .away (oneNum.div (.fin (n : Int) 0))).1
  let lrl := opal ((parNum q.p 0).mul (parNum q.p 4))
  { q with
    p := q.p.take 11 ++ [inv, biasFactor pr.1, biasFactor pr.2, lrl, opal (.fin 1 (-ls))],
    next := some pr }

/-! ### Row sums (R173) -/

/-- The sum of one chunk of at most 32 columns by the tree of R106. -/
def chunkSum (vs : List Num) : Cnum :=
  let r := treeLevels (fun a b => r32 (a.add b)) 5 (padTo none 32 (vs.map some))
  (r.1.getD .zero, r.2)

/-- The row sum: chunks of 32 columns, added in ascending order from +0. -/
def rowSum (vs : List Num) : Cnum :=
  (List.range (ceilDiv vs.length 32)).foldl (fun acc k =>
    let c := chunkSum (slice vs (32 * k) 32)
    let r := r32 (acc.1.add c.1)
    (r.1, (acc.2.add c.2).add r.2)) (.zero, {})

/-! ### Native optimizers (R169, R171) -/

/-- The state of one column: its vectors' elements. -/
abbrev ColSt := List Num

/-- One column's result: the new weight, the new state elements, the counts. -/
structure ColOut where
  w : Num
  st : ColSt
  c : Counts := {}
  deriving DecidableEq, Repr

/-- The adaptive step `w - lr * r32(g / r32(r32(sqrt a) + eps))`. -/
def adaStep (ps : List W32) (w g a : Num) : Cnum :=
  let s := r32R a.sqrt
  let t := r32 (s.1.add (parNum ps 3))
  let q := r32R (g.div t.1)
  let w' := r32 (w.sub ((parNum ps 0).mul q.1))
  (w'.1, sumC [s.2, t.2, q.2, w'.2])

/-- SGD. -/
def sgdCol (ps : List W32) (w g : Num) : ColOut :=
  let w' := r32 (w.sub ((parNum ps 0).mul g))
  { w := w'.1, st := [], c := w'.2 }

/-- Momentum. -/
def momentumCol (ps : List W32) (w g v : Num) : ColOut :=
  let v' := r32 (((parNum ps 1).mul v).add g)
  let w' := r32 (w.sub ((parNum ps 0).mul v'.1))
  { w := w'.1, st := [v'.1], c := v'.2.add w'.2 }

/-- Element-wise Adagrad. -/
def adagradCol (ps : List W32) (w g a : Num) : ColOut :=
  let a' := r32 (a.add (g.mul g))
  let w' := adaStep ps w g a'.1
  { w := w'.1, st := [a'.1], c := a'.2.add w'.2 }

/-- Adam and AdamW. -/
def adamCol (decay : Bool) (ps : List W32) (w g m v : Num) : ColOut :=
  let cg := r32 ((parNum ps 5).mul g)
  let m' := r32 (((parNum ps 1).mul m).add cg.1)
  let gg := r32 (g.mul g)
  let cgg := r32 ((parNum ps 6).mul gg.1)
  let v' := r32 (((parNum ps 2).mul v).add cgg.1)
  let mk := r32 (m'.1.mul (parNum ps 12))
  let vk := r32 (v'.1.mul (parNum ps 13))
  let sq := r32R vk.1.sqrt
  let dn := r32 (sq.1.add (parNum ps 3))
  let q := r32R (mk.1.div dn.1)
  let wd : Cnum := if decay then r32 (w.sub ((parNum ps 14).mul w)) else (w, {})
  let w' := r32 (wd.1.sub ((parNum ps 0).mul q.1))
  { w := w'.1, st := [m'.1, v'.1],
    c := sumC [cg.2, m'.2, gg.2, cgg.2, v'.2, mk.2, vk.2, sq.2, dn.2, q.2, wd.2, w'.2] }

/-- The sign of a value as −1, 0 or +1; NaN for NaN. -/
def sgnNum : Num → Num
  | .nan => .nan
  | .inf n => if n then .fin (-1) 0 else oneNum
  | .fin m _ => .fin m.sign 0

/-- FTRL-proximal. -/
def ftrlCol (ps : List W32) (w g z n : Num) : ColOut :=
  let ia := parNum ps 7
  let b := parNum ps 8
  let l1 := parNum ps 9
  let so := r32R n.sqrt
  let n' := r32 (n.add (g.mul g))
  let sn := r32R n'.1.sqrt
  let zg := r32 (z.add g)
  let ds := r32 (sn.1.sub so.1)
  let sg := r32 (ds.1.mul ia)
  let z' := r32 (zg.1.sub (sg.1.mul w))
  let small : Bool := !z'.1.isNan && !l1.isNan && !l1.lt z'.1.abs
  let num := r32 (z'.1.sub ((sgnNum z'.1).mul l1))
  let bs := r32 (b.add sn.1)
  let bi := r32 (bs.1.mul ia)
  let dn := r32 (bi.1.add (parNum ps 10))
  let w' := r32R (num.1.neg.div dn.1)
  let c0 := sumC [so.2, n'.2, sn.2, zg.2, ds.2, sg.2, z'.2]
  if small then { w := .zero, st := [z'.1, n'.1], c := c0 }
  else { w := w'.1, st := [z'.1, n'.1], c := sumC [c0, num.2, bs.2, bi.2, dn.2, w'.2] }

/-- What an optimizer leaves of a row: the payload (none where nothing writes it), the vectors, the scalars. -/
structure RowOut where
  w : Option (List Num)
  vecs : List (List Num)
  scal : List Num
  /-- Vectors and the payload that a program stores with stochastic rounding. -/
  stochV : List Bool := []
  c : Counts := {}
  deriving DecidableEq, Repr

/-- Elements `i` of every vector. -/
def column (vecs : List (List Num)) (i : Nat) : ColSt := vecs.map fun v => nth .zero v i

/-- A native optimizer of one column without row-wise state. -/
def nativeCol (opt : Nat) (ps : List W32) (w g : Num) (st : ColSt) : ColOut :=
  let a := nth .zero st 0
  let b := nth .zero st 1
  match opt with
  | 0x01 => sgdCol ps w g
  | 0x02 => momentumCol ps w g a
  | 0x03 => momentumCol ps w g a
  | 0x04 => adagradCol ps w g a
  | 0x06 => adamCol false ps w g a b
  | 0x07 => adamCol false ps w g a b
  | 0x08 => adamCol true ps w g a b
  | 0x09 => adamCol true ps w g a b
  | 0x0A => ftrlCol ps w g a b
  | _ => { w := w, st := st }

/-- Row-wise Adagrad. -/
def rowwise (ps : List W32) (w g : List Num) (a : Num) : RowOut :=
  let sq := g.map fun x => r32 (x.mul x)
  let ss := rowSum (sq.map (·.1))
  let mn := r32 (ss.1.mul (parNum ps 11))
  let a' := r32 (a.add mn.1)
  let ws := (w.zip g).map fun x => adaStep ps x.1 x.2 a'.1
  { w := some (ws.map (·.1)), vecs := [], scal := [a'.1],
    c := sumC (sq.map (·.2) ++ [ss.2, mn.2, a'.2] ++ ws.map (·.2)) }

/-- A native optimizer over a row or a shard chunk. -/
def nativeRow (opt : Nat) (ps : List W32) (w g : List Num) (vecs : List (List Num)) (scal : List Num) : RowOut :=
  if opt = 0x05 then rowwise ps w g (nth .zero scal 0)
  else
    let os := ((w.zip g).zipIdx).map fun x => nativeCol opt ps x.1.1 x.1.2 (column vecs x.2)
    { w := some (os.map (·.w)),
      vecs := (List.range vecs.length).map fun k => os.map fun o => nth .zero o.st k,
      scal := scal, c := sumC (os.map (·.c)) }

/-! ### Update programs (R176 to R178) -/

/-- Registers and stores of a running program: V0 to V11 by column, S0 to S3. -/
structure ProgSt where
  v : List (List Num)
  sc : List Num
  vecs : List (List Num)
  scal : List Num
  w : Option (List Num) := none
  stoch : List Bool
  c : Counts := {}
  deriving DecidableEq, Repr

/-- A register's value in column `i`. -/
def progReg (ps : List W32) (st : ProgSt) (r i : Nat) : Num :=
  if r < 12 then nth .zero (nth [] st.v r) i
  else if r < 16 then nth .zero st.sc (r - 12)
  else parNum ps (r - 16)

/-- Writes a V register in every column. -/
def progSet (st : ProgSt) (dst : Nat) (xs : List Cnum) : ProgSt :=
  { st with v := setNth st.v dst (xs.map (·.1)), c := st.c.add (sumC (xs.map (·.2))) }

/-- The value of a state slot in column `i`, as the record holds it before the program's stores take effect. -/
def progSlot (old : List (List Num) × List Num) (k i : Nat) : Num :=
  if k < 4 then nth .zero (nth [] old.1 k) i else nth .zero old.2 (k - 4)

/-- One instruction word over all `n` columns; a load reads the state `old` of the record, since stores take effect in
the record write (R178). -/
def progStep (ps : List W32) (n : Nat) (old : List (List Num) × List Num) (st : ProgSt) (word : W32) : ProgSt :=
  let x := word.toNat
  let dst := bits 25 21 x
  let aux := bits 5 0 x
  let a (i : Nat) : Num := progReg ps st (bits 20 16 x) i
  let b (i : Nat) : Num := progReg ps st (bits 15 11 x) i
  let c (i : Nat) : Num := progReg ps st (bits 10 6 x) i
  let cols := List.range n
  let each (f : Nat → Cnum) : ProgSt := progSet st dst (cols.map f)
  match bits 31 26 x with
  | 0x01 => each fun i => r32 ((a i).add (b i))
  | 0x02 => each fun i => r32 ((a i).sub (b i))
  | 0x03 => each fun i => r32 ((a i).mul (b i))
  | 0x04 => each fun i => r32 (((a i).mul (b i)).add (c i))
  | 0x05 => each fun i => r32R ((a i).div (b i))
  | 0x06 => each fun i => r32R (a i).sqrt
  | 0x07 => each fun i => r32 ((a i).max (b i))
  | 0x08 => each fun i => r32 ((a i).min (b i))
  | 0x09 => each fun i => r32 (a i).abs
  | 0x0A => each fun i => r32 (a i).neg
  | 0x0B => each fun i => r32 (sgnNum (a i))
  | 0x0C => each fun i =>
      let le : Bool := !(a i).isNan && !(b i).isNan && !(b i).lt (a i)
      (if le then c i else progReg ps st dst i, {})
  | 0x0D => each fun i => (progSlot old (aux % 8) i, {})
  | 0x0E =>
      let k := aux % 8
      if k < 4 then { st with vecs := setNth st.vecs k (cols.map a), stoch := setNth st.stoch k (bit 3 aux) }
      else { st with scal := setNth st.scal (k - 4) (a 0) }
  | 0x0F => { st with w := some (cols.map a) }
  | 0x10 => let r := rowSum (cols.map a); { st with sc := setNth st.sc (dst - 12) r.1, c := st.c.add r.2 }
  | 0x11 => { st with sc := setNth st.sc (dst - 12) ((cols.map a).foldl Num.max (.inf true)) }
  | _ => st

/-- A program over a row: the row part and then the element part are its words in order. -/
def progRow (pg : UpdProg) (ps : List W32) (w g : List Num) (vecs : List (List Num)) (scal : List Num) : RowOut :=
  let n := w.length
  let zero := List.replicate n Num.zero
  let st : ProgSt :=
    { v := w :: g :: List.replicate 10 zero, sc := List.replicate 4 .zero, vecs := vecs, scal := scal,
      stoch := List.replicate 4 false }
  let r := pg.words.foldl (progStep ps n (vecs, scal)) st
  { w := r.w, vecs := r.vecs, scal := r.scal, stochV := r.stoch, c := r.c }

/-! ### The state an optimizer keeps (R169, R177) -/

/-- A program of the loaded plan. -/
def progOf (s : State) (p : Part) (opt : Nat) : UpdProg :=
  match getJob s p with
  | none => {}
  | some j => (j.plan.progs.find? fun q => q.num == opt - 0x80).getD {}

/-- Formats of the state vectors (true: Pearl16) and the number of scalars. -/
def stLayout (opt : Nat) (pg : UpdProg) : List Bool × Nat :=
  match opt with
  | 0x02 => ([false], 0)
  | 0x03 => ([true], 0)
  | 0x04 => ([false], 0)
  | 0x05 => ([], 1)
  | 0x06 => ([false, false], 0)
  | 0x07 => ([true, true], 0)
  | 0x08 => ([false, false], 0)
  | 0x09 => ([true, true], 0)
  | 0x0A => ([false, false], 0)
  | _ => if 0x80 ≤ opt then ((List.range pg.nv).map fun i => bit i pg.vfmt, pg.ns) else ([], 0)

/-- Bytes of a state over `n` columns. -/
def stBytes (lay : List Bool × Nat) (n : Nat) : Nat :=
  (lay.1.map fun h => n * if h then 2 else 4).foldl (· + ·) 0 + 4 * lay.2

/-- Decodes state vectors from bytes. -/
def decVecs (n : Nat) : List Bool → List Byte → List (List Num) × List Byte
  | [], b => ([], b)
  | h :: t, b =>
    let w := if h then 2 else 4
    let v := (List.range n).map fun i => ofRaw (if h then 0 else 1) 0 (natOf (slice b (w * i) w))
    let r := decVecs n t (b.drop (n * w))
    (v :: r.1, r.2)

/-- Decodes a state: its vectors and scalars. -/
def decState (lay : List Bool × Nat) (n : Nat) (b : List Byte) : List (List Num) × List Num :=
  let r := decVecs n lay.1 b
  (r.1, (List.range lay.2).map fun i => ofOpal (BitVec.ofNat 32 (natOf (slice r.2 (4 * i) 4))))

/-- Runs the optimizer that an identifier names. -/
def runOpt (opt : Nat) (pg : UpdProg) (ps : List W32) (w g : List Num) (vecs : List (List Num)) (scal : List Num) :
    RowOut :=
  if 0x80 ≤ opt then progRow pg ps w g vecs scal else nativeRow opt ps w g vecs scal

/-! ### Record payloads and states (R134, R172) -/

/-- The effective shift of column `c` of a Facet8 record. -/
def recShift (d : Desc) (b : List Byte) (c : Nat) : Int :=
  let base := s8 (BitVec.ofNat 8 (hBase b))
  let g := c / 64
  let o := (nth 0 b (16 + d.payLen + g / 2)).toNat
  if base = -128 then -128 else base + ((if g % 2 = 0 then o % 16 else o / 16 : Nat) : Int)

/-- Column `c` of a record's payload. -/
def recElem (d : Desc) (b : List Byte) (c : Nat) : Num :=
  ofRaw d.pfmt (if d.pfmt = 3 then recShift d b c else 0) (natOf (slice b (16 + c * d.w) d.w))

/-- Column `c` of a record's payload converted to Opal32 (R28): a Facet8 element beyond its range becomes an infinity. -/
def recOpal (d : Desc) (b : List Byte) (c : Nat) : Cnum := r32 (recElem d b c)

/-- A row encoded in two levels: base, codes, packed offsets, counts (R35). -/
def encFacetRow (xs : List (Num × Rnd)) : Int × List Byte × List Byte × Counts :=
  let gs := (List.range (ceilDiv xs.length 64)).map fun k => slice xs (64 * k) 64
  let base := twoLevelBase (gs.map fun g => g.map (·.1))
  let os := gs.map (twoLevelGroup base)
  (base, os.flatMap (·.2.1), packNibbles (os.map (·.1)), sumC (os.map (·.2.2)))

/-- The bytes of an encoded payload with its offsets, and its base. -/
def encPayload (pfmt : Nat) (xs : List (Num × Rnd)) : Int × List Byte × Counts :=
  if pfmt = 3 then
    let r := encFacetRow xs
    (r.1, r.2.1 ++ r.2.2.1, r.2.2.2)
  else
    let os := xs.map fun x => toRaw pfmt x.2 x.1.toRes
    (0, os.flatMap (fun o => bytesOf (fmtWidth pfmt) o.1), sumC (os.map (·.2)))

/-- Encodes the state vectors of a row over the old state's bytes `old`, from byte `off` on; `rnd` gives a Pearl16
element's rounding by vector and element index. A vector that the update does not write keeps its bits (R178). -/
def encVecs (rnd : Nat → Nat → Rnd) (own : Nat → Bool) (old : List Byte) (off : Nat) :
    Nat → List (Bool × List Num) → List Byte × Counts
  | _, [] => ([], {})
  | k, (h, v) :: t =>
    let w := if h then 2 else 4
    let os := v.zipIdx.map fun x =>
      if h then toRaw 0 (rnd k (off / 2 + x.2)) x.1.toRes else ((opal x.1).toNat, {})
    let b := if own k then os.flatMap fun o => bytesOf w o.1 else slice old off (w * v.length)
    let r := encVecs rnd own old (off + w * v.length) (k + 1) t
    (b ++ r.1, if own k then (sumC (os.map (·.2))).add r.2 else r.2)

/-- The bytes of the state scalars after an update; one that it does not write keeps its bits. -/
def encScals (own : Nat → Bool) (old : List Byte) (off : Nat) (xs : List Num) : List Byte :=
  xs.zipIdx.flatMap fun x =>
    if own (4 + x.2) then bytesOf 4 (opal x.1).toNat else slice old (off + 4 * x.2) 4

/-! ### The row update (R163) -/

/-- The parameter block that the updates of the step use. -/
def stepParams (s : State) (p : Part) (t : Table) : Params :=
  deviceParams t.par t.desc.dim (lsOf s p)

/-- The state slots that a program stores to. -/
def stsSlots (pg : UpdProg) : List Nat :=
  (pg.words.filter fun w => bits 31 26 w.toNat == 0x0E).map fun w => bits 2 0 w.toNat

/-- A record after its update: the new bytes, the counts, whether a value that the update computes is non-finite as
computed or as stored (R174). -/
def updateRec (s : State) (p : Part) (t : Table) (row : Nat) (g : List Num) (b : List Byte) : List Byte × Counts × Bool :=
  let d := t.desc
  let pg := progOf s p d.opt
  let lay := stLayout d.opt pg
  let w := (List.range d.dim).map (recOpal d b)
  let old := slice b d.soff d.ssz
  let st := decState lay d.dim old
  let o := runOpt d.opt pg (stepParams s p t).p (w.map (·.1)) g st.1 st.2
  let seed := seedOf s p
  let step := galeStep s p
  let stream := if 0x80 ≤ d.opt then 3 else 0
  let draw (ident ei : Nat) : Rnd := .stoch (galeR12 seed ident step stream ei)
  let payId := 0x40000000 + p.toNat * 4096 + d.tid
  let stId := 0x50000000 + p.toNat * 4096 + d.tid
  let pay : Int × List Byte × Counts :=
    match o.w with
    | some xs => encPayload d.pfmt (xs.zipIdx.map fun x =>
        (x.1, if d.rnd then draw payId (row * d.dim + x.2) else Rnd.away))
    | none => (s8 (BitVec.ofNat 8 (hBase b)), slice b 16 (d.payLen + d.offLen), {})
  let rndV (k e : Nat) : Rnd :=
    if (if 0x80 ≤ d.opt then nth false o.stochV k else d.rnd) then draw stId (row * 4096 + e) else .away
  let own (k : Nat) : Bool := decide (d.opt < 0x80) || (stsSlots pg).contains k
  let vs := encVecs rndV own old 0 0 (lay.1.zip o.vecs)
  let stB := vs.1 ++ encScals own old vs.1.length o.scal
  let body := pay.2.1 ++ List.replicate (d.soff - 16 - d.payLen - d.offLen) 0 ++ stB
  let r := padTo 0 d.size (bytesOf 16 (hdr b) ++ body)
  let r := setHdr r 79 64 (stepOf s p)
  let r := if d.pfmt = 3 then setHdr r 87 80 (pat 8 pay.1) else r
  let vals := (o.vecs.zipIdx.filter fun x => own x.2).flatMap (·.1)
  let scal := (o.scal.zipIdx.filter fun x => own (4 + x.2)).map (·.1)
  let nf := ((o.w.getD []) ++ vals ++ scal).any fun x => !x.isFinite
  (r, sumC [sumC (w.map (·.2)), o.c, pay.2.2, vs.2], nf || decide (0 < pay.2.2.ovf + vs.2.ovf))

/-- Whether a row of an active export has still to be copied before an update (R191). -/
def exportAhead (t : Table) (row : Nat) (b : List Byte) : Option Export :=
  match t.exp with
  | some x =>
    if x.active && (x.fail == none) && (nth [] x.todo (t.desc.eng row)).contains row && !hExs b then some x else none
  | none => none

/-- The shadow copy of a record before its update: the state, and whether EXS is set (R191, R192). -/
def shadowCopy (s : State) (p : Part) (tid row : Nat) (t : Table) (b : List Byte) : State × Bool :=
  match exportAhead t row b with
  | none => (s, hExs b)
  | some x =>
    if x.used + t.desc.size ≤ x.size then
      let a := x.shadow + x.used
      let x' := { x with used := x.used + t.desc.size, ents := x.ents ++ [{ row := row, addr := a, size := t.desc.size }] }
      (wrNow (putTbl s p tid { t with exp := some x' }) a b, true)
    else (putTbl s p tid { t with exp := some { x with fail := some stNoshadow } }, false)

/-- Whether a running digest build has still to reach a row (R187). -/
def unwalked (t : Table) (row : Nat) : Bool :=
  match t.build with
  | none => false
  | some b => b.todo.any fun l => l.contains row

/-- The update of one record that passed its check: the shadow copy, the write, the digests, the counts. -/
def applyUpdate (s : State) (p : Part) (tid row addr : Nat) (t : Table) (g : List Num) (b : List Byte) : State :=
  let blk := blkRow (t.desc.eng row)
  let sc := shadowCopy s p tid row t b
  let u := updateRec s p t row g b
  let r := setHdr u.1 97 97 (b2n sc.2)
  let r := fixCrc (if t.desc.tier = 2 then setDirty r true else r)
  let s := recWrite sc.1 addr r
  let s := if unwalked t row then s
    else xorDigest s p tid (rangeOf t.desc row) (recHash p tid b ^^^ recHash p tid r)
  let s := tally s blk u.2.1
  if u.2.2 then raise s p evUpdNonfinite [tid, row] else s

/-- A row update whose record fails its check twice after the gate (R184). -/
def lostUpdate (s : State) (p : Part) (tid row addr : Nat) : State :=
  let s := raise s p evUpdRecord [tid, row, addr, stepOf s p]
  tblCount (history s 2 (tid * 2 ^ 40 + row) addr) p tid 5 1

/-- One row update: skipped for a frozen row, lost for a failed record, applied otherwise (R163, R164, R184). -/
def rowUpdate (s : State) (p : Part) (tid row : Nat) (g : List Num) : State :=
  match getTbl s p tid with
  | none => s
  | some t =>
    match t.pins.find? (fun q => q.row == row) with
    | none => s
    | some q =>
      let blk := blkRow (t.desc.eng row)
      if q.frz then tblCount s p tid 4 1
      else
        let s := countRec s p (t.desc.eng row)
        let s := chargeWrite (chargeRead s p q.addr t.desc.size blk) p q.addr t.desc.size blk
        match recRead s t q.addr row with
        | none => lostUpdate (count s blk 3 3 1 (atPart p)) p tid row q.addr
        | some b => applyUpdate s p tid row q.addr t g b

end Sys2Proof.Machine
end

