-- ==== Sys2Proof/Machine/Lookup.lean ====
section
/-! DEFINITION. Embedding lookup: feature batches, sort-unique, the index exchange with its spill rounds, owner
fetches, pooling, and the backward partials up to the owner gradients (R138 to R157, R165 to R168, R208, R299). -/

namespace Sys2Proof.Machine

/-! ### Lookup entries (R142, R146) -/

/-- The fields of a lookup entry (R142). -/
structure Lk where
  grd : Nat
  out : Nat
  pmax : Nat
  grp : Nat
  tid : Nat
  pool : Nat
  ofmt : Nat
  ornd : Bool
  wfmt : Bool
  eval : Bool
  feat : Nat
  su : Nat
  deriving DecidableEq, Repr

/-- The fields of a lookup entry's 256 bits. -/
def lkOf (x : BitVec 256) : Lk :=
  let v := x.toNat
  { grd := bits 212 192 v, out := bits 191 171 v, pmax := bits 170 150 v, grp := bits 149 144 v, tid := bits 143 132 v,
    pool := bits 131 129 v, ofmt := bits 128 127 v, ornd := bit 126 v, wfmt := bit 125 v, eval := bit 124 v,
    feat := bits 121 112 v, su := bits 5 3 v }

/-- The lookup entries of a plan. -/
def lksOf (pl : Plan) : List Lk := pl.lookups.map lkOf

/-- The lookup entries of a group, ascending by feature number. -/
def groupLks (pl : Plan) (g : Nat) : List Lk := sortBy (·.feat) ((lksOf pl).filter fun k => k.grp == g)

/-- A list sorted ascending, each value once. -/
def sortedOnce (l : List Nat) : List Nat :=
  (sortBy id l).foldl (fun acc x => if acc.getLast? == some x then acc else acc ++ [x]) []

/-- The tables that a group names, ascending. -/
def groupTids (pl : Plan) (g : Nat) : List Nat := sortedOnce ((groupLks pl g).map (·.tid))

/-- The merged lists of a batch in the order of sorting: (group, table, sort unit) (R144). -/
def mergedLists (pl : Plan) : List (Nat × Nat × Nat) :=
  (sortedOnce ((lksOf pl).map (·.grp))).flatMap fun g =>
    (groupTids pl g).map fun t => (g, t, (((groupLks pl g).find? fun k => k.tid == t).map (·.su)).getD 0)

/-- Whether some training lookup of a group names a table. -/
def trainTid (pl : Plan) (g tid : Nat) : Bool := (groupLks pl g).any fun k => k.tid == tid && !k.eval

/-- Whether the backward exchange of a group carries entries of a table: a training lookup names it and its OPT is not
0x00 (R164). -/
def backTid (s : State) (p : Part) (pl : Plan) (g tid : Nat) : Bool :=
  trainTid pl g tid && (match getTbl s p tid with | some t => decide (t.desc.opt ≠ 0) | none => false)

/-! ### Feature batches (R138 to R140) -/

/-- A feature section's header. -/
structure Sect where
  feat : Nat
  wgt : Nat
  npos : Nat
  leno : Nat
  idxo : Nat
  nxto : Nat
  at' : Nat
  deriving DecidableEq, Repr

/-- Reads a section header through a reader of `n`-byte numbers. -/
def readSect (rd : Nat → Nat → Nat) (o : Nat) : Sect :=
  { feat := rd o 2, wgt := rd (o + 2) 1, npos := rd (o + 4) 4, leno := rd (o + 8) 8, idxo := rd (o + 16) 8,
    nxto := rd (o + 24) 8, at' := o }

/-- The chain of at most `n` sections from an offset. -/
def readSects (rd : Nat → Nat → Nat) : Nat → Nat → List Sect
  | 0, _ => []
  | n + 1, o =>
    let x := readSect rd o
    x :: (if x.nxto = 0 then [] else readSects rd n x.nxto)

/-- The sections of a batch. -/
def batchSects (rd : Nat → Nat → Nat) : List Sect := readSects rd (rd 12 2) (rd 48 8)

/-- Offset of a section's weight array. -/
def Sect.wgto (x : Sect) : Nat := roundUp (x.idxo + 8 * x.npos) 64

/-- The bag lengths of a section. -/
def bagLens (rd : Nat → Nat → Nat) (x : Sect) (nsmp : Nat) : List Nat :=
  (List.range nsmp).map fun i => rd (x.leno + 4 * i) 4

/-- Whether a section, of a feature of the plan or not, breaks R139 items 3 to 5: its lengths, its offsets, its arrays.
The weights of a feature that no lookup names are taken as the narrower ones. -/
def sectBad (rd : Nat → Nat → Nat) (len nsmp : Nat) (pl : Plan) (x : Sect) : Bool :=
  let off (v : Nat) : Bool := decide (v % 64 ≠ 0)
  let w := match (lksOf pl).find? (fun k => k.feat == x.feat) with
    | some k => if k.wfmt then 2 else 4
    | none => 2
  off x.at' || off x.leno || off x.idxo || off x.nxto || decide (len < x.at' + 32)
  || decide (len < x.leno + 4 * nsmp) || decide (len < x.idxo + 8 * x.npos)
  || decide ((bagLens rd x nsmp).foldl (· + ·) 0 ≠ x.npos)
  || (x.wgt == 1 && decide (len < x.wgto + w * x.npos))

/-- Whether a feature of the plan breaks R139 items 2 to 4: its one section, its positions, its weights. -/
def featBad (ss : List Sect) (k : Lk) : Bool :=
  match ss.filter fun x => x.feat == k.feat with
  | [x] => decide (k.pmax < x.npos) || decide ((k.pool = 2) ≠ (x.wgt = 1))
  | _ => true

/-- Whether a batch of `len` bytes breaks R139 or the operand rule of R375. -/
def batchBad (rd : Nat → Nat → Nat) (len step : Nat) (pl : Plan) : Bool :=
  let ss := batchSects rd
  let off (x : Nat) : Bool := decide (x % 64 ≠ 0)
  decide (len < 64) || decide (rd 8 4 ≠ pl.nsmp) || decide (rd 0 8 ≠ step)
  || off (rd 16 8) || off (rd 32 8) || off (rd 48 8)
  || decide (len < rd 16 8 + rd 24 8) || decide (len < rd 32 8 + rd 40 8)
  || ss.any (sectBad rd len pl.nsmp pl) || (lksOf pl).any (featBad ss)

/-- A reader of a byte list. -/
def listRd (b : List Byte) (o n : Nat) : Nat := natOf (slice b o n)

/-- The intake slot of a step (R538). -/
def slotBase (pl : Plan) (step : Nat) : Nat := pl.ibase + step % (pl.look + 1) * pl.slotsz

/-- A reader of the batch in a step's intake slot. -/
def slotRd (s : State) (pl : Plan) (step o n : Nat) : Nat := s.mem.readNat (slotBase pl step + o) n

/-- Whether two steps share an intake slot (R538). -/
def Job.sameSlot (j : Job) (a b : Nat) : Bool := a % (j.plan.look + 1) == b % (j.plan.look + 1)

/-- The intake window of a job: its first and last step (R140). -/
def window (s : State) (p : Part) (j : Job) : Nat × Nat := (nextStep s p, nextStep s p + j.plan.look)

/-- A batch command ends without a batch. -/
def batchEnd (s : State) (c : Cmd) (p : Part) (code step : Nat) : State :=
  complete (raiseF s code stInvalid c.fn.toNat (some p) [step]) c stInvalid 0 0 0

/-- BATCH: judged by its STEP operand; an accepted one starts its intake (R140, R538). -/
def batchStart (s : State) (c : Cmd) (len step : Nat) (chan : ChanNum) : State :=
  let p := partOf s c.fn
  let ch := tabGet {} s.chans chan.toNat
  match getJob s p with
  | none => batchEnd s c p evBatchReject step
  | some j =>
    let w := window s p j
    let s := modJob s p fun j => { j with taken := j.taken.filter (·.1 != c) }
    if step < w.1 ∨ j.accepted.contains step then batchEnd s c p evBatchLate step
    else if ch.part ≠ p ∨ ch.use ≠ 2 then rejectCmd s c evProgError stInvalid []
    else if j.plan.slotsz < len ∨ len % 64 ≠ 0 then batchEnd s c p evBatchReject step
    else
      let q := getPort s (portOf c.fn.toNat)
      let s := putPort s (portOf c.fn.toNat) { q with reads := c.fn :: q.reads }
      modJob s p fun j => { j with intakes := j.intakes ++ [{ cmd := c, step := step, len := len, chan := chan }] }

/-- Whether a batch of the acceptance order still stands. -/
def liveBatch (s : State) (x : Nat × Nat) : Bool :=
  match getJob s (BitVec.ofNat 2 x.1) with
  | none => false
  | some j => j.accepted.contains x.2

/-- An intake's DMA has ended: its data lands in the slot and is checked (R139, R140). -/
def batchDone (s : State) (p : Part) (step status : Nat) (data : List Byte) : State :=
  match getJob s p with
  | none => s
  | some j =>
    match j.intakes.find? (fun i => i.step == step) with
    | none => s
    | some i =>
      let pb := portOf i.cmd.fn.toNat
      let q := getPort s pb
      let s := putPort s pb { q with reads := q.reads.erase i.cmd.fn }
      let s := modJob s p fun j => { j with intakes := j.intakes.erase i }
      if status ≠ 0 then complete s i.cmd status 0 0 0
      else
        let d := (padTo 0 i.len data).take i.len
        let blk := blkDma (i.chan.toNat / 128)
        let s := count s (blkPort pb) 2 1 i.len (atPart p)
        let s := winAdd s (if pb then 3 else 1) i.len
        let s := countMem s p (slotBase j.plan step) i.len blk true
        let s := wr s (slotBase j.plan step) d
        let w := window s p j
        if step < w.1 ∨ w.2 < step ∨ j.accepted.contains step then batchEnd s i.cmd p evBatchLate step
        else if batchBad (listRd d) i.len step j.plan then batchEnd s i.cmd p evBatchReject step
        else
          let s := { s with sortOrder := (s.sortOrder.filter (liveBatch s)) ++ [(p.toNat, step)] }
          complete (modJob s p fun j => { j with accepted := j.accepted ++ [step] }) i.cmd stDone 0 0 0

/-! ### Sort-unique (R143, R144) -/

/-- The power domain of a sort unit (R429). -/
def sortDom (su : Nat) : Nat := 34 + su / 4

/-- Whether a list of a batch has been sorted. -/
def Job.isSorted (j : Job) (step g tid : Nat) : Bool :=
  j.sorted.any fun x => x.step == step && x.group == g && x.tid == tid

/-- Whether every list of a batch has been sorted. -/
def batchSorted (j : Job) (step : Nat) : Bool := (mergedLists j.plan).all fun x => j.isSorted step x.1 x.2.1

/-- The lists of an accepted batch that a sort unit has still to sort, ascending by group and table. -/
def listsLeft (j : Job) (su step : Nat) : List (Nat × Nat) :=
  (mergedLists j.plan).filterMap fun x =>
    if x.2.2 = su ∧ j.accepted.contains step ∧ !j.isSorted step x.1 x.2.1 then some (x.1, x.2.1) else none

/-- The next list that a sort unit takes: by batch acceptance, of whatever partition, then group and table: (partition,
step, group, table) (R144). -/
def nextList (s : State) (su : Nat) : Option (Nat × Nat × Nat × Nat) :=
  (s.sortOrder.flatMap fun b =>
    match getJob s (BitVec.ofNat 2 b.1) with
    | none => []
    | some j => (listsLeft j su b.2).map fun x => (b.1, b.2, x.1, x.2)).head?

/-- A sort unit starts a list; one whose domain is not powered waits and counts one wake stall. -/
def sortBegin (s : State) (su : Nat) (p : Part) (step g tid : Nat) : State :=
  if (tabFind s.sorts su).isNone && nextList s su == some (p.toNat, step, g, tid) then
    let off : Bool := decide (dom s (sortDom su) ≠ .on)
    let s := if off then count s (blkSort su) 1 1 1 (atPart p) else count s (blkSort su) 0 2 1 (atPart p)
    { s with sorts := tabSet s.sorts su { part := p, step := step, group := g, tid := tid, waiting := off } }
  else s

/-- The position of a value in an ascending list. -/
def posIn (l : List Nat) (v : Nat) : Nat := l.idxOf v

/-- The inverse-map value of a position without a unique entry. -/
def noRow : Nat := 0xFFFFFFFF

/-- The index words of a feature in its batch. -/
def indexWords (rd : Nat → Nat → Nat) (feat : Nat) : List Nat :=
  match (batchSects rd).find? (fun x => x.feat == feat) with
  | none => []
  | some x => (List.range x.npos).map fun i => rd (x.idxo + 8 * i) 8

/-- The unique list and inverse maps of one merged list (R143). -/
def sortList (s : State) (j : Job) (step g tid : Nat) : Sorted :=
  let ws := ((groupLks j.plan g).filter fun k => k.tid == tid).map fun k =>
    (k.feat, indexWords (slotRd s j.plan step) k.feat)
  let uniq := sortedOnce ((ws.flatMap (·.2)).filter fun w => decide (w < 2 ^ 40))
  { step := step, group := g, tid := tid, uniq := uniq,
    inv := ws.map fun f => (f.1, f.2.map fun w => if w < 2 ^ 40 then posIn uniq w else noRow) }

/-! ### Round messages (R147, R285, R286, R330) -/

/-- The 16-byte round-message header followed by a body. -/
def roundBytes (g round n left step epoch : Nat) (body : List Byte) : List Byte :=
  bytesOf 2 g ++ bytesOf 1 round ++ [0] ++ bytesOf 4 n ++ bytesOf 4 left ++ bytesOf 2 step ++ bytesOf 2 epoch ++ body

/-- An index entry. -/
def idxBytes (tid row : Nat) : List Byte := bytesOf 8 (row % 2 ^ 40 + tid % 4096 * 2 ^ 40)

/-- The index entries of a body. -/
def idxEntries (b : List Byte) (n : Nat) : List (Nat × Nat) :=
  (List.range n).map fun i => let v := natOf (slice b (8 * i) 8); (bits 51 40 v, bits 39 0 v)

/-- Sends a round message; the two fixed rounds travel on the collective channel, spill rounds on the bulk one. -/
def sendRound (s : State) (p : Part) (dst g round n left : Nat) (body : List Byte) : State :=
  match getJob s p with
  | none => s
  | some j => sendTo s p dst (if round < 2 then 0x01 else 0x10) (roundBytes g round n left j.step j.epoch body)

/-- A stale message is discarded and counted (R330). -/
def staleMsg (s : State) (p : Part) (src kind : Nat) : State :=
  raise { s with fabr := { s.fabr with stale := s.fabr.stale + 1 } } p evXchStale [src, kind]

/-- A message of the wrong shape is discarded; the event and the checksum-fault report follow (R286). -/
def badFormat (s : State) (p : Part) (src what : Nat) : State :=
  report (raise s p evXchFormat [src, what]) p (vCksum ||| srcXch)

/-- Whether a message's epoch is the job's. -/
def epochOk (j : Job) (e : Nat) : Bool := decide (e % 65536 = j.epoch % 65536)

/-- The run of a lookup group in the step. -/
def runOf (j : Job) (g : Nat) : LkpRun := (j.runs.find? fun r => r.group == g).getD { group := g }

/-- The job with the run of a group changed. -/
def modRun (j : Job) (g : Nat) (f : LkpRun → LkpRun) : Job :=
  if j.runs.any fun r => r.group == g then
    { j with runs := j.runs.map fun r => if r.group == g then f r else r }
  else { j with runs := j.runs ++ [f { group := g }] }

/-- The state with the run of a group changed. -/
def modRunS (s : State) (p : Part) (g : Nat) (f : LkpRun → LkpRun) : State := modJob s p fun j => modRun j g f

/-- Whether a module owns a shard of any table of a group. -/
def ownsGroup (s : State) (p : Part) (pl : Plan) (g l : Nat) : Bool :=
  (groupTids pl g).any fun t => match getTbl s p t with
    | some t => t.map.contains l
    | none => false

/-- The other modules to which the fixed rounds of a group travel from this one. -/
def groupDsts (s : State) (p : Part) (pl : Plan) (g : Nat) : List Nat :=
  (List.range pl.nmod).filter fun l => l != pl.lidx && ownsGroup s p pl g l

/-- The other modules from which this one expects the fixed rounds of a group. -/
def groupSrcs (s : State) (p : Part) (pl : Plan) (g : Nat) : List Nat :=
  if ownsGroup s p pl g pl.lidx then (List.range pl.nmod).filter fun l => l != pl.lidx else []

/-! ### The index exchange (R145, R146) -/

/-- The entry of a group in the plan. -/
def groupEnt (pl : Plan) (g : Nat) : GroupEntry := (pl.groups.find? fun e => e.group == g).getD {}

/-- Entries of one spill round (R148). -/
def spillCap (pl : Plan) (g : Nat) : Nat := Nat.max (groupEnt pl g).squall 4096

/-- The rows of a group in the order of R145: (table, row, in range, owner). -/
def walkRows (s : State) (p : Part) (j : Job) (g : Nat) : List (Nat × Nat × Bool × Nat) :=
  (groupTids j.plan g).flatMap fun tid =>
    match getTbl s p tid, j.sorted.find? (fun x => x.step == j.step && x.group == g && x.tid == tid) with
    | some t, some x => x.uniq.map fun r => (tid, r, decide (r < t.desc.rows), ownerOf t.map t.desc r)
    | _, _ => []

/-- The split of a group's entries among rounds (R146, R148): main by bucket, squall by capacity over ascending
destinations, then spill rounds; own entries move in the main round. -/
def splitRows (pl : Plan) (g : Nat) (rows : List (Nat × Nat × Bool × Nat)) : List SplitEnt :=
  let e := groupEnt pl g
  let ents := (rows.filter fun x => x.2.2.1).map fun x => (x.1, x.2.1, x.2.2.2)
  let own := (ents.filter fun x => x.2.2 == pl.lidx).map fun x =>
    ({ tid := x.1, row := x.2.1, dst := x.2.2, round := 0 } : SplitEnt)
  let per := (List.range pl.nmod).filter (· != pl.lidx) |>.map fun d =>
    let l := ents.filter fun x => x.2.2 == d
    (l.take (nth 0 e.buckets d), l.drop (nth 0 e.buckets d))
  let main := per.flatMap fun x => x.1.map fun y => ({ tid := y.1, row := y.2.1, dst := y.2.2, round := 0 } : SplitEnt)
  let rest := per.flatMap (·.2)
  let squall := (rest.take e.squall).map fun y => ({ tid := y.1, row := y.2.1, dst := y.2.2, round := 1 } : SplitEnt)
  let left := rest.drop e.squall
  let spill := (List.range pl.nmod).flatMap fun d =>
    ((left.filter fun y => y.2.2 == d).zipIdx).map fun y =>
      ({ tid := y.1.1, row := y.1.2.1, dst := d, round := Nat.min 18 (2 + y.2 / spillCap pl g) } : SplitEnt)
  own ++ main ++ squall ++ spill

/-- The entries of a split for one destination and round, in order. -/
def splitFor (r : LkpRun) (dst round : Nat) : List SplitEnt :=
  r.split.filter fun x => x.dst == dst && x.round == round

/-- Marks the unique entries that are out of range in the inverse maps (R145). -/
def markOut (rows : List (Nat × Nat × Bool × Nat)) (j : Job) (g : Nat) : List Sorted :=
  j.sorted.map fun x =>
    if x.step = j.step ∧ x.group = g then
      let bad (k : Nat) : Bool := match x.uniq[k]? with
        | some r => rows.any fun y => y.1 == x.tid && y.2.1 == r && !y.2.2.1
        | none => false
      { x with inv := x.inv.map fun (f : Nat × List Nat) => (f.1, f.2.map fun (k : Nat) => bif bad k then noRow else k) }
    else x

/-- Sends the two fixed index rounds of a group. -/
def sendIndex (s : State) (p : Part) (g : Nat) : State :=
  match getJob s p with
  | none => s
  | some j =>
    let r := runOf j g
    (groupDsts s p j.plan g).foldl (fun s d =>
      let body (k : Nat) : List Byte := (splitFor r d k).flatMap fun e => idxBytes e.tid e.row
      let left := (r.split.filter fun x => x.dst == d && decide (2 ≤ x.round)).length
      let s := sendRound s p d g 0 (splitFor r d 0).length 0 (body 0)
      sendRound s p d g 1 (splitFor r d 1).length left (body 1)) s

/-- LKG phase 0: the index exchange of a group. -/
def lkgIndex (s : State) (p : Part) (g : Nat) : State :=
  match getJob s p with
  | none => s
  | some j =>
    let rows := walkRows s p j g
    let split := splitRows j.plan g rows
    let own : IdxMsg :=
      { src := j.plan.lidx, round := 0, left := 0,
        ents := (split.filter fun x => x.dst == j.plan.lidx).map fun x => (x.tid, x.row) }
    let s := rows.zipIdx.foldl (fun s x => count s (blkXch (x.2 % 2)) 0 2 1 (atPart p)) s
    let s := modJob s p fun j => { modRun j g fun r =>
      { r with split := split, idxIn := r.idxIn ++ [own], started := r.started ++ [0] } with sorted := markOut rows j g }
    sendIndex s p g

/-! ### Payload entries (R147, R149) -/

/-- The payload entry of a record: for Facet8 the base first and the offsets last; whole 8-byte words. -/
def payEntry (d : Desc) (b : List Byte) : List Byte :=
  let e := (if d.pfmt = 3 then bytesOf 1 (hBase b) else []) ++ slice b 16 (d.payLen + d.offLen)
  padTo 0 (roundUp e.length 8) e

/-- The canonical-NaN payload entry of a table (R149). -/
def nanEntry (d : Desc) : List Byte :=
  let e := (if d.pfmt = 3 then [0] else []) ++ (List.range d.dim).flatMap (fun _ => bytesOf d.w (nanRaw d.pfmt))
    ++ List.replicate d.offLen 0
  padTo 0 (roundUp e.length 8) e

/-- Bytes of a payload entry. -/
def payLenOf (d : Desc) : Nat := roundUp ((if d.pfmt = 3 then 1 else 0) + d.payLen + d.offLen) 8

/-- Column `c` of a payload entry decoded (R19, R28). -/
def payElem (d : Desc) (b : List Byte) (c : Nat) : Num :=
  if d.pfmt = 3 then
    let base := s8 (nth 0 b 0)
    let g := c / 64
    let o := (nth 0 b (1 + d.payLen + g / 2)).toNat
    let sh : Int := if base = -128 then -128 else base + ((if g % 2 = 0 then o % 16 else o / 16 : Nat) : Int)
    ofFacet (nth 0 b (1 + c)) sh
  else ofRaw d.pfmt 0 (natOf (slice b (c * d.w) d.w))

/-- Column `c` of a payload entry converted to Opal32 (R28, R29): a Facet8 element beyond its range becomes an infinity. -/
def payOpal (d : Desc) (b : List Byte) (c : Nat) : Cnum := r32 (payElem d b c)

/-- The payload-entry lengths of a list of tables. -/
def payLens (s : State) (p : Part) (tids : List Nat) : List Nat :=
  tids.map fun t => match getTbl s p t with | some t => payLenOf t.desc | none => 0

/-! ### Owner fetch (R151 to R154, R181, R205, R211, R214) -/

/-- A received index message of a fixed or spill round. -/
def indexArrive (s : State) (p : Part) (m : RMsg) : State :=
  match getJob s p with
  | none => s
  | some j =>
    if !epochOk j m.epoch then staleMsg s p m.src.toNat m.round
    else if laterStep s p m.step then s
    else if m.body.length ≠ 8 * m.n ∨ m.step % 65536 ≠ nextStep s p % 65536 then badFormat s p m.src.toNat m.round
    else
      let x : IdxMsg := { src := m.src.toNat, round := m.round, left := m.left, ents := idxEntries m.body m.n }
      modRunS s p m.group.toNat fun r =>
        if r.idxIn.any (fun y => y.src == x.src && y.round == x.round) then r else { r with idxIn := r.idxIn ++ [x] }

/-- Pins a row fetched by a training lookup (R180, R182). -/
def pinRow (s : State) (p : Part) (tid row addr : Nat) (frz bad : Bool) : State :=
  modTbl s p tid fun t =>
    if t.pinned row then t else { t with pins := t.pins ++ [{ row := row, addr := addr, frz := frz, bad := bad }] }

/-- A failed record at a fetch (R153). -/
def failedRecord (s : State) (p : Part) (tid row addr e : Nat) : State :=
  let s := count s (blkRow e) 3 3 1 (atPart p)
  let s := history (raise s p evLkpRecord [tid, row, addr]) 3 (tid * 2 ^ 40 + row) addr
  let s := modJob s p fun j =>
    if j.twin.paired && !j.twin.asked.contains (tid, row) then
      { j with twin := { j.twin with asked := j.twin.asked ++ [(tid, row)] } } else j
  report s p (vCksum ||| srcRow)

/-- Whether a fetch waits for the repair of a record that failed in an earlier step (R309). -/
def waitsRepair (s : State) (p : Part) (t : Table) (row : Nat) : Bool :=
  match getJob s p with
  | none => false
  | some j => j.twin.paired && j.twin.asked.contains (t.desc.tid, row) && !(t.pins.any fun q => q.row == row && q.bad)

/-- Reads a record for a fetch: its payload entry, and whether it failed; a training fetch pins it and heats a tiered
one. -/
def fetchAt (s : State) (p : Part) (t : Table) (row addr : Nat) (train : Bool) : List Byte × State :=
  let d := t.desc
  let e := d.eng row
  let s := chargeRead (countRec s p e) p addr d.size (blkRow e)
  match recRead s t addr row with
  | none =>
    let s := failedRecord s p d.tid row addr e
    (nanEntry d, if train then pinRow s p d.tid row addr false true else s)
  | some b =>
    let s := if train then pinRow s p d.tid row addr (hFrz b) false else s
    let s := if train && d.tier == 2 then wrNow s addr (setHeat (b.take 16) (Nat.min 4095 (hHeat b + 1))) else s
    (payEntry d b, s)

/-- The outcome of a fetch: a payload entry, a wait for a promotion or a slot, or an access that may not issue yet (R227,
R233, R234). -/
inductive Fetch where
  | got (b : List Byte) (s : State)
  | wait (s : State)
  | shut (s : State)

/-- A demand promotion for a training fetch of an absent row (R211, R214). -/
def fetchAbsent (s : State) (p : Part) (t : Table) (row : Nat) : Fetch :=
  let tid := t.desc.tid
  match demandSlot s p tid (t.desc.eng row) with
  | .got s x => .wait (promoteInto s p tid row x none)
  | .wait s => .wait s
  | .full =>
    let s := report (raise s p evTierPinfull [tid, row]) p (vSpill ||| srcRow)
    .got (nanEntry t.desc) s

/-- A fetch of one row (R151, R154). A failed promotion leaves the row absent; its rows are fetched as failed ones. -/
def fetchRow (s : State) (p : Part) (t : Table) (row : Nat) (train : Bool) : Fetch :=
  let home := homeAddr t (lidxOf s p) row
  let read (s : State) (t : Table) (a : Nat) (train : Bool) : Fetch :=
    if memOpen s p a t.desc.size false then
      let r := fetchAt s p t row a train
      .got r.1 r.2
    else .shut (noteWait s a t.desc.size false)
  if waitsRepair s p t row then .wait s
  else if t.desc.tier = 2 ∧ s.flash.ready = false then .shut s
  else if t.desc.tier ≠ 2 then read s t home train
  else
    match dirFind s t row with
    | some iv =>
      let a := slotAddr t (deSlot iv.2)
      match deState iv.2 with
      | 1 => read s t a train
      | 2 => if train then .wait s else read s t home false
      | _ =>
        if train then
          let s := dirState s t row 1
          let s := modTbl s p t.desc.tid fun t => { t with evicting := t.evicting.filter (· != row) }
          read s { t with evicting := t.evicting.filter (· != row) } a true
        else read s t a false
    | none => if train then fetchAbsent s p t row else read s t home false

/-- Sends a finished message of payload entries back, or keeps it for the module itself. -/
def returnPay (s : State) (p : Part) (g src round : Nat) : State :=
  match getJob s p with
  | none => s
  | some j =>
    match (runOf j g).idxIn.find? (fun m => m.src == src && m.round == round) with
    | none => s
    | some m =>
      if m.sent || decide (m.pay.length < m.ents.length) || m.ents.isEmpty then s
      else
        let body := m.pay.flatMap (·.2)
        let s := modRunS s p g fun r =>
          { r with idxIn := r.idxIn.map fun x => if x.src == src && x.round == round then { x with sent := true } else x }
        if src = j.plan.lidx then
          modRunS s p g fun r => { r with payIn := r.payIn ++ [{ src := src, round := round, body := body }] }
        else sendRound s p src g round m.ents.length 0 body

/-- Stores the payload entry of index entry `k`, or marks it as waiting. -/
def setPay (s : State) (p : Part) (g src round k : Nat) (b : Option (List Byte)) : State :=
  modRunS s p g fun r =>
    { r with idxIn := r.idxIn.map fun x =>
        if x.src == src && x.round == round then
          match b with
          | some b => { x with pay := tabSet x.pay k b, waits := x.waits.filter (· != k) }
          | none => if x.waits.contains k then x else { x with waits := x.waits ++ [k] }
        else x }

/-- The fetch of index entry `k` of a message (R151); each wait counts once (R154, R211). -/
def ownerFetch (s : State) (p : Part) (g src round k : Nat) : State :=
  match getJob s p with
  | none => s
  | some j =>
    match (runOf j g).idxIn.find? (fun m => m.src == src && m.round == round) with
    | none => s
    | some m =>
      match m.ents[k]?, tabFind m.pay k with
      | some (tid, row), none =>
        match getTbl s p tid with
        | none => s
        | some t =>
          match fetchRow s p t row (trainTid j.plan g tid) with
          | .got b s => returnPay (setPay s p g src round k (some b)) p g src round
          | .shut s => s
          | .wait s =>
            let s := if m.waits.contains k then s else tblCount s p tid 3 1
            setPay s p g src round k none
      | _, _ => s

/-- The waiting fetches that name a row, or any row where none is given: (group, source, round, entry). -/
def waitsFor (j : Job) (tid row : Nat) : List (Nat × Nat × Nat × Nat) :=
  j.runs.flatMap fun r => r.idxIn.flatMap fun m => (m.waits.filter fun k => m.ents[k]? == some (tid, row)).map fun k =>
    (r.group, m.src, m.round, k)

/-- A failed promotion of a demanded row: its fetches return the canonical NaN (R153, R210). -/
def failWaits (s : State) (p : Part) (tid row : Nat) : State :=
  match getJob s p, getTbl s p tid with
  | some j, some t =>
    (waitsFor j tid row).foldl (fun s x =>
      let addr := homeAddr t (lidxOf s p) row
      let s := failedRecord s p tid row addr (t.desc.eng row)
      returnPay (setPay s p x.1 x.2.1 x.2.2.1 x.2.2.2 (some (nanEntry t.desc))) p x.1 x.2.1 x.2.2.1) s
  | _, _ => s

/-- Runs the waiting fetches of a row again. -/
def rerunWaits (s : State) (p : Part) (tid row : Nat) : State :=
  match getJob s p with
  | none => s
  | some j => (waitsFor j tid row).foldl (fun s x => ownerFetch s p x.1 x.2.1 x.2.2.1 x.2.2.2) s

/-- Runs every waiting fetch of a table again: a slot has come free (R214). -/
def rerunTable (s : State) (p : Part) (tid : Nat) : State :=
  match getJob s p with
  | none => s
  | some j =>
    let rows := j.runs.flatMap fun r => r.idxIn.flatMap fun m => m.waits.filterMap fun k =>
      match m.ents[k]? with
      | some (t, row) => if t = tid then some row else none
      | none => none
    (rows.foldl (fun l x => if l.contains x then l else l ++ [x]) []).foldl (fun s r => rerunWaits s p tid r) s

/-- A promotion's home read ends (R210): the fetches that wait for the row go on. -/
def promotionEnd (s : State) (p : Part) (tid row : Nat) : State :=
  match getTbl s p tid with
  | none => s
  | some t =>
    match t.promoting.find? (fun x => x.1 == row) with
    | some x =>
      whenOpen s p [(homeAddr t (lidxOf s p) row, t.desc.size, false), (slotAddr t x.2, t.desc.size, true)] fun s =>
        let r := promoteFinish s p tid row
        if r.2 then rerunWaits r.1 p tid row else failWaits r.1 p tid row
    | none => s

/-! ### Spill rounds (R148, R149) -/

/-- LEFT of a source's squall message. -/
def leftOf (r : LkpRun) (src : Nat) : Nat :=
  match r.idxIn.find? (fun m => m.src == src && m.round == 1) with
  | some m => m.left
  | none => 0

/-- Whether the squall messages of every source have come. -/
def squallIn (s : State) (p : Part) (j : Job) (g : Nat) : Bool :=
  (groupSrcs s p j.plan g).all fun l => (runOf j g).idxIn.any fun m => m.src == l && m.round == 1

/-- Index entries of a source that have come in spill rounds. -/
def spillGot (r : LkpRun) (src : Nat) : Nat :=
  total ((r.idxIn.filter fun m => m.src == src && decide (2 ≤ m.round)).map fun m => m.ents.length)

/-- Whether entries of a source remain to be pulled in a further spill round, of at most 16; the source cuts its rounds by
its own capacity, so the owner goes by what has come (R148). -/
def spillMore (r : LkpRun) (src : Nat) : Bool :=
  decide (tabGet 0 r.pulled src < 16) && decide (spillGot r src < leftOf r src)

/-- Whether the index messages of every pulled spill round of a source have come and none remains to be pulled. -/
def spillIn (r : LkpRun) (src : Nat) : Bool :=
  let k := tabGet 0 r.pulled src
  !spillMore r src && (k == 0 || r.idxIn.any fun m => m.src == src && m.round == k + 1)

/-- The table whose format the final payload message takes. The owner knows the number of the undelivered entries and not
their tables: R146 sends entries in ascending table order, so they stand at or behind the table of the last pulled entry.
The requester takes each entry's own table (DESIGN CHOICE, entry 133). -/
def finalTid (j : Job) (g src : Nat) : Nat :=
  let r := runOf j g
  let last := (sortBy (·.round) (r.idxIn.filter fun m => m.src == src)).flatMap (·.ents) |>.getLast?
  match last with
  | some e => e.1
  | none => (groupTids j.plan g).headD 0

/-- The final payload message of R149: one canonical-NaN entry for each undelivered entry. -/
def finalNan (s : State) (p : Part) (j : Job) (g src n : Nat) : List Byte :=
  match getTbl s p (finalTid j g src) with
  | none => []
  | some t => (List.range n).flatMap fun _ => nanEntry t.desc

/-- The destination pulls the next spill round of a source, forward first and backward after it; each pull is counted and
reported (R148, R150). -/
def spillPull (s : State) (p : Part) (g src : Nat) : State :=
  match getJob s p with
  | none => s
  | some j =>
    let r := runOf j g
    let cap := spillCap j.plan g
    let k := tabGet 0 r.pulled src
    let kb := tabGet 0 r.pulledB src
    let heard (k : Nat) (l : List BodyMsg) : Bool := k == 0 || l.any fun m => m.src == src && m.round == k + 1
    let ans (k : Nat) : Bool := k == 0 || r.idxIn.any fun m => m.src == src && m.round == k + 1 && m.sent
    let note (s : State) : State :=
      raise ((groupTids j.plan g).foldl (fun s t => tblCount s p t 1 1) s) p evLkpSpill [g, src]
    if !squallIn s p j g then s
    else if spillMore r src ∧ ans k then
      let s := modRunS (note s) p g fun r => { r with pulled := tabSet r.pulled src (k + 1) }
      sendRound s p src g (k + 2) 0 cap []
    else if k = 16 ∧ ans k ∧ spillGot r src < leftOf r src ∧ !r.done.contains (100 + src) then
      let n := leftOf r src - spillGot r src
      let s := report s p (vSpill ||| srcXch)
      let s := modRunS s p g fun r => { r with done := r.done ++ [100 + src] }
      sendRound s p src g 18 n 0 (finalNan s p j g src n)
    else if kb < k ∧ ans k ∧ heard kb r.gradIn ∧ r.gradIn.any (fun m => m.src == src && m.round == 1) then
      let s := modRunS (note s) p g fun r => { r with pulledB := tabSet r.pulledB src (kb + 1) }
      sendRound s p src g (kb + 2) 0 cap []
    else s

/-! ### Payloads at the requester (R147, R156, R157) -/

/-- The split entries that a payload message of a source and round answers. -/
def answered (r : LkpRun) (src round : Nat) : List SplitEnt := splitFor r src round

/-- A payload message arrives. -/
def payloadArrive (s : State) (p : Part) (m : RMsg) : State :=
  match getJob s p with
  | none => s
  | some j =>
    let r := runOf j m.group.toNat
    let ents := answered r m.src.toNat m.round
    if !epochOk j m.epoch then staleMsg s p m.src.toNat m.round
    else if ents.length ≠ m.n ∨ (m.round ≠ 18 ∧ m.body.length ≠ total (payLens s p (ents.map (·.tid)))) then
      badFormat s p m.src.toNat m.round
    else
      modRunS s p m.group.toNat fun r =>
        { r with payIn := r.payIn ++ [{ src := m.src.toNat, round := m.round, body := m.body }] }

/-- Whether every payload that the requester awaits has come. -/
def paysIn (r : LkpRun) : Bool :=
  r.split.all fun e => r.payIn.any fun m => m.src == e.dst && m.round == e.round

/-- Cuts a body into entries of the given lengths. -/
def cutBody : List Nat → List Byte → List (List Byte)
  | [], _ => []
  | n :: t, b => b.take n :: cutBody t (b.drop n)

/-- The payload entries of a group's rows: (table, row, entry). An undelivered entry holds the canonical NaN of its own
table (R149). -/
def payloads (s : State) (p : Part) (r : LkpRun) : List (Nat × Nat × List Byte) :=
  r.payIn.flatMap fun m =>
    let ents := answered r m.src m.round
    if m.round = 18 then
      ents.map fun e => (e.tid, e.row, match getTbl s p e.tid with | some t => nanEntry t.desc | none => [])
    else (ents.zip (cutBody (payLens s p (ents.map (·.tid))) m.body)).map fun x => (x.1.tid, x.1.row, x.2)

/-- A feature's positions: (row where it has one, weight) by sample. -/
def featBags (s : State) (j : Job) (k : Lk) : List (List (Option Nat × Num)) :=
  let rd := slotRd s j.plan j.step
  match (batchSects rd).find? (fun x => x.feat == k.feat),
        j.sorted.find? (fun x => x.step == j.step && x.group == k.grp && x.tid == k.tid) with
  | some x, some so =>
    let inv := ((so.inv.find? fun f => f.1 == k.feat).map (·.2)).getD []
    let w := if k.wfmt then 2 else 4
    let pos := inv.zipIdx.map fun y =>
      (so.uniq[y.1]?, if k.pool = 2 then ofRaw (if k.wfmt then 0 else 1) 0 (rd (x.wgto + w * y.2) w) else oneNum)
    ((bagLens rd x j.plan.nsmp).foldl (fun (acc : List (List (Option Nat × Num)) × List (Option Nat × Num)) n =>
      (acc.1 ++ [acc.2.take n], acc.2.drop n)) ([], pos)).1
  | _, _ => []

/-- The row engines read a feature's bag lengths and weights from the intake slot. -/
def readBags (s : State) (j : Job) (k : Lk) : State :=
  match (batchSects (slotRd s j.plan j.step)).find? (fun x => x.feat == k.feat) with
  | none => s
  | some x =>
    let b := slotBase j.plan j.step
    let s := spdAccess s (b + x.leno) (4 * j.plan.nsmp) false
    if k.pool = 2 then spdAccess s (b + x.wgto) ((if k.wfmt then 2 else 4) * x.npos) false else s

/-- The payload of a row. -/
def payOf (l : List (Nat × Nat × List Byte)) (tid row : Nat) : List Byte :=
  match l.find? (fun x => x.1 == tid && x.2.1 == row) with
  | some x => x.2.2
  | none => []

/-- One column of a pooled sample (R156). -/
def poolCol (d : Desc) (pool : Nat) (bag : List (Option (List Byte) × Num)) (c : Nat) : Res × Counts :=
  let acc := bag.foldl (fun (a : Cnum) x =>
    let v : Cnum := match x.1 with | some b => payOpal d b c | none => (.zero, {})
    let r := r32 (a.1.add (match x.1 with | some _ => if pool = 2 then x.2.mul v.1 else v.1 | none => .zero))
    (r.1, (a.2.add v.2).add r.2)) (Num.zero, {})
  if pool = 1 ∧ bag ≠ [] then
    (acc.1.div (.fin (bag.length : Int) 0), acc.2)
  else (acc.1.toRes, acc.2)

/-- A dyadic number that every rounding to fewer than 80 bits takes to the same value as the result: roundings read
only floors of the magnitude. -/
def resNum (x : Res) : Num :=
  match x with
  | .nan => .nan
  | .inf n => .inf n
  | .fin n m =>
    if m.isZero then .zero
    else
      let u := m.log2 - 80
      let k := ((m.floorAt u).1 : Int)
      .fin (if n then -k else k) u

/-- A row engine reads `n` elements of a row of a tensor: the charge, the scratchpad's groups and errors, and the check of
DRAM blocks (R130, R131, R233, R238). -/
def readRow (s : State) (p : Part) (blk : Nat) (e : TEntry) (i n : Nat) : State :=
  let a := e.addr i 0
  let b := n * fmtWidth e.fmt
  (rdChecked (chargeMem s p a b blk false) p true srcRow blk a b).2.1

/-- A row engine writes bytes of a tensor, the sidecar maintained (R237). -/
def writeRow (s : State) (p : Part) (blk a : Nat) (b : List Byte) : State :=
  (wrChecked (chargeMem s p a b.length blk true) p true srcRow blk a b).1

/-- Writes one output row of a lookup: the format's rounding, and for Facet8 a chosen shift for each 64-element block. -/
def outRow (s : State) (p : Part) (k : Lk) (e : TEntry) (blk i : Nat) (xs : List Res) : State :=
  let rnd (c : Nat) : Rnd := rndAt s p k.ornd e i c
  if k.ofmt = 3 then
    (List.range (ceilDiv xs.length 64)).foldl (fun s b =>
      let vs := ((slice xs (64 * b) 64).zipIdx).map fun x =>
        ((match x.1 with
          | .fin n (.dy m ex) => Num.fin (if n then -(m : Int) else m) ex
          | r => resNum r), rnd (64 * b + x.2))
      let o := facetChosen vs
      let s := writeRow s p blk (e.addr i (64 * b)) o.2.1
      let s := writeRow s p blk (e.shiftAddr i (64 * b)) [BitVec.ofInt 8 o.1]
      tally s blk o.2.2) s
  else
    let os := xs.zipIdx.map fun x => toRaw k.ofmt (rnd x.2) x.1
    let s := writeRow s p blk (e.addr i 0) (os.flatMap fun o => bytesOf (fmtWidth k.ofmt) o.1)
    tally s blk (sumC (os.map (·.2)))

/-- Pools one feature, sample by sample (R156, R157). -/
def poolFeature (s : State) (p : Part) (j : Job) (pays : List (Nat × Nat × List Byte)) (k : Lk) : State :=
  match getTbl s p k.tid with
  | none => s
  | some t =>
    let d := t.desc
    let e := tens s p k.out
    let bags := featBags s j k
    let s := readBags s j k
    let cols := List.range d.dim
    (bags.zipIdx.foldl (fun (acc : State × Nat) x =>
      let blk := blkRow (x.2 % 16)
      let bag := x.1.map fun y => (y.1.map fun r => payOf pays k.tid r, y.2)
      let miss := (bag.filter fun y => y.1.isNone).length
      let s := if miss = 0 then acc.1 else tblCount acc.1 p k.tid 0 miss
      let s := if k.pool = 3 then
          bag.zipIdx.foldl (fun s y =>
            outRow s p k e blk (acc.2 + y.2) (cols.map fun c =>
              match y.1.1 with | some b => (payElem d b c).toRes | none => Num.zero.toRes)) s
        else
          let os := cols.map (poolCol d k.pool bag)
          tally (outRow s p k e blk x.2 (os.map (·.1))) blk (sumC (os.map (·.2)))
      (s, acc.2 + bag.length)) (s, 0)).1

/-- Pooling of a group once its last round has delivered. -/
def poolGroup (s : State) (p : Part) (g : Nat) : State :=
  match getJob s p with
  | none => s
  | some j =>
    let r := runOf j g
    if r.started.contains 1 && !r.pooled && paysIn r then
      let pays := payloads s p r
      let s := (groupLks j.plan g).foldl (fun s k => poolFeature s p j pays k) s
      modRunS s p g fun r => { r with pooled := true }
    else s

/-! ### Backward partials (R165, R166, R168, R281) -/

/-- A contribution: the exact `a · n⁻¹`. -/
structure Contrib where
  a : Num
  n : Nat
  deriving DecidableEq, Repr

/-- The contributions to a row's column in canonical order: the output rows of its positions with their factors. -/
structure RowPos where
  sample : Nat
  feat : Nat
  outRow : Nat
  grd : Nat
  w : Num
  n : Nat
  deriving DecidableEq, Repr

/-- The positions of a training table's rows in the order of R165: (row, position). -/
def rowPositions (s : State) (j : Job) (g tid : Nat) : List (Nat × RowPos) :=
  let per := ((groupLks j.plan g).filter fun k => k.tid == tid && !k.eval).flatMap fun k =>
    ((featBags s j k).zipIdx.foldl (fun (acc : List (Nat × RowPos) × Nat) x =>
      (acc.1 ++ x.1.zipIdx.filterMap (fun y => y.1.1.map fun r =>
        (r, { sample := x.2, feat := k.feat, outRow := if k.pool = 3 then acc.2 + y.2 else x.2, grd := k.grd,
              w := if k.pool = 2 then y.1.2 else oneNum, n := if k.pool = 1 then x.1.length else 1 })),
       acc.2 + x.1.length)) ([], 0)).1
  sortBy (fun x => x.2.sample) per

/-- The contribution of a position in column `c`. -/
def contribOf (s : State) (p : Part) (x : RowPos) (c : Nat) : Contrib :=
  let dy := elemAt s (tens s p x.grd) x.outRow c
  { a := if x.w = oneNum then dy else x.w.mul dy, n := x.n }

/-- `acc + v`, exact, as a result. -/
def addContrib (acc : Num) (v : Contrib) : Res :=
  if v.n ≤ 1 then (acc.add v.a).toRes
  else (((acc.mul (.fin (v.n : Int) 0)).add v.a).div (.fin (v.n : Int) 0))

/-- The Repeat-level partial of a row: Pearl16 patterns, counts, whether anything was non-finite. -/
def partialRepeat (s : State) (p : Part) (xs : List RowPos) (dim : Nat) : List Byte × Counts × Bool :=
  let os := (List.range dim).map fun c =>
    let acc := xs.foldl (fun (a : Cnum) x => let r := r32R (addContrib a.1 (contribOf s p x c)); (r.1, a.2.add r.2))
      (Num.zero, {})
    let o := toPearlR .away acc.1.toRes
    (o.1, acc.2.add o.2, !acc.1.isFinite || !(ofPearl o.1).isFinite)
  (os.flatMap (fun o => bytesOf 2 o.1.toNat), sumC (os.map fun o => o.2.1), os.any fun o => o.2.2)

/-- A result rounded onto a 48-bit grid code, with its exponent for EMAX. -/
def gridOfRes (g : Int) (x : Res) : GridOut × Int :=
  match x with
  | .fin neg m =>
    let k := (m.roundAt (g - 15) .away : Int)
    let c := gridClip 48 (if neg then -k else k)
    ({ code := c.1, sat := c.2, nf := false },
     if m.isZero then -128 else if m.log2 < -127 then -127 else if 127 < m.log2 then 127 else m.log2)
  | _ => ({ code := 0, sat := false, nf := true }, -128)

/-- What an Invariant-level partial leaves: G48 bytes, counts, NF, SAT, EMAX. -/
structure GridSum where
  bytes : List Byte
  c : Counts
  nf : Bool
  sat : Bool
  emax : Int
  deriving DecidableEq, Repr

/-- The Invariant-level partial of a row. -/
def partialGrid (s : State) (p : Part) (g : Int) (xs : List RowPos) (dim : Nat) : GridSum :=
  let os := (List.range dim).map fun c =>
    let cs := xs.map fun x =>
      let v := contribOf s p x c
      gridOfRes g (if v.n ≤ 1 then v.a.toRes else v.a.div (.fin (v.n : Int) 0))
    let sum := gridClip 48 (cs.foldl (fun (t : Int) x => t + x.1.code) 0)
    (sum, cs)
  let all := os.flatMap (·.2)
  { bytes := os.flatMap fun o => bytesOf 6 (pat 48 o.1.1), c := sumC (all.map fun x => x.1.counts),
    nf := all.any fun x => x.1.nf, sat := all.any (fun x => x.1.sat) || os.any (fun o => o.1.2),
    emax := all.foldl (fun (m : Int) x => if m < x.2 then x.2 else m) (-128) }

/-- The grid index of the GR entry that names a table (R281). -/
def gridOfTable (pl : Plan) (tid : Nat) : Nat :=
  (findIx (fun x => x.gtab && decide (x.gtid = tid)) (grEntries pl)).getD 0

/-- Bytes of one embedding gradient entry (R285). -/
def gradLen (pl : Plan) (d : Desc) : Nat := d.dim * if pl.level = 1 then 6 else 2

/-- The partial of one row with its reports, formed on row engine `(r >> SLOG) mod 16`. -/
def partialOf (s : State) (p : Part) (j : Job) (tid row : Nat) (xs : List RowPos) : List Byte × State :=
  match getTbl s p tid with
  | none => ([], s)
  | some t =>
    let blk := blkRow (t.desc.eng row)
    let s := xs.foldl (fun s x => readRow s p blk (tens s p x.grd) x.outRow t.desc.dim) s
    if j.plan.level = 1 then
      let k := gridOfTable j.plan tid
      let o := partialGrid s p (gridExp j k) xs t.desc.dim
      (o.bytes, reportGrid (tally s blk o.c) p k o.nf o.sat o.emax)
    else
      let o := partialRepeat s p xs t.desc.dim
      let s := tally s blk o.2.1
      (o.1, if o.2.2 then report s p (vNonfin ||| srcRow) else s)

/-- The training positions of a row. -/
def positionsOf (pos : List (Nat × List (Nat × RowPos))) (tid row : Nat) : List RowPos :=
  let l := ((pos.find? fun x => x.1 == tid).map (·.2)).getD []
  (l.filter fun x => x.1 == row).map (·.2)

/-- The entries of a round for a destination whose tables the backward exchange carries. -/
def carried (s : State) (p : Part) (j : Job) (g : Nat) (ents : List SplitEnt) : List SplitEnt :=
  ents.filter fun e => backTid s p j.plan g e.tid

/-- The places of rows that only evaluation lookups name: they have no gradient entry (R164, R285). -/
def evalPlaces (pos : List (Nat × List (Nat × RowPos))) (ents : List SplitEnt) : List Nat :=
  (ents.zipIdx.filter fun x => (positionsOf pos x.1.tid x.1.row).isEmpty).map (·.2)

/-- A list without the elements at the given places. -/
def dropAt {α : Type} (l : List α) (at' : List Nat) : List α :=
  (l.zipIdx.filter fun x => !at'.contains x.2).map (·.1)

/-- The partials of the entries of a round: the bytes and their number. -/
def partialsFor (s : State) (p : Part) (j : Job) (pos : List (Nat × List (Nat × RowPos))) (ents : List SplitEnt) :
    List Byte × Nat × State :=
  ents.foldl (fun acc e =>
    let o := partialOf acc.2.2 p j e.tid e.row (positionsOf pos e.tid e.row)
    (acc.1 ++ o.1, acc.2.1 + 1, o.2)) ([], 0, s)

/-- The positions of every table of a group. -/
def groupPositions (s : State) (j : Job) (g : Nat) : List (Nat × List (Nat × RowPos)) :=
  (groupTids j.plan g).map fun tid => (tid, rowPositions s j g tid)

/-- Forms and sends the partials of one round to one destination; the module's own move inside it. -/
def sendPartials (s : State) (p : Part) (g dst round : Nat) : State :=
  match getJob s p with
  | none => s
  | some j =>
    let pos := groupPositions s j g
    let ents := carried s p j g (splitFor (runOf j g) dst round)
    let ev := evalPlaces pos ents
    let o := partialsFor s p j pos (dropAt ents ev)
    let body := padTo 0 (roundUp o.1.length 8) o.1
    if dst = j.plan.lidx then
      modRunS o.2.2 p g fun r => { r with gradIn := r.gradIn ++ [{ src := dst, round := round, body := body, evals := ev }] }
    else sendRound o.2.2 p dst g round o.2.1 0 body

/-- LKG phase 2: the partials of the fixed rounds. -/
def lkgPartials (s : State) (p : Part) (g : Nat) : State :=
  match getJob s p with
  | none => s
  | some j =>
    let s := modRunS s p g fun r => { r with started := r.started ++ [2] }
    let s := sendPartials s p g j.plan.lidx 0
    (groupDsts s p j.plan g).foldl (fun s d => sendPartials (sendPartials s p g d 0) p g d 1) s

/-! ### Owner sums (R167, R168, R299) -/

/-- The index entries of a message that the backward exchange carries. -/
def backEnts (s : State) (p : Part) (pl : Plan) (g : Nat) (m : IdxMsg) : List (Nat × Nat) :=
  m.ents.filter fun e => backTid s p pl g e.1

/-- The gradient-entry lengths of a list of entries. -/
def gradLens (s : State) (p : Part) (pl : Plan) (l : List (Nat × Nat)) : List Nat :=
  l.map fun e => match getTbl s p e.1 with | some t => gradLen pl t.desc | none => 0

/-- Whether a gradient message has come for every index message. -/
def gradsIn (r : LkpRun) : Bool :=
  r.idxIn.all fun m => r.gradIn.any fun x => x.src == m.src && x.round == m.round

/-- The partials of a row by ascending source. -/
def partialsOf (s : State) (p : Part) (pl : Plan) (r : LkpRun) (tid row : Nat) : List (List Byte) :=
  (sortBy (fun m => m.src * 32 + m.round) r.idxIn).filterMap fun m =>
    match r.gradIn.find? (fun x => x.src == m.src && x.round == m.round) with
    | none => none
    | some x =>
      let ents := dropAt (backEnts s p pl r.group m) x.evals
      match findIx (fun e => e == (tid, row)) ents with
      | some k => (cutBody (gradLens s p pl ents) x.body)[k]?
      | none => none

/-- The owner gradient of a row from its partials (R167): its columns, counts, and the reports of the grid. -/
def ownerSum (s : State) (p : Part) (j : Job) (tid row : Nat) (r : LkpRun) : List W32 × State :=
  match getTbl s p tid with
  | none => ([], s)
  | some t =>
    let ps := partialsOf s p j.plan r tid row
    let blk := blkRow (t.desc.eng row)
    if j.plan.level = 1 then
      let k := gridOfTable j.plan tid
      let g := gridExp j k
      let os := (List.range t.desc.dim).map fun c =>
        let cs := ps.map fun b => gridDecode 48 (natOf (slice b (6 * c) 6))
        let tot := gridClip 48 (cs.foldl (fun (n : Int) x => n + x.1) 0)
        let v := toOpalR .away (Num.fin tot.1 (g - 15 - j.ls)).toRes
        (v.1, v.2, tot.2 || cs.any (·.2))
      let s := tally s blk (sumC (os.map fun o => o.2.1))
      let s := reportGrid s p k false (os.any fun o => o.2.2) (-128)
      (os.map (·.1), if os.any (fun o => !(ofOpal o.1).isFinite) then report s p (vNonfin ||| srcRow) else s)
    else
      let os := (List.range t.desc.dim).map fun c =>
        let acc := ps.foldl (fun (a : Cnum) b =>
          let v := r32 (a.1.add (ofPearl (BitVec.ofNat 16 (natOf (slice b (2 * c) 2)))))
          (v.1, a.2.add v.2)) (Num.zero, {})
        let v := toOpalR .away (acc.1.scale (-j.ls)).toRes
        (v.1, acc.2.add v.2, !acc.1.isFinite || !(ofOpal v.1).isFinite)
      let s := tally s blk (sumC (os.map fun o => o.2.1))
      (os.map (·.1), if os.any (fun o => o.2.2) then report s p (vNonfin ||| srcRow) else s)

/-- The rows that the owner sums, each once, in ascending (table, row) order. -/
def ownerRows (s : State) (p : Part) (pl : Plan) (r : LkpRun) : List (Nat × Nat) :=
  let all := r.idxIn.flatMap fun m =>
    match r.gradIn.find? (fun x => x.src == m.src && x.round == m.round) with
    | none => []
    | some x => dropAt (backEnts s p pl r.group m) x.evals
  sortBy (fun e => e.1 * 2 ^ 40 + e.2) (all.foldl (fun l e => if l.contains e then l else l ++ [e]) [])

/-- Sums the partials of a group once they have all come and phase 3 has started; where phase 4 has been issued already, the
updates of the rows become due now (R162). -/
def sumGroup (s : State) (p : Part) (g : Nat) : State :=
  match getJob s p with
  | none => s
  | some j =>
    let r := runOf j g
    if r.started.contains 3 && !r.done.contains 3 && gradsIn r && squallIn s p j g then
      let o := (ownerRows s p j.plan r).foldl (fun (acc : List ((Nat × Nat) × List W32) × State) e =>
        let v := ownerSum acc.2 p j e.1 e.2 r
        (acc.1 ++ [(e, v.1)], v.2)) ([], s)
      modRunS o.2 p g fun r =>
        { r with grads := o.1, done := r.done ++ [3],
                 todo := if r.started.contains 4 then o.1.map (·.1) else r.todo }
    else s

/-- LKG phase 3. -/
def lkgSums (s : State) (p : Part) (g : Nat) : State :=
  sumGroup (modRunS s p g fun r => { r with started := r.started ++ [3] }) p g

/-- A backward message arrives at the owner (R286, R299). -/
def gradArrive (s : State) (p : Part) (m : RMsg) : State :=
  match getJob s p with
  | none => s
  | some j =>
    let g := m.group.toNat
    if !epochOk j m.epoch then staleMsg s p m.src.toNat m.round
    else
      match (runOf j g).idxIn.find? (fun x => x.src == m.src.toNat && x.round == m.round) with
      | none => badFormat s p m.src.toNat m.round
      | some x =>
        let ents := dropAt (backEnts s p j.plan g x) m.evals
        if ents.length ≠ m.n ∨ m.body.length ≠ roundUp (total (gradLens s p j.plan ents)) 8 then
          badFormat s p m.src.toNat m.round
        else
          sumGroup (modRunS s p g fun r =>
            if r.gradIn.any (fun y => y.src == m.src.toNat && y.round == m.round) then r
            else { r with gradIn := r.gradIn ++ [{ src := m.src.toNat, round := m.round, body := m.body, evals := m.evals }] }) p g

/-- A spill-round message: a pull, which its LEFT field marks, is answered by its round; entries are taken as the
forward or backward messages they are (R148, R150). -/
def spillArrive (s : State) (p : Part) (kind : RKind) (m : RMsg) : State :=
  match getJob s p with
  | none => s
  | some j =>
    let g := m.group.toNat
    if !epochOk j m.epoch then staleMsg s p m.src.toNat m.round
    else if m.left ≠ 0 then
      let l := splitFor (runOf j g) m.src.toNat m.round
      match kind with
      | .gradient => sendPartials s p g m.src.toNat m.round
      | _ => sendRound s p m.src.toNat g m.round l.length 0 (l.flatMap fun e => idxBytes e.tid e.row)
    else
      match kind with
      | .index => indexArrive s p m
      | .payload => payloadArrive s p m
      | .gradient => gradArrive s p m

/-! ### Row updates of a group (R162) -/

/-- LKG phase 4: the updates of the group's rows become due; P11 to P15 and the bias
products of the tables are formed for the step (R170). -/
def lkgUpdates (s : State) (p : Part) (g : Nat) : State :=
  match getJob s p with
  | none => s
  | some j =>
    if j.vetoed then s
    else
      let s := modRunS s p g fun r => { r with started := r.started ++ [4], todo := r.grads.map (·.1) }
      (groupTids j.plan g).foldl (fun s tid =>
        if trainTid j.plan g tid then
          modTbl s p tid fun t => { t with par := deviceParams t.par t.desc.dim (lsOf s p) }
        else s) s

/-- Whether an index entry that has come names a row and has no payload entry yet: a fetch that has still to read it. -/
def Job.unread (j : Job) (tid row : Nat) : Bool :=
  j.runs.any fun r => r.idxIn.any fun m => m.ents.zipIdx.any fun x => x.1 == (tid, row) && (tabFind m.pay x.2).isNone

/-- The access of a row update: its pinned record. -/
def pinSpan (s : State) (p : Part) (tid row : Nat) : List (Nat × Nat × Bool) :=
  match getTbl s p tid with
  | none => []
  | some t => (t.pins.filter fun q => q.row == row).map fun q => (q.addr, t.desc.size, true)

/-- One row update of a group that is due: after the gate, once every fetch of the record has read it (R152, R162). -/
def updateRow (s : State) (p : Part) (g tid row : Nat) : State :=
  match getJob s p with
  | none => s
  | some j =>
    let r := runOf j g
    if j.gate && !j.vetoed && r.todo.contains (tid, row) && !j.unread tid row then
      match r.grads.find? (fun x => x.1 == (tid, row)) with
      | none => s
      | some x =>
        whenOpen s p (pinSpan s p tid row) fun s =>
          modRunS (rowUpdate s p tid row (x.2.map ofOpal)) p g fun r => { r with todo := r.todo.erase (tid, row) }
    else s

/-! ### Completion of a phase (R249, type 1) -/

/-- Whether a phase of a group has completed on this module, its rounds included. -/
def phaseDone (s : State) (p : Part) (j : Job) (g ph : Nat) : Bool :=
  let r := runOf j g
  let srcs := groupSrcs s p j.plan g
  let idx : Bool := srcs.all fun l =>
    r.idxIn.any (fun m => m.src == l && m.round == 0) && r.idxIn.any (fun m => m.src == l && m.round == 1)
    && spillIn r l
  r.started.contains ph &&
  (match ph with
  | 0 => idx
  | 1 => idx && r.pooled && r.idxIn.all (fun m => m.sent || m.ents.isEmpty)
  | 2 => gradsIn r
  | 3 => r.done.contains 3
  | _ => r.done.contains 3 && r.todo.isEmpty)

/-! ### Forecast hints (R208, R209) -/

/-- Queues the hint entries of a message, or drops and counts them (R209). -/
def hintArrive (s : State) (p : Part) (m : RMsg) : State :=
  match getJob s p with
  | none => s
  | some j =>
    let first := nextStep s p
    let step := first + (m.step + 65536 - first % 65536) % 65536
    let sealed' : Bool := decide (32768 ≤ (m.step + 65536 - first % 65536) % 65536)
    (idxEntries m.body m.n).foldl (fun s e =>
      match getJob s p with
      | none => s
      | some j' =>
        let ok : Bool := match getTbl s p e.1 with
          | some t => t.desc.tier == 2 && decide (e.2 < t.desc.rows)
              && decide (ownerOf t.map t.desc e.2 = j.plan.lidx)
          | none => false
        if ok && epochOk j m.epoch && !sealed' && decide (j'.hints.length < 1048576) then
          modJob s p fun j => { j with hints := j.hints ++ [{ tid := e.1, row := e.2, step := step }] }
        else tblCount s p e.1 6 1) s

/-- The unique rows of a merged list that training lookups name, in the order of R145. -/
def trainRows (j : Job) (g : Nat) (x : Sorted) : List Nat :=
  let fs := (groupLks j.plan g).filter fun k => k.tid == x.tid && !k.eval
  let named := (x.inv.filter fun f => fs.any fun k => k.feat == f.1).flatMap (·.2)
  (x.uniq.zipIdx.filter fun y => named.contains y.2).map (·.1)

/-- Sends the hints of a group of an accepted and sorted batch (R208). -/
def sendHints (s : State) (p : Part) (step g : Nat) : State :=
  match getJob s p with
  | none => s
  | some j =>
    let rows := (groupTids j.plan g).flatMap fun tid =>
      match getTbl s p tid, j.sorted.find? (fun x => x.step == step && x.group == g && x.tid == tid) with
      | some t, some x => if t.desc.tier = 2 then (trainRows j g x).map fun r => (tid, r, ownerOf t.map t.desc r) else []
      | _, _ => []
    (List.range j.plan.nmod).foldl (fun s d =>
      let l := rows.filter fun x => x.2.2 == d
      let body := l.flatMap fun x => idxBytes x.1 x.2.1
      if l.isEmpty then s
      else if d = j.plan.lidx then
        hintArrive s p { src := BitVec.ofNat 14 d, group := BitVec.ofNat 6 g, round := 0x80, n := l.length,
                         step := step % 65536, epoch := j.epoch, body := body }
      else sendTo s p d 0x11 (roundBytes g 0x80 l.length 0 step j.epoch body)) s

/-- A sort unit reads the index arrays of its list from the intake slot. -/
def readLists (s : State) (j : Job) (w : SortJob) : State :=
  ((groupLks j.plan w.group).filter fun k => k.tid == w.tid).foldl (fun s k =>
    match (batchSects (slotRd s j.plan w.step)).find? (fun x => x.feat == k.feat) with
    | none => s
    | some x => spdAccess s (slotBase j.plan w.step + x.idxo) (8 * x.npos) false) s

/-- A sort unit finishes its list: the results, and once the whole batch is sorted its hints. -/
def sortEnd (s : State) (su : Nat) : State :=
  match tabFind s.sorts su with
  | none => s
  | some w =>
    if w.waiting then s
    else
      let s := { s with sorts := tabErase s.sorts su }
      match getJob s w.part with
      | none => s
      | some j =>
        if !j.accepted.contains w.step then s
        else
          let s := readLists s j w
          let s := modJob s w.part fun j => { j with sorted := j.sorted ++ [sortList s j w.step w.group w.tid] }
          match getJob s w.part with
          | none => s
          | some j =>
            if batchSorted j w.step then
              (sortedOnce ((mergedLists j.plan).map (·.1))).foldl (fun s g => sendHints s w.part w.step g) s
            else s

/-- A queued hint is served: the lowest step first, in arrival order within a step. It stays queued while its segment has
no free slot. -/
def hintServe (s : State) (p : Part) : State :=
  match getJob s p with
  | none => s
  | some j =>
    match (sortBy (·.step) j.hints).head? with
    | none => s
    | some h =>
      let r := serveHint s p h
      if r.2 then modJob r.1 p fun j => { j with hints := j.hints.erase h } else r.1

end Sys2Proof.Machine
end

