-- ==== Sys2Proof/Machine/Dma.lean ====
section
/-! DEFINITION. DMA: descriptors and their checks, transfers, visibility flushes and statuses (R399 to R426). -/

namespace Sys2Proof.Machine

/-! ### Descriptor fields (R401, R402) -/

/-- Word `i` of a descriptor. -/
def dWord (d : BitVec 512) (i : Nat) : Nat := bits (64 * i + 63) (64 * i) d.toNat
def dOwn (d : BitVec 512) : Bool := bit 63 (dWord d 0)
def dOpc (d : BitVec 512) : Nat := bits 62 56 (dWord d 0)
def dCc (d : BitVec 512) : Bool := bit 55 (dWord d 0)
def dVis (d : BitVec 512) : Nat := bits 54 53 (dWord d 0)
def dCqe (d : BitVec 512) : Bool := bit 52 (dWord d 0)
def dSrch (d : BitVec 512) : Bool := bit 51 (dWord d 0)
def dDsth (d : BitVec 512) : Bool := bit 50 (dWord d 0)
def dRaw (d : BitVec 512) : Bool := bit 49 (dWord d 0)
def dTag (d : BitVec 512) : Nat := bits 47 32 (dWord d 0)
def dLen (d : BitVec 512) : Nat := bits 31 0 (dWord d 0)
def dSrc (d : BitVec 512) : Nat := dWord d 1
def dDst (d : BitVec 512) : Nat := dWord d 2
def dSwrap (d : BitVec 512) : Nat := bits 5 0 (dWord d 3)
def dDwrap (d : BitVec 512) : Nat := bits 13 8 (dWord d 3)

/-- Whether a descriptor's source is a device range. -/
def srcDev (d : BitVec 512) : Bool := dOpc d == 1 && !dSrch d
/-- Whether a descriptor's destination is a device range. -/
def dstDev (d : BitVec 512) : Bool := (dOpc d == 1 || dOpc d == 2 || dOpc d == 4) && !dDsth d

/-! ### Channels -/

/-- A channel. -/
def getChan (s : State) (c : Nat) : Chan := tabGet {} s.chans c

/-- Stores a channel. -/
def putChan (s : State) (c : Nat) (v : Chan) : State := { s with chans := tabSet s.chans c v }

/-- The port of a channel's ring. -/
def chanPort (s : State) (c : Nat) : Bool :=
  match (getChan s c).bound with
  | some r => portOf (getRing s r.toNat).fn
  | none => false

/-- The function whose ring a channel serves. -/
def chanFn (s : State) (c : Nat) : Nat :=
  match (getChan s c).bound with
  | some r => (getRing s r.toNat).fn
  | none => 0xFFFF

/-! ### Wrapped ranges and address checks (R404, R405, R411) -/

/-- The pieces of a possibly wrapped range. -/
def wrapPieces (a w len : Nat) : List (Nat × Nat) :=
  if w = 0 then [(a, len)]
  else
    let off := a % 2 ^ w
    let first := Nat.min len (2 ^ w - off)
    if first = len then [(a, len)] else [(a, first), (a - off, len - first)]

/-- The address of byte `o` of a possibly wrapped range. -/
def wrapAddr (a w o : Nat) : Nat := if w = 0 then a + o else a - a % 2 ^ w + (a % 2 ^ w + o) % 2 ^ w

/-- Whether a wrap size breaks its rule. -/
def wrapBad (w len : Nat) : Bool := decide (w ≠ 0) && (decide (w < 6) || decide (40 < w) || decide (2 ^ w < len))

/-- Whether a descriptor may reach 64 bytes of device memory (R197, R198, R405, R514). -/
def devOk (s : State) (p : Part) (write : Bool) (a : Nat) : Bool :=
  let td := nth 0 s.tdir p.toNat
  match tierOf a with
  | some 0 => decide (a + 64 ≤ t0End) && !(write && decide (dualBase ≤ a ∧ a < planBase))
  | some 1 => inWindow s p 1 a 64 && decide (a < t1Resv)
      && !(write && decide (td ≠ 0 ∧ td ≤ a ∧ a < td + 2 ^ 29))
  | some k => inWindow s p k a 64
  | none => false

/-- The offset of the first 64 bytes of a range that fall outside, where there are any; a wrapped buffer must satisfy
the check whole, and where only the rest of it fails, the offset is not given. -/
def rangeBad (s : State) (p : Part) (write : Bool) (a w len : Nat) : Option Nat :=
  if len = 0 then none
  else
    match ((List.range (len / 64)).map (· * 64)).find? fun o => !devOk s p write (wrapAddr a w o) with
    | some o => some o
    | none =>
      if w ≠ 0 ∧ (List.range (2 ^ w / 64)).any (fun i => !devOk s p write (a - a % 2 ^ w + 64 * i)) then some (Config.wrapOutside a w)
      else none

/-- Whether a field that the opcode does not use, or a reserved bit, is nonzero, or a field breaks its opcode's rule
(R403, R410). -/
def descInvalid (d : BitVec 512) : Bool :=
  let o := dOpc d
  let noSrc : Bool := decide (o ≠ 1)
  let noDst : Bool := decide (o = 0 ∨ o = 3)
  decide (4 < o) || bit 48 (dWord d 0) || decide (dVis d = 3)
  || decide (dWord d 3 / 2 ^ 14 ≠ 0) || decide (bits 7 6 (dWord d 3) ≠ 0)
  || (decide (o ≠ 2) && decide (dWord d 4 ≠ 0)) || decide (dWord d 5 ≠ 0) || decide (dWord d 6 ≠ 0)
  || (noSrc && (decide (dSrc d ≠ 0) || dSrch d || decide (dSwrap d ≠ 0)))
  || (noDst && (decide (dDst d ≠ 0) || dDsth d || decide (dDwrap d ≠ 0) || dRaw d))
  || (decide (o = 0 ∨ o = 3) && decide (dLen d ≠ 0)) || (decide (o = 4) && decide (dLen d < 128))
  || wrapBad (dSwrap d) (dLen d) || wrapBad (dDwrap d) (dLen d)

/-- How a descriptor fails before it moves a byte: status and offset (R410, R411). -/
def descFail (s : State) (p : Part) (d : BitVec 512) : Option (Nat × Nat) :=
  if descInvalid d then some (stInvalid, 0)
  else if dLen d % 64 ≠ 0 ∨ dSrc d % 64 ≠ 0 ∨ dDst d % 64 ≠ 0 then some (stAlign, 0)
  else
    let a := if srcDev d then rangeBad s p false (dSrc d) (dSwrap d) (dLen d) else none
    let b := if dstDev d then rangeBad s p true (dDst d) (dDwrap d) (dLen d) else none
    match a, b with
    | some x, some y => some (stBuserr, Nat.min x y)
    | some x, none => some (stBuserr, x)
    | none, some y => some (stBuserr, y)
    | none, none => none

/-! ### Moving bytes (R406, R412 to R414) -/

/-- Undefined bytes: free values over a range of device memory. -/
def scramble (s : State) (a n : Nat) : State :=
  let g := takeFree s
  wr g.2 a ((List.range n).map fun i => Config.freeByte g.1 (a + i))

/-- How far a transfer has come: the bytes so far, the first failing offset with its status. -/
structure Moved where
  bytes : List Byte
  fail : Option (Nat × Nat) := none
  deriving DecidableEq, Repr

/-- The first failure of two. -/
def firstFail (a b : Option (Nat × Nat)) : Option (Nat × Nat) :=
  match a, b with
  | some x, some y => if y.1 < x.1 then b else a
  | some _, none => a
  | none, b => b

/-- The first 64 bytes of a piece whose read meets an uncorrectable error, as an offset of the piece (R130, R228). -/
def badOffset (s : State) (a n : Nat) : Option Nat :=
  ((List.range (n / 64)).map (· * 64)).find? fun o => badRange s (a + o) 64

/-- Reads one piece of device memory at offset `o` of the transfer. -/
def readPiece (s : State) (p : Part) (plan raw : Bool) (blk a n o : Nat) : Moved × State :=
  let s := chargeMem s p a n blk false
  let bad := (badOffset s a n).map fun x => (o + x, stBuserr)
  if raw || !inDram a then ({ bytes := s.mem.read a n, fail := bad }, s)
  else
    let r := rdChecked s p plan srcDma blk a n
    let ck := r.2.2.map fun b => (if b < a then o else o + (b - a), stCksum)
    ({ bytes := r.1, fail := firstFail bad ck }, r.2.1)

/-- The logical pages of a T3 range. -/
def pagesOf (a n : Nat) : List Nat :=
  if n = 0 then [] else
    (List.range ((a + n - 1 - t3Base) / 16384 - (a - t3Base) / 16384 + 1)).map fun i => (a - t3Base) / 16384 + i

/-- Writes one page's part of a T3 range, refused while 8 or fewer erased bands remain (R225, R406). -/
def writeT3 (s : State) (p : Part) (a : Nat) (bs : List Byte) (o : Nat) : State × Option (Nat × Nat) :=
  (pagesOf a bs.length).foldl (fun acc lp =>
    match acc.2 with
    | some _ => acc
    | none =>
      let s := acc.1
      let lo := Nat.max a (t3Base + 16384 * lp)
      let hi := Nat.min (a + bs.length) (t3Base + 16384 * (lp + 1))
      if erasedBands s.flash ≤ 8 then (raiseM s evFtlFull [lp], some (o + (lo - a), stBuserr))
      else
        let s := winAdd (charge s p 3 16384 (blkDma 0)) 57 16384
        let s := { s with mem := s.mem.write lo (slice bs (lo - a) (hi - lo)) }
        (healPages (programPages s none [lp]) (if hi - lo = 16384 then [lp] else []), none)) (s, none)

/-- Writes one piece of device memory at offset `o` of the transfer. -/
def writePiece (s : State) (p : Part) (plan raw : Bool) (blk a : Nat) (bs : List Byte) (o : Nat) :
    State × Option (Nat × Nat) :=
  let s := chargeMem s p a bs.length blk true
  match tierOf a with
  | some 3 => writeT3 s p a bs o
  | _ =>
    let off := ((granulesOf a bs.length).find? (spdOff s)).map fun g => (o + (g - a), stBuserr)
    if raw then (wr s a bs, off)
    else
      let r := wrChecked s p plan srcDma blk a bs
      (r.1, firstFail off (r.2.map fun b => (o + (b - a), stCksum)))

/-- Reads a possibly wrapped device range. -/
def readRange (s : State) (p : Part) (plan raw : Bool) (blk a w len : Nat) : Moved × State :=
  (wrapPieces a w len).foldl (fun acc x =>
    let o := acc.1.bytes.length
    let r := readPiece acc.2 p plan raw blk x.1 x.2 o
    ({ bytes := acc.1.bytes ++ r.1.bytes, fail := firstFail acc.1.fail r.1.fail }, r.2)) ({ bytes := [] }, s)

/-- Writes a possibly wrapped device range; the bytes at and beyond a failing offset are undefined. -/
def writeRange (s : State) (p : Part) (plan raw : Bool) (blk a w : Nat) (bs : List Byte) : State × Option (Nat × Nat) :=
  let r := (wrapPieces a w bs.length).foldl (fun (acc : (State × Option (Nat × Nat)) × Nat) x =>
    let q := writePiece acc.1.1 p plan raw blk x.1 (slice bs acc.2 x.2) acc.2
    ((q.1, firstFail acc.1.2 q.2), acc.2 + x.2)) ((s, none), 0)
  r.1

/-- Counts bytes that cross a port: sent (transmit channel, bytes written) or received. -/
def portBytes (s : State) (p : Part) (pb : Bool) (n : Nat) (write : Bool) : State :=
  let s := count s (blkPort pb) 2 (if write then 2 else 1) n (atPart p)
  winAdd s (2 * b2n pb + if write then 0 else 1) n

/-- Posts data to the host over possibly wrapped pieces, with Relaxed Ordering. -/
def hostRange (s : State) (p : Part) (pb : Bool) (a w : Nat) (bs : List Byte) : State :=
  let r := (wrapPieces a w bs.length).foldl (fun (acc : State × Nat) x =>
    (hostWrite acc.1 pb x.1 (slice bs acc.2 x.2) true, acc.2 + x.2)) (s, 0)
  portBytes r.1 p pb bs.length true

/-! ### Descriptors in progress (R407) -/

/-- The first run of a channel that has not started, where it may start now: no unfinished Clasp or export buffer
stands before it, and a Clasp has no earlier run whose writes have not all been issued. -/
def nextRun : List DescRun → Bool → Option DescRun
  | [], _ => none
  | r :: t, quiet =>
    if !r.started then
      if dOpc r.d = 3 ∧ !quiet then none else some r
    else if (dOpc r.d = 3 && !r.flushed) || (dOpc r.d = 4 && r.status.isNone) then none
    else nextRun t (quiet && r.status.isSome)

/-- Replaces a run of a channel. -/
def setRun (s : State) (c : Nat) (r r' : DescRun) : State :=
  let v := getChan s c
  let l := match findIx (fun x => x == r) v.prog with
    | some i => setNth v.prog i r'
    | none => v.prog
  putChan s c { v with prog := l }

/-- Whether a channel may start a descriptor: its port is not in hold. -/
def chanOpen (s : State) (c : Nat) : Bool :=
  match (getChan s c).bound with
  | some _ => !(getPort s (chanPort s c)).hold
  | none => true

/-- Whether the destination of a descriptor is an operand range of a queued deferred entry, or lies behind a write that waits
for one: the transfer is held until that entry has run (R68). -/
def dstHeld (s : State) (d : BitVec 512) : Bool :=
  dstDev d && (wrapPieces (dDst d) (dDwrap d) (dLen d)).any fun x =>
    decide (x.1 < t0End) && (hitsDeferred s x.1 x.2 || hitsParked s x.1 x.2)

/-- Whether a descriptor writes into the veto-token staging area, which only the control-lane engine and the step sequencer
write: the write is ignored and raises a programming error (R257). -/
def hitsStaging (d : BitVec 512) : Bool :=
  dstDev d && (wrapPieces (dDst d) (dDwrap d) (dLen d)).any fun x => overlaps x.1 x.2 tokBase 0x8000

/-- The accesses to device memory of a descriptor. -/
def dmaSpans (d : BitVec 512) : List (Nat × Nat × Bool) :=
  (if srcDev d then (wrapPieces (dSrc d) (dSwrap d) (dLen d)).map fun x => (x.1, x.2, false) else [])
  ++ if dstDev d then (wrapPieces (dDst d) (dDwrap d) (dLen d)).map fun x => (x.1, x.2, true) else []

/-- Starts the next run of a channel where its opcode is the given one: the checks, then the transfer `f`. -/
def startRun (s : State) (c opc : Nat) (f : State → DescRun → State × Option Nat × Nat) : State :=
  let v := getChan s c
  if !chanOpen s c then s
  else
    match nextRun v.prog true with
    | none => s
    | some r =>
      if dOpc r.d ≠ opc ∧ !(opc = 0 ∧ 4 < dOpc r.d) then s
      else if (descFail s v.part r.d).isNone && dstHeld s r.d then s
      else
        whenOpen s v.part (if (descFail s v.part r.d).isNone then dmaSpans r.d else []) fun s =>
        let s := count s (blkDma (c / 128)) 0 2 1 (atPart v.part)
        match descFail s v.part r.d with
        | some x =>
          let s := if hitsStaging r.d then raise s v.part evProgError [dDst r.d] else s
          setRun s c r { r with started := true, status := some x.1, doneb := x.2 }
        | none =>
          let o := f s r
          setRun o.1 c r { r with started := true, status := o.2.1, doneb := o.2.2 }

/-- The status and DONEB of a transfer of `len` bytes. -/
def outcome (len : Nat) (x : Option (Nat × Nat)) : Option Nat × Nat :=
  match x with
  | some e => (some e.2, e.1)
  | none => (some stDone, len)

/-- COPY (R403, R412): host data comes with the command, with the offset at which a host read failed. -/
def dmaCopy (s : State) (c : Nat) (data : List Byte) (fail : Option Nat) : State :=
  startRun s c 1 fun s r =>
    let v := getChan s c
    let p := v.part
    let blk := blkDma (c / 128)
    let plan := r.pdesc.isSome
    let len := dLen r.d
    let pb := chanPort s c
    let m : Moved × State :=
      if srcDev r.d then readRange s p plan (dRaw r.d) blk (dSrc r.d) (dSwrap r.d) len
      else ({ bytes := (padTo 0 len data).take len, fail := fail.map fun o => (o / 64 * 64, stBuserr) },
            portBytes s p pb len false)
    let good := match m.1.fail with
      | some e => if e.2 = stCksum then Nat.min len ((e.1 + 4096 - (if srcDev r.d then (dSrc r.d + e.1) % 4096 else 0))) else e.1
      | none => len
    let s := m.2
    if dstDev r.d then
      let w := writeRange s p plan (dRaw r.d) blk (dDst r.d) (dDwrap r.d) (m.1.bytes.take good)
      let bad := firstFail m.1.fail w.2
      let s := match bad with
        | some e =>
          let from' := if e.2 = stCksum then good else e.1
          (wrapPieces (wrapAddr (dDst r.d) (dDwrap r.d) from') (dDwrap r.d) (len - from')).foldl
            (fun s x => scramble s x.1 x.2) w.1
        | none => w.1
      (s, outcome len bad)
    else
      (hostRange s p pb (dDst r.d) (dDwrap r.d) (m.1.bytes.take good), outcome len m.1.fail)

/-- `n` bytes of a repeated 8-byte pattern. -/
def patBytes (v n : Nat) : List Byte := (List.range (n / 8)).flatMap fun _ => bytesOf 8 v

/-- FILL. -/
def dmaFill (s : State) (c : Nat) : State :=
  startRun s c 2 fun s r =>
    let p := (getChan s c).part
    let len := dLen r.d
    let bs := patBytes (dWord r.d 4) len
    if dstDev r.d then
      let w := writeRange s p r.pdesc.isSome (dRaw r.d) (blkDma (c / 128)) (dDst r.d) (dDwrap r.d) bs
      let s := match w.2 with
        | some e =>
          if e.2 = stCksum then w.1
          else (wrapPieces (wrapAddr (dDst r.d) (dDwrap r.d) e.1) (dDwrap r.d) (len - e.1)).foldl
            (fun s x => scramble s x.1 x.2) w.1
        | none => w.1
      (s, outcome len w.2)
    else (hostRange s p (chanPort s c) (dDst r.d) (dDwrap r.d) bs, outcome len none)

/-- NOP, CLASP: nothing moves. A reserved opcode completes here too, with INVALID (R410). -/
def dmaNone (s : State) (c opc : Nat) : State := startRun s c opc fun s _ => (s, some stDone, 0)

/-- EXPDST: the buffer waits for the export's walk (R426). -/
def dmaExpdst (s : State) (c : Nat) : State := startRun s c 4 fun s _ => (s, none, 0)

/-! ### Fetch, completion, flush and status (R407, R408, R412 to R416, R419, R420) -/

/-- A ring channel reads its next descriptor. -/
def descFetch (s : State) (c : Nat) (d : BitVec 512) : State :=
  let v := getChan s c
  match v.bound with
  | none => s
  | some rn =>
    let r := getRing s rn.toNat
    if !r.enable || r.err || decide (r.fill = 0) || (getPort s (portOf r.fn)).hold || (getFn s r.fn).det
        || decide (r.grant = 0) || decide (4 ≤ v.prog.length) || decide (s.pwr.mst ≠ .active) || s.pwr.pending.isSome then s
    else
      let run : DescRun := { d := d, idx := r.dev, ring := some rn }
      let s := putRing s rn.toNat { r with dev := (r.dev + 1) % 2 ^ 32, grant := r.grant - 1 }
      if dOwn d then putChan s c { v with prog := v.prog ++ [run] }
      else
        let s := putChan s c { v with prog := v.prog ++ [{ run with started := true, status := some stInvalid,
                                                                    complete := true, flushed := true }] }
        raiseF s evDmaOwn stInvalid r.fn (some v.part) [rn.toNat, run.idx]

/-- A descriptor read fails: the ring stops once the statuses of earlier descriptors have been written (R416). -/
def descFetchFail (s : State) (c : Nat) : State :=
  match (getChan s c).bound with
  | none => s
  | some rn =>
    let r := getRing s rn.toNat
    if r.enable && !r.err && (getChan s c).prog.isEmpty then
      raiseF (putRing s rn.toNat { r with err := true }) evDmaFetch stBuserr r.fn (some (getChan s c).part) [rn.toNat, r.dev]
    else s

/-- Whether a run ends with a flush. -/
def needsFlush (r : DescRun) : Bool := dCc r.d || dOpc r.d == 3

/-- The requests of the oldest ended run have completed: its errors are reported; a plan descriptor is done. -/
def transferComplete (s : State) (c : Nat) : State :=
  let v := getChan s c
  match v.prog.find? (fun r => r.status.isSome && !r.complete) with
  | none => s
  | some r =>
    let st := r.status.getD 0
    let s := if st = stDone then s else count s (blkDma (c / 128)) 3 8 1 (atPart v.part)
    let fn := chanFn s c
    let s :=
      if st = stBuserr then raiseF s evDmaBuserr st fn (some v.part) [c, r.doneb]
      else if st = stInvalid then raiseF s evDmaInvalid st fn (some v.part) [c, r.idx]
      else if st = stAlign then raiseF s evDmaAlign st fn (some v.part) [c, r.idx]
      else s
    match r.pdesc with
    | some k =>
      let s := putChan s c { v with prog := v.prog.erase r }
      if st = stDone then s else raise (report s v.part (vCksum ||| srcDma)) v.part evDmaPlan [k, c]
    | none => setRun s c r { r with complete := true, flushed := !needsFlush r }

/-- Invalidates the read buffers of both windows. -/
def flushWindows (s : State) : State := { s with winA := {}, winB := {} }

/-- The flush of a Clasp or CC descriptor ends (R419, R420). -/
def claspFlush (s : State) (c : Nat) (ok : Bool) : State :=
  let v := getChan s c
  match v.prog.find? (fun r => r.complete && !r.flushed) with
  | none => s
  | some r =>
    let s := if dVis r.d = 0 then s else flushWindows s
    if dVis r.d ≠ 1 ∧ !ok then
      raiseF (setRun s c r { r with flushed := true, status := some stBuserr, doneb := 0 }) evDmaBuserr stBuserr (chanFn s c)
        (some v.part) [c, 0]
    else setRun s c r { r with flushed := true }

/-- The completion entry of a descriptor in its channel's notification ring. -/
def dcqEntry (s : State) (v : Chan) (rn : Nat) (r : DescRun) (st : Nat) : State :=
  let q := getRing s v.dcq
  if dCqe r.d ∧ q.enable ∧ q.kind = 1 then
    ringWrite s v.dcq (bytesOf 2 (dTag r.d) ++ bytesOf 2 rn ++ bytesOf 4 r.idx ++ bytesOf 1 st ++ bytesOf 1 (dOpc r.d)
      ++ bytesOf 6 0 ++ bytesOf 8 r.doneb ++ bytesOf 8 r.aux)
  else s

/-- Writes the status of a run of a ring channel: word 7, then word 0, then the notification entry (R408). -/
def writeStatus (s : State) (c rn : Nat) (r : DescRun) : State :=
  let v := getChan s c
  let ring := getRing s rn
  let pb := portOf ring.fn
  let a := ring.base + 64 * (r.idx % 2 ^ ring.size)
  let st := r.status.getD 0
  let s := hostWrite s pb (a + 56) (bytesOf 8 (r.doneb % 2 ^ 32 + r.aux % 2 ^ 24 * 2 ^ 32 + st * 2 ^ 56)) false
  let s := hostWrite s pb a (bytesOf 8 (dWord r.d 0 % 2 ^ 63)) false
  dcqEntry s v rn r st

/-- The oldest run of a ring channel writes its status once it is complete and flushed; a full notification ring holds
it back. -/
def statusWrite (s : State) (c : Nat) : State :=
  let v := getChan s c
  match v.prog with
  | [] => s
  | r :: t =>
    match r.ring with
    | none => s
    | some rn =>
      let q := getRing s v.dcq
      if r.complete && r.flushed && !(dCqe r.d && q.enable && q.full 0) then
        putChan (writeStatus s c rn.toNat r) c { v with prog := t }
      else s

/-- Ends every run of a ring channel with a status, written at once or kept for the summary (R390, R424, R425):
runs in progress keep the bytes completed. -/
def endRuns (s : State) (c status : Nat) : State :=
  let v := getChan s c
  let pb := chanPort s c
  let s := putChan s c { v with prog := [] }
  v.prog.foldl (fun s r =>
    match r.ring with
    | none => s
    | some rn =>
      let done : Bool := r.complete && r.flushed
      let r := if done then r else { r with status := some status, doneb := if r.started then r.doneb else 0 }
      let q := getPort s pb
      if q.hold then
        let k : Kept := { ring := rn, isDesc := true, status := r.status.getD 0, idx := r.idx, tag := dTag r.d,
                          a := r.doneb, b := 0, part := v.part }
        putPort s pb { q with kept := q.kept ++ [k] }
      else writeStatus s c rn.toNat r) s

/-- The destination of a run cut by host-loss hold is undefined over its whole range in device memory (R424). -/
def cutRuns (s : State) (c : Nat) : State :=
  (getChan s c).prog.foldl (fun s r =>
    if r.started && !r.complete && dstDev r.d then
      (wrapPieces (dDst r.d) (dDwrap r.d) (dLen r.d)).foldl (fun s x => scramble s x.1 x.2) s
    else s) s

/-- DMAQ: queues a descriptor of the DESC section on a plan channel (R246). -/
def queueDesc (s : State) (p : Part) (k c : Nat) : State :=
  match getJob s p with
  | none => s
  | some j =>
    let v := getChan s c
    if v.part = p ∧ v.use = 1 then
      putChan s c { v with prog := v.prog ++ [{ d := nth 0 j.plan.descs k, idx := k, pdesc := some k }] }
    else s

/-- Whether every plan descriptor queued so far has completed (R422). -/
def planDmaDone (s : State) (p : Part) : Bool :=
  s.chans.all fun kv => !(decide (kv.2.part = p) && decide (kv.2.use = 1)) || kv.2.prog.isEmpty

end Sys2Proof.Machine
end

