-- ==== Sys2Proof/Machine/Exchange.lean ====
section
/-! DEFINITION. The dense gradient exchange: RQ, RF, AG and CH entries, their messages, the release and update of
chunks, the copies, and the digests of dense state (R269 to R298, R537). -/

namespace Sys2Proof
open Machine

/-! ### Exchange entries (R271) -/

def XEntry.qrnd (x : XEntry) : Bool := bit 507 x.bits.toNat
def XEntry.crnd (x : XEntry) : Bool := bit 506 x.bits.toNat
def XEntry.opt (x : XEntry) : Nat := x.fld 503 496
def XEntry.din (x : XEntry) : Nat := x.fld 461 455
def XEntry.dout (x : XEntry) : Nat := x.fld 454 446
def XEntry.npar (x : XEntry) : Nat := x.fld 413 374
def XEntry.wgt (x : XEntry) : Nat := x.fld 332 312
def XEntry.state (x : XEntry) : Nat := x.fld 311 291
def XEntry.res (x : XEntry) : Nat := x.fld 290 270
def XEntry.pres (x : XEntry) : Nat := x.fld 269 249
def XEntry.linke (x : XEntry) : Nat := x.fld 227 208
def XEntry.peer (x : XEntry) : Nat := x.fld 207 194
def XEntry.recv (x : XEntry) : Bool := bit 193 x.bits.toNat
def XEntry.xbuf (x : XEntry) : Nat := x.fld 192 172
def XEntry.pent (x : XEntry) : Nat := x.fld 171 152

/-! ### Units, chunks and shards (R272, R273) -/

/-- Elements of a unit: a channel, or a block of 64. -/
def XEntry.ul (x : XEntry) : Nat := if x.kch = 0 then 64 else x.kch

/-- Units of the tensor. -/
def XEntry.nu (x : XEntry) : Nat := ceilDiv x.npar x.ul

/-- First piece and length of part `i` of `n` things cut into `m` parts, the first parts one longer. -/
def cutFirst (n m i : Nat) : Nat := i * (n / m) + Nat.min i (n % m)
def cutLen (n m i : Nat) : Nat := n / m + if i < n % m then 1 else 0

/-- First unit and length of chunk `i`. -/
def XEntry.chunk (x : XEntry) (i : Nat) : Nat × Nat := (cutFirst x.nu x.din i, cutLen x.nu x.din i)

/-- First unit and length of the shard of member position `q`. -/
def XEntry.shard (x : XEntry) (q : Nat) : Nat × Nat :=
  let c := x.chunk (q % x.din)
  (c.1 + cutFirst c.2 x.dout (q / x.din), cutLen c.2 x.dout (q / x.din))

/-- The member position whose shard holds a unit. -/
def XEntry.ownerPos (x : XEntry) (u : Nat) : Nat :=
  ((List.range (x.din * x.dout)).find? fun q => decide ((x.shard q).1 ≤ u ∧ u < (x.shard q).1 + (x.shard q).2)).getD 0

/-- The elements of unit `u`: first and count, padding left out. -/
def XEntry.span (x : XEntry) (u : Nat) : Nat × Nat := (u * x.ul, Nat.min x.ul (x.npar - u * x.ul))

/-- Elements of a run of units. -/
def XEntry.els (x : XEntry) (first len : Nat) : Nat × Nat :=
  (first * x.ul, Nat.min ((first + len) * x.ul) x.npar - Nat.min (first * x.ul) x.npar)

/-- The member list position of a logical module index. -/
def XEntry.posOf (x : XEntry) (l : Nat) : Nat := x.members.idxOf l

/-- The logical module index at a position. -/
def XEntry.memberAt (x : XEntry) (q : Nat) : Nat := nth 0 x.members q

end Sys2Proof

namespace Sys2Proof.Machine

/-- An exchange entry of a plan. -/
def xent (pl : Plan) (e : Nat) : XEntry := nth {} pl.exch e

/-- The exchange engine of unit `u` (R537). -/
def blkUnit (u : Nat) : Nat := blkXch (u % 2)

/-! ### Runs of entries in a step -/

/-- The run of an entry in the step, where it has started. -/
def xrunOf (j : Job) (e : Nat) : Option XRun := j.xruns.find? fun r => r.entry == e

/-- The state with the run of an entry changed, begun where it had none. -/
def modXrun (s : State) (p : Part) (e : Nat) (f : XRun → XRun) : State :=
  modJob s p fun j =>
    if j.xruns.any fun r => r.entry == e then
      { j with xruns := j.xruns.map fun r => if r.entry == e then f r else r }
    else { j with xruns := j.xruns ++ [f { entry := e }] }

/-- Whether an entry has been issued in the step. -/
def xStarted (j : Job) (e : Nat) : Bool := (xrunOf j e).isSome

/-! ### Flat elements of tensors (R535) -/

/-- The runs of flat elements that lie in one row each. -/
def flatPieces (t : TEntry) (first n : Nat) : List (Nat × Nat) :=
  if n = 0 ∨ t.cols = 0 then []
  else (List.range ((first + n - 1) / t.cols - first / t.cols + 1)).map fun i =>
    let r := first / t.cols + i
    let lo := Nat.max first (r * t.cols)
    (lo, Nat.min (first + n) ((r + 1) * t.cols) - lo)

/-- The source bit of the unit that a counter block belongs to: a row engine or an exchange engine (R255, R478). -/
def srcOf (blk : Nat) : W32 := if blkRow 0 ≤ blk ∧ blk < blkRow 16 then srcRow else srcXch

/-- Reads raw elements of a tensor in flat order, each DRAM block checked (R238), poisoned granules as NaN. -/
def readFlat (s : State) (p : Part) (blk : Nat) (t : TEntry) (first n : Nat) : List Nat × State :=
  let s := (flatPieces t first n).foldl (fun s x =>
    let a := t.flat x.1
    let len := x.2 * fmtWidth t.fmt
    (rdChecked (chargeMem s p a len blk false) p true (srcOf blk) blk a len).2.1) s
  ((List.range n).map fun k => let rc := t.rc (first + k); rawSafe s t rc.1 rc.2, s)

/-- Writes raw elements of a tensor in flat order, the sidecar maintained (R237). -/
def writeFlat (s : State) (p : Part) (blk : Nat) (t : TEntry) (first : Nat) (vs : List Nat) : State :=
  (flatPieces t first vs.length).foldl (fun s x =>
    let a := t.flat x.1
    let bs := (slice vs (x.1 - first) x.2).flatMap (bytesOf (fmtWidth t.fmt))
    (wrChecked (chargeMem s p a bs.length blk true) p true (srcOf blk) blk a bs).1) s

/-- The ranges of device memory that hold bytes `off` to `off + n - 1` of a tensor's elements in flat order. -/
def byteSpans (t : TEntry) (off n : Nat) : List (Nat × Nat) :=
  let l := t.cols * fmtWidth t.fmt
  if n = 0 ∨ l = 0 then []
  else if t.pitch = l then [(t.base + off, n)]
  else (unitPieces l off n).map fun x => (t.base + x.1 / l * t.pitch + x.1 % l, x.2)

/-- The ranges of a run of flat elements. -/
def elemSpans (t : TEntry) (first n : Nat) : List (Nat × Nat) := byteSpans t (first * fmtWidth t.fmt) (n * fmtWidth t.fmt)

/-- The bytes that a list of ranges holds, and how many. -/
def spanBytes (s : State) (l : List (Nat × Nat)) : List Byte := l.flatMap fun r => s.mem.read r.1 r.2
def spanLen (l : List (Nat × Nat)) : Nat := (l.map (·.2)).foldl (· + ·) 0

/-- Bytes `lo` to `lo + n - 1` of what a list of ranges holds. -/
def cutSpans : List (Nat × Nat) → Nat → Nat → List (Nat × Nat)
  | [], _, _ => []
  | r :: t, lo, n =>
    let a := Nat.min lo r.2
    let m := Nat.min n (r.2 - a)
    (if m = 0 then [] else [(r.1 + a, m)]) ++ cutSpans t (lo - a) (n - m)

/-- A checked read of ranges by a unit: what it does besides (R238). -/
def readSpans (s : State) (p : Part) (inPlan : Bool) (blk : Nat) (l : List (Nat × Nat)) : State :=
  l.foldl (fun s r => (rdChecked (chargeMem s p r.1 r.2 blk false) p inPlan (srcOf blk) blk r.1 r.2).2.1) s

/-- A write of ranges by a unit, the sidecar maintained (R237). -/
def writeSpans (s : State) (p : Part) (inPlan : Bool) (blk : Nat) : List (Nat × Nat) → List Byte → State
  | [], _ => s
  | r :: t, bs =>
    writeSpans (wrChecked (chargeMem s p r.1 r.2 blk true) p inPlan (srcOf blk) blk r.1 (bs.take r.2)).1 p inPlan blk t
      (bs.drop r.2)

/-! ### Wire formats (R284, R285) -/

/-- A Facet8 block: its shift and its 64 codes. -/
abbrev Block := Byte × List Byte

/-- Blocks in groups of up to 64. -/
def facetWire (bs : List Block) : List Byte :=
  (List.range (ceilDiv bs.length 64)).flatMap fun k =>
    let g := slice bs (64 * k) 64
    g.map (·.1) ++ g.flatMap (·.2)

/-- Bytes of `n` blocks in groups. -/
def facetLen (n : Nat) : Nat := 65 * n

/-- Block `b` of `n` blocks in groups. -/
def facetBlock (bytes : List Byte) (n b : Nat) : Block :=
  let k := b / 64
  let m := Nat.min 64 (n - 64 * k)
  (nth 0 bytes (4160 * k + b % 64), slice bytes (4160 * k + m + 64 * (b % 64)) 64)

/-- The dense exchange message header followed by a body, padded to a multiple of 8. -/
def denseBytes (entry kind first units step epoch : Nat) (body : List Byte) : List Byte :=
  bytesOf 3 entry ++ bytesOf 1 kind ++ bytesOf 4 first ++ bytesOf 4 units ++ bytesOf 2 step ++ bytesOf 2 epoch
  ++ padTo 0 (roundUp body.length 8) body

/-- Message kinds. -/
def kFirst : Nat := 0x90
def kSpine : Nat := 0x91
def kGather : Nat := 0x92
def kPod : Nat := 0x93
def kChain : Nat := 0x94
def kDigest : Nat := 0x95

/-- Sends a dense exchange message to a module of the job. Its step is the running one or, where a held job refreshes a
suspect copy, the next. -/
def sendDense (s : State) (p : Part) (dst kind entry first units : Nat) (body : List Byte) : State :=
  match getJob s p with
  | none => s
  | some j =>
    sendTo s p dst (if kind = kChain then 0x04 else 0x02) (denseBytes entry kind first units (nextStep s p) j.epoch body)

/-- Keeps a contribution. -/
def keepDense (s : State) (p : Part) (d : DenseIn) : State := modJob s p fun j => { j with dense := j.dense ++ [d] }

/-- The kept contribution of a source that covers a unit. -/
def denseFor (j : Job) (e kind src u : Nat) : Option DenseIn :=
  j.dense.find? fun d => d.entry == e && d.kind == kind && d.src == src && decide (d.first ≤ u ∧ u < d.first + d.units)

/-- Code width in bytes of a kept grid contribution. -/
def gridWidth (x : XEntry) (d : DenseIn) : Nat := d.body.length / (d.units * x.ul)

/-- Blocks of one unit in a kept Facet8 contribution. -/
def unitBlocks (x : XEntry) (d : DenseIn) (u : Nat) : List Block :=
  let bpu := x.ul / 64
  (List.range bpu).map fun k => facetBlock d.body (d.units * bpu) ((u - d.first) * bpu + k)

/-- The decoded elements of blocks. -/
def blockNums (bs : List Block) : List Num := bs.flatMap fun b => b.2.map fun c => ofFacet c (s8 b.1)

/-- The decoded grid codes of one unit in a kept contribution, and whether one had the unused pattern. -/
def unitCodes (x : XEntry) (d : DenseIn) (u : Nat) : List (Int × Bool) :=
  let w := gridWidth x d
  (List.range x.ul).map fun k => gridDecode (8 * w) (natOf (slice d.body (((u - d.first) * x.ul + k) * w) w))

/-- Sums lists of values element by element. -/
def sumNums (n : Nat) (ls : List (List Num)) : List Num :=
  (List.range n).map fun k => ls.foldl (fun a l => a.add (nth .zero l k)) .zero

/-- Sums grid codes element by element as G32, one clip each, with whether any was clipped or unused (R21, R22). -/
def sumCodes (n : Nat) (ls : List (List (Int × Bool))) : List Int × Bool :=
  let os := (List.range n).map fun k =>
    let cs := ls.map fun l => nth (0, false) l k
    let c := gridClip 32 (cs.foldl (fun (a : Int) c => a + c.1) 0)
    (c.1, c.2 || cs.any (·.2))
  (os.map (·.1), os.any (·.2))

/-! ### Quantisation with residuals (R275, R276) -/

/-- The residual that a code leaves: +0 for a void element. -/
def residual (x : Num) (code : Byte) (t : Int) : Num := if code = 0x80#8 then .zero else x.sub (ofFacet code t)

/-- One block: the codes padded to 64, the residual patterns, the counts, whether an element was not finite. -/
structure QBlock where
  blk : Block
  res : List Nat
  c : Counts
  nf : Bool
  deriving DecidableEq, Repr

/-- Encodes one block in chosen-shift mode and forms its residuals. -/
def quantBlock (xs : List (Num × Rnd)) : QBlock :=
  let f := facetChosen xs
  let rs := (xs.zip f.2.1).map fun z => toPearlR .away (residual z.1.1 z.2 f.1).toRes
  { blk := (BitVec.ofInt 8 f.1, padTo 0 64 f.2.1), res := rs.map (fun r => r.1.toNat),
    c := f.2.2.add (sumC (rs.map (·.2))), nf := xs.any fun x => !x.1.isFinite }

/-- Quantises the elements of unit `u`: element values `vs`, draws under `ident`, residuals into elements `off` on of
tensor `rt`. -/
def quantUnit (s : State) (p : Part) (x : XEntry) (u ident : Nat) (rt : TEntry) (off : Nat) (vs : List Num) :
    List Block × State :=
  let e0 := u * x.ul
  let qs := (List.range (x.ul / 64)).map fun k =>
    quantBlock ((slice vs (64 * k) 64).zipIdx.map fun v => (v.1, rndId s p x.qrnd ident 0 (e0 + 64 * k + v.2)))
  let s := writeFlat s p (blkUnit u) rt off (qs.flatMap (·.res))
  let s := tally s (blkUnit u) (sumC (qs.map (·.c)))
  (qs.map (·.blk), if qs.any (·.nf) then report s p (vNonfin ||| srcXch) else s)

/-- The selector of a residual pair (R277). -/
def selOf (j : Job) (e : Nat) : Nat := if j.sels.contains e then 1 else 0

/-- Unit `u` of the module's own contribution at the Repeat level. -/
def rqUnit (s : State) (p : Part) (j : Job) (e : Nat) (x : XEntry) (u : Nat) : List Block × State :=
  let sp := x.span u
  let src := tens s p x.src
  let a := readFlat s p (blkUnit u) src sp.1 sp.2
  let rt := tens s p x.res
  let sel := selOf j e
  let r := readFlat a.2 p (blkUnit u) rt (sel * x.npar + sp.1) sp.2
  let vs := (a.1.zip r.1).map fun z => (ofRaw 1 0 z.1).add (ofRaw 0 0 z.2)
  quantUnit r.2 p x u src.ident rt ((1 - sel) * x.npar + sp.1) vs

/-- Unit `u` of the module's own contribution at the Invariant level: the sums of its leaf slices as G16 or G32
bytes (R283). -/
def rqCodes (s : State) (p : Part) (j : Job) (x : XEntry) (u : Nat) : List Byte × State :=
  let sp := x.span u
  let src := tens s p x.src
  let n := j.plan.nleaf
  let ls := (List.range n).foldl (fun (acc : List (List (Int × Bool)) × State) l =>
    let r := readFlat acc.2 p (blkUnit u) src (l * x.npar + sp.1) sp.2
    (acc.1 ++ [r.1.map (gridDecode 16)], r.2)) ([], s)
  let o := sumCodes x.ul ls.1
  let w := if n = 1 then 2 else 4
  (o.1.flatMap fun c => bytesOf w (pat (8 * w) c), if o.2 then reportGrid ls.2 p x.gidx false true (-128) else ls.2)

/-- The body of a run of units of this module's contribution. -/
def rqBody (s : State) (p : Part) (j : Job) (e : Nat) (x : XEntry) (first len : Nat) : List Byte × State :=
  if j.plan.level = 1 then
    (List.range len).foldl (fun (acc : List Byte × State) k =>
      let r := rqCodes acc.2 p j x (first + k)
      (acc.1 ++ r.1, r.2)) ([], s)
  else
    let o := (List.range len).foldl (fun (acc : List Block × State) k =>
      let r := rqUnit acc.2 p j e x (first + k)
      (acc.1 ++ r.1, r.2)) ([], s)
    (facetWire o.1, o.2)

/-! ### The pod owner (R276, R283) -/

/-- This module's member position. -/
def myPos (j : Job) (x : XEntry) : Nat := x.posOf j.plan.lidx

/-- The modules of this module's pod in the member list, in rank order. -/
def podMembers (j : Job) (x : XEntry) : List Nat :=
  (List.range x.din).map fun i => x.memberAt (myPos j x / x.din * x.din + i)

/-- The modules of this module's rank in every pod, in pod order. -/
def rankMembers (j : Job) (x : XEntry) : List Nat :=
  (List.range x.dout).map fun k => x.memberAt (k * x.din + myPos j x % x.din)

/-- Whether every source has delivered every unit of a run. -/
def allIn (j : Job) (e kind : Nat) (srcs : List Nat) (first len : Nat) : Bool :=
  srcs.all fun l => (List.range len).all fun k => (denseFor j e kind l (first + k)).isSome

/-- Bytes that the exchange buffer holds for one unit: Facet8 blocks, or G32 codes. -/
def xbufUnits (j : Job) (x : XEntry) (n : Nat) : Nat := if j.plan.level = 1 then 4 * x.ul * n else facetLen (n * (x.ul / 64))

/-- The pod sum of one unit with more than one pod, re-encoded (R276). -/
def podUnit (s : State) (p : Part) (j : Job) (e : Nat) (x : XEntry) (c : Nat × Nat) (u : Nat) : List Block × State :=
  let ls := (podMembers j x).map fun l =>
    match denseFor j e kFirst l u with
    | some d => blockNums (unitBlocks x d u)
    | none => []
  let sp := x.span u
  let sums := sumNums sp.2 ls
  let rt := tens s p x.pres
  let n := (x.els c.1 c.2).2
  let sel := selOf j e
  let off := sp.1 - c.1 * x.ul
  let r := readFlat s p (blkUnit u) rt (sel * n + off) sp.2
  let vs := (sums.zip r.1).map fun z => z.1.add (ofRaw 0 0 z.2)
  quantUnit r.2 p x u (tens s p x.xbuf).ident rt ((1 - sel) * n + off) vs

/-- The pod sum of one unit at the Invariant level as G32 bytes. -/
def podCodes (s : State) (p : Part) (j : Job) (e : Nat) (x : XEntry) (u : Nat) : List Byte × State :=
  let ls := (podMembers j x).map fun l =>
    match denseFor j e kFirst l u with
    | some d => unitCodes x d u
    | none => []
  let o := sumCodes x.ul ls
  (o.1.flatMap fun c => bytesOf 4 (pat 32 c), if o.2 then reportGrid s p x.gidx false true (-128) else s)

/-- The exchange buffer's contents for the chunk of this module. -/
def podBuffer (s : State) (p : Part) (j : Job) (e : Nat) (x : XEntry) (c : Nat × Nat) : List Byte × State :=
  if j.plan.level = 1 then
    (List.range c.2).foldl (fun (acc : List Byte × State) k =>
      let r := podCodes acc.2 p j e x (c.1 + k)
      (acc.1 ++ r.1, r.2)) ([], s)
  else if 1 < x.dout then
    let o := (List.range c.2).foldl (fun (acc : List Block × State) k =>
      let r := podUnit acc.2 p j e x c (c.1 + k)
      (acc.1 ++ r.1, r.2)) ([], s)
    (facetWire o.1, o.2)
  else
    ((podMembers j x).flatMap fun l => facetWire ((List.range c.2).flatMap fun k =>
      match denseFor j e kFirst l (c.1 + k) with
      | some d => unitBlocks x d (c.1 + k)
      | none => []), s)

/-- Whether a received block holds a void code. -/
def voidIn (d : DenseIn) (x : XEntry) : Bool :=
  (List.range d.units).any fun k => (unitBlocks x d (d.first + k)).any fun b =>
    decide (s8 b.1 ≠ -128) && b.2.any fun c => decide (c = 0x80#8)

/-! ### The spine transfer and the global owner (R278, R283) -/

/-- The ranges of the exchange buffer that hold unit `u` of chunk `c`, `off` bytes from the start of the buffer. -/
def unitSpans (j : Job) (x : XEntry) (t : TEntry) (c : Nat × Nat) (off u : Nat) : List (Nat × Nat) :=
  if j.plan.level = 1 then byteSpans t (off + 4 * x.ul * (u - c.1)) (4 * x.ul)
  else
    (List.range (x.ul / 64)).flatMap fun i =>
      let b := (u - c.1) * (x.ul / 64) + i
      let m := Nat.min 64 (c.2 * (x.ul / 64) - b / 64 * 64)
      byteSpans t (off + 4160 * (b / 64) + b % 64) 1 ++ byteSpans t (off + 4160 * (b / 64) + m + 64 * (b % 64)) 64

/-- The exchange engines read a run of units of a chunk from the exchange buffer, each engine its own (R537). -/
def readUnits (s : State) (p : Part) (j : Job) (x : XEntry) (c : Nat × Nat) (off first len : Nat) : State :=
  (List.range len).foldl (fun s k =>
    readSpans s p true (blkUnit (first + k)) (unitSpans j x (tens s p x.xbuf) c off (first + k))) s

/-- The bytes of a chunk's data that the exchange buffer holds `off` bytes from its start. -/
def xbufBytes (s : State) (p : Part) (j : Job) (x : XEntry) (c : Nat × Nat) (off : Nat) : List Byte :=
  spanBytes s (byteSpans (tens s p x.xbuf) off (xbufUnits j x c.2))

/-- The part of the exchange buffer that holds a run of units, regrouped for the wire. -/
def xbufBody (s : State) (p : Part) (j : Job) (x : XEntry) (c : Nat × Nat) (first len : Nat) : List Byte × State :=
  let s := readUnits s p j x c 0 first len
  let b := xbufBytes s p j x c 0
  if j.plan.level = 1 then (slice b (4 * x.ul * (first - c.1)) (4 * x.ul * len), s)
  else
    let bpu := x.ul / 64
    (facetWire ((List.range (len * bpu)).map fun k => facetBlock b (c.2 * bpu) ((first - c.1) * bpu + k)), s)

/-- The sources whose chunks the exchange buffer holds one after another when there is one pod (R276, R283). -/
def xbufSrcs (j : Job) (x : XEntry) : List Nat := if j.plan.level = 1 then [j.plan.lidx] else podMembers j x

/-- The buffered chunks as contributions of the global owner when there is one pod (R278). -/
def xbufMembers (s : State) (p : Part) (j : Job) (e : Nat) (x : XEntry) (c : Nat × Nat) : State :=
  (xbufSrcs j x).zipIdx.foldl (fun s l =>
    let off := l.2 * xbufUnits j x c.2
    let s := readUnits s p j x c off c.1 c.2
    keepDense s p
      { entry := e, kind := kSpine, src := l.1, first := c.1, units := c.2, body := xbufBytes s p j x c off }) s

/-- Elements of this module's shard: first flat element of the tensor, count. -/
def shardEls (j : Job) (x : XEntry) : Nat × Nat := let sh := x.shard (myPos j x); x.els sh.1 sh.2

/-- Release chunks of this module's shard. -/
def chunkCount (j : Job) (x : XEntry) : Nat := ceilDiv (shardEls j x).2 4096

/-- Units that a release chunk of this module's shard touches. -/
def chunkUnits (j : Job) (x : XEntry) (c : Nat) : List Nat :=
  let sh := shardEls j x
  let lo := sh.1 + 4096 * c
  let hi := Nat.min (sh.1 + sh.2) (lo + 4096)
  if hi ≤ lo then [] else (List.range ((hi - 1) / x.ul - lo / x.ul + 1)).map fun k => lo / x.ul + k

/-- The sources of a global owner's sums. -/
def spineSrcs (j : Job) (x : XEntry) : List Nat :=
  if 1 < x.dout then rankMembers j x
  else if j.plan.level = 1 then [j.plan.lidx] else podMembers j x

/-- Whether every contribution to a release chunk of this module's shard has arrived. -/
def chunkIn (j : Job) (e : Nat) (x : XEntry) (c : Nat) : Bool :=
  (chunkUnits j x c).all fun u => (spineSrcs j x).all fun l => (denseFor j e kSpine l u).isSome

/-- The release chunks of an RF entry that are complete, in the order in which they became so (R287). -/
def chunksIn (j : Job) (e : Nat) : List Nat := tabGet [] j.chunkOrder e

/-- Notes the release chunks of an RF entry that a contribution has made complete. -/
def noteChunks (s : State) (p : Part) (e : Nat) : State :=
  modJob s p fun j =>
    let x := xent j.plan e
    let new := (List.range (chunkCount j x)).filter fun c => !(chunksIn j e).contains c && chunkIn j e x c
    { j with chunkOrder := tabSet j.chunkOrder e (chunksIn j e ++ new) }

/-- Sends the buffered chunk across the spine once the RF entry has started and the RQ entry is done; with one pod the
buffer's own chunks become the contributions. -/
def rfSend (s : State) (p : Part) (e : Nat) : State :=
  match getJob s p with
  | none => s
  | some j =>
    let x := xent j.plan e
    let q := xent j.plan x.linke
    let c := q.chunk (myPos j q % q.din)
    let rqDone := (xrunOf j x.linke).any (·.done)
    if !xStarted j e || !rqDone || c.2 = 0 || j.dense.any (fun d => d.entry == e && d.kind == kSpine && d.src == j.plan.lidx)
    then s
    else if q.dout = 1 then
      noteChunks (xbufMembers s p j e q c) p e
    else
      (List.range q.dout).foldl (fun s k =>
        let dst := k * q.din + myPos j q % q.din
        let sh := q.shard dst
        if sh.2 = 0 then s
        else
          let b := xbufBody s p j q c sh.1 sh.2
          if q.memberAt dst = j.plan.lidx then
            noteChunks (keepDense b.2 p
              { entry := e, kind := kSpine, src := j.plan.lidx, first := sh.1, units := sh.2, body := b.1 }) p e
          else sendDense b.2 p (q.memberAt dst) kSpine e sh.1 sh.2 b.1) s

/-- The flush tensor that an RF entry has still to consume (R328). -/
def flushOf (j : Job) (e : Nat) : Option DenseKey :=
  j.plan.keys.find? fun k => k.rf == e && j.flushes.contains k.key

/-- Completes an RF entry whose chunks have all been updated: the selector of its RQ flips and its flush tensor is
consumed (R277, R328). -/
def rfFinish (s : State) (p : Part) (e : Nat) : State :=
  match getJob s p with
  | none => s
  | some j =>
    let x := xent j.plan e
    match xrunOf j e with
    | none => s
    | some r =>
      if r.done || r.updated.length < chunkCount j x || !(xrunOf j x.linke).any (·.done) then s
      else
        let s := modXrun s p e fun r => { r with done := true }
        let fl := (flushOf j e).map (·.key)
        modJob s p fun j =>
          { j with
            sels := if j.plan.level = 1 then j.sels
              else if j.sels.contains x.linke then j.sels.filter (· != x.linke) else j.sels ++ [x.linke],
            flushes := j.flushes.filter fun k => some k != fl,
            consumed := j.consumed ++ fl.toList }

/-- Writes the pod owner's data into the exchange buffer, each engine its own units (R537). -/
def writeXbuf (s : State) (p : Part) (j : Job) (x : XEntry) (c : Nat × Nat) (b : List Byte) : State :=
  let t := tens s p x.xbuf
  let n := xbufUnits j x c.2
  let s := (List.range (b.length / n)).foldl (fun s i => (List.range c.2).foldl (fun s k =>
    (unitSpans j x t c (i * n) (c.1 + k)).foldl (fun s r => chargeMem s p r.1 r.2 (blkUnit (c.1 + k)) true) s) s) s
  (byteSpans t 0 b.length).foldl (fun (acc : List Byte × State) r =>
    (acc.1.drop r.2, (wrChecked acc.2 p true srcXch (blkUnit c.1) r.1 (acc.1.take r.2)).1)) (b, s) |>.2

/-- Reduces the chunk of this module once every member of its pod has delivered it; the RQ entry is then done. -/
def podReduce (s : State) (p : Part) (e : Nat) : State :=
  match getJob s p with
  | none => s
  | some j =>
    let x := xent j.plan e
    let c := x.chunk (myPos j x % x.din)
    if !xStarted j e || (xrunOf j e).any (·.done) || !allIn j e kFirst (podMembers j x) c.1 c.2 then s
    else
      let b := podBuffer s p j e x c
      let s := if c.2 = 0 then s else writeXbuf b.2 p j x c b.1
      let s := modXrun s p e fun r => { r with done := true }
      (List.range j.plan.exch.length).foldl (fun s k =>
        if (xent j.plan k).kind = 1 ∧ (xent j.plan k).linke = e then rfFinish (rfSend s p k) p k else s) s

/-- Starts an RQ entry: quantises or sums, sends each chunk to its pod owner (R275, R276, R283). -/
def xchRq (s : State) (p : Part) (e : Nat) : State :=
  match getJob s p with
  | none => s
  | some j =>
    let x := xent j.plan e
    if x.kind ≠ 0 ∨ xStarted j e then s
    else
      let s := modXrun s p e id
      let s := (List.range x.din).foldl (fun s i =>
        let c := x.chunk i
        if c.2 = 0 then s
        else
          let b := rqBody s p j e x c.1 c.2
          let dst := nth 0 (podMembers j x) i
          if dst = j.plan.lidx then
            keepDense b.2 p { entry := e, kind := kFirst, src := dst, first := c.1, units := c.2, body := b.1 }
          else sendDense b.2 p dst kFirst e c.1 c.2 b.1) s
      podReduce s p e

/-- The common checks of an arriving dense message: epoch, then kind of entry and step (R286, R330). -/
def denseOk (s : State) (p : Part) (j : Job) (m : DMsg) (kind xkind : Nat) (ok : Bool) : Option State :=
  if !epochOk j m.epoch then some (staleMsg s p m.src.toNat kind)
  else if laterStep s p m.step then some s
  else if (xent j.plan m.entry.toNat).kind ≠ xkind ∨ j.plan.exch.length ≤ m.entry.toNat
      ∨ m.step % 65536 ≠ nextStep s p % 65536 ∨ m.units = 0 ∨ !ok then
    some (badFormat s p m.src.toNat kind)
  else none

/-- Whether a run of units lies inside another. -/
def runIn (first len lo n : Nat) : Bool := decide (lo ≤ first ∧ first + len ≤ lo + n)

/-- Payload lengths that a run of units may have. -/
def gradLens' (j : Job) (x : XEntry) (kind units : Nat) : List Nat :=
  if j.plan.level = 1 then
    if kind = kFirst then [2 * x.ul * units, 4 * x.ul * units] else [4 * x.ul * units]
  else [roundUp (facetLen (units * (x.ul / 64))) 8]

/-- A first-hop message arrives at a pod owner. -/
def firstHop (s : State) (p : Part) (m : DMsg) : State :=
  match getJob s p with
  | none => s
  | some j =>
    let e := m.entry.toNat
    let x := xent j.plan e
    let c := x.chunk (myPos j x % x.din)
    let ok := runIn m.first m.units c.1 c.2 && (podMembers j x).contains m.src.toNat
      && (gradLens' j x kFirst m.units).contains m.body.length
    match denseOk s p j m kFirst 0 ok with
    | some s => s
    | none =>
      if (denseFor j e kFirst m.src.toNat m.first).isSome then s
      else
        let d : DenseIn := { entry := e, kind := kFirst, src := m.src.toNat, first := m.first, units := m.units, body := m.body }
        let s := if j.plan.level = 0 && voidIn d x then report s p (vNonfin ||| srcXch) else s
        podReduce (keepDense s p d) p e

/-- A spine message arrives at a global owner. -/
def spineHop (s : State) (p : Part) (m : DMsg) : State :=
  match getJob s p with
  | none => s
  | some j =>
    let e := m.entry.toNat
    let x := xent j.plan (xent j.plan e).linke
    let sh := x.shard (myPos j x)
    let ok := runIn m.first m.units sh.1 sh.2 && (rankMembers j x).contains m.src.toNat && decide (1 < x.dout)
      && (gradLens' j x kSpine m.units).contains m.body.length
    match denseOk s p j m kSpine 1 ok with
    | some s => s
    | none =>
      if (denseFor j e kSpine m.src.toNat m.first).isSome then s
      else
        let d : DenseIn := { entry := e, kind := kSpine, src := m.src.toNat, first := m.first, units := m.units, body := m.body }
        let s := if j.plan.level = 0 && voidIn d x then report s p (vNonfin ||| srcXch) else s
        noteChunks (keepDense s p d) p e

/-! ### Release (R287) -/

/-- The gradients of one unit at its global owner, before the loss scale is taken out: exact values, with whether a
grid code was clipped. -/
def unitSums (j : Job) (e : Nat) (x : XEntry) (u : Nat) : List Num × Bool :=
  let ds := (spineSrcs j x).filterMap fun l => denseFor j e kSpine l u
  if j.plan.level = 1 then
    let o := sumCodes x.ul (ds.map fun d => unitCodes x d u)
    (o.1.map (gridVal (gridExp j x.gidx)), o.2)
  else (sumNums x.ul (ds.map fun d => blockNums (unitBlocks x d u)), false)

/-- The owner gradients of those elements of one unit that lie in a release chunk, from `lo` to `hi`, with the counts. -/
def unitGrads (s : State) (p : Part) (j : Job) (e : Nat) (x : XEntry) (lo hi u : Nat) : List W32 × State :=
  let sh := shardEls j x
  let o := unitSums j e x u
  let sp := x.span u
  let a := Nat.max lo sp.1
  let n := Nat.min hi (sp.1 + sp.2) - a
  let fl : List Num × State := match flushOf j e with
    | some k =>
      let r := readFlat s p (blkUnit u) (tens s p k.flush) (a - sh.1) n
      (r.1.map (ofRaw 1 0), r.2)
    | none => ([], s)
  let gs := (slice o.1 (a - sp.1) n).zipIdx.map fun v => toOpalR .away ((v.1.add (nth .zero fl.1 v.2)).scale (-j.ls)).toRes
  let s := tally fl.2 (blkUnit u) (sumC (gs.map (·.2)))
  (gs.map (·.1), if o.2 then reportGrid s p x.gidx false true (-128) else s)

/-- Releases a chunk whose contributions have all arrived, after the gate; the chunks go in the order in which they became
complete. -/
def releaseChunk (s : State) (p : Part) (e c : Nat) : State :=
  match getJob s p with
  | none => s
  | some j =>
    let x := xent j.plan e
    let us := chunkUnits j x c
    let done := match xrunOf j e with | some r => r.released | none => []
    if x.kind ≠ 1 ∨ !xStarted j e ∨ !j.gate ∨ j.vetoed ∨ us = []
        ∨ (chunksIn j e).find? (fun d => !done.contains d) ≠ some c then s
    else
      let sh := shardEls j x
      let lo := sh.1 + 4096 * c
      let n := Nat.min 4096 (sh.1 + sh.2 - lo)
      let o := us.foldl (fun (acc : List W32 × State) u =>
        let r := unitGrads acc.2 p j e x lo (lo + n) u
        (acc.1 ++ r.1, r.2)) ([], s)
      modXrun o.2 p e fun r => { r with released := r.released ++ [c], g := tabSet r.g c o.1 }

/-! ### Update and copy formation (R288, R289, R292) -/

/-- Bytes of a state element: Pearl16 or Opal32. -/
def stWidth (h : Bool) : Nat := if h then 2 else 4

/-- The ranges that hold elements `lo` to `lo + len - 1` of each state vector: the vectors lie one after another, each of
`n` elements of its own width, from byte `off` on (R288). -/
def vecSpans (t : TEntry) (n lo len : Nat) : Nat → List Bool → List (List (Nat × Nat))
  | _, [] => []
  | off, h :: rest => byteSpans t (off + lo * stWidth h) (len * stWidth h) :: vecSpans t n lo len (off + n * stWidth h) rest

/-- Reads the state vectors of a chunk. -/
def readVecs (s : State) (p : Part) (blk : Nat) (lay : List Bool) (l : List (List (Nat × Nat))) :
    List (List Num) × State :=
  let s := readSpans s p true blk l.flatten
  ((lay.zip l).map fun x =>
    let b := spanBytes s x.2
    (List.range (b.length / stWidth x.1)).map fun k =>
      ofRaw (if x.1 then 0 else 1) 0 (natOf (slice b (stWidth x.1 * k) (stWidth x.1))), s)

/-- Writes the state vectors of a chunk, from vector `v` on: for each, its format, its ranges and its elements. A vector
that the update leaves alone keeps its bits. -/
def writeVecs (s : State) (p : Part) (blk : Nat) (t : TEntry) (n lo : Nat) (rnd : Bool) (own : Nat → Bool) :
    Nat → List (Bool × List (Nat × Nat) × List Num) → State
  | _, [] => s
  | v, (h, l, xs) :: rest =>
    let os := xs.zipIdx.map fun x =>
      if h then toRaw 0 (rndId s p rnd t.ident 0 (v * n + lo + x.2)) x.1.toRes else ((opal x.1).toNat, {})
    let s := if own v then
        tally (writeSpans s p true blk l (os.flatMap fun o => bytesOf (stWidth h) o.1)) blk (sumC (os.map (·.2)))
      else s
    writeVecs s p blk t n lo rnd own (v + 1) rest

/-- Whether every release chunk that a unit of the shard touches has been updated. -/
def unitUpdated (j : Job) (x : XEntry) (updated : List Nat) (u : Nat) : Bool :=
  let sh := shardEls j x
  let sp := x.span u
  (List.range ((sp.1 + sp.2 - 1 - sh.1) / 4096 - (sp.1 - sh.1) / 4096 + 1)).all fun k =>
    updated.contains ((sp.1 - sh.1) / 4096 + k)

/-- The values of a unit encoded as its copy: shift byte of a Facet8 channel, raw elements, counts. -/
def copyUnit (s : State) (p : Part) (x : XEntry) (ct : TEntry) (u : Nat) (vs : List Num) : Byte × List Nat × Counts :=
  let rs := vs.zipIdx.map fun v => (v.1, rndId s p x.crnd ct.ident 0 (u * x.ul + v.2))
  if x.cfmt = 3 then
    let f := facetChosen rs
    (BitVec.ofInt 8 f.1, f.2.1.map (·.toNat), f.2.2)
  else
    let os := rs.map fun r => toRaw x.cfmt r.2 r.1.toRes
    (0, os.map (·.1), sumC (os.map (·.2)))

/-- Writes a unit of a copy into the COPY tensor. -/
def putCopy (s : State) (p : Part) (blk : Nat) (x : XEntry) (ct : TEntry) (u : Nat) (shift : Byte) (raws : List Nat) : State :=
  let s := writeFlat s p blk ct (u * x.ul) raws
  if x.cfmt = 3 then
    let a := ct.sbase + u
    (wrChecked (spdAccess s a 1 true) p true (srcOf blk) blk a [shift]).1
  else s

/-- Forms the copy of a unit of this module's shard from its master weights (R289). -/
def formCopy (s : State) (p : Part) (j : Job) (x : XEntry) (blk u : Nat) : State :=
  let sh := shardEls j x
  let sp := x.span u
  let w := readFlat s p blk (tens s p x.wgt) (sp.1 - sh.1) sp.2
  let ct := tens s p x.copy
  let c := copyUnit w.2 p x ct u (w.1.map (ofRaw 1 0))
  tally (putCopy w.2 p blk x ct u c.1 c.2.1) blk c.2.2

/-- Bytes of one unit of a copy payload. -/
def copyLen (x : XEntry) : Nat := x.ul * fmtWidth x.cfmt + if x.cfmt = 3 then 1 else 0

/-- The ranges that hold one unit of the copy in COPY: its shift byte, its elements. -/
def copySpans (s : State) (p : Part) (x : XEntry) (u : Nat) : List (Nat × Nat) :=
  let ct := tens s p x.copy
  let sp := x.span u
  let w := fmtWidth x.cfmt
  (if x.cfmt = 3 then [(ct.sbase + u, 1)] else []) ++ byteSpans ct (sp.1 * w) (sp.2 * w)

/-- One unit of the copy payload, read back from COPY. -/
def copyBytes (s : State) (p : Part) (x : XEntry) (u : Nat) : List Byte :=
  padTo 0 (copyLen x) (spanBytes s (copySpans s p x u))

/-- The exchange engines read a run of units of the copy, each engine its own (R238, R537). -/
def readCopies (s : State) (p : Part) (x : XEntry) (first len : Nat) : State :=
  (List.range len).foldl (fun s k =>
    readSpans s p true (blkUnit (first + k)) (copySpans s p x (first + k))) s

/-- The copy payload of a run of units. -/
def copyRun (s : State) (p : Part) (x : XEntry) (first len : Nat) : List Byte :=
  (List.range len).flatMap fun k => copyBytes s p x (first + k)

/-- Consecutive runs of an ascending list: (first, length). -/
def runsOf : List Nat → List (Nat × Nat)
  | [] => []
  | a :: t =>
    match runsOf t with
    | (b, n) :: r => if a + 1 = b then (a, n + 1) :: r else (a, 1) :: (b, n) :: r
    | [] => [(a, 1)]

/-- Sends units of this module's shard to its rank in the other pods, then to its own pod (R290). -/
def agSend (s : State) (p : Part) (j : Job) (e : Nat) (us : List Nat) : State :=
  let x := xent j.plan e
  let others (l : List Nat) : List Nat := l.filter (· != j.plan.lidx)
  (runsOf us).foldl (fun s r =>
    let s := readCopies s p x r.1 r.2
    let body := copyRun s p x r.1 r.2
    let s := (others (rankMembers j x)).foldl (fun s d => sendDense s p d kGather e r.1 r.2 body) s
    (others (podMembers j x)).foldl (fun s d => sendDense s p d kPod e r.1 r.2 body) s) s

/-- The AG entry of an RF entry. -/
def agOf (pl : Plan) (e : Nat) : Option Nat :=
  (List.range pl.exch.length).find? fun k => (xent pl k).kind == 2 && (xent pl k).linke == e

/-- Units of this module's shard whose copies are formed. -/
def doneUnits (j : Job) (e : Nat) (x : XEntry) : List Nat :=
  let sh := x.shard (myPos j x)
  let upd := match xrunOf j e with | some r => r.updated | none => []
  ((List.range sh.2).map (sh.1 + ·)).filter (unitUpdated j x upd)

/-- A released chunk whose master weights or state lie in a poisoned granule is treated as a failed record after the gate
(R130, R184): nothing is written, and the update is lost. -/
def lostChunk (s : State) (p : Part) (e c addr : Nat) : State :=
  history (raise s p evUpdRecord [e, c, addr, stepOf s p]) 2 e addr

/-- The row engine applies the gradients of a released chunk to its master weights and state (R171, R178, R288, R292). -/
def applyChunk (s : State) (p : Part) (j : Job) (e c : Nat) (g : List W32) : State :=
  let x := xent j.plan e
  let blk := blkRow (c % 16)
  let n := (shardEls j x).2
  let lo := 4096 * c
  let pg := progOf s p x.opt
  let lay := stLayout x.opt pg
  let wt := tens s p x.wgt
  let w := readFlat s p blk wt lo g.length
  let st := tens s p x.state
  let spans := vecSpans st n lo g.length 0 lay.1
  let v := readVecs w.2 p blk lay.1 spans
  if (elemSpans wt lo g.length ++ spans.flatten).any fun r => poisoned v.2 r.1 r.2 then lostChunk v.2 p e c (wt.flat lo)
  else
    let ps := (deviceParams (tabGet {} j.rfPar e) n j.ls).p
    let o := runOpt x.opt pg ps (w.1.map (ofRaw 1 0)) (g.map ofOpal) v.1 (List.replicate lay.2 .zero)
    let nw := match o.w with | some xs => xs | none => w.1.map (ofRaw 1 0)
    let s := if o.w.isSome then writeFlat v.2 p blk wt lo (nw.map fun q => (opal q).toNat) else v.2
    let own (v : Nat) : Bool := decide (x.opt < 0x80) || (stsSlots pg).contains v
    let s := writeVecs s p blk st n lo x.crnd own 0 (lay.1.zip (spans.zip o.vecs))
    let s := tally s blk o.c
    let badSt (half : Bool) (v k : Nat) (q : Num) : Bool :=
      !q.isFinite || (half && decide (0 < (toRaw 0 (rndId s p x.crnd st.ident 0 (v * n + lo + k)) q.toRes).2.ovf))
    let bad := (List.range g.length).filter fun k =>
      !(ofOpal (nth 0 g k)).isFinite || !(nth .zero nw k).isFinite
      || (lay.1.zip o.vecs).zipIdx.any fun l => own l.2 && badSt l.1.1 l.2 k (nth .zero l.1.2 k)
    let s := bad.foldl (fun s k => raise s p evXchNonfinite [e, (shardEls j x).1 + lo + k]) s
    if bad.isEmpty then s else report s p (vNonfin ||| srcRow)

/-- The update of a released chunk on its row engine (R288), the copies of the units it completes (R289), and their
gathering where the AG entry runs. -/
def chunkUpdate (s : State) (p : Part) (e c : Nat) : State :=
  match getJob s p with
  | none => s
  | some j =>
    let x := xent j.plan e
    match xrunOf j e with
    | none => s
    | some r =>
      if !r.released.contains c || r.updated.contains c || j.vetoed then s
      else
        let blk := blkRow (c % 16)
        let before := doneUnits j e x
        let s := applyChunk (count s blk 0 2 1 (atPart p)) p j e c (tabGet [] r.g c)
        let s := modXrun s p e fun r => { r with updated := r.updated ++ [c] }
        match getJob s p with
        | none => s
        | some j' =>
          let new := (doneUnits j' e x).filter fun u => !before.contains u
          let s := new.foldl (fun s u => formCopy s p j x blk u) s
          let s := match agOf j.plan e with
            | some a => if xStarted j a then agSend s p j a new else s
            | none => s
          rfFinish s p e

/-- The accesses of an entry's dense update: its weight, state and copy tensors. -/
def chunkAccess (s : State) (p : Part) (x : XEntry) : List (Nat × Nat × Bool) :=
  ([x.wgt, x.state, x.copy].filter fun i => decide (i ≠ 0)).flatMap fun i =>
    (entrySpans (tens s p i)).map fun r => (r.1, r.2, true)

/-- The accesses of an exchange entry: every tensor it names. -/
def xchAccess (s : State) (p : Part) (x : XEntry) : List (Nat × Nat × Bool) :=
  ([x.src, x.wgt, x.state, x.res, x.pres, x.copy, x.xbuf].filter fun i => decide (i ≠ 0)).flatMap fun i =>
    (entrySpans (tens s p i)).map fun r => (r.1, r.2, true)

/-- A chunk's update, once its accesses may issue (R233, R234). -/
def chunkStep (s : State) (p : Part) (e c : Nat) : State :=
  match getJob s p with
  | none => s
  | some j => whenOpen s p (chunkAccess s p (xent j.plan e)) fun s => chunkUpdate s p e c

/-- Starts an RF entry (R270, R288): P11 to P15 and the products of its block, the spine transfer; skipped in a vetoed step. -/
def xchRf (s : State) (p : Part) (e : Nat) : State :=
  match getJob s p with
  | none => s
  | some j =>
    let x := xent j.plan e
    if x.kind ≠ 1 ∨ j.vetoed ∨ xStarted j e then s
    else
      let q := deviceParams (tabGet {} j.rfPar e) (shardEls j x).2 j.ls
      let s := modJob s p fun j => { j with rfPar := tabSet j.rfPar e q }
      rfFinish (rfSend (modXrun s p e id) p e) p e

/-- Keeps or drops the products of the step's RF entries (R170). -/
def keepRfProducts (s : State) (p : Part) (vetoed : Bool) : State :=
  match getJob s p with
  | none => s
  | some j =>
    j.rfPar.foldl (fun s kq =>
      match kq.2.next with
      | none => s
      | some pr =>
        if vetoed then modJob s p fun j => { j with rfPar := tabSet j.rfPar kq.1 { kq.2 with next := none } }
        else
          let q := { kq.2 with p1 := pr.1, p2 := pr.2, next := none }
          let s := modJob s p fun j => { j with rfPar := tabSet j.rfPar kq.1 q }
          wrNow s (nth 0 s.tdir p.toNat + 0x13000000 + 128 * kq.1)
            (q.p.flatMap (fun x => bytesOf 4 x.toNat) ++ bytesOf 4 q.p1.toNat ++ bytesOf 4 q.p2.toNat)) s

/-! ### The all-gather (R290, R293, R294) -/

/-- Starts an AG entry: sends the units of this module's shard that are complete. -/
def xchAg (s : State) (p : Part) (e : Nat) : State :=
  match getJob s p with
  | none => s
  | some j =>
    let x := xent j.plan e
    if x.kind ≠ 2 ∨ j.vetoed ∨ xStarted j e then s
    else agSend (modXrun s p e id) p j e (doneUnits j x.linke x)

/-- The key of copy hashes. -/
def copyKey : Nat := galeKey 0 0x6FFFFFFC

/-- The copy hash of a payload (R293). -/
def copyHash (b : List Byte) : Nat := hashChunks copyKey (ceilDiv b.length 16) b 0

/-- Sends the copy hash of this module's shard after its last unit (R293). -/
def sendHash (s : State) (p : Part) (e : Nat) : State :=
  match getJob s p with
  | none => s
  | some j =>
    let x := xent j.plan e
    let sh := x.shard (myPos j x)
    match xrunOf j e with
    | none => s
    | some r =>
      if x.kind ≠ 2 ∨ r.hashSent ∨ sh.2 = 0 ∨ (doneUnits j x.linke x).length < sh.2 then s
      else
        let s := readCopies s p x sh.1 sh.2
        let h := bytesOf 16 (copyHash (copyRun s p x sh.1 sh.2))
        let s := modXrun s p e fun r => { r with hashSent := true }
        let s := ((rankMembers j x).filter (· != j.plan.lidx)).foldl (fun s d => sendDense s p d kDigest e sh.1 sh.2 h) s
        ((podMembers j x).filter (· != j.plan.lidx)).foldl (fun s d => sendDense s p d kDigest e sh.1 sh.2 h) s

/-- The received shard of an owner position. -/
def shardOf (j : Job) (e q : Nat) : ShardIn :=
  (j.shards.find? fun h => h.entry == e && h.owner == q).getD { entry := e, owner := q }

/-- Stores a received shard. -/
def putShard (s : State) (p : Part) (h : ShardIn) : State :=
  modJob s p fun j => { j with shards := (j.shards.filter fun g => !(g.entry == h.entry && g.owner == h.owner)) ++ [h] }

/-- The module that sends a shard to this one: its owner, or the pod member of the owner's rank. -/
def shardSrc (j : Job) (x : XEntry) (q : Nat) : Nat :=
  let me := myPos j x
  if q % x.din = me % x.din ∨ q / x.din = me / x.din then x.memberAt q else x.memberAt (me / x.din * x.din + q % x.din)

/-- Whether every unit of a shard has arrived. -/
def ShardIn.full (h : ShardIn) (x : XEntry) : Bool :=
  (List.range (x.shard h.owner).2).all fun k => (tabFind h.units ((x.shard h.owner).1 + k)).isSome

/-- The payload of a received shard. -/
def ShardIn.bytes (h : ShardIn) (x : XEntry) : List Byte :=
  (List.range (x.shard h.owner).2).flatMap fun k => tabGet [] h.units ((x.shard h.owner).1 + k)

/-- Whether a received shard is whole and its digest settled: equal, or the shard marked suspect. -/
def ShardIn.settled (h : ShardIn) (x : XEntry) : Bool :=
  h.full x && (match h.digest with | some d => h.suspect || decide (d = copyHash (h.bytes x)) | none => false)

/-- Asks for a shard again (R294); the request is the header of R284 with no payload. -/
def requestShard (s : State) (p : Part) (dst e first units : Nat) : State :=
  match getJob s p with
  | none => s
  | some j => sendTo s p dst 0x14 (denseBytes e kDigest first units (nextStep s p) j.epoch [])

/-- Whether a refresh of a suspect copy is under way (R294). -/
def refreshing (j : Job) : Bool := j.shards.any (·.refresh)

/-- Takes a refreshed shard off the list: its copy is no longer suspect. -/
def dropShard (s : State) (p : Part) (e q : Nat) : State :=
  modJob s p fun j => { j with shards := j.shards.filter fun g => !(g.entry == e && g.owner == q) }

/-- Compares a whole shard with its owner's digest (R294). A refreshed copy that differs again stays suspect. -/
def checkShard (s : State) (p : Part) (e q : Nat) : State :=
  match getJob s p with
  | none => s
  | some j =>
    let x := xent j.plan e
    let h := shardOf j e q
    match h.digest with
    | none => s
    | some d =>
      if !h.full x then s
      else if d = copyHash (h.bytes x) then
        if h.refresh then dropShard s p e q else putShard s p { h with suspect := false }
      else if h.refresh then
        putShard (history (raise s p evXchDigest [e, q]) 4 e q) p
          { h with refresh := false, units := [], digest := none }
      else if h.tries = 0 then
        let s := putShard (history (count s (blkUnit (x.shard q).1) 3 3 1 (atPart p)) 4 e q) p
          { h with tries := 1, units := [], digest := none }
        requestShard s p (shardSrc j x q) e (x.shard q).1 (x.shard q).2
      else
        let s := putShard s p { h with suspect := true }
        let s := history (raise s p evXchDigest [e, q]) 4 e q
        modJob (report s p (vCksum ||| srcXch)) p fun j => { j with hold := true }

/-- Units of a shard arrive: they enter COPY, and a spine arrival is relayed within the pod. -/
def gatherArrive (s : State) (p : Part) (m : DMsg) (kind : Nat) : State :=
  match getJob s p with
  | none => s
  | some j =>
    let e := m.entry.toNat
    let x := xent j.plan e
    let q := x.ownerPos m.first
    let sh := x.shard q
    let h := shardOf j e q
    let spine : Bool := q / x.din != myPos j x / x.din && x.memberAt q == m.src.toNat
    let ok := runIn m.first m.units sh.1 sh.2 && decide (q ≠ myPos j x)
      && (m.src.toNat == shardSrc j x q || (h.suspect && m.src.toNat == x.memberAt q)) && (spine == decide (kind = kGather))
      && decide (m.body.length = roundUp (m.units * copyLen x) 8)
    match denseOk s p j m kind 2 ok with
    | some s => s
    | none =>
      let pieces := (List.range m.units).map fun k => (m.first + k, slice m.body (k * copyLen x) (copyLen x))
      let ct := tens s p x.copy
      let w := fmtWidth x.cfmt
      let s := pieces.foldl (fun s y =>
        let b := if x.cfmt = 3 then y.2.drop 1 else y.2
        let raws := (List.range (x.span y.1).2).map fun k => natOf (slice b (k * w) w)
        putCopy s p (blkUnit y.1) x ct y.1 (nth 0 y.2 0) raws) s
      let s := putShard s p { h with units := pieces.foldl (fun t y => tabSet t y.1 y.2) h.units }
      let s := if kind = kGather ∧ h.tries = 0 ∧ !h.suspect then
          ((podMembers j x).filter (· != j.plan.lidx)).foldl (fun s d => sendDense s p d kPod e m.first m.units m.body) s
        else s
      checkShard s p e q

/-- A copy digest arrives, and is relayed within the pod where it came across the spine. -/
def digestArrive (s : State) (p : Part) (m : DMsg) : State :=
  match getJob s p with
  | none => s
  | some j =>
    let e := m.entry.toNat
    let x := xent j.plan e
    let q := x.ownerPos m.first
    let h := shardOf j e q
    let spine : Bool := q / x.din != myPos j x / x.din && x.memberAt q == m.src.toNat
    let ok := decide (q ≠ myPos j x) && decide ((m.first, m.units) = x.shard q) && decide (m.body.length = 16)
      && (m.src.toNat == shardSrc j x q || (h.suspect && m.src.toNat == x.memberAt q))
    match denseOk s p j m kDigest 2 ok with
    | some s => s
    | none =>
      let s := putShard s p { h with digest := some (natOf m.body) }
      let s := if spine ∧ h.tries = 0 ∧ !h.suspect then
          ((podMembers j x).filter (· != j.plan.lidx)).foldl (fun s d => sendDense s p d kDigest e m.first m.units m.body) s
        else s
      checkShard s p e q

/-- A request for a shard arrives during the AG entry, or for a refresh while the job holds: its payload and digest are sent
again (R294, R342). -/
def rerequestArrive (s : State) (p : Part) (m : DMsg) : State :=
  match getJob s p with
  | none => s
  | some j =>
    let e := m.entry.toNat
    let x := xent j.plan e
    let q := x.ownerPos m.first
    let sh := x.shard q
    let h := shardOf j e q
    let mine : Bool := decide (q = myPos j x)
    if !epochOk j m.epoch then staleMsg s p m.src.toNat kDigest
    else if x.kind ≠ 2 ∨ (m.first, m.units) ≠ sh ∨ !x.members.contains m.src.toNat ∨ (!mine && !h.full x)
        ∨ !(xStarted j e || j.phase == .held) then
      badFormat s p m.src.toNat kDigest
    else
      let s := if mine then readCopies s p x sh.1 sh.2 else s
      let body := if mine then copyRun s p x sh.1 sh.2 else h.bytes x
      let dg := if mine then copyHash body else h.digest.getD 0
      let kind := if x.posOf m.src.toNat / x.din = myPos j x / x.din then kPod else kGather
      let s := sendDense s p m.src.toNat kind e sh.1 sh.2 body
      sendDense s p m.src.toNat kDigest e sh.1 sh.2 (bytesOf 16 dg)

/-- Asks the global owners of every suspect shard for it, as a resume does first (R294). -/
def refreshSuspects (s : State) (p : Part) : State :=
  match getJob s p with
  | none => s
  | some j =>
    (j.shards.filter (·.suspect)).foldl (fun s h =>
      let x := xent j.plan h.entry
      requestShard (putShard s p { h with units := [], digest := none, refresh := true }) p (x.memberAt h.owner) h.entry
        (x.shard h.owner).1 (x.shard h.owner).2) s

/-! ### Chain hops (R298) -/

/-- Writes a received chain hop into its tensor once the entry has started, each engine its blocks of 64 (R537). -/
def chainFill (s : State) (p : Part) (e : Nat) : State :=
  match getJob s p with
  | none => s
  | some j =>
    let x := xent j.plan e
    let t := tens s p x.src
    match j.dense.find? (fun d => d.entry == e && d.kind == kChain) with
    | none => s
    | some d =>
      if !xStarted j e || (xrunOf j e).any (·.done) then s
      else
        let vs := (List.range (t.rows * t.cols)).map fun k => natOf (slice d.body (4 * k) 4)
        let s := (List.range (ceilDiv vs.length 64)).foldl (fun s b =>
          writeFlat s p (blkUnit b) t (64 * b) (slice vs (64 * b) 64)) s
        modXrun s p e fun r => { r with done := true }

/-- Starts a CH entry. -/
def xchCh (s : State) (p : Part) (e : Nat) : State :=
  match getJob s p with
  | none => s
  | some j =>
    let x := xent j.plan e
    if x.kind ≠ 3 ∨ xStarted j e then s
    else if x.recv then chainFill (modXrun s p e id) p e
    else
      let t := tens s p x.src
      let n := t.rows * t.cols
      let r := (List.range (ceilDiv n 64)).foldl (fun (acc : List Nat × State) b =>
        let o := readFlat acc.2 p (blkUnit b) t (64 * b) (Nat.min 64 (n - 64 * b))
        (acc.1 ++ o.1, o.2)) ([], s)
      let s := sendDense r.2 p x.peer kChain x.pent 0 (ceilDiv n 64) (r.1.flatMap (bytesOf 4))
      modXrun s p e fun r => { r with done := true }

/-- A chain hop arrives. -/
def chainArrive (s : State) (p : Part) (m : DMsg) : State :=
  match getJob s p with
  | none => s
  | some j =>
    let e := m.entry.toNat
    let x := xent j.plan e
    let t := tens s p x.src
    let n := t.rows * t.cols
    let ok := x.recv && decide (x.peer = m.src.toNat) && decide (m.first = 0) && decide (m.units = ceilDiv n 64)
      && decide (m.body.length = roundUp (4 * n) 8) && !j.dense.any (fun d => d.entry == e && d.kind == kChain)
    match denseOk s p j m kChain 3 ok with
    | some s => s
    | none =>
      chainFill (keepDense s p { entry := e, kind := kChain, src := m.src.toNat, first := 0, units := m.units, body := m.body }) p e

/-! ### Completion of an entry (R249, type 2; R291) -/

/-- Whether an exchange entry has completed on this module. -/
def xchDone (j : Job) (e : Nat) : Bool :=
  let x := xent j.plan e
  match xrunOf j e with
  | none => false
  | some r =>
    if x.kind = 2 then
      let sh := x.shard (myPos j x)
      decide ((doneUnits j x.linke x).length = sh.2)
      && (List.range (x.din * x.dout)).all fun q =>
        decide (q = myPos j x) || decide ((x.shard q).2 = 0) || (shardOf j e q).settled x
    else r.done

/-- Starts the entry that an XCH word names, by its kind. -/
def xchStart (s : State) (p : Part) (e : Nat) : State :=
  match getJob s p with
  | none => s
  | some j =>
    let s := count s (blkXch 0) 0 2 1 (atPart p)
    let x := xent j.plan e
    let t := tens s p x.src
    let n := if x.kind = 3 then ceilDiv (t.rows * t.cols) 64 else x.nu
    let s := if 1 < n then count s (blkXch 1) 0 2 1 (atPart p) else s
    match (xent j.plan e).kind with
    | 0 => xchRq s p e
    | 1 => xchRf s p e
    | 2 => xchAg s p e
    | _ => xchCh s p e

/-! ### Digests of dense state (R295, R297) -/

/-- The key of dense and module digests. -/
def denseKey : Nat := galeKey 0 0x6FFFFFFE

/-- The hash of a dense area (R295). -/
def areaHash (entry role : Nat) (area : List Byte) : Nat :=
  (List.range (ceilDiv area.length 4096)).foldl (fun d b =>
    d ^^^ hashChunks denseKey 256 (padTo 0 4096 (slice area (4096 * b) 4096)) (entry * 2 ^ 72 + role * 2 ^ 64 + b)) 0

/-- The persistent dense areas that a plan's entries name: (entry, role, ranges), ascending. -/
def denseAreas (s : State) (p : Part) (j : Job) : List (Nat × Nat × List (Nat × Nat)) :=
  (List.range j.plan.exch.length).flatMap fun e =>
    let x := xent j.plan e
    if x.kind = 1 then
      let n := (shardEls j x).2
      let lay := (stLayout x.opt (progOf s p x.opt)).1
      let ct := tens s p x.copy
      [(e, 0, elemSpans (tens s p x.wgt) 0 n)]
      ++ (if lay.isEmpty then [] else [(e, 1, byteSpans (tens s p x.state) 0 (stBytes (lay, 0) n))])
      ++ [(e, 4, elemSpans ct 0 x.npar ++ if x.cfmt = 3 then [(ct.sbase, x.nu)] else [])]
    else if x.kind = 0 ∧ j.plan.level = 0 then
      let c := x.chunk (myPos j x % x.din)
      let n := (x.els c.1 c.2).2
      let sel := selOf j e
      [(e, 2, elemSpans (tens s p x.res) (sel * x.npar) x.npar)]
      ++ (if 1 < x.dout then [(e, 3, elemSpans (tens s p x.pres) (sel * n) n)] else [])
    else []

/-- Recomputes the dense digests and writes them into the table directory (R295, R514). -/
def denseDigests (s : State) (p : Part) : State :=
  match getJob s p with
  | none => s
  | some j =>
    (denseAreas s p j).foldl (fun s a =>
      let s := readSpans s p true (blkXch 0) a.2.2
      let h := areaHash a.1 a.2.1 (spanBytes s a.2.2)
      let k := 5 * a.1 + a.2.1
      let s := modJob s p fun j => { j with denseDig := tabSet j.denseDig k h }
      wrNow s (nth 0 s.tdir p.toNat + 0x12000000 + 16 * k) (bytesOf 16 h)) s

/-- Tables that the job updates, ascending. -/
def updatedTids (s : State) (p : Part) (pl : Plan) : List Nat :=
  sortedOnce (((lksOf pl).filter fun k => !k.eval && (match getTbl s p k.tid with
    | some t => decide (t.desc.opt ≠ 0)
    | none => false)).map (·.tid))

/-- The module digest of seal `n`, with the loss-scale exponent and growth count that follow it (R297). -/
def moduleDigest (s : State) (p : Part) (j : Job) (n : Nat) (ls : Int) (growth : Nat) : Nat :=
  let d := (updatedTids s p j.plan).foldl (fun d t =>
    gale denseKey (d ^^^ (match getTbl s p t with | some v => v.set | none => 0) ^^^ t)) 0
  let d := j.denseDig.foldl (fun d kv => gale denseKey (d ^^^ kv.2)) d
  gale denseKey (d ^^^ (n + pat 8 ls * 2 ^ 64 + growth * 2 ^ 72 + j.epoch % 65536 * 2 ^ 88))

end Sys2Proof.Machine
end

