-- ==== Sys2Proof/Machine/Tables.lean ====
section
/-! DEFINITION. Table commands: definition, release, placement, parameters, generations, tier flushes, digest builds
and Cameo exports, with the work that they leave for a seal (R132, R133, R158 to R161, R170, R185 to R194, R200,
R220 to R222, R536). -/

namespace Sys2Proof.Machine

/-! ### Checks of a definition (R132, R133, R137, R169, R198 to R200) -/

/-- The state size that an optimizer identifier requires (R169, R177); none where the identifier is reserved, or names a
program that no loaded plan gives. -/
def reqSsz (s : State) (p : Part) (opt dim : Nat) : Option Nat :=
  if opt = 0 ∨ opt = 1 then some 0
  else if opt ≤ 0x0A then some (stBytes (stLayout opt {}) dim)
  else if 0x80 ≤ opt ∧ opt ≤ 0xBF then
    match getJob s p with
    | none => none
    | some j => (j.plan.progs.find? fun q => q.num == opt - 0x80).map fun q => stBytes (stLayout opt q) dim
  else none

/-- Whether SSZ fits the optimizer: for a program of a plan not yet loaded, the plan load checks it (R179). -/
def sszOk (s : State) (p : Part) (d : Desc) : Bool :=
  match reqSsz s p d.opt d.dim with
  | some n => d.ssz == n
  | none => decide (0x80 ≤ d.opt ∧ d.opt ≤ 0xBF) && !(match getJob s p with
      | some j => j.plan.progs.any fun q => q.num == d.opt - 0x80
      | none => false)

/-- Whether a range lies in the partition's window of a tier and outside the reserved area of T1 (R197, R198). -/
def inTier (s : State) (p : Part) (tier a n : Nat) : Bool :=
  inWindow s p tier a n && (tier != 1 || decide (a + n ≤ t1Resv))

/-- Whether a placement entry satisfies its own rules (R200). -/
def placeOk (e : Place) : Bool :=
  decide (e.pbase % 64 = 0) && decide (e.pslots % 16 = 0) && decide (1024 ≤ e.pslots) && decide (e.dbase % 4096 = 0)
  && decide (8 ≤ e.dlog ∧ e.dlog ≤ 36) && decide (e.rbase % 64 = 0) && decide (e.rslots % 16 = 0)
  && decide (256 ≤ e.rslots) && decide (e.hlog ≤ 15) && decide (e.flo < e.fhi) && decide (e.dsh ≤ 100)
  && decide (2 * (e.pslots + e.rslots) ≤ 2 ^ e.dlog)

/-- Whether a placement entry's areas lie in the partition's windows, for records of `sz` bytes (R198, R199). -/
def placeIn (s : State) (p : Part) (e : Place) (sz : Nat) : Bool :=
  inTier s p 2 e.pbase (e.pslots * sz) && inTier s p 1 e.dbase (8 * 2 ^ e.dlog) && inTier s p 1 e.rbase (e.rslots * sz)

/-- The window of a table's storage: 1 T1, 2 T2, 3 T3. -/
def Desc.homeTier (d : Desc) : Nat := d.tier + 1

/-- Whether a definition passes every check. -/
def defineOk (s : State) (p : Part) (d : Desc) : Bool :=
  decide (d.part = p.toNat) && decide (1 ≤ d.dimq ∧ d.dimq ≤ 128) && decide (d.tier < 3) && decide (d.slog ≤ 16)
  && decide (d.ssz % 4 = 0 ∧ d.ssz ≤ 8176) && sszOk s p d && decide (d.size ≤ 8192)
  && decide (d.lbase % 64 = 0 ∧ d.mbase % 64 = 0) && inTier s p 1 d.mbase 1 && inTier s p d.homeTier d.lbase 1
  && (getTbl s p d.tid).isNone
  && (d.tier != 2 || (match tabFind s.places (tkey p d.tid) with
      | some e => placeOk e && placeIn s p e d.size
      | none => false))

/-- The tables that a loaded plan of the partition uses. -/
def planTids (pl : Plan) : List Nat := (lksOf pl).map (·.tid) ++ pl.refs.map (·.tid)

/-- Whether a loaded plan uses a table. -/
def planUses (s : State) (p : Part) (tid : Nat) : Bool :=
  match getJob s p with
  | none => false
  | some j =>
    let names (pl : Option Plan) : Bool := match pl with | some pl => (planTids pl).contains tid | none => false
    (planTids j.plan).contains tid || names j.next || names j.prev

/-- A table command ends with EV_TBL_REJECT and INVALID. -/
def tblReject (s : State) (c : Cmd) (tid : Nat) : State := rejectCmd s c evTblReject stInvalid [tid]

/-- Whether a job of the partition runs steps, so that table operations wait for its next seal (R536). -/
def runsSteps (s : State) (p : Part) : Bool :=
  match getJob s p with
  | none => false
  | some j => j.phase == .running || j.phase == .sealed

/-- The last seal that the partition has reached. -/
def lastSealOf (s : State) (p : Part) : Option Nat := (getJob s p).bind (·.lastSeal)

/-- Sets or clears the set-up lock of a partition's tier windows (R512). -/
def updLock (s : State) (p : Part) : State :=
  let busy : Bool := (getJob s p).isSome || !(tblsOf s p).isEmpty
  { s with tierLock := setNth s.tierLock p.toNat busy }

/-! ### Digest builds (R187) -/

/-- The shard map of a table as it stands in T1. -/
def readMap (s : State) (d : Desc) : List Nat := (List.range d.shards).map fun k => s.mem.readNat (d.mbase + 2 * k) 2

/-- Starts the digest build of a table: every engine's rows in walk order. -/
def startBuild (s : State) (p : Part) (tid : Nat) : State :=
  modTbl s p tid fun t =>
    { t with build := some { todo := (List.range 16).map fun e => engineRows t (lidxOf s p) e } }

/-- The record of a row as it stands: its slot where it is resident, its home otherwise. -/
def recAddr (s : State) (t : Table) (me row : Nat) : Nat :=
  if t.desc.tier = 2 then
    match residentSlot s t row with
    | some x => slotAddr t x
    | none => homeAddr t me row
  else homeAddr t me row

/-- An engine hashes its next row into the digests. -/
def buildRow (s : State) (p : Part) (tid e : Nat) : State :=
  match getTbl s p tid with
  | none => s
  | some t =>
    match t.build with
    | none => s
    | some b =>
      match nth [] b.todo e with
      | [] => s
      | r :: rest =>
        let a := recAddr s t (lidxOf s p) r
        whenOpen s p [(a, t.desc.size, false)] fun s =>
          let s := chargeRead (countRec s p e) p a t.desc.size (blkRow e)
          let h := recHash p tid (s.mem.read a t.desc.size)
          let s := modTbl s p tid fun t => { t with build := some { todo := setNth b.todo e rest } }
          xorDigest s p tid (rangeOf t.desc r) h

/-- At a seal, digests whose every engine has finished become valid. -/
def buildSeal (s : State) (p : Part) (tid : Nat) : State :=
  match getTbl s p tid with
  | none => s
  | some t =>
    match t.build with
    | some b => if b.todo.all List.isEmpty then keepTbl s p tid { t with build := none, digOk := true } else s
    | none => s

/-! ### Definition -/

/-- A definition takes effect: the table with its parameter block, cleared digests and directory. -/
def defineNow (s : State) (p : Part) (d : Desc) : State :=
  let pl := tabFind s.places (tkey p d.tid)
  let t : Table := { desc := d, place := pl, map := if (getJob s p).isSome then readMap s d else [] }
  let s := clearDigests (keepTbl s p d.tid t) p d.tid
  let s := match d.tier, pl with
    | 2, some e => { s with mem := s.mem.zero e.dbase (8 * 2 ^ e.dlog) }
    | _, _ => s
  let s := if (getJob s p).isSome then startBuild s p d.tid else s
  updLock s p

/-! ### Generations (R158 to R161, R188, R221, R222) -/

/-- The number of shards of a table that the module owns. -/
def ownShards (t : Table) (me : Nat) : Nat := (myShards t.map me).length

/-- A table as its staged generation would leave it. -/
def Table.asStaged (t : Table) (g : Staged) : Table :=
  if g.whole then { t with desc := { t.desc with lbase := g.area, rowm1 := g.rows - 1 }, areas := [], merge := none }
  else if t.desc.tier = 2 then t
  else { t with areas := (g.a, g.b, g.area) :: t.areas }

/-- Address of a staged record. -/
def stagedAddr (t : Table) (g : Staged) (me r : Nat) : Nat :=
  if !g.whole && t.desc.tier == 2 then g.area + (r - g.a) * t.desc.size
  else homeAddr (t.asStaged g) me r

/-- Rows of the staged range that the module owns, ascending. -/
def stagedRows (t : Table) (g : Staged) (me : Nat) : List Nat :=
  let t' := t.asStaged g
  let lo := if g.whole then 0 else g.a
  let hi := if g.whole then g.rows else g.b
  sortBy id (((List.range 16).flatMap fun e => engineRows t' me e).filter fun r => decide (lo ≤ r ∧ r < hi))

/-- STAGE. -/
def stageTable (s : State) (c : Cmd) (tid : Nat) (whole : Bool) (a b area rows : Nat) : State :=
  let p := partOf s c.fn
  match getTbl s p tid with
  | none => rejectCmd s c evProgError stInvalid [tid]
  | some t =>
    let rows' := if rows = 0 then t.desc.rows else rows
    let g : Staged := { whole := whole, a := if whole then 0 else a, b := if whole then rows' else b, area := area,
                        rows := rows' }
    let extent :=
      if whole then ownShards t (lidxOf s p) * ((rows' + t.desc.shards - 1) / t.desc.shards) * t.desc.size
      else if t.desc.tier = 2 then (b - a) * t.desc.size
      else ownShards t (lidxOf s p) * t.desc.ns * t.desc.size
    if t.staged.isSome ∨ (!whole ∧ (rows ≠ 0 ∨ b ≤ a ∨ t.desc.rows < b)) ∨ 2 ^ 40 < rows' ∨ area % 64 ≠ 0
        ∨ !inTier s p t.desc.homeTier area (Nat.max extent t.desc.size) then
      rejectCmd s c evProgError stInvalid [tid]
    else complete (putTbl s p tid { t with staged := some g }) c stDone 0 0 0

/-- COMMIT: names the target seal and starts the check. -/
def commitTable (s : State) (c : Cmd) (tid target : Nat) : State :=
  let p := partOf s c.fn
  match getTbl s p tid with
  | none => rejectCmd s c evProgError stInvalid [tid]
  | some t =>
    match t.staged with
    | none => rejectCmd s c evProgError stInvalid [tid]
    | some g =>
      if g.commit.isSome then rejectCmd s c evProgError stInvalid [tid]
      else putTbl s p tid { t with staged := some { g with commit := some c, target := target, chk := .running } }

/-- The background check of a committed generation ends (R159, R161): every staged record's ROW, TID and CRC. -/
def checkStaged (s : State) (p : Part) (tid : Nat) : State :=
  match getTbl s p tid, getJob s p with
  | some t, some _ =>
    match t.staged with
    | none => s
    | some g =>
      let me := lidxOf s p
      let rows := stagedRows t g me
      if g.chk ≠ .running then s
      else
        whenOpen s p (rows.map fun r => (stagedAddr t g me r, t.desc.size, false)) fun s =>
        let s := rows.foldl (fun s r =>
          chargeRead s p (stagedAddr t g me r) t.desc.size (blkRow (t.desc.eng r))) s
        let bad := rows.find? fun r => (recRead s t (stagedAddr t g me r) r).isNone
        match bad, g.commit with
        | some r, some c =>
          let s := putTbl s p tid { t with staged := some { g with commit := none, chk := .failed } }
          complete (raise s p evGenFail [tid, r]) c stCksum 0 0 r
        | _, _ => putTbl s p tid { t with staged := some { g with chk := .passed } }
  | _, _ => s

/-- XORs the hashes of rows at given addresses into the digests. -/
def xorRows (s : State) (p : Part) (tid : Nat) (d : Desc) (rows : List Nat) (addr : Nat → Nat) : State :=
  rows.foldl (fun s r => xorDigest s p tid (rangeOf d r) (recHash p tid (s.mem.read (addr r) d.size))) s

/-- Removes the resident rows of a range without writeback; rows whose mark is held are promoted again from the new home
(R222). -/
def dropResident (s : State) (p : Part) (tid : Nat) (t : Table) (lo hi : Nat) : State × List (Nat × Nat) :=
  let rows := ((List.range 16).flatMap (residents s t)).filter fun x => decide (lo ≤ x.1 ∧ x.1 < hi)
  let others := (t.promoting.map (·.1) ++ t.evicting).filter fun r => decide (lo ≤ r ∧ r < hi)
  let all := rows.map (·.1) ++ others
  let held := all.filterMap fun r => match dirFind s t r with
    | some iv => if markHeld s p iv.2 then some (r, deStep iv.2) else none
    | none => none
  (all.foldl (fun s r => dirRemove s p tid r) s, held)

/-- Runs a merge to its end. -/
def mergeAll (s : State) (p : Part) (tid : Nat) : Nat → State
  | 0 => s
  | n + 1 =>
    match (getTbl s p tid).bind (·.merge) with
    | none => s
    | some _ => mergeAll (mergeRange s p tid) p tid n

/-- The writebacks that a table has handed to the translation layer become durable. -/
def drainWbs (s : State) (p : Part) (tid : Nat) : Nat → State
  | 0 => s
  | n + 1 => drainWbs (durable s p tid) p tid n

/-- The swap of a checked generation at seal `n` (R159, R160, R188, R221, R222). -/
def swapGen (s : State) (p : Part) (tid n : Nat) (t : Table) (g : Staged) (c : Cmd) : State :=
  let me := lidxOf s p
  let d := t.desc
  let s := if d.tier = 2 then drainWbs s p tid t.wbs.length else s
  let s := match t.merge with
    | some m => mergeAll s p tid m.rows.length
    | none => s
  let t := (getTbl s p tid).getD t
  let rows := stagedRows t g me
  let resize : Bool := g.whole && decide (g.rows ≠ d.rows)
  let old := rows.filter fun r => decide (r < d.rows) && !unwalked t r
  let hashed := if resize then rows else rows.filter fun r => !unwalked t r
  let s := if resize then s else xorRows s p tid d old (recAddr s t me)
  let newAddr : Nat → Nat := stagedAddr t g me
  let dr := if d.tier = 2 then dropResident s p tid t (if g.whole then 0 else g.a) (if g.whole then Nat.max d.rows g.rows else g.b)
    else (s, [])
  let s := dr.1
  let t := (getTbl s p tid).getD t
  let t' := t.asStaged g
  let t' := { t' with
    desc := { t'.desc with gen := (d.gen + 1) % 65536 }, staged := none,
    merge := if !g.whole && d.tier == 2 then some { a := g.a, b := g.b, area := g.area, rows := rows } else t'.merge }
  let s := keepTbl s p tid t'
  let s := if resize then clearDigests s p tid else s
  let s := xorRows s p tid t'.desc hashed newAddr
  let s := if resize then modTbl s p tid (fun x => { x with digOk := true, build := none }) else s
  let s := if g.whole && d.tier == 2 then trimRange s d.lbase (ownShards t me * d.ns * d.size) else s
  let s := dr.2.foldl (fun s x =>
    match getTbl s p tid with
    | none => s
    | some t =>
      match freePoolSlot t (t.desc.eng x.1) with
      | some slot => if x.1 < t.desc.rows then promoteInto s p tid x.1 slot (some x.2) else s
      | none => s) s
  complete (raise s p evGenSwap [tid, t'.desc.gen, n]) c stDone n t'.desc.gen 0

/-- Whether an active export holds a generation back (R193). -/
def exportHolds (t : Table) (g : Staged) : Bool :=
  match t.exp with
  | some x => x.active && (g.whole || decide (g.a < x.b ∧ x.a < g.b))
  | none => false

/-- The generation swaps due at seal `n`. -/
def swapsAt (s : State) (p : Part) (n : Nat) : State :=
  ((tblsOf s p).map (·.desc.tid)).foldl (fun s tid =>
    match getTbl s p tid with
    | none => s
    | some t =>
      match t.staged with
      | some g =>
        match g.commit with
        | some c => if g.chk = .passed ∧ g.target ≤ n ∧ !exportHolds t g then swapGen s p tid n t g c else s
        | none => s
      | none => s) s

/-- A pending commit ends without a swap (R161). -/
def dropCommit (s : State) (p : Part) (tid status : Nat) : State :=
  match getTbl s p tid with
  | none => s
  | some t =>
    match t.staged with
    | some g =>
      match g.commit with
      | some c => complete (putTbl s p tid { t with staged := some { g with commit := none, chk := .idle } }) c status 0 0 0
      | none => s
    | none => s

/-! ### Tier flushes (R220) -/

/-- The resident rows of a tiered table that are dirty. -/
def dirtyRows (s : State) (t : Table) : List Nat :=
  let slots := sortBy id (t.usedPool ++ t.usedRes.map (· + t.pl.pslots))
  slots.filterMap fun x =>
    let h := s.mem.read (slotAddr t x) 16
    match dirFind s t (hRow h) with
    | some iv => if deSlot iv.2 = x ∧ deState iv.2 ≠ 2 ∧ hDirty h then some (hRow h) else none
    | none => none

/-- Starts the flush of one table. -/
def flushTable (s : State) (p : Part) (c : Cmd) (sl tid : Nat) : State :=
  match getTbl s p tid with
  | none => s
  | some t =>
    let dirty := dirtyRows s t
    let left := dirty ++ t.wbs.flatMap (·.rows)
    let s := putTbl s p tid { t with flushes := if left.isEmpty then t.flushes else t.flushes ++ [(c, sl, left)] }
    dirty.foldl (fun s r =>
      match getTbl s p tid with
      | none => s
      | some t => if (dirtyRows s t).contains r then writebackRow s p tid r true else s) s

/-- TFLUSH. -/
def tierFlush (s : State) (c : Cmd) (tid : Nat) : State :=
  let p := partOf s c.fn
  let sl := sealOrNone (lastSealOf s p)
  let all := ((tblsOf s p).filter fun t => t.desc.tier == 2).map (·.desc.tid)
  let tids := if tid = 0xFFFF then all else all.filter (· == tid % 4096)
  if tid ≠ 0xFFFF ∧ tids.isEmpty then rejectCmd s c evProgError stInvalid [tid]
  else
    let s := tids.foldl (fun s t => flushTable s p c sl t) s
    if flushing s p c then s else complete s c stDone sl 0 0

/-! ### Cameo exports (R189 to R194, R426) -/

/-- EXPORT. -/
def exportStart (s : State) (c : Cmd) (tid : Nat) (state : Bool) (chan : ChanNum) (c0 cc a b x shadow size : Nat) : State :=
  let p := partOf s c.fn
  let ch := getChan s chan.toNat
  match getTbl s p tid with
  | none => rejectCmd s c evProgError stInvalid [tid]
  | some t =>
    let m := if t.desc.pfmt = 3 then 64 else 8
    let whole (v : Nat) : Bool := decide (v % m = 0) || decide (t.desc.pfmt = 3 ∧ v = t.desc.dim)
    let colsOk : Bool := decide (1 ≤ cc ∧ c0 + cc ≤ t.desc.dim) && whole c0
      && (decide (cc % m = 0) || decide (t.desc.pfmt = 3 ∧ c0 + cc = t.desc.dim))
    let late : Bool := match lastSealOf s p with | some n => decide (x ≤ n) | none => false
    let areaOk : Bool := decide (shadow % 64 = 0 ∧ size % 64 = 0 ∧ 8192 ≤ size)
      && (inTier s p 1 shadow size || inTier s p 2 shadow size)
    if t.exp.isSome ∨ late ∨ b ≤ a ∨ t.desc.rows < b ∨ !colsOk ∨ !areaOk ∨ ch.part ≠ p ∨ ch.use ≠ 0 then
      rejectCmd s c evProgError stInvalid [tid]
    else
      let e : Export := { cmd := c, state := state, chan := chan, c0 := c0, cc := cc, a := a, b := b, x := x,
                          shadow := shadow, size := size }
      updLock (putTbl s p tid { t with exp := some e }) p

/-- Exports with target seal `n` become active (R190, R262 item 7). -/
def exportsAt (s : State) (p : Part) (n : Nat) : State :=
  let epoch := match getJob s p with | some j => j.epoch | none => 0
  ((tblsOf s p).map (·.desc.tid)).foldl (fun s tid =>
    modTbl s p tid fun t =>
      match t.exp with
      | some e =>
        if e.x = n ∧ !e.active then
          let me := lidxOf s p
          let inR (r : Nat) : Bool := decide (e.a ≤ r ∧ r < e.b)
          let shardRows (j : Nat) : List Nat :=
            (List.range t.desc.ns).filterMap fun l =>
              let r := l * t.desc.shards + j
              if r < t.desc.rows ∧ inR r then some r else none
          { t with exp := some { e with
              active := true, epoch := epoch, gen := t.desc.gen,
              todo := (List.range 16).map fun k => (engineRows t me k).filter inR,
              chunks := (myShards t.map me).map shardRows } }
        else t
      | none => t) s

/-- The entry bytes of a row's image (R194). -/
def cameoEntry (d : Desc) (e : Export) (b : List Byte) : List Byte :=
  let w0 := hRow b + hSeal b * 2 ^ 40 + b2n (hFrz b) * 2 ^ 63
  let body := bytesOf 8 w0 ++ slice b (16 + e.c0 * d.w) (e.cc * d.w)
    ++ (if d.pfmt = 3 then
          bytesOf 1 (hBase b) ++ packNibbles ((List.range (ceilDiv e.cc 64)).map fun i =>
            let g := e.c0 / 64 + i
            let o := (nth 0 b (16 + d.payLen + g / 2)).toNat
            if g % 2 = 0 then o % 16 else o / 16)
        else [])
    ++ (if e.state then slice b d.soff d.ssz else [])
  padTo 0 (roundUp body.length 8) body

/-- Entry size of an export. -/
def cameoEsz (d : Desc) (e : Export) : Nat :=
  roundUp (8 + e.cc * d.w + (if d.pfmt = 3 then 1 + ceilDiv (ceilDiv e.cc 64) 2 else 0) + (if e.state then d.ssz else 0)) 8

/-- A Cameo record of consecutive rows of a shard (R194). -/
def cameoRecord (p : Part) (d : Desc) (e : Export) (rows : List Nat) (data : List Byte) : List Byte :=
  let first := rows.headD 0
  let h := bytesOf 2 1 ++ bytesOf 2 (d.tid + p.toNat * 4096) ++ bytesOf 4 (first % d.shards) ++ bytesOf 8 e.x
    ++ bytesOf 2 e.gen ++ bytesOf 2 e.epoch ++ bytesOf 1 d.slog ++ bytesOf 1 (d.pfmt + 4 * b2n e.state)
    ++ bytesOf 1 d.opt ++ [0] ++ bytesOf 8 first ++ bytesOf 4 rows.length ++ bytesOf 2 e.c0 ++ bytesOf 2 e.cc
    ++ bytesOf 2 (if e.state then d.ssz else 0) ++ [0, 0] ++ bytesOf 4 (cameoEsz d e) ++ bytesOf 8 data.length
    ++ bytesOf 4 (crc32c data).toNat
  h ++ bytesOf 4 (crc32c h).toNat ++ data

/-- The export buffer at the head of a channel. -/
def expRun (s : State) (c : Nat) : Option DescRun :=
  (getChan s c).prog.find? fun r => decide (dOpc r.d = 4) && r.started && r.status.isNone

/-- Writes the Cameo records that are whole into the channel's buffers, cutting at buffer ends and at 4 MiB (R194,
R426). -/
def emitRecords (p : Part) (tid : Nat) : Nat → State → State
  | 0, s => s
  | n + 1, s =>
    match getTbl s p tid with
    | none => s
    | some t =>
      match t.exp with
      | none => s
      | some e =>
        match e.chunks with
        | [] => s
        | [] :: rest => emitRecords p tid n (putTbl s p tid { t with exp := some { e with chunks := rest } })
        | rows :: rest =>
          match expRun s e.chan.toNat with
          | none => s
          | some r =>
            let esz := cameoEsz t.desc e
            let room := dLen r.d - r.doneb
            if room < 64 + esz then
              let st := if r.doneb = 0 then stInvalid else stDone
              emitRecords p tid n (setRun s e.chan.toNat r { r with status := some st })
            else
              let k := Nat.min rows.length (Nat.min (4194304 / esz) ((room - 64) / esz))
              let take := rows.take k
              let ents := take.map fun row => (e.cur.find? fun x => x.1 == row).map (·.2)
              if ents.any Option.isNone then s
              else
                let bs := cameoRecord p t.desc e take (ents.flatMap fun x => x.getD [])
                let c := e.chan.toNat
                let o : State × Option (Nat × Nat) := if dDsth r.d then
                    (hostRange s p (chanPort s c) (wrapAddr (dDst r.d) (dDwrap r.d) r.doneb) (dDwrap r.d) bs, none)
                  else writeRange s p false (dRaw r.d) (blkDma (c / 128)) (wrapAddr (dDst r.d) (dDwrap r.d) r.doneb)
                    (dDwrap r.d) bs
                let s := setRun o.1 c r (match o.2 with
                  | none => { r with doneb := r.doneb + bs.length, aux := r.aux + 1 }
                  | some x => { r with status := some x.2, doneb := r.doneb + x.1, aux := r.aux + 1 })
                let e' := { e with
                  chunks := rows.drop k :: rest, written := e.written + k,
                  cur := e.cur.filter fun x => !take.contains x.1 }
                emitRecords p tid n (putTbl s p tid { t with exp := some e' })

/-- Clears EXS in the live record of a row at `a` (R191). The slot of a tiered row is then dirty, and a home record is
written through the translation layer, so that a row's home stays current. -/
def clearExsAt (s : State) (t : Table) (a row : Nat) : State :=
  let b := s.mem.read a t.desc.size
  if !(hExs b && hRow b == row) then s
  else
    let b' := fixCrc (setHdr b 97 97 0)
    if t.desc.tier ≠ 2 then recWrite s a b'
    else if tierOf a = some 3 then programPages { s with mem := s.mem.write a b' } none (pagesOf a t.desc.size)
    else recWrite s a (setDirty b' true)

/-- An engine exports its next row: the shadowed copy where one stands, its EXS cleared; the live record or the home
otherwise (R190, R191, R219). -/
def exportRow (s : State) (p : Part) (tid e : Nat) : State :=
  match getTbl s p tid with
  | none => s
  | some t =>
    match t.exp with
    | none => s
    | some x =>
      match nth [] x.todo e with
      | [] => emitRecords p tid (2 * x.chunks.length + x.cur.length + 8) s
      | r :: rest =>
        if !x.active || x.fail.isSome || (expRun s x.chan.toNat).isNone then s
        else
          let live := recAddr s t (lidxOf s p) r
          let sh := x.ents.find? fun y => y.row == r
          let src := match sh with | some y => y.addr | none => live
          whenOpen s p [(src, t.desc.size, false)] fun s =>
            let s := chargeRead (countRec s p e) p src t.desc.size (blkRow e)
            match recRead s t src r with
            | none =>
              let s := count s (blkRow e) 3 3 1 (atPart p)
              putTbl s p tid { t with exp := some { x with fail := some stCksum, failRow := r } }
            | some b =>
              let s := if sh.isSome then clearExsAt s t live r else s
              let x' := { x with todo := setNth x.todo e rest, cur := x.cur ++ [(r, cameoEntry t.desc x b)] }
              emitRecords p tid (2 * x.chunks.length + x.cur.length + 8) (putTbl s p tid { t with exp := some x' })

/-- Clears EXS in every live record that the shadow area names (R192). -/
def clearExs (s : State) (t : Table) (me : Nat) (x : Export) : State :=
  x.ents.foldl (fun s y =>
    clearExsAt s t (recAddr s t me y.row) y.row) s

/-- Ends an export with a status: the descriptor in progress and the command complete (R192, R193, R426). -/
def exportEnd (s : State) (p : Part) (tid status : Nat) : State :=
  match getTbl s p tid with
  | none => s
  | some t =>
    match t.exp with
    | none => s
    | some x =>
      let s := if status = stDone then s else clearExs s t (lidxOf s p) x
      let s := match expRun s x.chan.toNat with
        | some r => if x.active ∧ (status ≠ stDone ∨ r.doneb ≠ 0) then setRun s x.chan.toNat r { r with status := some status } else s
        | none => s
      let s := updLock (putTbl s p tid { t with exp := none }) p
      complete s x.cmd status x.written 0 (if status = stCksum then x.failRow else 0)

/-- EXPORT_COMPLETE: every row written, or a failure. -/
def exportDone (s : State) (p : Part) (tid : Nat) : State :=
  match getTbl s p tid with
  | none => s
  | some t =>
    match t.exp with
    | none => s
    | some x =>
      match x.fail with
      | some st => exportEnd s p tid st
      | none =>
        if x.active ∧ x.todo.all List.isEmpty ∧ x.chunks.all List.isEmpty then exportEnd s p tid stDone else s

/-! ### Release, placement, parameters -/

/-- Ends the work that commands have in progress on a table: writebacks become durable, an export and a pending commit
are aborted. -/
def endTable (s : State) (p : Part) (tid : Nat) : State :=
  match getTbl s p tid with
  | none => s
  | some t => exportEnd (dropCommit (drainWbs s p tid t.wbs.length) p tid stAborted) p tid stAborted

/-- A release takes effect: the table's slot of the directory is zeroed (R514). -/
def releaseNow (s : State) (p : Part) (tid : Nat) : State :=
  let s := endTable s p tid
  let s := { s with tables := tabErase s.tables (tkey p tid), places := tabErase s.places (tkey p tid) }
  updLock { s with mem := s.mem.zero (dirSlot s p tid) (0x100 + 65552) } p

/-- A placement entry takes effect. -/
def placeNow (s : State) (p : Part) (e : Place) : State :=
  let s := { s with places := tabSet s.places (tkey p e.tid) e }
  let s := wrNow s (dirSlot s p e.tid + 0xC0) (bytesOf 64 e.num)
  let s := modTbl s p e.tid fun t => { t with place := some e }
  { s with tierLock := setNth s.tierLock p.toNat true }

/-- Address of an RF entry's parameter block in the table directory (R514). -/
def rfSlot (s : State) (p : Part) (e : Nat) : Nat := nth 0 s.tdir p.toNat + 0x13000000 + 128 * e

/-- Writes the parameter block of an RF entry into its slot. -/
def keepRf (s : State) (p : Part) (e : Nat) (q : Params) : State :=
  let s := modJob s p fun j => { j with rfPar := tabSet j.rfPar e q }
  wrNow s (rfSlot s p e) (q.p.flatMap (fun x => bytesOf 4 x.toNat) ++ bytesOf 4 q.p1.toNat ++ bytesOf 4 q.p2.toNat)

/-- A block with P0 to P10 replaced, its products reset where asked. -/
def setParams (q : Params) (reset : Bool) (ps : List W32) : Params :=
  let q := { q with p := (ps ++ List.replicate 11 0).take 11 ++ q.p.drop 11 }
  if reset then { q with p1 := 0x3F800000, p2 := 0x3F800000 } else q

/-- A parameter set takes effect. -/
def paramNow (s : State) (p : Part) (xentry : Bool) (n : Nat) (reset : Bool) (ps : List W32) : State :=
  if xentry then
    match getJob s p with
    | none => s
    | some j => keepRf s p n (setParams (tabGet {} j.rfPar n) reset ps)
  else
    match getTbl s p n with
    | none => s
    | some t => keepTbl s p n { t with par := setParams t.par reset ps }

/-- A table operation takes effect at seal `n`, or while no step runs, and its command completes (R536). -/
def applyOp (s : State) (p : Part) (o : TblOp) (n : Option Nat) : State :=
  let a := sealOrNone n
  match o with
  | .define d c => if defineOk s p d then complete (defineNow s p d) c stDone a 0 0 else tblReject s c d.tid
  | .release t c =>
    if (getTbl s p t).isNone ∨ planUses s p t then tblReject s c t
    else complete (releaseNow s p t) c stDone a 0 0
  | .place e c => complete (placeNow s p e) c stDone a 0 0
  | .param x k r ps c => complete (paramNow s p x k r ps) c stDone a 0 0

/-- A table operation that has passed its checks: at once while no step runs, else at the next seal. -/
def tblOp (s : State) (p : Part) (o : TblOp) : State :=
  if runsSteps s p then { s with tblOps := s.tblOps ++ [(p, o)] } else applyOp s p o (lastSealOf s p)

/-- The waiting operations of a partition take effect in order (R262 item 4). -/
def applyOps (s : State) (p : Part) (n : Nat) : State :=
  let mine := s.tblOps.filter fun x => x.1 == p
  mine.foldl (fun s x => applyOp s p x.2 (some n)) { s with tblOps := s.tblOps.filter fun x => x.1 != p }

/-- Whether a waiting operation defines a table. -/
def pendingDef (s : State) (p : Part) (tid : Nat) : Bool :=
  s.tblOps.any fun x => x.1 == p && (match x.2 with | .define d _ => d.tid == tid | _ => false)

/-- The state with waiting placements and releases in force, for the checks of a definition behind them. -/
def afterOps (s : State) (p : Part) : State :=
  s.tblOps.foldl (fun s x =>
    if x.1 = p then
      match x.2 with
      | .place e _ => { s with places := tabSet s.places (tkey p e.tid) e }
      | .release t _ => { s with tables := tabErase s.tables (tkey p t) }
      | _ => s
    else s) s

/-- TDEF. -/
def tableDefine (s : State) (c : Cmd) (bits512 : BitVec 512) : State :=
  let p := partOf s c.fn
  let d := descOf bits512
  if nth 0 s.tdir p.toNat = 0 ∨ pendingDef s p d.tid ∨ !defineOk (afterOps s p) p d then tblReject s c d.tid
  else tblOp s p (.define d c)

/-- TREL. -/
def tableRelease (s : State) (c : Cmd) (tid : Nat) : State :=
  let p := partOf s c.fn
  if ((getTbl s p tid).isNone ∧ !pendingDef s p tid) ∨ planUses s p tid then tblReject s c tid
  else tblOp s p (.release tid c)

/-- Whether a change of a placement entry touches only the fields that may change (R200). -/
def placeChange (a b : Place) : Bool :=
  { a with hlog := 0, pthr := 0, flo := 0, fhi := 0, dsh := 0 } == { b with hlog := 0, pthr := 0, flo := 0, fhi := 0, dsh := 0 }

/-- PLACE. -/
def tablePlace (s : State) (c : Cmd) (x : BitVec 512) : State :=
  let p := partOf s c.fn
  let e := placeOf x
  let ok : Bool := placeOk e && (match getTbl s p e.tid with
    | some t => (match t.place with | some o => placeChange o e | none => true)
    | none => placeIn s p e 64)
  if !ok then rejectCmd s c evProgError stInvalid [e.tid] else tblOp s p (.place e c)

/-- Whether an exchange entry of the loaded plan is an RF entry. -/
def isRf (s : State) (p : Part) (e : Nat) : Bool :=
  match getJob s p with
  | none => false
  | some j => match j.plan.exch[e]? with
    | some x => x.kind == 1
    | none => false

/-- PARAM. -/
def tableParam (s : State) (c : Cmd) (n : Nat) (flags : Byte) (ps : List W32) : State :=
  let p := partOf s c.fn
  let x := bit 1 flags.toNat
  let n := if x then n else n % 4096
  let known : Bool := if x then isRf s p n else (getTbl s p n).isSome || pendingDef s p n
  if !known then rejectCmd s c evProgError stInvalid [n] else tblOp s p (.param x n (bit 0 flags.toNat) ps c)

/-! ### Table work of a seal (R180, R206, R216, R262, R484) -/

/-- Releases the pins of the step and moves reserve rows. -/
def releasePins (s : State) (p : Part) : State :=
  ((tblsOf s p).map (·.desc.tid)).foldl (fun s tid =>
    let s := modTbl s p tid fun t => { t with pins := [] }
    reserveMove s p tid) s

/-- Starts the decay sweeps due at seal `n`. -/
def sweepsAt (s : State) (p : Part) (n : Nat) : State :=
  ((tblsOf s p).filter fun t => t.desc.tier == 2).foldl (fun s t =>
    if n % 2 ^ t.pl.hlog = 0 then modTbl s p t.desc.tid startSweeps else s) s

/-- Keeps the bias products formed in a step that is not vetoed, and drops them otherwise (R170). -/
def keepProducts (s : State) (p : Part) (vetoed : Bool) : State :=
  ((tblsOf s p).map (·.desc.tid)).foldl (fun s tid =>
    match getTbl s p tid with
    | none => s
    | some t =>
      match t.par.next with
      | none => s
      | some pr =>
        if vetoed then putTbl s p tid { t with par := { t.par with next := none } }
        else keepTbl s p tid { t with par := { t.par with p1 := pr.1, p2 := pr.2, next := none } }) s

/-- Latches the STEP values of the partition's table counters (R484). -/
def latchCounters (s : State) (p : Part) : State :=
  modLive s fun v => { v with tbl := v.tbl.map fun kv =>
    if kv.1 / 12 / 4096 = p.toNat then
      (kv.1, { kv.2 with step := Nat.min kv.2.run 0xFFFFFFFF, run := 0 })
    else kv }

end Sys2Proof.Machine
end

