-- ==== Sys2Proof/Machine/Checks.lean ====
section
/-! DEFINITION. The words of the unit streams decoded, and the rules that reject a step plan when it is loaded
(R11, R44, R69, R73 to R76, R83, R98, R103, R115, R119 to R121, R136, R137, R142, R146, R172, R176 to R179, R197 to
R199, R239, R240, R246, R248 to R252, R258, R267, R268, R271 to R274, R279, R310 to R316, R400, R430, R533, R534,
R538). -/

namespace Sys2Proof.Machine

/-! ### Stream words (R81, R95, R97, R245, R246) -/

/-- The array opcodes in code order (R81). -/
def arrOps : List AOp :=
  [.anop, .awld, .asld, .amm, .ammt, .atwin, .aacc, .admp, .aldmp, .aque, .adrn, .amov, .aclr, .amode]

/-- The vector opcodes with their codes (R97). -/
def vecOps : List (Nat × VOp) :=
  [(0x00, .vnop), (0x01, .vld), (0x02, .vst), (0x03, .vmov), (0x04, .vbc), (0x05, .vtr), (0x06, .vgth), (0x07, .vsel),
   (0x08, .vmsk), (0x09, .vmcmp), (0x0A, .vmlog), (0x10, .vadd), (0x11, .vsub), (0x12, .vmul), (0x13, .vfma),
   (0x14, .vdiv), (0x15, .vmax), (0x16, .vmin), (0x17, .vabs), (0x18, .vneg), (0x19, .vscl), (0x1A, .vsqrt),
   (0x1B, .vrsq), (0x1C, .vexp2), (0x1D, .vlog2), (0x20, .vact), (0x21, .vactd), (0x28, .vnrm), (0x29, .vnrmb),
   (0x2A, .vsmx), (0x2B, .vsmxb), (0x30, .vbce), (0x31, .vmse)]
  ++ [(0x38, .vcvt), (0x39, .vqnt), (0x3A, .vdq), (0x3C, .vrnd), (0x3D, .vdrp), (0x40, .rsum), (0x41, .rmax),
   (0x42, .rmin), (0x43, .rssq), (0x44, .rdot)]

/-- The opcode field of a stream word. -/
def wordOpc (w : BitVec 128) : Nat := (w.extractLsb' 120 8).toNat

/-- Whether bits `[hi:lo]` of a stream word are zero. -/
def zeroBits (w : BitVec 128) (hi lo : Nat) : Bool := decide (bits hi lo w.toNat = 0)

/-- A control word of any stream; none where its opcode or a reserved bit makes it invalid. -/
def ctrlWord (w : BitVec 128) : Option SWord :=
  match wordOpc w with
  | 0xF0 => if zeroBits w 119 32 then some (.sat (bits 31 0 w.toNat)) else none
  | 0xF1 => if zeroBits w 119 12 then some (.scue (bits 11 0 w.toNat)) else none
  | 0xF2 => if zeroBits w 119 12 then some (.sarr (bits 11 0 w.toNat)) else none
  | 0xFF => if zeroBits w 119 0 then some .send else none
  | _ => none

/-- An array instruction word. -/
def arrWord (w : BitVec 128) : Option SWord :=
  if zeroBits w 7 0 then (arrOps[wordOpc w]?).map fun op => .arr op (AWord.ofBits w) else none

/-- A vector instruction word. -/
def vecWord (w : BitVec 128) : Option SWord :=
  if zeroBits w 28 16 then (vecOps.find? fun o => o.1 == wordOpc w).map fun o => .vec o.2 (VWord.ofBits w) else none

/-- A step-sequencer word; the masks name only domains 0 to 42, and retain only scratchpad bank groups (R430). -/
def seqWord (w : BitVec 128) : Option SWord :=
  let mask : W64 := w.extractLsb' 0 64
  match wordOpc w with
  | 0xE0 => if zeroBits w 119 43 then some (.pwake mask) else none
  | 0xE1 =>
    if !zeroBits w 119 66 || !zeroBits w 63 43 then none
    else match bits 65 64 w.toNat with
      | 0 => some (.pgateOff mask)
      | 1 => if zeroBits w 35 0 then some (.pgateRetain mask) else none
      | _ => none
  | 0xE2 => if zeroBits w 119 40 then some (.dmaq (bits 31 0 w.toNat) (w.extractLsb' 32 8)) else none
  | 0xE3 =>
    if zeroBits w 119 11 && zeroBits w 7 6 && decide (bits 10 8 w.toNat ≤ 4) then
      some (.lkg (w.extractLsb' 0 6) (bits 10 8 w.toNat))
    else none
  | 0xE4 => if zeroBits w 119 20 then some (.xch (w.extractLsb' 0 20)) else none
  | _ => none

/-- The word of a unit's stream. -/
def streamWord (u : SUnit) (w : BitVec 128) : Option SWord :=
  if 0xF0 ≤ wordOpc w then ctrlWord w
  else match u with
    | .seq => seqWord w
    | .arr => arrWord w
    | .vec => vecWord w

/-- The words of a unit in a section. -/
def unitWords (st : Streams) (u : SUnit) : List (BitVec 128) :=
  match u with
  | .seq => st.seq
  | .arr => st.arr
  | .vec => st.vec

/-! ### Cue points (R248) -/

def cueUnits (c : BitVec 128) : Nat := bits 2 0 c.toNat
def cueType (c : BitVec 128) : Nat := bits 31 28 c.toNat
def cueRef (c : BitVec 128) : Nat := bits 51 32 c.toNat
def cuePlan (c : BitVec 128) : Nat := bits 127 96 c.toNat

/-- The number of a unit: its bit in UNITS. -/
def SUnitNum (u : SUnit) : Nat :=
  match u with
  | .seq => 0
  | .arr => 1
  | .vec => 2

/-- The cue point of a type that each step has once. -/
def cueOf (pl : Plan) (ty : Nat) : Nat := (findIx (fun c => cueType c == ty) pl.cues).getD 4096

/-! ### Header and sections (R239, R240, R267, R538) -/

/-- The header fields by their byte offsets, each with whether it leaves its range. -/
def headerFaults (p : Part) (pl : Plan) : List (Nat × Bool) :=
  [(0, decide (pl.magic ≠ 0x47524E31)), (4, decide (pl.ver ≠ 1)), (6, decide (1 < pl.level)),
   (7, decide (pl.look = 0 ∨ 8 < pl.look)), (16, pl.level == 1 && decide (pl.nsmp % (64 * pl.nleaf) ≠ 0)),
   (20, decide (pl.nmb = 0 ∨ 256 < pl.nmb)), (22, pl.level != 1 && pl.nleaf != 0),
   (24, decide (pl.nmod = 0 ∨ 16384 < pl.nmod)), (26, decide (pl.nmod ≤ pl.lidx)), (28, decide (255 < pl.nstart)),
   (29, decide (pl.nrec = 0 ∨ 255 < pl.nrec)), (30, decide (1 < pl.lsmode)), (31, decide (pl.ls0 < pl.lsmin ∨ pl.lsmax < pl.ls0)),
   (32, decide (pl.lsmin < -64)), (33, decide (64 < pl.lsmax)), (34, decide (pl.lsw = 0 ∨ 65535 < pl.lsw)),
   (36, decide (480 < pl.ngt) || (pl.level != 1 && pl.ngt != 0)), (38, decide (pl.cues.length = 0 ∨ 4096 < pl.cues.length)),
   (56, decide (pl.part ≠ p)), (58, decide (1 < pl.compat))]

/-- Whether a header field leaves its range. -/
def headerBad (p : Part) (pl : Plan) : Bool := (headerFaults p pl).any (·.2)

/-- The required sections and the section types. -/
def sectsBad (pl : Plan) : Bool :=
  !([1, 2, 3, 5, 11, 12].all pl.sects.contains && pl.sects.all (fun t => decide (1 ≤ t ∧ t ≤ 12))
    && decide (pl.sects.length ≤ 12) && (pl.nstart == 0 || pl.sects.contains 10)
    && (pl.sects.contains 10 == pl.start.isSome) && (pl.sects.contains 9 == pl.selftest.isSome))

/-- The intake area (R538). -/
def intakeBad (pl : Plan) : Bool :=
  let n := (pl.look + 1) * pl.slotsz
  !(decide (pl.ibase % 64 = 0) && decide (pl.slotsz % 64 = 0 ∧ 64 ≤ pl.slotsz)
    && (decide (pl.ibase + n ≤ dualBase) || decide (planBase ≤ pl.ibase ∧ pl.ibase + n ≤ t0End)))

/-- The polynomial slots and the headers of slots 13 to 15 (R103). -/
def polyBad (pl : Plan) : Bool :=
  let lo (k : Nat) : Nat := natOf (slice pl.poly (1040 * k) 4)
  let sw (k : Nat) : Nat := natOf (slice pl.poly (1040 * k + 4) 1)
  !(decide (pl.poly.length = 16640) && decide (lo 13 = 0x3F800000 ∧ sw 13 = 0xFC) && decide (lo 14 = 0 ∧ sw 14 = 0xFA)
    && decide (lo 15 = 0x3F800000 ∧ sw 15 = 0xFA))

/-! ### Tensor entries (R69, R119 to R121, R172, R197 to R199, R533, R534) -/

/-- Whether a range is one that a plan may name: in the scratchpad outside the fixed areas, or in the partition's
window of T1 or T2 outside the reserved area. -/
def planRange (s : State) (p : Part) (a n : Nat) : Bool :=
  match tierOf a with
  | some 0 => decide (a + n ≤ t0End) && !overlaps a n dualBase (planBase - dualBase)
  | some 1 => inTier s p 1 a n
  | some 2 => inTier s p 2 a n
  | _ => false

/-- Bytes from an entry's base to the end of its last element, and of its shift area. -/
def entryLen (e : TEntry) : Nat := if e.rows = 0 then 0 else (e.rows - 1) * e.pitch + e.cols * fmtWidth e.fmt

/-- The words of a unit in every stream section of a plan. -/
def planWords (pl : Plan) (u : SUnit) : List SWord :=
  let of' (st : Option Streams) : List (BitVec 128) := match st with | some v => unitWords v u | none => []
  (of' pl.selftest ++ of' pl.start ++ unitWords pl.steady u ++ unitWords pl.recov u).filterMap (streamWord u)

/-- The bytes at the shift base of a Facet8 entry: one byte per channel of a COPY (R289), the scale block of a source that an
AWLD loads into a region with one (R70), the lines of shifts of any other (R534). -/
def shiftLen (pl : Plan) (i : Nat) (e : TEntry) : Nat :=
  let loads := (planWords pl .arr).filterMap fun x => match x with
    | .arr .awld w =>
      let r := nth {} pl.tensors w.aux.toNat
      if w.src.toNat = i ∧ r.scaled then some (scaleLen r) else none
    | _ => none
  let lines := if e.bax = 0 then e.rows else if e.bax = 1 then e.cols else ceilDiv e.rows 64
  let len := if e.bax = 1 then ceilDiv e.rows 64 else ceilDiv e.cols 64
  match pl.exch.find? (fun x => decide ((x.kind = 1 ∨ x.kind = 2) ∧ x.cfmt = 3 ∧ x.copy = i)) with
  | some x => ceilDiv x.npar x.kch
  | none =>
    if loads ≠ [] then loads.foldl Nat.max 0
    else if lines = 0 then 0 else (lines - 1) * e.spitch + len

/-- The rules of a shelf region entry (R69). -/
def regionBad (e : TEntry) : Bool :=
  !(decide (e.base % 64 = 0) && decide (e.rows % 512 = 0 ∧ 0 < e.rows) && decide (e.cols % 512 = 0 ∧ 0 < e.cols)
    && decide (e.n0 % 512 = 0) && (e.fmt == 0 || e.fmt == 2 || e.fmt == 3)
    && decide (e.base + e.regionSize ≤ 25165824))

/-- The rules of entry `i` in device memory. -/
def tensorBad (s : State) (p : Part) (pl : Plan) (i : Nat) (e : TEntry) : Bool :=
  !(decide (e.fmt ≤ 6) && decide (e.bax ≤ 2) && planRange s p e.base (entryLen e)
    && (decide (e.rows ≤ 1) || decide (e.cols * fmtWidth e.fmt ≤ e.pitch))
    && (e.fmt != 3 || planRange s p e.sbase (shiftLen pl i e))
    && (e.fmt != 3 || e.bax == 1 || decide (e.ocol % 64 = 0)) && (e.fmt != 3 || e.bax == 0 || decide (e.orow % 64 = 0))
    && !decide (0x40000000 ≤ e.ident ∧ e.ident ≤ 0x6FFFFFFF))

/-- An entry of the tensor table breaks a rule. -/
def entryBad (s : State) (p : Part) (pl : Plan) (x : TEntry × Nat) : Bool :=
  if x.1.shelf then regionBad x.1 || decide (0x40000000 ≤ x.1.ident ∧ x.1.ident ≤ 0x6FFFFFFF) else tensorBad s p pl x.2 x.1

/-- A tensor entry of a plan, by index. -/
def tent (pl : Plan) (i : Nat) : TEntry := nth {} pl.tensors i

/-- Whether an index names a tensor in device memory of the allowed tiers, given as a bit mask. -/
def isTensor (pl : Plan) (i tiers : Nat) : Bool :=
  decide (i < pl.tensors.length) && !(tent pl i).shelf
  && (match tierOf (tent pl i).base with | some t => bit t tiers | none => false)

/-- Whether an index names a tensor aligned for a unit that moves whole granules (R121). -/
def granule (pl : Plan) (i : Nat) : Bool := decide ((tent pl i).base % 64 = 0 ∧ (tent pl i).pitch % 64 = 0)

/-- Whether an index names a tensor whose base and pitch are multiples of its element width, as a unit that moves elements
asks (R121). -/
def widthOk (pl : Plan) (i : Nat) : Bool :=
  decide ((tent pl i).base % fmtWidth (tent pl i).fmt = 0 ∧ (tent pl i).pitch % fmtWidth (tent pl i).fmt = 0)

/-- Whether an index names a tensor for a row engine, in any tier: in the scratchpad, aligned. -/
def rowTensor (pl : Plan) (i : Nat) : Bool := isTensor pl i 6 || (isTensor pl i 1 && granule pl i)

/-- Whether an index names a tensor for the array: in the scratchpad and aligned. -/
def arrTensor (pl : Plan) (i : Nat) : Bool := isTensor pl i 1 && granule pl i

/-! ### Array words (R64, R66, R74, R75, R82, R83) -/

/-- Flag bits that an opcode uses. -/
def arrFlags (op : AOp) : Nat :=
  match op with
  | .amm => 0xF8 | .ammt => 0xF8 | .aacc => 0xE0 | .asld => 0x08 | .awld => 0x80 | .admp => 0xFC | .aldmp => 0x04
  | .amov => 0x80 | .amode => 0xE0 | _ => 0

/-- The fields an opcode uses: SRC, DST, CNT, GST and GCT, TIL, AUX. -/
def arrFields (op : AOp) : List Bool :=
  match op with
  | .anop => [false, false, true, false, false, false]
  | .adrn => [false, false, true, false, false, false]
  | .awld => [true, false, false, false, false, true]
  | .asld => [true, false, true, false, false, false]
  | .amm => [true, true, true, true, true, true]
  | .ammt => [true, true, true, true, true, true]
  | .aacc => [true, true, true, true, true, true]
  | .admp => [true, true, true, false, true, false]
  | .aldmp => [true, true, true, false, true, false]
  | .amov => [true, true, true, false, true, false]
  | .aclr => [false, true, true, false, true, false]
  | _ => [false, false, false, false, false, false]

/-- Whether a reserved field or flag of an array word is nonzero. -/
def arrReserved (op : AOp) (w : AWord) : Bool :=
  decide (w.flg.toNat &&& (255 - arrFlags op) ≠ 0)
  || ((arrFields op).zip [w.src.toNat, w.dst.toNat, w.cnt.toNat, w.gst.toNat + w.gct.toNat, w.til.toNat, w.aux.toNat]).any
    fun x => !x.1 && decide (x.2 ≠ 0)

/-- Whether a slab leaves an operand's local extent within the axis (R46). -/
def slabBad (w : AWord) (axis lo n : Nat) : Bool :=
  let a := 64 * w.gst.toNat
  let b := Nat.min axis (a + 64 * w.gct.toNat)
  decide (a < b ∧ (a < lo ∨ lo + n < b))

/-- A Facet8 operand whose blocked axis does not serve the reduction axis (R534). -/
def baxBad (e : TEntry) (rowAxis : Bool) : Bool := e.fmt == 3 && (if rowAxis then e.bax == 0 else e.bax == 1)

/-- A product's rules that do not depend on its kind. -/
def productBad (op : AOp) (w : AWord) : Bool :=
  w.fmt == 1 || w.gct.toNat == 0 || decide (16 < w.gct.toNat) || w.til.toNat == 0 || w.cnt.toNat == 0
  || decide ((if w.scl && op != .aacc then 32 else 8) < w.til.toNat)
  || decide (2097152 < w.dst.toNat + w.cnt.toNat * w.rowLen)
  || (w.scl && op != .aacc && w.fmt != 3)
  || (!w.scl && op == .amm && w.fmt == 3 && decide (4096 < 512 * w.til.toNat))

/-- AMM and AMMT: the streamed operand and the region. -/
def weightBad (pl : Plan) (op : AOp) (w : AWord) : Bool :=
  let e := tent pl w.src.toNat
  let r := tent pl w.aux.toNat
  let a := 64 * w.gst.toNat
  let b := a + 64 * w.gct.toNat
  let n := 512 * w.til.toNat
  !(arrTensor pl w.src.toNat) || decide (pl.tensors.length ≤ w.aux.toNat) || !r.shelf || e.fmt != r.fmt || e.fmt != w.fmt
  || decide (4 ≤ e.fmt ∨ e.fmt = 1) || baxBad e false || slabBad w e.lcols e.ocol e.cols
  || (if op == .amm then decide (r.rows < b ∨ r.cols < n) else decide (a < r.n0 ∨ r.n0 + r.cols < b ∨ r.rows < n))
  || (w.scl && !r.scaled)

/-- AACC: the streamed gradient and the stationary activation. -/
def aaccBad (pl : Plan) (w : AWord) : Bool :=
  let e := tent pl w.src.toNat
  let r := tent pl w.aux.toNat
  !(arrTensor pl w.src.toNat) || !(arrTensor pl w.aux.toNat) || e.fmt != r.fmt || e.fmt != w.fmt
  || decide (4 ≤ e.fmt ∨ e.fmt = 1) || baxBad e true || baxBad r true || decide (e.lrows % 64 ≠ 0)
  || slabBad w e.lrows e.orow e.rows || slabBad w e.lrows r.orow r.rows

/-- Dumps and moves: the block, the tensor's extent and format. -/
def dumpBad (pl : Plan) (op : AOp) (w : AWord) : Bool :=
  let inn := op == .amov && w.two
  let base := if inn then w.dst.toNat else w.src.toNat
  let t := if inn then w.src.toNat else w.dst.toNat
  let e := tent pl t
  w.til.toNat == 0 || decide (32 < w.til.toNat) || decide (2097152 < base + w.cnt.toNat * w.rowLen)
  || !(arrTensor pl t) || decide (e.rows < w.cnt.toNat) || decide (w.rowLen < e.cols)
  || (match op with
    | .admp => e.fmt != w.fmt || (e.fmt == 3 && !(e.bax == 0 || (e.bax == 2 && w.sbk)))
    | .aldmp => e.fmt != 4
    | _ => e.fmt != 1)

/-- One array word breaks a rule of R83. -/
def arrBad (pl : Plan) (op : AOp) (w : AWord) : Bool :=
  arrReserved op w ||
  (match op with
  | .amm => productBad op w || weightBad pl op w
  | .ammt => productBad op w || weightBad pl op w
  | .aacc => productBad op w || aaccBad pl w
  | .admp => dumpBad pl op w
  | .aldmp => dumpBad pl op w
  | .amov => dumpBad pl op w
  | .aclr => w.til.toNat == 0 || decide (32 < w.til.toNat) || decide (2097152 < w.dst.toNat + w.cnt.toNat * w.rowLen)
  | .awld => !(arrTensor pl w.src.toNat) || decide (4 ≤ (tent pl w.src.toNat).fmt) || decide (pl.tensors.length ≤ w.aux.toNat) || !(tent pl w.aux.toNat).shelf
  | .asld => !(arrTensor pl w.src.toNat) || decide (4 ≤ (tent pl w.src.toNat).fmt) || w.cnt.toNat == 0 || decide (4096 < w.cnt.toNat)
  | .amode => decide (bits 7 6 w.flg.toNat = 3)
  | _ => false)

/-- The rules of a twin pair (R64). -/
def twinBad (pl : Plan) (a b : AWord) : Bool :=
  let e := tent pl a.src.toNat
  let covers (w : AWord) (lo n : Nat) : Bool := decide (64 * w.gst.toNat ≤ lo ∧ lo + n ≤ 64 * w.gst.toNat + 64 * w.gct.toNat)
  !(a.src == b.src && a.fmt == b.fmt && decide (e.rows * e.cols ≤ 262144) && decide (a.cnt.toNat = e.rows)
    && decide (b.cnt.toNat = e.cols) && covers a e.ocol e.cols && covers b e.orow e.rows)

/-- The words that ATWIN and AQUE need after them. -/
def arrSeqBad (pl : Plan) : List SWord → Bool
  | [] => false
  | .arr .atwin _ :: rest =>
    (match rest with
    | .arr .ammt a :: .arr .aacc b :: _ => twinBad pl a b
    | _ => true) || arrSeqBad pl rest
  | .arr .aque _ :: rest =>
    (match rest with
    | .arr .aacc _ :: _ => false
    | _ => true) || arrSeqBad pl rest
  | _ :: rest => arrSeqBad pl rest

/-- The first array word of a stream. -/
def firstArr : List SWord → Option (AOp × AWord)
  | [] => none
  | .arr op w :: _ => some (op, w)
  | _ :: rest => firstArr rest

/-- R73 and R251: the first array word of a COMPAT plan sets COLR, of a deferred section MODE = 2. -/
def firstBad (pl : Plan) (deferred : Bool) (ws : List SWord) : Bool :=
  let amode (f : AWord → Bool) : Bool := match firstArr ws with
    | some (.amode, w) => f w
    | some _ => false
    | none => true
  (pl.compat == 1 && !amode fun w => w.flag 5) || (deferred && !amode fun w => decide (bits 7 6 w.flg.toNat = 2))

/-! ### Vector words (R98, R101, R111 to R116, R268) -/

/-- Opcodes whose formats are those that R101 allows. -/
def isElem (op : VOp) : Bool :=
  [.vbc, .vadd, .vsub, .vmul, .vfma, .vdiv, .vmax, .vmin, .vabs, .vneg, .vscl, .vsqrt, .vrsq, .vexp2, .vlog2, .vact, .vactd,
   .vnrm, .vnrmb, .vsmx, .vsmxb, .vbce, .vmse, .vdrp].contains op

/-- The reductions. -/
def isRed (op : VOp) : Bool := [.rsum, .rmax, .rmin, .rssq, .rdot].contains op

/-- Flag bits that an opcode uses (R93, R96): BC where the operation takes TB as an element of the destination's place, ZM
where the mask governs a destination, RND and GRAD where a result is rounded into DF. R97 and R98 do not list them
opcode by opcode (DESIGN CHOICE, log entry 118). -/
def vecFlags (op : VOp) : Nat :=
  if op == .vnop then 0
  else if op == .vld then 0xC1
  else if op == .vst then 0x80
  else if op == .vmsk || op == .vmlog then 0xC0
  else if isRed op then 0x87
  else if op == .vmov || op == .vtr || op == .vgth || op == .vsel || op == .vrnd then 0xC0
  else if op == .vmcmp then 0xD8
  else if op == .vqnt then 0xE5
  else if op == .vbce || op == .vmse then 0xFD
  else if [.vbc, .vadd, .vsub, .vmul, .vfma, .vdiv, .vmax, .vmin, .vactd, .vdrp].contains op then 0xFC
  else 0xE4

/-- The formats that an opcode allows. -/
def vecFmtOk (op : VOp) (sf df : Nat) : Bool :=
  if op == .vqnt then df == 3 && decide (sf ≤ 1)
  else if df == 3 then false
  else if isElem op then (sf, df) == (0, 0) || (sf, df) == (0, 1) || (sf, df) == (1, 1)
  else if op == .vcvt then [(1, 0), (0, 1), (0, 2), (1, 2), (2, 0), (2, 1)].contains (sf, df)
  else if op == .vdq then decide (2 ≤ sf ∧ df ≤ 1)
  else if op == .vrnd then df == 0
  else if isRed op || op == .vmcmp then decide (sf ≤ 1)
  else true

/-- The immediate's rules (R98 item 6, R268). Bits of the immediate that an opcode does not use are ignored (DESIGN CHOICE,
log entry 119). -/
def vecImmBad (op : VOp) (imm : Nat) : Bool :=
  match op with
  | .vscl => if bit 15 imm then bits 13 0 imm != 0 else bits 14 8 imm != 0
  | .vmsk => decide (32 < bits 5 0 imm ∨ 32 < bits 11 6 imm)
  | .vact => decide (12 < bits 3 0 imm)
  | .vactd => decide (12 < bits 7 4 imm)
  | _ => false

/-- Whether the instruction reaches a column above 15 of an Opal32 tile through CI. -/
def vecCiBad (op : VOp) (w : VWord) : Bool :=
  let ci := w.ci.toNat
  (decide (15 < ci) && ((bit 3 (vecFlags op) && (w.bc == 1 || w.bc == 3)) || isRed op
    || op == .vsmx || op == .vsmxb || op == .vbce || op == .vmse))
  || ((op == .vnrm || op == .vnrmb) && decide (12 < ci))

/-- One vector word breaks a rule of R98. -/
def vecBad (pl : Plan) (op : VOp) (w : VWord) : Bool :=
  let ent := w.ent.toNat
  let e := tent pl ent
  let gale := w.rnd || op == .vrnd || op == .vdrp
  let mem := op == .vld || op == .vst
  decide (w.flg.toNat &&& (255 - vecFlags op) ≠ 0) || !vecFmtOk op w.sf.toNat w.df.toNat || (w.rnd && w.df == 1)
  || ((gale || mem) && decide (pl.tensors.length ≤ ent))
  || (op == .vqnt && decide (ent ≠ 0x7FFFF ∧ pl.tensors.length ≤ ent))
  || (mem && (!isTensor pl ent 1 || !widthOk pl ent || decide (4 ≤ e.fmt)))
  || (op == .vld && e.fmt == 3 && e.bax == 1) || (op == .vst && e.fmt == 3 && e.bax != 0)
  || (op == .vdrp && w.bc != 3) || vecImmBad op w.imm.toNat || vecCiBad op w

/-! ### Cue points and streams (R245 to R251, R258) -/

/-- One entry of the cue table breaks a rule. -/
def cueBad (pl : Plan) (c : BitVec 128) : Bool :=
  let v := c.toNat
  let ref := cueRef c
  bits 95 52 v != 0 || bits 27 3 v != 0 || decide (6 < cueType c)
  || (match cueType c with
    | 1 => decide (bits 19 11 ref ≠ 0 ∨ bits 7 6 ref ≠ 0 ∨ 4 < bits 10 8 ref) || (groupLks pl (bits 5 0 ref)).isEmpty
    | 2 => decide (pl.exch.length ≤ ref) || (xent pl ref).kind == 4
    | _ => ref != 0)

/-- Each of the types 3, 4 and 6 once, every entry well formed. -/
def cuesBad (pl : Plan) : Bool :=
  pl.cues.any (cueBad pl) || [3, 4, 6].any fun t => (pl.cues.filter fun c => cueType c == t).length != 1

/-- The tensor that a word writes, where it writes one. -/
def destOf (x : SWord) : Option Nat :=
  match x with
  | .arr .admp w => some w.dst.toNat
  | .arr .aldmp w => some w.dst.toNat
  | .arr .amov w => if w.two then none else some w.dst.toNat
  | .vec .vst w => some w.ent.toNat
  | _ => none

/-- The tensor entries that hold persistent dense state: master weights, state, residuals. -/
def persistent (pl : Plan) : List Nat :=
  pl.exch.flatMap fun x =>
    if x.kind = 1 then [x.wgt, x.state] else if x.kind = 0 ∧ pl.level = 0 then [x.res, x.pres] else []

/-- The areas of device memory that hold state which outlives a step: the master weights, states and residuals, and the
records of the plan's tables in their storage, pool, reserve and home (R258). -/
def persistAreas (s : State) (p : Part) (pl : Plan) : List (Nat × Nat) :=
  ((persistent pl).map fun i => let e := nth {} pl.tensors i; (e.base, entryLen e))
  ++ (planTids pl).flatMap fun tid => match getTbl s p tid with
    | none => []
    | some t =>
      let n := ((readMap s t.desc).filter (· == pl.lidx)).length
      (t.desc.lbase, n * t.desc.ns * t.desc.size) ::
        (if t.desc.tier = 2 then [(t.pl.pbase, t.pl.pslots * t.desc.size), (t.pl.rbase, t.pl.rslots * t.desc.size)] else [])

/-- The ranges that a word writes: a tensor, or the device range of a queued descriptor. -/
def wordWrites (pl : Plan) (x : SWord) : List (Nat × Nat) :=
  match x with
  | .dmaq i _ =>
    let d := nth 0 pl.descs i
    if dstDev d then wrapPieces (dDst d) (dDwrap d) (dLen d) else []
  | _ => match destOf x with
    | some t => let e := nth {} pl.tensors t; [(e.base, entryLen e)]
    | none => []

/-- A word that belongs in an update segment only (R258, R270). -/
def persists (s : State) (p : Part) (pl : Plan) (x : SWord) : Bool :=
  match x with
  | .lkg _ 4 => true
  | .xch e => (xent pl e.toNat).kind == 1 || (xent pl e.toNat).kind == 2
  | _ =>
    let l := persistAreas s p pl
    (wordWrites pl x).any fun r => r.2 != 0 && l.any fun q => overlaps r.1 r.2 q.1 q.2

/-- The leaf slices, first and last, that an ALDMP into entry `d` writes of an RQ entry's SRC tensor; none where `d` does not
lie in that tensor (R279, R535). -/
def leafSlices (pl : Plan) (x : XEntry) (d : Nat) (w : AWord) : Option (Nat × Nat) :=
  let t := tent pl x.src
  let e := tent pl d
  let flat (a : Nat) : Nat := (a - t.base) / t.pitch * t.cols + (a - t.base) % t.pitch / 2
  if t.pitch = 0 ∨ e.base < t.base ∨ t.base + t.rows * t.pitch ≤ e.base then none
  else some (flat e.base / x.npar, flat (e.addr (w.cnt.toNat - 1) (Nat.min e.cols w.rowLen - 1)) / x.npar)

/-- Consecutive equal numbers once. -/
def squeeze : List Nat → List Nat
  | a :: b :: t => if a = b then squeeze (b :: t) else a :: squeeze (b :: t)
  | l => l

/-- At the Invariant level the ALDMPs of a section do not write the leaf slices of an RQ entry's SRC tensor one after
another, each slice from 0 to NLEAF − 1 in turn (R279). -/
def leavesBad (pl : Plan) (st : Streams) : Bool :=
  (pl.level == 1) && pl.exch.any fun x => x.kind == 0 &&
    (let ls := (st.arr.filterMap (streamWord .arr)).filterMap fun v => match v with
        | .arr .aldmp w => leafSlices pl x w.dst.toNat w
        | _ => none
     !ls.isEmpty && (ls.any (fun l => l.1 != l.2) || squeeze (ls.map (·.1)) != List.range pl.nleaf))

/-- Whether the operands of a word break a rule. -/
def operandBad (s : State) (p : Part) (pl : Plan) (test : Bool) (x : SWord) : Bool :=
  match x with
  | .arr op w => arrBad pl op w
  | .vec op w => vecBad pl op w
  | .dmaq d c => decide (pl.descs.length ≤ d) || decide ((getChan s c.toNat).use ≠ 1 ∨ (getChan s c.toNat).part ≠ p)
  | .lkg g _ => test || (groupLks pl g.toNat).isEmpty
  | .xch e => test || decide (pl.exch.length ≤ e.toNat) || (xent pl e.toNat).kind == 4
  | _ => false

/-- The words of one stream from a point on: cue points passed, whether the gate has been passed. -/
def wordsBad (s : State) (p : Part) (pl : Plan) (test : Bool) (u : SUnit) : List Nat → Bool → List SWord → Bool
  | _, _, [] => true
  | seen, _, [.send] => seen.isEmpty
  | seen, gated, x :: rest =>
    let arrive (c : Nat) (wait : Bool) : Bool :=
      let cue := nth 0 pl.cues c
      decide (pl.cues.length ≤ c) || !bit (SUnitNum u) (cueUnits cue) || seen.contains c
      || (test && (cueType cue == 4 || cueType cue == 1 || cueType cue == 2))
      || (cueType cue == 6 && !(wait && rest == [.send])) || (rest == [.send] && cueType cue != 6)
      || wordsBad s p pl test u (seen ++ [c]) (gated || cueType cue == 4) rest
    match x with
    | .scue c => arrive c true
    | .sarr c => arrive c false
    | .send => true
    | x =>
      rest == [.send] || (!gated && persists s p pl x) || operandBad s p pl test x || wordsBad s p pl test u seen gated rest

/-- One stream of a section. -/
def streamBad (s : State) (p : Part) (pl : Plan) (test deferred : Bool) (st : Streams) (u : SUnit) : Bool :=
  let ws := (unitWords st u).map (streamWord u)
  let xs := ws.filterMap id
  ws.any (·.isNone) || wordsBad s p pl test u [] false xs
  || (u == .arr && (arrSeqBad pl xs || firstBad pl deferred xs))

/-- The three streams of a section. -/
def sectionBad (s : State) (p : Part) (pl : Plan) (test deferred : Bool) (st : Streams) : Bool :=
  [SUnit.seq, .arr, .vec].any (streamBad s p pl test deferred st)

/-- Every stream section of a plan. -/
def streamsBad (s : State) (p : Part) (pl : Plan) : Bool :=
  [pl.start.getD {}, pl.steady, pl.recov].any (leavesBad pl)
  || sectionBad s p pl false false pl.steady || sectionBad s p pl false true pl.recov
  || (match pl.start with | some x => sectionBad s p pl false true x | none => false)
  || (match pl.selftest with | some x => sectionBad s p pl true true x | none => false)

/-! ### Descriptors, lookups, tables (R136, R137, R142, R146, R312, R400) -/

/-- A DESC descriptor names device addresses only, carries no status write, and its ranges lie in the partition's windows,
outside the reserved area of T1 and the fixed areas of the scratchpad (R119, R120, R197, R198, R400). -/
def descBad (s : State) (p : Part) (d : BitVec 512) : Bool :=
  dSrch d || dDsth d || dCqe d
  || (!descInvalid d && ((srcDev d && (rangeBad s p false (dSrc d) (dSwrap d) (dLen d)).isSome)
      || (dstDev d && (rangeBad s p true (dDst d) (dDwrap d) (dLen d)).isSome)))

/-- One lookup entry breaks a rule. -/
def lkBad (s : State) (p : Part) (pl : Plan) (x : BitVec 256) : Bool :=
  let v := x.toNat
  let k := lkOf x
  let opt := match getTbl s p k.tid with | some t => t.desc.opt | none => 0
  let needs : Bool := !k.eval && opt != 0
  bits 255 213 v != 0 || bits 123 122 v != 0 || bits 111 6 v != 0 || bits 2 0 v != 0 || decide (3 < k.pool)
  || decide (k.pmax = 0 ∨ 1048576 < k.pmax) || (getTbl s p k.tid).isNone
  || !(isTensor pl k.out 7) || !(granule pl k.out)
  || (if needs then !(isTensor pl k.grd 7) || !(granule pl k.grd) || decide (1 < (tent pl k.grd).fmt) else k.grd != 0x1FFFFF)
  || (pl.groups.find? fun g => g.group == k.grp).isNone
  || (lksOf pl).any fun l => l.grp == k.grp && l.tid == k.tid && l.su != k.su

/-- The tables that the plan uses: references, and of every table that a reference or a lookup names the map and the local
storage (R136, R137, R312). -/
def tablesBad (s : State) (p : Part) (pl : Plan) : Bool :=
  decide (4096 < pl.refs.length)
  || (pl.refs.any fun r => decide (r.mbase % 64 ≠ 0) || match getTbl s p r.tid with
    | some t => decide (t.desc.mbase ≠ r.mbase ∨ t.desc.lbase ≠ r.lbase)
    | none => true)
  || ((planTids pl).any fun tid => match getTbl s p tid with
    | none => true
    | some t =>
      let m := readMap s t.desc
      let n := (m.filter (· == pl.lidx)).length
      m.any (fun l => decide (pl.nmod ≤ l)) || !(inTier s p t.desc.homeTier t.desc.lbase (n * t.desc.ns * t.desc.size)))

/-! ### Update programs (R179) -/

/-- One instruction word at index `i`. -/
def progWordBad (q : UpdProg) (i : Nat) (x : W32) : Bool :=
  let v := x.toNat
  let op := bits 31 26 v
  let dst := bits 25 21 v
  let aux := bits 5 0 v
  let slot := aux % 8
  let writes := decide (op ≠ 0 ∧ op ≠ 0x0E ∧ op ≠ 0x0F)
  let red := decide (op = 0x10 ∨ op = 0x11)
  decide (0x11 < op) || (writes && decide (16 ≤ dst)) || (writes && (decide (12 ≤ dst) != red))
  || (red && decide (q.rowp ≤ i)) || (decide (i < q.rowp) && decide (op = 0x0E ∨ op = 0x0F))
  || ((op == 0x0D || op == 0x0E) && (if slot < 4 then decide (q.nv ≤ slot) else decide (q.ns ≤ slot - 4)))
  || decide ((if op = 0x0E then aux / 16 else if op = 0x0D then aux / 8 else aux) ≠ 0)
  || ((op == 0) != decide (i + 1 = q.words.length))

/-- A program breaks a rule. -/
def progBad (s : State) (p : Part) (q : UpdProg) : Bool :=
  let ops := q.words.map fun x => bits 31 26 x.toNat
  let sts := (q.words.filter fun x => bits 31 26 x.toNat == 0x0E).map fun x => x.toNat % 8
  decide (q.nins = 0 ∨ 32 < q.nins ∨ q.words.length ≠ q.nins ∨ q.nins ≤ q.rowp ∨ 4 < q.nv ∨ 16 ≤ q.vfmt ∨ 4 < q.ns ∨ 64 ≤ q.num ∨ q.resv ≠ 0)
  || q.words.zipIdx.any (fun x => progWordBad q x.2 x.1)
  || decide (1 < (ops.filter (· == 0x0F)).length) || decide (sts.eraseDups.length ≠ sts.length)
  || (tblsOf s p).any fun t => t.desc.opt == 0x80 + q.num && t.desc.ssz != stBytes (stLayout t.desc.opt q) t.desc.dim

/-! ### Exchange entries (R271 to R274, R279) -/

/-- The bits of an entry that its kind uses, as (high, low). -/
def xUsed (kind : Nat) : List (Nat × Nat) :=
  match kind with
  | 0 => [(507, 507), (495, 487), (461, 455), (454, 446), (445, 414), (413, 374), (373, 354), (353, 333), (290, 270),
      (269, 249), (192, 172)]
  | 1 => [(506, 506), (505, 504), (503, 496), (495, 487), (461, 455), (454, 446), (445, 414), (413, 374), (373, 354),
      (332, 312), (311, 291), (248, 228), (227, 208), (192, 172)]
  | 2 => [(505, 504), (461, 455), (454, 446), (445, 414), (413, 374), (373, 354), (248, 228), (227, 208)]
  | 3 => [(353, 333), (207, 194), (193, 193), (171, 152)]
  | _ => [(486, 483), (482, 475), (474, 474), (473, 462), (353, 333)]

/-- Whether a bit outside the kind's fields is set. -/
def xReserved (x : XEntry) : Bool :=
  decide ((xUsed x.kind).foldl (fun v r => setBits r.1 r.2 v 0) (setBits 511 508 x.bits.toNat 0) ≠ 0)

/-- The member list's rules (R272). -/
def membersBad (s : State) (pl : Plan) (x : XEntry) : Bool :=
  let node (l : Nat) : NodeAddr := nth (myNode s) pl.modules l
  decide (x.members.length ≠ x.din * x.dout) || x.members.any (fun l => decide (pl.nmod ≤ l))
  || (x.members.filter (· == pl.lidx)).length != 1
  || (List.range x.members.length).any fun q =>
    nodePod (node (nth 0 x.members q)) != nodePod (node (nth 0 x.members (q / x.din * x.din)))

/-- Two entries of one tensor. -/
def sameTensor (a b : XEntry) : Bool :=
  a.npar == b.npar && a.kch == b.kch && a.din == b.din && a.dout == b.dout && a.members == b.members

/-- The fields that RQ, RF and AG share. -/
def xCommonBad (s : State) (pl : Plan) (x : XEntry) : Bool :=
  decide (x.din = 0 ∨ 64 < x.din ∨ x.dout = 0 ∨ 256 < x.dout ∨ x.npar = 0) || x.fld 445 414 % 2 != 0
  || decide (x.kch % 64 ≠ 0) || (x.kch != 0 && x.npar % x.kch != 0) || membersBad s pl x

/-- One exchange entry. -/
def xentBad (s : State) (p : Part) (pl : Plan) (x : XEntry) : Bool :=
  let inv := pl.level == 1
  let l := xent pl x.linke
  let gidx : Bool := if inv then decide (pl.ngt ≤ x.gidx) else x.gidx != 0
  let n (i : Nat) : Nat := (tent pl i).rows * (tent pl i).cols
  decide (4 < x.kind) || xReserved x ||
  (match x.kind with
  | 0 =>
    xCommonBad s pl x || gidx || !(isTensor pl x.src 7) || !(isTensor pl x.xbuf 3)
    || (if inv then x.res != 0 || x.pres != 0 || (tent pl x.src).fmt != 4 || decide (n x.src < pl.nleaf * x.npar)
      else !(isTensor pl x.res 7) || (tent pl x.src).fmt != 1 || decide (n x.src < x.npar ∨ n x.res < 2 * x.npar)
        || (decide (1 < x.dout) && !(isTensor pl x.pres 7)))
  | 1 =>
    xCommonBad s pl x || gidx || ((x.cfmt == 3) != (x.kch != 0)) || !(rowTensor pl x.wgt) || (tent pl x.wgt).fmt != 1
    || !(rowTensor pl x.copy) || (tent pl x.copy).fmt != x.cfmt || !(isTensor pl x.xbuf 3) || l.kind != 0 || !sameTensor x l
    || decide (pl.exch.length ≤ x.linke) || (pl.exch.filter fun y => y.kind == 1 && y.linke == x.linke).length != 1
    || x.opt == 0 || x.opt == 5 || decide (0x0A < x.opt ∧ x.opt < 0x80) || decide (0xBF < x.opt)
    || (decide (0x80 ≤ x.opt) && (match pl.progs.find? (fun q => q.num == x.opt - 0x80) with
      | some q => q.rowp != 0
      | none => true))
    || (!(stLayout x.opt ((pl.progs.find? fun q => q.num == x.opt - 0x80).getD {})).1.isEmpty && !(rowTensor pl x.state))
  | 2 =>
    xCommonBad s pl x || ((x.cfmt == 3) != (x.kch != 0)) || !(isTensor pl x.copy 7) || (tent pl x.copy).fmt != x.cfmt
    || l.kind != 1 || !sameTensor x l || decide (pl.exch.length ≤ x.linke)
  | 3 => !(isTensor pl x.src 1) || (tent pl x.src).fmt != 1 || decide (pl.nmod ≤ x.peer)
  | _ =>
    !inv || x.fld 482 475 == 0x80 || (!x.gtab && (!(isTensor pl x.src 7) || (tent pl x.src).fmt != 4))
    || (x.gtab && (getTbl s p x.gtid).isNone))

/-- The whole exchange section. -/
def exchBad (s : State) (p : Part) (pl : Plan) : Bool :=
  pl.exch.any (xentBad s p pl) || decide (65536 < pl.exch.length) || (pl.sects.contains 7 && pl.exch.isEmpty) || (grEntries pl).length != pl.ngt
  || (pl.level == 1 && (lksOf pl).any fun k => !k.eval && (match getTbl s p k.tid with
      | some t => t.desc.opt != 0 && !(grEntries pl).any fun g => g.gtab && g.gtid == k.tid
      | none => false))

/-! ### The MAP section (R310, R313, R316) -/

/-- An expert slot table. -/
def expertBad (pl : Plan) (t : ExpertTab) : Bool :=
  let slotsOf (x : Nat) : List Nat := (List.range t.slots.length).filter fun k => (nth (0, 0) t.slots k).2 == x
  decide (t.experts.length = 0 ∨ 65535 < t.experts.length ∨ t.slots.length = 0 ∨ 16384 < t.slots.length ∨ 1 < t.deal)
  || t.deal != pl.level
  || t.slots.any (fun x => decide (pl.nmod ≤ x.1 ∨ t.experts.length ≤ x.2))
  || t.experts.zipIdx.any fun x => decide (x.1.replicas = 0 ∨ x.1.cap % 64 ≠ 0)
    || slotsOf x.2 != (List.range x.1.replicas).map (x.1.first + ·)

/-- The module table, the dense keys and the slot tables. -/
def mapBad (s : State) (pl : Plan) : Bool :=
  decide (64 < pl.experts.length) || decide (65536 < pl.keys.length) || (pl.sects.contains 8 && (decide (pl.modules.length ≠ pl.nmod) || decide (pl.modules.eraseDups.length ≠ pl.modules.length)
    || nth 0 pl.modules pl.lidx != myNode s))
  || pl.experts.any (expertBad pl) || decide ((pl.keys.map (·.key)).eraseDups.length ≠ pl.keys.length)
  || (List.range pl.exch.length).any fun e => (xent pl e).kind == 1 && (pl.keys.filter fun k => k.rf == e).length != 1

/-- Whether a plan breaks a rule of its sections (R241 item 2). -/
def planBad (s : State) (p : Part) (pl : Plan) : Bool :=
  !pl.laidOut || headerBad p pl || sectsBad pl || intakeBad pl || polyBad pl || pl.tensors.zipIdx.any (entryBad s p pl)
  || pl.consts.any (fun c => decide (pl.tensors.length ≤ c.1)) || decide (1024 < pl.lookups.length)
  || pl.lookups.any (lkBad s p pl) || decide (64 < pl.groups.length) || pl.progs.any (progBad s p) || cuesBad pl
  || pl.descs.any (descBad s p) || exchBad s p pl || tablesBad s p pl || mapBad s pl || streamsBad s p pl

end Sys2Proof.Machine
end

