-- ==== Sys2Proof/Machine/Streams.lean ====
section
/-! DEFINITION. The unit streams: when the oldest word of a stream may issue, what it does when it issues, the
power domains that the plans request, and the array and vector instructions in flight (R58 to R68, R79, R84, R99,
R100, R245 to R248, R252, R258, R259, R429 to R432). -/

namespace Sys2Proof.Machine

/-- The core cycle of the machine. -/
def nowCyc (s : State) : Nat := s.isl.live.cycCore

/-- The stream of a unit. -/
def Job.stream (j : Job) (u : SUnit) : Stream :=
  match u with
  | .seq => j.seqS
  | .arr => j.arrS
  | .vec => j.vecS

/-- The job with `f` applied to the stream of a unit. -/
def Job.modStream (j : Job) (u : SUnit) (f : Stream → Stream) : Job :=
  match u with
  | .seq => { j with seqS := f j.seqS }
  | .arr => { j with arrS := f j.arrS }
  | .vec => { j with vecS := f j.vecS }

/-- Whether no hold of a stream's oldest word has been noted. -/
def Stream.unheld (st : Stream) : Bool := st.heldAt.isNone && st.heldCyc == 0 && st.wakeCyc == 0

/-- The counter block of a unit that runs a stream (R478). -/
def unitBlk (u : SUnit) : Nat :=
  match u with
  | .seq => blkSeq
  | .arr => blkArr
  | .vec => blkVec

/-! ### Power domains (R61, R131, R429 to R432) -/

/-- The key of a partition's request for a domain. -/
def reqKey (p d : Nat) : Nat := 64 * p + d

/-- The highest state that any current request names for a domain, in the order on, retain, off (R431). -/
def effReq (s : State) (d : Nat) : Option DomReq :=
  let l := (List.range 4).filterMap fun p => tabFind s.pwr.req (reqKey p d)
  if l.contains .on then some .on else if l.contains .retain then some .retain else l.head?

/-- The cluster columns that a product's slab occupies (R58, R59, R63). -/
def productCols (a : Area) (w : AWord) : List Nat :=
  let full := match a with | .whole => 8 | _ => 4
  let lo := match a with | .east => 4 | _ => 0
  (List.range (Nat.min (ceilDiv w.gct.toNat 2) full)).map (lo + ·)

/-- The domains of the clusters that a product needs: every row of the columns it occupies (R61). -/
def productDoms (a : Area) (w : AWord) : List Nat :=
  (productCols a w).flatMap fun j => (List.range 4).map fun i => 4 * j + i

/-- The domains of the clusters that an array instruction in flight uses; a twin pair uses those of both its halves. -/
def flightDoms (f : ArrFlight) : List Nat :=
  match f.area, f.mate with
  | none, _ => []
  | some a, none => productDoms a f.w
  | some _, some b => productDoms .west f.w ++ productDoms .east b

/-- The domain of a sort unit (R429). -/
def sortUnitDom (su : Nat) : Nat := 34 + su / 4

/-- Whether work uses a domain. -/
def inUse (s : State) (d : Nat) : Bool :=
  (s.arr.flying.any fun f => (flightDoms f).contains d)
  || (s.vec.flying.any fun f => match f.pipe with
    | some k => decide (32 + k / 2 = d)
    | none => false)
  || (s.sorts.any fun kv => !kv.2.waiting && decide (sortUnitDom kv.1 = d))

/-- The contents of a scratchpad bank group are lost: every byte of it becomes a free value (R131). -/
def loseGroup (s : State) (g : Nat) : State :=
  let f := takeFree s
  { f.2 with
    mem := s.mem.loseGroup g f.1,
    poison := s.poison.filter fun n => decide (bankOf (64 * n) / 32 ≠ g)
    spdErr := s.spdErr.filter fun e => decide (bankOf (64 * e.1) / 32 ≠ g) }

/-- A domain that nothing uses takes the off or retain state. -/
def gateNow (s : State) (d : Nat) (v : DomReq) : State :=
  let s := { s with pwr := { s.pwr with gates := tabErase s.pwr.gates d } }
  match v with
  | .on => s
  | .retain => setDom s d .retain
  | .off => setDom (if 36 ≤ d ∧ d ≤ 42 ∧ dom s d ≠ .off then loseGroup s (d - 36) else s) d .off

/-- A domain takes the state that the current requests name: it starts to wake, or it is gated, at once or when
its use ends (R61, R431). -/
def seekDom (s : State) (d : Nat) (v : DomReq) : State :=
  match v with
  | .on =>
    let s := { s with pwr := { s.pwr with gates := tabErase s.pwr.gates d } }
    if dom s d = .on then s else setDom s d .waking
  | _ => if inUse s d then { s with pwr := { s.pwr with gates := tabSet s.pwr.gates d v } } else gateNow s d v

/-- The gates whose domain is no longer in use take effect. -/
def settleGates (s : State) : State :=
  s.pwr.gates.foldl (fun s g => if inUse s g.1 then s else gateNow s g.1 g.2) s

/-- A partition's plan requests a state for the masked domains (R252, R431). -/
def request (s : State) (p : Part) (mask : W64) (lo : Nat) (v : DomReq) : State :=
  ((setBitsOf 43 mask.toNat).filter (fun d => decide (lo ≤ d))).foldl (fun s d =>
    let s := { s with pwr := { s.pwr with req := tabSet s.pwr.req (reqKey p.toNat d) v } }
    match effReq s d with
    | some t => seekDom s d t
    | none => s) s

/-- No partition has a loaded plan: PD0 to PD35 off and PD36 to PD42 in retain (R431). -/
def parkDomains (s : State) : State :=
  if s.jobs.isEmpty then
    let s := (List.range 36).foldl (fun s d => seekDom s d .off) s
    (List.range 7).foldl (fun s g => seekDom s (36 + g) .retain) s
  else s

/-- A job has ended: its requests are no longer current. -/
def dropRequests (s : State) (p : Part) : State :=
  let s := { s with pwr := { s.pwr with req := s.pwr.req.filter fun r => decide (r.1 / 64 ≠ p.toNat) } }
  parkDomains ((List.range 43).foldl (fun s d => match effReq s d with
    | some v => seekDom s d v
    | none => s) s)

/-! ### Hazards of the array stream (R79, R84) -/

/-- A part of a store that an instruction uses: the store (0 accumulators, 1 shelf, 2 scale registers,
3 scratchpad), the range, and whether it is written. -/
structure Use where
  store : Nat
  lo : Nat
  len : Nat
  write : Bool
  deriving DecidableEq, Repr

/-- Whether two uses touch the same storage and one of them writes it. -/
def Use.meets (a b : Use) : Bool := a.store == b.store && (a.write || b.write) && overlaps a.lo a.len b.lo b.len

/-- The scratchpad ranges of a tensor entry as uses. -/
def tensUses (s : State) (p : Part) (i : Nat) (write : Bool) : List Use :=
  (entrySpans (tens s p i)).map fun r => { store := 3, lo := r.1, len := r.2, write := write }

/-- What an array instruction uses. -/
def arrUses (s : State) (p : Part) (op : AOp) (w : AWord) : List Use :=
  let n := w.cnt.toNat * w.rowLen
  let acc (base : Nat) (wr : Bool) : Use := { store := 0, lo := base, len := n, write := wr }
  let region : Use :=
    { store := 1, lo := (entry s p w.aux.toNat).base, len := (entry s p w.aux.toNat).regionSize, write := op == .awld }
  let scale (wr : Bool) : Use := { store := 2, lo := 4096 * b2n w.sbk, len := 4096, write := wr }
  let bank : List Use := if w.fmt = 3 && !w.scl then [scale false] else []
  match op with
  | .amm => acc w.dst.toNat true :: region :: (bank ++ tensUses s p w.src.toNat false)
  | .ammt => acc w.dst.toNat true :: region :: (bank ++ tensUses s p w.src.toNat false)
  | .aacc => acc w.dst.toNat true :: (tensUses s p w.src.toNat false ++ tensUses s p w.aux.toNat false)
  | .awld => region :: tensUses s p w.src.toNat false
  | .asld => scale true :: tensUses s p w.src.toNat false
  | .admp => acc w.src.toNat w.cont :: tensUses s p w.dst.toNat true
  | .aldmp => acc w.src.toNat true :: tensUses s p w.dst.toNat true
  | .amov =>
    if w.two then acc w.dst.toNat true :: tensUses s p w.src.toNat false
    else acc w.src.toNat false :: tensUses s p w.dst.toNat true
  | .aclr => [acc w.dst.toNat true]
  | _ => []

/-- What an instruction in flight uses, the AACC of a twin pair among it. -/
def flightUses (s : State) (f : ArrFlight) : List Use :=
  arrUses s f.part f.op f.w ++ (match f.mate with | some b => arrUses s f.part .aacc b | none => [])

/-- Whether an instruction must wait for an earlier one in flight. -/
def flyHazard (s : State) (us : List Use) : Bool :=
  s.arr.flying.any fun f => (flightUses s f).any fun v => us.any v.meets

/-- Whether an instruction touches an accumulator that a queued deferred entry targets (R84). -/
def queueHazard (s : State) (us : List Use) : Bool :=
  s.arr.defq.any fun d => us.any fun u =>
    u.store == 0 && overlaps u.lo u.len d.w.dst.toNat (d.w.cnt.toNat * d.w.rowLen)

/-- The scratchpad ranges that a dump or a move out writes (R82). -/
def dumpSpans (s : State) (p : Part) (op : AOp) (w : AWord) : List (Nat × Nat) :=
  let e := tens s p w.dst.toNat
  let n := Nat.min e.cols w.rowLen
  let rows := (List.range w.cnt.toNat).flatMap fun r =>
    (e.addr r 0, n * fmtWidth e.fmt) :: (if e.fmt = 3 then [(e.shiftAddr r 0, ceilDiv n 64)] else [])
  match op with
  | .admp => rows
  | .aldmp => rows
  | .amov => if w.two then [] else rows
  | _ => []

/-- Whether one of the ranges is an operand range of a queued deferred entry: its write is held (R68). -/
def writesQueued (s : State) (l : List (Nat × Nat)) : Bool := l.any fun r => hitsDeferred s r.1 r.2

/-- Whether an array instruction waits for a queued deferred entry to run (R68, R84). -/
def waitsQueue (s : State) (p : Part) (op : AOp) (w : AWord) : Bool :=
  queueHazard s (arrUses s p op w) || writesQueued s (dumpSpans s p op w)

/-- Whether two areas share a cluster. -/
def areasMeet (a b : Area) : Bool := a == .whole || b == .whole || a == b

/-- Whether no product in flight occupies part of an area. -/
def areaFree (s : State) (a : Area) : Bool := s.arr.flying.all fun f => match f.area with
  | some b => !areasMeet a b
  | none => true

/-- The area that a drained deferred entry runs on (R62). -/
def drainArea (s : State) : Area := if s.arr.mode = .twin then .east else .whole

/-- Whether an 8-bit twin pair is in flight, which leaves no port cycle free (R79). -/
def pairFlying (s : State) : Bool :=
  let half (a : Area) : Bool := s.arr.flying.any fun f => f.area == some a && f.w.fmt != 0
  (half .west && half .east) || s.arr.flying.any fun f => f.mate.isSome && f.w.fmt != 0

/-- Whether a range of the scratchpad lies in a bank group that is still waking (R252). -/
def spanWaking (s : State) (r : Nat × Nat) : Bool :=
  (List.range 8).any fun g => dom s (36 + g) == .waking
    && (granulesOf r.1 r.2).any fun a => decide (a < t0End ∧ bankOf a / 32 = g)

/-- Whether no bank group of the scratchpad that array instructions use is waking. -/
def groupsUp (s : State) (us : List Use) : Bool := us.all fun u => u.store != 3 || !spanWaking s (u.lo, u.len)

/-- Whether every domain of a list is on. -/
def allOn (s : State) (ds : List Nat) : Bool := ds.all fun d => decide (dom s d = .on)

/-! ### Whether the oldest word may issue -/

/-- Why the oldest word of a stream issues or not: it waits for a cue point or a cycle offset, it is held by an ordering rule,
its area or its ports are busy, or it waits for a power domain. -/
inductive Ready where
  | go | wait | hold | busy | wake
  deriving DecidableEq, Repr

/-- Held by an ordering rule, waiting for a unit, waiting for domains, or ready. -/
def readyOf (clear free on : Bool) : Ready := if !clear then .hold else if !free then .busy else if on then .go else .wake

/-- Whether the oldest queued entry may run: its area is free and its clusters are powered. -/
def drainReady (s : State) : Ready :=
  match s.arr.defq with
  | [] => .go
  | d :: _ =>
    readyOf (!flyHazard s (arrUses s d.part .aacc d.w)) (areaFree s (drainArea s))
      (allOn s (productDoms (drainArea s) d.w) && groupsUp s (arrUses s d.part .aacc d.w))

/-- Whether an array instruction touches nothing that an earlier one, in flight or queued, still has to finish with. -/
def arrClear (s : State) (p : Part) (op : AOp) (w : AWord) : Bool :=
  !flyHazard s (arrUses s p op w) && !waitsQueue s p op w

/-- When the two products of a twin pair may start, which they do together (R64). -/
def pairReady (s : State) (p : Part) (a b : AWord) : Ready :=
  readyOf (arrClear s p .ammt a && arrClear s p .aacc b) (areaFree s .whole)
    (allOn s (productDoms .west a ++ productDoms .east b) && groupsUp s (arrUses s p .ammt a ++ arrUses s p .aacc b))

/-- When an array instruction may issue (R61, R63 to R66, R79, R84, R252); `next` are the words behind it. In twin mode the AMMT
of a twin pair starts with its AACC, and waits until that word has come. -/
def arrReady (s : State) (p : Part) (lead : Lead) (next : List SWord) (op : AOp) (w : AWord) : Ready :=
  let clear := arrClear s p op w
  let up := groupsUp s (arrUses s p op w)
  match op with
  | .anop => .go
  | .atwin => .go
  | .aque => .go
  | .amode => readyOf true s.arr.flying.isEmpty true
  | .adrn => .go
  | .awld => readyOf clear true up
  | .asld => readyOf clear true up
  | .amm => readyOf clear (areaFree s .whole) (allOn s (productDoms .whole w) && up)
  | .ammt =>
    if lead = .twin ∧ s.arr.mode = .twin then
      match next with
      | .arr .aacc b :: _ => pairReady s p w b
      | _ => .wait
    else
      let a := (productArea s lead .ammt).getD .whole
      readyOf clear (areaFree s a) (allOn s (productDoms a w) && up)
  | .aacc =>
    match productArea s lead .aacc with
    | some a => readyOf clear (areaFree s a) (allOn s (productDoms a w) && up)
    | none => if s.arr.defq.length < 256 then .go else .busy
  | _ => readyOf clear (!pairFlying s) up

/-- Whether the array stream stands still for deferred entries: an ADRN has entries left to run, or one that it, or an entry
that found the queue full, made run has not completed (R66, R67). -/
def draining (s : State) (j : Job) : Bool :=
  (decide (0 < j.arrS.drain) && !s.arr.defq.isEmpty) || s.arr.flying.any fun f => f.drained

/-- The powered pipes, and those of them that are free, lowest first (R100). -/
def poweredPipes (s : State) : List Nat := (List.range 4).filter fun k => decide (dom s (32 + k / 2) = .on)
def freePipes (s : State) : List Nat := (poweredPipes s).filter fun k => !(s.vec.flying.any fun f => f.pipe == some k)

/-- Whether a unit of an opcode is occupied by an instruction in flight. -/
def unitBusy (s : State) (u : VUnit) : Bool := s.vec.flying.any fun f => vecUnit f.op == u
def redBusy (s : State) : Bool := unitBusy s .red || unitBusy s .pipeRed

/-- Whether a register that an instruction in flight still has to read or write holds a later one (R99). -/
def regHazard (s : State) (op : VOp) (w : VWord) : Bool :=
  s.vec.flying.any fun f =>
    (vecWrites f.op f.w).any (vecReads op w).contains
    || (vecReads f.op f.w ++ vecWrites f.op f.w).any (vecWrites op w).contains

/-- When a vector instruction may issue (R68, R99, R100, R252). -/
def vecReady (s : State) (p : Part) (op : VOp) (w : VWord) : Ready :=
  let pipeOk := !(freePipes s).isEmpty || (poweredPipes s).isEmpty
  let unitOk : Bool := match vecUnit op with
    | .none => true
    | .load => !unitBusy s .load
    | .store => !unitBusy s .store
    | .mask => !unitBusy s .mask
    | .red => !redBusy s
    | .pipe => pipeOk
    | .pipeRed => pipeOk && !redBusy s
  let on : Bool := match vecUnit op with
    | .pipe => !(poweredPipes s).isEmpty
    | .pipeRed => !(poweredPipes s).isEmpty
    | .load => (tileSpans s p w).all fun r => !spanWaking s r
    | .store => (tileSpans s p w).all fun r => !spanWaking s r
    | _ => true
  let stores : Bool := op == .vst && writesQueued s (tileSpans s p w)
  readyOf (unitOk && !regHazard s op w && !stores) true on

/-- Words that a vetoed step skips in an update segment: all but control words, PWAKE and PGATE (R258). -/
def SWord.skips : SWord → Bool
  | .arr _ _ => true
  | .vec _ _ => true
  | .dmaq _ _ => true
  | .lkg _ _ => true
  | .xch _ => true
  | _ => false

/-- Whether the oldest word of a stream may issue. A stream past its arrival at the gate waits for the gate with
every word but a control word (R258, R259). -/
def wordReady (s : State) (p : Part) (j : Job) (u : SUnit) (x : SWord) : Ready :=
  let st := j.stream u
  if st.wait.isSome || decide (nowCyc s < st.earliest) then .wait
  else if st.gated && x.skips && !j.gate then .wait
  else if st.gated && j.vetoed && x.skips then .go
  else if u == .arr && draining s j then .busy
  else match x with
    | .arr op w => arrReady s p st.lead (st.held.drop 1) op w
    | .vec op w => vecReady s p op w
    | .xch e => if allOpen s p (xchAccess s p (xent j.plan e.toNat)) then .go else .wait
    | _ => .go

/-! ### Issue -/

/-- The lead word in force after an array word (R64, R66). -/
def nextLead (l : Lead) (op : AOp) : Lead :=
  match op with
  | .atwin => .twin
  | .aque => .que
  | .ammt => l
  | _ => .none

/-- The AACC of a twin pair joins its AMMT, the latest instruction in flight: the two complete together (R64). -/
def joinPair (l : List ArrFlight) (w : AWord) : List ArrFlight :=
  match l with
  | [] => []
  | [f] => [{ f with area := some .whole, mate := some w }]
  | f :: t => f :: joinPair t w

/-- Puts an array instruction in flight. ANOP and AMODE hold the stream for their cycles instead. -/
def launchArr (s : State) (p : Part) (lead : Lead) (area : Option Area) (op : AOp) (w : AWord) : State :=
  let put (s : State) (f : ArrFlight) : State := { s with arr := { s.arr with flying := s.arr.flying ++ [f] } }
  let pause (s : State) (n : Nat) : State :=
    modJob s p fun j => j.modStream .arr fun st => { st with earliest := nowCyc s + n }
  match op with
  | .anop => pause s w.cnt.toNat
  | .amode => pause s 16
  | .atwin => s
  | .aque => s
  | .adrn => s
  | .aacc => match area with
    | some a =>
      if lead = .twin ∧ s.arr.mode = .twin then
        { s with arr := { s.arr with flying := joinPair s.arr.flying w } }
      else put s { part := p, op := op, w := w, area := some a }
    | none => s
  | _ => put s { part := p, op := op, w := w, area := area }

/-- Issues an array instruction: its effect, its flight, its count. -/
def issueArr (s : State) (p : Part) (op : AOp) (w : AWord) : State :=
  match getJob s p with
  | none => s
  | some j =>
    let st := j.arrS
    let area := productArea s st.lead op
    let s := sampleTick (count s blkArr 0 2 1 (atPart p)) p 0
    let s := arrEffect s p st.lead st.index op w
    let s := modJob s p fun j => j.modStream .arr fun st => { st with lead := nextLead st.lead op }
    launchArr s p st.lead area op w

/-- Issues a vector instruction, on the lowest-numbered free powered pipe where it needs one; a VNOP waits
IMM cycles (R97, R100). -/
def issueVec (s : State) (p : Part) (op : VOp) (w : VWord) : State :=
  let pipe := match vecUnit op with
    | .pipe => (freePipes s).head?
    | .pipeRed => (freePipes s).head?
    | _ => none
  let s := vecEffect (sampleTick (count s blkVec 0 2 1 (atPart p)) p 1) p op w
  if vecUnit op = .none then
    modJob s p fun j => j.modStream .vec fun st => { st with earliest := nowCyc s + w.imm.toNat }
  else { s with vec := { s.vec with flying := s.vec.flying ++ [{ part := p, op := op, w := w, pipe := pipe }] } }

/-- LKG phase 1: fetch, return and pooling start; what has come is pooled once it is all there. -/
def lkgFetch (s : State) (p : Part) (g : Nat) : State :=
  poolGroup (modRunS s p g fun r => { r with started := r.started ++ [1] }) p g

/-- Starts a phase of a lookup group (R246). -/
def startPhase (s : State) (p : Part) (g ph : Nat) : State :=
  match ph with
  | 0 => lkgIndex s p g
  | 1 => lkgFetch s p g
  | 2 => lkgPartials s p g
  | 3 => lkgSums s p g
  | _ => lkgUpdates s p g

/-- A table's counter for every table that the plan's lookup entries name, each once. -/
def countIntakeWait (s : State) (p : Part) (pl : Plan) : State :=
  ((lksOf pl).map (·.tid)).eraseDups.foldl (fun s t => tblCount s p t 2 1) s

/-- A stream arrives at a cue point; past the gate cue point its update segment begins (R245, R258). A step that
reaches its intake cue point before its batch is accepted and sorted counts an intake wait (R141). -/
def arrive (s : State) (p : Part) (u : SUnit) (c : Nat) (wait : Bool) : State :=
  match getJob s p with
  | none => s
  | some j =>
    let ty := cueType (nth 0 j.plan.cues c)
    let late : Bool := ty == 5 && j.phase == .running && !(j.accepted.contains j.step && batchSorted j j.step)
      && !(j.arrived.any fun a => a.1 == c)
    let s := if late then countIntakeWait s p j.plan else s
    modJob s p fun j => { (j.modStream u fun st =>
      { st with gated := st.gated || ty == 4, wait := if wait then some c else st.wait, waitAt := nowCyc s }) with
      arrived := j.arrived ++ [(c, SUnitNum u)] }

/-- What a stream word does when it issues (R245, R246). -/
def runWord (s : State) (p : Part) (u : SUnit) (x : SWord) : State :=
  match x with
  | .arr op w => issueArr s p op w
  | .vec op w => issueVec s p op w
  | .sat n => modJob s p fun j => j.modStream u fun st =>
      { st with earliest := Nat.max st.earliest (st.anchor + n) }
  | .scue c => arrive s p u c true
  | .sarr c => arrive s p u c false
  | .send => modJob s p fun j => j.modStream u fun st => { st with ended := true, held := [] }
  | .pwake m => request (count s blkSeq 0 2 1 (atPart p)) p m 0 .on
  | .pgateOff m => request (count s blkSeq 0 2 1 (atPart p)) p m 0 .off
  | .pgateRetain m => request (count s blkSeq 0 2 1 (atPart p)) p m 36 .retain
  | .dmaq d c => queueDesc (count s blkSeq 0 2 1 (atPart p)) p d c.toNat
  | .lkg g ph => startPhase (count s blkSeq 0 2 1 (atPart p)) p g.toNat ph
  | .xch e => xchStart (count s blkSeq 0 2 1 (atPart p)) p e.toNat

/-- The cycles that the oldest word of a stream has been held by an ordering rule, and has waited for domains. -/
def Stream.heldFor (st : Stream) (now : Nat) : Nat × Nat :=
  let n := now - st.heldAt.getD now
  (st.heldCyc + (if st.heldWake then 0 else n), st.wakeCyc + (if st.heldWake then n else 0))

/-- Counts the cycles that the oldest word of a stream was held, and those that it waited for domains (R61, R100, R483). -/
def countHold (s : State) (p : Part) (u : SUnit) (st : Stream) : State :=
  let add (s : State) (e n : Nat) : State := if n = 0 then s else count s (unitBlk u) 1 e n (atPart p)
  let c := st.heldFor (nowCyc s)
  add (add s 1 c.2) 3 c.1

/-- Notes a phase or an entry whose word a vetoed step skips: no work of it is left on the module. -/
def noteSkip (s : State) (p : Part) (x : SWord) : State :=
  match x with
  | .lkg _ _ => modJob s p fun j => { j with skipped := x :: j.skipped }
  | .xch _ => modJob s p fun j => { j with skipped := x :: j.skipped }
  | _ => s

/-- Takes the oldest word of a stream and issues it, or skips it in a vetoed update segment. -/
def takeWord (s : State) (p : Part) (u : SUnit) (j : Job) (x : SWord) (rest : List SWord) : State :=
  let st := j.stream u
  let s := countHold s p u st
  let s := modJob s p fun j => j.modStream u fun st => { st with held := rest, heldAt := none, heldWake := false, heldCyc := 0, wakeCyc := 0 }
  let s := if st.gated && j.vetoed && x.skips then noteSkip s p x else runWord s p u x
  modJob s p fun j => j.modStream u fun st => { st with index := st.index + 1 }

/-- Whether a word is the AMMT of a twin pair that runs on both halves. -/
def startsPair (s : State) (j : Job) (u : SUnit) (x : SWord) : Bool :=
  match u, x with
  | .arr, .arr .ammt _ => decide (j.arrS.lead = .twin ∧ s.arr.mode = .twin) && !(j.arrS.gated && j.vetoed)
  | _, _ => false

/-- Takes the oldest word of a stream, and with the AMMT of a twin pair its AACC: the halves start in one cycle (R64). -/
def takeWords (s : State) (p : Part) (u : SUnit) (j : Job) (x : SWord) (rest : List SWord) : State :=
  let t := takeWord s p u j x rest
  match rest, getJob t p with
  | y :: more, some k => if startsPair s j u x then takeWord t p u k y more else t
  | _, _ => t

/-- The oldest deferred entry runs; `drained` where the array stream stands still for it. -/
def runEntry (s : State) (drained : Bool) : State :=
  match s.arr.defq with
  | [] => s
  | d :: _ =>
    let a := drainArea s
    let s := runOldest (count s blkArr 0 2 1 (atPart d.part))
    let f : ArrFlight := { part := d.part, op := .aacc, w := d.w, area := some a, drained := drained }
    { s with arr := { s.arr with flying := s.arr.flying ++ [f] } }

/-- Whether the oldest word of an array stream is an AACC that finds the deferred queue full (R66). -/
def queueFull (s : State) (p : Part) (j : Job) : Bool :=
  match j.arrS.held with
  | .arr .aacc w :: _ =>
    decide (256 ≤ s.arr.defq.length ∧ productArea s j.arrS.lead .aacc = none) && !draining s j
    && wordReady s p j .arr (.arr .aacc w) == .busy
  | _ => false

/-- The deferred entries that an array stream runs before its next word: those of an ADRN, and the oldest of a full queue
that another is to enter (R66, R67). -/
def pumpDrain (s : State) (p : Part) : Option State :=
  match getJob s p with
  | none => none
  | some j =>
    let full := queueFull s p j
    if (decide (0 < j.arrS.drain) || full) && !s.arr.defq.isEmpty && drainReady s == .go then
      some (runEntry (modJob s p fun j => j.modStream .arr fun st => { st with drain := st.drain - 1 }) true)
    else none

/-- Issues the oldest word of one stream, where it may issue; of an array stream that drains, the oldest entry. -/
def pumpOne (s : State) (p : Part) (u : SUnit) : Option State :=
  match getJob s p with
  | none => none
  | some j =>
    match (if u = .arr then pumpDrain s p else none) with
    | some t => some t
    | none =>
      match (j.stream u).held with
      | [] => none
      | x :: rest => if wordReady s p j u x = .go then some (takeWords s p u j x rest) else none

/-- The streams of the module. -/
def allStreams : List (Part × SUnit) :=
  [(0, .seq), (0, .arr), (0, .vec), (1, .seq), (1, .arr), (1, .vec), (2, .seq), (2, .arr), (2, .vec), (3, .seq),
   (3, .arr), (3, .vec)]

/-- Issues words, at most `n`, as long as any stream's oldest word may issue. -/
def pumpN : Nat → State → State
  | 0, s => s
  | n + 1, s =>
    match allStreams.findSome? (fun x => pumpOne s x.1 x.2) with
    | some s' => pumpN n s'
    | none => s

/-- The turns of the pump that a word takes: an ADRN takes one for itself and one for the entry that it starts. -/
def SWord.turns : SWord → Nat
  | .arr .adrn _ => 2
  | _ => 1

/-- The turns that the words of a stream take, and the deferred entries that an ADRN of it has still to run. -/
def Stream.waiting (st : Stream) : Nat := (st.held.map SWord.turns).foldr (· + ·) st.drain

/-- The turns of the words that wait in the streams, and of the entries that ADRN words have still to run. -/
def heldWords (s : State) : Nat :=
  (allStreams.map fun x => match getJob s x.1 with | some j => (j.stream x.2).waiting | none => 0).foldl (· + ·) 0

/-- What a held word is counted under: false for a hold, true for a wait for domains, none where it is not counted. -/
def Ready.cause : Ready → Option Bool
  | .hold => some false
  | .wake => some true
  | _ => none

/-- The cause under which the oldest word of a stream is counted now. -/
def Stream.cause (st : Stream) : Option Bool := if st.heldAt.isSome then some st.heldWake else none

/-- The cause changes: the cycles so far are kept under the one that has ended. -/
def Stream.turnHold (st : Stream) (now : Nat) (c : Option Bool) : Stream :=
  let n := st.heldFor now
  { st with heldAt := if c.isSome then some now else none, heldWake := c == some true, heldCyc := n.1, wakeCyc := n.2 }

/-- Notes the cycle at which a word begins to be held, and each change of the cause. -/
def noteHold (s : State) (p : Part) (u : SUnit) : State :=
  match getJob s p with
  | none => s
  | some j =>
    match (j.stream u).held with
    | [] => s
    | x :: _ =>
      let r := wordReady s p j u x
      if (j.stream u).cause = r.cause then s
      else modJob s p fun j => j.modStream u fun st => st.turnHold (nowCyc s) r.cause

/-- Issues every word that may issue, with the deferred entries that ADRN words run, and notes the words that are held. -/
def pump (s : State) : State :=
  allStreams.foldl (fun s x => noteHold s x.1 x.2) (pumpN (heldWords s) s)

/-- Whether a job runs its streams: in a step or in a self-test. -/
def Job.streaming (j : Job) : Bool := j.phase == .running || (j.phase == .testing && j.kind == .selftest)
  || j.phase == .sealed || j.phase == .held

/-- A word of a unit's stream comes to its unit. Outside a step and past the stream's end it has no effect. -/
def pushWord (s : State) (p : Part) (u : SUnit) (x : SWord) : State :=
  match getJob s p with
  | none => s
  | some j =>
    if j.streaming && !(j.stream u).ended then
      pump (modJob s p fun j => j.modStream u fun st => { st with held := st.held ++ [x] })
    else s

/-! ### The events of the array, the vector engine and the domains -/

/-- Whether an array stream leaves the array idle for deferred entries: it has no word, or its next one waits for a cue point
or a cycle offset (R67), or for a queued entry to run, which could not end otherwise (R68, R84). -/
def arrIdle (s : State) (p : Part) (j : Job) : Bool :=
  match j.arrS.held with
  | [] => true
  | x :: rest =>
    wordReady s p j .arr x == .wait
    || (match x with
      | .arr op w => !draining s j && (waitsQueue s p op w
          || (startsPair s j .arr x && (match rest with | .arr .aacc b :: _ => waitsQueue s p .aacc b | _ => false)))
      | _ => false)

/-- Whether no array stream has an instruction ready. -/
def allIdle (s : State) : Bool :=
  (List.range 4).all fun i => match getJob s (BitVec.ofNat 2 i) with
    | none => true
    | some j => arrIdle s (BitVec.ofNat 2 i) j

/-- Drains the oldest deferred entry in an idle slot of the array stream (R67). -/
def drainEntry (s : State) : State :=
  if !s.arr.defq.isEmpty && allIdle s && drainReady s == .go then pump (runEntry s false) else s

/-- An array instruction has written its last group or accumulator (R84). -/
def arrDone (s : State) (i : Nat) : State :=
  if i < s.arr.flying.length then
    pump (settleGates { s with arr := { s.arr with flying := s.arr.flying.eraseIdx i } })
  else s

/-- A vector instruction has written its destination (R99). -/
def vecDone (s : State) (i : Nat) : State :=
  if i < s.vec.flying.length then
    pump (settleGates { s with vec := { s.vec with flying := s.vec.flying.eraseIdx i } })
  else s

/-- A switched domain has woken and its units serve (R429). -/
def domWoken (s : State) (d : Nat) : State :=
  if dom s d = .waking then
    let s := setDom s d .on
    let sorts := s.sorts.map fun (kv : Nat × SortJob) =>
      if sortUnitDom kv.1 = d then (kv.1, { kv.2 with waiting := false }) else kv
    pump { s with sorts := sorts }
  else s

/-- Discards the deferred entries of a partition and lets the writes that they held go (R68). -/
def dropDeferredOf (s : State) (p : Part) : State :=
  let q := s.arr.defq.filter fun d => d.part != p
  let jobs := s.jobs.map fun kj => (kj.1, kj.2.modStream .arr fun st => { st with drain := Nat.min st.drain q.length })
  unpark { s with arr := { s.arr with defq := q }, jobs := jobs }

end Sys2Proof.Machine
end

