-- ==== Sys2Proof/Machine/ArrayCmds.lean ====
section
/-! DEFINITION. The words of the array stream and the ends of array instructions, each a command of its own (R56 to R89). -/

namespace Sys2Proof.Machine

/-- ANOP (R89): the word joins the array stream of the partition and takes effect when it issues. -/
def execAnop (p : Part) (w : AWord) (s : State) : Host.Outcome State Fault Refusal :=
  .next (pushWord s p .arr (.arr .anop w))

/-- AWLD (R70): the word joins the array stream of the partition and takes effect when it issues. -/
def execAwld (p : Part) (w : AWord) (s : State) : Host.Outcome State Fault Refusal :=
  .next (pushWord s p .arr (.arr .awld w))

/-- ASLD (R74): the word joins the array stream of the partition and takes effect when it issues. -/
def execAsld (p : Part) (w : AWord) (s : State) : Host.Outcome State Fault Refusal :=
  .next (pushWord s p .arr (.arr .asld w))

/-- AMM (R60): the word joins the array stream of the partition and takes effect when it issues. -/
def execAmm (p : Part) (w : AWord) (s : State) : Host.Outcome State Fault Refusal :=
  .next (pushWord s p .arr (.arr .amm w))

/-- AMMT (R71): the word joins the array stream of the partition and takes effect when it issues. -/
def execAmmt (p : Part) (w : AWord) (s : State) : Host.Outcome State Fault Refusal :=
  .next (pushWord s p .arr (.arr .ammt w))

/-- ATWIN (R64): the word joins the array stream of the partition and takes effect when it issues. -/
def execAtwin (p : Part) (w : AWord) (s : State) : Host.Outcome State Fault Refusal :=
  .next (pushWord s p .arr (.arr .atwin w))

/-- AACC (R62): the word joins the array stream of the partition and takes effect when it issues. -/
def execAacc (p : Part) (w : AWord) (s : State) : Host.Outcome State Fault Refusal :=
  .next (pushWord s p .arr (.arr .aacc w))

/-- AQUE (R66): the word joins the array stream of the partition and takes effect when it issues. -/
def execAque (p : Part) (w : AWord) (s : State) : Host.Outcome State Fault Refusal :=
  .next (pushWord s p .arr (.arr .aque w))

/-- ADRN (R67): the word joins the array stream of the partition and takes effect when it issues. -/
def execAdrn (p : Part) (w : AWord) (s : State) : Host.Outcome State Fault Refusal :=
  .next (pushWord s p .arr (.arr .adrn w))

/-- ADMP (R56): the word joins the array stream of the partition and takes effect when it issues. -/
def execAdmp (p : Part) (w : AWord) (s : State) : Host.Outcome State Fault Refusal :=
  .next (pushWord s p .arr (.arr .admp w))

/-- ALDMP (R280): the word joins the array stream of the partition and takes effect when it issues. -/
def execAldmp (p : Part) (w : AWord) (s : State) : Host.Outcome State Fault Refusal :=
  .next (pushWord s p .arr (.arr .aldmp w))

/-- ACLR (R78): the word joins the array stream of the partition and takes effect when it issues. -/
def execAclr (p : Part) (w : AWord) (s : State) : Host.Outcome State Fault Refusal :=
  .next (pushWord s p .arr (.arr .aclr w))

/-- AMODE (R65): the word joins the array stream of the partition and takes effect when it issues. -/
def execAmode (p : Part) (w : AWord) (s : State) : Host.Outcome State Fault Refusal :=
  .next (pushWord s p .arr (.arr .amode w))

/-- AMOV_TO_SCRATCHPAD (R78): AMOV with TWO = 0: from the accumulator store to the scratchpad. -/
def execAmovToScratchpad (p : Part) (w : AWord) (s : State) : Host.Outcome State Fault Refusal :=
  .next (pushWord s p .arr (.arr .amov { w with flg := w.flg &&& 0x7F#8 }))

/-- AMOV_TO_STORE (R78): AMOV with TWO = 1: from the scratchpad to the accumulator store. -/
def execAmovToStore (p : Part) (w : AWord) (s : State) : Host.Outcome State Fault Refusal :=
  .next (pushWord s p .arr (.arr .amov { w with flg := w.flg ||| 0x80#8 }))

/-- DEFERRED_ENTRY_DRAIN (R67): the oldest deferred entry runs while no word of the array stream can. -/
def execDeferredEntryDrain (s : State) : Host.Outcome State Fault Refusal := .next (drainEntry s)

/-- ARRAY_INSTRUCTION_COMPLETE (R84): array instruction `i` in flight, oldest first, writes its last result. -/
def execArrayInstructionComplete (i : Byte) (s : State) : Host.Outcome State Fault Refusal := .next (arrDone s i.toNat)

end Sys2Proof.Machine
end

