-- ==== Sys2Proof/Machine/DmaCmds.lean ====
section
/-! DEFINITION. DMA descriptors, their execution and completion (R399 to R426). -/

namespace Sys2Proof.Machine

/-- DESCRIPTOR_FETCH (R407): a descriptor is read. -/
def execDescriptorFetch (chan : ChanNum) (d : BitVec 512) (s : State) : Host.Outcome State Fault Refusal :=
  .next (descFetch s chan.toNat d)

/-- DESCRIPTOR_FETCH_FAIL (R416): a descriptor cannot be read. -/
def execDescriptorFetchFail (chan : ChanNum) (s : State) : Host.Outcome State Fault Refusal :=
  .next (descFetchFail s chan.toNat)

/-- DMA_NOP (R403): NOP. -/
def execDmaNop (chan : ChanNum) (s : State) : Host.Outcome State Fault Refusal := .next (dmaNone s chan.toNat 0)

/-- DMA_COPY (R403): COPY. -/
def execDmaCopy (chan : ChanNum) (data : List Byte) (fail : Option W32)
    (s : State) : Host.Outcome State Fault Refusal :=
  .next (Sys2Proof.Machine.dmaCopy s chan.toNat data (fail.map BitVec.toNat))

/-- DMA_FILL (R403): FILL. -/
def execDmaFill (chan : ChanNum) (s : State) : Host.Outcome State Fault Refusal :=
  .next (Sys2Proof.Machine.dmaFill s chan.toNat)

/-- DMA_CLASP (R419): CLASP. -/
def execDmaClasp (chan : ChanNum) (s : State) : Host.Outcome State Fault Refusal := .next (dmaNone s chan.toNat 3)

/-- DMA_EXPDST (R426): EXPDST. -/
def execDmaExpdst (chan : ChanNum) (s : State) : Host.Outcome State Fault Refusal :=
  .next (Sys2Proof.Machine.dmaExpdst s chan.toNat)

/-- DMA_TRANSFER_COMPLETE (R412): a transfer is complete. -/
def execDmaTransferComplete (chan : ChanNum) (s : State) : Host.Outcome State Fault Refusal :=
  .next (transferComplete s chan.toNat)

/-- CLASP_FLUSH_COMPLETE (R420): a flush is complete. -/
def execClaspFlushComplete (chan : ChanNum) (ok : Bool) (s : State) : Host.Outcome State Fault Refusal :=
  .next (claspFlush s chan.toNat ok)

/-- DMA_STATUS_WRITE (R408): the status is written. -/
def execDmaStatusWrite (chan : ChanNum) (s : State) : Host.Outcome State Fault Refusal :=
  .next (statusWrite s chan.toNat)

end Sys2Proof.Machine
end

