-- ==== Sys2Proof/Machine/Image.lean ====
section
/-! DEFINITION. The step-plan image in T1 (R239, R240): its header, its section table and the sections whose byte layout the
specification gives, read into a plan (R176, R246, R248, R270 to R272, R310 to R316, R538), and the byte offset of the
first failing word of a plan (R241). The layouts of the tensor entries, of the lookup group entries and of the constants
behind the polynomial slots are not given: a command brings those three decoded (log entry 33). -/

namespace Sys2Proof.Machine

/-! ### The section table (R239) -/

/-- A section of an image: its type, its offset from the image start, its length in bytes. -/
structure ImageSec where
  typ : Nat := 0
  off : Nat := 0
  len : Nat := 0
  deriving DecidableEq, Repr

/-- The 12 entries of the section table of the image at `a`. -/
def secTable (m : Memory) (a : Nat) : List ImageSec :=
  (List.range 12).map fun i =>
    { typ := m.readNat (a + 64 + 16 * i) 4, off := m.readNat (a + 72 + 16 * i) 4, len := m.readNat (a + 76 + 16 * i) 4 }

/-- The section of a type; an empty one where the image has none. -/
def secOf (m : Memory) (a t : Nat) : ImageSec := ((secTable m a).find? fun x => x.typ == t).getD {}

/-- Whether an image has a section of a type. -/
def hasSec (m : Memory) (a t : Nat) : Bool := (secTable m a).any fun x => x.typ == t

/-- The types of the sections in use. -/
def secTypes (m : Memory) (a : Nat) : List Nat := ((secTable m a).map (·.typ)).filter (· != 0)

/-- The end of the last section, or of the header: the length of an image whose command names none. -/
def imageEnd (m : Memory) (a : Nat) : Nat :=
  (secTable m a).foldl (fun n x => if x.typ = 0 then n else Nat.max n (x.off + x.len)) 256

/-- Whether an entry of the section table lies outside the image or breaks its alignment. -/
def secBad (len : Nat) (x : ImageSec) : Bool := x.typ != 0 && decide (12 < x.typ ∨ x.off % 64 ≠ 0 ∨ len < x.off + x.len)

/-! ### Streams (R240, R245) -/

/-- `n` stream words from an address. -/
def imageWords (m : Memory) (a n : Nat) : List (BitVec 128) :=
  (List.range n).map fun i => BitVec.ofNat 128 (m.readNat (a + 16 * i) 16)

/-- Offset within its section and length in words of stream `k`, by the stream directory. -/
def streamAt (m : Memory) (a : Nat) (x : ImageSec) (k : Nat) : Nat × Nat :=
  (m.readNat (a + x.off + 16 * k) 8, m.readNat (a + x.off + 16 * k + 8) 8)

/-- The three streams of a section. -/
def imageStreams (m : Memory) (a : Nat) (x : ImageSec) : Streams :=
  let st (k : Nat) : List (BitVec 128) := let d := streamAt m a x k; imageWords m (a + x.off + d.1) d.2
  { seq := st 0, arr := st 1, vec := st 2 }

/-- The streams of a section that may be absent. -/
def imageStreams? (m : Memory) (a t : Nat) : Option Streams :=
  if hasSec m a t then some (imageStreams m a (secOf m a t)) else none

/-- Whether a stream section's directory leaves the section. -/
def dirBad (m : Memory) (a : Nat) (x : ImageSec) : Bool :=
  decide (x.len < (if x.typ = 9 then 80 else 64))
  || (List.range 3).any fun k => let d := streamAt m a x k; decide (x.len < d.1 + 16 * d.2)

/-! ### The other sections -/

/-- The update programs of a section, one after another from an offset to the section's end (R176). -/
def imageProgs (m : Memory) : Nat → Nat → Nat → Nat → List (Nat × UpdProg)
  | 0, _, _, _ => []
  | n + 1, i, o, e =>
    if e < o + 16 then []
    else
      let b (k : Nat) : Nat := m.readNat (o + k) 1
      let q : UpdProg :=
        { num := i, nins := b 0, rowp := b 1, nv := b 2, vfmt := b 3, ns := b 4, resv := m.readNat (o + 5) 11,
          words := (List.range (b 0)).map fun k => BitVec.ofNat 32 (m.readNat (o + 16 + 4 * k) 4) }
      (o, q) :: imageProgs m n (i + 1) (o + 16 + 4 * b 0) e

/-- The update programs of an image with their addresses. -/
def progsAt (m : Memory) (a : Nat) : List (Nat × UpdProg) :=
  let x := secOf m a 4
  imageProgs m 65 0 (a + x.off) (a + x.off + x.len)

/-- An exchange entry with its member list (R270 to R272). -/
def imageEntry (m : Memory) (o i : Nat) : XEntry :=
  let b := BitVec.ofNat 512 (m.readNat (o + 64 + 64 * i) 64)
  let x : XEntry := { bits := b }
  let at' := o + x.fld 445 414
  { x with members := if x.kind ≤ 2 then (List.range (x.din * x.dout)).map fun k => m.readNat (at' + 2 * k) 2 else [] }

/-- The exchange entries of an image. -/
def imageExch (m : Memory) (a : Nat) : List XEntry :=
  if hasSec m a 7 then
    let o := a + (secOf m a 7).off
    (List.range (m.readNat o 4)).map (imageEntry m o)
  else []

/-- A table reference (R312). -/
def imageRef (m : Memory) (o : Nat) : TableRef :=
  { tid := m.readNat o 2 % 4096, mbase := m.readNat (o + 8) 8, lbase := m.readNat (o + 16) 8 }

/-- A dense tensor key (R313). -/
def imageKey (m : Memory) (o : Nat) : DenseKey :=
  { key := m.readNat o 4, rq := m.readNat (o + 4) 4, rf := m.readNat (o + 8) 4, ag := m.readNat (o + 12) 4,
    flush := m.readNat (o + 16) 3 % 2 ^ 21 }

/-- An expert slot table at an address (R316). -/
def imageExpert (m : Memory) (o : Nat) : ExpertTab :=
  let n := m.readNat (o + 2) 2
  let q := o + 16 + 8 * n
  { layer := m.readNat o 2, deal := m.readNat (o + 6) 1,
    experts := (List.range n).map fun k =>
      { first := m.readNat (o + 16 + 8 * k) 2, replicas := m.readNat (o + 18 + 8 * k) 2, cap := m.readNat (o + 20 + 8 * k) 4 },
    slots := (List.range (m.readNat (o + 4) 2)).map fun k => (m.readNat (q + 4 * k) 2, m.readNat (q + 4 * k + 2) 2) }

/-- Expert slot tables one after another, each at a multiple of 8, with their addresses. -/
def imageExperts (m : Memory) : Nat → Nat → List (Nat × ExpertTab)
  | 0, _ => []
  | n + 1, o =>
    let t := imageExpert m o
    (o, t) :: imageExperts m n (roundUp (o + 16 + 8 * t.experts.length + 4 * t.slots.length) 8)

/-- The expert slot tables of an image with their addresses (R311). -/
def expertsAt (m : Memory) (a : Nat) : List (Nat × ExpertTab) :=
  let o := a + (secOf m a 8).off
  if hasSec m a 8 then imageExperts m (m.readNat (o + 20) 2) (o + m.readNat (o + 16) 4) else []

/-- The lookup entries of an image (R538, R142). -/
def imageLookups (m : Memory) (a : Nat) : List (BitVec 256) :=
  let o := a + (secOf m a 3).off
  (List.range (m.readNat o 4)).map fun i => BitVec.ofNat 256 (m.readNat (o + m.readNat (o + 4) 4 + 32 * i) 32)

/-! ### The plan of an image -/

/-- Whether the sections of an image leave it, or their preambles break R240, R270, R274, R311 or R538. -/
def layoutBad (m : Memory) (a len : Nat) : Bool :=
  let n (o k : Nat) : Nat := m.readNat (a + o) k
  let l := secOf m a 3
  let x := secOf m a 7
  let e := secOf m a 8
  let types := secTypes m a
  decide (len < 256) || (secTable m a).any (secBad len) || decide (types.eraseDups.length ≠ types.length)
  || ((secTable m a).filter fun y => decide (9 ≤ y.typ)).any (dirBad m a)
  || decide ((secOf m a 1).len < 16640) || decide ((secOf m a 5).len < 16 * n 38 2)
  || decide (l.len < 64 ∨ n (l.off + 4) 4 % 32 ≠ 0 ∨ l.len < n (l.off + 4) 4 + 32 * n l.off 4 ∨ 1024 < n l.off 4
      ∨ 64 < n (l.off + 8) 2 ∨ n (l.off + 12) 4 % 8 ≠ 0 ∨ l.len < n (l.off + 12) 4)
  || (hasSec m a 7 && (decide (n x.off 4 = 0 ∨ 65536 < n x.off 4 ∨ x.len < 64 + 64 * n x.off 4)
      || n (x.off + 4) 60 != 0
      || (imageExch m a).any fun y => decide (y.kind ≤ 2 ∧ x.len < y.fld 445 414 + 2 * (y.din * y.dout))))
  || (hasSec m a 8 && (decide (e.len < 64) || [0, 4, 12, 16].any (fun k => decide (n (e.off + k) 4 % 8 ≠ 0))
      || decide (4096 < n (e.off + 8) 2 ∨ 64 < n (e.off + 20) 2)
      || decide (e.len < n e.off 4 + 2 * n 24 2 ∨ e.len < n (e.off + 4) 4 + 32 * n (e.off + 8) 2
          ∨ e.len < n (e.off + 12) 4 + 24 * n (e.off + 10) 2)))

/-- Whether ICRC is the CRC-32C of the image with its four bytes taken as 0. -/
def icrcGood (m : Memory) (a len : Nat) : Bool :=
  decide ((crc32c (m.read a 60 ++ [0, 0, 0, 0] ++ m.read (a + 64) (len - 64))).toNat = m.readNat (a + 60) 4)

/-- The plan of the image of `len` bytes at `a`. `fill` brings the tensor entries, the lookup group entries and the constants,
whose byte layouts are not given. -/
def readPlan (m : Memory) (a len : Nat) (fill : Plan) : Plan :=
  let n (o k : Nat) : Nat := m.readNat (a + o) k
  let i8 (o : Nat) : Int := s8 (m.get (a + o))
  let mp := (secOf m a 8).off
  let lk := (secOf m a 3).off
  let map := hasSec m a 8
  { magic := n 0 4, ver := n 4 2, icrcOk := icrcGood m a len, laidOut := !layoutBad m a len, level := n 6 1, look := n 7 1,
    seed := BitVec.ofNat 64 (n 8 8), nsmp := n 16 4, nmb := n 20 2, nleaf := n 22 2, nmod := n 24 2, lidx := n 26 2,
    nstart := n 28 1, nrec := n 29 1, lsmode := n 30 1, ls0 := i8 31, lsmin := i8 32, lsmax := i8 33, lsw := n 34 2,
    ngt := n 36 2, epoch := n 40 8, step0 := n 48 8, part := BitVec.ofNat 2 (n 56 1), compat := n 58 1, sects := secTypes m a,
    poly := m.read (a + (secOf m a 1).off) 16640, consts := fill.consts, tensors := fill.tensors,
    ibase := n (lk + 16) 8, slotsz := n (lk + 24) 4, lookups := imageLookups m a, groups := fill.groups.take (n (lk + 8) 2),
    progs := if hasSec m a 4 then (progsAt m a).map (·.2) else [], cues := imageWords m (a + (secOf m a 5).off) (n 38 2),
    descs := (List.range ((secOf m a 6).len / 64)).map fun i => BitVec.ofNat 512 (n ((secOf m a 6).off + 64 * i) 64),
    exch := imageExch m a,
    modules := if map then (List.range (n 24 2)).map fun i => BitVec.ofNat 16 (n (mp + n mp 4 + 2 * i) 2) else [],
    refs := if map then (List.range (n (mp + 8) 2)).map fun i => imageRef m (a + mp + n (mp + 4) 4 + 32 * i) else [],
    keys := if map then (List.range (n (mp + 10) 2)).map fun i => imageKey m (a + mp + n (mp + 12) 4 + 24 * i) else [],
    experts := (expertsAt m a).map (·.2), selftest := imageStreams? m a 9, digest := if hasSec m a 9 then n ((secOf m a 9).off + 64) 16 else 0,
    start := imageStreams? m a 10, steady := imageStreams m a (secOf m a 11), recov := imageStreams m a (secOf m a 12) }

/-! ### The failing word (R241) -/

/-- Whether a word of a stream is invalid by itself. -/
def wordBad (s : State) (p : Part) (pl : Plan) (test : Bool) (u : SUnit) (w : BitVec 128) : Bool :=
  match streamWord u w with
  | none => true
  | some x => operandBad s p pl test x

/-- The words of a stream section that are invalid by themselves, with their offsets. -/
def streamFaults (s : State) (p : Part) (pl : Plan) (a : Nat) (x : ImageSec) : List (Nat × Bool) :=
  [(SUnit.seq, 0), (SUnit.arr, 1), (SUnit.vec, 2)].flatMap fun u =>
    let d := streamAt s.mem a x u.2
    (imageWords s.mem (a + x.off + d.1) d.2).zipIdx.map fun w =>
      (x.off + d.1 + 16 * w.2, wordBad s p pl (x.typ == 9) u.1 w.1)

/-- The parts of an image that have an offset, each with whether it breaks a rule. -/
def imageFaults (s : State) (p : Part) (a len : Nat) (pl : Plan) : List (Nat × Bool) :=
  let m := s.mem
  let off (t : Nat) : Nat := (secOf m a t).off
  let lk := off 3 + m.readNat (a + off 3 + 4) 4
  headerFaults p pl ++ (secTable m a).zipIdx.map (fun x => (64 + 16 * x.2, secBad len x.1))
  ++ pl.lookups.zipIdx.map (fun x => (lk + 32 * x.2, lkBad s p pl x.1))
  ++ (progsAt m a).map (fun x => (x.1 - a, progBad s p x.2))
  ++ pl.cues.zipIdx.map (fun x => (off 5 + 16 * x.2, cueBad pl x.1))
  ++ pl.descs.zipIdx.map (fun x => (off 6 + 64 * x.2, descBad s p x.1))
  ++ pl.exch.zipIdx.map (fun x => (off 7 + 64 + 64 * x.2, xentBad s p pl x.1))
  ++ (expertsAt m a).map (fun x => (x.1 - a, expertBad pl x.2))
  ++ ((secTable m a).filter fun x => decide (9 ≤ x.typ)).flatMap (streamFaults s p pl a)

/-- The lowest offset of a part that breaks a rule; none where only a rule over several parts, or one over a part whose layout is
not given, is broken. -/
def failOffset (s : State) (p : Part) (a len : Nat) (pl : Plan) : Option Nat :=
  ((imageFaults s p a len pl).filter (·.2)).foldl (fun o x => match o with
    | none => some x.1
    | some n => some (Nat.min n x.1)) none

end Sys2Proof.Machine
end

