-- ==== Sys2Proof/Machine/Auth.lean ====
section
/-! DEFINITION. Authority: the Locket's active settings record, who holds which authority, and what an access
without authority does (R5, R363, R364, R451 to R454, R471 to R473, R500). -/

namespace Sys2Proof.Machine

/-! ### The Locket's settings (R471 to R473) -/

/-- The Locket offset of the settings slot of a generation. -/
def lkSlot (g : Nat) : Nat := 0x400 * (g + 1)

/-- Byte `o` of the active settings record, or the value that holds when no generation qualifies. -/
def lkByte (s : State) (o d : Nat) : Nat :=
  match s.sec.gen with
  | none => d
  | some g => (s.sec.otp.get (lkSlot g + o)).toNat

def lkPolicy (s : State) : Nat := lkByte s 8 0
def lkFab (s : State) : Nat := lkByte s 9 0
def lkPod (s : State) : Nat := lkByte s 10 0
def lkSlotNo (s : State) : Nat := lkByte s 11 0
def lkKeeper (s : State) : Nat := lkByte s 12 0
def lkLife (s : State) : Nat := lkByte s 13 6
def lkDebug (s : State) : Bool := bit 0 (lkByte s 14 0)
def lkOverride (s : State) : Nat := lkByte s 15 0

/-! ### Who holds which authority (R451, R454) -/

/-- Whether a function is the PF of its port. -/
def isPf (f : Nat) : Bool := f % 32 == 0

/-- The PF of a function's port. -/
def pfOf (f : Nat) : Nat := f / 32 * 32

/-- Whether the active Locket generation grants steward authority to a PF (R454). -/
def granted (s : State) (f : Nat) : Bool := (f == 0 && lkOverride s == 1) || (f == 32 && lkOverride s == 2)

/-- Steward authority: the management port, or the granted PF. -/
def stewardOk (s : State) (w : Who) : Bool :=
  match w with
  | none => true
  | some f => granted s f.toNat

/-- Operator authority: a PF, or the steward. -/
def operatorOk (s : State) (w : Who) : Bool :=
  match w with
  | none => true
  | some f => isPf f.toNat || granted s f.toNat

/-- Whether a PF is the controlling PF of a partition (R364, R503). -/
def controls (s : State) (f : Nat) (p : Nat) : Bool := isPf f && decide (nth 255 s.pctl p = f)

/-- The authority over a partition's set-up: its controlling PF, or the steward. -/
def partOk (s : State) (w : Who) (p : Nat) : Bool :=
  match w with
  | none => true
  | some f => controls s f.toNat p || granted s f.toNat

/-- The number of a requester in an event: its function, or none. -/
def whoFn (w : Who) : Nat := match w with | none => 0xFFFF | some f => f.toNat

/-- The partition of a requester in an event. -/
def whoPart (s : State) (w : Who) : Option Part :=
  match w with
  | none => none
  | some f => if (getFn s f.toNat).pv then some (getFn s f.toNat).part else none

/-- An access without authority: EV_SEC_AUTH with the register offset and the function (R453). -/
def noAuth (s : State) (w : Who) (off : Nat) : State := raiseF s evSecAuth 0 (whoFn w) none [off, whoFn w]

/-- A programming error of a requester (R5, R500). -/
def progError (s : State) (w : Who) (off : Nat) : State := raiseF s evProgError 0 (whoFn w) (whoPart s w) [off]

/-- Whether an access can reach the module: a function's through its port, the management port's in every state but
unpowered (R433). -/
def reaches (s : State) (w : Who) : Bool := s.pwr.mst != .unpowered && (w.isNone || s.pwr.mst != .off)

/-- Access to a register by its right: the access, or EV_SEC_AUTH (R453). -/
def withAuth (s : State) (ok : Bool) (w : Who) (off : Nat) (f : State → State) : State :=
  if !reaches s w then s else if ok then f s else noAuth s w off

/-! ### Rights to commands (R364, R374) -/

/-- The job commands, which only the controlling PF may issue. -/
def jobOpc (opc : Nat) : Bool := [0x04, 0x10, 0x11, 0x12, 0x13, 0x14].contains opc

/-- The table commands, which a VF may issue with its table-rights grant. -/
def tableOpc (opc : Nat) : Bool := [0x02, 0x03, 0x05, 0x06, 0x07, 0x08, 0x09].contains opc

/-- Whether the function of a command has the right to it. -/
def cmdRight (s : State) (c : Cmd) : Bool :=
  let f := c.fn.toNat
  let v := getFn s f
  if jobOpc c.opc then v.pv && controls s f v.part.toNat
  else if tableOpc c.opc then v.pv && (isPf f || v.tgrant)
  else if c.opc = 0x01 then v.pv
  else if c.opc = 0x18 then true
  else isPf f

/-- Whether a consumed command may start: it is in progress on its ring, and a fenced one only once every earlier
command of the ring has completed. -/
def cmdStarts (s : State) (c : Cmd) (opc : Nat) : Bool :=
  let l := (getRing s c.ring.toNat).old ++ (getRing s c.ring.toNat).prog
  l.contains c && c.opc == opc && (!c.fence || l.head? == some c)

/-- Runs a consumed command: one whose function lacks the right completes with INVALID and raises EV_CMD_RIGHTS. -/
def command (s : State) (c : Cmd) (opc : Nat) (f : State → State) : State :=
  if !cmdStarts s c opc then s
  else if cmdRight s c then f s
  else rejectCmd s c evCmdRights stInvalid [c.ring.toNat, c.opc]

end Sys2Proof.Machine
end

