-- ==== Sys2Proof/Machine/Island.lean ====
section
/-! DEFINITION. The counter island: the indirect counter arrays, instruction sampling, bandwidth windows, Frost, and
who may read counters (R484 to R497). -/

namespace Sys2Proof.Machine

/-- The state with `f` applied to the island. -/
def modIsl (s : State) (f : Island → Island) : State := { s with isl := f s.isl }

/-! ### Rights (R482, R486, R492, R497) -/

/-- Whether a function may read the counters of partition `p`: the steward, a PF its own partitions, a VF its
partition where its PF has granted it. -/
def ctrRead (s : State) (w : Who) (p : Nat) : Bool :=
  match w with
  | none => true
  | some f =>
    let v := getFn s f.toNat
    granted s f.toNat
    || (if isPf f.toNat then controls s f.toNat p || (v.pv && v.part.toNat == p)
        else v.pv && v.part.toNat == p && bit (f.toNat % 32 - 1) (nth 0 s.isl.vfrd (f.toNat / 32)))

/-- Whether a requester may read the live counter blocks and the window rings. -/
def blockRead (s : State) (w : Who) : Bool :=
  match w with
  | none => true
  | some f => operatorOk s w || ctrRead s w (getFn s f.toNat).part.toNat

/-! ### The counter arrays (R485, R486) -/

/-- The counter set that CTR_XSEL selects: the live values, or a shadow set. -/
def xselSet (s : State) : CtrSet :=
  match bits 31 28 s.isl.xsel with
  | 0 => s.isl.live
  | k + 1 => (nth {} s.isl.frost k).set

/-- CTR_XVALi (R486). -/
def xval (s : State) (i : Nat) : Nat :=
  let x := s.isl.xsel
  let v := xselSet s
  let p := bits 13 12 x
  let k := bits 11 0 x
  if bit 27 x then
    let c := tabGet {} v.cue (4096 * p + k)
    nth 0 [c.last, c.max, c.sum] i
  else if i < 12 then
    let c := tabGet {} v.tbl ((4096 * p + k) * 12 + i)
    c.total + 2 ^ 48 * b2n c.ovf
  else if i < 24 then (tabGet {} v.tbl ((4096 * p + k) * 12 + (i - 12))).step
  else 0

/-- Writes CTR_XSEL; CLR with SET = 0 clears the selected totals and overflow bits, or MAX and SUM (R486). -/
def xselWrite (s : State) (w : Who) (v : Nat) : State :=
  let p := bits 13 12 v
  let k := 4096 * p + bits 11 0 v
  withAuth s (ctrRead s w p) w 0x406000 fun s =>
    if 5 < bits 31 28 v then progError s w 0x406000
    else
      let s := modIsl s fun i => { i with xsel := bits 31 28 v * 2 ^ 28 + bits 27 27 v * 2 ^ 27 + bits 13 0 v }
      if bit 24 v && bits 31 28 v == 0 then
        if bit 27 v then modLive s fun l => { l with cue := tabMod {} l.cue k fun c => { c with max := 0, sum := 0 } }
        else modLive s fun l => { l with tbl := (List.range 12).foldl (fun t i =>
          tabMod {} t (k * 12 + i) fun (c : TblCtr) => { c with total := 0, ovf := false }) l.tbl }
      else s

/-- Records the lateness of a cue point (R485). -/
def cueLate (s : State) (p : Part) (c late : Nat) : State :=
  modLive s fun l => { l with cue := tabMod {} l.cue (4096 * p.toNat + c) fun (v : CueCtr) =>
    { last := late, max := Nat.min (Nat.max v.max late) 0xFFFFFFFF, sum := (v.sum + late) % 2 ^ 48 } }

/-- A plan load or replacement clears the cue-point values of the partition. -/
def clearCues (s : State) (p : Part) : State :=
  modLive s fun l => { l with cue := l.cue.filter fun kv => decide (kv.1 / 4096 ≠ p.toNat) }

/-! ### Sampling (R487, R488) -/

/-- The countdowns of a partition start at N at a step start. -/
def startSampling (s : State) (p : Part) : State :=
  modIsl s fun i => { i with down := i.down.filter fun kv => decide (kv.1 / 32 ≠ p.toNat) }

/-- The 32 bytes of a sample record. -/
def sampleBytes (step src : Nat) (r : Sample) : List Byte :=
  bytesOf 6 step ++ [BitVec.ofNat 8 src, r.flg] ++ bytesOf 4 r.idx.toNat ++ [r.opc] ++ bytesOf 3 0
  ++ bytesOf 8 r.addr.toNat ++ bytesOf 4 r.issue.toNat ++ bytesOf 4 r.lat.toNat

/-- Writes a sample that is due into the partition's trace ring, or drops and counts it. -/
def sampleRecord (s : State) (p : Part) (src : Nat) (r : Sample) : State :=
  let k := 32 * p.toNat + src
  let n := tabGet 0 s.isl.due k
  let c := nth {} s.isl.trace p.toNat
  if n = 0 then s
  else
    let put (s : State) (c : TraceCfg) : State := modIsl s fun i => { i with trace := setNth i.trace p.toNat c }
    let s := modIsl s fun i => { i with due := tabSet i.due k (n - 1) }
    let size := 2 ^ (c.size + 12)
    let full : Bool := decide (size ≤ c.trp - c.trc)
    if full && !c.ovw then put s { c with drop := (c.drop + 1) % 2 ^ 48 }
    else
      let s := winAdd (charge s p 0 64 (if src < 2 then 1 + src else 9 + src)) 53 64
      let s := wrNow s (c.base + 32 * (c.trp % size)) (sampleBytes (stepOf s p) src r)
      put s { c with trp := c.trp + 1, trc := if full then c.trc + 1 else c.trc }

/-! ### Bandwidth windows (R490, R491) -/

/-- The window in progress closes once its end is reached. -/
def windowClose (s : State) : State := if winEnd s ≤ s.tim.now then closeWindow s (winEnd s) false else s

/-- Writes CTR_BWLEN: the window in progress ends at the first multiple of the new length, as a short window. -/
def bwlenWrite (s : State) (w : Who) (v : Nat) : State :=
  withAuth s (operatorOk s w) w 0x404800 fun s =>
    if v < 1000 ∨ 1000000000 < v then progError s w 0x404800
    else modIsl s fun i => { i with bwLen := v, shortEnd := some ((s.tim.now / v + 1) * v) }

/-! ### Frost (R492 to R496) -/

def getFrost (s : State) (i : Nat) : Frost := nth {} s.isl.frost i
def putFrost (s : State) (i : Nat) (f : Frost) : State := modIsl s fun v => { v with frost := setNth v.frost i f }

/-- Copies every live counter into shadow set `i` (R494 to R496). -/
def capture (s : State) (i sl : Nat) : State :=
  let f := getFrost s i
  putFrost s i { f with seq := (f.seq + 1) % 2 ^ 32, res := 0, done := true, armed := false, capTime := s.tim.now,
                        capSeal := sl, set := s.isl.live }

/-- A request ends without a capture. -/
def endFrost (s : State) (i res : Nat) : State := putFrost s i { getFrost s i with res := res, done := true, armed := false }

/-- The register offset of a set's request register. -/
def frostOff (i : Nat) : Nat := 0x404000 + 0x40 * i

/-- Whether a requester may write the request register of a set. -/
def frostOk (s : State) (w : Who) (i : Nat) : Bool := if i < 4 then partOk s w i else stewardOk s w

/-- MODE 0: an armed request is cancelled. -/
def frostCancel (s : State) (w : Who) (i : Nat) : State :=
  withAuth s (frostOk s w i) w (frostOff i) fun s =>
    let f := getFrost s i
    let s := putFrost s i { f with mode := 0 }
    if f.armed then endFrost s i 3 else s

/-- MODE 1: a capture at a fabric time. -/
def frostArmTime (s : State) (w : Who) (i t : Nat) : State :=
  withAuth s (frostOk s w i) w (frostOff i) fun s =>
    let s := putFrost s i { getFrost s i with mode := 1, target := t, armed := true }
    if t < s.tim.now then endFrost s i 1 else s

/-- MODE 2: a capture at a seal of the set's partition's job. -/
def frostArmSeal (s : State) (w : Who) (i n : Nat) : State :=
  withAuth s (frostOk s w i) w (frostOff i) fun s =>
    let s := putFrost s i { getFrost s i with mode := 2, target := n, armed := true }
    match (if i < 4 then getJob s (BitVec.ofNat 2 i) else none) with
    | none => endFrost s i 2
    | some j =>
      match j.lastSeal with
      | some m => if n ≤ m then endFrost s i 1 else s
      | none => s

/-- MODE 3: a capture at once. -/
def frostNow (s : State) (w : Who) (i : Nat) : State :=
  withAuth s (frostOk s w i) w (frostOff i) fun s =>
    capture (putFrost s i { getFrost s i with mode := 3 }) i 0

/-- The capture cycle of a time request has come. -/
def frostTime (s : State) (i : Nat) : State :=
  let f := getFrost s i
  if f.armed && f.mode == 1 && decide (f.target ≤ s.tim.now) then capture s i 0 else s

/-- Item 1 of the work at seal `n`: the armed seal request of the partition's set captures. -/
def captureSeal (s : State) (p : Part) (n : Nat) : State :=
  let f := getFrost s p.toNat
  if f.armed && f.mode == 2 && f.target == n then capture s p.toNat n else s

/-- A job's plan is released: its seal request ends cancelled (R493). -/
def dropSealFrost (s : State) (p : Part) : State :=
  let f := getFrost s p.toNat
  if f.armed && f.mode == 2 then endFrost s p.toNat 3 else s

end Sys2Proof.Machine
end

