-- ==== Sys2Proof/Machine/Training.lean ====
section
/-! DEFINITION. The training step: cue points, the veto token and its tree, the seal wave, the seal and its work, step
starts, the loss-scale exponent, grid exponents, abandonment, and the twin's part in gate and seal (R141, R248 to R267,
R282, R301 to R303, R351, R352, R376, R377, R391, R422, R485). -/

namespace Sys2Proof.Machine

/-! ### The job tree (R351) -/

/-- The children of a module on the job tree. -/
def kidsOf (pl : Plan) : List Nat :=
  ((List.range 16).map fun i => 16 * pl.lidx + 1 + i).filter fun l => decide (l < pl.nmod)

/-- The parent of a module that is not the root. -/
def parentOf (pl : Plan) : Nat := (pl.lidx - 1) / 16

/-- Whether the module's own contribution and all its children's are in. -/
def TreeSt.full (t : TreeSt) (pl : Plan) : Bool := t.own && (kidsOf pl).all t.kids.contains

/-- A child's contribution that has not come before. -/
def TreeSt.fresh (t : TreeSt) (pl : Plan) (src : Nat) : Bool := (kidsOf pl).contains src && !t.kids.contains src

/-- Sends one control message to every child. -/
def toKids (s : State) (p : Part) (pl : Plan) (mtype : Nat) (body : List Byte) : State :=
  (kidsOf pl).foldl (fun s l => sendTo s p l mtype body) s

/-! ### The veto token (R253 to R257) -/

/-- The check word of a step (R254). -/
def checkWord (j : Job) : W32 := BitVec.ofNat 32 (j.step % 65536 + pat 8 j.ls * 65536 + j.epoch % 256 * 2 ^ 24)

/-- The agreement word: the CRC-32C of the 48-byte record (R254). -/
def agreeWord (j : Job) : W32 :=
  let pl := j.plan
  crc32c (bytesOf 8 pl.seed.toNat ++ bytesOf 8 pl.step0 ++ bytesOf 8 j.epoch ++ bytesOf 2 pl.nmod ++ bytesOf 2 pl.ngt
    ++ bytesOf 2 pl.lsw ++ bytesOf 1 pl.level ++ bytesOf 1 pl.look ++ bytesOf 1 pl.lsmode ++ bytesOf 1 (pat 8 pl.ls0)
    ++ bytesOf 1 (pat 8 pl.lsmin) ++ bytesOf 1 (pat 8 pl.lsmax) ++ bytesOf 12 0)

/-- The token entry of a grid tensor's reports. -/
def gridEntry (g : GridRep) : BitVec 16 := BitVec.ofNat 16 (pat 8 g.emax + 256 * b2n g.sat + 512 * b2n g.nf)

/-- The reason bits that veto a step: bits [4:0] of VETO (R255). -/
def vetoes (v : W32) : Bool := v &&& 0x1F#32 != 0#32

/-- The module's contribution (R253, R255). -/
def contribution (j : Job) : Token :=
  let gs := (List.range j.plan.ngt).map fun k => tabGet {} j.rep.grids k
  let v := j.rep.bits ||| (if gs.any (·.nf) then vNonfin else 0) ||| (if gs.any (·.sat) then vGsat else 0)
  let bad : Bool := v &&& 0xF#32 != 0#32
  { step := j.step, chka := checkWord j, chko := checkWord j, veto := v,
    first := if bad then j.plan.lidx else 0xFFFF, nveto := b2n bad,
    agra := agreeWord j, agro := agreeWord j, grids := gs.map gridEntry }

/-- Combines two entries of one grid tensor: OR of the flags, the larger EMAX. -/
def gridJoin (a b : BitVec 16) : BitVec 16 :=
  let x := sgn 8 a.toNat
  let y := sgn 8 b.toNat
  BitVec.ofNat 16 (pat 8 (if x < y then y else x) + 256 * b2n (bit 8 a.toNat || bit 8 b.toNat)
    + 512 * b2n (bit 9 a.toNat || bit 9 b.toNat))

/-- Combines the grid entries of two contributions; the longer one's further entries stand. -/
def gridsJoin : List (BitVec 16) → List (BitVec 16) → List (BitVec 16)
  | [], l => l
  | l, [] => l
  | a :: s, b :: t => gridJoin a b :: gridsJoin s t

end Sys2Proof.Machine

namespace Sys2Proof
open Machine

/-- Combines two contributions (R253). -/
def Token.join (a b : Token) : Token :=
  { step := a.step, chka := a.chka &&& b.chka, chko := a.chko ||| b.chko, veto := a.veto ||| b.veto,
    first := Nat.min a.first b.first, nveto := Nat.min (a.nveto + b.nveto) 65535,
    agra := a.agra &&& b.agra, agro := a.agro ||| b.agro, grids := gridsJoin a.grids b.grids }

/-- Whether the combined words show a disagreement (R254). -/
def Token.incons (t : Token) : Bool := t.chka != t.chko || t.agra != t.agro

/-- The bytes of a contribution or result: the 64-byte header and the grid entries. -/
def Token.bytes (t : Token) : List Byte :=
  bytesOf 8 t.step ++ bytesOf 4 t.chka.toNat ++ bytesOf 4 t.chko.toNat ++ bytesOf 4 t.veto.toNat ++ bytesOf 2 t.first
  ++ bytesOf 2 t.nveto ++ bytesOf 4 t.agra.toNat ++ bytesOf 4 t.agro.toNat ++ bytesOf 32 0
  ++ t.grids.flatMap fun g => bytesOf 2 g.toNat

end Sys2Proof

namespace Sys2Proof.Machine

/-- Passes the token on once the module's part of the tree is complete: to its parent, or, at the root, as the result
to its children (R351). -/
def tokenUp (s : State) (p : Part) : State :=
  match getJob s p with
  | none => s
  | some j =>
    match j.tokTree.full j.plan, j.tokAcc with
    | true, some t =>
      if j.plan.lidx = 0 then toKids (modJob s p fun j => { j with tokRes := some t }) p j.plan 0x20 t.bytes
      else sendTo s p (parentOf j.plan) 0x20 t.bytes
    | _, _ => s

/-- Joins a contribution into what the module holds of the token. -/
def Job.joinToken (j : Job) (t : Token) : Job :=
  { j with tokAcc := some (match j.tokAcc with | none => t | some a => a.join t) }

/-- Whether a function of the partition is on a port in host-loss hold (R391). -/
def lostHost (s : State) (p : Part) : Bool :=
  s.fns.any fun kv => kv.2.pv && kv.2.part == p && (getPort s (portOf kv.1)).hold

/-- The step sequencer makes the module's contribution. A partition that has lost a host and holds no batch for the
next step sets HOLD (R253, R391). -/
def contribute (s : State) (p : Part) : State :=
  match getJob s p with
  | none => s
  | some j =>
    if j.contributed then s
    else
      let t := contribution j
      let h : Bool := lostHost s p && !j.accepted.contains (j.step + 1)
      let s := wrNow s tokBase t.bytes
      let s := modJob s p fun j => { j.joinToken t with
        contributed := true, hold := j.hold || h, tokTree := { j.tokTree with own := true } }
      tokenUp s p

/-- A contribution or the result arrives on the job tree. -/
def tokenMsg (s : State) (p : Part) (src : Nat) (down : Bool) (t : Token) : State :=
  match getJob s p with
  | none => s
  | some j =>
    if t.step ≠ nextStep s p then s
    else if down then
      if j.plan.lidx ≠ 0 ∧ src = parentOf j.plan ∧ j.tokRes.isNone ∧ j.token.isNone then
        toKids (modJob s p fun j => { j with tokRes := some t }) p j.plan 0x20 t.bytes
      else s
    else if j.tokTree.fresh j.plan src then
      tokenUp (modJob s p fun j => { j.joinToken t with tokTree := { j.tokTree with kids := src :: j.tokTree.kids } }) p
    else s

/-! ### The twin (R300 to R303) -/

/-- The module of the other fabric with the same pod and slot. -/
def twinNode (s : State) : NodeAddr := myNode s ^^^ 0x4000#16

/-- Sends a message of the redundant pair to the twin. -/
def toTwin (s : State) (p : Part) (mtype : Nat) (body : List Byte) : State := sendNode s p (twinNode s) mtype body

/-- Changes the state of the redundant pair. -/
def modTwin (s : State) (p : Part) (f : Twin → Twin) : State := modJob s p fun j => { j with twin := f j.twin }

/-- Whether the step is vetoed on the module: its own result or its twin's says so, one that came before the twin was lost
among them (R255, R301). -/
def stepVetoed (j : Job) : Bool :=
  let v (t : Option Token) : Bool := match t with | some t => vetoes t.veto | none => false
  v j.token || v j.twin.token

/-- The VETO of the seal record: the OR of both twins' results (R301). -/
def vetoWord (j : Job) : W32 :=
  let v (t : Option Token) : W32 := match t with | some t => t.veto | none => 0
  v j.token ||| v j.twin.token

/-- The combined result completes on the module: it is checked for INCONS and stored in the staging area (R254, R256,
R257), and sent to the twin (R301). -/
def tokenComplete (s : State) (p : Part) : State :=
  match getJob s p with
  | none => s
  | some j =>
    match j.tokRes, j.token with
    | some t, none =>
      if !j.contributed then s
      else
        let t := if t.incons then { t with veto := t.veto ||| vIncons } else t
        let s := if t.incons then raise s p evStepIncons [j.step] else s
        let s := wrNow (wrNow s (tokBase + 0x400) t.bytes) (tokBase + 0x800 + j.step % 16 * 1024) t.bytes
        let s := modJob s p fun j => { j with token := some t, tokRes := none }
        if j.twin.paired then modTwin (toTwin s p 0x23 t.bytes) p fun w => { w with ownAt := s.tim.now } else s
    | _, _ => s

/-- Whether the token has completed for the gate: on the module and, in a pair, on its twin (R259, R301). -/
def tokenHere (j : Job) : Bool := j.token.isSome && (!j.twin.paired || j.twin.token.isSome)

/-! ### Cue points (R248, R249, R258) -/

/-- Whether any instruction or queued entry of a partition is still under way in the array or the vector engine. -/
def unitsIdle (s : State) (p : Part) : Bool :=
  s.arr.flying.all (fun f => f.part != p) && s.vec.flying.all (fun f => f.part != p)
  && s.arr.defq.all (fun d => d.part != p)

/-- Whether every stream in UNITS has arrived at a cue point. -/
def arrivedAll (j : Job) (c : Nat) : Bool :=
  (setBitsOf 3 (cueUnits (nth 0 j.plan.cues c))).all fun u => j.arrived.contains (c, u)

/-- Whether a cue point's condition holds (R244, R249, R422). A phase or an entry whose word a vetoed step skips counts as
completed (DEDUCED from R258 and R260: a vetoed step reaches its seal); none has completed while a write is held for a
queued deferred entry (R68). -/
def cueHolds (s : State) (p : Part) (j : Job) (c : Nat) : Bool :=
  let q := nth 0 j.plan.cues c
  let dma : Bool := !bit 0 (cueUnits q) || planDmaDone s p
  if j.phase = .testing then
    dma && (cueType q != 6 || (planDmaDone s p && unitsIdle s p))
  else
    dma && (match cueType q with
    | 0 => true
    | 1 => (s.parked.isEmpty && phaseDone s p j (cueRef q % 64) (bits 10 8 (cueRef q)))
      || j.skipped.any fun x => match x with
        | .lkg g ph => g.toNat == cueRef q % 64 && ph == bits 10 8 (cueRef q)
        | _ => false
    | 2 => (s.parked.isEmpty && xchDone j (cueRef q)) || j.skipped.any fun x => match x with
        | .xch e => e.toNat == cueRef q
        | _ => false
    | 3 => true
    | 4 => tokenHere j
    | 5 => j.accepted.contains j.step && batchSorted j j.step
    | _ => j.lastSeal == some j.step)

/-- Whether a cue point may fire now. -/
def cueReady (s : State) (p : Part) (j : Job) (c : Nat) : Bool :=
  decide (c < j.plan.cues.length) && j.streaming && !j.fired.contains c && arrivedAll j c && cueHolds s p j c

/-- The streams of a partition. -/
def units : List SUnit := [.seq, .arr, .vec]

/-- Counts the cycles for which the streams waited at a cue point for what it names: a hold at the intake cue point
and the gate, a wait for a peer or the twin at the others (R141, R259, R483). -/
def countWait (s : State) (p : Part) (j : Job) (c : Nat) : State :=
  let ty := cueType (nth 0 j.plan.cues c)
  let ts := (units.filter fun u => (j.stream u).wait == some c).map fun u => nowCyc s - (j.stream u).waitAt
  let q := ts.foldl Nat.min (ts.headD 0)
  if ty = 5 then units.foldl (fun s u =>
      if (j.stream u).wait == some c then count s (unitBlk u) 1 3 q (atPart p) else s) s
  else if ty = 4 ∧ j.token.isNone then s
  else if ty = 4 then count (count s blkSeq 1 3 q (atPart p)) blkSeq 1 7 (if j.twin.paired then q else 0) (atPart p)
  else if ty = 1 ∨ ty = 2 then count s blkSeq 1 7 q (atPart p)
  else s

/-- The streams that wait at a cue point go on, with the firing cycle as their anchor (R245). -/
def releaseCue (j : Job) (c now : Nat) : Job :=
  units.foldl (fun j u => j.modStream u fun st =>
    if st.wait = some c then { st with wait := none, anchor := now } else st) j

/-- What firing a cue point of a type does besides: the token contribution, the veto gate (R253, R258). In a vetoed step
the exchange engines discard the data that awaits release. -/
def cueEffect (s : State) (p : Part) (ty : Nat) : State :=
  match ty with
  | 3 => contribute s p
  | 4 => modJob s p fun j =>
      let v := stepVetoed j
      { j with gate := true, vetoed := v, dense := if v then [] else j.dense,
               chunkOrder := if v then [] else j.chunkOrder }
  | _ => s

/-- A cue point fires (R249): its effect, its lateness, and the streams behind it. -/
def cueFire (s : State) (p : Part) (c : Nat) : State :=
  match getJob s p with
  | none => s
  | some j =>
    if !cueReady s p j c then s
    else
      let q := nth 0 j.plan.cues c
      let test : Bool := j.phase == .testing
      let s := if test then s else cueLate (countWait s p j c) p c (nowCyc s - j.stepStart - cuePlan q)
      let s := if test then s else cueEffect s p (cueType q)
      pump (modJob s p fun j => releaseCue { j with fired := c :: j.fired } c (nowCyc s))

/-! ### The loss-scale exponent and the grid exponents (R267, R282) -/

/-- LS of the next step and the growth count before any rise, as the seal of a step sets them. -/
def sealScale (j : Job) (vetoed : Bool) : Int × Nat :=
  if j.plan.lsmode = 0 then (j.plan.ls0, j.growth)
  else if vetoed then ((if j.ls - 1 < j.plan.lsmin then j.plan.lsmin else j.ls - 1), 0)
  else (j.ls, j.growth + 1)

/-- Whether the growth count has reached LSW, so that LS is due to rise. -/
def growthDue (j : Job) : Bool := j.plan.lsmode == 1 && decide (j.plan.lsw ≤ j.growth)

/-- LS after a rise. -/
def risen (j : Job) (ls : Int) : Int := if j.plan.lsmax < ls + 1 then j.plan.lsmax else ls + 1

/-- LS and the growth count of the next step as they stand after the seal, a rise that is due counted in. -/
def heldScale (j : Job) : Int × Nat := if growthDue j then (risen j j.ls, 0) else (j.ls, j.growth)

/-- LS and the growth count of the next step, a rise counted in. -/
def nextScale (j : Job) (vetoed : Bool) : Int × Nat :=
  let r := sealScale j vetoed
  heldScale { j with ls := r.1, growth := r.2 }

/-- LS rises by one where the growth count has reached LSW. -/
def lossGrowth (s : State) (p : Part) : State :=
  match getJob s p with
  | none => s
  | some j => if growthDue j then modJob s p fun j => { j with ls := risen j j.ls, growth := 0 } else s

/-- The grid exponent of the next step from the combined entry of a grid tensor (R282). -/
def nextGrid (g : Int) (hr : Nat) (e : BitVec 16) : Int :=
  let em := sgn 8 e.toNat
  let sat := bit 8 e.toNat
  if em = -128 ∧ !sat then g
  else
    let v := em + 1 + hr
    let v := if sat ∧ v < g + 1 then g + 1 else v
    if v < -127 then -127 else if 127 < v then 127 else v

/-- The grid exponents of the next step, from the module's own fabric's token. -/
def nextGrids (j : Job) : Tab Int :=
  let es := match j.token with | some t => t.grids | none => []
  (List.range (grEntries j.plan).length).foldl (fun t k =>
    tabSet t k (nextGrid (gridExp j k) (nth {} (grEntries j.plan) k).hr (nth 0x0080#16 es k))) j.grid

/-! ### The seal wave (R260, R265, R352) -/

/-- The bytes of a seal-wave contribution. -/
def waveBytes (step : Nat) (hold : Bool) : List Byte := 0 :: (bytesOf 8 step ++ [BitVec.ofNat 8 (b2n hold)])

/-- The bytes of a seal result, with the start time of its beacon. -/
def beaconBytes (step : Nat) (hold : Bool) (start : Option Nat) : List Byte :=
  1 :: (bytesOf 8 step ++ [BitVec.ofNat 8 (b2n hold)]
    ++ match start with | none => [] | some t => bytesOf 8 t)

/-- Passes the seal wave on once the module's part of the tree is complete; the root forms the result, and without HOLD
its start time (R351, R352). -/
def waveUp (s : State) (p : Part) : State :=
  match getJob s p with
  | none => s
  | some j =>
    if !j.sealTree.full j.plan then s
    else if j.plan.lidx = 0 then
      let h := j.sealTree.hold
      let t : Option Nat := if h || j.plan.nmod == 1 then none else some (s.tim.now + s.tim.lead)
      let s := modJob s p fun j => { j with waveIn := true, waveHold := h, beacon := t }
      toKids s p j.plan 0x21 (beaconBytes (if h then j.step else j.step + 1) h t)
    else sendTo s p (parentOf j.plan) 0x21 (waveBytes j.step j.sealTree.hold)

/-- Whether the work of the update segments has ended on the module: every word is done or skipped, and what the words
started has ended. -/
def updatesDone (s : State) (p : Part) (j : Job) : Bool :=
  j.abandoned
  || (arrivedAll j (cueOf j.plan 6) && unitsIdle s p && planDmaDone s p
      && (j.vetoed || (j.runs.all (fun r => r.todo.isEmpty && (r.done.contains 3 || !r.started.contains 4)) && j.xruns.all fun r => xchDone j r.entry)))

/-- Whether every table digest of the partition is valid: no build runs (R187). -/
def digestsValid (s : State) (p : Part) : Bool := (tblsOf s p).all (·.digOk)

/-- The 32 bytes of a twin message (R302). -/
def twinBytes (step dig : Nat) (grown bad : Bool) : List Byte :=
  bytesOf 8 step ++ bytesOf 16 dig ++ [BitVec.ofNat 8 (b2n grown + 2 * b2n bad)] ++ bytesOf 7 0

/-- The module sends its twin message of a seal (R302). -/
def sendTwin (s : State) (p : Part) (n dig : Nat) : State :=
  match getJob s p with
  | none => s
  | some j =>
    let grown : Bool := decide (j.twin.histAt < s.hist.length)
    let bad := !digestsValid s p
    modTwin (toTwin s p 0x23 (twinBytes n dig grown bad)) p fun w =>
      { w with own := some (n, dig, grown, bad), ownAt := s.tim.now }

/-- Compares the twin messages of a seal: equal digests make it the agreed seal; digests that differ set HOLD; a build in
progress on either twin leaves the agreed seal where it was (R302). -/
def twinCompare (s : State) (p : Part) : State :=
  match getJob s p with
  | none => s
  | some j =>
    match j.twin.own, j.twin.msg with
    | some a, some b =>
      if a.1 ≠ b.1 then s
      else if a.2.2.2 || b.2.2.2 then modTwin s p fun w => { w with twinClean := !b.2.2.1 }
      else if a.2.1 = b.2.1 then
        modTwin s p fun w => { w with agreed := some a.1, histAt := s.hist.length, twinClean := true }
      else
        let s := raise s p evTwinMismatch [a.1]
        modJob s p fun j => { j with
          hold := true,
          twin := { j.twin with mismatch := true, round := 0, items := 0, diff := [], twinClean := !b.2.2.1 } }
    | _, _ => s

/-- Whether a re-shard waits for a seal: it is item 6 of the work there (R262, R324). -/
def reshardDue (j : Job) (n : Nat) : Bool := match j.reshard with | some r => r.target == n | none => false

/-- Contributes to the seal wave. -/
def waveOwn (s : State) (p : Part) : State :=
  match getJob s p with
  | none => s
  | some j =>
    let h : Bool := j.hold || !j.cmds.pause.isEmpty || reshardDue j j.step
    waveUp (modJob s p fun j => { j with
      sealSent := true, sealTree := { j.sealTree with own := true, hold := j.sealTree.hold || h } }) p

/-- A module's seal-wave contribution: the digests of a step that is not vetoed, the twin message of a pair, and the
contribution once the twin's has come (R260, R295, R302). -/
def sealContribute (s : State) (p : Part) : State :=
  match getJob s p with
  | none => s
  | some j =>
    if j.phase ≠ .running ∨ j.sealSent ∨ j.token.isNone ∨ !updatesDone s p j then s
    else
      let s := modJob s p fun j => { j with vetoed := stepVetoed j }
      let s := if stepVetoed j then s else denseDigests s p
      if !j.twin.paired then waveOwn s p
      else
        let s := match j.twin.own, getJob s p with
          | none, some j =>
            let nx := nextScale j j.vetoed
            sendTwin s p j.step (moduleDigest s p j j.step nx.1 nx.2)
          | _, _ => s
        match j.twin.msg with
        | some _ => waveOwn (twinCompare s p) p
        | none => s

/-- A child's contribution to the seal wave arrives. -/
def sealMsg (s : State) (p : Part) (src step : Nat) (hold : Bool) : State :=
  match getJob s p with
  | none => s
  | some j =>
    if step = nextStep s p ∧ j.sealTree.fresh j.plan src then
      waveUp (modJob s p fun j => { j with sealTree :=
        { j.sealTree with kids := src :: j.sealTree.kids, hold := j.sealTree.hold || hold } }) p
    else s

/-- The seal result, or the beacon of a first step or of a resume, comes down the tree and is passed on. A beacon that
comes after its start time is a late one (R352). -/
def beaconMsg (s : State) (p : Part) (step : Nat) (hold : Bool) (start : Option Nat) : State :=
  match getJob s p with
  | none => s
  | some j =>
    let wave : Bool := j.phase == .running && j.sealSent && !j.waveIn
      && (if start.isSome then step == j.step + 1 else step == j.step)
    let first : Bool := (j.phase == .ready || j.phase == .held) && start.isSome && step == nextStep s p && j.beacon.isNone
    if j.plan.lidx = 0 ∨ !(wave || first) then s
    else
      let late : Bool := match start with | some t => decide (t < s.tim.now) | none => false
      let s := if late then count s blkSeq 3 7 1 (atPart p) else s
      let s := modJob s p fun j => { j with
        waveIn := wave, waveHold := if wave then hold else j.waveHold, beacon := start,
        lateBeacons := j.lateBeacons + b2n late }
      toKids s p j.plan 0x21 (beaconBytes step hold start)

/-! ### The seal (R261, R262) -/

/-- The 64 bytes of a seal record. -/
def sealBytes (n : Nat) (veto : W32) (hold vetoed : Bool) (ls : Int) (time late : Nat) : List Byte :=
  bytesOf 8 n ++ bytesOf 4 veto.toNat ++ bytesOf 4 (b2n hold + 2 * b2n vetoed) ++ bytesOf 1 (pat 8 ls) ++ bytesOf 7 0
  ++ bytesOf 8 time ++ bytesOf 8 late ++ bytesOf 24 0

/-- Completes the commands that wait for the job to hold (R376, R396). -/
def holdCmds (s : State) (p : Part) (n : Nat) : State :=
  match getJob s p with
  | none => s
  | some j =>
    let s := modJob s p fun j => { j with cmds := { j.cmds with pause := [], abort := [] } }
    let s := j.cmds.pause.foldl (fun s c => complete s c stDone n 0 0) s
    j.cmds.abort.foldl (fun s c => complete s c stDone 0 0 0) s

/-! ### The history poll (R304) -/

/-- Whether the module's own error history is clean (R304). -/
def ownClean (s : State) (j : Job) : Bool := decide (s.hist.length ≤ j.twin.histAt)

/-- The result of the fabric's poll has come: it is kept, passed down the tree, and told to the twin. -/
def pollDown (s : State) (p : Part) (grown : Bool) : State :=
  match getJob s p with
  | none => s
  | some j =>
    let s := toKids (modTwin s p fun w => { w with fabOwn := some (!grown) }) p j.plan 0x24 [4, 1, BitVec.ofNat 8 (b2n grown)]
    toTwin s p 0x24 [4, 2, BitVec.ofNat 8 (b2n grown)]

/-- Passes the poll on once the module's part of the tree is complete; the root has the result. -/
def pollUp (s : State) (p : Part) : State :=
  match getJob s p with
  | none => s
  | some j =>
    if !j.histTree.full j.plan then s
    else if j.plan.lidx = 0 then pollDown s p j.histTree.hold
    else sendTo s p (parentOf j.plan) 0x24 [4, 0, BitVec.ofNat 8 (b2n j.histTree.hold)]

/-- The module reports whether its history has grown. Every module of a paired job does so when it holds. -/
def pollOwn (s : State) (p : Part) : State :=
  match getJob s p with
  | none => s
  | some j =>
    if !j.twin.paired then s
    else
      let g := j.histTree.hold || !ownClean s j
      pollUp (modJob s p fun j => { j with histTree := { j.histTree with own := true, hold := g } }) p

/-- A report of a child, the result from the parent, or the result of the other fabric from the twin. -/
def pollMsg (s : State) (p : Part) (src : Option Nat) (grown : Bool) : State :=
  match getJob s p with
  | none => s
  | some j =>
    match src with
    | none =>
      if j.twin.paired && j.twin.fabTwin.isNone then modTwin s p fun w => { w with fabTwin := some (!grown) } else s
    | some l =>
      if j.plan.lidx ≠ 0 ∧ l = parentOf j.plan then
        if j.twin.paired && j.twin.fabOwn.isNone then pollDown s p grown else s
      else if j.histTree.fresh j.plan l then
        pollUp (modJob s p fun j => { j with histTree :=
          { j.histTree with kids := l :: j.histTree.kids, hold := j.histTree.hold || grown } }) p
      else s

/-- What a step leaves behind once it is sealed. -/
def Job.afterStep (j : Job) (n : Nat) (hold vetoed : Bool) : Job :=
  { j with
    phase := .sealed, sealWork := true, lastSeal := some n, waveIn := false, waveHold := false, vetoed := vetoed,
    sealedCount := j.sealedCount + b2n (!vetoed), vetoedCount := j.vetoedCount + b2n vetoed,
    accepted := j.accepted.filter (fun t => decide (n < t)), sorted := j.sorted.filter (fun x => decide (n < x.step)),
    runs := [], xruns := [], dense := [], chunkOrder := [], shards := j.shards.filter (·.suspect),
    tokTree := {}, sealTree := {}, tokAcc := none, tokRes := none, hold := hold, abandoned := false,
    withdrawn := j.withdrawn && !hold && !j.abandoned && !j.completing,
    completing := false, expertIn := [], expertLay := [], seqIn := [], parts := [], seqOut := [], skipped := [],
    beacon := if hold then none else j.beacon,
    twin := { j.twin with token := none, msg := none, own := none } }

/-- Items 7 to 9 of the work at seal N: exports, decay sweeps, and the hold where the wave carried HOLD; the digests whose
build has ended become valid (R187). -/
def sealEnd (s : State) (p : Part) : State :=
  match getJob s p with
  | none => s
  | some j =>
    if !j.sealWork then s
    else
      let n := j.lastSeal.getD 0
      let s := sweepsAt (exportsAt s p n) p n
      let s := ((tblsOf s p).map (·.desc.tid)).foldl (fun s t => buildSeal s p t) s
      let s := modJob s p fun j => { j with sealWork := false, hold := false, phase := if j.hold then .held else .sealed }
      if j.hold then pollOwn (holdCmds s p n) p else s

/-- Seal N is reached: items 1 to 5 of the work of R262 in their order, the seal record, the event; where no re-shard is item
6, the rest. -/
def sealReach (s : State) (p : Part) : State :=
  match getJob s p with
  | none => s
  | some j =>
    if j.phase ≠ .running ∨ !j.waveIn then s
    else
      let n := j.step
      let v := stepVetoed j
      let sc := sealScale j v
      let nx := nextScale j v
      let s := captureSeal (latchCounters s p) p n
      let s := keepRfProducts (keepProducts s p v) p v
      let s := releasePins s p
      let s := modJob s p fun j => { j with ls := sc.1, growth := sc.2, grid := nextGrids j }
      let s := swapsAt (applyOps s p n) p n
      let late := nowCyc s - j.stepStart - cuePlan (nth 0 j.plan.cues (cueOf j.plan 6))
      let s := wrNow s (tokBase + 0x4800 + n % 16 * 64) (sealBytes n (vetoWord j) j.waveHold v nx.1 s.tim.now late)
      let s := modJob s p fun j => j.afterStep n j.waveHold v
      let s := rejoinLinks s
      let s := if v then raiseF s evStepVetoed stVetoed 0xFFFF (some p) [n] else raise s p evStepSeal [n]
      if reshardDue j n && j.waveHold then s else sealEnd s p

/-! ### Step start (R251, R263, R377) -/

/-- A fresh stream whose anchor is the step-start cycle. -/
def freshStream (now : Nat) : Stream := { anchor := now }

/-- Starts a job's streams for one run of a section. -/
def Job.startStreams (j : Job) (now : Nat) : Job :=
  { j with seqS := freshStream now, arrS := freshStream now, vecS := freshStream now, arrived := [], fired := [],
           stepStart := now }

/-- The section that the next step runs, and the start-up and recovery steps left after it. -/
def nextKind (j : Job) : StepKind × Nat × Nat :=
  if 0 < j.recLeft then (.recov, 0, j.recLeft - 1)
  else if 0 < j.startLeft then (.start, j.startLeft - 1, 0)
  else (.steady, 0, 0)

/-- Whether the next step may start: after its beacon's start time, or at once in a job of one module. -/
def startReady (s : State) (j : Job) : Bool :=
  let go : Bool := if j.plan.nmod = 1 then true else match j.beacon with
    | some t => decide (t ≤ s.tim.now)
    | none => false
  !growthDue j && !j.sealWork && go && (match j.phase with
    | .ready => j.readyOwn
    | .sealed => true
    | .held => j.readyOwn && j.cmds.resume.isSome
    | _ => false)

/-- A step starts. -/
def stepStart (s : State) (p : Part) : State :=
  match getJob s p with
  | none => s
  | some j =>
    if !startReady s j then s
    else
      let n := nextStep s p
      let k := nextKind j
      let s := startSampling s p
      let s := modJob s p fun j => { j.startStreams (nowCyc s) with
        phase := .running, kind := k.1, step := n, startLeft := k.2.1, recLeft := k.2.2, contributed := false,
        token := none, gate := false, vetoed := false, sealSent := false, rep := j.repNext, repNext := {},
        beacon := none, readyOwn := false, resuming := false, consumed := [],
        startTree := {}, resTree := {}, histTree := {}, cmds := { j.cmds with resume := none },
        twin := { j.twin with fabOwn := none, fabTwin := none, begun := false, early := [] } }
      match j.cmds.resume with
      | some c => complete s c stDone n 0 0
      | none => s

/-! ### Readiness (R263, R377) -/

/-- Passes readiness on once the module's part of the tree is ready; the root sends the beacon of step `n`. -/
def readyUp (s : State) (p : Part) (resume : Bool) : State :=
  match getJob s p with
  | none => s
  | some j =>
    let t := if resume then j.resTree else j.startTree
    if !t.full j.plan ∨ j.plan.nmod = 1 then s
    else if j.plan.lidx = 0 then
      let at' := s.tim.now + s.tim.lead
      toKids (modJob s p fun j => { j with beacon := some at' }) p j.plan 0x21 (beaconBytes (nextStep s p) false (some at'))
    else sendTo s p (parentOf j.plan) 0x24 [BitVec.ofNat 8 (b2n resume)]

/-- The module reports its own readiness. -/
def readyOwn (s : State) (p : Part) (resume : Bool) : State :=
  readyUp (modJob s p fun j =>
    if resume then { j with readyOwn := true, resTree := { j.resTree with own := true } }
    else { j with readyOwn := true, startTree := { j.startTree with own := true } }) p resume

/-- Start readiness that comes before the plan load has completed is kept (R337). -/
def keepReady (s : State) (p : Part) (src : Nat) (resume : Bool) : State :=
  if resume then s else { s with early := s.early ++ [(p.toNat, src)] }

/-- A child's readiness arrives. -/
def readyMsg (s : State) (p : Part) (src : Nat) (resume : Bool) : State :=
  match getJob s p with
  | none => keepReady s p src resume
  | some j =>
    if j.loading then keepReady s p src resume else
    let t := if resume then j.resTree else j.startTree
    if t.fresh j.plan src then
      let t := { t with kids := src :: t.kids }
      readyUp (modJob s p fun j => if resume then { j with resTree := t } else { j with startTree := t }) p resume
    else s

/-- The start readiness kept for a partition is combined once its plan load has completed. -/
def takeReady (s : State) (p : Part) : State :=
  (s.early.filter fun x => x.1 == p.toNat).foldl (fun s x => readyMsg s p x.2 false)
    { s with early := s.early.filter fun x => x.1 != p.toNat }

/-- Reports resume readiness once the self-test has passed, any re-shard has ended, any pairing has been made and every
suspect copy has been refreshed (R263, R294, R377). -/
def resumeReady (s : State) (p : Part) : State :=
  match getJob s p with
  | none => s
  | some j =>
    if j.phase == .held && j.testOk && j.cmds.resume.isSome && j.reshard.isNone && j.twin.cmd.isNone && !refreshing j
        && !j.readyOwn then
      readyOwn s p true
    else s

/-! ### Abandonment (R264, R398) -/

/-- A cause to abandon the step. -/
def abandonCause (s : State) (p : Part) : State := modJob s p fun j => { j with withdrawn := true }

/-- A unit reports a fault that stops its stream. -/
def unitFault (s : State) (p : Part) (src : Nat) : State :=
  match getJob s p with
  | none => s
  | some j =>
    if j.phase = .running then
      abandonCause (if 8 ≤ src ∧ src ≤ 14 then report s p (1#32 <<< src) else s) p
    else s

/-- The streams of a job stop where they are. -/
def stopStreams (s : State) (p : Part) : State :=
  modJob s p fun j => units.foldl (fun j u => j.modStream u fun st => { st with ended := true, held := [] }) j

/-- The step sequencer abandons the step: before its contribution it stops its streams, discards the deferred queue and
withdraws; after it, it completes the step. Both set HOLD. -/
def stepAbandon (s : State) (p : Part) : State :=
  match getJob s p with
  | none => s
  | some j =>
    if j.phase ≠ .running ∨ !j.withdrawn ∨ j.abandoned ∨ j.completing ∨ j.sealSent then s
    else
      let s := raise s p evStepAbandon [j.step]
      if j.contributed then modJob s p fun j => { j with completing := true, hold := true }
      else
        let s := dropDeferredOf (stopStreams s p) p
        let s := modJob s p fun j => { j with abandoned := true, hold := true }
        contribute (report s p vWithdraw) p

/-! ### The twin's messages (R301 to R303) -/

/-- The twin's token result arrives. -/
def twinToken (s : State) (p : Part) (t : Token) : State :=
  match getJob s p with
  | none => s
  | some j => if j.twin.paired && t.step == nextStep s p then modTwin s p fun w => { w with token := some t } else s

/-- The pairing takes effect: both twins hold at the same seal with equal, valid digests (R300). -/
def tryPair (s : State) (p : Part) : State :=
  match getJob s p with
  | none => s
  | some j =>
    match j.twin.cmd, j.twin.own, j.twin.msg with
    | some c, some a, some b =>
      if a.1 = b.1 ∧ a.2.1 = b.2.1 ∧ !a.2.2.2 ∧ !b.2.2.2 then
        let s := modTwin s p fun w => { w with cmd := none, paired := true, agreed := some a.1, own := none, msg := none,
                                               histAt := s.hist.length, twinClean := true, mismatch := false,
                                               asked := [] }
        resumeReady (complete s c stDone a.1 0 0) p
      else s
    | _, _, _ => s

/-- A twin message arrives: of the running step, or of the seal that a pairing waits at. -/
def twinMsg (s : State) (p : Part) (step dig : Nat) (grown bad : Bool) : State :=
  match getJob s p with
  | none => s
  | some j =>
    if j.twin.paired && j.phase == .running && step == j.step && j.twin.msg.isNone then
      let s := modTwin s p fun w => { w with msg := some (step, dig, grown, bad) }
      if j.twin.own.isSome && !j.sealSent then waveOwn (twinCompare s p) p else s
    else if j.twin.cmd.isSome && j.phase == .held then
      tryPair (modTwin s p fun w => { w with msg := some (step, dig, grown, bad) }) p
    else s

/-- The twin's token result or twin message is missing 50 ms after the module's own: the module goes on unpaired. -/
def twinLost (s : State) (p : Part) : State :=
  match getJob s p with
  | none => s
  | some j =>
    let due : Bool := decide (j.twin.ownAt + 50000000 ≤ s.tim.now)
    let noTok := j.token.isSome && j.twin.token.isNone
    let noMsg := j.twin.own.isSome && j.twin.msg.isNone
    if j.twin.paired && j.phase == .running && due && (noTok || noMsg) then
      let s := modTwin (raise s p evTwinLost [j.step]) p fun w => { w with paired := false }
      if noMsg && !j.sealSent then waveOwn s p else s
    else s

end Sys2Proof.Machine
end

