-- ==== Sys2Proof/Machine/PlanLoad.lean ====
section
/-! DEFINITION. Plan loads, the self-test, replacements, PAUSE, RESUME and PAIR (R80, R103, R136, R187, R239 to R244,
R264 to R266, R300, R376, R377, R464, R513). -/

namespace Sys2Proof.Machine

/-! ### Loading (R241) -/

/-- The words of the step-sequencer streams of a plan. -/
def seqWords (pl : Plan) : List SWord :=
  let of' (st : Option Streams) : List (BitVec 128) := match st with | some v => v.seq | none => []
  (of' pl.selftest ++ of' pl.start ++ pl.steady.seq ++ pl.recov.seq).filterMap (streamWord .seq)

/-- Whether a plan names a DMA channel. -/
def planNames (pl : Plan) (c : Nat) : Bool :=
  (seqWords pl).any fun x => match x with | .dmaq _ k => k.toNat == c | _ => false

/-- Marks the channels that a loaded plan of the partition names (R399). -/
def markChans (s : State) (p : Part) (pl : Plan) : State :=
  { s with chans := s.chans.map fun kv => if kv.2.part = p then (kv.1, { kv.2 with plan := planNames pl kv.1 }) else kv }

/-- The mask of the domains that the first words of a section's step-sequencer stream wake. -/
def firstWakes (st : Streams) : W64 :=
  ((st.seq.filterMap (streamWord .seq)).takeWhile fun x => match x with | .pwake _ => true | _ => false).foldl
    (fun m x => match x with | .pwake v => m ||| v | _ => m) 0

/-- The section whose first words a plan load heeds: SELFTEST, START, or STEADY. -/
def firstSection (pl : Plan) : Streams := (pl.selftest.or pl.start).getD pl.steady

/-- Writes the constant tensors to the places that their tensor entries name, the sidecar maintained (R237). -/
def loadConsts (s : State) (p : Part) (pl : Plan) : State :=
  pl.consts.foldl (fun s c =>
    let e := tens s p c.1
    let n := e.rows * e.cols * fmtWidth e.fmt
    writeSpans s p false blkSeq (byteSpans e 0 n) (padTo 0 n c.2)) s

/-- The device's private copies of the shard maps (R136). -/
def readMaps (s : State) (p : Part) : State :=
  ((tblsOf s p).map (·.desc.tid)).foldl (fun s t => modTbl s p t fun v => { v with map := readMap s v.desc }) s

/-- Step 3 of R241 but the self-test: the array in whole-array mode with COLR = 0, no mark valid, the deferred queue
empty; the polynomial table, the constants, the cue points' values and the first domains. -/
def setPlan (s : State) (p : Part) (pl : Plan) : State :=
  let s := dropDeferred { s with arr := { s.arr with mode := .whole, colr := false, tvalid := [] } }
  let s := { s with vec := { s.vec with poly := s.vec.poly.write 0 pl.poly } }
  let s := clearCues (loadConsts s p pl) p
  request (markChans s p pl) p (firstWakes (firstSection pl)) 0 .on

/-- Extends a measurement slot with data (R464). -/
def extend (s : State) (k : Nat) (data : List Byte) : State :=
  { s with sec := { s.sec with
      meas := modNth s.sec.meas k fun m => fit 48 (Config.sha384 (m ++ fit 48 (Config.sha384 data))) } }

/-- The measurement slot of a partition starts again with an accepted plan image. -/
def measurePlan (s : State) (p : Part) (addr len : Nat) : State :=
  let k := 4 + p.toNat
  extend { s with sec := { s.sec with meas := setNth s.sec.meas k (List.replicate 48 0) } } k (s.mem.read addr len)

/-- The job of a first plan load. -/
def freshJob (pl : Plan) (c : Cmd) : Job :=
  { plan := pl, owner := c.fn, loadCmd := some c, ls := pl.ls0, epoch := pl.epoch, startLeft := pl.nstart }

/-! ### The self-test (R244) -/

/-- The digest of the tensors that a self-test's dumps have written. -/
def selfDigest (s : State) (p : Part) (j : Job) : Nat :=
  j.dumped.foldl (fun d i =>
    let e := tens s p i
    let b := spanBytes s (elemSpans e 0 (e.rows * e.cols))
    d ^^^ hashChunks (galeKey 0 0x6FFFFFFF) (ceilDiv b.length 16) b 0) 0

/-- A table's digest build starts with the plan load that first gives the module its rows (R187). -/
def startBuilds (s : State) (p : Part) : State :=
  ((tblsOf s p).filter fun t => !t.digOk && t.build.isNone).foldl (fun s t => startBuild s p t.desc.tid) s

/-- A partition's job and plan are gone. -/
def dropJob (s : State) (p : Part) : State :=
  let s := dropSealFrost s p
  let s := { s with jobs := tabErase s.jobs p.toNat,
                    chans := s.chans.map fun kv => if kv.2.part = p then (kv.1, { kv.2 with plan := false }) else kv }
  updLock (dropRequests s p) p

/-- Whether every table digest of the partition is valid or its build has walked every row (R187, R300). -/
def buildsDone (s : State) (p : Part) : Bool :=
  (tblsOf s p).all fun v => v.digOk || (match v.build with | some b => b.todo.all List.isEmpty | none => false)

/-- The twin message of a pairing, once the job holds and its resume has come (R300). -/
def pairSend (s : State) (p : Part) : State :=
  match getJob s p with
  | none => s
  | some j =>
    if j.twin.cmd.isSome && j.twin.own.isNone && j.cmds.resume.isSome && buildsDone s p then
      let n := j.lastSeal.getD 0
      let s := ((tblsOf s p).map (·.desc.tid)).foldl (fun s t => buildSeal s p t) s
      tryPair (sendTwin s p n (moduleDigest s p j n (heldScale j).1 (heldScale j).2)) p
    else s

/-! ### The replacement takes effect (R242) -/

/-- The job state that a dense tensor key keeps across a change of plans: its residual selectors and the parameter block
of its RF entry pass to the entries that the key names in the new plan. -/
def keepKeys (j : Job) (pl : Plan) : List Nat × Tab Params :=
  let old (k : DenseKey) : Option DenseKey := j.plan.keys.find? fun o => o.key == k.key
  (pl.keys.filterMap (fun k => match old k with
      | some o => if j.sels.contains o.rq then some k.rq else none
      | none => none),
   pl.keys.foldl (fun t k => tabSet t k.rf (match old k with | some o => tabGet {} j.rfPar o.rf | none => {})) [])

/-- The suspect copies that a change of plans keeps: each passes to the AG entry that its key names in the new plan. -/
def keepShards (j : Job) (pl : Plan) : List ShardIn :=
  j.shards.filterMap fun h =>
    match j.plan.keys.find? (fun o => o.ag == h.entry) with
    | some o => (pl.keys.find? fun k => k.key == o.key).map fun k => { h with entry := k.ag }
    | none => none

/-- Makes a plan the job's plan and writes the parameter blocks of its RF entries to the table directory. -/
def adoptPlan (s : State) (p : Part) (pl : Plan) : State :=
  match getJob s p with
  | none => s
  | some j =>
    let k := keepKeys j pl
    let s := modJob s p fun j => { j with
      plan := pl, next := none, sels := k.1, rfPar := k.2, denseDig := [], shards := keepShards j pl }
    let s := k.2.foldl (fun s q => keepRf s p q.1 q.2) s
    denseDigests (setPlan s p pl) p

/-! ### The end of a self-test -/

/-- A held job's plan stays in force where a replacement's self-test fails: its polynomial table, its constants and its
channels (R242, R244). -/
def keepPlan (s : State) (p : Part) (pl : Plan) : State :=
  let s := { s with vec := { s.vec with poly := s.vec.poly.write 0 pl.poly } }
  markChans (loadConsts s p pl) p pl

/-- The streams of the SELFTEST section start. -/
def runTest (s : State) (p : Part) : State :=
  modJob s p fun j => { j.startStreams (nowCyc s) with phase := .testing, kind := .selftest, dumped := [] }

/-- A replacement has been accepted while a RESUME waits for its resume readiness: the job still holds, so the replacement takes
effect at that resume, whose self-test runs on it (R242, R244). -/
def resumeOnto (s : State) (p : Part) (pl : Plan) : State :=
  match getJob s p with
  | none => s
  | some j =>
    if j.cmds.resume.isNone || j.readyOwn then s
    else
      let s := modJob (adoptPlan s p pl) p fun j => { j with recLeft := pl.nrec, resuming := true, testOk := pl.selftest.isNone }
      if pl.selftest.isSome then runTest s p else resumeReady (pairSend s p) p

/-- A self-test, or a load or resume without one, has ended. -/
def testDone (s : State) (p : Part) (ok : Bool) : State :=
  match getJob s p with
  | none => s
  | some j =>
    let s := if ok then s else raiseF s evPlanSelftest stCksum 0xFFFF (some p) []
    let st := if ok then stDone else stCksum
    let s := modJob s p fun j => { j with rep := {}, dumped := [], loadCmd := none, kind := .steady }
    let finish (s : State) : State := match j.loadCmd with | some c => complete s c st 0 0 0 | none => s
    match j.prev with
    | some old =>
      let s := finish (modJob s p fun j => { j with
        plan := old, prev := none, phase := .held, next := if ok then some j.plan else none })
      if ok then resumeOnto s p j.plan else resumeReady (keepPlan s p old) p
    | none =>
      if j.resuming then
        let s := modJob s p fun j => { j with phase := .held, testOk := ok }
        if ok then resumeReady (pairSend s p) p
        else
          let s := modJob s p fun j => { j with resuming := false, cmds := { j.cmds with resume := none } }
          match j.cmds.resume with
          | some c => complete s c stCksum 0 0 0
          | none => s
      else if ok then takeReady (readyOwn (startBuilds (finish (modJob s p fun j => { j with phase := .ready })) p) p false) p
      else finish (dropJob s p)

/-- Runs the SELFTEST section of the job's plan, where there is one. -/
def startTest (s : State) (p : Part) : State :=
  match getJob s p with
  | none => s
  | some j =>
    match j.plan.selftest with
    | none => testDone s p true
    | some _ => runTest s p

/-- The SELFTEST section ends: its digest is compared with the expected one. -/
def selftestComplete (s : State) (p : Part) : State :=
  match getJob s p with
  | none => s
  | some j =>
    if j.phase = .testing ∧ units.all (fun u => (j.stream u).ended) then
      testDone s p (decide (selfDigest s p j = j.plan.digest))
    else s

/-! ### PLOAD (R239, R241, R242) -/

/-- The byte offset that a rejected plan reports: that of the failing part, or a free value where the broken rule has no one
part with a known place (log entry 33). -/
def rejectOffset (s : State) (off : Option Nat) : Nat × State :=
  match off with
  | some o => (o, s)
  | none => let f := takeFree s; (Config.freeNat f.1, f.2)

/-- A plan load is rejected with the byte offset of the failing word (R241). -/
def planReject (s : State) (c : Cmd) (code : Nat) (off : Option Nat) : State :=
  let o := rejectOffset s off
  complete (raiseF o.2 code stInvalid c.fn.toNat (some (partOf s c.fn)) [o.1]) c stInvalid o.1 0 0

/-- Whether a plan may replace the plan of a held job. -/
def replaces (j : Job) (pl : Plan) : Bool :=
  j.phase == .held && pl.seed == j.plan.seed && pl.level == j.plan.level
  && decide (j.lastSeal = some (pl.step0 - 1) ∧ 0 < pl.step0)

/-- The plan of an image of the right form and checksum is checked, and is the first plan of its partition or replaces that of a
held job. -/
def planAccept (s : State) (c : Cmd) (addr len : Nat) (pl : Plan) : State :=
  let p := partOf s c.fn
  let bad := planReject s c evPlanReject
  match getJob s p with
  | some j =>
    if !replaces j pl then planReject s c evProgError none
    else if planBad s p pl then bad (failOffset s p addr len pl)
    else
      let s := modJob (measurePlan s p addr len) p fun j => { j with
        plan := pl, prev := some j.plan, loadCmd := some c }
      startTest (setPlan (readMaps s p) p pl) p
  | none =>
    if planBad s p pl then bad (failOffset s p addr len pl)
    else
      let s := measurePlan s p addr len
      let s := updLock { s with jobs := tabSet s.jobs p.toNat (freshJob pl c) } p
      startTest (setPlan (readMaps (pl.keys.foldl (fun s k => keepRf s p k.rf {}) s) p) p pl) p

/-- PLOAD: the plan is read from its image; `fill` brings the parts whose byte layout is not given. -/
def planLoad (s : State) (c : Cmd) (addr len : Nat) (fill : Plan) : State :=
  let p := partOf s c.fn
  let pl := readPlan s.mem addr len fill
  let bad := planReject s c evPlanReject
  if nth 0 s.tdir p.toNat = 0 ∨ addr % 4096 ≠ 0 ∨ 2 ^ 30 < len ∨ !inTier s p 1 addr len then bad none
  else if pl.magic ≠ 0x47524E31 then bad (some 0)
  else if pl.ver ≠ 1 then bad (some 4)
  else if !pl.icrcOk then complete s c stCksum 0 0 0
  else planAccept s c addr len pl

/-! ### PAUSE, RESUME, PAIR (R266, R300, R376, R377) -/

/-- PAUSE. -/
def pauseJob (s : State) (c : Cmd) : State :=
  let p := partOf s c.fn
  match getJob s p with
  | none => rejectCmd s c evProgError stInvalid [c.ring.toNat]
  | some j =>
    if j.phase = .held then complete s c stDone (sealOrNone j.lastSeal) 0 0
    else modJob s p fun j => { j with cmds := { j.cmds with pause := j.cmds.pause ++ [c] } }

/-- After a sleep, the polynomial table and the constants come again from the plan's private copy (R103, R438). -/
def reload (s : State) (p : Part) : State :=
  match getJob s p with
  | none => s
  | some j =>
    if j.slept then
      let s := modJob s p fun j => { j with slept := false }
      loadConsts { s with vec := { s.vec with poly := s.vec.poly.write 0 j.plan.poly } } p j.plan
    else s

/-- RESUME: a replacement plan takes effect, suspect shards are asked for again, and the self-test runs. -/
def resumeJob (s : State) (c : Cmd) : State :=
  let p := partOf s c.fn
  match getJob s p with
  | none => rejectCmd s c evProgError stInvalid [c.ring.toNat]
  | some j =>
    if j.phase ≠ .held ∨ j.cmds.resume.isSome then rejectCmd s c evProgError stInvalid [c.ring.toNat]
    else
      let s := reload (match j.next with | some pl => adoptPlan s p pl | none => s) p
      let s := modJob s p fun j => { j with
        cmds := { j.cmds with resume := some c }, resuming := true, testOk := false, recLeft := j.plan.nrec,
        startLeft := 0, beacon := none }
      startTest (refreshSuspects s p) p

/-- PAIR. -/
def pairJob (s : State) (c : Cmd) (base size : Nat) : State :=
  let p := partOf s c.fn
  match getJob s p with
  | none => rejectCmd s c evProgError stInvalid [c.ring.toNat]
  | some j =>
    if j.phase ≠ .held ∨ j.twin.cmd.isSome ∨ size % 4096 ≠ 0 ∨ base % 64 ≠ 0 ∨ !inTier s p 1 base size then
      rejectCmd s c evProgError stInvalid [c.ring.toNat]
    else
      modTwin s p fun w => { w with cmd := some c, logBase := base, logSize := size, logPtr := 0, own := none, msg := none,
                                    paired := false }

end Sys2Proof.Machine
end

