-- ==== Sys2Proof/Machine/Twin.lean ====
section
/-! DEFINITION. The repair of a redundant pair: history polls, bisection, repair data, the repair log, rounds, and
failed records (R305 to R309). -/

namespace Sys2Proof

/-- The item that a repair copy is of: (kind, table or entry, role, row or block). -/
def RepairItem.item (m : RepairItem) : Nat × Nat × Nat × Nat := (if m.isRow then 0 else 1, m.tid, m.role, m.index)

end Sys2Proof

namespace Sys2Proof.Machine

/-! ### Hashes (R305) -/

/-- The number of a list's kind in its message. -/
def bisCode (k : BisKind) : Nat :=
  match k with
  | .tables => 0
  | .ranges => 1
  | .subs => 2
  | .rows => 3
  | .areas => 4
  | .blocks => 5

/-- The bytes of a bisection list. -/
def bisBytes (k : BisKind) (l : List BisEnt) : List Byte :=
  BitVec.ofNat 8 (bisCode k) :: l.flatMap fun x =>
    bytesOf 4 x.tid ++ bytesOf 4 x.role ++ bytesOf 8 x.s ++ bytesOf 8 x.e ++ bytesOf 16 x.hash

/-- Sends a list to the twin. -/
def sendList (s : State) (p : Part) (k : BisKind) (l : List BisEnt) : State :=
  if l.isEmpty then s else toTwin s p 0x25 (bisBytes k l)

/-- The rows of `[a, b)` that the module owns. -/
def ownRows (s : State) (p : Part) (t : Table) (a b : Nat) : List Nat :=
  ((List.range (b - a)).map (a + ·)).filter fun r =>
    decide (r < t.desc.rows) && ownerOf t.map t.desc r == lidxOf s p

/-- The bytes of a row's record where it stands. -/
def rowBytes (s : State) (p : Part) (t : Table) (r : Nat) : List Byte :=
  s.mem.read (recAddr s t (lidxOf s p) r) t.desc.size

/-- The hash of a row's record. -/
def rowHash (s : State) (p : Part) (t : Table) (r : Nat) : Nat := recHash p t.desc.tid (rowBytes s p t r)

/-- The digest of the owned rows of `[a, b)`. -/
def rowsHash (s : State) (p : Part) (t : Table) (a b : Nat) : Nat :=
  (ownRows s p t a b).foldl (fun d r => d ^^^ rowHash s p t r) 0

/-- The ranges of a dense area by entry and role. -/
def denseArea (s : State) (p : Part) (entry role : Nat) : List (Nat × Nat) :=
  match getJob s p with
  | none => []
  | some j => match (denseAreas s p j).find? (fun a => a.1 == entry && a.2.1 == role) with
    | some a => a.2.2
    | none => []

/-- The ranges of the 4 KiB blocks `[a, b)` of a dense area. -/
def blockSpans (s : State) (p : Part) (entry role a b : Nat) : List (Nat × Nat) :=
  cutSpans (denseArea s p entry role) (4096 * a) (4096 * (b - a))

/-- A 4 KiB block of a dense area. -/
def denseBlock (s : State) (p : Part) (entry role b : Nat) : List Byte := spanBytes s (blockSpans s p entry role b (b + 1))

/-- The hash of one block of a dense area (R295). -/
def blockHash (s : State) (p : Part) (entry role b : Nat) : Nat :=
  hashChunks denseKey 256 (padTo 0 4096 (denseBlock s p entry role b)) (entry * 2 ^ 72 + role * 2 ^ 64 + b)

/-- The XOR of the hashes of the blocks `[a, b)`. -/
def blocksHash (s : State) (p : Part) (entry role a b : Nat) : Nat :=
  ((List.range (b - a)).map (a + ·)).foldl (fun d k => d ^^^ blockHash s p entry role k) 0

/-- The module's own hash of what a line of a list stands for. -/
def bisHash (s : State) (p : Part) (k : BisKind) (x : BisEnt) : Nat :=
  match k with
  | .areas => match getJob s p with | some j => tabGet 0 j.denseDig (5 * x.tid + x.role) | none => 0
  | .blocks => blocksHash s p x.tid x.role x.s x.e
  | _ => match getTbl s p x.tid with
    | none => 0
    | some t => match k with
      | .tables => t.set
      | .ranges => tabGet 0 t.ranges x.s
      | .subs => rowsHash s p t x.s x.e
      | _ => rowHash s p t x.s

/-- The reads that the module's own hash of a line takes: records by their row engines, blocks by the exchange engines, which
check them (R238). -/
def readLine (s : State) (p : Part) (k : BisKind) (x : BisEnt) : State :=
  match k with
  | .tables | .ranges | .areas => s
  | .blocks => readSpans s p false (blkXch 0) (blockSpans s p x.tid x.role x.s x.e)
  | _ => match getTbl s p x.tid with
    | none => s
    | some t => (ownRows s p t x.s x.e).foldl (fun s r =>
        chargeRead s p (recAddr s t (lidxOf s p) r) t.desc.size (blkRow (t.desc.eng r))) s

/-- A line with the module's own hash. -/
def bisEnt (s : State) (p : Part) (k : BisKind) (x : BisEnt) : BisEnt := { x with hash := bisHash s p k x }

/-- The lower bound of part `q` of 16 of `[a, b)`. -/
def subLow (a b q : Nat) : Nat := a + ceilDiv (q * (b - a)) 16

/-- The 16 parts of a range, row range or block range. -/
def parts16 (x : BisEnt) (a b : Nat) : List BisEnt :=
  ((List.range 16).map fun q => { x with s := subLow a b q, e := subLow a b (q + 1) }).filter fun y => decide (y.s < y.e)

/-- The next, finer lines for a line that differs: their kind and what they stand for; none for a single row or
block. -/
def finer (s : State) (p : Part) (k : BisKind) (x : BisEnt) : Option (BisKind × List BisEnt) :=
  match k with
  | .tables => some (.ranges, (List.range 4096).map fun i => { x with s := i, e := i + 1 })
  | .ranges =>
    let n := match getTbl s p x.tid with | some t => t.desc.rows | none => 0
    some (.subs, parts16 x (ceilDiv (x.s * n) 4096) (ceilDiv ((x.s + 1) * n) 4096))
  | .subs =>
    if 16 < x.e - x.s then some (.subs, parts16 x x.s x.e)
    else match getTbl s p x.tid with
      | some t => some (.rows, (ownRows s p t x.s x.e).map fun r => { x with s := r, e := r + 1 })
      | none => none
  | .rows => none
  | .areas => some (.blocks, parts16 x 0 (ceilDiv (spanLen (denseArea s p x.tid x.role)) 4096))
  | .blocks => if x.e - x.s ≤ 1 then none else some (.blocks, parts16 x x.s x.e)

/-- The item that a single row or block is: (kind, table or entry, role, row or block). -/
def itemOf (k : BisKind) (x : BisEnt) : Nat × Nat × Nat × Nat :=
  match k with
  | .rows => (0, x.tid, 0, x.s)
  | _ => (1, x.tid, x.role, x.s)

/-- The module's set digests and dense digests as lists. -/
def topLists (s : State) (p : Part) (j : Job) : List BisEnt × List BisEnt :=
  ((updatedTids s p j.plan).map fun t => bisEnt s p .tables { tid := t },
   (denseAreas s p j).map fun a => bisEnt s p .areas { tid := a.1, role := a.2.1 })

/-- Begins a round of bisection (R305). -/
def startRound (s : State) (p : Part) : State :=
  match getJob s p with
  | none => s
  | some j =>
    let l := topLists s p j
    sendList (sendList (modTwin s p fun w => { w with begun := true }) p .tables l.1) p .areas l.2

/-- Whether the job holds for repair. -/
def repairing (j : Job) : Bool := j.phase == .held && j.twin.paired && j.twin.mismatch

/-- The bisection begins once both fabrics' polls have ended. -/
def tryRound (s : State) (p : Part) : State :=
  match getJob s p with
  | none => s
  | some j =>
    if repairing j && j.twin.fabOwn.isSome && j.twin.fabTwin.isSome && !j.twin.begun then startRound s p else s

/-! ### The source of a repair and the log (R306, R307) -/

/-- Whether the module's own fabric is the source of a repair, and the reason. -/
def repairSource (s : State) (j : Job) : Bool × Nat :=
  let a := ownClean s j
  let b := j.twin.twinClean
  if a != b then (a, 0)
  else if a && b && j.twin.fabOwn != j.twin.fabTwin then (j.twin.fabOwn == some true, 1)
  else ((lkKeeper s == 1) == s.fabr.fab, 2)

/-- The bytes of a repair-log entry: the header and both copies. -/
def logBytes (sl item src reason role idx index : Nat) (a b : List Byte) (ha hb : Nat) : List Byte :=
  bytesOf 8 sl ++ bytesOf 1 item ++ bytesOf 1 src ++ bytesOf 1 reason ++ bytesOf 1 role ++ bytesOf 4 idx
  ++ bytesOf 8 index ++ bytesOf 8 a.length ++ bytesOf 16 ha ++ bytesOf 16 hb
  ++ padTo 0 (roundUp a.length 64) a ++ padTo 0 (roundUp b.length 64) b

/-- Writes a repair-log entry, from the start of the area where the rest of it is too short, and raises its event. -/
def logRepair (s : State) (p : Part) (own : Bool) (reason : Nat) (x : Nat × Nat × Nat × Nat) (mine other : List Byte) : State :=
  match getJob s p with
  | none => s
  | some j =>
    let h (b : List Byte) : Nat :=
      if x.1 = 0 then recHash p x.2.1 b
      else hashChunks denseKey 256 (padTo 0 4096 b) (x.2.1 * 2 ^ 72 + x.2.2.1 * 2 ^ 64 + x.2.2.2)
    let a := if s.fabr.fab then other else mine
    let b := if s.fabr.fab then mine else other
    let src := if own then s.fabr.fab else !s.fabr.fab
    let e := logBytes (j.lastSeal.getD 0) x.1 (b2n src) reason x.2.2.1 x.2.1 x.2.2.2 a b (h a) (h b)
    let at' := if j.twin.logSize < j.twin.logPtr + e.length then 0 else j.twin.logPtr
    if j.twin.logSize < e.length then s
    else
      let s := wrNow s (j.twin.logBase + at') e
      raise (modTwin s p fun w => { w with logPtr := at' + e.length }) p evTwinRepair [j.twin.logBase + at']

/-- The module's own copy of an item. -/
def itemBytes (s : State) (p : Part) (x : Nat × Nat × Nat × Nat) : List Byte :=
  if x.1 = 0 then match getTbl s p x.2.1 with | some t => rowBytes s p t x.2.2.2 | none => []
  else denseBlock s p x.2.1 x.2.2.1 x.2.2.2

/-- The read of an item that the module sends. -/
def readItem (s : State) (p : Part) (x : Nat × Nat × Nat × Nat) : State :=
  if x.1 = 0 then readLine s p .rows { tid := x.2.1, s := x.2.2.2, e := x.2.2.2 + 1 }
  else readLine s p .blocks { tid := x.2.1, role := x.2.2.1, s := x.2.2.2, e := x.2.2.2 + 1 }

/-- Sends the module's own copy of an item to the twin. -/
def sendItem (s : State) (p : Part) (x : Nat × Nat × Nat × Nat) : State :=
  toTwin (readItem s p x) p 0x13 ([BitVec.ofNat 8 x.1, BitVec.ofNat 8 x.2.2.1] ++ bytesOf 4 x.2.1 ++ bytesOf 8 x.2.2.2 ++ itemBytes s p x)

/-! ### Writing a repaired item (R306) -/

/-- Writes a record where it stands: a home record of a tiered table through the translation layer, which gives it a sound
page. -/
def putInPlace (s : State) (p : Part) (t : Table) (a row : Nat) (b : List Byte) : State :=
  let s := chargeWrite s p a t.desc.size (blkRow (t.desc.eng row))
  if t3Base ≤ a then
    let l := pagesOf a b.length
    healPages (programPages { s with mem := s.mem.write a b } none l) l
  else recWrite s a b

/-- Writes a repaired record: its digests are XORed unless the old record fails its check. -/
def repairRow (s : State) (p : Part) (tid row : Nat) (b : List Byte) : State :=
  match getTbl s p tid with
  | none => s
  | some t =>
    let a := recAddr s t (lidxOf s p) row
    let s' := putInPlace s p t a row b
    match recRead s t a row with
    | some old => xorDigest s' p tid (rangeOf t.desc row) (recHash p tid old ^^^ recHash p tid b)
    | none => s'

/-- Writes a block of a dense area, its sidecar maintained. -/
def putBlock (s : State) (p : Part) (e role b : Nat) (bs : List Byte) : State :=
  writeSpans s p false (blkXch 0) (blockSpans s p e role b (b + 1)) bs

/-- Repairs an item from the twin's copy: both twins log it, and the one that is not the source writes it (R306, R307). -/
def repairOne (s : State) (p : Part) (m : RepairItem) : State :=
  match getJob s p with
  | none => s
  | some j =>
    let x := m.item
    let r := repairSource s j
    let mine := itemBytes s p x
    let s := modTwin s p fun w => { w with diff := w.diff.erase x }
    let s := if r.1 then s
      else if m.isRow then repairRow s p m.tid m.index m.bytes else putBlock s p m.tid m.role m.index m.bytes
    logRepair s p r.1 r.2 x mine m.bytes

/-- A message of the repair or of a re-shard outside its state is discarded and counted (R342). -/
def outOfState (s : State) (p : Part) (mtype : Nat) : State :=
  raise { s with fabr := { s.fabr with nojob := s.fabr.nojob + 1 } } p evLnkNojob [mtype]

/-! ### Finding the items (R305, R308) -/

/-- Repair stops: the job stays held. -/
def stopRepair (s : State) (p : Part) : State :=
  modTwin s p fun w => { w with mismatch := false, items := 0, diff := [], early := [] }

/-- Rows or blocks found to differ: each twin sends its copy; more than 1,024 in a round end the repair (R308). -/
def foundItems (s : State) (p : Part) (xs : List (Nat × Nat × Nat × Nat)) : State :=
  match getJob s p with
  | none => s
  | some j =>
    let new := xs.filter fun x => !j.twin.diff.contains x
    if 1024 < j.twin.items + new.length then stopRepair (raise s p evTwinWide [j.lastSeal.getD 0]) p
    else
      let s := new.foldl (fun s x => sendItem s p x)
        (modTwin s p fun w => { w with items := w.items + new.length, diff := w.diff ++ new,
                                       early := w.early.filter fun m => !new.contains m.item })
      (j.twin.early.filter fun m => new.contains m.item).foldl (fun s m => repairOne s p m) s

/-- BISECTION_LIST_MESSAGE: the lines that differ are divided further, or are rows and blocks to repair (R305). -/
def bisectList (s : State) (p : Part) (k : BisKind) (l : List BisEnt) : State :=
  match getJob s p with
  | none => s
  | some j =>
    if !repairing j || j.twin.fabOwn.isNone then s
    else
      let bad := l.filter fun x => bisHash s p k x != x.hash
      bad.foldl (fun s x =>
        match finer s p k x with
        | some (k', ys) =>
          let s := ys.foldl (fun s y => readLine s p k' y) s
          sendList s p k' (ys.map (bisEnt s p k'))
        | none => if repairing ((getJob s p).getD j) then foundItems s p [itemOf k x] else s)
        (l.foldl (fun s x => readLine s p k x) s)

/-- REPAIR_DATA_MESSAGE: the twin's copy of an item that has been found to differ. One whose item this module's own bisection has
still to find is kept until then. -/
def repairData (s : State) (p : Part) (m : RepairItem) : State :=
  match getJob s p with
  | none => s
  | some j =>
    if !repairing j then outOfState s p 0x13
    else if j.twin.diff.contains m.item then repairOne s p m
    else modTwin s p fun w => { w with early := w.early ++ [m] }

/-- REPAIR_ROUND_COMPLETE: the module digests are formed again and compared (R308). -/
def repairRound (s : State) (p : Part) (dig : Nat) : State :=
  match getJob s p with
  | none => s
  | some j =>
    if !repairing j || j.twin.fabOwn.isNone || !j.twin.diff.isEmpty then s
    else
      let s := denseDigests s p
      match getJob s p with
      | none => s
      | some j =>
        let n := j.lastSeal.getD 0
        let nx := heldScale j
        let own := moduleDigest s p j n nx.1 nx.2
        let s := toTwin s p 0x23 (twinBytes n own false false)
        if own = dig then
          modTwin (stopRepair (raise s p evTwinAgreed [n]) p) p fun w =>
            { w with agreed := some n, histAt := s.hist.length, twinClean := true }
        else if 3 ≤ j.twin.round + 1 then stopRepair (raise s p evTwinFail [n]) p
        else startRound (modTwin s p fun w => { w with round := w.round + 1, items := 0, diff := [] }) p

/-! ### Failed records (R309) -/

/-- FAILED_RECORD_REPAIR: the owner of a failed record asks its twin for the record; a module that is asked sends its own copy as
it stands; a copy that passes its check is written in place, the digests unchanged. A copy that fails leaves the record as
it is, and R183 applies to its fetches. -/
def failedRepair (s : State) (p : Part) (tid row : Nat) (m : RecRepair) : State :=
  match getJob s p, getTbl s p tid with
  | some j, some t =>
    if !j.twin.paired then s
    else
      let asked := j.twin.asked.contains (tid, row)
      match m with
      | .ask => if asked then toTwin s p 0x13 ([2, 0] ++ bytesOf 4 tid ++ bytesOf 8 row) else s
      | .request => if ownerOf t.map t.desc row = lidxOf s p then sendItem s p (0, tid, 0, row) else s
      | .copy b =>
        if !asked then s
        else
          let s := modTwin s p fun w => { w with asked := w.asked.erase (tid, row) }
          if recOk tid row b ∧ b.length = t.desc.size then
            let old := rowBytes s p t row
            let s := putInPlace s p t (recAddr s t (lidxOf s p) row) row b
            rerunWaits (logRepair s p false 3 (0, tid, 0, row) old b) p tid row
          else rerunWaits s p tid row
  | _, _ => s

end Sys2Proof.Machine
end

