-- ==== Sys2Proof/Machine/Reshard.lean ====
section
/-! DEFINITION. Re-shards: the command and its check, the votes, the moves of rows, dense state and residuals, the commit
and the failure (R322 to R331). -/

namespace Sys2Proof.Machine

/-- Changes the re-shard of a partition's job. -/
def modReshard (s : State) (p : Part) (f : Reshard → Reshard) : State :=
  modJob s p fun j => { j with reshard := j.reshard.map f }

/-- The state as the checks and areas of another plan see it: that plan in force. -/
def withPlan (s : State) (p : Part) (pl : Plan) : State := modJob s p fun j => { j with plan := pl }

/-! ### The check (R323, R324) -/

/-- The state with every referenced table at the shard map and storage that a plan's references name. -/
def withRefs (s : State) (p : Part) (pl : Plan) : State :=
  pl.refs.foldl (fun s r => modTbl s p r.tid fun t => { t with desc := { t.desc with mbase := r.mbase, lbase := r.lbase } }) s

/-- Whether a reference's map or storage does not lie as R137 and R312 ask: at a multiple of 64 in the windows of the table. -/
def refBad (s : State) (p : Part) (r : TableRef) : Bool :=
  match getTbl s p r.tid with
  | none => true
  | some t => decide (r.mbase % 64 ≠ 0 ∨ r.lbase % 64 ≠ 0) || !inTier s p 1 r.mbase 1 || !inTier s p t.desc.homeTier r.lbase 1

/-- The RQ and RF entries of a key. -/
def keyRq (pl : Plan) (k : DenseKey) : XEntry := xent pl k.rq
def keyRf (pl : Plan) (k : DenseKey) : XEntry := xent pl k.rf

/-- The key of the same number in another plan. -/
def keyIn (pl : Plan) (key : Nat) : Option DenseKey := pl.keys.find? fun k => k.key == key

/-- Whether a key's residuals are flushed: its DIN or DOUT changes, or a flush value is still to be consumed (R328). -/
def flushes (j : Job) (pl : Plan) (k : DenseKey) : Bool :=
  pl.level == 0 && (match keyIn j.plan k.key with
    | some o => (keyRq j.plan o).din != (keyRq pl k).din || (keyRq j.plan o).dout != (keyRq pl k).dout
        || j.flushes.contains k.key
    | none => false)

/-- Whether the new plan breaks an agreement of R243 or a condition of R323 with the job's plan, or a key that needs a
flush names no flush tensor. -/
def reshardBad (s : State) (p : Part) (j : Job) (r : Reshard) : Bool :=
  let a := j.plan
  let b := r.plan
  !(decide (b.magic = 0x47524E31 ∧ b.ver = 1) && b.seed == a.seed && b.level == a.level && b.look == a.look
    && b.nmod == a.nmod && b.ngt == a.ngt && b.lsmode == a.lsmode && b.ls0 == a.ls0 && b.lsmin == a.lsmin
    && b.lsmax == a.lsmax && b.lsw == a.lsw && b.epoch == r.epoch && b.step0 == r.target + 1 && b.lidx == a.lidx
    && b.modules == a.modules && sortBy id (b.refs.map (·.tid)) == sortBy id (a.refs.map (·.tid))
    && sortBy id (b.keys.map (·.key)) == sortBy id (a.keys.map (·.key))
    && b.keys.all (fun k => match keyIn a k.key with
        | some o =>
          let x := keyRf a o
          let y := keyRf b k
          x.npar == y.npar && x.kch == y.kch && x.opt == y.opt && x.cfmt == y.cfmt
          && stLayout x.opt (progOf s p x.opt) == stLayout y.opt (progOf (withPlan s p b) p y.opt)
          && (!flushes j b k || k.flush != 0)
        | none => false))
  || b.refs.any (fun x => refBad s p x) || planBad (withRefs s p b) p b

/-- RESHARD (R323). -/
def reshardCmd (s : State) (c : Cmd) (addr target epoch : Nat) (pl : Plan) : State :=
  let p := partOf s c.fn
  match getJob s p with
  | none => rejectCmd s c evProgError stInvalid [c.ring.toNat]
  | some j =>
    let early : Bool := match j.lastSeal with | some n => decide (n < target) | none => decide (j.plan.step0 ≤ target)
    let held : Bool := (j.phase == .held || j.sealWork) && j.lastSeal == some target
    if j.reshard.isSome ∨ addr % 4096 ≠ 0 ∨ !inTier s p 1 addr 256 ∨ epoch ≤ j.epoch ∨ !(early || held) then
      rejectCmd s c evProgError stInvalid [c.ring.toNat]
    else modJob s p fun j => { j with reshard := some {
      cmd := c, plan := readPlan s.mem addr (imageEnd s.mem addr) pl, image := addr, target := target, epoch := epoch } }

/-! ### The votes (R325, R331) -/

/-- The job's re-shard, once its target seal is reached: as item 6 of the work there, or while the job holds at it (R323,
R324). -/
def activeReshard (j : Job) : Option Reshard :=
  match j.reshard with
  | some r => if (j.sealWork ∨ j.phase = .held) ∧ j.lastSeal = some r.target then some r else none
  | none => none

/-! ### What moves (R326 to R328) -/

/-- A table as the new plan has it: its new map and storage. -/
def movedTable (s : State) (t : Table) (r : TableRef) : Table :=
  let d := { t.desc with mbase := r.mbase, lbase := r.lbase }
  { t with desc := d, map := readMap s d, areas := [], merge := none }

/-- The tables whose shard map changes, as they stand and as the new plan has them. -/
def movedTables (s : State) (p : Part) (pl : Plan) : List (Table × Table) :=
  pl.refs.filterMap fun r => match getTbl s p r.tid with
    | some t => let n := movedTable s t r; if n.map = t.map then none else some (t, n)
    | none => none

/-- The storage of a tiered table in T3 that the module's shards take: base and length. -/
def homeExtent (t : Table) (me : Nat) : Nat × Nat :=
  (t.desc.lbase, (myShards t.map me).length * t.desc.ns * t.desc.size)

/-- What has been written into new home areas in T3 is discarded (R325). -/
def discardNew (s : State) (p : Part) (pl : Plan) (me : Nat) : State :=
  (movedTables s p pl).foldl (fun s t =>
    let a := homeExtent t.1 me
    let b := homeExtent t.2 me
    if t.1.desc.tier = 2 ∧ !overlaps a.1 a.2 b.1 b.2 then trimRange s b.1 b.2 else s) s

/-- What waited for the re-shard goes on: the rest of the work at the seal, and a resume. -/
def reshardEnd (s : State) (p : Part) : State := resumeReady (sealEnd s p) p

/-- The re-shard fails on the module: its command ends and the old epoch stays (R325). -/
def reshardFail (s : State) (p : Part) : State :=
  match getJob s p with
  | none => s
  | some j =>
    match j.reshard with
    | none => s
    | some r =>
      let s := raise s p evReshardFail [r.target]
      let s := if r.started then discardNew s p r.plan j.plan.lidx else s
      let s := modJob s p fun j => { j with reshard := none, readyTree := {}, commitTree := {} }
      reshardEnd (complete s r.cmd (r.fail.getD stAborted) 0 0 0) p

/-- Whether a re-shard's moves of a tiered table are under way: its Drizzle and decay sweeps pause (R326). -/
def permuting (s : State) (p : Part) (tid : Nat) : Bool :=
  match getJob s p with
  | none => false
  | some j => match j.reshard with
    | some r => r.moved && (movedTables s p r.plan).any fun t => t.1.desc.tid == tid
    | none => false

/-- The rows of a table that a module owns under its map, in (shard, local slot) order. -/
def ownedRows (t : Table) (me : Nat) : List Nat :=
  (myShards t.map me).flatMap fun j => (List.range t.desc.ns).filterMap fun l =>
    let r := l * t.desc.shards + j
    if r < t.desc.rows then some r else none

/-- The row moves of this module as (destination, move). -/
def rowMoves (s : State) (p : Part) (pl : Plan) (me : Nat) : List (Nat × MoveMsg) :=
  (movedTables s p pl).flatMap fun t => (ownedRows t.1 me).map fun r =>
    (ownerOf t.2.map t.2.desc r, .row (BitVec.ofNat 12 t.1.desc.tid) (BitVec.ofNat 40 r) (rowBytes s p t.1 r))

/-- Elements of the shard of list position `q`: first, count. -/
def shardOfPos (x : XEntry) (q : Nat) : Nat × Nat := let sh := x.shard q; x.els sh.1 sh.2

/-- The common part of two element ranges, where there is one. -/
def meet (a b : Nat × Nat) : Option (Nat × Nat) :=
  let lo := Nat.max a.1 b.1
  let hi := Nat.min (a.1 + a.2) (b.1 + b.2)
  if lo < hi then some (lo, hi - lo) else none

/-- A dense move. -/
def denseMove (k : DenseKey) (role first : Nat) (b : List Byte) : MoveMsg := .dense (BitVec.ofNat 32 k.key) role first b

/-- Each new owner's common part with an element range: (logical index, first, count). -/
def newOwners (y : XEntry) (own : Nat × Nat) : List (Nat × Nat × Nat) :=
  (List.range y.members.length).filterMap fun q => (meet own (shardOfPos y q)).map fun m => (y.memberAt q, m.1, m.2)

/-- Elements of a key that go to one module: where they lie, and the format code from which they are made Opal32, none where
they keep their bits. -/
structure DensePiece where
  dst : Nat
  key : DenseKey
  role : Nat
  first : Nat
  spans : List (Nat × Nat)
  conv : Option Nat := none

/-- The bytes of a piece as the message carries them. -/
def pieceBytes (s : State) (x : DensePiece) : List Byte :=
  let b := spanBytes s x.spans
  match x.conv with
  | none => b
  | some f =>
    let w := fmtWidth f
    (List.range (b.length / w)).flatMap fun k => bytesOf 4 (opal (ofRaw f 0 (natOf (slice b (w * k) w)))).toNat

/-- The byte at which state vector `v` of `n` elements begins in STATE (R288). -/
def vecStart (lay : List Bool) (n v : Nat) : Nat := ((lay.take v).map fun h => n * stWidth h).foldl (· + ·) 0

/-- The ranges of elements `lo` to `lo + len - 1` of state vector `v` in a STATE tensor of `n` elements a vector. -/
def vecPart (t : TEntry) (lay : List Bool) (n v lo len : Nat) : List (Nat × Nat) :=
  let w := stWidth (nth false lay v)
  byteSpans t (vecStart lay n v + lo * w) (len * w)

/-- The dense pieces of one key on this module: master weights to every new member, state to the new owners, residuals
by position or, in a flush, to the new owners of their elements (R327, R328). -/
def keyPieces (s : State) (p : Part) (j : Job) (pl : Plan) (k : DenseKey) : List DensePiece :=
  match keyIn j.plan k.key with
  | none => []
  | some o =>
    let x := keyRf j.plan o
    let q := keyRq j.plan o
    let y := keyRf pl k
    let own := shardOfPos x (myPos j x)
    let n := x.npar
    let lay := (stLayout x.opt (progOf s p x.opt)).1
    let sel := selOf j o.rq
    let c := q.chunk (myPos j q % q.din)
    let ce := q.els c.1 c.2
    let res := tens s p q.res
    let pres := tens s p q.pres
    let flushed (t : TEntry) (at' : Nat) (els : Nat × Nat) : List DensePiece := (newOwners y els).map fun m =>
      { dst := m.1, key := k, role := 4, first := m.2.1, spans := elemSpans t (at' + (m.2.1 - els.1)) m.2.2, conv := some t.fmt }
    let weights : List DensePiece := y.members.map fun d =>
      { dst := d, key := k, role := 0, first := own.1, spans := elemSpans (tens s p x.wgt) 0 own.2 }
    let state := (newOwners y own).flatMap fun m => (List.range lay.length).map fun v =>
      ({ dst := m.1, key := k, role := 1, first := v * n + m.2.1,
         spans := vecPart (tens s p x.state) lay own.2 v (m.2.1 - own.1) m.2.2 } : DensePiece)
    let resid : List DensePiece :=
      if pl.level = 1 then []
      else if flushes j pl k then
        flushed res (sel * n) (0, n) ++ (if 1 < q.dout then flushed pres (sel * ce.2) ce else [])
        ++ (if j.flushes.contains k.key then flushed (tens s p o.flush) 0 own else [])
      else
        let d := (keyRq pl k).memberAt (myPos j q)
        { dst := d, key := k, role := 2, first := 0, spans := elemSpans res (sel * n) n }
        :: (if 1 < q.dout then [{ dst := d, key := k, role := 3, first := 0, spans := elemSpans pres (sel * ce.2) ce.2 }] else [])
    weights ++ state ++ resid

/-- The bytes of a re-shard move message. -/
def moveBytes (m : MoveMsg) : List Byte :=
  match m with
  | .row tid row b => 0 :: (bytesOf 2 tid.toNat ++ bytesOf 5 row.toNat ++ b)
  | .dense key role first b => 1 :: (bytesOf 4 key.toNat ++ bytesOf 1 role ++ bytesOf 8 first ++ b)
  | .ack => [2]

/-! ### Arriving moves -/

/-- Writes bytes that start at flat element `first` of a tensor, its sidecar maintained. -/
def putElems (s : State) (p : Part) (t : TEntry) (first : Nat) (b : List Byte) : State :=
  writeSpans s p false (blkXch 0) (byteSpans t (first * fmtWidth t.fmt) b.length) b

/-- Writes a record into a table's new area: a tiered one through the translation layer, clean. -/
def putRecord (s : State) (p : Part) (t : Table) (me row : Nat) (b : List Byte) : State :=
  let a := homeAddr t me row
  if t.desc.tier = 2 then
    let b := setDirty b false
    let s := chargeWrite { s with mem := s.mem.write a b } p a b.length (blkRow (t.desc.eng row))
    programPages s none (pagesOf a b.length)
  else chargeWrite (recWrite s a b) p a b.length (blkRow (t.desc.eng row))

/-- Stores one move in the new areas. -/
def storeMove (s : State) (p : Part) (m : MoveMsg) : State :=
  match getJob s p with
  | none => s
  | some j =>
    match j.reshard with
    | none => s
    | some r =>
      match m with
      | .row tid row b =>
        match r.plan.refs.find? (fun x => x.tid == tid.toNat), getTbl s p tid.toNat with
        | some x, some t =>
          if r.rowsIn.any fun y => y.1 == tid.toNat && y.2.1 == row.toNat then s
          else
            let s := putRecord s p (movedTable s t x) j.plan.lidx row.toNat b
            modReshard s p fun r => { r with rowsIn := r.rowsIn ++ [(tid.toNat, row.toNat, b)] }
        | _, _ => s
      | .dense key role first b =>
        match keyIn r.plan key.toNat with
        | none => s
        | some k =>
          let y := keyRf r.plan k
          let q := keyRq r.plan k
          let sh := shardOfPos y (y.posOf j.plan.lidx)
          let new := withPlan s p r.plan
          let put (t : Nat) (at' : Nat) (b : List Byte) : State := putElems s p (tens new p t) at' b
          let s := match role with
            | 0 => match meet (first, b.length / 4) sh with
              | some v => put y.wgt (v.1 - sh.1) (slice b (4 * (v.1 - first)) (4 * v.2))
              | none => s
            | 1 =>
              let lay := (stLayout y.opt (progOf s p y.opt)).1
              let v := first / y.npar
              writeSpans s p false (blkXch 0)
                (vecPart (tens new p y.state) lay sh.2 v (first % y.npar - sh.1) (b.length / stWidth (nth false lay v))) b
            | 2 => put q.res 0 b
            | 3 => put q.pres 0 b
            | _ => s
          modReshard s p fun r => { r with denseIn := r.denseIn ++ [(key.toNat, role, first, b)] }
      | .ack => modReshard s p fun r => { r with acks := r.acks - 1 }

/-- Total bytes received for a role of a key. -/
def gotBytes (r : Reshard) (key role : Nat) : Nat :=
  ((r.denseIn.filter fun x => x.1 == key && x.2.1 == role).map fun x => x.2.2.2.length).foldl (· + ·) 0

/-- Whether every incoming move of a key has been written. -/
def keyIn' (s : State) (p : Part) (j : Job) (r : Reshard) (k : DenseKey) : Bool :=
  match keyIn j.plan k.key with
  | none => true
  | some o =>
    let y := keyRf r.plan k
    let q := keyRq j.plan o
    let z := keyRq r.plan k
    let new := withPlan s p r.plan
    let sh := shardOfPos y (y.posOf j.plan.lidx)
    let lay := (stLayout y.opt (progOf s p y.opt)).1
    let c := z.chunk (z.posOf j.plan.lidx % z.din)
    decide (gotBytes r k.key 0 = 4 * y.npar)
    && decide (gotBytes r k.key 1 = vecStart lay sh.2 lay.length)
    && (if r.plan.level = 1 then true
      else if flushes j r.plan k then
        decide (gotBytes r k.key 4 = 4 * sh.2 * (q.members.length + (if 1 < q.dout then q.dout else 0)
          + b2n (j.flushes.contains k.key)))
      else decide (gotBytes r k.key 2 = y.npar * fmtWidth (tens new p z.res).fmt)
        && (decide (q.dout ≤ 1) || decide (gotBytes r k.key 3 = (z.els c.1 c.2).2 * fmtWidth (tens new p z.pres).fmt)))

/-- Whether every incoming move has been written. -/
def movesIn (s : State) (p : Part) (j : Job) (r : Reshard) : Bool :=
  ((movedTables s p r.plan).all fun t => (ownedRows t.2 j.plan.lidx).all fun row =>
    r.rowsIn.any fun y => y.1 == t.1.desc.tid && y.2.1 == row)
  && r.plan.keys.all (keyIn' s p j r)

/-! ### The commit (R325, R328, R329) -/

/-- The rows of a table that have left the module and those that have come, in its digests and its directory. No export
outlasts the commit, so the records in the new area lose their EXS bit (R191, R329). The home records of a tiered table are
current in the new area, so its pending writebacks are dropped and the evictions that waited for them end; the old home
area is released (R325). -/
def commitTable' (s : State) (p : Part) (me : Nat) (rowsIn : List (Nat × Nat × List Byte)) (t n : Table) : State :=
  let tid := t.desc.tid
  let leave := (ownedRows t me).filter fun r => ownerOf n.map n.desc r != me
  let s := leave.foldl (fun s r =>
    let s := if unwalked t r then s else xorDigest s p tid (rangeOf t.desc r) (rowHash s p t r)
    if t.desc.tier = 2 then dirRemove s p tid r else s) s
  let come := rowsIn.filter fun y => y.1 == tid && ownerOf t.map t.desc y.2.1 != me
  let s := come.foldl (fun s y => xorDigest s p tid (rangeOf t.desc y.2.1) (recHash p tid y.2.2)) s
  let s := (rowsIn.filter fun y => y.1 == tid).foldl (fun s y => clearExsAt s n (homeAddr n me y.2.1) y.2.1) s
  match getTbl s p tid with
  | none => s
  | some v =>
    let wbs := v.wbs.flatMap (·.rows)
    let s := keepTbl s p tid { v with
      desc := n.desc, map := n.map, areas := [], merge := none, wbs := [],
      build := v.build.map fun b => { todo := b.todo.map fun l => l.filter fun r => !leave.contains r } }
    let s := finishEvictions s p tid wbs
    let a := homeExtent t me
    let b := homeExtent n me
    if t.desc.tier = 2 ∧ !overlaps a.1 a.2 b.1 b.2 then trimRange s a.1 a.2 else s

/-- A table whose map does not change takes the place of the map that the new plan names. -/
def rebaseTable (s : State) (p : Part) (r : TableRef) : State :=
  match getTbl s p r.tid with
  | none => s
  | some t =>
    if (movedTable s t r).map = t.map then keepTbl s p r.tid { t with desc := { t.desc with mbase := r.mbase } } else s

/-- The values received for element `e` of a key's flush (R328). -/
def flushVals (r : Reshard) (key e : Nat) : List Num :=
  (r.denseIn.filter fun x => x.1 == key && x.2.1 == 4 && decide (x.2.2.1 ≤ e ∧ e < x.2.2.1 + x.2.2.2.length / 4)).map fun x =>
    ofOpal (BitVec.ofNat 32 (natOf (slice x.2.2.2 (4 * (e - x.2.2.1)) 4)))

/-- The master weight of element `e` of a key. -/
def movedWeight (r : Reshard) (key e : Nat) : Num :=
  match r.denseIn.find? (fun x => x.1 == key && x.2.1 == 0 && decide (x.2.2.1 ≤ e ∧ e < x.2.2.1 + x.2.2.2.length / 4)) with
  | some x => ofOpal (BitVec.ofNat 32 (natOf (slice x.2.2.2 (4 * (e - x.2.2.1)) 4)))
  | none => .zero

/-- Rebuilds the copy of a key from the moved master weights (R289, R327). -/
def rebuildCopy (s : State) (p : Part) (r : Reshard) (k : DenseKey) : State :=
  let y := keyRf r.plan k
  let ct := tens s p y.copy
  (List.range y.nu).foldl (fun s u =>
    let sp := y.span u
    let c := copyUnit s p y ct u ((List.range sp.2).map fun i => movedWeight r k.key (sp.1 + i))
    putCopy s p (blkXch 0) y ct u c.1 c.2.1) s

/-- Writes the flush tensor of a key and zeroes its residuals. -/
def flushKey (s : State) (p : Part) (me : Nat) (r : Reshard) (k : DenseKey) : State :=
  let y := keyRf r.plan k
  let q := keyRq r.plan k
  let sh := shardOfPos y (y.posOf me)
  let c := q.chunk (q.posOf me % q.din)
  let s := putElems s p (tens s p k.flush) 0 ((List.range sh.2).flatMap fun i =>
    bytesOf 4 (opal ((flushVals r k.key (sh.1 + i)).foldl Num.add .zero)).toNat)
  let zero (s : State) (t : TEntry) (n : Nat) : State := putElems s p t 0 (List.replicate (n * fmtWidth t.fmt) 0)
  let s := zero s (tens s p q.res) (2 * q.npar)
  if 1 < q.dout then zero s (tens s p q.pres) (2 * (q.els c.1 c.2).2) else s

/-- Sends the hints of every accepted batch again (R329). -/
def resendHints (s : State) (p : Part) : State :=
  match getJob s p with
  | none => s
  | some j =>
    (sortBy id (j.accepted.filter (batchSorted j))).foldl (fun s n =>
      (sortedOnce ((mergedLists j.plan).map (·.1))).foldl (fun s g => sendHints s p n g) s) s

/-- Makes the new plan, maps, areas and epoch current, and resolves pending work. -/
def reshardCommit (s : State) (p : Part) (j : Job) (r : Reshard) : State :=
  let me := j.plan.lidx
  let fl := r.plan.keys.filter (flushes j r.plan)
  let ts := movedTables s p r.plan
  let s := ts.foldl (fun s t => commitTable' s p me r.rowsIn t.1 t.2) s
  let s := r.plan.refs.foldl (fun s x => rebaseTable s p x) s
  let tids := (tblsOf s p).map (·.desc.tid)
  let s := tids.foldl (fun s t => exportEnd (dropCommit s p t stStaleEpoch) p t stStaleEpoch) s
  let s := modJob s p fun j => { j with epoch := r.epoch, hints := [] }
  let s := adoptPlan s p r.plan
  let s := r.plan.keys.foldl (fun s k => rebuildCopy s p r k) s
  let s := fl.foldl (fun s k => flushKey s p me r k) s
  let s := modJob s p fun j => { j with
    sels := [], flushes := fl.map (·.key), reshard := none, shards := [], readyTree := {}, commitTree := {} }
  let s := denseDigests s p
  let addr := 4 + p.toNat
  let f := takeFree s
  let s := extend { f.2 with sec := { f.2.sec with meas := setNth f.2.sec.meas addr (List.replicate 48 0) } } addr
    (bytesOf 8 (Config.freeNat f.1))
  let s := complete (raise s p evReshardDone [r.target, r.epoch]) r.cmd stDone r.target 0 0
  reshardEnd (resendHints s p) p

/-! ### The votes and the moves (R325, R331, R351) -/

/-- Joins a contribution into a vote: the module's own where none is named. A further 0 of a module that has contributed
1 counts until the vote completes (R331). -/
def TreeSt.join (t : TreeSt) (src : Option Nat) (v : Bool) : TreeSt :=
  match src with
  | none => { t with own := true, vote := t.vote && v }
  | some l => { t with kids := if t.kids.contains l then t.kids else l :: t.kids, vote := t.vote && v }

/-- Sends a vote message: kind 2 the ready vote, 3 the commit vote. -/
def voteBytes (kind : Nat) (v : Bool) : List Byte := [BitVec.ofNat 8 kind, BitVec.ofNat 8 (b2n v)]

/-- The result of the commit vote comes down the tree: with 1 the module commits, with 0 the re-shard fails. -/
def commitResult (s : State) (p : Part) (result : Bool) : State :=
  match getJob s p with
  | none => s
  | some j =>
    match activeReshard j with
    | none => s
    | some r =>
      if r.voted.isNone then s
      else
        let s := toKids s p j.plan 0x24 (voteBytes 3 result)
        if result && r.voted == some true then reshardCommit s p j r else reshardFail s p

/-- Passes the commit vote on once the module's part of the tree is complete; the root has the result. -/
def commitUp (s : State) (p : Part) : State :=
  match getJob s p with
  | none => s
  | some j =>
    if !j.commitTree.full j.plan then s
    else if j.plan.lidx = 0 then commitResult s p j.commitTree.vote
    else sendTo s p (parentOf j.plan) 0x24 (voteBytes 3 j.commitTree.vote)

/-- The module's contribution to the commit vote. -/
def commitOwn (s : State) (p : Part) (v : Bool) : State :=
  commitUp (modJob s p fun j => { j with
    commitTree := j.commitTree.join none v, reshard := j.reshard.map fun r => { r with voted := some v } }) p

/-- The module's commit vote: 0 at once when a move failed or the command is aborted, also after a 1; 1 when all outgoing
moves are acknowledged and all incoming ones written. -/
def commitVoteOwn (s : State) (p : Part) : State :=
  match getJob s p with
  | none => s
  | some j =>
    match activeReshard j with
    | none => s
    | some r =>
      if !r.moved || r.voted == some false then s
      else if r.fail.isSome || r.aborted then commitOwn s p false
      else if r.voted.isNone && r.acks == 0 && movesIn s p j r then commitOwn s p true
      else s

/-- COMMIT_VOTE: a child's contribution, or the result from the parent. -/
def commitMsg (s : State) (p : Part) (src : Nat) (v : Bool) : State :=
  match getJob s p with
  | none => s
  | some j =>
    if j.plan.lidx ≠ 0 ∧ src = parentOf j.plan then commitResult s p v
    else if (kidsOf j.plan).contains src && (!j.commitTree.kids.contains src || !v) then
      commitUp (modJob s p fun j => { j with commitTree := j.commitTree.join (some src) v }) p
    else s

/-- What a read of the outgoing data cannot correct: a record's memory, a poisoned granule, a 4 KiB block that mismatches its
CRC; the cause of the failed move (R325, R238). -/
def moveFails (s : State) (p : Part) (pl : Plan) (me : Nat) (ps : List DensePiece) : Option Nat :=
  let rows := (movedTables s p pl).any fun t => (ownedRows t.1 me).any fun r => badRange s (recAddr s t.1 me r) t.1.desc.size
  let spans := ps.flatMap (·.spans)
  if rows || spans.any (fun r => poisoned s r.1 r.2) then some stBuserr
  else if spans.any (fun r => inDram r.1 && (blocksOf r.1 r.2).any fun b => !blockOk s b) then some stCksum
  else none

/-- Makes the module's moves once no tier flush of a moved table runs. -/
def startMoves (s : State) (p : Part) : State :=
  match getJob s p with
  | none => s
  | some j =>
    match activeReshard j with
    | none => s
    | some r =>
      if !r.started || r.moved || (movedTables s p r.plan).any (fun t => !t.1.flushes.isEmpty) then s
      else
        let me := j.plan.lidx
        let ps := r.plan.keys.flatMap (keyPieces s p j r.plan)
        let bad := moveFails s p r.plan me ps
        let ms := rowMoves s p r.plan me ++ ps.map fun x => (x.dst, denseMove x.key x.role x.first (pieceBytes s x))
        let s := ps.foldl (fun s x => readSpans s p false (blkXch 0) x.spans) s
        let out := (ms.filter fun m => m.1 != me).length
        let s := modReshard s p fun r => { r with moved := true, acks := out, fail := r.fail.or bad }
        let s := ms.foldl (fun s m => if m.1 = me then storeMove s p m.2 else sendTo s p m.1 0x12 (moveBytes m.2)) s
        commitVoteOwn s p

/-- The result of the ready vote comes down the tree: with 1 the moves start, with 0 the re-shard fails. -/
def readyResult (s : State) (p : Part) (result : Bool) : State :=
  match getJob s p with
  | none => s
  | some j =>
    match activeReshard j with
    | none => s
    | some r =>
      if r.ready.isNone || r.started then s
      else
        let s := toKids s p j.plan 0x24 (voteBytes 2 result)
        if result && r.ready == some true then
          startMoves (modReshard (raise s p evReshardStart [r.target]) p fun r => { r with started := true }) p
        else reshardFail s p

/-- Passes the ready vote on once the module's part of the tree is complete; the root has the result. -/
def readyVoteUp (s : State) (p : Part) : State :=
  match getJob s p with
  | none => s
  | some j =>
    if !j.readyTree.full j.plan then s
    else if j.plan.lidx = 0 then readyResult s p j.readyTree.vote
    else sendTo s p (parentOf j.plan) 0x24 (voteBytes 2 j.readyTree.vote)

/-- The module's contribution to the ready vote. -/
def readyContribute (s : State) (p : Part) (v : Bool) : State :=
  readyVoteUp (modJob s p fun j => { j with
    readyTree := j.readyTree.join none v, reshard := j.reshard.map fun r => { r with ready := some v } }) p

/-- The module's ready vote, once the job has reached the target seal and the check has ended; 0 after a 1 where the command
is aborted before the vote completes. -/
def readyVote (s : State) (p : Part) : State :=
  match getJob s p with
  | none => s
  | some j =>
    match activeReshard j with
    | none => s
    | some r =>
      let v := r.fail.isNone && !r.aborted
      if !r.checked || r.started || r.ready == some v || r.ready == some false then s
      else readyContribute s p v

/-- READY_VOTE: a child's contribution, or the result from the parent. -/
def readyVoteMsg (s : State) (p : Part) (src : Nat) (v : Bool) : State :=
  match getJob s p with
  | none => s
  | some j =>
    if j.plan.lidx ≠ 0 ∧ src = parentOf j.plan then readyResult s p v
    else if (kidsOf j.plan).contains src && (!j.readyTree.kids.contains src || !v) then
      readyVoteUp (modJob s p fun j => { j with readyTree := j.readyTree.join (some src) v }) p
    else s

/-- RESHARD_CHECK_COMPLETE: the check ends as a plan load's does (R324). -/
def reshardCheck (s : State) (p : Part) : State :=
  match getJob s p with
  | none => s
  | some j =>
    match j.reshard with
    | none => s
    | some r =>
      if r.checked then s
      else
        let bad : Option Nat := if !r.plan.icrcOk then some stCksum else if reshardBad s p j r then some stInvalid else none
        let s := if bad = some stInvalid then
            let o := rejectOffset s (failOffset s p r.image (imageEnd s.mem r.image) r.plan)
            raiseF o.2 evPlanReject stInvalid r.cmd.fn.toNat (some p) [o.1]
          else s
        readyVote (modReshard s p fun r => { r with checked := true, fail := bad }) p

/-- RESHARD_MOVE_MESSAGE: a move is stored and acknowledged, an acknowledgement counted; outside its state a move is discarded
(R342). -/
def moveArrive (s : State) (p : Part) (src : Nat) (m : MoveMsg) : State :=
  match getJob s p with
  | none => s
  | some j =>
    match activeReshard j with
    | none => outOfState s p 0x12
    | some r =>
      if r.ready == some true && r.voted.isNone then
        let s := storeMove s p m
        commitVoteOwn (if m = .ack then s else sendTo s p src 0x12 (moveBytes .ack)) p
      else outOfState s p 0x12

/-- A re-shard that no module's HOLD has let in at its seal fails there (R324). -/
def reshardMissed (s : State) (p : Part) : State :=
  match getJob s p with
  | none => s
  | some j =>
    match j.reshard with
    | none => s
    | some r => if j.phase = .sealed ∧ !j.sealWork ∧ j.lastSeal = some r.target then reshardFail s p else s

/-- An abort of a re-shard command: the module contributes 0 to whichever vote is pending (R331). -/
def reshardAbort (s : State) (p : Part) : State :=
  commitVoteOwn (readyVote (modReshard s p fun r => { r with aborted := true }) p) p

end Sys2Proof.Machine
end

