-- ==== Sys2Proof/Machine/Sequence.lean ====
section
/-! DEFINITION. Expert tokens and sequence blocks: the deal of tokens over replicas, their rounds and layout, the ring of key
and value blocks, the block partials and their combination in canonical order (R314, R318 to R321). -/

namespace Sys2Proof.Machine

/-! ### Expert tokens (R318, R319) -/

/-- The slot of the replica to which a token is dealt. -/
def dealSlot (t : ExpertTab) (x : ExpTok) : Nat :=
  let e := nth {} t.experts x.expert
  e.first + (if t.deal = 0 then x.k else x.leaf) % Nat.max e.replicas 1

/-- The module that holds a slot. -/
def slotModule (t : ExpertTab) (k : Nat) : Nat := (nth (0, 0) t.slots k).1

/-- Tokens in ascending canonical order. -/
def canonical (ts : List ExpTok) : List ExpTok := sortBy (fun x => x.sample * 2 ^ 32 + x.pos) ts

/-- The rows of a replica: its tokens packed from position 0 in canonical order, capacity positions beyond them +0. Dealt by
leaf, each leaf's tokens start a new group of 64 (R319). -/
def expertRows (t : ExpertTab) (cap : Nat) (ts : List ExpTok) : List (List Byte) :=
  let w := (ts.map (·.data.length)).foldl Nat.max 0
  let zero : List Byte := List.replicate w 0
  let rows :=
    if t.deal = 0 then (canonical ts).map (·.data)
    else (sortedOnce (ts.map (·.leaf))).flatMap fun l =>
      let of' := (canonical (ts.filter fun x => x.leaf == l)).map (·.data)
      padTo zero (roundUp of'.length 64) of'
  padTo zero cap rows

/-- A replica takes tokens and lays its rows out again. -/
def takeTokens (s : State) (p : Part) (g : Nat) (ts : List ExpTok) : State :=
  modJob s p fun j =>
    let t := nth {} j.plan.experts g
    let inn := j.expertIn ++ ts.map fun x => (g, dealSlot t x, x)
    let ks := sortedOnce (ts.map (dealSlot t))
    { j with
      expertIn := inn
      expertLay := ks.foldl (fun l k =>
        tabSet l (65536 * g + k) (expertRows t (nth {} t.experts (nth (0, 0) t.slots k).2).cap
          ((inn.filter fun y => y.1 == g && y.2.1 == k).map (·.2.2)))) j.expertLay }

/-- Sends one round of tokens to the module of a slot: main and squall rounds on the collective channel, spill rounds on the
bulk channel. -/
def sendTokens (s : State) (p : Part) (j : Job) (t : ExpertTab) (g k round left : Nat) (ts : List ExpTok) : State :=
  let body := bytesOf 4 k ++ ts.flatMap (·.data)
  sendTo s p (slotModule t k) (if round < 2 then 0x03 else 0x10)
    (roundBytes g round ts.length left (nextStep s p) j.epoch (padTo 0 (roundUp body.length 8) body))

/-- The requester deals the tokens of its router: to each replica the capacity in the main round, an empty squall message that
says how many are left, and the rest in up to 16 spill rounds of 4,096; its own replicas take theirs at once (R146 to
R149, R318). -/
def dealTokens (s : State) (p : Part) (j : Job) (g : Nat) (ts : List ExpTok) : State :=
  let t := nth {} j.plan.experts g
  (List.range t.slots.length).foldl (fun s k =>
    let l := canonical (ts.filter fun x => dealSlot t x == k)
    if slotModule t k = j.plan.lidx then (if l.isEmpty then s else takeTokens s p g l)
    else
      let cap := (nth {} t.experts (nth (0, 0) t.slots k).2).cap
      let rest := l.drop cap
      let s := sendTokens s p j t g k 0 0 (l.take cap)
      let s := sendTokens s p j t g k 1 rest.length []
      (List.range (Nat.min 16 (ceilDiv rest.length 4096))).foldl (fun s i =>
        sendTokens s p j t g k (2 + i) 0 (slice rest (4096 * i) 4096)) s) s

/-- EXPERT_TOKEN_MESSAGE: the tokens of this module's router are dealt; those of another requester are taken by the replica to
which the deal gives them. More tokens left than 16 spill rounds carry veto the step (R149). -/
def expertArrive (s : State) (p : Part) (m : RMsg) (ts : List ExpTok) : State :=
  match getJob s p with
  | none => s
  | some j =>
    let g := m.group.toNat
    let t := nth {} j.plan.experts g
    if !epochOk j m.epoch then staleMsg s p m.src.toNat m.round
    else if laterStep s p m.step then s
    else if m.step % 65536 ≠ nextStep s p % 65536 ∨ j.plan.experts.length ≤ g
        ∨ ts.any (fun x => decide (t.experts.length ≤ x.expert))
        ∨ (m.src.toNat ≠ j.plan.lidx ∧ ts.any fun x => slotModule t (dealSlot t x) != j.plan.lidx) then
      badFormat s p m.src.toNat m.round
    else if m.src.toNat = j.plan.lidx then dealTokens s p j g ts
    else
      let s := takeTokens s p g ts
      if 16 * 4096 < m.left then report s p (vSpill ||| srcXch) else s

/-! ### Block partials (R321) -/

/-- A line reduced tile by tile: the tree of each tile of `w` columns, and ACC across the tiles (R106, R107). -/
def chainLine (op : VOp) (w : Nat) (l : List (Option Num)) : Num × Counts :=
  let first := treeLevels (combineOf op) (Nat.log2 w) (padTo none w (l.take w))
  ((List.range (ceilDiv l.length w)).drop 1).foldl (fun (acc : Num × Counts) t =>
    let r := treeLevels (combineOf op) (Nat.log2 w) (padTo none w (slice l (w * t) w))
    let c := combineOf op acc.1 (r.1.getD (absentOf op))
    (c.1, acc.2.add (r.2.add c.2))) (first.1.getD (absentOf op), first.2)

/-- L of R109. -/
def log2e : Num := ofOpal 0x3FB8AA3B

/-- VEXP2 of a product with L rounded once, rounded into Opal32. -/
def expOf (s : State) (x : Num) : Cnum :=
  let b := r32 (x.mul log2e)
  let e := exp2Num s b.1
  let r := r32 e.1
  (r.1, (b.2.add e.2).add r.2)

/-- The numerator of a score as VSMX writes it: its code in a format (R109). -/
def numerator (s : State) (fmt : Nat) (m x : Num) : Nat × Counts :=
  let a := r32 (x.sub m)
  let b := r32 (a.1.mul log2e)
  let e := exp2Num s b.1
  let r := toRaw fmt .away e.1.toRes
  (r.1, ((a.2.add b.2).add e.2).add r.2)

/-- The partial of a row against a block: the row maximum over the unmasked keys, the row sum of the numerators, the accumulators
of the numerators times the values; none where every key is masked. With it the counts of the vector engine and of the
array. -/
def blockPartial (s : State) (b : SeqBlock) (r : SeqRow) : Option (W32 × W32 × List W32) × Counts × Counts :=
  if r.scores.all Option.isNone then (none, {}, {})
  else
    let m := chainLine .rmax 16 (r.scores.map fun x => x.map ofOpal)
    let es := r.scores.map fun x => x.map fun v => numerator s b.fmt m.1 (ofOpal v)
    let num (k : Nat) : Num := match nth none es k with | some e => ofRaw b.fmt 0 e.1 | none => .zero
    let z := chainLine .rsum 32 (es.zipIdx.map fun x => x.1.map fun _ => num x.2)
    let n := (b.values.map List.length).foldl Nat.max 0
    let kl := r.scores.length
    let o := (List.range n).map fun c =>
      dotFrom b.fmt kl num (fun k => ofRaw b.fmt 0 (nth 0 (nth [] b.values k) c)) 0 0 (ceilDiv kl 64)
    (some (opal m.1, opal z.1, o.map (·.1)),
     es.foldl (fun c x => match x with | some e => c.add e.2 | none => c) (m.2.add z.2), sumC (o.map (·.2)))

/-- Combines what the earlier blocks have given with the partial of the next nonempty block. -/
def combineBlocks (s : State) (a b : W32 × W32 × List W32) : (W32 × W32 × List W32) × Counts :=
  let m := (ofOpal a.1).max (ofOpal b.1)
  let x := expOf s ((ofOpal a.1).sub m)
  let y := expOf s ((ofOpal b.1).sub m)
  let join (u v : W32) : W32 × Counts :=
    let p := r32 ((ofOpal u).mul x.1)
    let q := r32 ((ofOpal v).mul y.1)
    let r := toOpalR .away (p.1.add q.1).toRes
    (r.1, (p.2.add q.2).add r.2)
  let z := join a.2.1 b.2.1
  let o := (a.2.2.zip b.2.2).map fun v => join v.1 v.2
  ((opal m, z.1, o.map (·.1)), ((x.2.add y.2).add z.2).add (sumC (o.map (·.2))))

/-- The output of a row from its partials in ascending block order: the combination from the first nonempty block on, and
round_DF(o / z); no elements where every block is empty, for which R321 gives no output (log entry 136). -/
def rowOutput (s : State) (df : Nat) (ps : List (W32 × W32 × List W32)) : List Nat × Counts :=
  match ps with
  | [] => ([], {})
  | a :: rest =>
    let r := rest.foldl (fun (acc : (W32 × W32 × List W32) × Counts) b =>
      let c := combineBlocks s acc.1 b
      (c.1, acc.2.add c.2)) (a, {})
    let o := r.1.2.2.map fun v => toRaw df .away ((ofOpal v).div (ofOpal r.1.2.1))
    (o.map (·.1), r.2.add (sumC (o.map (·.2))))

/-- Blocks that a query row attends. -/
def attended (b : SeqBlock) (row : Nat) : Nat :=
  let n := ceilDiv b.n b.kb
  if b.causal then Nat.min n (row / b.kb + 1) else n

/-- One row of a block: its partial is kept, and where all the row's partials are there, they are combined in ascending block
order, whatever the order in which they came. -/
def rowBlock (s : State) (p : Part) (seq : Nat) (b : SeqBlock) (r : SeqRow) : State :=
  match getJob s p with
  | none => s
  | some j =>
    let mine (x : SeqPart) : Bool := x.seq == seq && x.row == r.row
    if attended b r.row ≤ b.j ∨ j.parts.any (fun x => mine x && x.blk == b.j) then s
    else
      let v := blockPartial s b r
      let s := tally (tally s blkVec v.2.1) blkArr v.2.2
      let ps := sortBy (·.blk) ({ seq := seq, row := r.row, blk := b.j, val := v.1 } :: j.parts.filter mine)
      if ps.length < attended b r.row then
        modJob s p fun j => { j with parts := j.parts.filter (fun x => !mine x) ++ ps }
      else
        let o := rowOutput s b.df (ps.filterMap (·.val))
        modJob (tally s blkVec o.2) p fun j =>
          { j with parts := j.parts.filter (fun x => !mine x), seqOut := tabSet j.seqOut (seq * 2 ^ 32 + r.row) o.1 }

/-! ### The ring (R320) -/

/-- The module of a sequence group to which a block falls: consecutive blocks in ring order, the first modules one more (R314). -/
def blockOwner (b : SeqBlock) : Nat :=
  let n := ceilDiv b.n b.kb
  let d := b.group.length
  nth 0 b.group (((List.range d).find? fun q => decide (cutFirst n d q ≤ b.j ∧ b.j < cutFirst n d q + cutLen n d q)).getD 0)

/-- The successor of a module on the ring. -/
def ringNext (group : List Nat) (me : Nat) : Nat := nth (nth me group 0) group (group.idxOf me + 1)

/-- Whether a block fits its sequence, and comes from the module to which it falls. -/
def blockFits (me src : Nat) (b : SeqBlock) : Bool :=
  decide (b.kb % 64 = 0 ∧ 0 < b.kb ∧ b.j < ceilDiv b.n b.kb) && b.group.contains me && blockOwner b == src

/-- SEQUENCE_BLOCK_MESSAGE: a block of this module's own, or one that has come round the ring. The module forms its rows' partials
and passes the block on to its successor, until it has made D - 1 hops. -/
def sequenceArrive (s : State) (p : Part) (m : RMsg) (b : SeqBlock) : State :=
  match getJob s p with
  | none => s
  | some j =>
    let me := j.plan.lidx
    if !epochOk j m.epoch then staleMsg s p m.src.toNat m.round
    else if laterStep s p m.step then s
    else if m.step % 65536 ≠ nextStep s p % 65536 ∨ !blockFits me m.src.toNat b then badFormat s p m.src.toNat m.round
    else
      let s := modJob s p fun j => { j with seqIn := j.seqIn ++ [{ src := m.src.toNat, round := m.round, body := m.body }] }
      let s := b.rows.foldl (fun s r => rowBlock s p m.group.toNat b r) s
      let d := ringNext b.group me
      if d = m.src.toNat then s
      else sendTo s p d 0x04 (bytesOf 2 m.src.toNat ++ roundBytes m.group.toNat m.round m.n m.left m.step m.epoch m.body)

end Sys2Proof.Machine
end

