-- ==== Sys2Proof/Machine/ExchangeCmds.lean ====
section
/-! DEFINITION. The gradient exchange, copies, chains, expert and sequence messages, and the redundant pair (R275 to R309, R318, R320). -/

namespace Sys2Proof.Machine

/-- FIRST_HOP_MESSAGE (R276): a first-hop contribution arrives. -/
def execFirstHopMessage (p : Part) (m : DMsg) (s : State) : Host.Outcome State Fault Refusal := .next (firstHop s p m)

/-- SPINE_HOP_MESSAGE (R278): a spine-hop contribution arrives. -/
def execSpineHopMessage (p : Part) (m : DMsg) (s : State) : Host.Outcome State Fault Refusal := .next (spineHop s p m)

/-- RELEASE_CHUNK (R287): a release chunk is complete. -/
def execReleaseChunk (p : Part) (e : XIx) (chunk : W32) (s : State) : Host.Outcome State Fault Refusal :=
  .next (Sys2Proof.Machine.releaseChunk s p e.toNat chunk.toNat)

/-- CHUNK_UPDATE (R288): the owner updates a released chunk. -/
def execChunkUpdate (p : Part) (e : XIx) (chunk : W32) (s : State) : Host.Outcome State Fault Refusal :=
  .next (chunkStep s p e.toNat chunk.toNat)

/-- COPY_HASH (R293): the owner sends the digest of its shard. -/
def execCopyHash (p : Part) (e : XIx) (s : State) : Host.Outcome State Fault Refusal := .next (sendHash s p e.toNat)

/-- What follows the last refreshed copy of a resume: the module may be ready (R294). -/
def refreshEnd (s t : State) (p : Part) : State :=
  match getJob s p, getJob t p with
  | some a, some b => if refreshing a && !refreshing b then resumeReady t p else t
  | _, _ => t

/-- ALLGATHER_SPINE_MESSAGE (R290): a shard arrives over the spine. -/
def execAllgatherSpineMessage (p : Part) (m : DMsg) (s : State) : Host.Outcome State Fault Refusal :=
  .next (refreshEnd s (gatherArrive s p m kGather) p)

/-- ALLGATHER_POD_MESSAGE (R290): a shard arrives within the pod. -/
def execAllgatherPodMessage (p : Part) (m : DMsg) (s : State) : Host.Outcome State Fault Refusal :=
  .next (refreshEnd s (gatherArrive s p m kPod) p)

/-- COPY_DIGEST_MESSAGE (R294): a digest of a shard arrives. -/
def execCopyDigestMessage (p : Part) (m : DMsg) (s : State) : Host.Outcome State Fault Refusal :=
  .next (refreshEnd s (digestArrive s p m) p)

/-- SHARD_REREQUEST_MESSAGE (R294): a shard is asked for again. -/
def execShardRerequestMessage (p : Part) (m : DMsg) (s : State) : Host.Outcome State Fault Refusal :=
  .next (rerequestArrive s p m)

/-- CHAIN_HOP_MESSAGE (R298): a chain partial arrives. -/
def execChainHopMessage (p : Part) (m : DMsg) (s : State) : Host.Outcome State Fault Refusal :=
  .next (chainArrive s p m)

/-- EXPERT_TOKEN_MESSAGE (R318): tokens of this module's router, or for a replica on it. -/
def execExpertTokenMessage (p : Part) (m : ExpMsg) (s : State) : Host.Outcome State Fault Refusal :=
  .next (expertArrive s p m.msg m.toks)

/-- SEQUENCE_BLOCK_MESSAGE (R320): a block of a sequence arrives. -/
def execSequenceBlockMessage (p : Part) (m : SeqMsg) (s : State) : Host.Outcome State Fault Refusal :=
  .next (sequenceArrive s p m.msg m.block)

/-- TWIN_TOKEN_MESSAGE (R301): the twin sends its token result. -/
def execTwinTokenMessage (p : Part) (t : Token) (s : State) : Host.Outcome State Fault Refusal :=
  .next (twinToken s p t)

/-- TWIN_MESSAGE (R302): the twin sends its digest. -/
def execTwinMessage (p : Part) (step : W64) (digest : BitVec 128) (grown : Bool) (invalid : Bool)
    (s : State) : Host.Outcome State Fault Refusal :=
  .next (twinMsg s p step.toNat digest.toNat grown invalid)

/-- TWIN_LOST (R303): the twin has not answered. -/
def execTwinLost (p : Part) (s : State) : Host.Outcome State Fault Refusal := .next (Sys2Proof.Machine.twinLost s p)

/-- HISTORY_POLL (R304): a child's report, the fabric's result from the parent, or the other fabric's from the twin. -/
def execHistoryPoll (p : Part) (src : Option Lidx) (grown : Bool) (s : State) : Host.Outcome State Fault Refusal :=
  .next (tryRound (pollMsg s p (src.map BitVec.toNat) grown) p)

/-- BISECTION_LIST_MESSAGE (R305): a list of bisection arrives. -/
def execBisectionListMessage (p : Part) (kind : BisKind) (l : List BisEnt)
    (s : State) : Host.Outcome State Fault Refusal :=
  .next (bisectList s p kind l)

/-- REPAIR_DATA_MESSAGE (R306): repaired data arrive. -/
def execRepairDataMessage (p : Part) (m : RepairItem) (s : State) : Host.Outcome State Fault Refusal :=
  .next (repairData s p m)

/-- REPAIR_ROUND_COMPLETE (R308): a round of repair ends. -/
def execRepairRoundComplete (p : Part) (digest : BitVec 128) (s : State) : Host.Outcome State Fault Refusal :=
  .next (repairRound s p digest.toNat)

/-- FAILED_RECORD_REPAIR (R309): a failed record is asked of the twin, or answered. -/
def execFailedRecordRepair (p : Part) (tid : Tid) (row : RowIx) (m : RecRepair)
    (s : State) : Host.Outcome State Fault Refusal :=
  .next (failedRepair s p tid.toNat row.toNat m)

end Sys2Proof.Machine
end

