-- ==== Sys2Proof/Machine/Rings.lean ====
section
/-! DEFINITION. Functions and rings: attributes and ENABLE, doorbells, arbitration, consumption of commands, interrupts
(R363 to R388). -/

namespace Sys2Proof.Machine

/-! ### Ring attributes (R365, R366, R504) -/

/-- Whether a ring may be written by a requester: its owning function, that function's PF, or the steward. -/
def ringRight (s : State) (w : Who) (r : Ring) : Bool :=
  match w with
  | none => true
  | some f => f.toNat == r.fn || (isPf f.toNat && pfOf r.fn == f.toNat) || granted s f.toNat

/-- The register offset of ring `n`'s entry. -/
def rngOff (n : Nat) : Nat := 0x100000 + 0x40 * n

/-- Whether a ring still holds a DMA channel: it is enabled, or descriptors of it are in progress. -/
def chanBound (s : State) (c : Nat) : Option RingNum :=
  match (getChan s c).bound with
  | none => none
  | some n =>
    let r := getRing s n.toNat
    if (r.enable && r.kind == 3 && r.link == c) || !(getChan s c).prog.isEmpty then some n else none

/-- Whether every attribute of ring `n` keeps its rule. -/
def ringOk (s : State) (n : Nat) (r : Ring) : Bool :=
  let f := getFn s r.fn
  decide (4 ≤ r.size ∧ r.size ≤ 16) && f.pv
  && (match r.kind with
    | 0 =>
      let q := getRing s r.link
      q.enable && q.kind == 1 && q.fn == r.fn && r.link != n
    | 3 =>
      let v := getChan s r.link
      decide (r.link < 256) && v.part == f.part && v.use == 0 && !v.plan
      && (match chanBound s r.link with | none => true | some m => m.toNat == n)
    | _ => decide (1 ≤ r.modc ∧ r.modc ≤ 256) && decide (r.modt ≤ 1000) && r.link == 0)
  && (r.kind == 1 || r.kind == 2 || (r.modc == 0 && r.modt == 0 && r.vec == 0)) && (r.kind == 2 || r.emask == 0)

/-- Sets ENABLE of a ring whose attributes keep their rules: both indices 0, nothing in error; it binds its channel. -/
def enableRing (s : State) (n : Nat) : State :=
  let r := { getRing s n with enHeld := false }
  if r.enable then s
  else if !ringOk s n r then
    raiseF (putRing s n r) evRngSetup 0 r.fn (some (getFn s r.fn).part) [n]
  else
    let s := putRing s n { r with
      enable := true, host := 0, dev := 0, age := 0, cur := r.cls, promoted := false, err := false, slots := 0,
      old := r.old ++ r.prog, prog := [], unrep := 0, drop := 0, dropNew := 0, grant := 0, batchAt := none }
    if r.kind = 3 then putChan s r.link { getChan s r.link with bound := some (BitVec.ofNat 14 n) } else s

/-- The attributes that a write of +0x10 names. -/
def Ring.withCtl (r : Ring) (v : Nat) : Ring :=
  { r with fn := bits 45 40 v, kind := bits 31 30 v, size := bits 29 25 v, link := bits 13 0 v }

/-- Whether a write of +0x10 changes a field that is LK. -/
def ctlChanges (r : Ring) (v : Nat) : Bool := r.withCtl v != r

/-- Whether a requester may set FN of a ring to a function: the PF of that function's port, or the steward. -/
def fnRight (s : State) (w : Who) (fn : Nat) : Bool :=
  match w with
  | none => true
  | some f => f.toNat == pfOf fn || granted s f.toNat

/-- A write of a ring's +0x10: CLASS, the LK fields while ENABLE is 0, then ENABLE. -/
def rngCtl (s : State) (w : Who) (n v : Nat) : State :=
  let r := getRing s n
  let right := if bits 45 40 v = r.fn then ringRight s w r else fnRight s w (bits 45 40 v)
  withAuth s right w (rngOff n + 0x10) fun s =>
    let s := if r.enable && ctlChanges r v then progError s w (rngOff n + 0x10) else s
    let r := getRing s n
    let r := { r with cls := bits 33 32 v, cur := if r.promoted then r.cur else bits 33 32 v }
    if bit 63 v then
      if r.enable then putRing s n r
      else
        let s := putRing s n (r.withCtl v)
        if s.pwr.mst = .boot then putRing s n { r.withCtl v with enHeld := true } else enableRing s n
    else if r.enable then putRing s n { r with enable := false, grant := 0 }
    else putRing s n { r.withCtl v with enHeld := false }

/-- RING_ENABLE: a write that sets ENABLE. -/
def ringEnable (s : State) (w : Who) (n v : Nat) : State := if bit 63 v then rngCtl s w n v else s

/-- RING_DISABLE: a write that clears ENABLE. -/
def ringDisable (s : State) (w : Who) (n v : Nat) : State := if bit 63 v then s else rngCtl s w n v

/-! ### Doorbells (R369 to R372) -/

/-- A wake begins (R438): the module is asleep, or about to be. -/
def wakeEvent (s : State) : State :=
  if s.pwr.mst = .sleep then { s with pwr := { s.pwr with waking := true, regReq := 0 } } else s

/-- The device reads the doorbell lines of rings: every enabled ring of the port whose doorbell shares a line is read
with them. -/
def readDoorbells (s : State) (f : Nat) (rings : List Nat) : State :=
  let lines := (rings.filter fun n => (getRing s n).enable).map fun n => (getRing s n).dbaddr / 64
  let hit := (s.rings.filter fun kr => kr.2.enable && decide (kr.2.fn / 32 = f / 32) && lines.contains (kr.2.dbaddr / 64)).map (·.1)
  hit.foldl (fun s n =>
    let g := (getRing s n).fn
    let v := getFn s g
    if v.dbReads.contains n then s else putFn s g { v with dbReads := v.dbReads ++ [n] }) s

/-- The enabled rings of a function. -/
def ringsOf (s : State) (f : Nat) : List Nat := (s.rings.filter fun kr => kr.2.enable && kr.2.fn == f).map (·.1)

/-- Reads the doorbells that FN_WAKE writes have named and that have waited for the module to be ready. -/
def wakeReads (s : State) (f : Nat) : State :=
  let v := getFn s f
  let rings := if v.wakeAll then ringsOf s f else v.wake.map BitVec.toNat
  readDoorbells (putFn s f { v with wakeAll := false, wake := [] }) f rings

/-- FN_WAKE (R370). -/
def fnWake (s : State) (w : Who) (f v : Nat) : State :=
  let right : Bool := match w with
    | none => true
    | some g => g.toNat == f || (isPf g.toNat && pfOf f == g.toNat) || granted s g.toNat
  withAuth s right w (0x1000 + 0x40 * (f % 32)) fun s =>
    let n := bits 13 0 v
    if !bit 31 v && (getRing s n).fn != f then progError s (some (BitVec.ofNat 6 f)) (0x1000 + 0x40 * (f % 32))
    else
      let s := wakeEvent s
      let g := getFn s f
      let g := if bit 31 v then { g with wakeAll := true }
        else if g.wake.contains (BitVec.ofNat 14 n) then g else { g with wake := g.wake ++ [BitVec.ofNat 14 n] }
      let s := putFn s f g
      if s.pwr.mst = .active ∧ !(getPort s (portOf f)).hold then wakeReads s f else s

/-- The polling interval of a function has passed (R371). -/
def pollTick (s : State) (f : Nat) : State :=
  if s.pwr.mst = .active ∧ (getFn s f).poll ≠ 0 ∧ !(getPort s (portOf f)).hold then readDoorbells s f (ringsOf s f) else s

/-- A doorbell read gives an index, or stops the ring where the index cannot be (R372). -/
def doorbellRead (s : State) (n v : Nat) : State :=
  let r := getRing s n
  let f := getFn s r.fn
  if !f.dbReads.contains n then s
  else
    let s := putFn s r.fn { f with dbReads := f.dbReads.filter (· != n) }
    if !r.enable || r.err then s
    else
      let i := v % 2 ^ 32
      let gap := if r.kind = 0 ∨ r.kind = 3 then (i + 2 ^ 32 - r.dev) % 2 ^ 32 else (r.dev + 2 ^ 32 - i) % 2 ^ 32
      if 2 ^ r.size < gap then
        raiseF (putRing s n { r with err := true }) evRngIndex 0 r.fn (some f.part) [n, i]
      else putRing s n { r with host := i }

/-! ### Arbitration (R386, R387) -/

/-- Completion slots that the submission rings bound to a completion ring have reserved. -/
def slotsHeld (s : State) (cq : Nat) : Nat :=
  (s.rings.filter fun kr => kr.2.kind == 0 && kr.2.link == cq).foldl (fun n kr => n + kr.2.slots) 0

/-- Whether the completion ring of a submission ring has a free slot. -/
def slotFree (s : State) (r : Ring) : Bool := !(getRing s r.link).full (slotsHeld s r.link)

/-- Whether a command has not yet completed. -/
def inProgress (s : State) (c : Cmd) : Bool :=
  let r := getRing s c.ring.toNat
  r.prog.contains c || r.old.contains c

/-- BATCH commands in progress of a job whose intake has not started yet. -/
def Job.batchesTaken (s : State) (j : Job) : List (Cmd × Nat) := j.taken.filter fun x => inProgress s x.1

/-- Whether a BATCH for a step waits unconsumed: its step lies beyond the intake window (R140, R373), or another intake
still fills its slot (R538). -/
def batchWaits (s : State) (p : Part) (step : Nat) : Bool :=
  match getJob s p with
  | none => false
  | some j => decide ((window s p j).2 < step) || ((j.batchesTaken s).map (·.2) ++ j.intakes.map (·.step)).any (j.sameSlot step)

/-- Whether a ring may be served: it is enabled, not stopped, its port and its function take part. -/
def serves (s : State) (r : Ring) : Bool :=
  r.enable && !r.err && !(getPort s (portOf r.fn)).hold && s.pwr.mst == .active && s.pwr.pending.isNone
  && (!(getFn s r.fn).det || (isPf r.fn && r.kind == 0))

/-- Whether a ring is ready. -/
def ringReady (s : State) (r : Ring) : Bool :=
  serves s r && decide (r.fill ≠ 0)
  && (match r.kind with
    | 0 => slotFree s r && (match r.batchAt with | some n => !batchWaits s (getFn s r.fn).part n | none => true)
    | 3 => decide ((getChan s r.link).prog.length < 4)
    | _ => false)

/-- The rings of one class in their order of service: promoted ones oldest first, then round-robin from `rr`. -/
def serviceOrder (rr : Nat) (l : List (Nat × Ring)) : List Nat :=
  let up := sortBy (fun kr => 65535 - kr.2.age) (l.filter fun kr => kr.2.promoted)
  let rest := l.filter fun kr => !kr.2.promoted
  (up ++ rest.filter (fun kr => decide (rr ≤ kr.1)) ++ rest.filter fun kr => decide (kr.1 < rr)).map (·.1)

/-- A ring receives a service: up to eight entries, one of a DMA-channel ring. -/
def serveRing (s : State) (n : Nat) : State :=
  let r := getRing s n
  putRing s n { r with cur := r.cls, promoted := false, age := 0, grant := if r.kind = 3 then 1 else 8 }

/-- A ready ring without a service ages, and moves up a class at the limit of its own. -/
def ageRing (s : State) (q : Port) (n : Nat) : State :=
  let r := getRing s n
  let a := Nat.min 65535 (r.age + 1)
  if 0 < r.cur ∧ nth 0 q.limits (r.cur - 1) ≤ a then putRing s n { r with cur := r.cur - 1, promoted := true, age := 0 }
  else putRing s n { r with age := a }

/-- One arbitration round of a port's ring engine. -/
def arbitrate (s : State) (pb : Bool) : State :=
  let q := getPort s pb
  let ready := s.rings.filter fun kr => portOf kr.2.fn == pb && ringReady s kr.2
  let picks := (List.range 4).map fun c =>
    (serviceOrder (nth 0 q.rr c) (ready.filter fun kr => kr.2.cur == c)).take (nth 0 q.weights c)
  let served := picks.flatten
  let next := (List.range 4).map fun c =>
    match (nth [] picks c).reverse.find? (fun n => !(getRing s n).promoted) with
    | some n => n + 1
    | none => nth 0 q.rr c
  let s := putPort s pb { q with rr := next }
  let s := served.foldl serveRing s
  ((ready.map (·.1)).filter fun n => !served.contains n).foldl (fun s n => ageRing s q n) s

/-! ### Consumption (R373, R374) -/

/-- The opcodes of the commands. -/
def knownOpc (opc : Nat) : Bool := jobOpc opc || tableOpc opc || opc == 0x01 || attachOpc opc

/-- A command is consumed: its completion slot is reserved and it is in progress on its ring. An opcode that names no
command completes with INVALID. -/
def consume (s : State) (n : Nat) (e : BitVec 512) : State :=
  let r := getRing s n
  let fld (hi lo : Nat) : Nat := bits hi lo e.toNat
  let f := getFn s r.fn
  let opc := fld 7 0
  if !serves s r || r.kind != 0 || r.fill == 0 || r.grant == 0 || !slotFree s r || (f.det && !(opc == 0x18 || opc == 0x19)) then s
  else if opc = 0x01 ∧ f.pv ∧ batchWaits s f.part (fld 223 160) then
    putRing s n { r with batchAt := some (fld 223 160), grant := 0 }
  else
    let c : Cmd := { fn := BitVec.ofNat 6 r.fn, ring := BitVec.ofNat 14 n, idx := r.dev, tag := fld 31 16, opc := opc,
                     nocq := bit 1 (fld 15 8), fence := bit 0 (fld 15 8) }
    let s := if opc = 0x01 ∧ f.pv then modJob s f.part fun j => { j with taken := j.batchesTaken s ++ [(c, fld 223 160)] } else s
    let s := putRing s n { r with
      dev := (r.dev + 1) % 2 ^ 32, slots := r.slots + 1, prog := r.prog ++ [c], grant := r.grant - 1, batchAt := none }
    if knownOpc opc then s else rejectCmd s c evProgError stInvalid [n, opc]

/-! ### Interrupts (R381) -/

/-- Whether a ring's moderation lets its vector be raised. -/
def interruptDue (s : State) (r : Ring) : Bool :=
  r.enable && (r.kind == 1 || r.kind == 2) && decide (0 < r.unrep)
  && (decide (r.modc ≤ r.unrep) || decide (r.unrepAt + 1000 * r.modt ≤ s.tim.now))

/-- A ring raises its vector: the entries of every ring of the function that shares it are reported. -/
def interruptRaise (s : State) (n : Nat) : State :=
  let r := getRing s n
  if interruptDue s r && !(getPort s (portOf r.fn)).hold then
    let s := { s with irqs := (r.fn, r.vec) :: s.irqs }
    (s.rings.filter fun kr => kr.2.fn == r.fn && kr.2.vec == r.vec && (kr.2.kind == 1 || kr.2.kind == 2)).foldl
      (fun s kr => putRing s kr.1 { getRing s kr.1 with unrep := 0 }) s
  else s

end Sys2Proof.Machine
end

