-- ==== Sys2Proof/Machine/Hosts.lean ====
section
/-! DEFINITION. Partitions of functions, aborts, function-level resets, host-loss hold, the reattach summary, ATTACH and
ADOPT (R361 to R364, R389 to R398, R424, R425, R503). -/

namespace Sys2Proof.Machine

/-! ### Partitions (R363, R364, R394, R503) -/

/-- The register offset of a function's FN_CFG. -/
def cfgOff (f : Nat) : Nat := 0x1010 + 0x40 * (f % 32)

/-- PARTITION_ASSIGN: a write of FN_CFG by the PF of the function's port. The first PF to assign a function to a partition
becomes the partition's controlling PF; a function of an adopted partition stays unassigned until its release. -/
def partitionAssign (s : State) (w : Who) (f v : Nat) : State :=
  let right : Bool := match w with | none => true | some g => g.toNat == pfOf f || granted s g.toNat
  withAuth s right w (cfgOff f) fun s =>
    let x := getFn s f
    let x := if isPf f then x else { x with tgrant := bit 8 v }
    let p := bits 1 0 v
    if x.pv then
      let s := putFn s f x
      if !bit 2 v || p != x.part.toNat then progError s w (cfgOff f) else s
    else
      let owner := nth 255 s.pctl p
      if bit 2 v ∧ x.adopter ≠ 255 then progError (putFn s f x) w (cfgOff f)
      else
        let s := putFn s f { x with part := BitVec.ofNat 2 p, pv := bit 2 v }
        if bit 2 v ∧ owner = 255 then { s with pctl := setNth s.pctl p (pfOf f) } else s

/-- FN_RELEASE: a write of FN_REL by the controlling PF of the function's partition. -/
def fnRelease (s : State) (w : Who) (v : Nat) : State :=
  let f := bits 5 0 v
  let x := getFn s f
  let pf : Bool := match w with | none => true | some g => isPf g.toNat || granted s g.toNat
  withAuth s pf w 0x1F00 fun s =>
    let mine : Bool := match w with | none => true | some g => x.adopter == g.toNat || granted s g.toNat
    if !bit 8 v then s
    else if x.adopter ≠ 255 ∧ mine then putFn s f { x with adopter := 255 }
    else if x.pv && partOk s w x.part.toNat then putFn s f { x with pv := false, part := 0, det := false }
    else progError s w 0x1F00

/-! ### Aborts (R396 to R398, R425) -/

/-- Whether a waiting table operation belongs to a command. -/
def TblOp.cmd (o : TblOp) : Cmd :=
  match o with
  | .define _ c => c
  | .release _ c => c
  | .place _ c => c
  | .param _ _ _ _ c => c

/-- The work of a command in progress ends as its own chapter states, without its completion. -/
def undoWork (s : State) (p : Part) (c : Cmd) : State :=
  let tids := (tblsOf s p).map (·.desc.tid)
  match c.opc with
  | 0x01 => modJob s p fun j => { j with intakes := j.intakes.filter fun i => i.cmd != c }
  | 0x07 => tids.foldl (fun s t => match getTbl s p t with
      | some v => match v.staged with
        | some g => if g.commit = some c then dropCommit s p t stAborted else s
        | none => s
      | none => s) s
  | 0x08 => tids.foldl (fun s t => match getTbl s p t with
      | some v => match v.exp with
        | some x => if x.cmd = c then exportEnd s p t stAborted else s
        | none => s
      | none => s) s
  | 0x09 => tids.foldl (fun s t => modTbl s p t fun v =>
      { v with flushes := v.flushes.filter fun f => f.1 != c }) s
  | 0x10 => match getJob s p with
    | some j =>
      if j.loadCmd = some c then
        match j.prev with
        | some old =>
          keepPlan (modJob s p fun j =>
            { j with plan := old, prev := none, loadCmd := none, phase := .held, kind := .steady }) p old
        | none => dropJob s p
      else s
    | none => s
  | 0x12 => modJob s p fun j => { j with cmds := { j.cmds with pause := j.cmds.pause.erase c } }
  | 0x13 => modJob s p fun j =>
      if j.cmds.resume = some c then
        { j with cmds := { j.cmds with resume := none }, resuming := false, readyOwn := false, resTree := {}, phase := .held,
                 kind := .steady, loadCmd := none }
      else j
  | 0x14 => modTwin s p fun w => if w.cmd = some c then { w with cmd := none } else w
  | 0x18 => modJob s p fun j => { j with cmds := { j.cmds with abort := j.cmds.abort.erase c } }
  | _ => { s with tblOps := s.tblOps.filter fun o => o.2.cmd != c }

/-- Whether a re-shard command is in progress: it ends by its vote (R331). -/
def isReshard (s : State) (p : Part) (c : Cmd) : Bool :=
  match getJob s p with
  | some j => match j.reshard with | some r => r.cmd == c | none => false
  | none => false

/-- A command ends with ABORTED, or a re-shard as R331 states. -/
def abortCmd (s : State) (c : Cmd) : State :=
  let p := partOf s c.fn
  if isReshard s p c then reshardAbort s p
  else
    let s := undoWork s p c
    if inProgress s c then complete s c stAborted 0 0 0 else s

/-- Ends the entries of a ring that are consumed and not completed, but for the aborting command: how many. -/
def abortEntries (s : State) (n : Nat) (by' : Cmd) : State × Nat :=
  let r := getRing s n
  if r.kind = 3 then
    let k := (getChan s r.link).prog.length
    (endRuns s r.link stAborted, k)
  else
    let l := (r.old ++ r.prog).filter fun c => c != by' && c.fn.toNat == r.fn
    (l.foldl abortCmd s, l.length)

/-- A ring stops: its entries end with ABORTED and ENABLE clears. -/
def stopRing (s : State) (n : Nat) (by' : Cmd) : State × Nat :=
  let o := abortEntries s n by'
  (putRing o.1 n { getRing o.1 n with enable := false, grant := 0 }, o.2)

/-- Whether the issuer of an ABORT may act on a ring: a VF on its own, a PF on those of its port. -/
def abortRight (c : Cmd) (owner : Nat) : Bool :=
  c.fn.toNat == owner || (isPf c.fn.toNat && pfOf owner == c.fn.toNat)

/-- An ABORT without the right to its target. -/
def abortRefused (s : State) (c : Cmd) : State := rejectCmd s c evCmdRights stInvalid [c.ring.toNat, c.opc]

/-- ABORT of one command. -/
def abortOne (s : State) (c : Cmd) (n tag : Nat) : State :=
  let r := getRing s n
  if !abortRight c r.fn then abortRefused s c
  else
    match (r.old ++ r.prog).find? (fun x => x.tag == tag && x != c) with
    | some x => complete (abortCmd s x) c stDone 1 0 0
    | none => complete s c stDone 0 0 0

/-- ABORT of a ring; the completion reports the ring's consumer index. -/
def abortRingCmd (s : State) (c : Cmd) (n : Nat) : State :=
  let r := getRing s n
  if !abortRight c r.fn then abortRefused s c
  else
    let o := stopRing s n c
    completeAt o.1 c (getRing o.1 n).dev stDone o.2 0 0

/-- Outstanding host reads of a function are discarded. -/
def discardReads (s : State) (f : Nat) : State :=
  let x := getFn s f
  let q := getPort s (portOf f)
  let fn : FnNum := BitVec.ofNat 6 f
  let gone := q.reads.filter (· == fn) ++ (if x.dbReads.isEmpty then [] else [fn])
  putPort (putFn s f { x with dbReads := [] }) (portOf f)
    { q with reads := q.reads.filter (· != fn), discarded := q.discarded ++ gone }

/-- Whether a ring serves or has entries that are consumed and not completed. -/
def ringBusy (s : State) (n : Nat) (r : Ring) : Bool :=
  r.enable || !r.prog.isEmpty || !r.old.isEmpty
  || (r.kind == 3 && (getChan s r.link).bound == some (BitVec.ofNat 14 n) && !(getChan s r.link).prog.isEmpty)

/-- Every ring of a function stops, its host reads are discarded, and the step of a job it loaded is abandoned. -/
def abortFn (s : State) (f : Nat) (by' : Cmd) : State × Nat :=
  let o := (s.rings.filter fun kr => kr.2.fn == f && ringBusy s kr.1 kr.2).foldl (fun acc kr =>
    let o := stopRing acc.1 kr.1 by'
    (o.1, acc.2 + o.2)) (s, 0)
  let left := o.1.rings.flatMap fun kr => kr.2.old.filter fun c => c != by' && c.fn.toNat == f
  let s := discardReads (left.foldl abortCmd o.1) f
  let s := (List.range 4).foldl (fun s p =>
    let q : Part := BitVec.ofNat 2 p
    match getJob s q with
    | some j => if j.owner.toNat = f ∧ j.phase = .running then abandonCause s q else s
    | none => s) s
  (s, o.2 + left.length)

/-- ABORT of a function: one of the issuer's port, or of a port in host-loss hold. -/
def abortFnCmd (s : State) (c : Cmd) (f : Nat) : State :=
  let ok := isPf c.fn.toNat && (pfOf f == c.fn.toNat || (getPort s (portOf f)).hold)
  if !ok then abortRefused s c
  else
    let o := abortFn s f c
    complete o.1 c stDone o.2 0 0

/-- ABORT of the partition's job: its step is abandoned; the command completes when the job holds. -/
def abortJobCmd (s : State) (c : Cmd) : State :=
  let p := partOf s c.fn
  if !isPf c.fn.toNat then abortRefused s c
  else
    match getJob s p with
    | none => complete s c stDone 0 0 0
    | some j =>
      if j.phase = .held ∨ j.phase = .testing then complete s c stDone 0 0 0
      else modJob (abandonCause s p) p fun j => { j with cmds := { j.cmds with abort := j.cmds.abort ++ [c] } }

/-! ### Function-level reset (R389, R517) -/

/-- The reset state of a ring: its attributes and indices at reset, the commands still to end kept apart. -/
def resetRing (r : Ring) : Ring := { fn := 0, old := r.old ++ r.prog }

/-- The rings of a function return to their reset values. -/
def resetRings (s : State) (f : Nat) : State :=
  (s.rings.filter fun kr => kr.2.fn == f).foldl (fun s kr => putRing s kr.1 (resetRing (getRing s kr.1))) s

/-- One function: abort, then its FN_ and RNG_ entries at reset. -/
def resetFn (s : State) (f : Nat) : State :=
  let s := (abortFn s f { fn := BitVec.ofNat 6 f, ring := 0x3FFF, idx := 2 ^ 32 }).1
  let s := resetRings s f
  putFn s f { noring := (getFn s f).noring, adopter := (getFn s f).adopter }

/-- FUNCTION_LEVEL_RESET: a PF reset also resets its VFs. -/
def functionReset (s : State) (f : Nat) : State :=
  if isPf f then (List.range 32).foldl (fun s i => resetFn s (f + i)) s else resetFn s f

/-! ### Host-loss hold (R390 to R392, R424) -/

/-- The rings of a port's functions that belong to a partition, as the summary records them. -/
def ringRecords (s : State) (pb : Bool) : List RingRec :=
  (s.rings.filter fun kr => portOf kr.2.fn == pb && (getFn s kr.2.fn).pv && kr.2.enable).map fun kr =>
    { ring := BitVec.ofNat 14 kr.1, part := (getFn s kr.2.fn).part, kind := kr.2.kind, err := kr.2.err, dev := kr.2.dev,
      host := kr.2.host }

/-- Functions of a port. -/
def portFns (pb : Bool) : List Nat := (List.range 32).map (· + 32 * b2n pb)

/-- The intakes of a port's functions are cut: their slots undefined, their commands kept with HOSTLOSS. -/
def cutIntakes (s : State) (pb : Bool) : State :=
  (List.range 4).foldl (fun s k =>
    let p : Part := BitVec.ofNat 2 k
    match getJob s p with
    | none => s
    | some j =>
      (j.intakes.filter fun i => portOf i.cmd.fn.toNat == pb).foldl (fun s i =>
        let s := scramble s (slotBase j.plan i.step) i.len
        complete (modJob s p fun j => { j with intakes := j.intakes.erase i }) i.cmd stHostloss 0 0 0) s) s

/-- Host-loss hold begins on a port (R390). -/
def hostLoss (s : State) (pb : Bool) : State :=
  let q := getPort s pb
  if q.hold ∨ !q.up then putPort s pb { q with up := false }
  else
    let seals := (List.range 4).foldl (fun t p => tabSet t p (sealOrNone (lastSealOf s (BitVec.ofNat 2 p)))) []
    let recs := ringRecords s pb
    let chans := (List.range 256).filter fun c => (getChan s c).bound.isSome && chanPort s c == pb
    let srcs := chans.flatMap fun c => ((getChan s c).prog.filter fun r => r.started && !r.complete && dSrch r.d).map fun _ =>
      (BitVec.ofNat 6 (chanFn s c) : FnNum)
    let s := putPort s pb { q with
      up := false, hold := true, holdStart := s.tim.now, holdSeal := seals, kept := [], keptRings := recs, evBuf := [],
      evDropped := false, evDropCount := 0, discarded := q.discarded ++ srcs }
    let s := (portFns pb).foldl (fun s f =>
      let s := discardReads s f
      let x := getFn s f
      if x.pv then putFn s f { x with det := true } else s) s
    let s := chans.foldl (fun s c => endRuns (cutRuns s c) c stHostloss) s
    let s := cutIntakes s pb
    let s := (s.rings.filter fun kr => portOf kr.2.fn == pb).foldl (fun s kr => putRing s kr.1 { getRing s kr.1 with grant := 0 }) s
    raiseM s evPrtHostloss [b2n pb]

/-- HOST_LOSS_HOLD: the cause of a loss acts on the port; PERST# also holds the port in reset (R525). -/
def hostLossCause (s : State) (pb : Bool) (cause : LossCause) : State :=
  match cause with
  | .perst => hostLoss (putPort s pb { getPort s pb with perst := true }) pb
  | _ => hostLoss s pb

/-- A port trains: after a loss its registers hold their reset values, but for PART, PV and TGRANT of detached functions
(R361, R392). -/
def portTrained (s : State) (pb : Bool) (rate width : Nat) : State :=
  let q := getPort s pb
  if q.perst ∨ width = 0 ∨ 16 < width ∨ rate = 0 ∨ 6 < rate ∨ s.pwr.mst = .off ∨ s.pwr.mst = .unpowered
      ∨ (s.pwr.mst = .sleep ∧ q.hold) then s
  else
    let s := if q.hold then
        (portFns pb).foldl (fun s f =>
          let x := getFn s f
          putFn (resetRings s f) f
            (if x.det then { pv := x.pv, part := x.part, tgrant := x.tgrant, det := true, noring := x.noring,
                               adopter := x.adopter }
             else { noring := x.noring, adopter := x.adopter })) s
      else s
    let q := getPort s pb
    let q := if q.hold then { q with weights := [8, 4, 2, 1], limits := [32, 64, 128], rr := [0, 0, 0, 0], hold := false } else q
    let s := putPort s pb { q with up := true, rate := rate, width := width }
    let s := if pb then { s with winB := {} } else { s with winA := {} }
    if rate < 6 ∨ width < 16 then raiseM s evPrtDegraded [b2n pb, rate, width] else s

/-- A retrain that keeps the data link layer up is counted (R362). -/
def portRetrain (s : State) (pb : Bool) : State :=
  let q := getPort s pb
  if q.up then putPort s pb { q with retrain := (q.retrain + 1) % 2 ^ 48 } else s

/-- A completion arrives for a host read: one whose read was discarded is dropped and counted (R390). -/
def readCompletion (s : State) (pb : Bool) (f : FnNum) : State :=
  let q := getPort s pb
  if q.discarded.contains f then
    putPort s pb { q with discarded := q.discarded.erase f, latedrop := (q.latedrop + 1) % 2 ^ 48 }
  else s

/-- An inbound request that the port does not support completes with Unsupported Request (R361). -/
def unsupported (s : State) : State := { s with rsp := .unsupported }

/-! ### The reattach summary (R393 to R395) -/

/-- A ring record. -/
def RingRec.bytes (r : RingRec) : List Byte :=
  bytesOf 2 r.ring.toNat ++ bytesOf 1 r.kind ++ bytesOf 1 (b2n r.err) ++ bytesOf 4 r.dev ++ bytesOf 4 r.host ++ bytesOf 20 0

/-- An entry record. -/
def Kept.bytes (k : Kept) : List Byte :=
  bytesOf 2 k.ring.toNat ++ bytesOf 1 (b2n k.isDesc) ++ bytesOf 1 k.status ++ bytesOf 4 k.idx ++ bytesOf 2 k.tag ++ bytesOf 6 0
  ++ bytesOf 8 k.a ++ bytesOf 8 k.b

/-- Whether a buffered event belongs to a partition's summary: its own events and the module-wide ones. -/
def evOf (p : Part) (e : Event) : Bool := match e.part with | some q => q == p | none => true

/-- The summary of a lost port for one partition, with the buffered events. -/
def summary (s : State) (pb : Bool) (p : Part) : List Byte :=
  let q := getPort s pb
  let rs := q.keptRings.filter fun r => r.part == p
  let ks := q.kept.filter fun k => k.part == p
  let es := q.evBuf.filter (evOf p)
  let held := match getJob s p with
    | some j => if j.phase = .held then sealOrNone j.lastSeal else 0xFFFFFFFFFFFFFFFF
    | none => 0xFFFFFFFFFFFFFFFF
  let len := 64 + 32 * rs.length + 32 * ks.length + 64 * es.length
  bytesOf 2 1 ++ bytesOf 1 (b2n pb) ++ bytesOf 1 p.toNat ++ bytesOf 4 rs.length ++ bytesOf 4 ks.length
  ++ bytesOf 4 (es.length + 2 ^ 31 * b2n q.evDropped) ++ bytesOf 8 q.holdStart
  ++ bytesOf 8 (tabGet 0xFFFFFFFFFFFFFFFF q.holdSeal p.toNat) ++ bytesOf 8 held ++ bytesOf 8 len ++ bytesOf 16 0
  ++ rs.flatMap RingRec.bytes ++ ks.flatMap Kept.bytes ++ es.flatMap fun e => padTo 0 64 e.bytes

/-- The functions of a port in a partition that are detached. -/
def detached (s : State) (pb : Bool) (p : Part) : List Nat :=
  (portFns pb).filter fun f => (getFn s f).det && (getFn s f).pv && (getFn s f).part == p

/-- Delivers the summary of a lost port to a host buffer and drops it; none where the buffer is too small. -/
def deliverSummary (s : State) (c : Cmd) (pb : Bool) (p : Part) (addr size : Nat) : Option State :=
  let b := summary s pb p
  if size < b.length then none
  else
    let s := hostWrite s (portOf c.fn.toNat) addr b false
    let q := getPort s pb
    some (putPort s pb { q with
      kept := q.kept.filter (fun k => k.part != p), keptRings := q.keptRings.filter (fun r => r.part != p),
      evBuf := q.evBuf.filter fun e => !evOf p e })

/-- ATTACH (R393). -/
def attachCmd (s : State) (c : Cmd) (p : Part) (addr size : Nat) : State :=
  let pb := portOf c.fn.toNat
  let fs := detached s pb p
  if fs.isEmpty ∨ size % 64 ≠ 0 then rejectCmd s c evProgError stInvalid [c.ring.toNat]
  else
    match deliverSummary s c pb p addr size with
    | none =>
      let n := (summary s pb p).length
      complete (raiseF s evProgError stInvalid c.fn.toNat (some (partOf s c.fn)) [c.ring.toNat]) c stInvalid n 0 0
    | some t =>
      let t := fs.foldl (fun s f => putFn s f { getFn s f with det := false }) t
      complete t c stDone (summary s pb p).length 0 0

/-- ADOPT (R394). -/
def adoptCmd (s : State) (c : Cmd) (p : Part) (addr size : Nat) : State :=
  let pb := !portOf c.fn.toNat
  let fs := detached s pb p
  if fs.isEmpty ∨ size % 64 ≠ 0 then rejectCmd s c evProgError stInvalid [c.ring.toNat]
  else
    match deliverSummary s c pb p addr size with
    | none =>
      let n := (summary s pb p).length
      complete (raiseF s evProgError stInvalid c.fn.toNat (some (partOf s c.fn)) [c.ring.toNat]) c stInvalid n 0 0
    | some t =>
      let t := { t with pctl := setNth t.pctl p.toNat c.fn.toNat }
      let t := fs.foldl (fun s f =>
        putFn s f { getFn s f with det := false, pv := false, part := 0, tgrant := false,
                                          adopter := c.fn.toNat }) t
      complete t c stDone (summary s pb p).length 0 0

end Sys2Proof.Machine
end

