-- ==== Sys2Proof/Machine/Windows.lean ====
section
/-! DEFINITION. The device-memory windows of the ports, the semaphores, and the grant of a stalled class (R123, R126,
R129, R130, R368, R418, R501, R514). -/

namespace Sys2Proof.Machine

/-! ### The windows (R418, R501) -/

/-- The device address of offset `o` of a function's window. -/
def windowAddr (s : State) (f o : Nat) : Nat := (getFn s f).winbase + o

/-- The size of a function's window. -/
def windowSize (f : Nat) : Nat := if isPf f then 2 ^ 34 else 2 ^ 30

/-- Whether a device range lies in the table directory of a partition. -/
def inDirectory (s : State) (p : Part) (a n : Nat) : Bool :=
  nth 0 s.tdir p.toNat != 0 && overlaps a n (nth 0 s.tdir p.toNat) 0x20000000

/-- Whether a range is a target that a function may reach through its window. -/
def windowOk (s : State) (f o n : Nat) (write : Bool) : Bool :=
  let v := getFn s f
  let a := windowAddr s f o
  v.pv && decide (o + n ≤ windowSize f)
  && ((isPf f && decide (a + n ≤ t0End)) || inTier s v.part 1 a n || inTier s v.part 2 a n)
  && !(write && inDirectory s v.part a n)

/-- Whether a range touches a ring shadow or the veto-token staging area, which only their engines write: another write is
ignored and raises a programming error (R257, R368). -/
def engineArea (a n : Nat) : Bool := overlaps a n dualBase 0x40000 || overlaps a n tokBase 0x8000

/-- Whether the window of a function serves. -/
def windowServes (s : State) (f : Nat) : Bool := s.pwr.mst == .active && !(getPort s (portOf f)).hold

/-- The read buffer of a port's window. -/
def getWin (s : State) (pb : Bool) : WinBuf := if pb then s.winB else s.winA
def putWin (s : State) (pb : Bool) (b : WinBuf) : State := if pb then { s with winB := b } else { s with winA := b }

/-- A write drops the buffered granules of the 4 KiB that it touches. -/
def dropBuffer (s : State) (pb : Bool) (a n : Nat) : State :=
  putWin s pb { lines := (getWin s pb).lines.filter fun l => !(blocksOf a n).contains (64 * l.1 / 4096 * 4096) }

/-- A failed window access raises a programming error of its function. -/
def windowFail (s : State) (f : Nat) (a : Nat) : State :=
  raiseF s evProgError 0 f (if (getFn s f).pv then some (getFn s f).part else none) [a]

/-- HOST_WINDOW_WRITE: a write through BAR2. -/
def windowWrite (s : State) (f o : Nat) (bs : List Byte) : State :=
  let a := windowAddr s f o
  let pb := portOf f
  if !windowServes s f then s
  else if !windowOk s f o bs.length true || engineArea a bs.length then windowFail s f a
  else
    let s := dropBuffer (spdAccess s a bs.length true) pb a bs.length
    wr (portBytes s (getFn s f).part pb bs.length false) a bs

/-- Whether the read buffer of a port holds a granule. -/
def buffered (s : State) (pb : Bool) (g : Nat) : Bool := (getWin s pb).lines.any fun l => l.1 == g

/-- Fetches a granule into the read buffer, the oldest giving way beyond 64 KiB; one that cannot be read stays out of it. -/
def fetchGranule (s : State) (pb : Bool) (g : Nat) : State :=
  if buffered s pb g then s
  else
    let s := spdAccess s (64 * g) 64 false
    if poisoned s (64 * g) 64 then s
    else
      let l := (getWin s pb).lines ++ [(g, (memAfter s).read (64 * g) 64)]
      putWin s pb { lines := l.drop (l.length - 1024) }

/-- The bytes of a range as the window gives them. -/
def windowBytes (s : State) (pb : Bool) (a n : Nat) : List Byte :=
  (List.range n).map fun i =>
    match (getWin s pb).lines.find? (fun l => l.1 == (a + i) / 64) with
    | some l => nth 0 l.2 ((a + i) % 64)
    | none => (memAfter s).get (a + i)

/-- HOST_WINDOW_READ: served from the read buffer; what it does not hold is fetched, up to 4 KiB beyond the address. -/
def windowRead (s : State) (f o n : Nat) : State :=
  let a := windowAddr s f o
  let pb := portOf f
  if !windowServes s f then { s with rsp := .completerAbort }
  else if !windowOk s f o n false then { windowFail s f a with rsp := .completerAbort }
  else
    let s := portBytes s (getFn s f).part pb n true
    let want := (granulesOf a n).filter fun g => !buffered s pb (g / 64)
    let s := want.foldl (fun s g => spdAccess s g 64 false) s
    let bad := want.any fun g => poisoned s g 64
    let more := if want.isEmpty then [] else (granulesOf a 4096).filter fun g =>
      windowOk s f (o + (g - a)) (if a ≤ g then 64 else n) false && !anyOff s g 64
    let bs := windowBytes s pb a n
    let s := if bad then s else more.foldl (fun s g => fetchGranule s pb (g / 64)) s
    { s with rsp := if bad then .poisoned bs else .bytes bs }

/-! ### Semaphores (R129) -/

/-- The address of a semaphore. -/
def semAddr (i : BitVec 12) : Nat := semBase + 8 * i.toNat

/-- The word of a semaphore. -/
def semGet (s : State) (i : BitVec 12) : Nat := s.mem.readNat (semAddr i) 8

/-- Stores a semaphore's word. -/
def semPut (s : State) (i : BitVec 12) (v : Nat) : State := wrNow s (semAddr i) (bytesOf 8 v)

/-- A semaphore operation that reads returns the word as it was before it; where it cannot be read, the operation ends
in a data abort (R130, R131). -/
def semOp (s : State) (i : BitVec 12) : State :=
  let s := spdAccess s (semAddr i) 8 false
  { s with rsp := if poisoned s (semAddr i) 8 then .dataAbort else .data (semGet s i) }

/-- Stores the new word of a semaphore behind a read of it; a data abort leaves the word as it is. -/
def semSwap (s : State) (i : BitVec 12) (v : Nat) : State :=
  let t := semOp s i
  if t.rsp = .dataAbort then t else semPut t i v

/-- SEMAPHORE_READ. -/
def semRead (s : State) (i : BitVec 12) : State := semOp s i

/-- SEMAPHORE_WRITE. -/
def semWrite (s : State) (i : BitVec 12) (v : W64) : State := semPut (spdAccess s (semAddr i) 8 true) i v.toNat

/-- SEMAPHORE_FETCH_ADD: adds a signed 32-bit operand, modulo 2^64. -/
def semAdd (s : State) (i : BitVec 12) (v : W32) : State := semSwap s i (pat 64 ((semGet s i : Int) + v.toInt))

/-- SEMAPHORE_COMPARE_SWAP: stores the new word where the semaphore holds the old one. -/
def semCas (s : State) (i : BitVec 12) (old new : W64) : State :=
  if semGet s i = old.toNat then semSwap s i new.toNat else semOp s i

/-! ### Arbitration (R123) -/

/-- The stall streak of a class at a bank. -/
def streak (s : State) (bank cls : Nat) : Nat := tabGet 0 s.streaks (8 * bank + cls)

/-- The class that a bank grants among those that request it: the highest of those whose streak has reached 16, else the
highest. -/
def bankWinner (s : State) (bank : Nat) (cs : List Nat) : Option Nat :=
  (cs.find? fun c => decide (16 ≤ streak s bank c)).or cs.head?

/-- The classes that a mask names, highest priority first (R122). -/
def classesOf (req : BitVec 7) : List Nat := (List.range 7).filter fun c => bit c req.toNat

/-- A class loses at a bank: its streak rises, and it stalls for one cycle, counted at the bank and at a class of one
unit. -/
def loseBank (s : State) (bank cls : Nat) : State :=
  let s := count { s with streaks := tabMod 0 s.streaks (8 * bank + cls) (· + 1) } blkSpd 1 2 1 {}
  if cls = 0 then count s blkArr 1 2 1 {} else if cls = 2 then count s blkVec 1 2 1 {} else s

/-- One cycle of a bank port at which classes request it. -/
def bankCycle (s : State) (bank : Nat) (req : BitVec 7) : State :=
  match bankWinner s bank (classesOf req) with
  | none => s
  | some w =>
    let s := ((classesOf req).filter (· != w)).foldl (fun s c => loseBank s bank c) s
    { s with streaks := tabErase s.streaks (8 * bank + w), granted := some (bank, w) }

/-- STALL_STREAK_GRANT: the cycles in which classes have requested a bank, up to the one that it grants by a streak. -/
def streakGrant (s : State) (bank : Nat) (reqs : List (BitVec 7)) : State :=
  reqs.foldl (fun s r => bankCycle s bank r) s

end Sys2Proof.Machine
end

