-- ==== Sys2Proof/Machine/Power.lean ====
section
/-! DEFINITION. Module states, boot, sleep and off, the power and thermal limits, the housekeeping controller
(R427 to R444, R524 to R528). -/

namespace Sys2Proof.Machine

/-! ### Loss of everything below the always-on domain (R433, R439, R440, R517) -/

/-- The node address and the roll call, which the always-on domain keeps. -/
def keptFab (f : Fab) : Fab :=
  { fab := f.fab, pod := f.pod, slot := f.slot, fixed := f.fixed, podW := f.podW, roll := f.roll, pulses := f.pulses,
    chainOut := f.chainOut, wave := f.wave, announce := f.announce, given := f.given }

/-- Time and the calendar, which the always-on domain keeps. -/
def keptTime (t : Time) : Time :=
  { now := t.now, rem := t.rem, utc := t.utc, valid := t.valid, calValid := t.calValid, syncLost := t.syncLost }

/-- What fuses and the boot NOR flash keep. -/
def keptSec (c : Sec) : Sec :=
  { otp := c.otp, sigBlocks := c.sigBlocks, bankA := c.bankA, bankB := c.bankB, selB := c.selB, factory := c.factory,
    cert := c.cert, signNext := c.signNext }

/-- Every switched domain is off: T0, T1, T2 and every memory of the units are lost, every register below the always-on
domain is at its reset value. Only T3, the lifetime counts and what the always-on domain keeps remain. -/
def dark (s : State) (st : ModState) : State :=
  let g := s.free
  { pending := s.pending
    free := s.free + 1
    mem := s.mem.lose g
    arr := { scale := s.arr.scale.lose g, acc := s.arr.acc.lose g, plain := s.arr.plain.lose g,
             trans := s.arr.trans.lose g, duty := if s.pwr.brake then 4 else 16 }
    vec := { tile := s.vec.tile.lose g, lane := s.vec.lane.lose g, mask := s.vec.mask.lose g, poly := s.vec.poly.lose g }
    irqs := s.irqs
    tx := s.tx
    evLog := s.evLog
    rsp := s.rsp
    portA := { perst := s.portA.perst }
    portB := { perst := s.portB.perst }
    pwr := { mst := st, refclk := s.pwr.refclk, brake := s.pwr.brake, trip := s.pwr.trip, tripCause := s.pwr.tripCause,
             tripNew := s.pwr.tripNew, bootAt := s.pwr.bootAt }
    tim := keptTime s.tim
    fabr := keptFab s.fabr
    flash := { s.flash with map := [], ready := false }
    wear := s.wear
    rates := State.reset.rates
    alm := s.alm
    almA := s.almA
    almB := s.almB
    almDst := s.almDst
    almLen := s.almLen
    almDone := s.almDone
    sec := keptSec s.sec }

/-- Boot starts, from off or from unpowered (R434). -/
def bootStart (s : State) (offBoot : Bool) : State :=
  { s with
    pwr := { s.pwr with mst := .boot, bootAt := s.tim.now, refOff := false }
    alm := if offBoot then { s.alm with boots := s.alm.boots + 1 } else s.alm
    isl := { s.isl with live := { s.isl.live with winStart := s.tim.now } } }

/-- The module turns off because of a trip (R442). -/
def trip (s : State) (cause : Nat) : State :=
  if s.pwr.mst = .off ∨ s.pwr.mst = .unpowered then s
  else
    let s := dark s .off
    { s with pwr := { s.pwr with trip := true, tripCause := cause, tripNew := true } }

/-! ### 54 V, REFCLK and the boot command (R434, R440, R524, R526) -/

/-- POWER_54V_IN_RANGE: the always-on domain starts. -/
def voltsIn (s : State) : State :=
  if s.pwr.mst = .unpowered then bootStart { s with alm := { s.alm with cycles := s.alm.cycles + 1 } } false else s

/-- The newer written copy of the Almanac. -/
def newerCopy (s : State) : Almanac :=
  ((if copySeq s.almA ≤ copySeq s.almB then s.almB else s.almA).or s.almA).getD {}

/-- POWER_54V_LOSS: the always-on domain goes too; the counts go back to the newer written copy (R440, R446, R449). -/
def voltsOut (s : State) : State :=
  if s.pwr.mst = .unpowered then s
  else
    let d := dark s .unpowered
    let m := newerCopy s
    let valid := s.almA.isSome || s.almB.isSome
    { d with
      pwr := { mst := .unpowered, refclk := s.pwr.refclk, brake := s.pwr.brake }
      tim := {}
      fabr := { given := s.fabr.given }
      alm := m
      wear := { s.wear with c := m.credit, cValid := valid, odPages := 0, odTab := 0 }
      almDst := 0, almLen := 0, almDone := false }

/-- MGMT_BOOT: the boot command of the management port, in off or after a boot that has failed. -/
def mgmtBoot (s : State) : State :=
  if s.pwr.mst = .off then bootStart s true
  else if s.pwr.mst = .boot ∧ s.pwr.bootFailed then bootStart (dark s .boot) true
  else s

/-- REFCLK_LOSS. -/
def refLoss (s : State) : State :=
  let gone (s : State) (off : Bool) : State := { s with pwr := { s.pwr with refclk := false, refOff := off } }
  match s.pwr.mst with
  | .active => gone (dark s .off) true
  | .sleep => gone (dark s .off) true
  | .boot => gone (dark s .boot) false
  | _ => gone s s.pwr.refOff

/-- REFCLK_RETURN: a module that its loss has turned off boots. -/
def refReturn (s : State) : State :=
  let again := s.pwr.refOff && s.pwr.mst == .off
  let s := { s with pwr := { s.pwr with refclk := true, refOff := false } }
  if again then bootStart s true else s

/-! ### PERST# (R525) -/

/-- A wake of a module that sleeps begins; PERST# of a port also starts its hold (R438). -/
def perstLow (s : State) (pb : Bool) : State :=
  let low (s : State) : State := putPort s pb { getPort s pb with perst := true }
  match s.pwr.mst with
  | .active => hostLossCause s pb .perst
  | .sleep => wakeEvent (hostLossCause s pb .perst)
  | .boot =>
    let s := (portFns pb).foldl (fun s f => putFn (resetRings s f) f { noring := (getFn s f).noring }) (low s)
    let q := getPort s pb
    putPort s pb { perst := true, retrain := q.retrain, latedrop := q.latedrop, retryStatus := q.retryStatus }
  | _ => low s

/-- PERST_RELEASE: a rise while the module is off starts boot. -/
def perstHigh (s : State) (pb : Bool) : State :=
  let q := getPort s pb
  if !q.perst then s
  else
    let s := putPort s pb { q with perst := false }
    if s.pwr.mst = .off then bootStart s true else s

/-! ### Boot steps (R434, R435) -/

/-- DRAM_TRAINING_DONE: a stack trains, or fails and holds the module in boot. -/
def dramTrained (s : State) (k : Nat) (ok : Bool) : State :=
  if s.pwr.mst ≠ .boot ∨ !s.pwr.refclk ∨ !s.pwr.fwOk ∨ s.pwr.bootFailed ∨ 20 ≤ k then s
  else if ok then
    if s.pwr.dramDone.contains k then s else { s with pwr := { s.pwr with dramDone := s.pwr.dramDone ++ [k] } }
  else raiseM { s with pwr := { s.pwr with bootFailed := true } } evPwrDramtrain [k]

/-- Every DRAM stack has trained and the firmware runs. -/
def readyToServe (s : State) : Bool :=
  s.pwr.mst == .boot && s.pwr.refclk && s.pwr.fwOk && !s.pwr.bootFailed && (List.range 20).all s.pwr.dramDone.contains

/-- Sets each of a list of domains. -/
def setDoms (s : State) (ds : List Nat) (v : DomState) : State := ds.foldl (fun s d => setDom s d v) s

/-- PD44 to PD59 and PD63. -/
def hkDoms : List Nat := (List.range 16).map (· + 44) ++ [63]

/-- The events that a boot reports once the module is ready (R442, R462, R470, R473). -/
def bootEvents (s : State) : State :=
  let s := if s.pwr.tripNew then
      raiseM { s with pwr := { s.pwr with tripNew := false } } evPwrTrip [s.pwr.tripCause] else s
  let s := if s.sec.fallback then raiseM s evSecFwfallback [] else s
  let s := if s.sec.gen.isNone then raiseM s evSecNolocket [] else s
  if s.sec.exhausted && !s.sec.exhSaid then raiseM { s with sec := { s.sec with exhSaid := true } } evSecLmsexh [] else s

/-- ENABLE writes held during boot take effect: rings of every other kind, then submission rings. -/
def enableHeld (s : State) : State :=
  let held (s : State) (sub : Bool) : List Nat :=
    (s.rings.filter fun kr => kr.2.enHeld && (kr.2.kind == 0) == sub).map (·.1)
  let s := (held s false).foldl enableRing s
  (held s true).foldl enableRing s

/-- The doorbells that FN_WAKE writes have named are read. -/
def wakeAllReads (s : State) : State :=
  (List.range 64).foldl (fun s f => if (getPort s (portOf f)).hold then s else wakeReads s f) s

/-- MODULE_READY. -/
def moduleReady (s : State) : State :=
  if !readyToServe s then s
  else
    let s := setDoms (setDom s 43 .on) hkDoms .on
    let s := setDoms s ((List.range 7).map (· + 36)) .retain
    let s := if s.pwr.tripNew then { s with alm := { s.alm with trips := s.alm.trips + 1 } } else s
    let s := writeAlmanac { s with pwr := { s.pwr with mst := .active } }
    wakeAllReads (bootEvents (enableHeld s))

/-! ### Requests for sleep and off (R436, R439, R509) -/

/-- Whether work that a request waits for remains. -/
def workLeft (s : State) : Bool :=
  s.rings.any (fun kr => !kr.2.prog.isEmpty || !kr.2.old.isEmpty) || s.chans.any (fun kc => !kc.2.prog.isEmpty)
  || s.tables.any (fun kt => !kt.2.flushes.isEmpty || (match kt.2.staged with | some g => g.chk == .running | none => false))
  || s.jobs.any (fun kj => kj.2.reshard.isSome)

/-- Key of the first tiered table that holds dirty rows. -/
def firstDirty (s : State) : Option Nat :=
  (s.tables.find? fun kt => kt.2.desc.tier == 2 && (!(dirtyRows s kt.2).isEmpty || !kt.2.wbs.isEmpty)).map (·.1)

/-- A request fails. -/
def refuse (s : State) (w : Who) (why : Nat) : State :=
  raiseF { s with pwr := { s.pwr with rstat := 3, why := why, pending := none } } evPwrRefused 0 (whoFn w) none [why]

/-- PWR_REQ as a write leaves it, on a module that is neither off nor unpowered. -/
def storeReq (s : State) (req : Nat) (force : Bool) : State :=
  if s.pwr.mst = .off ∨ s.pwr.mst = .unpowered then s
  else { s with pwr := { s.pwr with regReq := req, regForce := force } }

/-- A request for sleep or off. One made while another waits, or in a state other than active, changes nothing but
PWR_REQ itself; a module that sleeps may be turned off. -/
def powerRequest (s : State) (w : Who) (off force : Bool) : State :=
  withAuth s (operatorOk s w) w 0x4000 fun s =>
    let s := storeReq s (if off then 2 else 1) force
    if s.pwr.pending.isSome || !(s.pwr.mst == .active || (off && s.pwr.mst == .sleep)) then s
    else
      let s := { s with pwr := { s.pwr with why := 0 } }
      if s.jobs.any fun kj => kj.2.phase != .held then refuse s w 1
      else
        match if off && !force then firstDirty s else none with
        | some k => refuse { s with pwr := { s.pwr with dpart := k / 4096, dtid := k % 4096 } } w 3
        | none => { s with pwr := { s.pwr with rstat := 1, pending := some { off := off, force := force } } }

/-- PWR_REQ_SLEEP. -/
def requestSleep (s : State) (w : Who) (force : Bool) : State := powerRequest s w false force

/-- PWR_REQ_OFF. -/
def requestOff (s : State) (w : Who) (force : Bool) : State := powerRequest s w true force

/-- PWR_REQ_WAKE: a write of 0 wakes a module that sleeps, and withdraws a request that still waits. -/
def requestWake (s : State) (w : Who) (force : Bool) : State :=
  withAuth s (operatorOk s w) w 0x4000 fun s =>
    let s := storeReq s 0 force
    if s.pwr.pending.isSome then { s with pwr := { s.pwr with pending := none, rstat := 0 } } else wakeEvent s

/-- SLEEP_WAIT_TIMEOUT: work remains at the end of the wait. -/
def waitTimeout (s : State) : State := if s.pwr.pending.isSome ∧ workLeft s then refuse s none 2 else s

/-! ### Sleep and wake (R437, R438, R491) -/

/-- The link of a module that sleeps. -/
def downLink (l : LinkSt) : LinkSt :=
  { st := .down, paddr := l.paddr, plink := l.plink, sent := l.sent, once := l.once, retrainCount := l.retrainCount, lastTx := l.lastTx }

/-- Whether the module may enter the state that a request names. -/
def mayEnter (s : State) (off : Bool) : Bool :=
  (match s.pwr.pending with | some r => r.off == off | none => false) && !workLeft s

/-- The contents of PD63 and of the clusters and pipes are lost (R80, R100). -/
def losePd63 (s : State) : State :=
  let g := s.free
  let s := { s with
    free := s.free + 1
    arr := { s.arr with
      errs := [], scale := s.arr.scale.lose g, acc := s.arr.acc.lose g, plain := s.arr.plain.lose g, trans := s.arr.trans.lose g,
      tvalid := [], defq := [], flying := [] }
    vec := { tile := s.vec.tile.lose g, lane := s.vec.lane.lose g, mask := s.vec.mask.lose g, poly := s.vec.poly.lose g } }
  unpark s

/-- SLEEP_ENTRY. -/
def enterSleep (s : State) : State :=
  if !mayEnter s false ∨ s.pwr.mst ≠ .active then s
  else
    let s := writeAlmanac { s with alm := { s.alm with sleeps := s.alm.sleeps + 1 } }
    let s := losePd63 s
    let s := setDoms s (List.range 36 ++ [44, 45, 46, 47, 52, 53, 54, 55, 56, 57, 58, 59, 63]) .off
    let s := setDoms s [48, 49, 50, 51] .retain
    let s := setDoms s ((List.range 7).map (· + 36)) .retain
    let s := if s.rings.any fun kr => kr.2.enable then s else setDom s 43 .retain
    { s with
      fabr := { s.fabr with links := s.fabr.links.map downLink }
      jobs := s.jobs.map fun kj => (kj.1, { kj.2 with slept := true })
      sorts := s.sorts.map fun ks => (ks.1, { ks.2 with waiting := true })
      pwr := { s.pwr with mst := .sleep, pending := none, rstat := 2, waking := false, gates := [] } }

/-- The module is ready after a wake: the domains that are on in the active state, those of the current requests with
them; the first window after the wake is short. -/
def wakeDone (s : State) : State :=
  if s.pwr.mst ≠ .sleep ∨ !s.pwr.waking then s
  else
    let s := setDoms (setDom s 43 .on) hkDoms .on
    let s := setDoms s ((List.range 43).filter fun d => effReq s d == some .on) .on
    let sorts := s.sorts.map fun (ks : Nat × SortJob) =>
      (ks.1, { ks.2 with waiting := decide (dom s (sortUnitDom ks.1) ≠ .on) })
    wakeAllReads { s with
      sorts := sorts
      isl := { s.isl with shortEnd := some ((s.tim.now / s.isl.bwLen + 1) * s.isl.bwLen) }
      pwr := { s.pwr with mst := .active, waking := false } }

/-- OFF_ENTRY: a map checkpoint, the Almanac, then every switched domain off (R439). -/
def enterOff (s : State) : State :=
  if !mayEnter s true then s
  else
    let s := dark (writeAlmanac (checkpointMap s)) .off
    { s with pwr := { s.pwr with trip := false, tripCause := 0, rstat := 2 } }

/-! ### Power and thermal limits (R441, R442, R527, R528) -/

/-- The average of a list of samples. -/
def average (l : List Nat) : Nat := if l.isEmpty then 0 else l.foldl (· + ·) 0 / l.length

/-- The duty, never above the limit of the brake. -/
def setDuty (s : State) (d : Nat) : State :=
  { s with arr := { s.arr with duty := if s.pwr.brake then Nat.min 4 d else d } }

/-- POWER_SAMPLE: the latest sample and the 10 ms average; above 1,150 W over 1 ms the duty is halved. -/
def powerSample (s : State) (w : Nat) : State :=
  if s.pwr.mst = .off ∨ s.pwr.mst = .unpowered then s
  else
    let l := (w :: s.pwr.samples).take 100
    let s := { s with pwr := { s.pwr with sample := w, samples := l, avg := average l } }
    let ms := l.take 10
    if ms.length = 10 ∧ 11500 < ms.foldl (· + ·) 0 then setDuty s (Nat.max 4 (s.arr.duty / 2)) else s

/-- DUTY_ADJUST_TICK: down above the limit or with a die at 100 °C, up below 95 % of it. -/
def dutyTick (s : State) : State :=
  let hot := s.pwr.dieTemp.any fun t => decide (100 ≤ t)
  if hot ∨ s.pwr.limit < s.pwr.avg then setDuty s (Nat.max 4 (s.arr.duty - 1))
  else if s.pwr.avg * 100 < s.pwr.limit * 95 then setDuty s (Nat.min 16 (s.arr.duty + 1))
  else s

/-- PWR_BRAKE_ASSERT. -/
def brakeOn (s : State) : State :=
  let s := { s with pwr := { s.pwr with brake := true } }
  setDuty s s.arr.duty

/-- PWR_BRAKE_RELEASE. -/
def brakeOff (s : State) : State := { s with pwr := { s.pwr with brake := false } }

/-- DIE_TEMP_REPORT. -/
def dieReport (s : State) (d : Nat) (t : Int) : State :=
  if s.pwr.mst = .off ∨ s.pwr.mst = .unpowered ∨ 3 ≤ d then s
  else
    let old := nth 0 s.pwr.dieTemp d
    let s := { s with pwr := { s.pwr with dieTemp := setNth s.pwr.dieTemp d t } }
    if 115 ≤ t then trip s 1
    else if 100 ≤ t ∧ old < 100 then raiseM s evPwrThermWarn [d]
    else s

/-- DRAM_TEMP_REPORT: the zone and the cap, and a trip at 110 °C. -/
def dramTemp (s : State) (k : Nat) (t : Int) : State :=
  if s.pwr.mst = .off ∨ s.pwr.mst = .unpowered ∨ 20 ≤ k then s
  else
    let s := dramReport s k t
    if 110 ≤ t then trip s 2 else s

/-- DRAM_CRITICAL_HOLD: every job is aborted, so that each holds. -/
def criticalHold (s : State) (k : Nat) : State :=
  if (getStack s k).zone ≠ .crit ∨ 20 ≤ k then s
  else
    let s := (List.range 4).foldl (fun s p =>
      let q : Part := BitVec.ofNat 2 p
      match getJob s q with
      | some j => if j.phase = .held ∨ j.phase = .testing then s else abandonCause s q
      | none => s) s
    raiseM s evPwrThermHold [k]

/-- DRAM_CRITICAL_TRIP. -/
def criticalTrip (s : State) (k : Nat) : State := if (getStack s k).zone = .crit ∧ k < 20 then trip s 3 else s

/-- Whether THERM_ALERT# is low (R528). -/
def thermAlert (s : State) : Bool :=
  s.pwr.dieTemp.any (fun t => decide (100 ≤ t))
  || (s.dramStacks.take 20).any (fun k => k.zone == .hot || k.zone == .crit)
  || (s.dramStacks.drop 20).any (fun k => decide (95 ≤ k.temp))
  || (s.pwr.trip && s.pwr.mst != .off && s.pwr.mst != .unpowered && decide (s.tim.now < s.pwr.bootAt + 1000000000))

/-! ### The housekeeping watchdog (R444) -/

/-- WATCHDOG_EXPIRY: the core restarts; no register changes. -/
def watchdog (s : State) : State :=
  if dom s 62 = .on then { s with pwr := { s.pwr with hkDown := true } } else s

/-- HK_RESTART_COMPLETE. -/
def hkRestarted (s : State) : State :=
  if s.pwr.hkDown then
    raiseM { s with pwr := { s.pwr with hkDown := false }, alm := { s.alm with hkRestarts := s.alm.hkRestarts + 1 } }
      evPwrHkrestart []
  else s

end Sys2Proof.Machine
end

