-- ==== Sys2Proof/Machine/Clock.lean ====
section
/-! DEFINITION. Device time, the calendar, PTM and the Almanac image (R445 to R450, R510, R516). -/

namespace Sys2Proof.Machine

/-! ### The passing of time (R354, R446, R449) -/

/-- The seconds of a list of thresholds that a temperature has reached, from a key of the thermal section on. -/
def heatSecond (t : Int) (key : Nat) (lims : List Int) (m : Tab Nat) : Tab Nat :=
  lims.zipIdx.foldl (fun m x => if x.1 ≤ t then tabMod 0 m (key + x.2) (· + 1) else m) m

/-- One second of power-on time passes in the lifetime counts: DRAM stack i counts at keys 3i to 3i + 2, flash stack i at
60 + 2i and 61 + 2i, die d at 76 + d. -/
def lifeSecond (s : State) : State :=
  let m := s.alm.thermal
  let m := (List.range 20).foldl (fun m i => heatSecond (getStack s i).temp (3 * i) [85, 95, 105] m) m
  let m := (List.range 8).foldl (fun m i => heatSecond (getStack s (20 + i)).temp (60 + 2 * i) [85, 95] m) m
  let m := (List.range 3).foldl (fun m i => heatSecond (nth 0 s.pwr.dieTemp i) (76 + i) [100] m) m
  { s with alm := { s.alm with thermal := m, onSec := s.alm.onSec + 1 } }

/-- Nanoseconds of power-on time, counted while PD62 is on. -/
def powerOn (s : State) (n : Nat) : State :=
  if dom s 62 ≠ .on then s
  else
    let f := s.alm.frac + n
    let s := { s with alm := { s.alm with frac := f % 1000000000 } }
    (List.range (f / 1000000000)).foldl (fun s _ => lifeSecond s) s

/-- The nanosecond that a slew moves in a tick of 5 ns: one once 5,000 ns have passed since the last, which is 200 ppm. -/
def slewStep (t : Time) : Int :=
  if t.slew = 0 ∨ t.slewAge + 5 < 5000 then 0 else if 0 < t.slew then 1 else -1

/-- One tick of 5 ns of device time on REFCLK, with the slew of R354. -/
def tickTime (t : Time) : Time :=
  let d := slewStep t
  { t with now := ((t.now : Int) + 5 + d).toNat % 2 ^ 64, slew := t.slew - d, slewAge := if d = 0 then t.slewAge + 5 else 0 }

/-- The cycle counters of a tick: seven core cycles, six M-die cycles (R478, R479). -/
def countCycles (l : CtrSet) : CtrSet :=
  { l with cycCore := (l.cycCore + 7) % 2 ^ 64, cycM := (l.cycM + 6) % 2 ^ 64 }

/-- The idle tick of the module, 5 ns of device time; the cycle counters count while the module is active (R8, R446,
R479). -/
def tick (s : State) : State :=
  if dom s 62 ≠ .on ∨ s.pwr.mst = .sleep then s
  else
    let s := whileActive { s with tim := tickTime s.tim } fun s => modLive s countCycles
    powerOn s 5

/-- What the module does when no command waits: one tick, and the stream words that it lets issue. -/
def idle (s : State) : State := pump (tick s)

/-- CRYSTAL_TICK: in sleep and off device time advances by 30,517 ns and 37/64 ns. -/
def crystalTick (s : State) : State :=
  if s.pwr.mst ≠ .sleep ∧ s.pwr.mst ≠ .off then s
  else
    let r := s.tim.rem + 37
    let n := 30517 + r / 64
    powerOn { s with tim := { s.tim with now := (s.tim.now + n) % 2 ^ 64, rem := r % 64 } } n

/-- CALENDAR_TICK: one second of the calendar. -/
def calendarTick (s : State) : State :=
  if s.pwr.mst = .unpowered then s else { s with tim := { s.tim with utc := (s.tim.utc + 1) % 2 ^ 64 } }

/-! ### Writes of time (R445, R447) -/

/-- TIM_SET. -/
def timSet (s : State) (w : Who) (v : Nat) : State :=
  withAuth s (operatorOk s w) w 0x6010 fun s =>
    if s.tim.src ≠ 0 then progError s w 0x6010
    else stepTime { s with tim := { s.tim with valid := true } } v

/-- TIM_UTC_WRITE. -/
def utcWrite (s : State) (w : Who) (v : Nat) : State :=
  withAuth s (operatorOk s w) w 0x6018 fun s => { s with tim := { s.tim with utc := v, calValid := true } }

/-- PTM_DIALOG: the offset of the port, which device time follows where TIM_SRC names the port (R448). -/
def ptmDialog (s : State) (pb : Bool) (t1 t2 t3 t4 delay : Nat) : State :=
  let q := getPort s pb
  if q.hold ∨ !q.up then s
  else
    let th := timeOffset t1 t2 t3 t4 delay delay
    let s := { s with tim := { s.tim with ptmOff := setNth s.tim.ptmOff (b2n pb) th } }
    if s.tim.src = 1 + b2n pb then follow s th else s

/-! ### The Almanac image (R449, R450) -/

/-- 64 bits of two's complement. -/
def int64 (v : Int) : List Byte := bytesOf 8 (pat 64 v)

/-- The sections after the header, in their order. -/
def almBody (s : State) : List Byte :=
  let m := s.alm
  let life := [m.onSec, m.cycles, m.boots, m.sleeps, m.hkRestarts, m.trips, 0, 0].flatMap (bytesOf 8)
  let doms := (List.range 64).flatMap fun d => bytesOf 8 (tabGet 0 m.switches d)
  let blocks := (List.range allBlocks).flatMap fun b =>
    bytesOf 2 (if s.flash.retired.contains b then 0xFFFF else eraseOf s.flash b)
  let heat := (List.range 79).flatMap fun i => bytesOf 8 (tabGet 0 m.thermal i)
  let links := (List.range 24).flatMap fun k =>
    bytesOf 8 (tabGet 0 m.retrains k) ++ bytesOf 4 (tabGet 0 m.degrades k) ++ bytesOf 4 (tabGet 0 m.deads k)
  let lkt := bytesOf 8 (s.sec.gen.getD Config.noGeneration)
    ++ (List.range 5).flatMap fun g => bytesOf 8 (tabGet 0xFFFFFFFFFFFFFFFF m.gens g)
  let ods := (List.range 65536).flatMap fun i =>
    match m.overdrafts.zipIdx.find? fun x => (m.odTotal - 1 - x.2) % 65536 == i with
    | some x => bytesOf 8 x.1.1 ++ bytesOf 4 x.1.2.1 ++ bytesOf 4 x.1.2.2
    | none => List.replicate 16 0
  life ++ doms ++ blocks ++ heat ++ links ++ lkt ++ bytesOf 8 (nextSign s) ++ int64 s.wear.c ++ bytesOf 8 m.odTotal ++ ods

/-- A header: magic, version, sequence number, length, CRC-32C, each in its own place. -/
def almHeader (seq crc : Nat) : List Byte :=
  bytesOf 4 0x414C4D31 ++ bytesOf 4 1 ++ bytesOf 8 seq ++ bytesOf 8 almLength ++ bytesOf 4 crc ++ List.replicate 36 0

/-- An image of the current counts; its CRC is taken with the field 0. -/
def almImage (s : State) : List Byte :=
  let b := almBody s
  almHeader s.alm.seq (crc32c (almHeader s.alm.seq 0 ++ b)).toNat ++ b

/-- The write of a register's buffer: into T1, flushed to the windows (R419). -/
def putFlushed (s : State) (a : Nat) (bs : List Byte) : State :=
  dropBuffer (dropBuffer (wrNow s a bs) false a bs.length) true a bs.length

/-- Whether a requester's partition owns a T1 range: any T1 address for the management port. -/
def bufferOk (s : State) (w : Who) (a n : Nat) : Bool :=
  match w with
  | none => decide (t1Base ≤ a ∧ a + n ≤ t1Resv)
  | some f => (getFn s f.toNat).pv && inTier s (partOf s f) 1 a n

/-- ALMANAC_READ: 1 written to AON_ALMGO. The management port takes the image in pages as its answer. -/
def almanacRead (s : State) (w : Who) : State :=
  withAuth s (operatorOk s w) w 0xC020 fun s =>
    if w.isNone then { s with almLen := almLength, almDone := true, rsp := .bytes (almImage s) }
    else if !bufferOk s w s.almDst almLength then progError s w 0xC020
    else { putFlushed s s.almDst (almImage s) with almLen := almLength, almDone := true }

end Sys2Proof.Machine
end

