-- ==== Sys2Proof/Machine/Security.lean ====
section
/-! DEFINITION. The boot chain, the Locket, steward requests, attestation, debug, the node address
(R344, R434, R435, R451 to R477, R515, R516). -/

namespace Sys2Proof.Machine

/-! ### The Locket (R461, R468, R471 to R475) -/

/-- `n` bytes of the Locket. -/
def lkRead (s : State) (o n : Nat) : List Byte := s.sec.otp.read o n

/-- Blows the bits that are set in `bs`; a blown bit stays blown. -/
def lkBlow (s : State) (o : Nat) (bs : List Byte) : State :=
  let old := lkRead s o bs.length
  { s with sec := { s.sec with otp := s.sec.otp.write o (old.zipWith (· ||| ·) bs) } }

/-- Blows one bit. -/
def lkBlowBit (s : State) (o k : Nat) : State := lkBlow s (o + k / 8) [BitVec.ofNat 8 (2 ^ (k % 8))]

/-- The number of blown bits of a byte list. -/
def popBytes (bs : List Byte) : Nat := bs.foldl (fun n b => n + ((List.range 8).filter (bit · b.toNat)).length) 0

/-- The security-version counter, and the blown bits of the signing anchor. -/
def svCounter (s : State) : Nat := popBytes (lkRead s 0x1C0 64)
def anchorBits (s : State) : Nat := popBytes (lkRead s 0x200 128)

/-- Whether root key slot 0 is revoked (R463). -/
def slot0Revoked (s : State) : Bool := bit 0 (s.sec.otp.get 0x180).toNat

/-- The device secret, the serial number and the public keys (R466, R471). -/
def deviceSecret (s : State) : List Byte := lkRead s 0x40 128
def serialNo (s : State) : List Byte := lkRead s Config.serialAt 16
def ekeyOf (s : State) : List Byte := fit 96 (Config.ecdsaKey (deviceSecret s))
def hkeyOf (s : State) : List Byte := fit 60 (Config.hssKey (deviceSecret s))

/-- Whether 1,024 bytes are a settings record of generation `g` with its fields in range (R472, R473). -/
def recordOk (g : Nat) (b : List Byte) : Bool :=
  let v (i : Nat) : Nat := (nth 0 b i).toNat
  decide (b.length = 1024) && decide (natOf (b.take 4) = 0x4C4B5431) && decide (v 4 = g) && decide (v 5 = 1)
  && decide (v 8 ≤ 1 ∧ v 9 ≤ 1 ∧ v 11 ≤ 63 ∧ v 12 ≤ 1) && decide (1 ≤ v 13 ∧ v 13 ≤ 15) && decide (v 15 ≤ 2)
  && decide (natOf (slice b 1020 4) = (crc32c (b.take 1020)).toNat)

/-- Whether the settings slot of a generation qualifies at boot: record and signature block. -/
def genOk (s : State) (g : Nat) : Bool := recordOk g (lkRead s (lkSlot g) 1024) && tabGet false s.sec.sigBlocks g

/-- The highest generation that qualifies. -/
def activeGen (s : State) : Option Nat := [4, 3, 2, 1, 0].find? (genOk s)

/-- The lowest settings slot with no blown bit. -/
def freeSlot (s : State) : Option Nat := (List.range 5).find? fun g => (lkRead s (lkSlot g) 1024).all (· == 0)

/-! ### Images and boot (R434, R435, R460, R462, R464, R469, R473) -/

/-- The first step of R460 that an image fails, 0 when it passes them all; 7 is a digest of another component. -/
def imageFault (s : State) (m : FwImage) : Nat :=
  if m.magic ≠ 0x46524D31 ∨ m.ver ≠ 1 ∨ m.ncomp = 0 ∨ 16 < m.ncomp ∨ 96 * 2 ^ 20 < m.len then 1
  else if 1 < m.kslot ∨ (m.kslot = 0 ∧ slot0Revoked s) then 2
  else if !m.keysOk then 3
  else if !m.sigsOk then 4
  else if 512 < m.svn ∨ m.svn < svCounter s then 5
  else if !m.stage1Ok then 6
  else if !m.othersOk then 7
  else 0

/-- The image of a bank: `true` for bank B. -/
def bankOfFw (s : State) (b : Bool) : Option FwImage := if b then s.sec.bankB else s.sec.bankA

/-- Whether a bank boots. -/
def bankPasses (s : State) (b : Bool) : Bool := match bankOfFw s b with | some m => imageFault s m == 0 | none => false

/-- Signing at boot: the next index by the anchor and the Almanac. -/
def bootSigning (s : State) : State :=
  let c := anchorBits s
  let a := s.alm.signNext
  if (s.almA.isSome || s.almB.isSome) ∧ c ≠ 0 ∧ (c - 1) * 2 ^ 30 ≤ a ∧ a < c * 2 ^ 30 then
    { s with sec := { s.sec with signNext := a, signEnd := a, exhausted := false } }
  else if c < 1024 then
    let s := lkBlowBit s 0x200 c
    { s with sec := { s.sec with signNext := c * 2 ^ 30, signEnd := c * 2 ^ 30, exhausted := false } }
  else { s with sec := { s.sec with exhausted := true } }

/-- Under policy 1 the whole address comes from the Locket (R344). -/
def policyAddress (s : State) : State :=
  if lkPolicy s = 1 ∧ !s.fabr.fixed then
    let n := lkSlotNo s
    { s with fabr := { s.fabr with
      fab := lkFab s == 1, pod := BitVec.ofNat 8 (lkPod s), slot := BitVec.ofNat 6 n, roll := 3, announce := n + 1 } }
  else s

/-- The settings that boot takes: the lifetime target, the hour of a new generation, the address. -/
def bootSettings (s : State) : State :=
  let s := wearBoot { s with wear := { s.wear with y := lkLife s } }
  let s := match s.sec.gen with
    | some g => if (tabFind s.alm.gens g).isNone then { s with alm := { s.alm with gens := tabSet s.alm.gens g s.alm.hours } } else s
    | none => s
  policyAddress s

/-- The boot of an image that has passed: measurements, the active generation and its settings, signing. -/
def runImage (s : State) (b : Bool) (m : FwImage) : State :=
  let s := { s with
    sec := { s.sec with runB := b, fallback := b != s.sec.selB, svn := m.svn, gen := activeGen s }
    pwr := { s.pwr with fwOk := true }
    portA := { s.portA with retryStatus := false }
    portB := { s.portB with retryStatus := false } }
  let s := extend s 0 m.stage1
  let s := m.others.foldl (fun s c => extend s 1 c) s
  let s := match s.sec.gen with | some g => extend s 2 (lkRead s (lkSlot g) 1024) | none => s
  bootSigning (bootSettings s)

/-- BOOT_VERIFY_DONE: the selected bank, then the other; the ports' and the controller's domains are on. -/
def bootVerify (s : State) : State :=
  if s.pwr.mst ≠ .boot ∨ !s.pwr.refclk ∨ s.pwr.fwOk ∨ s.pwr.bootFailed then s
  else
    let s := setDoms s [60, 61, 62] .on
    let b := if bankPasses s s.sec.selB then s.sec.selB else !s.sec.selB
    match bankOfFw s b with
    | some m => if imageFault s m = 0 then runImage s b m else { s with pwr := { s.pwr with bootFailed := true } }
    | none => { s with pwr := { s.pwr with bootFailed := true } }

/-! ### Signing (R466, R468, R470) -/

/-- Takes one signature index: none when signing is exhausted. A new block is reserved in the Almanac first, and the
anchor bit of its range blown. -/
def takeIndex (s : State) : Option (Nat × State) :=
  let i := s.sec.signNext
  if s.sec.exhausted ∨ 2 ^ 40 ≤ i then none
  else
    let k := i / 2 ^ 30
    let s := if anchorBits s ≤ k then lkBlowBit s 0x200 k else s
    let s := if s.sec.signEnd ≤ i then
        writeAlmanac { s with sec := { s.sec with signEnd := (i / 4096 + 1) * 4096 } }
      else s
    let s := { s with sec := { s.sec with signNext := i + 1 } }
    if i + 1 = 2 ^ 40 then
      some (i, raiseM { s with sec := { s.sec with exhausted := true, exhSaid := true } } evSecLmsexh [])
    else some (i, s)

/-- Both signatures of a byte string under an index. -/
def signBoth (s : State) (i : Nat) (b : List Byte) : List Byte :=
  let m := fit 48 (Config.sha384 b)
  fit 96 (Config.ecdsaSign (deviceSecret s) m) ++ fit 3604 (Config.hssSign (deviceSecret s) i m)

/-! ### Attestation (R465) -/

/-- Bytes 0 to 511 of a report. -/
def reportBody (s : State) (i : Nat) (nonce : List Byte) : List Byte :=
  bytesOf 4 0x41545431 ++ bytesOf 2 1 ++ [BitVec.ofNat 8 (b2n s.sec.dbg)]
  ++ bytesOf 1 (s.sec.gen.getD Config.noGeneration) ++ serialNo s
  ++ bytesOf 4 (svCounter s) ++ bytesOf 4 s.sec.svn ++ bytesOf 8 i ++ bytesOf 8 s.tim.now ++ fit 48 nonce
  ++ s.sec.meas.flatMap (fit 48) ++ List.replicate 32 0

/-- The end of an attestation request: status and length in SEC_ATTDONE. -/
def attEnd (s : State) (status len : Nat) : State :=
  { s with sec := { s.sec with attDone := true, attStatus := status, attLen := len } }

/-- ATTESTATION_REQUEST: 1 written to SEC_ATTGO; the management port brings its nonce in the mailbox. -/
def attest (s : State) (w : Who) (nonce : Option (List Byte)) : State :=
  withAuth s (operatorOk s w) w 0xB058 fun s =>
    let a := s.sec.attDst
    if !bufferOk s w a 4224 ∨ !s.pwr.fwOk then attEnd s stInvalid 0
    else
      match takeIndex s with
      | none => attEnd s stInvalid 0
      | some (i, s) =>
        let n := match w with | none => nonce.getD [] | some _ => s.mem.read (a + 48) 48
        let b := reportBody s i n
        attEnd (putFlushed s a (b ++ signBoth s i b ++ List.replicate 12 0)) stDone 4224

/-! ### Steward requests (R453, R455 to R457) -/

/-- The request block with its answer fields. -/
def reqBlock (r : SReq) (code status reason result : Nat) : List Byte :=
  bytesOf 1 code ++ [0] ++ bytesOf 2 r.tag.toNat ++ bytesOf 1 status ++ bytesOf 1 reason ++ bytesOf 2 0
  ++ bytesOf 8 r.addr.toNat ++ bytesOf 8 result ++ bytesOf 4 r.len.toNat ++ [r.operand] ++ List.replicate 35 0

/-- The answer to a request, in the mailbox. -/
def answer (s : State) (r : SReq) (code status reason result : Nat) : State :=
  let b := reqBlock r code status reason result
  { s with sec := { s.sec with mbox := b, mbDone := true }, rsp := .bytes b }

/-- A request that is refused with INVALID and a reason. -/
def refuseReq (s : State) (r : SReq) (code reason : Nat) : State := answer s r code stInvalid reason 0

/-- Runs a steward request: with authority, while the firmware runs, its data in the requester's window. -/
def steward (s : State) (r : SReq) (code : Nat) (f : State → State) : State :=
  if !reaches s r.who then s
  else if !stewardOk s r.who then
    { noAuth s r.who 0xB040 with rsp := .bytes (reqBlock r code stInvalid 1 0) }
  else if !s.pwr.fwOk then refuseReq s r code 8
  else if r.who.isSome ∧ r.len ≠ 0 ∧ !bufferOk s r.who r.addr.toNat r.len.toNat then refuseReq s r code 5
  else f s

/-- FWUPDATE: the image goes into the bank that is not running; one that verifies is selected for the next boot. -/
def fwUpdate (s : State) (r : SReq) (m : FwImage) : State :=
  steward s r 1 fun s =>
    let b := !s.sec.runB
    let s := { s with sec := if b then { s.sec with bankB := some m } else { s.sec with bankA := some m } }
    match imageFault s m with
    | 0 => answer { s with sec := { s.sec with selB := b } } r 1 stDone 0 (b2n b)
    | 1 => refuseReq s r 1 5
    | 2 => refuseReq s r 1 5
    | 5 => refuseReq s r 1 (if 512 < m.svn then 5 else 4)
    | _ => answer s r 1 stCksum 3 0

/-- SVCOMMIT: bits of the counter are blown until it equals the running image's version. -/
def svCommit (s : State) (r : SReq) : State :=
  steward s r 2 fun s =>
    let need := s.sec.svn - svCounter s
    let clear := (List.range 512).filter fun k => !bit (k % 8) (s.sec.otp.get (0x1C0 + k / 8)).toNat
    let s := (clear.take need).foldl (fun s k => lkBlowBit s 0x1C0 k) s
    answer s r 2 stDone 0 (svCounter s)

/-- RKREVOKE. -/
def rkRevoke (s : State) (r : SReq) (st : Signed) : State :=
  steward s r 3 fun s =>
    if st.bytes.length ≠ 64 then refuseReq s r 3 5
    else if !st.keysOk ∨ !st.sigsOk then answer s r 3 stCksum 3 0
    else answer (lkBlowBit s 0x180 0) r 3 stDone 0 0

/-- LKPROG. -/
def lkProg (s : State) (r : SReq) (rec' : Signed) : State :=
  steward s r 4 fun s =>
    let g := r.operand.toNat
    let above : Bool := match s.sec.gen with | some a => decide (a < g) | none => true
    match freeSlot s with
    | none => refuseReq s r 4 6
    | some k =>
      if g ≠ k ∨ !above then refuseReq s r 4 8
      else if !recordOk g rec'.bytes ∨ !rec'.keysOk ∨ !rec'.sigsOk then answer s r 4 stCksum 3 0
      else
        let s := { s with sec := { s.sec with sigBlocks := tabSet s.sec.sigBlocks g true } }
        answer (lkBlow s (lkSlot g) rec'.bytes) r 4 stDone 0 g

/-- DBGUNLOCK (R477). -/
def dbgUnlock (s : State) (r : SReq) : State :=
  steward s r 5 fun s =>
    if !lkDebug s then refuseReq s r 5 8
    else
      let s := extend s 3 (reqBlock r 5 0 0 0)
      let s := raiseM { s with sec := { s.sec with dbg := true } } evSecDebug []
      answer s r 5 stDone 0 0

/-- The bytes of a signing request: serial number, public keys, both signatures. -/
def csrLength : Nat := 16 + 96 + 60 + 96 + 3604

/-- IDCSR: serial number and public keys, signed under both algorithms. -/
def idCsr (s : State) (r : SReq) : State :=
  steward s r 6 fun s =>
    if r.who.isSome ∧ !bufferOk s r.who r.addr.toNat csrLength then refuseReq s r 6 5
    else
      match takeIndex s with
      | none => refuseReq s r 6 7
      | some (i, s) =>
        let b := serialNo s ++ ekeyOf s ++ hkeyOf s
        let d := b ++ signBoth s i b
        if r.who.isSome then answer (putFlushed s r.addr.toNat d) r 6 stDone 0 d.length
        else
          let s := answer s r 6 stDone 0 d.length
          { s with rsp := .bytes (s.sec.mbox ++ d) }

/-- IDINSTALL: a certificate of the device's own serial number and keys replaces the installed one. -/
def idInstall (s : State) (r : SReq) (c : Cert) : State :=
  steward s r 7 fun s =>
    if c.serial = serialNo s ∧ c.ekey = ekeyOf s ∧ c.hkey = hkeyOf s then
      answer { s with sec := { s.sec with cert := some c } } r 7 stDone 0 0
    else refuseReq s r 7 5

/-- RECOVER: the boot ROM writes an image into a bank while boot has failed, for the management port alone. -/
def recoverBank (s : State) (r : SReq) (m : FwImage) : State :=
  if !reaches s r.who then s
  else if r.who.isSome then { noAuth s r.who 0xB040 with rsp := .bytes (reqBlock r 8 stInvalid 1 0) }
  else if s.pwr.mst ≠ .boot ∨ s.pwr.fwOk ∨ !s.pwr.bootFailed then refuseReq s r 8 8
  else if 1 < r.operand.toNat then refuseReq s r 8 5
  else
    let s := { s with sec := if r.operand = 1 then { s.sec with bankB := some m } else { s.sec with bankA := some m } }
    answer s r 8 stDone 0 r.operand.toNat

/-! ### The node address (R344) -/

/-- ROLL_CALL_RESTART: every link goes down, and the count starts again. -/
def rollRestart (s : State) (w : Who) : State :=
  withAuth s (stewardOk s w) w 0xC008 fun s =>
    policyAddress { s with fabr := { s.fabr with
      links := s.fabr.links.map downLink, fixed := false, roll := 0, pulses := 0, chainOut := true, wave := [], announce := 0 } }

/-- AON_NODE_WRITE: pod and fabric, until the address is fixed. -/
def nodeWrite (s : State) (w : Who) (v : Nat) : State :=
  withAuth s (stewardOk s w) w 0xC000 fun s =>
    if s.fabr.fixed then raiseM s evLnkAddrlock [v]
    else if s.fabr.roll = 3 then s
    else { s with fabr := { s.fabr with
      fab := bit 14 v, pod := BitVec.ofNat 8 (bits 13 6 v), podW := s.fabr.podW || w.isNone } }

/-- POD_CONTROLLER_TIMEOUT: the Locket's defaults, 2 s after the end of the roll call. -/
def podTimeout (s : State) : State :=
  if (s.fabr.roll = 1 ∨ s.fabr.roll = 2) ∧ !s.fabr.podW ∧ !s.fabr.fixed then
    { s with fabr := { s.fabr with fab := lkFab s == 1, pod := BitVec.ofNat 8 (lkPod s) } }
  else s

/-! ### Debug (R476) -/

/-- Whether debug is enabled. -/
def debugOn (s : State) : Bool := lkDebug s && s.sec.dbg

/-- Whether a JTAG instruction reaches units of which the specification says nothing. -/
def jtagStops (s : State) (i : JtagInst) : Bool := debugOn s && (i == .extest || i == .debug)

end Sys2Proof.Machine
end

