-- ==== Sys2Proof/Machine/FabricCmds.lean ====
section
/-! DEFINITION. Links, routing, the roll call and fabric time (R335 to R360). -/

namespace Sys2Proof.Machine

/-- FRAME_RECEIVE (R338): a frame arrives. -/
def execFrameReceive (k : Link) (f : FrameIn) (s : State) : Host.Outcome State Fault Refusal :=
  .next (receiveFrame s k f.bytes f.codes)

/-- REPLAY_REQUEST_RECEIVE (R338): a replay request arrives. -/
def execReplayRequestReceive (k : Link) (seq : W32) (s : State) : Host.Outcome State Fault Refusal :=
  .next (replayRequest s k seq.toNat)

/-- LINK_MESSAGE_RECEIVE (R340): a whole message goes to its engine. -/
def execLinkMessageReceive (k : Link) (m : LinkMsg) (s : State) : Host.Outcome State Fault Refusal :=
  .next (deliver s k m)

/-- MESSAGE_RELAY (R348): a message for another node goes on. -/
def execMessageRelay (k : Link) (m : LinkMsg) (s : State) : Host.Outcome State Fault Refusal := .next (relay s k m)

/-- LINK_RETRAIN (R356): the link retrains. -/
def execLinkRetrain (k : Link) (s : State) : Host.Outcome State Fault Refusal := .next (retrainIf s k true)

/-- ACK_PROGRESS_TIMEOUT (R339): no acknowledgement has come: the link retrains. -/
def execAckProgressTimeout (k : Link) (s : State) : Host.Outcome State Fault Refusal :=
  .next (retrainIf s k (!(getLink s k).replay.isEmpty))

/-- CODEWORD_LOCK_LOSS (R339): the receiver has lost codeword lock: the link retrains. -/
def execCodewordLockLoss (k : Link) (s : State) : Host.Outcome State Fault Refusal := .next (retrainIf s k true)

/-- RETRAIN_COMPLETE (R357): a retrain ends. -/
def execRetrainComplete (k : Link) (lanes : Byte) (s : State) : Host.Outcome State Fault Refusal :=
  .next (retrainDone s k lanes.toNat)

/-- LINK_BACKGROUND_TRAIN (R357): background training succeeds or fails. -/
def execLinkBackgroundTrain (k : Link) (lanes : Byte) (s : State) : Host.Outcome State Fault Refusal :=
  .next (backgroundTrain s k lanes.toNat)

/-- LINK_TRAINED (R347): a link trains. -/
def execLinkTrained (k : Link) (partner : NodeAddr) (plink : BitVec 5) (s : State) : Host.Outcome State Fault Refusal :=
  .next (trained s k partner plink.toNat)

/-- FRAME_TRANSMIT (R341): a frame goes out. -/
def execFrameTransmit (k : Link) (s : State) : Host.Outcome State Fault Refusal := .next (transmit s k)

/-- CHAIN_IN_EDGE (R345): CHAIN_IN rises after `low` ticks. -/
def execChainInEdge (low : BitVec 16) (s : State) : Host.Outcome State Fault Refusal := .next (chainEdge s low.toNat)

/-- CHAIN_IN_LOW_TIMEOUT (R345): CHAIN_IN has been low for 8 ticks. -/
def execChainInLowTimeout (s : State) : Host.Outcome State Fault Refusal := .next (chainLow s)

/-- ROLL_CALL_ANNOUNCE (R346): the slot is announced on CHAIN_OUT. -/
def execRollCallAnnounce (s : State) : Host.Outcome State Fault Refusal := .next (announceSlot s)

/-- POD_CONTROLLER_TIMEOUT (R344): the pod controller has not written the address. -/
def execPodControllerTimeout (s : State) : Host.Outcome State Fault Refusal := .next (podTimeout s)

/-- TIME_EXCHANGE_TICK (R354): a time exchange begins. -/
def execTimeExchangeTick (s : State) : Host.Outcome State Fault Refusal := .next (timeRequest s)

/-- TIME_REQUEST_MESSAGE (R354): a child asks for the time. -/
def execTimeRequestMessage (src : NodeAddr) (t1 : W64) (cf : W32) (s : State) : Host.Outcome State Fault Refusal :=
  .next (timeReplyTo s src t1.toNat cf.toNat)

/-- TIME_REPLY_MESSAGE (R354): the parent replies. -/
def execTimeReplyMessage (t1 : W64) (t2 : W64) (t3 : W64) (cf : W32) (cb : W32)
    (s : State) : Host.Outcome State Fault Refusal :=
  .next (timeReply s t1.toNat t2.toNat t3.toNat cf.toNat cb.toNat)

/-- TIME_SYNC_LOST (R355): no exchange for 100 ms. -/
def execTimeSyncLost (s : State) : Host.Outcome State Fault Refusal := .next (timeLost s)

/-- ROLL_CALL_RESTART (R344): AON_RCRST. -/
def execRollCallRestart (w : Who) (s : State) : Host.Outcome State Fault Refusal := .next (rollRestart s w)

/-- AON_NODE_WRITE (R344): AON_NODE. -/
def execAonNodeWrite (w : Who) (v : W64) (s : State) : Host.Outcome State Fault Refusal := .next (nodeWrite s w v.toNat)

end Sys2Proof.Machine
end

