-- ==== Sys2Proof/Machine/HostCmds.lean ====
section
/-! DEFINITION. Functions, doorbells, ring service, resets, host loss, the window and the semaphores (R123, R129, R361 to R392, R418, R501, R503). -/

namespace Sys2Proof.Machine

/-- FN_WAKE (R370): a write of FN_WAKE. -/
def execFnWake (w : Who) (fn : FnNum) (v : W32) (s : State) : Host.Outcome State Fault Refusal :=
  .next (Sys2Proof.Machine.fnWake s w fn.toNat v.toNat)

/-- DOORBELL_POLL_TICK (R371): a function polls its doorbells. -/
def execDoorbellPollTick (fn : FnNum) (s : State) : Host.Outcome State Fault Refusal := .next (pollTick s fn.toNat)

/-- DOORBELL_READ (R372): a doorbell read returns. -/
def execDoorbellRead (ring : RingNum) (v : W64) (s : State) : Host.Outcome State Fault Refusal :=
  .next (Sys2Proof.Machine.doorbellRead s ring.toNat v.toNat)

/-- ARBITRATION_ROUND (R386): one arbitration round. -/
def execArbitrationRound (portB : Bool) (s : State) : Host.Outcome State Fault Refusal := .next (arbitrate s portB)

/-- COMMAND_CONSUME (R373): a command is consumed. -/
def execCommandConsume (ring : RingNum) (entry : BitVec 512) (s : State) : Host.Outcome State Fault Refusal :=
  .next (consume s ring.toNat entry)

/-- INTERRUPT_RAISE (R381): a ring raises its vector. -/
def execInterruptRaise (ring : RingNum) (s : State) : Host.Outcome State Fault Refusal :=
  .next (Sys2Proof.Machine.interruptRaise s ring.toNat)

/-- FUNCTION_LEVEL_RESET (R389): a function-level reset. -/
def execFunctionLevelReset (fn : FnNum) (s : State) : Host.Outcome State Fault Refusal :=
  .next (functionReset s fn.toNat)

/-- HOST_LOSS_HOLD (R390): host-loss hold begins. -/
def execHostLossHold (portB : Bool) (cause : LossCause) (s : State) : Host.Outcome State Fault Refusal :=
  .next (hostLossCause s portB cause)

/-- PCIE_LINK_TRAINED (R392): a port trains. -/
def execPcieLinkTrained (portB : Bool) (rate : BitVec 4) (width : BitVec 5)
    (s : State) : Host.Outcome State Fault Refusal :=
  .next (portTrained s portB rate.toNat width.toNat)

/-- PCIE_RETRAIN (R362): a port retrains. -/
def execPcieRetrain (portB : Bool) (s : State) : Host.Outcome State Fault Refusal := .next (portRetrain s portB)

/-- PARTITION_ASSIGN (R503): a write of FN_CFG. -/
def execPartitionAssign (w : Who) (fn : FnNum) (v : W64) (s : State) : Host.Outcome State Fault Refusal :=
  .next (Sys2Proof.Machine.partitionAssign s w fn.toNat v.toNat)

/-- FN_RELEASE (R503): a write of FN_REL. -/
def execFnRelease (w : Who) (v : W64) (s : State) : Host.Outcome State Fault Refusal :=
  .next (Sys2Proof.Machine.fnRelease s w v.toNat)

/-- RING_ENABLE (R366): a write that sets ENABLE. -/
def execRingEnable (w : Who) (ring : RingNum) (v : W64) (s : State) : Host.Outcome State Fault Refusal :=
  .next (Sys2Proof.Machine.ringEnable s w ring.toNat v.toNat)

/-- RING_DISABLE (R366): a write that clears ENABLE. -/
def execRingDisable (w : Who) (ring : RingNum) (v : W64) (s : State) : Host.Outcome State Fault Refusal :=
  .next (Sys2Proof.Machine.ringDisable s w ring.toNat v.toNat)

/-- HOST_WINDOW_WRITE (R501): a write through BAR2. -/
def execHostWindowWrite (fn : FnNum) (off : W64) (data : List Byte) (s : State) : Host.Outcome State Fault Refusal :=
  .next (windowWrite s fn.toNat off.toNat data)

/-- HOST_WINDOW_READ (R418): a read through BAR2. -/
def execHostWindowRead (fn : FnNum) (off : W64) (len : BitVec 13) (s : State) : Host.Outcome State Fault Refusal :=
  .next (windowRead s fn.toNat off.toNat len.toNat)

/-- HOST_READ_COMPLETION (R390): a completion of a host read arrives. -/
def execHostReadCompletion (portB : Bool) (fn : FnNum) (s : State) : Host.Outcome State Fault Refusal :=
  .next (readCompletion s portB fn)

/-- UNSUPPORTED_REQUEST (R361): a request that the port does not support. -/
def execUnsupportedRequest (_portB : Bool) (_kind : BadReq) (s : State) : Host.Outcome State Fault Refusal :=
  .next (unsupported s)

/-- SEMAPHORE_READ (R129): a semaphore is read. -/
def execSemaphoreRead (i : BitVec 12) (s : State) : Host.Outcome State Fault Refusal := .next (semRead s i)

/-- SEMAPHORE_WRITE (R129): a semaphore is written. -/
def execSemaphoreWrite (i : BitVec 12) (v : W64) (s : State) : Host.Outcome State Fault Refusal :=
  .next (semWrite s i v)

/-- SEMAPHORE_FETCH_ADD (R129): fetch-and-add. -/
def execSemaphoreFetchAdd (i : BitVec 12) (v : W32) (s : State) : Host.Outcome State Fault Refusal :=
  .next (semAdd s i v)

/-- SEMAPHORE_COMPARE_SWAP (R129): compare-and-swap. -/
def execSemaphoreCompareSwap (i : BitVec 12) (old : W64) (new : W64) (s : State) : Host.Outcome State Fault Refusal :=
  .next (semCas s i old new)

/-- STALL_STREAK_GRANT (R123): the requests of a bank's cycles, up to the grant by a streak. -/
def execStallStreakGrant (bank : Byte) (reqs : List (BitVec 7)) (s : State) : Host.Outcome State Fault Refusal :=
  .next (streakGrant s bank.toNat reqs)

end Sys2Proof.Machine
end

