-- ==== Sys2Proof/Machine/JobCmds.lean ====
section
/-! DEFINITION. Plan loads, re-shards, holds, pairs, aborts and reattachment (R241, R300, R318 to R331, R376, R377, R393 to R398). -/

namespace Sys2Proof.Machine

/-- PLOAD (R241). -/
def execPload (c : Cmd) (addr : W64) (len : W32) (plan : Plan) (s : State) : Host.Outcome State Fault Refusal :=
  .next (command s c 0x10 fun s => planLoad s c addr.toNat len.toNat plan)

/-- RESHARD (R323). -/
def execReshard (c : Cmd) (addr : W64) (target : W64) (epoch : W64) (plan : Plan)
    (s : State) : Host.Outcome State Fault Refusal :=
  .next (command s c 0x11 fun s => reshardCmd s c addr.toNat target.toNat epoch.toNat plan)

/-- RESHARD_CHECK_COMPLETE (R324): the check of the new plan ends. -/
def execReshardCheckComplete (p : Part) (s : State) : Host.Outcome State Fault Refusal := .next (reshardCheck s p)

/-- READY_VOTE (R325, R351): a child's contribution to the ready vote, or its result from the parent. -/
def execReadyVote (p : Part) (m : VoteMsg) (s : State) : Host.Outcome State Fault Refusal :=
  .next (readyVoteMsg s p m.src.toNat m.vote)

/-- RESHARD_MOVE_MESSAGE (R326): a moved row or part of a dense area arrives, or the acknowledgement of one. -/
def execReshardMoveMessage (p : Part) (m : MoveFrom) (s : State) : Host.Outcome State Fault Refusal :=
  .next (moveArrive s p m.src.toNat m.msg)

/-- COMMIT_VOTE (R325, R351): a child's contribution to the commit vote, or its result from the parent. -/
def execCommitVote (p : Part) (m : VoteMsg) (s : State) : Host.Outcome State Fault Refusal :=
  .next (commitMsg s p m.src.toNat m.vote)

/-- PAUSE (R376). -/
def execPause (c : Cmd) (s : State) : Host.Outcome State Fault Refusal := .next (command s c 0x12 fun s => pauseJob s c)

/-- RESUME (R377). -/
def execResume (c : Cmd) (s : State) : Host.Outcome State Fault Refusal :=
  .next (command s c 0x13 fun s => resumeJob s c)

/-- PAIR (R300). -/
def execPair (c : Cmd) (base : W64) (size : W64) (s : State) : Host.Outcome State Fault Refusal :=
  .next (command s c 0x14 fun s => pairJob s c base.toNat size.toNat)

/-- ABORT_COMMAND (R396): ABORT of one command. -/
def execAbortCommand (c : Cmd) (ring : RingNum) (tag : BitVec 16) (s : State) : Host.Outcome State Fault Refusal :=
  .next (command s c 0x18 fun s => abortOne s c ring.toNat tag.toNat)

/-- ABORT_RING (R396): ABORT of a ring. -/
def execAbortRing (c : Cmd) (ring : RingNum) (s : State) : Host.Outcome State Fault Refusal :=
  .next (command s c 0x18 fun s => abortRingCmd s c ring.toNat)

/-- ABORT_FUNCTION (R396): ABORT of a function. -/
def execAbortFunction (c : Cmd) (fn : FnNum) (s : State) : Host.Outcome State Fault Refusal :=
  .next (command s c 0x18 fun s => abortFnCmd s c fn.toNat)

/-- ABORT_JOB (R396): ABORT of the job. -/
def execAbortJob (c : Cmd) (s : State) : Host.Outcome State Fault Refusal :=
  .next (command s c 0x18 fun s => abortJobCmd s c)

/-- ATTACH (R393). -/
def execAttach (c : Cmd) (part : Part) (addr : W64) (size : W32) (s : State) : Host.Outcome State Fault Refusal :=
  .next (command s c 0x19 fun s => attachCmd s c part addr.toNat size.toNat)

/-- ADOPT (R394). -/
def execAdopt (c : Cmd) (part : Part) (addr : W64) (size : W32) (s : State) : Host.Outcome State Fault Refusal :=
  .next (command s c 0x1A fun s => adoptCmd s c part addr.toNat size.toNat)

end Sys2Proof.Machine
end

