-- ==== Sys2Proof/Machine/LookupCmds.lean ====
section
/-! DEFINITION. The embedding lookup: batches, sorts, the rounds of the exchange, fetches, pooling and row updates (R138 to R169, R209, R210, R299). -/

namespace Sys2Proof.Machine

/-- BATCH (R140). -/
def execBatch (c : Cmd) (_addr : W64) (len : W32) (step : W64) (chan : ChanNum)
    (s : State) : Host.Outcome State Fault Refusal :=
  .next (command s c 0x01 fun s => batchStart s c len.toNat step.toNat chan)

/-- BATCH_DMA_COMPLETE (R139): the batch has landed: it is checked and accepted or rejected. -/
def execBatchDmaComplete (p : Part) (step : W64) (status : Byte) (data : List Byte)
    (s : State) : Host.Outcome State Fault Refusal :=
  .next (batchDone s p step.toNat status.toNat data)

/-- SORT_START (R144): a sort unit takes its next list. -/
def execSortStart (su : BitVec 3) (p : Part) (step : W64) (g : Group) (tid : Tid)
    (s : State) : Host.Outcome State Fault Refusal :=
  .next (whileActive s fun s => sortBegin s su.toNat p step.toNat g.toNat tid.toNat)

/-- SORT_COMPLETE (R143): a sort ends. -/
def execSortComplete (su : BitVec 3) (s : State) : Host.Outcome State Fault Refusal := .next (sortEnd s su.toNat)

/-- INDEX_ROUND_MESSAGE (R151): an index round arrives at the owner. -/
def execIndexRoundMessage (p : Part) (m : RMsg) (s : State) : Host.Outcome State Fault Refusal :=
  .next (indexArrive s p m)

/-- OWNER_FETCH (R151): the owner fetches one entry of an index message. -/
def execOwnerFetch (p : Part) (g : Group) (src : Lidx) (round : Byte) (k : W32)
    (s : State) : Host.Outcome State Fault Refusal :=
  .next (Sys2Proof.Machine.ownerFetch s p g.toNat src.toNat round.toNat k.toNat)

/-- PAYLOAD_ROUND_MESSAGE (R147): a payload round arrives. -/
def execPayloadRoundMessage (p : Part) (m : RMsg) (s : State) : Host.Outcome State Fault Refusal :=
  .next (payloadArrive s p m)

/-- SPILL_ROUND (R148): an owner pulls one spill round. -/
def execSpillRound (p : Part) (g : Group) (src : Lidx) (s : State) : Host.Outcome State Fault Refusal :=
  .next (spillPull s p g.toNat src.toNat)

/-- SPILL_ROUND_MESSAGE (R148): a message of a spill round arrives. -/
def execSpillRoundMessage (p : Part) (kind : RKind) (m : RMsg) (s : State) : Host.Outcome State Fault Refusal :=
  .next (spillArrive s p kind m)

/-- POOLING_START (R156): the group pools its rows. -/
def execPoolingStart (p : Part) (g : Group) (s : State) : Host.Outcome State Fault Refusal :=
  .next (poolGroup s p g.toNat)

/-- GRADIENT_ROUND_MESSAGE (R299): a round of backward partials arrives at the owner. -/
def execGradientRoundMessage (p : Part) (m : RMsg) (s : State) : Host.Outcome State Fault Refusal :=
  .next (gradArrive s p m)

/-- ROW_UPDATE (R163): one row is updated. -/
def execRowUpdate (p : Part) (g : Group) (tid : Tid) (row : RowIx) (s : State) : Host.Outcome State Fault Refusal :=
  .next (updateRow s p g.toNat tid.toNat row.toNat)

/-- FORECAST_HINT_MESSAGE (R209): Forecast hints arrive. -/
def execForecastHintMessage (p : Part) (m : RMsg) (s : State) : Host.Outcome State Fault Refusal :=
  .next (hintArrive s p m)

/-- HINT_SERVICE (R210): a queued hint is served. -/
def execHintService (p : Part) (s : State) : Host.Outcome State Fault Refusal :=
  .next (whileActive s fun s => hintServe s p)

/-- PROMOTION_READ_COMPLETE (R210): the home read of a promotion ends. -/
def execPromotionReadComplete (p : Part) (tid : Tid) (row : RowIx) (s : State) : Host.Outcome State Fault Refusal :=
  .next (whileActive s fun s => promotionEnd s p tid.toNat row.toNat)

end Sys2Proof.Machine
end

