-- ==== Sys2Proof/Machine/PowerCmds.lean ====
section
/-! DEFINITION. Power, boot, sleep, clocks, time and the Almanac (R427 to R450, R524 to R528). -/

namespace Sys2Proof.Machine

/-- POWER_54V_IN_RANGE (R526): 54 V is in range. -/
def execPower54vInRange (s : State) : Host.Outcome State Fault Refusal := .next (voltsIn s)

/-- POWER_54V_LOSS (R440): 54 V leaves its range. -/
def execPower54vLoss (s : State) : Host.Outcome State Fault Refusal := .next (voltsOut s)

/-- MGMT_BOOT (R434): the boot command. -/
def execMgmtBoot (s : State) : Host.Outcome State Fault Refusal := .next (Sys2Proof.Machine.mgmtBoot s)

/-- BOOT_VERIFY_DONE (R460): the boot ROM has verified the firmware, or has failed. -/
def execBootVerifyDone (s : State) : Host.Outcome State Fault Refusal := .next (bootVerify s)

/-- DRAM_TRAINING_DONE (R435): a DRAM stack has trained, or has failed. -/
def execDramTrainingDone (s : BitVec 5) (ok : Bool) (s' : State) : Host.Outcome State Fault Refusal :=
  .next (dramTrained s' s.toNat ok)

/-- MODULE_READY (R434): the module is ready. -/
def execModuleReady (s : State) : Host.Outcome State Fault Refusal := .next (Sys2Proof.Machine.moduleReady s)

/-- REFCLK_LOSS (R524): REFCLK goes away. -/
def execRefclkLoss (s : State) : Host.Outcome State Fault Refusal := .next (refLoss s)

/-- REFCLK_RETURN (R524): REFCLK returns. -/
def execRefclkReturn (s : State) : Host.Outcome State Fault Refusal := .next (refReturn s)

/-- PERST_ASSERT (R525): PERST# falls. -/
def execPerstAssert (portB : Bool) (s : State) : Host.Outcome State Fault Refusal := .next (perstLow s portB)

/-- PERST_RELEASE (R525): PERST# rises. -/
def execPerstRelease (portB : Bool) (s : State) : Host.Outcome State Fault Refusal := .next (perstHigh s portB)

/-- PWR_BRAKE_ASSERT (R527): PWR_BRAKE# falls. -/
def execPwrBrakeAssert (s : State) : Host.Outcome State Fault Refusal := .next (brakeOn s)

/-- PWR_BRAKE_RELEASE (R527): PWR_BRAKE# rises. -/
def execPwrBrakeRelease (s : State) : Host.Outcome State Fault Refusal := .next (brakeOff s)

/-- POWER_SAMPLE (R441): a power sample. -/
def execPowerSample (watts : BitVec 16) (s : State) : Host.Outcome State Fault Refusal :=
  .next (Sys2Proof.Machine.powerSample s watts.toNat)

/-- DUTY_ADJUST_TICK (R441): the duty is adjusted. -/
def execDutyAdjustTick (s : State) : Host.Outcome State Fault Refusal := .next (dutyTick s)

/-- WATCHDOG_EXPIRY (R444): the watchdog expires. -/
def execWatchdogExpiry (s : State) : Host.Outcome State Fault Refusal := .next (watchdog s)

/-- HK_RESTART_COMPLETE (R444): the controller runs again. -/
def execHkRestartComplete (s : State) : Host.Outcome State Fault Refusal := .next (hkRestarted s)

/-- PWR_REQ_SLEEP (R436): 1 written to PWR_REQ. -/
def execPwrReqSleep (w : Who) (s : State) : Host.Outcome State Fault Refusal := .next (requestSleep s w false)

/-- PWR_REQ_OFF (R439): 2 written to PWR_REQ. -/
def execPwrReqOff (w : Who) (force : Bool) (s : State) : Host.Outcome State Fault Refusal :=
  .next (requestOff s w force)

/-- PWR_REQ_WAKE (R438): 0 written to PWR_REQ. -/
def execPwrReqWake (w : Who) (s : State) : Host.Outcome State Fault Refusal := .next (requestWake s w false)

/-- SLEEP_WAIT_TIMEOUT (R436): PWR_SLEEPWAIT has passed. -/
def execSleepWaitTimeout (s : State) : Host.Outcome State Fault Refusal := .next (waitTimeout s)

/-- SLEEP_ENTRY (R437): the module goes to sleep. -/
def execSleepEntry (s : State) : Host.Outcome State Fault Refusal := .next (enterSleep s)

/-- OFF_ENTRY (R439): the module turns off. -/
def execOffEntry (s : State) : Host.Outcome State Fault Refusal := .next (enterOff s)

/-- MGMT_WAKE (R438): the wake command. -/
def execMgmtWake (s : State) : Host.Outcome State Fault Refusal := .next (wakeEvent s)

/-- WAKE_COMPLETE (R438): the module is awake. -/
def execWakeComplete (s : State) : Host.Outcome State Fault Refusal := .next (wakeDone s)

/-- TIM_SET (R445): a write of TIM_SET. -/
def execTimSet (w : Who) (v : W64) (s : State) : Host.Outcome State Fault Refusal :=
  .next (Sys2Proof.Machine.timSet s w v.toNat)

/-- TIM_UTC_WRITE (R447): a write of TIM_UTC. -/
def execTimUtcWrite (w : Who) (v : W64) (s : State) : Host.Outcome State Fault Refusal := .next (utcWrite s w v.toNat)

/-- PTM_DIALOG (R448): a PTM dialog ends. -/
def execPtmDialog (portB : Bool) (t1 : W64) (t2 : W64) (t3 : W64) (t4 : W64) (delay : W32)
    (s : State) : Host.Outcome State Fault Refusal :=
  .next (Sys2Proof.Machine.ptmDialog s portB t1.toNat t2.toNat t3.toNat t4.toNat delay.toNat)

/-- CRYSTAL_TICK (R446): a tick of the crystal. -/
def execCrystalTick (s : State) : Host.Outcome State Fault Refusal := .next (Sys2Proof.Machine.crystalTick s)

/-- CALENDAR_TICK (R447): a second of the calendar. -/
def execCalendarTick (s : State) : Host.Outcome State Fault Refusal := .next (Sys2Proof.Machine.calendarTick s)

/-- ALMANAC_READ (R450): 1 written to AON_ALMGO. -/
def execAlmanacRead (w : Who) (s : State) : Host.Outcome State Fault Refusal :=
  .next (Sys2Proof.Machine.almanacRead s w)

end Sys2Proof.Machine
end

