-- ==== Sys2Proof/Machine/Registers.lean ====
section
/-! DEFINITION. The register map: what every register reads as, who may reach it, and what a write does
(R9, R452, R453, R482, R486, R487, R497 to R517). -/

namespace Sys2Proof.Machine

/-! ### Read values, block by block -/

/-- The port whose FN_ and PRT_ blocks a requester sees. -/
def portSeen (w : Who) : Bool := match w with | none => Config.mgmtPort | some f => portOf f.toNat

/-- The function of FN_ entry `i` as a requester sees it. -/
def fnSeen (w : Who) (i : Nat) : Nat := i + 32 * b2n (portSeen w)

/-- ID_ (R502). -/
def idVal (w : Who) (o : Nat) : Nat :=
  match o with
  | 0x000 => 0x52021001
  | 0x008 => 4 * 2 ^ 48 + 32 * 2 ^ 40 + 24 * 2 ^ 32 + 256 * 2 ^ 16 + 16
  | 0x010 => match w with
    | none => Config.mgmtFn % 256
    | some f => 128 * b2n (isPf f.toNat) + 64 * b2n (portOf f.toNat) + f.toNat
  | _ => 0

/-- FN_ (R503). -/
def fnVal (s : State) (w : Who) (o : Nat) : Nat :=
  if o < 0x800 then
    let f := getFn s (fnSeen w (o / 0x40))
    match o % 0x40 with
    | 0x08 => f.poll
    | 0x10 => f.part.toNat + 4 * b2n f.pv + 256 * b2n f.tgrant
    | 0x18 => f.winbase
    | 0x20 => b2n f.det + 2 * b2n (getPort s (portSeen w)).hold
    | _ => 0
  else if o = 0xF08 then natOf (s.pctl.map (BitVec.ofNat 8))
  else 0

/-- PRT_ (R506). -/
def prtVal (s : State) (w : Who) (o : Nat) : Nat :=
  let q := getPort s (portSeen w)
  match o with
  | 0x00 => natOf (q.weights.map (BitVec.ofNat 8))
  | 0x08 => natOf (q.limits.flatMap (bytesOf 2))
  | 0x10 => b2n q.up + 2 * b2n q.hold + 16 * q.rate + 256 * q.width
  | 0x18 => q.retrain
  | 0x20 => q.latedrop
  | _ => 0

/-- DMA_ (R505). -/
def dmaVal (s : State) (o : Nat) : Nat :=
  let c := o / 16
  let v := getChan s c
  if o % 16 = 0 then v.part.toNat + 16 * v.use + 2 ^ 16 * v.dcq
  else Nat.min 4 v.prog.length + 2 ^ 16 * b2n v.plan
    + (match chanBound s c with | some n => 2 ^ 17 + 2 ^ 18 * n.toNat | none => 0)

/-- The code of a domain's state in PWR_DSTAT. -/
def domCode : DomState → Nat
  | .off => 0
  | .retain => 1
  | .waking => 2
  | .on => 3

/-- 32 domain states from domain `d` on. -/
def domWord (s : State) (d : Nat) : Nat := (List.range 32).foldl (fun v i => v + domCode (dom s (d + i)) * 4 ^ i) 0

/-- PWR_ (R509). -/
def pwrVal (s : State) (o : Nat) : Nat :=
  let p := s.pwr
  match o with
  | 0x00 => p.regReq + 256 * b2n p.regForce
  | 0x08 => p.rstat + 16 * p.why + 2 ^ 16 * p.dtid + 2 ^ 28 * p.dpart
  | 0x10 => p.wait
  | 0x18 => p.limit
  | 0x20 => p.avg % 2 ^ 16 + 2 ^ 16 * (p.sample % 2 ^ 16) + 2 ^ 32 * s.arr.duty
  | 0x30 => domWord s 0
  | 0x38 => domWord s 32
  | _ => 0

/-- CLK_STAT: what is locked while the housekeeping controller's domain is on (R427, R428, R509). -/
def clkStat (s : State) : Nat :=
  if dom s 62 ≠ .on then 0
  else
    let pll : Nat := b2n (s.pwr.refclk && s.pwr.mst != .sleep)
    let links : Nat := b2n (s.pwr.refclk && dom s 54 == .on)
    b2n s.pwr.refclk + 2 * pll + 4 * pll + 8 * pll + 16 * links + 32 * links + 64 * b2n (!s.portA.perst)
      + 128 * b2n (!s.portB.perst) + 256

/-- TIM_ (R510). -/
def timVal (s : State) (o : Nat) : Nat :=
  let t := s.tim
  match o with
  | 0x00 => t.now
  | 0x08 => t.src
  | 0x18 => t.utc
  | 0x20 => t.ptmInt
  | 0x28 => pat 64 (nth 0 t.ptmOff 0)
  | 0x30 => pat 64 (nth 0 t.ptmOff 1)
  | 0x38 => t.lead
  | 0x40 => pat 64 t.theta
  | _ => 0

/-- The code of a link state in LNK_STAT. -/
def linkCode : LinkState → Nat
  | .down => 0
  | .training => 1
  | .full => 2
  | .degraded => 3
  | .dead => 4
  | .loop => 5

/-- LNK_ (R511). -/
def lnkVal (s : State) (o : Nat) : Nat :=
  if o = 0 then s.fabr.vcwC + 16 * s.fabr.vcwB
  else if o = 8 then s.fabr.loop
  else if 0x100 ≤ o ∧ o < 0x1C0 then
    let l := getLink s ((o - 0x100) / 8)
    linkCode l.st + 2 ^ 32 * l.lanes.toNat + 2 ^ 43 * l.plink.toNat + 2 ^ 48 * l.paddr.toNat
  else 0

/-- The code of a zone in MEM_TEMP. -/
def zoneCode : Zone → Nat
  | .normal => 0
  | .warm => 1
  | .hot => 2
  | .crit => 3

/-- MEM_ (R511). -/
def memVal (s : State) (o : Nat) : Nat :=
  if o < 28 * 8 then
    let k := getStack s (o / 8)
    pat 8 k.temp + 256 * k.cap + 2 ^ 16 * zoneCode k.zone
  else if 0x100 ≤ o ∧ o < 0x118 then pat 8 (nth 0 s.pwr.dieTemp ((o - 0x100) / 8))
  else 0

/-- TIER_ (R512). -/
def tierVal (s : State) (o : Nat) : Nat :=
  let p := o / 0x100
  let r := o % 0x100
  if 4 ≤ p then 0
  else if r < 0x30 then
    let w := tabGet (0, 0) s.wins (4 * p + r / 16)
    if r % 16 = 0 then w.1 else w.2
  else if r = 0x30 then b2n (nth false s.tierLock p)
  else if r = 0x40 then (List.range 4).foldl (fun v k => v + tabGet 0 s.rates (4 * p + k) * 256 ^ k) 0
  else 0

/-- ROW_ (R513). -/
def rowVal (s : State) (o : Nat) : Nat := if o % 0x40 = 0 ∧ o < 0x100 then nth 0 s.tdir (o / 0x40) else 0

/-- SEC_ (R515). -/
def secVal (s : State) (o : Nat) : Nat :=
  let c := s.sec
  if o < 0x40 then natOf (slice c.mbox o 8)
  else
    match o with
    | 0x48 => 2 * b2n c.mbDone
    | 0x50 => c.attDst
    | 0x60 => b2n c.attDone + 256 * c.attStatus + 2 ^ 32 * c.attLen
    | 0x68 => b2n c.dbg + 2 * (c.gen.getD Config.noGeneration % 8) + 16 * b2n c.gen.isNone + 32 * b2n c.runB
        + 64 * b2n c.fallback + 2 ^ 16 * (svCounter s % 1024) + 2 ^ 26 * (c.svn % 1024)
    | _ => 0

/-- AON_ (R516). -/
def aonVal (s : State) (o : Nat) : Nat :=
  let f := s.fabr
  match o with
  | 0x00 => f.slot.toNat + 64 * f.pod.toNat + 2 ^ 14 * b2n f.fab + 2 ^ 60 * b2n f.podW + 2 ^ 61 * b2n f.fixed + 2 ^ 62 * f.roll
  | 0x10 => b2n s.tim.valid + 2 * b2n s.tim.calValid + 4 * b2n s.tim.syncLost
  | 0x18 => s.almDst
  | 0x28 => b2n s.almDone + 2 ^ 32 * s.almLen
  | 0x30 => b2n s.pwr.trip + 2 * s.pwr.tripCause
  | _ => 0

/-- A byte of OTP_: the device secret and the die repair fuses read 0 (R471, R515). -/
def otpByte (s : State) (n : Nat) : Byte := if (0x40 ≤ n ∧ n < 0xC0) ∨ 0x1800 ≤ n then 0 else s.sec.otp.get n

/-- EVT_ (R507). -/
def evtVal (s : State) (o : Nat) : Nat :=
  if o < 0x10000 then (getRing s (o / 4)).drop + 2 ^ 32 * (getRing s (o / 4 + 1)).drop
  else if o < 0x10200 then (getFn s ((o - 0x10000) / 8)).noring
  else 0

/-- RNG_ (R504). -/
def rngVal (s : State) (o : Nat) : Nat :=
  let r := getRing s (o / 0x40)
  match o % 0x40 with
  | 0x00 => r.base
  | 0x08 => r.dbaddr
  | 0x10 => r.link + 2 ^ 25 * r.size + 2 ^ 30 * r.kind + 2 ^ 32 * r.cls + 2 ^ 40 * r.fn + 2 ^ 63 * b2n (r.enable || r.enHeld)
  | 0x18 => r.modt + 2 ^ 16 * r.modc + 2 ^ 32 * r.vec + 2 ^ 40 * r.emask
  | _ => 0

/-- Whether a counter block counts in core cycles. -/
def coreBlk (b : Nat) : Bool := decide (b ≤ 10) || b == 31

/-- A counter block of a set, live or shadow (R478). -/
def blkVal (v : CtrSet) (o : Nat) : Nat :=
  let b := o / 0x100
  let c := tabGet {} v.blk b
  let r := o % 0x100
  if r = 0 then (if coreBlk b then v.cycCore else v.cycM)
  else if r = 8 then c.ovf
  else if r < 0x50 then nth 0 c.sel (r / 8 - 2)
  else if r < 0x90 then nth 0 c.val (r / 8 - 10)
  else if r < 0xB0 then nth 0 c.tly (r / 8 - 18)
  else if r = 0xB0 then c.alo
  else if r = 0xB8 then c.ahi
  else 0

/-- A trace configuration (R487). -/
def traceVal (s : State) (o : Nat) : Nat :=
  let c := nth {} s.isl.trace (o / 0x40)
  match o % 0x40 with
  | 0x00 => c.n + 2 ^ 32 * c.srcm + 2 ^ 51 * b2n c.ovw + 2 ^ 52 * c.size
  | 0x08 => c.base
  | 0x10 => c.trp
  | 0x18 => c.trc
  | 0x20 => c.drop
  | _ => 0

/-- A Frost set's request, target, status, capture time and seal (R492). -/
def frostVal (s : State) (o : Nat) : Nat :=
  let f := getFrost s (o / 0x40)
  match o % 0x40 with
  | 0x00 => f.mode
  | 0x08 => f.target
  | 0x10 => b2n f.armed + 2 * b2n f.done + 4 * f.res + 2 ^ 32 * f.seq
  | 0x18 => f.capTime
  | 0x20 => f.capSeal
  | _ => 0

/-- CTR_ (R478 to R497). -/
def ctrVal (s : State) (o : Nat) : Nat :=
  if o < 0x4000 then blkVal s.isl.live o
  else if o < 0x4140 then frostVal s (o - 0x4000)
  else if o = 0x4800 then s.isl.bwLen
  else if o = 0x4808 then s.isl.live.bwIdx
  else if o = 0x4A00 then nth 0 s.isl.vfrd 0
  else if o = 0x4A08 then nth 0 s.isl.vfrd 1
  else if 0x4C00 ≤ o ∧ o < 0x5600 then
    let i := (o - 0x4C00) / 0x200
    if o % 0x200 < 58 * 8 then tabGet 0 (getFrost s i).set.win (o % 0x200 / 8) else 0
  else if o = 0x6000 then s.isl.xsel
  else if 0x6008 ≤ o ∧ o < 0x60C8 then xval s ((o - 0x6008) / 8)
  else if 0x8000 ≤ o ∧ o < 0xF600 then
    let c := (o - 0x8000) / 0x200
    tabGet 0 s.isl.ring (64 * c + o % 0x200 / 8)
  else if 0x100000 ≤ o ∧ o < 0x600000 ∧ o % 0x100000 < 0x4000 then
    blkVal (getFrost s (o / 0x100000 - 1)).set (o % 0x100000)
  else 0

/-- The function whose MSI-X structures a requester sees. -/
def msixFn (w : Who) : Nat := match w with | none => 32 * b2n Config.mgmtPort | some f => f.toNat

/-- MSI-X: the table of 64 vectors; no bit is ever pending (R498). -/
def msixVal (s : State) (w : Who) (o : Nat) : Nat := if o < 0x400 then s.msixTab.readNat (0x400 * msixFn w + o) 8 else 0

/-- The 64 bits at an aligned BAR0 offset; an offset that names no register reads 0 (R7, R502). -/
def regVal (s : State) (w : Who) (o : Nat) : Nat :=
  if o < 0x1000 then idVal w o
  else if o < 0x2000 then fnVal s w (o - 0x1000)
  else if o < 0x3000 then prtVal s w (o - 0x2000)
  else if o < 0x4000 then dmaVal s (o - 0x3000)
  else if o < 0x5000 then pwrVal s (o - 0x4000)
  else if o < 0x6000 then (if o = 0x5000 then clkStat s else 0)
  else if o < 0x7000 then timVal s (o - 0x6000)
  else if o < 0x8000 then lnkVal s (o - 0x7000)
  else if o < 0x9000 then memVal s (o - 0x8000)
  else if o < 0xA000 then tierVal s (o - 0x9000)
  else if o < 0xB000 then rowVal s (o - 0xA000)
  else if o < 0xC000 then secVal s (o - 0xB000)
  else if o < 0xD000 then aonVal s (o - 0xC000)
  else if o < 0x10000 then 0
  else if o < 0x14000 then natOf ((List.range 8).map fun i => otpByte s (o - 0x10000 + i))
  else if o < 0x20000 then 0
  else if o < 0x40000 then evtVal s (o - 0x20000)
  else if o < 0x100000 then 0
  else if o < 0x200000 then rngVal s (o - 0x100000)
  else if 0x305000 ≤ o ∧ o < 0x305100 then traceVal s (o - 0x305000)
  else if o < 0x400000 then 0
  else if o < 0xA00000 then ctrVal s (o - 0x400000)
  else if 0xF00000 ≤ o ∧ o < 0xF02000 then msixVal s w (o - 0xF00000)
  else 0

/-! ### Reading rights (R363, R452, R486, R497, R503, R515) -/

/-- Whether a requester may read shadow set `i`. -/
def setRead (s : State) (w : Who) (i : Nat) : Bool := if i < 4 then ctrRead s w i else stewardOk s w

/-- Reading rights in CTR_. -/
def ctrOk (s : State) (w : Who) (o : Nat) : Bool :=
  if 0x4000 ≤ o ∧ o < 0x4140 then setRead s w ((o - 0x4000) / 0x40)
  else if 0x4A00 ≤ o ∧ o < 0x4A10 then operatorOk s w
  else if 0x4C00 ≤ o ∧ o < 0x5600 then setRead s w ((o - 0x4C00) / 0x200)
  else if 0x6008 ≤ o ∧ o < 0x60C8 then
    ctrRead s w (bits 13 12 s.isl.xsel) && (bits 31 28 s.isl.xsel == 0 || setRead s w (bits 31 28 s.isl.xsel - 1))
  else if 0x100000 ≤ o then setRead s w (o / 0x100000 - 1)
  else blockRead s w

/-- Whether a requester may read at an offset: a VF its own registers and those open to every function. -/
def canRead (s : State) (w : Who) (o : Nat) : Bool :=
  match w with
  | none => true
  | some f =>
    if 0x400000 ≤ o ∧ o < 0xA00000 then ctrOk s w (o - 0x400000)
    else if 0x305000 ≤ o ∧ o < 0x305100 then ctrRead s w ((o - 0x305000) / 0x40)
    else if 0xB000 ≤ o ∧ o < 0xB050 then stewardOk s w
    else if isPf f.toNat ∨ granted s f.toNat then true
    else
      decide (o < 0x1000) || (decide (0xC000 ≤ o) && decide (o < 0xD000)) || decide (0xF00000 ≤ o)
      || (decide (0x1000 ≤ o) && decide (o < 0x1800) && decide ((o - 0x1000) / 0x40 = f.toNat % 32))
      || (decide (0x100000 ≤ o) && decide (o < 0x200000) && decide ((getRing s ((o - 0x100000) / 0x40)).fn = f.toNat))
      || (decide (0x20000 ≤ o) && decide (o < 0x30000) && decide ((getRing s ((o - 0x20000) / 4)).fn = f.toNat))
      || (decide (0x30000 ≤ o) && decide (o < 0x30200) && decide ((o - 0x30000) / 8 = f.toNat))

/-! ### Reads (R9, R453, R499) -/

/-- Whether an access has a size of 4 or 8 bytes and is aligned to it. -/
def accessOk (off size : Nat) : Bool := (size == 4 || size == 8) && off % size == 0

/-- A read of a register clears its RS bits: SEC_MBSTAT, SEC_ATTDONE, AON_ALMDONE, CTR_FRS. -/
def readClears (s : State) (o : Nat) : State :=
  if o = 0xB048 then { s with sec := { s.sec with mbDone := false } }
  else if o = 0xB060 then { s with sec := { s.sec with attDone := false } }
  else if o = 0xC028 then { s with almDone := false }
  else if 0x404000 ≤ o ∧ o < 0x404140 ∧ o % 0x40 = 0x10 then
    let i := (o - 0x404000) / 0x40
    putFrost s i { getFrost s i with done := false }
  else s

/-- A register read: the value as the bus response. -/
def regRead (s : State) (w : Who) (off size : Nat) : State :=
  if !reaches s w then s
  else if !accessOk off size then { progError s w off with rsp := .data 0 }
  else
    let o := off / 8 * 8
    if !canRead s w o then { noAuth s w off with rsp := .data 0 }
    else
      let v := regVal s w o
      let v := if size = 8 then v else if off % 8 = 0 then v % 2 ^ 32 else v / 2 ^ 32 % 2 ^ 32
      let s := { s with rsp := .data v }
      if off % 8 = 0 then readClears s o else s

/-! ### Writes, block by block -/

/-- A write in progress: who, the aligned offset, the 64 bits with the uncovered half as it stands, and the halves that
the access covers. -/
structure RegWr where
  w : Who
  o : Nat
  v : Nat
  lo : Bool
  hi : Bool
  deriving DecidableEq, Repr

/-- A write by its right and the range of its value (R453, R500). -/
def ranged (s : State) (a : RegWr) (right range : Bool) (f : State → State) : State :=
  withAuth s right a.w a.o fun s => if range then f s else progError s a.w a.o

/-- FN_ (R370, R371, R503). -/
def fnWr (s : State) (a : RegWr) : State :=
  let o := a.o - 0x1000
  let f := fnSeen a.w (o / 0x40)
  let own : Bool := match a.w with
    | none => true
    | some g => g.toNat == f || (isPf g.toNat && pfOf f == g.toNat) || granted s g.toNat
  if o < 0x800 then
    match o % 0x40 with
    | 0x00 => if a.lo then fnWake s a.w f (a.v % 2 ^ 32) else s
    | 0x08 => ranged s a own (decide (bits 11 0 a.v ≤ 4000)) fun s => putFn s f { getFn s f with poll := bits 11 0 a.v }
    | 0x10 => if a.lo then partitionAssign s a.w f a.v else s
    | 0x18 => withAuth s own a.w a.o fun s => putFn s f { getFn s f with winbase := bits 63 30 a.v * 2 ^ 30 }
    | _ => s
  else if o = 0xF00 ∧ a.lo then fnRelease s a.w a.v
  else s

/-- PRT_ (R506): the port's PF. -/
def prtWr (s : State) (a : RegWr) : State :=
  let pb := portSeen a.w
  let q := getPort s pb
  let byte (i : Nat) : Nat := bits (8 * i + 7) (8 * i) a.v
  let half (i : Nat) : Nat := bits (16 * i + 15) (16 * i) a.v
  let ws := [byte 0, byte 1, byte 2, byte 3]
  let ls := [half 0, half 1, half 2]
  match a.o - 0x2000 with
  | 0x00 => ranged s a (operatorOk s a.w) (ws.all fun x => decide (1 ≤ x ∧ x ≤ 64)) fun s => putPort s pb { q with weights := ws }
  | 0x08 => ranged s a (operatorOk s a.w) (ls.all fun x => decide (1 ≤ x)) fun s => putPort s pb { q with limits := ls }
  | _ => s

/-- DMA_ (R399, R505): LK while a ring is bound or a plan names the channel; the fields lie in the low half. -/
def dmaWr (s : State) (a : RegWr) : State :=
  let c := (a.o - 0x3000) / 16
  let v := getChan s c
  if a.o % 16 ≠ 0 ∨ !a.lo then s
  else
    let right := partOk s a.w v.part.toNat && partOk s a.w (bits 1 0 a.v)
    let free := !v.plan && (chanBound s c).isNone
    ranged s a right (free && bits 5 4 a.v != 3) fun s =>
      putChan s c { v with part := BitVec.ofNat 2 (bits 1 0 a.v), use := bits 5 4 a.v, dcq := bits 29 16 a.v }

/-- PWR_ (R436, R438, R439, R441, R509). -/
def pwrWr (s : State) (a : RegWr) : State :=
  match a.o - 0x4000 with
  | 0x00 =>
    if !a.lo then s
    else
      match bits 1 0 a.v with
      | 0 => requestWake s a.w (bit 8 a.v)
      | 1 => requestSleep s a.w (bit 8 a.v)
      | 2 => requestOff s a.w (bit 8 a.v)
      | _ => ranged s a (operatorOk s a.w) false id
  | 0x10 =>
    let t := bits 13 0 a.v
    ranged s a (operatorOk s a.w) (decide (1 ≤ t ∧ t ≤ 10000)) fun s => { s with pwr := { s.pwr with wait := t } }
  | 0x18 =>
    let t := bits 10 0 a.v
    ranged s a (if 950 < t then stewardOk s a.w else operatorOk s a.w) (decide (300 ≤ t ∧ t ≤ 1150)) fun s =>
      { s with pwr := { s.pwr with limit := t } }
  | _ => s

/-- TIM_ (R445, R447, R510). -/
def timWr (s : State) (a : RegWr) : State :=
  match a.o - 0x6000 with
  | 0x08 => withAuth s (operatorOk s a.w) a.w a.o fun s => { s with tim := { s.tim with src := bits 1 0 a.v } }
  | 0x10 =>
    let v := (if a.lo then a.v else s.tim.now) % 2 ^ 32 + (if a.hi then a.v else s.tim.now) / 2 ^ 32 * 2 ^ 32
    timSet s a.w v
  | 0x18 => utcWrite s a.w a.v
  | 0x20 =>
    let t := bits 9 0 a.v
    ranged s a (operatorOk s a.w) (decide (1 ≤ t ∧ t ≤ 1000)) fun s => { s with tim := { s.tim with ptmInt := t } }
  | 0x38 =>
    let t := bits 16 0 a.v
    ranged s a (operatorOk s a.w) (decide (1000 ≤ t ∧ t ≤ 100000)) fun s => { s with tim := { s.tim with lead := t } }
  | _ => s

/-- LNK_LOOP: a link whose bit changes goes down, and trains against itself or towards its partner (R360, R511). -/
def loopWrite (s : State) (w : Who) (v : Nat) : State :=
  withAuth s (stewardOk s w || (operatorOk s w && s.jobs.isEmpty)) w 0x7008 fun s =>
    let turn := (List.range 24).filter fun k => bit k v != bit k s.fabr.loop
    let s := turn.foldl (fun s k => putLink s k (downLink (getLink s k))) s
    { s with fabr := { s.fabr with loop := bits 23 0 v } }

/-- LNK_ (R341, R511). -/
def lnkWr (s : State) (a : RegWr) : State :=
  match a.o - 0x7000 with
  | 0x00 =>
    let c := bits 3 0 a.v
    let b := bits 7 4 a.v
    ranged s a (stewardOk s a.w) (decide (1 ≤ c ∧ 1 ≤ b)) fun s => { s with fabr := { s.fabr with vcwC := c, vcwB := b } }
  | 0x08 => if a.lo then loopWrite s a.w (bits 23 0 a.v) else s
  | _ => s

/-- Base and end of tier 1 to 3. -/
def tierEnds (k : Nat) : Nat × Nat := nth (0, 0) [(t1Base, t1End), (t2Base, t2End), (t3Base, t3End)] k

/-- Whether a window of partition `p` in tier `k + 1` stays in the tier and off the other partitions' windows. -/
def winOk (s : State) (p k : Nat) (w : Nat × Nat) : Bool :=
  let n := w.2 * 2 ^ 30
  let e := tierEnds k
  w.2 == 0 || (decide (e.1 ≤ w.1 ∧ w.1 + n ≤ e.2)
    && (List.range 4).all fun q => q == p ||
      (let x := tabGet (0, 0) s.wins (4 * q + k)
       !overlaps w.1 n x.1 (x.2 * 2 ^ 30)))

/-- Whether the regulator rates keep the sums of R232. -/
def ratesOk (t : Tab Nat) : Bool :=
  (List.range 4).all fun b =>
    decide ((List.range 4).foldl (fun n p => n + tabGet 0 t (4 * p + b)) 0 ≤ if b = 3 then 80 else 100)

/-- TIER_ (R198, R232, R512): the windows LK under the partition's lock. -/
def tierWr (s : State) (a : RegWr) : State :=
  let p := (a.o - 0x9000) / 0x100
  let r := (a.o - 0x9000) % 0x100
  if 4 ≤ p then s
  else if r < 0x30 then
    let k := r / 16
    if r % 16 ≠ 0 ∧ !a.lo then s else
    let old := tabGet (0, 0) s.wins (4 * p + k)
    let new := if r % 16 = 0 then (bits 63 30 a.v * 2 ^ 30, old.2) else (old.1, bits 15 0 a.v)
    ranged s a (partOk s a.w p) (!nth false s.tierLock p && winOk s p k new) fun s =>
      { s with wins := tabSet s.wins (4 * p + k) new }
  else if r = 0x40 then
    let t := (List.range 4).foldl (fun t b => tabSet t (4 * p + b) (bits (8 * b + 7) (8 * b) a.v)) s.rates
    ranged s a (partOk s a.w p) (ratesOk t) fun s => { s with rates := t }
  else s

/-- ROW_TDIR: 512 MiB in the partition's T1 window, LK under the partition's lock (R513). -/
def rowWr (s : State) (a : RegWr) : State :=
  let p := (a.o - 0xA000) / 0x40
  let b := bits 63 30 a.v * 2 ^ 30
  if 4 ≤ p ∨ a.o % 0x40 ≠ 0 then s
  else
    ranged s a (partOk s a.w p) (!nth false s.tierLock p && (b == 0 || inTier s (BitVec.ofNat 2 p) 1 b (2 ^ 29))) fun s =>
      { s with tdir := setNth s.tdir p b }

/-- The request block of the mailbox as its fields. -/
def mboxReq (s : State) (w : Who) : SReq :=
  let m := s.sec.mbox
  { who := w, tag := BitVec.ofNat 16 (natOf (slice m 2 2)), addr := BitVec.ofNat 64 (natOf (slice m 8 8)),
    len := BitVec.ofNat 32 (natOf (slice m 24 4)), operand := nth 0 m 28 }

/-- SEC_MBGO: the codes whose request is its block alone run; a code that is not listed completes with INVALID; the
others come with their data as commands of their own (R456). -/
def mboxGo (s : State) (w : Who) : State :=
  withAuth s (stewardOk s w) w 0xB040 fun s =>
    let r := mboxReq s w
    match (nth 0 s.sec.mbox 0).toNat with
    | 2 => svCommit s r
    | 5 => dbgUnlock s r
    | 6 => idCsr s r
    | c => if c = 0 ∨ 8 < c then refuseReq s r c 5 else s

/-- SEC_ (R455, R465, R515). -/
def secWr (s : State) (a : RegWr) : State :=
  let o := a.o - 0xB000
  if o < 0x40 then
    withAuth s (stewardOk s a.w) a.w a.o fun s =>
      { s with sec := { s.sec with mbox := s.sec.mbox.take o ++ bytesOf 8 a.v ++ s.sec.mbox.drop (o + 8) } }
  else
    match o with
    | 0x40 => if a.lo && bit 0 a.v then mboxGo s a.w else s
    | 0x50 => withAuth s (operatorOk s a.w) a.w a.o fun s =>
        { s with sec := { s.sec with attDst := bits 63 12 a.v * 4096 } }
    | 0x58 => if a.lo && bit 0 a.v then attest s a.w (some (s.sec.mbox.take 48)) else s
    | _ => s

/-- AON_ (R344, R450, R516). -/
def aonWr (s : State) (a : RegWr) : State :=
  match a.o - 0xC000 with
  | 0x00 => if a.lo then nodeWrite s a.w a.v else s
  | 0x08 => if a.lo && bit 0 a.v then rollRestart s a.w else s
  | 0x18 => withAuth s (operatorOk s a.w) a.w a.o fun s => { s with almDst := bits 63 12 a.v * 4096 }
  | 0x20 => if a.lo && bit 0 a.v then almanacRead s a.w else s
  | _ => s

/-- The attributes that a write of a ring's entry but +0x10 names: LK while ENABLE is 1. -/
def rngAttr (r : Ring) (o v : Nat) : Ring :=
  match o with
  | 0x00 => { r with base := bits 63 12 v * 4096 }
  | 0x08 => { r with dbaddr := bits 63 3 v * 8 }
  | 0x18 => { r with modt := bits 9 0 v, modc := bits 24 16 v, vec := bits 37 32 v, emask := bits 47 40 v }
  | _ => r

/-- RNG_ (R366, R504). -/
def rngWr (s : State) (a : RegWr) : State :=
  let n := (a.o - 0x100000) / 0x40
  let r := getRing s n
  if a.o % 0x40 = 0x10 then rngCtl s a.w n a.v
  else if a.o % 0x40 = 0x00 ∨ a.o % 0x40 = 0x08 ∨ a.o % 0x40 = 0x18 then
    ranged s a (ringRight s a.w r) (!r.enable) fun s => putRing s n (rngAttr r (a.o % 0x40) a.v)
  else s

/-! ### Counter registers (R481, R482, R487, R492, R497) -/

/-- Whether a requester may write the address limits of a block: no other partition's counter uses them. -/
def limitsOk (s : State) (w : Who) (c : CtrBlk) : Bool :=
  stewardOk s w || ((List.range 4).any (partOk s w)
    && (List.range 8).all fun k => !bit 32 (nth 0 c.sel k) || partOk s w (k / 2))

/-- A write to a live counter block. -/
def blkWr (s : State) (a : RegWr) : State :=
  let o := a.o - 0x400000
  let b := o / 0x100
  let r := o % 0x100
  let c := tabGet {} s.isl.live.blk b
  let put (s : State) (c : CtrBlk) : State := modLive s fun l => { l with blk := tabSet l.blk b c }
  if r = 0x08 then
    let v := (if a.lo then a.v % 2 ^ 32 else 0) % 4096
    let right := (List.range 8).all (fun k => !bit k v || partOk s a.w (k / 2)) && (v / 256 == 0 || operatorOk s a.w)
    withAuth s right a.w a.o fun s => put s { c with ovf := c.ovf &&& (4095 - v) }
  else if 0x10 ≤ r ∧ r < 0x50 then
    let k := r / 8 - 2
    ranged s a (partOk s a.w (k / 2)) (bits 31 30 a.v != 3) fun s =>
      put s { c with sel := setNth c.sel k (bits 32 20 a.v * 2 ^ 20 + bits 16 0 a.v) }
  else if 0x50 ≤ r ∧ r < 0x90 then
    let k := r / 8 - 10
    withAuth s (partOk s a.w (k / 2)) a.w a.o fun s => put s { c with val := setNth c.val k (a.v % 2 ^ 48) }
  else if r = 0xB0 then withAuth s (limitsOk s a.w c) a.w a.o fun s => put s { c with alo := a.v }
  else if r = 0xB8 then withAuth s (limitsOk s a.w c) a.w a.o fun s => put s { c with ahi := a.v }
  else s

/-- A write of a Frost set's request or target. -/
def frostWr (s : State) (a : RegWr) : State :=
  let o := a.o - 0x404000
  let i := o / 0x40
  match o % 0x40 with
  | 0x00 =>
    if !a.lo then s
    else
      match bits 1 0 a.v with
      | 0 => frostCancel s a.w i
      | 1 => frostArmTime s a.w i (getFrost s i).target
      | 2 => frostArmSeal s a.w i (getFrost s i).target
      | _ => frostNow s a.w i
  | 0x08 => withAuth s (frostOk s a.w i) a.w a.o fun s => putFrost s i { getFrost s i with target := a.v }
  | _ => s

/-- A write of a trace configuration: SIZE and OVW are LK while SRCM is not 0. -/
def traceWr (s : State) (a : RegWr) : State :=
  let p := (a.o - 0x305000) / 0x40
  let c := nth {} s.isl.trace p
  let put (s : State) (c : TraceCfg) : State := modIsl s fun i => { i with trace := setNth i.trace p c }
  match a.o % 0x40 with
  | 0x00 =>
    withAuth s (partOk s a.w p) a.w a.o fun s =>
      let size := bits 55 52 a.v
      let ovw := bit 51 a.v
      let s := if c.srcm ≠ 0 ∧ (size ≠ c.size ∨ ovw ≠ c.ovw) then progError s a.w a.o else s
      let c := if c.srcm = 0 then { c with size := size, ovw := ovw } else c
      put s { c with srcm := bits 50 32 a.v, n := bits 23 0 a.v }
  | 0x08 =>
    ranged s a (partOk s a.w p) (a.v % 4096 == 0 && inTier s (BitVec.ofNat 2 p) 1 a.v (2 ^ (c.size + 17))) fun s =>
      put s { c with base := a.v }
  | 0x18 => withAuth s (partOk s a.w p) a.w a.o fun s => put s { c with trc := a.v }
  | _ => s

/-- CTR_. -/
def ctrWr (s : State) (a : RegWr) : State :=
  let o := a.o - 0x400000
  if o < 0x4000 then blkWr s a
  else if o < 0x4140 then frostWr s a
  else if o = 0x4800 then bwlenWrite s a.w a.v
  else if o = 0x4A00 ∨ o = 0x4A08 then
    let k := (o - 0x4A00) / 8
    let right : Bool := match a.w with | none => true | some f => f.toNat == 32 * k || granted s f.toNat
    withAuth s right a.w a.o fun s => modIsl s fun i => { i with vfrd := setNth i.vfrd k (bits 30 0 a.v) }
  else if o = 0x6000 ∧ a.lo then xselWrite s a.w (a.v % 2 ^ 32)
  else s

/-- A register write of 64 bits, block by block; a read-only register and an offset that names none ignore it. -/
def blockWrite (s : State) (a : RegWr) : State :=
  let o := a.o
  if o < 0x1000 then s
  else if o < 0x2000 then fnWr s a
  else if o < 0x3000 then prtWr s a
  else if o < 0x4000 then dmaWr s a
  else if o < 0x5000 then pwrWr s a
  else if o < 0x6000 then s
  else if o < 0x7000 then timWr s a
  else if o < 0x8000 then lnkWr s a
  else if o < 0x9000 then s
  else if o < 0xA000 then tierWr s a
  else if o < 0xB000 then rowWr s a
  else if o < 0xC000 then secWr s a
  else if o < 0xD000 then aonWr s a
  else if o < 0x100000 then s
  else if o < 0x200000 then rngWr s a
  else if 0x305000 ≤ o ∧ o < 0x305100 then traceWr s a
  else if 0x400000 ≤ o ∧ o < 0xA00000 then ctrWr s a
  else if 0xF00000 ≤ o ∧ o < 0xF00400 then
    { s with msixTab := s.msixTab.writeNat (0x400 * msixFn a.w + (o - 0xF00000)) 8 a.v }
  else s

/-- REGISTER_WRITE: 4 bytes change only the half that they cover (R499). -/
def regWrite (s : State) (w : Who) (off size v : Nat) : State :=
  if !reaches s w then s
  else if !accessOk off size then progError s w off
  else
    let o := off / 8 * 8
    let old := regVal s w o
    let lo : Bool := size == 8 || off % 8 == 0
    let hi : Bool := size == 8 || off % 8 == 4
    let low := if lo then v % 2 ^ 32 else old % 2 ^ 32
    let high := if size = 8 then v / 2 ^ 32 % 2 ^ 32 else if hi then v % 2 ^ 32 else old / 2 ^ 32
    blockWrite s { w := w, o := o, v := low + 2 ^ 32 * high, lo := lo, hi := hi }

end Sys2Proof.Machine
end

