-- ==== Sys2Proof/Machine/RegisterCmds.lean ====
section
/-! DEFINITION. Register accesses, the counter arrays, bandwidth windows, Frost and samples (R9, R486 to R500, R511). -/

namespace Sys2Proof.Machine

/-- LINK_LOOP_WRITE (R511): a write of LNK_LOOP. -/
def execLinkLoopWrite (w : Who) (v : BitVec 24) (s : State) : Host.Outcome State Fault Refusal :=
  .next (loopWrite s w v.toNat)

/-- BWLEN_WRITE (R491): a write of CTR_BWLEN. -/
def execBwlenWrite (w : Who) (v : W64) (s : State) : Host.Outcome State Fault Refusal :=
  .next (Sys2Proof.Machine.bwlenWrite s w v.toNat)

/-- BANDWIDTH_WINDOW_CLOSE (R490): the window in progress ends. -/
def execBandwidthWindowClose (s : State) : Host.Outcome State Fault Refusal := .next (windowClose s)

/-- FROST_CANCEL (R492): MODE 0. -/
def execFrostCancel (w : Who) (set : Fin 5) (s : State) : Host.Outcome State Fault Refusal :=
  .next (Sys2Proof.Machine.frostCancel s w set.val)

/-- FROST_ARM_TIME (R493): MODE 1. -/
def execFrostArmTime (w : Who) (set : Fin 5) (target : W64) (s : State) : Host.Outcome State Fault Refusal :=
  .next (Sys2Proof.Machine.frostArmTime s w set.val target.toNat)

/-- FROST_ARM_SEAL (R493): MODE 2. -/
def execFrostArmSeal (w : Who) (set : Fin 5) (target : W64) (s : State) : Host.Outcome State Fault Refusal :=
  .next (Sys2Proof.Machine.frostArmSeal s w set.val target.toNat)

/-- FROST_AT_ONCE (R495): MODE 3. -/
def execFrostAtOnce (w : Who) (set : Fin 5) (s : State) : Host.Outcome State Fault Refusal :=
  .next (frostNow s w set.val)

/-- FROST_CAPTURE_TIME (R495): the capture cycle of a time request. -/
def execFrostCaptureTime (set : Fin 5) (s : State) : Host.Outcome State Fault Refusal := .next (frostTime s set.val)

/-- CTR_XSEL_CLEAR (R486): a write of CTR_XSEL. -/
def execCtrXselClear (w : Who) (v : W32) (s : State) : Host.Outcome State Fault Refusal := .next (xselWrite s w v.toNat)

/-- SAMPLE_RECORD (R488): a sample record is written. -/
def execSampleRecord (p : Part) (src : BitVec 5) (r : Sample) (s : State) : Host.Outcome State Fault Refusal :=
  .next (Sys2Proof.Machine.sampleRecord s p src.toNat r)

/-- REGISTER_WRITE (R499): a register write. -/
def execRegisterWrite (w : Who) (off : BitVec 24) (size : Byte) (v : W64)
    (s : State) : Host.Outcome State Fault Refusal :=
  .next (regWrite s w off.toNat size.toNat v.toNat)

/-- REGISTER_READ_CLEAR (R9): a read of a register with RS bits. -/
def execRegisterReadClear (w : Who) (off : BitVec 24) (size : Byte) (s : State) : Host.Outcome State Fault Refusal :=
  .next (regRead s w off.toNat size.toNat)

/-- REGISTER_READ (R453): a register read. -/
def execRegisterRead (w : Who) (off : BitVec 24) (size : Byte) (s : State) : Host.Outcome State Fault Refusal :=
  .next (regRead s w off.toNat size.toNat)

end Sys2Proof.Machine
end

