-- ==== Sys2Proof/Machine/SecurityCmds.lean ====
section
/-! DEFINITION. Attestation, steward requests and JTAG (R451 to R477). -/

namespace Sys2Proof.Machine

/-- ATTESTATION_REQUEST (R465): 1 written to SEC_ATTGO. -/
def execAttestationRequest (w : Who) (nonce : Option (List Byte)) (s : State) : Host.Outcome State Fault Refusal :=
  .next (attest s w nonce)

/-- FWUPDATE (R462). -/
def execFwupdate (r : SReq) (img : FwImage) (s : State) : Host.Outcome State Fault Refusal := .next (fwUpdate s r img)

/-- SVCOMMIT (R461). -/
def execSvcommit (r : SReq) (s : State) : Host.Outcome State Fault Refusal := .next (svCommit s r)

/-- RKREVOKE (R463). -/
def execRkrevoke (r : SReq) (st : Signed) (s : State) : Host.Outcome State Fault Refusal := .next (rkRevoke s r st)

/-- LKPROG (R474). -/
def execLkprog (r : SReq) (rec : Signed) (s : State) : Host.Outcome State Fault Refusal := .next (lkProg s r rec)

/-- DBGUNLOCK (R477). -/
def execDbgunlock (r : SReq) (s : State) : Host.Outcome State Fault Refusal := .next (dbgUnlock s r)

/-- IDCSR (R467). -/
def execIdcsr (r : SReq) (s : State) : Host.Outcome State Fault Refusal := .next (idCsr s r)

/-- IDINSTALL (R467). -/
def execIdinstall (r : SReq) (cert : Cert) (s : State) : Host.Outcome State Fault Refusal := .next (idInstall s r cert)

/-- RECOVER (R462). -/
def execRecover (r : SReq) (img : FwImage) (s : State) : Host.Outcome State Fault Refusal := .next (recoverBank s r img)

/-- JTAG_ACCESS (R476): a JTAG instruction: while debug is disabled every one is served or acts as BYPASS; with debug enabled the debug instructions and EXTEST reach units of which R476 gives no effect. -/
def execJtagAccess (inst : JtagInst) (s : State) : Host.Outcome State Fault Refusal :=
  if jtagStops s inst then .fault .debugInstruction else .next s

end Sys2Proof.Machine
end

