-- ==== Sys2Proof/Machine/StreamCmds.lean ====
section
/-! DEFINITION. Control words and step-sequencer words, and the wake of a domain (R131, R145, R156, R162, R165, R167, R245, R246, R252, R275, R287, R290, R298, R429). -/

namespace Sys2Proof.Machine

/-- The type of an exchange entry of a partition's plan: 0 RQ, 1 RF, 2 AG, 3 CH; another number outside a job. -/
def entryKind (s : State) (p : Part) (e : XIx) : Nat :=
  match getJob s p with
  | none => 4
  | some j => (xent j.plan e.toNat).kind

/-- SAT (R245): the next word issues no earlier than its time from the anchor. -/
def execSat (p : Part) (u : SUnit) (cyc : W32) (s : State) : Host.Outcome State Fault Refusal :=
  .next (pushWord s p u (.sat cyc.toNat))

/-- SCUE (R245): the stream arrives at the cue point and waits for it. -/
def execScue (p : Part) (u : SUnit) (cue : BitVec 12) (s : State) : Host.Outcome State Fault Refusal :=
  .next (pushWord s p u (.scue cue.toNat))

/-- SARR (R245): the stream arrives at the cue point and goes on. -/
def execSarr (p : Part) (u : SUnit) (cue : BitVec 12) (s : State) : Host.Outcome State Fault Refusal :=
  .next (pushWord s p u (.sarr cue.toNat))

/-- SEND (R245): the end of the stream. -/
def execSend (p : Part) (u : SUnit) (s : State) : Host.Outcome State Fault Refusal := .next (pushWord s p u .send)

/-- PWAKE (R252): the masked domains are requested on. -/
def execPwake (p : Part) (mask : W64) (s : State) : Host.Outcome State Fault Refusal :=
  .next (pushWord s p .seq (.pwake mask))

/-- PGATE_OFF (R252): PGATE with state off. -/
def execPgateOff (p : Part) (mask : W64) (s : State) : Host.Outcome State Fault Refusal :=
  .next (pushWord s p .seq (.pgateOff mask))

/-- PGATE_RETAIN (R131): PGATE with state retain. -/
def execPgateRetain (p : Part) (mask : W64) (s : State) : Host.Outcome State Fault Refusal :=
  .next (pushWord s p .seq (.pgateRetain mask))

/-- DOMAIN_WAKE_COMPLETE (R429): a domain that was waking is on. -/
def execDomainWakeComplete (d : BitVec 6) (s : State) : Host.Outcome State Fault Refusal :=
  .next (whileActive s fun s => domWoken s d.toNat)

/-- DMAQ (R246): the descriptor is queued on the channel. -/
def execDmaq (p : Part) (desc : W32) (chan : ChanNum) (s : State) : Host.Outcome State Fault Refusal :=
  .next (pushWord s p .seq (.dmaq desc.toNat chan))

/-- LKG_INDEX_EXCHANGE (R145): LKG with phase 0. -/
def execLkgIndexExchange (p : Part) (g : Group) (s : State) : Host.Outcome State Fault Refusal :=
  .next (pushWord s p .seq (.lkg g 0))

/-- LKG_FETCH_POOL (R156): LKG with phase 1. -/
def execLkgFetchPool (p : Part) (g : Group) (s : State) : Host.Outcome State Fault Refusal :=
  .next (pushWord s p .seq (.lkg g 1))

/-- LKG_BACKWARD_PARTIALS (R165): LKG with phase 2. -/
def execLkgBackwardPartials (p : Part) (g : Group) (s : State) : Host.Outcome State Fault Refusal :=
  .next (pushWord s p .seq (.lkg g 2))

/-- LKG_OWNER_SUMS (R167): LKG with phase 3. -/
def execLkgOwnerSums (p : Part) (g : Group) (s : State) : Host.Outcome State Fault Refusal :=
  .next (pushWord s p .seq (.lkg g 3))

/-- LKG_ROW_UPDATES (R162): LKG with phase 4. -/
def execLkgRowUpdates (p : Part) (g : Group) (s : State) : Host.Outcome State Fault Refusal :=
  .next (pushWord s p .seq (.lkg g 4))

/-- XCH_RQ (R275): XCH of an entry of type 0. -/
def execXchRq (p : Part) (e : XIx) (s : State) : Host.Outcome State Fault Refusal :=
  .next (if entryKind s p e = 0 then pushWord s p .seq (.xch e) else s)

/-- XCH_RF (R287): XCH of an entry of type 1. -/
def execXchRf (p : Part) (e : XIx) (s : State) : Host.Outcome State Fault Refusal :=
  .next (if entryKind s p e = 1 then pushWord s p .seq (.xch e) else s)

/-- XCH_AG (R290): XCH of an entry of type 2. -/
def execXchAg (p : Part) (e : XIx) (s : State) : Host.Outcome State Fault Refusal :=
  .next (if entryKind s p e = 2 then pushWord s p .seq (.xch e) else s)

/-- XCH_CH (R298): XCH of an entry of type 3. -/
def execXchCh (p : Part) (e : XIx) (s : State) : Host.Outcome State Fault Refusal :=
  .next (if entryKind s p e = 3 then pushWord s p .seq (.xch e) else s)

end Sys2Proof.Machine
end

