-- ==== Sys2Proof/Machine/TableCmds.lean ====
section
/-! DEFINITION. Table commands, staged checks, exports and digest builds (R133, R158 to R161, R170, R187 to R194, R200, R220). -/

namespace Sys2Proof.Machine

/-- TDEF (R133). -/
def execTdef (c : Cmd) (d : BitVec 512) (s : State) : Host.Outcome State Fault Refusal :=
  .next (command s c 0x02 fun s => tableDefine s c d)

/-- TREL (R133). -/
def execTrel (c : Cmd) (tid : Tid) (s : State) : Host.Outcome State Fault Refusal :=
  .next (command s c 0x03 fun s => tableRelease s c tid.toNat)

/-- PLACE (R200). -/
def execPlace (c : Cmd) (e : BitVec 512) (s : State) : Host.Outcome State Fault Refusal :=
  .next (command s c 0x04 fun s => tablePlace s c e)

/-- PARAM (R170). -/
def execParam (c : Cmd) (n : W32) (flags : Byte) (ps : List W32) (s : State) : Host.Outcome State Fault Refusal :=
  .next (command s c 0x05 fun s => tableParam s c n.toNat flags ps)

/-- STAGE (R158). -/
def execStage (c : Cmd) (tid : Tid) (whole : Bool) (a : W64) (b : W64) (area : W64) (rows : W64)
    (s : State) : Host.Outcome State Fault Refusal :=
  .next (command s c 0x06 fun s => stageTable s c tid.toNat whole a.toNat b.toNat area.toNat rows.toNat)

/-- COMMIT (R159). -/
def execCommit (c : Cmd) (tid : Tid) (target : W64) (s : State) : Host.Outcome State Fault Refusal :=
  .next (command s c 0x07 fun s => commitTable s c tid.toNat target.toNat)

/-- STAGED_CHECK_COMPLETE (R159): the check of a staged generation ends. -/
def execStagedCheckComplete (p : Part) (tid : Tid) (s : State) : Host.Outcome State Fault Refusal :=
  .next (checkStaged s p tid.toNat)

/-- EXPORT (R189). -/
def execExportTable (c : Cmd) (tid : Tid) (state : Bool) (chan : ChanNum) (c0 : BitVec 16) (cc : BitVec 16)
    (a : W64) (b : W64) (x : W64) (shadow : W64) (size : W64) (s : State) : Host.Outcome State Fault Refusal :=
  .next (command s c 0x08 fun s => exportStart s c tid.toNat state chan c0.toNat cc.toNat a.toNat b.toNat x.toNat shadow.toNat size.toNat)

/-- EXPORT_WALK_ROW (R190): an engine walks one row of an export. -/
def execExportWalkRow (p : Part) (tid : Tid) (e : Engine) (s : State) : Host.Outcome State Fault Refusal :=
  .next (whileActive s fun s => exportRow s p tid.toNat e.toNat)

/-- EXPORT_COMPLETE (R193): an export ends. -/
def execExportComplete (p : Part) (tid : Tid) (s : State) : Host.Outcome State Fault Refusal :=
  .next (whileActive s fun s => exportDone s p tid.toNat)

/-- TFLUSH (R220). -/
def execTflush (c : Cmd) (tid : BitVec 16) (s : State) : Host.Outcome State Fault Refusal :=
  .next (command s c 0x09 fun s => tierFlush s c tid.toNat)

/-- DIGEST_BUILD (R187): an engine hashes one row of a digest build. -/
def execDigestBuild (p : Part) (tid : Tid) (e : Engine) (s : State) : Host.Outcome State Fault Refusal :=
  .next (whileActive s fun s => buildRow s p tid.toNat e.toNat)

end Sys2Proof.Machine
end

