-- ==== Sys2Proof/Machine/TierCmds.lean ====
section
/-! DEFINITION. Tiers, flash, the wear governor, regulators and the thermal reports of the stacks (R206 to R235, R442). -/

namespace Sys2Proof.Machine

/-- Background work on a tiered table: paused in sleep, and while a re-shard moves the table (R326, R437). -/
def background (s : State) (p : Part) (tid : Nat) (f : State → State) : State :=
  if s.pwr.mst = .active ∧ !permuting s p tid then f s else s

/-- Drizzle's own work, at most DSH % of the rate: none where DSH is 0 (R233). -/
def drizzle (s : State) (p : Part) (tid : Nat) (f : State → State) : State :=
  match getTbl s p tid with
  | none => s
  | some t => if t.pl.dsh = 0 then s else background s p tid f

/-- The flash's own programs: once T3 is ready, while a stack programs (R227, R235). -/
def flashWork (s : State) (f : State → State) : State :=
  whileActive s fun s =>
    if !s.flash.ready then s else if programsOpen s then f s else noteWait s t3Base 16384 true

/-- Whether the writeback of a row is urgent (R226). -/
def urgentRow (s : State) (t : Table) (row : Nat) : Bool :=
  belowLow t (t.desc.eng row) || t.evicting.contains row
  || t.flushes.any (fun f => f.2.2.contains row)
  || (match residentSlot s t row with | some x => decide (t.pl.pslots ≤ x) | none => false)

/-- A writeback of a dirty resident row runs once its accesses may issue: urgent, or routine, under the Drizzle share, while
the credit is positive. -/
def writebackDue (s : State) (p : Part) (tid row : Nat) : State :=
  match getTbl s p tid with
  | none => s
  | some t =>
    if t.desc.tier = 2 ∧ (dirtyRows s t).contains row ∧ (urgentRow s t row ∨ routineOk s ∧ t.pl.dsh ≠ 0) then
      whenOpen s p (writebackSpans s p t row) fun s => writebackRow s p tid row (urgentRow s t row)
    else s

/-- The access of the oldest writeback: its home pages. -/
def durableSpans (s : State) (p : Part) (tid : Nat) : List (Nat × Nat × Bool) :=
  match getTbl s p tid with
  | none => []
  | some t => ((t.wbs.take 1).flatMap (·.pages)).map fun lp => (t3Base + 16384 * lp, 16384, true)

/-- The accesses of a merge: its staged area and the home area. -/
def mergeSpans (s : State) (p : Part) (tid : Nat) : List (Nat × Nat × Bool) :=
  match (getTbl s p tid).bind (·.merge) with
  | none => []
  | some m => [(m.area, 64, false), (m.area, 64, true)]

/-- The slots of a segment, whose headers a sweep reads and writes. -/
def sweepSpans (s : State) (p : Part) (tid g : Nat) : List (Nat × Nat × Bool) :=
  match getTbl s p tid with
  | none => []
  | some t => (segSlots t g).map fun x => (slotAddr t x, 16, true)

/-- The home area of a table, which the warm walk reads, and the pool. -/
def warmSpans (s : State) (p : Part) (tid : Nat) : List (Nat × Nat × Bool) :=
  match getTbl s p tid with
  | none => []
  | some t => [(t.desc.lbase, 64, false), (t.pl.pbase, t.pl.pslots * t.desc.size, true)]

/-- DRIZZLE_EVICT (R213): one window of the clock hand. -/
def execDrizzleEvict (p : Part) (tid : Tid) (e : Engine) (s : State) : Host.Outcome State Fault Refusal :=
  .next (drizzle s p tid.toNat fun s => Sys2Proof.Machine.drizzleEvict s p tid.toNat e.toNat)

/-- DRIZZLE_WARM_PROMOTE (R215): one unit of the warm walk. -/
def execDrizzleWarmPromote (p : Part) (tid : Tid) (e : Engine) (s : State) : Host.Outcome State Fault Refusal :=
  .next (drizzle s p tid.toNat fun s => whenOpen s p (warmSpans s p tid.toNat) fun s => warmPromote s p tid.toNat e.toNat)

/-- WRITEBACK (R218): the page group of a dirty resident row is written back. -/
def execWriteback (p : Part) (tid : Tid) (row : RowIx) (s : State) : Host.Outcome State Fault Refusal :=
  .next (background s p tid.toNat fun s => writebackDue s p tid.toNat row.toNat)

/-- WRITEBACK_DURABLE (R217): the oldest writeback is durable; moves that waited for it start. -/
def execWritebackDurable (p : Part) (tid : Tid) (s : State) : Host.Outcome State Fault Refusal :=
  .next (whileActive s fun s => whenOpen s p (durableSpans s p tid.toNat) fun s => startMoves (durable s p tid.toNat) p)

/-- DECAY_SWEEP (R206): a decay sweep of a segment runs to its end. -/
def execDecaySweep (p : Part) (tid : Tid) (e : Engine) (s : State) : Host.Outcome State Fault Refusal :=
  .next (drizzle s p tid.toNat fun s => whenOpen s p (sweepSpans s p tid.toNat e.toNat) fun s => runSweep s p tid.toNat e.toNat)

/-- RANGE_MERGE (R221): one home page of a committed range merges into the home area. -/
def execRangeMerge (p : Part) (tid : Tid) (s : State) : Host.Outcome State Fault Refusal :=
  .next (drizzle s p tid.toNat fun s => whenOpen s p (mergeSpans s p tid.toNat) fun s => mergeRange s p tid.toNat)

/-- GARBAGE_COLLECTION (R225): the band of fewest valid pages is collected. -/
def execGarbageCollection (s : State) : Host.Outcome State Fault Refusal := .next (flashWork s collectGarbage)

/-- WEAR_LEVEL_MOVE (R225): the least erased band is moved. -/
def execWearLevelMove (s : State) : Host.Outcome State Fault Refusal := .next (flashWork s levelWear)

/-- BLOCK_FAILURE (R224): a block fails and is retired. -/
def execBlockFailure (blk : BitVec 20) (s : State) : Host.Outcome State Fault Refusal :=
  .next (flashWork s fun s => retireBlock s blk.toNat)

/-- MAP_CHECKPOINT (R227): a checkpoint of the map. -/
def execMapCheckpoint (s : State) : Host.Outcome State Fault Refusal := .next (flashWork s checkpointMap)

/-- T3_MOUNT (R227): T3 is mounted. -/
def execT3Mount (s : State) : Host.Outcome State Fault Refusal := .next (whileActive s mountT3)

/-- FTL_REBUILD (R227): the map is rebuilt from the out-of-band areas. -/
def execFtlRebuild (s : State) : Host.Outcome State Fault Refusal := .next (whileActive s rebuildMap)

/-- HOURLY_TICK (R230): one hour of power-on time. -/
def execHourlyTick (s : State) : Host.Outcome State Fault Refusal := .next (if dom s 62 = .on then hourly s else s)

/-- REGULATOR_REFILL (R232): the token buckets refill. -/
def execRegulatorRefill (s : State) : Host.Outcome State Fault Refusal := .next (refillAll s)

/-- DRAM_TEMP_REPORT (R234): a DRAM stack reports its temperature. -/
def execDramTempReport (s : BitVec 5) (t : Byte) (s' : State) : Host.Outcome State Fault Refusal :=
  .next (dramTemp s' s.toNat t.toInt)

/-- DRAM_CAP_TICK (R234): the traffic caps of the DRAM stacks move. -/
def execDramCapTick (s : State) : Host.Outcome State Fault Refusal :=
  .next { s with dramStacks := (s.dramStacks.take 20).map dramTick ++ s.dramStacks.drop 20 }

/-- FLASH_TEMP_REPORT (R235): a flash stack reports its temperature. -/
def execFlashTempReport (s : BitVec 3) (t : Byte) (s' : State) : Host.Outcome State Fault Refusal :=
  .next (flashReport s' (20 + s.toNat) t.toInt)

/-- DRAM_CRITICAL_HOLD (R442): a stack has been critical for 1 s. -/
def execDramCriticalHold (s : BitVec 5) (s' : State) : Host.Outcome State Fault Refusal :=
  .next (criticalHold s' s.toNat)

/-- DRAM_CRITICAL_TRIP (R442): a stack has been critical for 10 s. -/
def execDramCriticalTrip (s : BitVec 5) (s' : State) : Host.Outcome State Fault Refusal :=
  .next (criticalTrip s' s.toNat)

/-- DIE_TEMP_REPORT (R442): a die reports its junction temperature. -/
def execDieTempReport (d : BitVec 2) (t : Byte) (s : State) : Host.Outcome State Fault Refusal :=
  .next (dieReport s d.toNat t.toInt)

end Sys2Proof.Machine
end

