-- ==== Sys2Proof/Machine/TrainingCmds.lean ====
section
/-! DEFINITION. The training step: cue points, the veto token, the seal, the beacon, holds and self-tests (R244, R249 to R269, R351, R352). -/

namespace Sys2Proof.Machine

/-- CUE_POINT_FIRE (R249): a cue point fires once every stream has arrived and its condition holds. -/
def execCuePointFire (p : Part) (cue : BitVec 12) (s : State) : Host.Outcome State Fault Refusal :=
  .next (cueFire s p cue.toNat)

/-- TOKEN_TREE_MESSAGE (R351): a token message from a child, or the result from the parent. -/
def execTokenTreeMessage (p : Part) (src : Lidx) (down : Bool) (t : Token)
    (s : State) : Host.Outcome State Fault Refusal :=
  .next (tokenMsg s p src.toNat down t)

/-- VETO_TOKEN_COMPLETE (R256): the combined token is stored. -/
def execVetoTokenComplete (p : Part) (s : State) : Host.Outcome State Fault Refusal := .next (tokenComplete s p)

/-- SEAL_CONTRIBUTION (R260): the module contributes to the seal wave. -/
def execSealContribution (p : Part) (s : State) : Host.Outcome State Fault Refusal := .next (sealContribute s p)

/-- SEAL_TREE_MESSAGE (R351): a child contributes to the seal wave. -/
def execSealTreeMessage (p : Part) (src : Lidx) (step : W64) (hold : Bool)
    (s : State) : Host.Outcome State Fault Refusal :=
  .next (sealMsg s p src.toNat step.toNat hold)

/-- STEP_BEACON (R352): the result of the seal wave with the start of the next step. -/
def execStepBeacon (p : Part) (step : W64) (hold : Bool) (start : Option W64)
    (s : State) : Host.Outcome State Fault Refusal :=
  .next (beaconMsg s p step.toNat hold (start.map BitVec.toNat))

/-- SEAL_REACHED (R262): seal N is reached: the seal work, with the ready vote of a re-shard whose target it is, and the repair of
a pair that holds (R304). -/
def execSealReached (p : Part) (s : State) : Host.Outcome State Fault Refusal :=
  .next (tryRound (reshardMissed (Sys2Proof.Machine.readyVote (sealReach s p) p) p) p)

/-- LOSS_SCALE_GROWTH (R267): the growth window ends: LS rises. -/
def execLossScaleGrowth (p : Part) (s : State) : Host.Outcome State Fault Refusal := .next (lossGrowth s p)

/-- STEP_START (R263): the next step starts. -/
def execStepStart (p : Part) (s : State) : Host.Outcome State Fault Refusal := .next (Sys2Proof.Machine.stepStart s p)

/-- START_READINESS (R263): a child is ready for the first step. -/
def execStartReadiness (p : Part) (src : Lidx) (s : State) : Host.Outcome State Fault Refusal :=
  .next (readyMsg s p src.toNat false)

/-- RESUME_READINESS (R377): a child is ready to resume. -/
def execResumeReadiness (p : Part) (src : Lidx) (s : State) : Host.Outcome State Fault Refusal :=
  .next (readyMsg s p src.toNat true)

/-- STEP_ABANDON (R264): the step is abandoned. -/
def execStepAbandon (p : Part) (s : State) : Host.Outcome State Fault Refusal :=
  .next (Sys2Proof.Machine.stepAbandon s p)

/-- UNIT_FAULT (R264): a unit reports a fault. -/
def execUnitFault (p : Part) (src : BitVec 4) (s : State) : Host.Outcome State Fault Refusal :=
  .next (Sys2Proof.Machine.unitFault s p src.toNat)

/-- SELFTEST_COMPLETE (R244): the SELFTEST section ends. -/
def execSelftestComplete (p : Part) (s : State) : Host.Outcome State Fault Refusal :=
  .next (Sys2Proof.Machine.selftestComplete s p)

end Sys2Proof.Machine
end

