-- ==== Sys2Proof/Machine/VectorCmds.lean ====
section
/-! DEFINITION. The words of the vector stream and the ends of vector instructions, each a command of its own (R90 to R117). -/

namespace Sys2Proof.Machine

/-- VNOP (R97): the word joins the vector stream of the partition and takes effect when it issues. -/
def execVnop (p : Part) (w : VWord) (s : State) : Host.Outcome State Fault Refusal :=
  .next (pushWord s p .vec (.vec .vnop w))

/-- VLD (R94): the word joins the vector stream of the partition and takes effect when it issues. -/
def execVld (p : Part) (w : VWord) (s : State) : Host.Outcome State Fault Refusal :=
  .next (pushWord s p .vec (.vec .vld w))

/-- VST (R94): the word joins the vector stream of the partition and takes effect when it issues. -/
def execVst (p : Part) (w : VWord) (s : State) : Host.Outcome State Fault Refusal :=
  .next (pushWord s p .vec (.vec .vst w))

/-- VMOV (R91): the word joins the vector stream of the partition and takes effect when it issues. -/
def execVmov (p : Part) (w : VWord) (s : State) : Host.Outcome State Fault Refusal :=
  .next (pushWord s p .vec (.vec .vmov w))

/-- VBC (R97): the word joins the vector stream of the partition and takes effect when it issues. -/
def execVbc (p : Part) (w : VWord) (s : State) : Host.Outcome State Fault Refusal :=
  .next (pushWord s p .vec (.vec .vbc w))

/-- VTR (R97): the word joins the vector stream of the partition and takes effect when it issues. -/
def execVtr (p : Part) (w : VWord) (s : State) : Host.Outcome State Fault Refusal :=
  .next (pushWord s p .vec (.vec .vtr w))

/-- VGTH (R97): the word joins the vector stream of the partition and takes effect when it issues. -/
def execVgth (p : Part) (w : VWord) (s : State) : Host.Outcome State Fault Refusal :=
  .next (pushWord s p .vec (.vec .vgth w))

/-- VSEL (R97): the word joins the vector stream of the partition and takes effect when it issues. -/
def execVsel (p : Part) (w : VWord) (s : State) : Host.Outcome State Fault Refusal :=
  .next (pushWord s p .vec (.vec .vsel w))

/-- VMSK (R97): the word joins the vector stream of the partition and takes effect when it issues. -/
def execVmsk (p : Part) (w : VWord) (s : State) : Host.Outcome State Fault Refusal :=
  .next (pushWord s p .vec (.vec .vmsk w))

/-- VMCMP (R101): the word joins the vector stream of the partition and takes effect when it issues. -/
def execVmcmp (p : Part) (w : VWord) (s : State) : Host.Outcome State Fault Refusal :=
  .next (pushWord s p .vec (.vec .vmcmp w))

/-- VMLOG (R97): the word joins the vector stream of the partition and takes effect when it issues. -/
def execVmlog (p : Part) (w : VWord) (s : State) : Host.Outcome State Fault Refusal :=
  .next (pushWord s p .vec (.vec .vmlog w))

/-- VADD (R101): the word joins the vector stream of the partition and takes effect when it issues. -/
def execVadd (p : Part) (w : VWord) (s : State) : Host.Outcome State Fault Refusal :=
  .next (pushWord s p .vec (.vec .vadd w))

/-- VSUB (R101): the word joins the vector stream of the partition and takes effect when it issues. -/
def execVsub (p : Part) (w : VWord) (s : State) : Host.Outcome State Fault Refusal :=
  .next (pushWord s p .vec (.vec .vsub w))

/-- VMUL (R101): the word joins the vector stream of the partition and takes effect when it issues. -/
def execVmul (p : Part) (w : VWord) (s : State) : Host.Outcome State Fault Refusal :=
  .next (pushWord s p .vec (.vec .vmul w))

/-- VFMA (R101): the word joins the vector stream of the partition and takes effect when it issues. -/
def execVfma (p : Part) (w : VWord) (s : State) : Host.Outcome State Fault Refusal :=
  .next (pushWord s p .vec (.vec .vfma w))

/-- VDIV (R101): the word joins the vector stream of the partition and takes effect when it issues. -/
def execVdiv (p : Part) (w : VWord) (s : State) : Host.Outcome State Fault Refusal :=
  .next (pushWord s p .vec (.vec .vdiv w))

/-- VMAX (R101): the word joins the vector stream of the partition and takes effect when it issues. -/
def execVmax (p : Part) (w : VWord) (s : State) : Host.Outcome State Fault Refusal :=
  .next (pushWord s p .vec (.vec .vmax w))

/-- VMIN (R101): the word joins the vector stream of the partition and takes effect when it issues. -/
def execVmin (p : Part) (w : VWord) (s : State) : Host.Outcome State Fault Refusal :=
  .next (pushWord s p .vec (.vec .vmin w))

/-- VABS (R101): the word joins the vector stream of the partition and takes effect when it issues. -/
def execVabs (p : Part) (w : VWord) (s : State) : Host.Outcome State Fault Refusal :=
  .next (pushWord s p .vec (.vec .vabs w))

/-- VNEG (R101): the word joins the vector stream of the partition and takes effect when it issues. -/
def execVneg (p : Part) (w : VWord) (s : State) : Host.Outcome State Fault Refusal :=
  .next (pushWord s p .vec (.vec .vneg w))

/-- VSCL (R268): the word joins the vector stream of the partition and takes effect when it issues. -/
def execVscl (p : Part) (w : VWord) (s : State) : Host.Outcome State Fault Refusal :=
  .next (pushWord s p .vec (.vec .vscl w))

/-- VSQRT (R101): the word joins the vector stream of the partition and takes effect when it issues. -/
def execVsqrt (p : Part) (w : VWord) (s : State) : Host.Outcome State Fault Refusal :=
  .next (pushWord s p .vec (.vec .vsqrt w))

/-- VRSQ (R105): the word joins the vector stream of the partition and takes effect when it issues. -/
def execVrsq (p : Part) (w : VWord) (s : State) : Host.Outcome State Fault Refusal :=
  .next (pushWord s p .vec (.vec .vrsq w))

/-- VEXP2 (R105): the word joins the vector stream of the partition and takes effect when it issues. -/
def execVexp2 (p : Part) (w : VWord) (s : State) : Host.Outcome State Fault Refusal :=
  .next (pushWord s p .vec (.vec .vexp2 w))

/-- VLOG2 (R105): the word joins the vector stream of the partition and takes effect when it issues. -/
def execVlog2 (p : Part) (w : VWord) (s : State) : Host.Outcome State Fault Refusal :=
  .next (pushWord s p .vec (.vec .vlog2 w))

/-- VACT (R104): the word joins the vector stream of the partition and takes effect when it issues. -/
def execVact (p : Part) (w : VWord) (s : State) : Host.Outcome State Fault Refusal :=
  .next (pushWord s p .vec (.vec .vact w))

/-- VACTD (R105): the word joins the vector stream of the partition and takes effect when it issues. -/
def execVactd (p : Part) (w : VWord) (s : State) : Host.Outcome State Fault Refusal :=
  .next (pushWord s p .vec (.vec .vactd w))

/-- VNRM (R108): the word joins the vector stream of the partition and takes effect when it issues. -/
def execVnrm (p : Part) (w : VWord) (s : State) : Host.Outcome State Fault Refusal :=
  .next (pushWord s p .vec (.vec .vnrm w))

/-- VNRMB (R108): the word joins the vector stream of the partition and takes effect when it issues. -/
def execVnrmb (p : Part) (w : VWord) (s : State) : Host.Outcome State Fault Refusal :=
  .next (pushWord s p .vec (.vec .vnrmb w))

/-- VSMX (R109): the word joins the vector stream of the partition and takes effect when it issues. -/
def execVsmx (p : Part) (w : VWord) (s : State) : Host.Outcome State Fault Refusal :=
  .next (pushWord s p .vec (.vec .vsmx w))

/-- VSMXB (R109): the word joins the vector stream of the partition and takes effect when it issues. -/
def execVsmxb (p : Part) (w : VWord) (s : State) : Host.Outcome State Fault Refusal :=
  .next (pushWord s p .vec (.vec .vsmxb w))

/-- VBCE (R110): the word joins the vector stream of the partition and takes effect when it issues. -/
def execVbce (p : Part) (w : VWord) (s : State) : Host.Outcome State Fault Refusal :=
  .next (pushWord s p .vec (.vec .vbce w))

/-- VMSE (R110): the word joins the vector stream of the partition and takes effect when it issues. -/
def execVmse (p : Part) (w : VWord) (s : State) : Host.Outcome State Fault Refusal :=
  .next (pushWord s p .vec (.vec .vmse w))

/-- VCVT (R111): the word joins the vector stream of the partition and takes effect when it issues. -/
def execVcvt (p : Part) (w : VWord) (s : State) : Host.Outcome State Fault Refusal :=
  .next (pushWord s p .vec (.vec .vcvt w))

/-- VQNT (R112): the word joins the vector stream of the partition and takes effect when it issues. -/
def execVqnt (p : Part) (w : VWord) (s : State) : Host.Outcome State Fault Refusal :=
  .next (pushWord s p .vec (.vec .vqnt w))

/-- VDQ (R113): the word joins the vector stream of the partition and takes effect when it issues. -/
def execVdq (p : Part) (w : VWord) (s : State) : Host.Outcome State Fault Refusal :=
  .next (pushWord s p .vec (.vec .vdq w))

/-- VRND (R116): the word joins the vector stream of the partition and takes effect when it issues. -/
def execVrnd (p : Part) (w : VWord) (s : State) : Host.Outcome State Fault Refusal :=
  .next (pushWord s p .vec (.vec .vrnd w))

/-- VDRP (R115): the word joins the vector stream of the partition and takes effect when it issues. -/
def execVdrp (p : Part) (w : VWord) (s : State) : Host.Outcome State Fault Refusal :=
  .next (pushWord s p .vec (.vec .vdrp w))

/-- RSUM (R106): the word joins the vector stream of the partition and takes effect when it issues. -/
def execRsum (p : Part) (w : VWord) (s : State) : Host.Outcome State Fault Refusal :=
  .next (pushWord s p .vec (.vec .rsum w))

/-- RMAX (R106): the word joins the vector stream of the partition and takes effect when it issues. -/
def execRmax (p : Part) (w : VWord) (s : State) : Host.Outcome State Fault Refusal :=
  .next (pushWord s p .vec (.vec .rmax w))

/-- RMIN (R106): the word joins the vector stream of the partition and takes effect when it issues. -/
def execRmin (p : Part) (w : VWord) (s : State) : Host.Outcome State Fault Refusal :=
  .next (pushWord s p .vec (.vec .rmin w))

/-- RSSQ (R106): the word joins the vector stream of the partition and takes effect when it issues. -/
def execRssq (p : Part) (w : VWord) (s : State) : Host.Outcome State Fault Refusal :=
  .next (pushWord s p .vec (.vec .rssq w))

/-- RDOT (R106): the word joins the vector stream of the partition and takes effect when it issues. -/
def execRdot (p : Part) (w : VWord) (s : State) : Host.Outcome State Fault Refusal :=
  .next (pushWord s p .vec (.vec .rdot w))

/-- VECTOR_INSTRUCTION_COMPLETE (R99): vector instruction `i` in flight, oldest first, writes its last result. -/
def execVectorInstructionComplete (i : Byte) (s : State) : Host.Outcome State Fault Refusal := .next (vecDone s i.toNat)

end Sys2Proof.Machine
end

