-- ==== Sys2Proof/Machine/Dispatch.lean ====
section
/-! DEFINITION. What each command does: one arm per constructor, each a direct call of its meaning. -/

namespace Sys2Proof.Machine

def exec (i : Instr) (s : State) : Host.Outcome State Fault Refusal :=
  match i with
  | .anop p w => Sys2Proof.Machine.execAnop p w s
  | .awld p w => Sys2Proof.Machine.execAwld p w s
  | .asld p w => Sys2Proof.Machine.execAsld p w s
  | .amm p w => Sys2Proof.Machine.execAmm p w s
  | .ammt p w => Sys2Proof.Machine.execAmmt p w s
  | .atwin p w => Sys2Proof.Machine.execAtwin p w s
  | .aacc p w => Sys2Proof.Machine.execAacc p w s
  | .aque p w => Sys2Proof.Machine.execAque p w s
  | .adrn p w => Sys2Proof.Machine.execAdrn p w s
  | .deferredEntryDrain => Sys2Proof.Machine.execDeferredEntryDrain s
  | .admp p w => Sys2Proof.Machine.execAdmp p w s
  | .aldmp p w => Sys2Proof.Machine.execAldmp p w s
  | .amovToScratchpad p w => Sys2Proof.Machine.execAmovToScratchpad p w s
  | .amovToStore p w => Sys2Proof.Machine.execAmovToStore p w s
  | .aclr p w => Sys2Proof.Machine.execAclr p w s
  | .amode p w => Sys2Proof.Machine.execAmode p w s
  | .vnop p w => Sys2Proof.Machine.execVnop p w s
  | .vld p w => Sys2Proof.Machine.execVld p w s
  | .vst p w => Sys2Proof.Machine.execVst p w s
  | .vmov p w => Sys2Proof.Machine.execVmov p w s
  | .vbc p w => Sys2Proof.Machine.execVbc p w s
  | .vtr p w => Sys2Proof.Machine.execVtr p w s
  | .vgth p w => Sys2Proof.Machine.execVgth p w s
  | .vsel p w => Sys2Proof.Machine.execVsel p w s
  | .vmsk p w => Sys2Proof.Machine.execVmsk p w s
  | .vmcmp p w => Sys2Proof.Machine.execVmcmp p w s
  | .vmlog p w => Sys2Proof.Machine.execVmlog p w s
  | .vadd p w => Sys2Proof.Machine.execVadd p w s
  | .vsub p w => Sys2Proof.Machine.execVsub p w s
  | .vmul p w => Sys2Proof.Machine.execVmul p w s
  | .vfma p w => Sys2Proof.Machine.execVfma p w s
  | .vdiv p w => Sys2Proof.Machine.execVdiv p w s
  | .vmax p w => Sys2Proof.Machine.execVmax p w s
  | .vmin p w => Sys2Proof.Machine.execVmin p w s
  | .vabs p w => Sys2Proof.Machine.execVabs p w s
  | .vneg p w => Sys2Proof.Machine.execVneg p w s
  | .vscl p w => Sys2Proof.Machine.execVscl p w s
  | .vsqrt p w => Sys2Proof.Machine.execVsqrt p w s
  | .vrsq p w => Sys2Proof.Machine.execVrsq p w s
  | .vexp2 p w => Sys2Proof.Machine.execVexp2 p w s
  | .vlog2 p w => Sys2Proof.Machine.execVlog2 p w s
  | .vact p w => Sys2Proof.Machine.execVact p w s
  | .vactd p w => Sys2Proof.Machine.execVactd p w s
  | .vnrm p w => Sys2Proof.Machine.execVnrm p w s
  | .vnrmb p w => Sys2Proof.Machine.execVnrmb p w s
  | .vsmx p w => Sys2Proof.Machine.execVsmx p w s
  | .vsmxb p w => Sys2Proof.Machine.execVsmxb p w s
  | .vbce p w => Sys2Proof.Machine.execVbce p w s
  | .vmse p w => Sys2Proof.Machine.execVmse p w s
  | .vcvt p w => Sys2Proof.Machine.execVcvt p w s
  | .vqnt p w => Sys2Proof.Machine.execVqnt p w s
  | .vdq p w => Sys2Proof.Machine.execVdq p w s
  | .vrnd p w => Sys2Proof.Machine.execVrnd p w s
  | .vdrp p w => Sys2Proof.Machine.execVdrp p w s
  | .rsum p w => Sys2Proof.Machine.execRsum p w s
  | .rmax p w => Sys2Proof.Machine.execRmax p w s
  | .rmin p w => Sys2Proof.Machine.execRmin p w s
  | .rssq p w => Sys2Proof.Machine.execRssq p w s
  | .rdot p w => Sys2Proof.Machine.execRdot p w s
  | .sat p u cyc => Sys2Proof.Machine.execSat p u cyc s
  | .scue p u cue => Sys2Proof.Machine.execScue p u cue s
  | .sarr p u cue => Sys2Proof.Machine.execSarr p u cue s
  | .send p u => Sys2Proof.Machine.execSend p u s
  | .pwake p mask => Sys2Proof.Machine.execPwake p mask s
  | .pgateOff p mask => Sys2Proof.Machine.execPgateOff p mask s
  | .pgateRetain p mask => Sys2Proof.Machine.execPgateRetain p mask s
  | .domainWakeComplete d => Sys2Proof.Machine.execDomainWakeComplete d s
  | .dmaq p desc chan => Sys2Proof.Machine.execDmaq p desc chan s
  | .lkgIndexExchange p g => Sys2Proof.Machine.execLkgIndexExchange p g s
  | .lkgFetchPool p g => Sys2Proof.Machine.execLkgFetchPool p g s
  | .lkgBackwardPartials p g => Sys2Proof.Machine.execLkgBackwardPartials p g s
  | .lkgOwnerSums p g => Sys2Proof.Machine.execLkgOwnerSums p g s
  | .lkgRowUpdates p g => Sys2Proof.Machine.execLkgRowUpdates p g s
  | .xchRq p e => Sys2Proof.Machine.execXchRq p e s
  | .xchRf p e => Sys2Proof.Machine.execXchRf p e s
  | .xchAg p e => Sys2Proof.Machine.execXchAg p e s
  | .xchCh p e => Sys2Proof.Machine.execXchCh p e s
  | .cuePointFire p cue => Sys2Proof.Machine.execCuePointFire p cue s
  | .tokenTreeMessage p src down t => Sys2Proof.Machine.execTokenTreeMessage p src down t s
  | .vetoTokenComplete p => Sys2Proof.Machine.execVetoTokenComplete p s
  | .sealContribution p => Sys2Proof.Machine.execSealContribution p s
  | .sealTreeMessage p src step hold => Sys2Proof.Machine.execSealTreeMessage p src step hold s
  | .stepBeacon p step hold start => Sys2Proof.Machine.execStepBeacon p step hold start s
  | .sealReached p => Sys2Proof.Machine.execSealReached p s
  | .lossScaleGrowth p => Sys2Proof.Machine.execLossScaleGrowth p s
  | .stepStart p => Sys2Proof.Machine.execStepStart p s
  | .startReadiness p src => Sys2Proof.Machine.execStartReadiness p src s
  | .resumeReadiness p src => Sys2Proof.Machine.execResumeReadiness p src s
  | .stepAbandon p => Sys2Proof.Machine.execStepAbandon p s
  | .unitFault p src => Sys2Proof.Machine.execUnitFault p src s
  | .selftestComplete p => Sys2Proof.Machine.execSelftestComplete p s
  | .batch c addr len step chan => Sys2Proof.Machine.execBatch c addr len step chan s
  | .batchDmaComplete p step status data => Sys2Proof.Machine.execBatchDmaComplete p step status data s
  | .sortStart su p step g tid => Sys2Proof.Machine.execSortStart su p step g tid s
  | .sortComplete su => Sys2Proof.Machine.execSortComplete su s
  | .indexRoundMessage p m => Sys2Proof.Machine.execIndexRoundMessage p m s
  | .ownerFetch p g src round k => Sys2Proof.Machine.execOwnerFetch p g src round k s
  | .payloadRoundMessage p m => Sys2Proof.Machine.execPayloadRoundMessage p m s
  | .spillRound p g src => Sys2Proof.Machine.execSpillRound p g src s
  | .spillRoundMessage p kind m => Sys2Proof.Machine.execSpillRoundMessage p kind m s
  | .poolingStart p g => Sys2Proof.Machine.execPoolingStart p g s
  | .gradientRoundMessage p m => Sys2Proof.Machine.execGradientRoundMessage p m s
  | .rowUpdate p g tid row => Sys2Proof.Machine.execRowUpdate p g tid row s
  | .forecastHintMessage p m => Sys2Proof.Machine.execForecastHintMessage p m s
  | .hintService p => Sys2Proof.Machine.execHintService p s
  | .promotionReadComplete p tid row => Sys2Proof.Machine.execPromotionReadComplete p tid row s
  | .drizzleEvict p tid e => Sys2Proof.Machine.execDrizzleEvict p tid e s
  | .drizzleWarmPromote p tid e => Sys2Proof.Machine.execDrizzleWarmPromote p tid e s
  | .writeback p tid row => Sys2Proof.Machine.execWriteback p tid row s
  | .writebackDurable p tid => Sys2Proof.Machine.execWritebackDurable p tid s
  | .decaySweep p tid e => Sys2Proof.Machine.execDecaySweep p tid e s
  | .rangeMerge p tid => Sys2Proof.Machine.execRangeMerge p tid s
  | .garbageCollection => Sys2Proof.Machine.execGarbageCollection s
  | .wearLevelMove => Sys2Proof.Machine.execWearLevelMove s
  | .blockFailure blk => Sys2Proof.Machine.execBlockFailure blk s
  | .mapCheckpoint => Sys2Proof.Machine.execMapCheckpoint s
  | .t3Mount => Sys2Proof.Machine.execT3Mount s
  | .ftlRebuild => Sys2Proof.Machine.execFtlRebuild s
  | .hourlyTick => Sys2Proof.Machine.execHourlyTick s
  | .regulatorRefill => Sys2Proof.Machine.execRegulatorRefill s
  | .dramTempReport t' t => Sys2Proof.Machine.execDramTempReport t' t s
  | .dramCapTick => Sys2Proof.Machine.execDramCapTick s
  | .flashTempReport t' t => Sys2Proof.Machine.execFlashTempReport t' t s
  | .dramCriticalHold t' => Sys2Proof.Machine.execDramCriticalHold t' s
  | .dramCriticalTrip t' => Sys2Proof.Machine.execDramCriticalTrip t' s
  | .dieTempReport d t => Sys2Proof.Machine.execDieTempReport d t s
  | .tdef c d => Sys2Proof.Machine.execTdef c d s
  | .trel c tid => Sys2Proof.Machine.execTrel c tid s
  | .place c e => Sys2Proof.Machine.execPlace c e s
  | .param c n flags ps => Sys2Proof.Machine.execParam c n flags ps s
  | .stage c tid whole a b area rows => Sys2Proof.Machine.execStage c tid whole a b area rows s
  | .commit c tid target => Sys2Proof.Machine.execCommit c tid target s
  | .stagedCheckComplete p tid => Sys2Proof.Machine.execStagedCheckComplete p tid s
  | .exportTable c tid state chan c0 cc a b x shadow size => Sys2Proof.Machine.execExportTable c tid state chan c0 cc a b x shadow size s
  | .exportWalkRow p tid e => Sys2Proof.Machine.execExportWalkRow p tid e s
  | .exportComplete p tid => Sys2Proof.Machine.execExportComplete p tid s
  | .tflush c tid => Sys2Proof.Machine.execTflush c tid s
  | .digestBuild p tid e => Sys2Proof.Machine.execDigestBuild p tid e s
  | .pload c addr len plan => Sys2Proof.Machine.execPload c addr len plan s
  | .reshard c addr target epoch plan => Sys2Proof.Machine.execReshard c addr target epoch plan s
  | .reshardCheckComplete p => Sys2Proof.Machine.execReshardCheckComplete p s
  | .readyVote p m => Sys2Proof.Machine.execReadyVote p m s
  | .reshardMoveMessage p m => Sys2Proof.Machine.execReshardMoveMessage p m s
  | .commitVote p m => Sys2Proof.Machine.execCommitVote p m s
  | .pause c => Sys2Proof.Machine.execPause c s
  | .resume c => Sys2Proof.Machine.execResume c s
  | .pair c base size => Sys2Proof.Machine.execPair c base size s
  | .abortCommand c ring tag => Sys2Proof.Machine.execAbortCommand c ring tag s
  | .abortRing c ring => Sys2Proof.Machine.execAbortRing c ring s
  | .abortFunction c fn => Sys2Proof.Machine.execAbortFunction c fn s
  | .abortJob c => Sys2Proof.Machine.execAbortJob c s
  | .attach c part addr size => Sys2Proof.Machine.execAttach c part addr size s
  | .adopt c part addr size => Sys2Proof.Machine.execAdopt c part addr size s
  | .firstHopMessage p m => Sys2Proof.Machine.execFirstHopMessage p m s
  | .spineHopMessage p m => Sys2Proof.Machine.execSpineHopMessage p m s
  | .releaseChunk p e chunk => Sys2Proof.Machine.execReleaseChunk p e chunk s
  | .chunkUpdate p e chunk => Sys2Proof.Machine.execChunkUpdate p e chunk s
  | .copyHash p e => Sys2Proof.Machine.execCopyHash p e s
  | .allgatherSpineMessage p m => Sys2Proof.Machine.execAllgatherSpineMessage p m s
  | .allgatherPodMessage p m => Sys2Proof.Machine.execAllgatherPodMessage p m s
  | .copyDigestMessage p m => Sys2Proof.Machine.execCopyDigestMessage p m s
  | .shardRerequestMessage p m => Sys2Proof.Machine.execShardRerequestMessage p m s
  | .chainHopMessage p m => Sys2Proof.Machine.execChainHopMessage p m s
  | .expertTokenMessage p m => Sys2Proof.Machine.execExpertTokenMessage p m s
  | .sequenceBlockMessage p m => Sys2Proof.Machine.execSequenceBlockMessage p m s
  | .twinTokenMessage p t => Sys2Proof.Machine.execTwinTokenMessage p t s
  | .twinMessage p step digest grown invalid => Sys2Proof.Machine.execTwinMessage p step digest grown invalid s
  | .twinLost p => Sys2Proof.Machine.execTwinLost p s
  | .historyPoll p src grown => Sys2Proof.Machine.execHistoryPoll p src grown s
  | .bisectionListMessage p kind l => Sys2Proof.Machine.execBisectionListMessage p kind l s
  | .repairDataMessage p m => Sys2Proof.Machine.execRepairDataMessage p m s
  | .repairRoundComplete p digest => Sys2Proof.Machine.execRepairRoundComplete p digest s
  | .failedRecordRepair p tid row m => Sys2Proof.Machine.execFailedRecordRepair p tid row m s
  | .frameReceive k f => Sys2Proof.Machine.execFrameReceive k f s
  | .replayRequestReceive k seq => Sys2Proof.Machine.execReplayRequestReceive k seq s
  | .linkMessageReceive k m => Sys2Proof.Machine.execLinkMessageReceive k m s
  | .messageRelay k m => Sys2Proof.Machine.execMessageRelay k m s
  | .linkRetrain k => Sys2Proof.Machine.execLinkRetrain k s
  | .ackProgressTimeout k => Sys2Proof.Machine.execAckProgressTimeout k s
  | .codewordLockLoss k => Sys2Proof.Machine.execCodewordLockLoss k s
  | .retrainComplete k lanes => Sys2Proof.Machine.execRetrainComplete k lanes s
  | .linkBackgroundTrain k lanes => Sys2Proof.Machine.execLinkBackgroundTrain k lanes s
  | .linkTrained k partner plink => Sys2Proof.Machine.execLinkTrained k partner plink s
  | .chainInEdge low => Sys2Proof.Machine.execChainInEdge low s
  | .chainInLowTimeout => Sys2Proof.Machine.execChainInLowTimeout s
  | .rollCallAnnounce => Sys2Proof.Machine.execRollCallAnnounce s
  | .podControllerTimeout => Sys2Proof.Machine.execPodControllerTimeout s
  | .timeExchangeTick => Sys2Proof.Machine.execTimeExchangeTick s
  | .timeRequestMessage src t1 cf => Sys2Proof.Machine.execTimeRequestMessage src t1 cf s
  | .timeReplyMessage t1 t2 t3 cf cb => Sys2Proof.Machine.execTimeReplyMessage t1 t2 t3 cf cb s
  | .timeSyncLost => Sys2Proof.Machine.execTimeSyncLost s
  | .ptmDialog portB t1 t2 t3 t4 delay => Sys2Proof.Machine.execPtmDialog portB t1 t2 t3 t4 delay s
  | .crystalTick => Sys2Proof.Machine.execCrystalTick s
  | .calendarTick => Sys2Proof.Machine.execCalendarTick s
  | .fnWake w fn v => Sys2Proof.Machine.execFnWake w fn v s
  | .doorbellPollTick fn => Sys2Proof.Machine.execDoorbellPollTick fn s
  | .doorbellRead ring v => Sys2Proof.Machine.execDoorbellRead ring v s
  | .arbitrationRound portB => Sys2Proof.Machine.execArbitrationRound portB s
  | .commandConsume ring entry => Sys2Proof.Machine.execCommandConsume ring entry s
  | .interruptRaise ring => Sys2Proof.Machine.execInterruptRaise ring s
  | .functionLevelReset fn => Sys2Proof.Machine.execFunctionLevelReset fn s
  | .hostLossHold portB cause => Sys2Proof.Machine.execHostLossHold portB cause s
  | .pcieLinkTrained portB rate width => Sys2Proof.Machine.execPcieLinkTrained portB rate width s
  | .pcieRetrain portB => Sys2Proof.Machine.execPcieRetrain portB s
  | .descriptorFetch chan d => Sys2Proof.Machine.execDescriptorFetch chan d s
  | .descriptorFetchFail chan => Sys2Proof.Machine.execDescriptorFetchFail chan s
  | .dmaNop chan => Sys2Proof.Machine.execDmaNop chan s
  | .dmaCopy chan data fail => Sys2Proof.Machine.execDmaCopy chan data fail s
  | .dmaFill chan => Sys2Proof.Machine.execDmaFill chan s
  | .dmaClasp chan => Sys2Proof.Machine.execDmaClasp chan s
  | .dmaExpdst chan => Sys2Proof.Machine.execDmaExpdst chan s
  | .dmaTransferComplete chan => Sys2Proof.Machine.execDmaTransferComplete chan s
  | .claspFlushComplete chan ok => Sys2Proof.Machine.execClaspFlushComplete chan ok s
  | .dmaStatusWrite chan => Sys2Proof.Machine.execDmaStatusWrite chan s
  | .semaphoreRead k' => Sys2Proof.Machine.execSemaphoreRead k' s
  | .semaphoreWrite k' v => Sys2Proof.Machine.execSemaphoreWrite k' v s
  | .semaphoreFetchAdd k' v => Sys2Proof.Machine.execSemaphoreFetchAdd k' v s
  | .semaphoreCompareSwap k' old new => Sys2Proof.Machine.execSemaphoreCompareSwap k' old new s
  | .stallStreakGrant bank reqs => Sys2Proof.Machine.execStallStreakGrant bank reqs s
  | .power54vInRange => Sys2Proof.Machine.execPower54vInRange s
  | .power54vLoss => Sys2Proof.Machine.execPower54vLoss s
  | .mgmtBoot => Sys2Proof.Machine.execMgmtBoot s
  | .bootVerifyDone => Sys2Proof.Machine.execBootVerifyDone s
  | .dramTrainingDone t' ok => Sys2Proof.Machine.execDramTrainingDone t' ok s
  | .moduleReady => Sys2Proof.Machine.execModuleReady s
  | .refclkLoss => Sys2Proof.Machine.execRefclkLoss s
  | .refclkReturn => Sys2Proof.Machine.execRefclkReturn s
  | .perstAssert portB => Sys2Proof.Machine.execPerstAssert portB s
  | .perstRelease portB => Sys2Proof.Machine.execPerstRelease portB s
  | .pwrBrakeAssert => Sys2Proof.Machine.execPwrBrakeAssert s
  | .pwrBrakeRelease => Sys2Proof.Machine.execPwrBrakeRelease s
  | .powerSample watts => Sys2Proof.Machine.execPowerSample watts s
  | .dutyAdjustTick => Sys2Proof.Machine.execDutyAdjustTick s
  | .watchdogExpiry => Sys2Proof.Machine.execWatchdogExpiry s
  | .hkRestartComplete => Sys2Proof.Machine.execHkRestartComplete s
  | .pwrReqSleep w => Sys2Proof.Machine.execPwrReqSleep w s
  | .pwrReqOff w force => Sys2Proof.Machine.execPwrReqOff w force s
  | .pwrReqWake w => Sys2Proof.Machine.execPwrReqWake w s
  | .sleepWaitTimeout => Sys2Proof.Machine.execSleepWaitTimeout s
  | .sleepEntry => Sys2Proof.Machine.execSleepEntry s
  | .offEntry => Sys2Proof.Machine.execOffEntry s
  | .mgmtWake => Sys2Proof.Machine.execMgmtWake s
  | .wakeComplete => Sys2Proof.Machine.execWakeComplete s
  | .timSet w v => Sys2Proof.Machine.execTimSet w v s
  | .timUtcWrite w v => Sys2Proof.Machine.execTimUtcWrite w v s
  | .almanacRead w => Sys2Proof.Machine.execAlmanacRead w s
  | .attestationRequest w nonce => Sys2Proof.Machine.execAttestationRequest w nonce s
  | .fwupdate r img => Sys2Proof.Machine.execFwupdate r img s
  | .svcommit r => Sys2Proof.Machine.execSvcommit r s
  | .rkrevoke r st => Sys2Proof.Machine.execRkrevoke r st s
  | .lkprog r rec => Sys2Proof.Machine.execLkprog r rec s
  | .dbgunlock r => Sys2Proof.Machine.execDbgunlock r s
  | .idcsr r => Sys2Proof.Machine.execIdcsr r s
  | .idinstall r cert => Sys2Proof.Machine.execIdinstall r cert s
  | .recover r img => Sys2Proof.Machine.execRecover r img s
  | .rollCallRestart w => Sys2Proof.Machine.execRollCallRestart w s
  | .aonNodeWrite w v => Sys2Proof.Machine.execAonNodeWrite w v s
  | .partitionAssign w fn v => Sys2Proof.Machine.execPartitionAssign w fn v s
  | .fnRelease w v => Sys2Proof.Machine.execFnRelease w v s
  | .ringEnable w ring v => Sys2Proof.Machine.execRingEnable w ring v s
  | .ringDisable w ring v => Sys2Proof.Machine.execRingDisable w ring v s
  | .linkLoopWrite w v => Sys2Proof.Machine.execLinkLoopWrite w v s
  | .bwlenWrite w v => Sys2Proof.Machine.execBwlenWrite w v s
  | .bandwidthWindowClose => Sys2Proof.Machine.execBandwidthWindowClose s
  | .frostCancel w set => Sys2Proof.Machine.execFrostCancel w set s
  | .frostArmTime w set target => Sys2Proof.Machine.execFrostArmTime w set target s
  | .frostArmSeal w set target => Sys2Proof.Machine.execFrostArmSeal w set target s
  | .frostAtOnce w set => Sys2Proof.Machine.execFrostAtOnce w set s
  | .frostCaptureTime set => Sys2Proof.Machine.execFrostCaptureTime set s
  | .ctrXselClear w v => Sys2Proof.Machine.execCtrXselClear w v s
  | .sampleRecord p src r => Sys2Proof.Machine.execSampleRecord p src r s
  | .registerWrite w off size v => Sys2Proof.Machine.execRegisterWrite w off size v s
  | .registerReadClear w off size => Sys2Proof.Machine.execRegisterReadClear w off size s
  | .arrayInstructionComplete k' => Sys2Proof.Machine.execArrayInstructionComplete k' s
  | .vectorInstructionComplete k' => Sys2Proof.Machine.execVectorInstructionComplete k' s
  | .frameTransmit k => Sys2Proof.Machine.execFrameTransmit k s
  | .hostWindowWrite fn off data => Sys2Proof.Machine.execHostWindowWrite fn off data s
  | .hostWindowRead fn off len => Sys2Proof.Machine.execHostWindowRead fn off len s
  | .registerRead w off size => Sys2Proof.Machine.execRegisterRead w off size s
  | .hostReadCompletion portB fn => Sys2Proof.Machine.execHostReadCompletion portB fn s
  | .unsupportedRequest portB kind => Sys2Proof.Machine.execUnsupportedRequest portB kind s
  | .jtagAccess inst => Sys2Proof.Machine.execJtagAccess inst s

end Sys2Proof.Machine
end

