-- ==== Sys2Proof/Safety.lean ====
section
/-! DEFINITION. What the statements speak of: the value of a pattern, a step that keeps a property, a word that issues at
once, what a vector command gives. -/

namespace Sys2Proof.Machine

/-- The value of a decoded operand that is finite. -/
def Num.value : Num → Option Rat
  | .fin m e => some (m * (2 : Rat) ^ e)
  | _ => none

/-- Every step that answers a next state keeps a property. -/
def StepKeeps (inv : State → Prop) : Prop := ∀ s t : State, inv s → step s = .next t → inv t

/-- The state with a word at the end of a unit's stream. -/
def queued (s : State) (p : Part) (u : SUnit) (x : SWord) : State :=
  modJob s p fun j => j.modStream u fun st => { st with held := st.held ++ [x] }

/-- Whether a word that comes to a unit issues at once and alone: the job runs its streams, the stream has not ended and
its unit may take the word, no stream holds an earlier word, and the step does not skip it. -/
def issuesNow (s : State) (p : Part) (u : SUnit) (x : SWord) : Bool :=
  match getJob s p with
  | none => false
  | some j =>
    j.streaming && !(j.stream u).ended && (j.stream u).unheld && heldWords s == 0
    && !((j.stream u).gated && j.vetoed && x.skips)
    && match getJob (queued s p u x) p with
       | none => false
       | some k => wordReady (queued s p u x) p k u x == .go

/-- Whether every bit of `v` stands in the reports of the running step, or in the next one's where the contribution has
been made (R253). -/
def reported (s : State) (p : Part) (v : W32) : Prop :=
  ∃ j, getJob s p = some j ∧ (if lateReport j then j.repNext.bits else j.rep.bits) &&& v = v

/-- No scratchpad bank group is off, and no bit error waits in the scratchpad or in the stores of the array (R86, R130,
R131). -/
def calm (s : State) : Prop := (∀ d, 36 ≤ d → d ≤ 43 → dom s d ≠ .off) ∧ s.spdErr = [] ∧ s.arr.errs = []

/-- The lead word in force for the array stream of a partition (R64, R66). -/
def leadOf (s : State) (p : Part) : Lead := match getJob s p with | none => .none | some j => j.arrS.lead

/-- What an array product or load leaves as it was: device memory, the vector engine, the tables, the rings. -/
def arrFrame (s t : State) : Prop := t.mem = s.mem ∧ t.vec = s.vec ∧ t.tables = s.tables ∧ t.rings = s.rings

/-- The accumulators outside `n` of them from `i` on are as they were. -/
def accFrame (s t : State) (i n : Nat) : Prop := ∀ k, k < i ∨ i + n ≤ k → accGet t k = accGet s k

/-- What a vector word that writes tile register `td` leaves as it was: every other tile register, the polynomial table,
device memory, the array, the tables, the rings and the power domains. -/
def vecFrame (s t : State) (td : Nat) : Prop :=
  (∀ a, a < 2048 * td ∨ 2048 * td + 2048 ≤ a → t.vec.tile.get a = s.vec.tile.get a)
  ∧ t.vec.poly = s.vec.poly ∧ t.mem = s.mem ∧ t.arr = s.arr ∧ t.tables = s.tables ∧ t.rings = s.rings ∧ t.pwr = s.pwr

/-- What a vector word that writes mask register `k` leaves as it was. -/
def maskFrame (s t : State) (k : Nat) : Prop :=
  (∀ a, a < 128 * k ∨ 128 * k + 128 ≤ a → t.vec.mask.get a = s.vec.mask.get a)
  ∧ t.vec.tile = s.vec.tile ∧ t.vec.lane = s.vec.lane ∧ t.vec.poly = s.vec.poly ∧ t.mem = s.mem ∧ t.arr = s.arr
  ∧ t.tables = s.tables ∧ t.rings = s.rings ∧ t.pwr = s.pwr

/-- The state `t` holds in TD, in format `fmt` and columns `lo` to `lo + n - 1`, what `f` gives where the element is active,
and +0 or the old bits where it is masked off (R93); the other columns are as they were. -/
def tileHolds (s t : State) (w : VWord) (fmt lo n : Nat) (f : Nat → Nat → Elem) : Prop :=
  ∀ i j, i < 32 → j < shapeCols fmt →
    tileRaw t w.td.toNat fmt i j =
      if lo ≤ j ∧ j < lo + n then (tileElem s w fmt f i j).raw % 2 ^ (8 * fmtWidth fmt) else tileRaw s w.td.toNat fmt i j

/-- A non-finite result in those columns is reported where the word sets GRAD (R117). -/
def tileReports (s t : State) (p : Part) (w : VWord) (fmt lo n : Nat) (f : Nat → Nat → Elem) : Prop :=
  w.grad = true → (∃ i k, i < 32 ∧ k < n ∧ (tileElem s w fmt f i (lo + k)).nf = true) → reported t p (vNonfin ||| srcVector)

/-- The vector command `c` of opcode `op` completes where its word issues at once: it writes TD in format `fmt` of its word,
the columns `cols` of it, with the elements that `f` gives, reports as R117 says, and leaves the rest as it was, the mask
registers and the shift lanes among it. -/
def VecGives (c : Part → VWord → Instr) (op : VOp) (fmt : VWord → Nat) (cols : VWord → Nat × Nat)
    (f : State → Part → VWord → Nat → Nat → Elem) : Prop :=
  ∀ (s : State) (p : Part) (w : VWord), issuesNow s p .vec (.vec op w) = true →
    ∃ t, exec (c p w) s = .next t
      ∧ tileHolds s t w (fmt w) (cols w).1 (cols w).2 (f s p w)
      ∧ tileReports s t p w (fmt w) (cols w).1 (cols w).2 (f s p w)
      ∧ vecFrame s t w.td.toNat ∧ t.vec.mask = s.vec.mask ∧ t.vec.lane = s.vec.lane

/-- The same for a word that writes the whole of TD in the format of DF. -/
def VecFills (c : Part → VWord → Instr) (op : VOp) (f : State → Part → VWord → Nat → Nat → Elem) : Prop :=
  VecGives c op (fun w => w.df.toNat) (fun w => (0, shapeCols w.df.toNat)) f

/-! ### Frames of the jobs, the events and the commands -/

/-- Nothing but the job of one partition is another. -/
def onlyJob (s t : State) (p : Part) : Prop :=
  t = { s with jobs := t.jobs } ∧ ∀ q, q ≠ p → getJob t q = getJob s q

/-- Nothing but the job of one partition and the counters is another. -/
def onlyJobCtr (s t : State) (p : Part) : Prop :=
  t = { s with jobs := t.jobs, isl := t.isl } ∧ ∀ q, q ≠ p → getJob t q = getJob s q

/-- Whether an address lies in the shadow of a ring of the module (R368). -/
def shadowed (s : State) (a : Nat) : Bool :=
  s.rings.any fun kr => decide (dualBase + 16 * kr.1 ≤ a ∧ a < dualBase + 16 * kr.1 + 16)

/-- What events may change (R382 to R390): the event log, what is posted to the hosts, the event buffers of the ports, the
counts of events without a ring, and of each ring its producer index, its drops and what it has not yet reported, with
its shadow. -/
def eventFrame (s t : State) : Prop :=
  t = { s with evLog := t.evLog, rings := t.rings, fns := t.fns, portA := t.portA, portB := t.portB, tx := t.tx, mem := t.mem }
  ∧ (∀ a, shadowed s a = false → t.mem.get a = s.mem.get a)
  ∧ (∀ n, getRing t n = { getRing s n with
      dev := (getRing t n).dev, drop := (getRing t n).drop, dropNew := (getRing t n).dropNew
      unrep := (getRing t n).unrep, unrepAt := (getRing t n).unrepAt })
  ∧ (∀ f, getFn t f = { getFn s f with noring := (getFn t f).noring })
  ∧ (∀ b, getPort t b = { getPort s b with
      evBuf := (getPort t b).evBuf, evDropped := (getPort t b).evDropped, evDropCount := (getPort t b).evDropCount })

/-- What the completion of a command and its events may change: what events may, the commands in progress of the rings,
and the completions that the ports keep (R378, R390). -/
def commandFrame (s t : State) : Prop :=
  t = { s with evLog := t.evLog, rings := t.rings, fns := t.fns, portA := t.portA, portB := t.portB, tx := t.tx, mem := t.mem }
  ∧ (∀ a, shadowed s a = false → t.mem.get a = s.mem.get a)
  ∧ (∀ n, getRing t n = { getRing s n with
      dev := (getRing t n).dev, drop := (getRing t n).drop, dropNew := (getRing t n).dropNew
      unrep := (getRing t n).unrep, unrepAt := (getRing t n).unrepAt
      prog := (getRing t n).prog, old := (getRing t n).old, slots := (getRing t n).slots })
  ∧ (∀ f, getFn t f = { getFn s f with noring := (getFn t f).noring })
  ∧ (∀ b, getPort t b = { getPort s b with
      evBuf := (getPort t b).evBuf, evDropped := (getPort t b).evDropped, evDropCount := (getPort t b).evDropCount
      kept := (getPort t b).kept })

/-- What the work of one job's plan leaves as it was: the array, the vector engine, time, security, the DMA channels, the
flash, the tier windows, the partitions and the other jobs. -/
def planFrame (s t : State) (p : Part) : Prop :=
  t.arr = s.arr ∧ t.vec = s.vec ∧ t.tim = s.tim ∧ t.sec = s.sec ∧ t.chans = s.chans ∧ t.flash = s.flash ∧ t.wins = s.wins
  ∧ t.pctl = s.pctl ∧ t.pending = s.pending ∧ ∀ q, q ≠ p → getJob t q = getJob s q

/-- The log of `t` continues that of `s`, and an event of this code and detail is among what is new. -/
def raises (s t : State) (code : Nat) (detail : List Nat) : Prop :=
  ∃ l, t.evLog = l ++ s.evLog ∧ ∃ e ∈ l, e.code = code ∧ e.detail = detail

/-- A command that its ring has in progress, that the ring's order lets start, and whose function has the right to it
(R364, R373, R374). -/
def runs (s : State) (c : Cmd) (opc : Nat) : Prop := cmdStarts s c opc = true ∧ cmdRight s c = true

/-! ### Links, and accesses by right -/

/-- Nothing but one link, the counters and the Almanac's link counts is another. -/
def onlyLink (s t : State) (k : Nat) : Prop :=
  t = { s with fabr := t.fabr, isl := t.isl, alm := t.alm } ∧ t.fabr = { s.fabr with links := t.fabr.links }
  ∧ ∀ i, i ≠ k → getLink t i = getLink s i

/-- The same beside what an event may change. -/
def onlyLinkE (s t : State) (k : Nat) : Prop :=
  eventFrame { s with fabr := t.fabr, isl := t.isl, alm := t.alm } t ∧ t.fabr = { s.fabr with links := t.fabr.links }
  ∧ ∀ i, i ≠ k → getLink t i = getLink s i

/-- The keys of a sparse table rise strictly: no key stands twice. -/
def keysRise {α : Type} (t : Tab α) : Prop := (t.map (·.1)).Pairwise (· < ·)

/-- Nothing but one ring, its shadow and its DMA channel is another; the shadow shows the ring (R368). -/
def onlyRing (s t : State) (n : Nat) : Prop :=
  t = { s with rings := t.rings, mem := t.mem, chans := t.chans, fns := t.fns } ∧ (∀ m, m ≠ n → getRing t m = getRing s m)
  ∧ (∀ a, (a < dualBase + 16 * n ∨ dualBase + 16 * n + 16 ≤ a) → t.mem.get a = s.mem.get a)
  ∧ t.mem.read (dualBase + 16 * n) 16 = shadowBytes t (getRing t n)

/-- The command answers a next state that `eff` describes. -/
def gives (c : Instr) (s : State) (eff : State → Prop) : Prop := ∃ t, exec c s = .next t ∧ eff t

/-- The command raises one event of a code and detail and changes nothing else. -/
def onlyRaises (c : Instr) (s : State) (code : Nat) (detail : List Nat) : Prop :=
  gives c s fun t => eventFrame s t ∧ raises s t code detail

/-- An access by right (R453): one that reaches the module and has the right does what `eff` describes, one that reaches it
without the right raises EV_SEC_AUTH with the register's offset and the function and changes nothing else, one that cannot
reach it does nothing. -/
def byRight (c : Instr) (s : State) (ok : Bool) (w : Who) (off : Nat) (eff : State → Prop) : Prop :=
  (reaches s w = true → ok = true → gives c s eff)
  ∧ (reaches s w = true → ok = false → onlyRaises c s evSecAuth [off, whoFn w])
  ∧ (reaches s w = false → exec c s = .next s)

end Sys2Proof.Machine
end

