-- ==== Sys2Proof/Certificates/Slice0/Obligations.lean ====
section
/-! DEFINITION. The statements for the provers, family by family. -/

open Sys2Proof Sys2Proof.Machine

/-! ### The queue, the number formats -/

/-- Every command: a step takes the command at the front of the queue and runs it with the queue's rest; on an empty queue
the module idles for one tick (the model's own, log entry 3), which, where no stream holds a word, the module is
active and no slew is due, is 5 ns of device time and seven core cycles, and leaves memory, the jobs and the queue alone. Every
command answers a next state in every state, but EXTEST and the debug instruction of JTAG while debug is unlocked. -/
def Obligations.StepRunsFront : Prop :=
  (∀ (c : Instr) (rest : List Instr) (s : State), s.pending = c :: rest →
    Machine.step s = Machine.exec c { s with pending := rest })
  ∧ (∀ (c : Instr) (s : State), (∀ i, c = .jtagAccess i → (i ≠ .extest ∧ i ≠ .debug) ∨ lkDebug s = false ∨ s.sec.dbg = false) →
    ∃ t, Machine.exec c s = .next t)
  ∧ ∀ s : State, s.pending = [] → Machine.step s = .next (idle s) ∧
    (heldWords s = 0 → dom s 62 = .on → s.pwr.mst = .active → s.tim.slew = 0 → s.tim.now + 5 < 2 ^ 64 →
      s.isl.live.cycCore + 7 < 2 ^ 64 →
      (idle s).tim.now = s.tim.now + 5 ∧ (idle s).isl.live.cycCore = s.isl.live.cycCore + 7 ∧ (idle s).mem = s.mem
      ∧ (idle s).jobs = s.jobs ∧ (idle s).pending = [])

/-- R12 and R15: the values of the Pearl16 and Opal32 patterns. -/
def Obligations.FormatValues : Prop :=
  (∀ v : BitVec 16,
    let s := (v.extractLsb' 15 1).toNat
    let e := (v.extractLsb' 8 7).toNat
    let f := (v.extractLsb' 0 8).toNat
    (1 ≤ e → e ≤ 126 → (ofPearl v).value = some ((-1 : Rat) ^ s * 2 ^ ((e : Int) - 63) * (1 + f / 256)))
    ∧ (e = 0 → (ofPearl v).value = some ((-1 : Rat) ^ s * 2 ^ (-62 : Int) * (f / 256)))
    ∧ (e = 127 → f = 0 → ofPearl v = .inf (s == 1)) ∧ (e = 127 → f ≠ 0 → ofPearl v = .nan))
  ∧ ∀ v : W32,
    let s := (v.extractLsb' 31 1).toNat
    let e := (v.extractLsb' 23 8).toNat
    let f := (v.extractLsb' 0 23).toNat
    (1 ≤ e → e ≤ 254 → (ofOpal v).value = some ((-1 : Rat) ^ s * 2 ^ ((e : Int) - 127) * (1 + f / 2 ^ 23)))
    ∧ (e = 0 → (ofOpal v).value = some ((-1 : Rat) ^ s * 2 ^ (-126 : Int) * (f / 2 ^ 23)))
    ∧ (e = 255 → f = 0 → ofOpal v = .inf (s == 1)) ∧ (e = 255 → f ≠ 0 → ofOpal v = .nan)

/-- R14: the values of the Bead8 codes: 0x80 is void, the only not-a-number; every other code has a finite value, of magnitude
60 at most, and only the code 0 is zero. -/
def Obligations.BeadValues : Prop :=
  ofBead 0x80 = .nan ∧ (ofBead 0x7F).value = some 60
  ∧ ∀ v : Byte, v ≠ 0x80 →
    let s := (v.extractLsb' 7 1).toNat
    let e := (v.extractLsb' 3 4).toNat
    let f := (v.extractLsb' 0 3).toNat
    (1 ≤ e → (ofBead v).value = some ((-1 : Rat) ^ s * 2 ^ ((e : Int) - 10) * (1 + f / 8)))
    ∧ (e = 0 → (ofBead v).value = some ((-1 : Rat) ^ s * 2 ^ (-9 : Int) * (f / 8)))
    ∧ (ofBead v).isFinite = true ∧ ∃ x : Rat, (ofBead v).value = some x ∧ -60 ≤ x ∧ x ≤ 60 ∧ (x = 0 → v = 0)

/-- A decoded value that a format holds is rounded back to the same value, whichever rounding is used, and counts nothing;
a NaN gives the canonical one, and no rounding gives the pattern of a negative zero (R13, R16, R23 to R26). -/
def Obligations.RoundingKeepsValues : Prop :=
  (∀ (rnd : Rnd) (v : W32), (ofOpal v).isFinite = true →
    (ofOpal (toOpalR rnd (ofOpal v).toRes).1).value = (ofOpal v).value ∧ (toOpalR rnd (ofOpal v).toRes).2 = {})
  ∧ (∀ (rnd : Rnd) (v : BitVec 16), (ofPearl v).isFinite = true →
    (ofPearl (toPearlR rnd (ofPearl v).toRes).1).value = (ofPearl v).value ∧ (toPearlR rnd (ofPearl v).toRes).2 = {})
  ∧ (∀ rnd : Rnd, (toOpalR rnd .nan).1 = 0x7FC00000 ∧ (toPearlR rnd .nan).1 = 0x7F81)
  ∧ ∀ (rnd : Rnd) (x : Res), (toOpalR rnd x).1 ≠ 0x80000000 ∧ (toPearlR rnd x).1 ≠ 0x8000

/-! ### The vector engine -/

/-- The elementwise arithmetic of R101: VADD, VSUB, VMUL, VFMA, VDIV, VMAX, VMIN, VABS, VNEG, VSCL, VSQRT: each result is
the exact value of its operation rounded once into the format of the destination. -/
def Obligations.VectorArithmetic : Prop :=
  VecFills .vadd .vadd (fun s p w i j => rounded s p w i j ((taNum s w i j).add (tbNum s w (colOff w) i j)).toRes)
  ∧ VecFills .vsub .vsub (fun s p w i j => rounded s p w i j ((taNum s w i j).sub (tbNum s w (colOff w) i j)).toRes)
  ∧ VecFills .vmul .vmul (fun s p w i j => rounded s p w i j ((taNum s w i j).mul (tbNum s w (colOff w) i j)).toRes)
  ∧ VecFills .vfma .vfma (fun s p w i j =>
      rounded s p w i j (((taNum s w i j).mul (tbNum s w (colOff w) i j)).add (tcNum s w i j)).toRes)
  ∧ VecFills .vdiv .vdiv (fun s p w i j => rounded s p w i j ((taNum s w i j).div (tbNum s w (colOff w) i j)))
  ∧ VecFills .vmax .vmax (fun s p w i j => rounded s p w i j ((taNum s w i j).max (tbNum s w (colOff w) i j)).toRes)
  ∧ VecFills .vmin .vmin (fun s p w i j => rounded s p w i j ((taNum s w i j).min (tbNum s w (colOff w) i j)).toRes)
  ∧ VecFills .vabs .vabs (fun s p w i j => rounded s p w i j (taNum s w i j).abs.toRes)
  ∧ VecFills .vneg .vneg (fun s p w i j => rounded s p w i j (taNum s w i j).neg.toRes)
  ∧ VecFills .vscl .vscl (fun s p w i j => rounded s p w i j ((taNum s w i j).scale (vsclShift s p w)).toRes)
  ∧ VecFills .vsqrt .vsqrt (fun s p w i j => rounded s p w i j (taNum s w i j).sqrt)

/-- The moves of R97: VBC, VTR, VGTH, VSEL and VMOV. VTR, VGTH, VSEL and VMOV move bits without decoding them; VMOV also
moves the shift lane (R91). -/
def Obligations.VectorMoves : Prop :=
  VecFills .vbc .vbc (fun s p w i j =>
      rounded s p w i j (if w.bc = 0 then (ofPearl w.imm).toRes else (tbNum s w (colOff w) i j).toRes))
  ∧ VecGives .vtr .vtr (fun _ => 0) (fun _ => (0, 32)) (fun s _ w i j => moved (tileRaw s w.ta.toNat 0 j i))
  ∧ VecFills .vgth .vgth (fun s _ w i j =>
      let k := tileRaw s w.tb.toNat w.df.toNat i j
      moved (if k < shapeCols w.df.toNat then tileRaw s w.ta.toNat w.df.toNat i k else 0))
  ∧ VecFills .vsel .vsel (fun s _ w i j =>
      moved (tileRaw s (if maskFor s w.msk.toNat w.df.toNat i j then w.ta.toNat else w.tb.toNat) w.df.toNat i j))
  ∧ ∀ (s : State) (p : Part) (w : VWord), issuesNow s p .vec (.vec .vmov w) = true →
      ∃ t, exec (.vmov p w) s = .next t
        ∧ tileHolds s t w w.df.toNat 0 (shapeCols w.df.toNat) (fun i j => moved (tileRaw s w.ta.toNat w.df.toNat i j))
        ∧ (∀ i, i < 32 → laneAt t w.td.toNat i = laneAt s w.ta.toNat i)
        ∧ (∀ a, a < 32 * w.td.toNat ∨ 32 * w.td.toNat + 32 ≤ a → t.vec.lane.get a = s.vec.lane.get a)
        ∧ vecFrame s t w.td.toNat ∧ t.vec.mask = s.vec.mask

/-- The functions of the polynomial table and the instructions built on them: VRSQ, VEXP2, VLOG2 (R105), VACT (R104), VACTD
(R105), VNRM, VNRMB (R108), VSMX and VSMXB (R109): each step rounded as its rule says, the last one into the destination. -/
def Obligations.VectorFunctions : Prop :=
  VecFills .vrsq .vrsq (fun s p w i j => roundedC s p w i j (rsqNum s (taNum s w i j)))
  ∧ VecFills .vexp2 .vexp2 (fun s p w i j => roundedC s p w i j (exp2Num s (taNum s w i j)))
  ∧ VecFills .vlog2 .vlog2 (fun s p w i j => roundedC s p w i j (log2Num s (taNum s w i j)))
  ∧ VecFills .vact .vact (fun s p w i j => roundedC s p w i j (polyEval s (bits 3 0 w.imm.toNat) (taNum s w i j)))
  ∧ VecFills .vactd .vactd (fun s p w i j =>
      let d := polyOp s (bits 7 4 w.imm.toNat) (taNum s w i j)
      roundedC s p w i j (d.1.mul (tbNum s w (colOff w) i j), d.2))
  ∧ VecFills .vnrm .vnrm (fun s p w i j =>
      let a := r32 ((taNum s w i j).sub (opalAt s w.tb.toNat i w.ci.toNat))
      let x := r32 (a.1.mul (opalAt s w.tb.toNat i (w.ci.toNat + 1)))
      let g := opalAt s w.tc.toNat (2 * (j / 16)) (j % 16)
      let b := opalAt s w.tc.toNat (2 * (j / 16) + 1) (j % 16)
      roundedC s p w i j ((x.1.mul g).add b, a.2.add x.2))
  ∧ VecFills .vnrmb .vnrmb (fun s p w i j =>
      let a := r32 ((taNum s w i j).sub (opalAt s w.tb.toNat i w.ci.toNat))
      let x := r32 (a.1.mul (opalAt s w.tb.toNat i (w.ci.toNat + 1)))
      let u := r32 ((tcNum s w i j).sub (opalAt s w.tb.toNat i (w.ci.toNat + 2)))
      let v := r32 (x.1.mul (opalAt s w.tb.toNat i (w.ci.toNat + 3)))
      let d := r32 (u.1.sub v.1)
      roundedC s p w i j ((opalAt s w.tb.toNat i (w.ci.toNat + 1)).mul d.1, (((a.2.add x.2).add u.2).add v.2).add d.2))
  ∧ VecFills .vsmx .vsmx (fun s p w i j =>
      let a := r32 ((taNum s w i j).sub (opalAt s w.tb.toNat i w.ci.toNat))
      let b := r32 (a.1.mul (ofOpal 0x3FB8AA3B))
      let r := exp2Num s b.1
      roundedC s p w i j (r.1, (a.2.add b.2).add r.2))
  ∧ VecFills .vsmxb .vsmxb (fun s p w i j =>
      let d := r32 ((tcNum s w i j).sub (opalAt s w.tb.toNat i w.ci.toNat))
      roundedC s p w i j ((taNum s w i j).mul d.1, d.2))

/-- The conversions VCVT (R111), VDQ (R113) and VQNT (R112), and the draws VRND (R116) and VDRP (R115). VQNT gives each row its
shift and its codes; VDRP without MEN writes the mask of the elements that it keeps. -/
def Obligations.VectorConversions : Prop :=
  VecGives .vcvt .vcvt (fun w => w.df.toNat) (fun w => (cvtShape w w.sf.toNat w.df.toNat).1) (fun s p w i j =>
      let c := (cvtShape w w.sf.toNat w.df.toNat).2 j
      rounded s p w i j (ofRaw w.sf.toNat (laneAt s w.ta.toNat i) (tileRaw s c.1 w.sf.toNat i c.2)).toRes)
  ∧ VecGives .vdq .vdq (fun w => w.df.toNat) (fun w => (cvtShape w 2 w.df.toNat).1) (fun s p w i j =>
      let c := (cvtShape w 2 w.df.toNat).2 j
      rounded s p w i j (ofRaw w.sf.toNat (laneAt s w.ta.toNat i) (tileRaw s c.1 w.sf.toNat i c.2)).toRes)
  ∧ VecGives .vrnd .vrnd (fun _ => 0) (fun _ => (0, 32)) (fun s p w i j => moved (tileSlice s p w 2 0 i j))
  ∧ (∀ (s : State) (p : Part) (w : VWord), issuesNow s p .vec (.vec .vqnt w) = true →
      ∃ t, exec (.vqnt p w) s = .next t
        ∧ (∀ i j, i < 32 → j < 64 → t.vec.tile.get (2048 * w.td.toNat + 64 * i + j) = nth 0 (vqntRow s p w i).2.1 j)
        ∧ (∀ i, i < 32 → t.vec.lane.get (32 * w.td.toNat + i) = BitVec.ofInt 8 (vqntRow s p w i).1)
        ∧ (∀ a, a < 32 * w.td.toNat ∨ 32 * w.td.toNat + 32 ≤ a → t.vec.lane.get a = s.vec.lane.get a)
        ∧ vecFrame s t w.td.toNat ∧ t.vec.mask = s.vec.mask)
  ∧ ∀ (s : State) (p : Part) (w : VWord), issuesNow s p .vec (.vec .vdrp w) = true →
      ∃ t, exec (.vdrp p w) s = .next t
        ∧ tileHolds s t w w.df.toNat 0 (shapeCols w.df.toNat) (fun i j =>
            if w.imm.toNat ≤ tileSlice s p w 1 w.df.toNat i j
            then rounded s p w i j ((taNum s w i j).mul (opalAt s w.tb.toNat 0 w.ci.toNat)).toRes else moved 0)
        ∧ (w.men = true → t.vec.mask = s.vec.mask)
        ∧ (w.men = false → ∀ i j, i < 32 → j < 32 → j < shapeCols w.df.toNat →
            maskBit t w.msk.toNat i j = decide (w.imm.toNat ≤ tileSlice s p w 1 w.df.toNat i j))
        ∧ (∀ a, a < 128 * w.msk.toNat ∨ 128 * w.msk.toNat + 128 ≤ a → t.vec.mask.get a = s.vec.mask.get a)
        ∧ vecFrame s t w.td.toNat ∧ t.vec.lane = s.vec.lane

/-- VMSK, VMCMP and VMLOG write the mask register that TD names: each bit that stands for an element, governed by MEN and ZM
as R93 says. -/
def Obligations.VectorMasks : Prop :=
  ∀ (s : State) (p : Part) (w : VWord),
    let k := w.td.toNat % 8
    let keep (i j : Nat) (v : Bool) : Bool :=
      if !w.men || maskBit s w.msk.toNat i j then v else if w.zm then false else maskBit s k i j
    (issuesNow s p .vec (.vec .vmsk w) = true → ∃ t, exec (.vmsk p w) s = .next t ∧ maskFrame s t k ∧ t.free = s.free ∧
      ∀ i j, i < 32 → j < 32 → maskBit t k i j =
        keep i j (decide (i < bits 5 0 w.imm.toNat) && decide (j < bits 11 6 w.imm.toNat)))
    ∧ (issuesNow s p .vec (.vec .vmcmp w) = true → ∃ t, exec (.vmcmp p w) s = .next t ∧ maskFrame s t k ∧
      ∀ i j, i < 32 → j < 32 → j < shapeCols w.sf.toNat → bits 2 0 w.imm.toNat ≠ 7 → maskBit t k i j =
        keep i j (cmpNum (bits 2 0 w.imm.toNat) (tileNum s w.ta.toNat w.sf.toNat i j) (tbNum s w 0 i j)))
    ∧ (issuesNow s p .vec (.vec .vmlog w) = true → ∃ t, exec (.vmlog p w) s = .next t ∧ maskFrame s t k ∧
      ∀ i j, i < 32 → j < 32 → maskBit t k i j =
        keep i j (let a := maskBit s (w.ta.toNat % 8) i j
                  let b := maskBit s (w.tb.toNat % 8) i j
                  match bits 1 0 w.imm.toNat with
                  | 0 => a && b | 1 => a || b | 2 => a != b | _ => a && !b))

/-- RSUM, RMAX, RMIN, RSSQ and RDOT: the tree of R106 over each row, or each column under RAX, combined with the element that
stood there under ACC (R107), into column CI of the Opal32 tile TD; every other element of TD stays. -/
def Obligations.VectorReductions : Prop :=
  ∀ (c : Part → VWord → Instr) (op : VOp),
    (c, op) ∈ [(Instr.rsum, VOp.rsum), (.rmax, .rmax), (.rmin, .rmin), (.rssq, .rssq), (.rdot, .rdot)] →
    ∀ (s : State) (p : Part) (w : VWord), issuesNow s p .vec (.vec op w) = true → w.sf.toNat < 2 → w.ci.toNat < 16 →
      ∃ t, exec (c p w) s = .next t
        ∧ (let n := shapeCols w.sf.toNat
           let line (k : Nat) : List (Option Machine.Num) :=
             if w.rax then (List.range 32).map fun x => (redInput s w op x k).1 else (List.range n).map fun x => (redInput s w op k x).1
           let tree (k : Nat) : Machine.Num := ((treeLevels (combineOf op) (Nat.log2 (line k).length) (line k)).1).getD (absentOf op)
           ∀ k j, k < 32 → j < 16 → tileRaw t w.td.toNat 1 k j =
             if j = w.ci.toNat ∧ k < (if w.rax then n else 32) then
               (opal (if w.acc then (combineOf op (opalAt s w.td.toNat k j) (tree k)).1 else tree k)).toNat
             else tileRaw s w.td.toNat 1 k j)
        ∧ vecFrame s t w.td.toNat ∧ t.vec.mask = s.vec.mask ∧ t.vec.lane = s.vec.lane

/-- VBCE and VMSE (R110): the gradients go to TD; the losses of each row, summed as RSUM sums a row, go to column CI of the
Opal32 tile TC, which is another register than TD, and a sum that is not finite is reported under GRAD (R117). -/
def Obligations.VectorLosses : Prop :=
  ∀ (s : State) (p : Part) (w : VWord), w.ci.toNat < 16 → w.df.toNat < 2 → w.tc ≠ w.td →
    let z (i j : Nat) : Machine.Num := taNum s w i j
    let y (i j : Nat) : Machine.Num := tbNum s w (colOff w) i j
    let sums (t : State) (loss : Nat → Nat → Machine.Num) : Prop :=
      ∀ k j, k < 32 → j < 16 → tileRaw t w.tc.toNat 1 k j =
        if j = w.ci.toNat then
          (let l := (List.range (shapeCols w.df.toNat)).map fun x => if active s w w.df.toNat k x then some (loss k x) else none
           let v := ((treeLevels (combineOf .rsum) (Nat.log2 l.length) l).1).getD .zero
           (opal (if w.acc then (combineOf .rsum (opalAt s w.tc.toNat k j) v).1 else v)).toNat)
        else tileRaw s w.tc.toNat 1 k j
    let reports (t : State) : Prop :=
      w.grad = true → (∃ k, k < 32 ∧ rawNonfinite 1 (tileRaw t w.tc.toNat 1 k w.ci.toNat) = true) →
        reported t p (vNonfin ||| srcVector)
    let rest (t : State) : Prop :=
      (∀ a, (a < 2048 * w.td.toNat ∨ 2048 * w.td.toNat + 2048 ≤ a) → (a < 2048 * w.tc.toNat ∨ 2048 * w.tc.toNat + 2048 ≤ a) →
        t.vec.tile.get a = s.vec.tile.get a)
      ∧ t.vec.mask = s.vec.mask ∧ t.vec.lane = s.vec.lane ∧ t.mem = s.mem ∧ t.arr = s.arr
    (issuesNow s p .vec (.vec .vbce w) = true → ∃ t, exec (.vbce p w) s = .next t
      ∧ tileHolds s t w w.df.toNat 0 (shapeCols w.df.toNat) (fun i j => rounded s p w i j ((polyOp s 11 (z i j)).1.sub (y i j)).toRes)
      ∧ sums t (fun i j => (r32 ((r32 (((z i j).max .zero).sub ((z i j).mul (y i j)))).1.add (polyOp s 12 (z i j).abs).1)).1)
      ∧ reports t ∧ rest t)
    ∧ (issuesNow s p .vec (.vec .vmse w) = true → ∃ t, exec (.vmse p w) s = .next t
      ∧ tileHolds s t w w.df.toNat 0 (shapeCols w.df.toNat) (fun i j => rounded s p w i j ((z i j).sub (y i j)).toRes)
      ∧ sums t (fun i j => (r32 (((z i j).sub (y i j)).mul ((z i j).sub (y i j)))).1)
      ∧ reports t ∧ rest t)

/-- VLD, VST and VNOP (R94, R97), where no scratchpad bank group is off, no bit error waits and no deferred entry is queued.
VLD fills TD with the entry's elements, +0 beyond its extent; VST stores the active elements of TA inside the extent, for a
Facet8 entry with the shifts of its rows, and no byte outside them; VNOP leaves the registers and memory alone and lets the
next word wait IMM cycles. -/
def Obligations.VectorLoadStore : Prop :=
  ∀ (s : State) (p : Part) (w : VWord),
    let e := tens s p w.ent.toNat
    let inside (i j : Nat) : Prop :=
      32 * w.row.toNat + i < e.rows ∧ j < shapeCols e.fmt ∧ shapeCols e.fmt * w.col.toNat + j < e.cols
    let place (i j : Nat) : Nat := e.addr (32 * w.row.toNat + i) (shapeCols e.fmt * w.col.toNat + j)
    let shift (i : Nat) : Nat := e.shiftAddr (32 * w.row.toNat + i) (shapeCols e.fmt * w.col.toNat)
    (issuesNow s p .vec (.vec .vld w) = true → calm s → e.fmt < 4 → ∃ t, exec (.vld p w) s = .next t
      ∧ (∀ i j, i < 32 → j < shapeCols e.fmt → active s w e.fmt i j = true → ¬ inside i j →
          tileRaw t w.td.toNat e.fmt i j = 0)
      ∧ (∀ i j, i < 32 → active s w e.fmt i j = true → inside i j → poisoned s (place i j) (fmtWidth e.fmt) = false →
          tileRaw t w.td.toNat e.fmt i j = s.mem.readNat (place i j) (fmtWidth e.fmt))
      ∧ (∀ i, i < 32 → e.fmt = 3 → 32 * w.row.toNat + i < e.rows → laneAt t w.td.toNat i = s8 (s.mem.get (shift i)))
      ∧ (∀ a, a < 2048 * w.td.toNat ∨ 2048 * w.td.toNat + 2048 ≤ a → t.vec.tile.get a = s.vec.tile.get a)
      ∧ (w.acc = false → t.vec.mask = s.vec.mask) ∧ (e.fmt ≠ 3 → t.vec.lane = s.vec.lane) ∧ t.mem = s.mem
      ∧ t.arr = s.arr)
    ∧ (issuesNow s p .vec (.vec .vst w) = true → calm s → s.parked = [] → e.fmt < 4 → e.cols * fmtWidth e.fmt ≤ e.pitch →
      (e.fmt = 3 → ∀ i i' j, i < 32 → i' < 32 → inside i j → shift i' < place i j ∨ place i j + 1 ≤ shift i') →
      ∃ t, exec (.vst p w) s = .next t
        ∧ (∀ i j, i < 32 → inside i j → active s w e.fmt i j = true →
            t.mem.readNat (place i j) (fmtWidth e.fmt) = tileRaw s w.ta.toNat e.fmt i j)
        ∧ (∀ a, (∀ i j, i < 32 → inside i j → active s w e.fmt i j = true →
              a < place i j ∨ place i j + fmtWidth e.fmt ≤ a) →
            (e.fmt = 3 → ∀ i j, i < 32 → inside i j → a ≠ shift i) → t.mem.get a = s.mem.get a)
        ∧ t.vec.tile = s.vec.tile ∧ t.vec.mask = s.vec.mask ∧ t.vec.lane = s.vec.lane ∧ t.arr = s.arr)
    ∧ (issuesNow s p .vec (.vec .vnop w) = true → ∃ t, exec (.vnop p w) s = .next t
      ∧ t.vec = s.vec ∧ t.mem = s.mem ∧ t.arr = s.arr
      ∧ ∃ k, getJob t p = some k ∧ k.vecS.earliest = nowCyc s + w.imm.toNat)

/-! ### The matrix array -/

/-- AMM, AMMT and AACC (R51, R60, R71, R72, R77): every accumulator of the block takes the accumulation of its groups, from its
old value under CONT and from +0 else; an AMMT on a region whose transposed-valid mark is clear writes NaN and reports;
nothing else changes. -/
def Obligations.ArrayProducts : Prop :=
  ∀ (s : State) (p : Part) (w : AWord), calm s →
    let e := tens s p w.src.toNat
    let r := entry s p w.aux.toNat
    let n := w.cnt.toNat * w.rowLen
    let start (x : Nat) : W32 := if w.cont then accGet s (w.dst.toNat + x) else 0
    let block (t : State) (v : Nat → W32) : Prop :=
      (∀ x, x < n → accGet t (w.dst.toNat + x) = v x) ∧ accFrame s t w.dst.toNat n
    let stores (t : State) : Prop :=
      t.arr.plain = s.arr.plain ∧ t.arr.trans = s.arr.trans ∧ t.arr.scale = s.arr.scale ∧ t.arr.mode = s.arr.mode
      ∧ t.arr.tvalid = s.arr.tvalid ∧ t.arr.defq = s.arr.defq
    (issuesNow s p .arr (.arr .amm w) = true → ∃ t, exec (.amm p w) s = .next t ∧ arrFrame s t ∧ stores t ∧ block t fun x =>
      (dotFrom w.fmt e.lcols (logAt s e (x / w.rowLen)) (ammWeight s r w (x % w.rowLen)) (start x) w.gst.toNat w.gct.toNat).1)
    ∧ (issuesNow s p .arr (.arr .ammt w) = true → (s.arr.colr || markSet s p w.aux.toNat) = true →
      ∃ t, exec (.ammt p w) s = .next t ∧ arrFrame s t ∧ stores t ∧ block t fun x =>
        (dotFrom w.fmt e.lcols (logAt s e (x / w.rowLen)) (ammtWeight s r w (x % w.rowLen)) (start x) w.gst.toNat w.gct.toNat).1)
    ∧ (issuesNow s p .arr (.arr .ammt w) = true → s.arr.colr = false → markSet s p w.aux.toNat = false →
      ∃ t, exec (.ammt p w) s = .next t ∧ stores t ∧ (block t fun _ => 0x7FC00000) ∧ reported t p (vNonfin ||| srcArray))
    ∧ (issuesNow s p .arr (.arr .aacc w) = true → aaccDeferred s (leadOf s p) = false →
      ∃ t, exec (.aacc p w) s = .next t ∧ arrFrame s t ∧ stores t ∧ block t fun x =>
        (dotFrom w.fmt e.lrows (fun k => logRow s e k (x / w.rowLen)) (fun k => logRow s (tens s p w.aux.toNat) k (x % w.rowLen))
          (start x) w.gst.toNat w.gct.toNat).1)

/-- The deferred queue and the words about it: an AACC after AQUE, or after ATWIN in deferred mode, enters a queue that has
room (R62, R66); ADRN makes the stream run CNT of the oldest entries, all for 0, of which the oldest runs at once where it may,
and DEFERRED_ENTRY_DRAIN runs the oldest one in an idle slot of the stream (R67), into the accumulators
that its AACC names. In twin mode the AMMT of a twin pair waits for its AACC, and the two start together where both may and
are in flight as one (R64). ATWIN and AQUE only lead, ANOP and AMODE take their cycles;
AMODE sets the mode and COLR, which a COMPAT plan keeps at 1 (R65, R73). -/
def Obligations.ArrayQueue : Prop :=
  (∀ (s : State) (p : Part) (w : AWord), issuesNow s p .arr (.arr .aacc w) = true → aaccDeferred s (leadOf s p) = true →
    s.arr.defq.length < 256 →
    ∃ t, exec (.aacc p w) s = .next t ∧ t.arr.defq = s.arr.defq ++ [{ part := p, w := w }] ∧ t.arr.acc = s.arr.acc ∧ arrFrame s t)
  ∧ (∀ (s : State) (p : Part) (w : AWord), issuesNow s p .arr (.arr .adrn w) = true →
    ∃ t, exec (.adrn p w) s = .next t
      ∧ t.vec = s.vec ∧ t.arr.plain = s.arr.plain
      ∧ (let n := if w.cnt = 0 then s.arr.defq.length else Nat.min w.cnt.toNat s.arr.defq.length
         let k := if 0 < n ∧ drainReady s = .go then 1 else 0
         t.arr.defq = s.arr.defq.drop k ∧ ∃ j, getJob t p = some j ∧ j.arrS.drain = n - k))
  ∧ (∀ (s : State) (p : Part) (j : Job) (a b : AWord), getJob s p = some j → j.streaming = true → j.arrS.ended = false →
    j.arrS.unheld = true → heldWords s = 0 → draining s j = false → j.arrS.wait = none → j.arrS.earliest ≤ nowCyc s →
    j.arrS.gated = false → j.arrS.lead = .twin → s.arr.mode = .twin →
    (∃ t k, exec (.ammt p a) s = .next t ∧ getJob t p = some k ∧ k.arrS.held = [.arr .ammt a] ∧ t.arr = s.arr ∧ arrFrame s t)
    ∧ (pairReady s p a b = .go → (s.arr.colr || markSet s p a.aux.toNat) = true → calm s → s.parked = [] →
      ∀ t, exec (.ammt p a) s = .next t → ∃ u k, exec (.aacc p b) t = .next u ∧ arrFrame s u
        ∧ u.arr.flying = s.arr.flying ++ [{ part := p, op := .ammt, w := a, area := some .whole, mate := some b }]
        ∧ getJob u p = some k ∧ k.arrS.held = [] ∧ k.arrS.lead = .none))
  ∧ (∀ (s : State) (d : DefEntry) (q : List DefEntry), s.arr.defq = d :: q → heldWords s = 0 → drainReady s = .go → calm s →
    s.parked = [] →
    ∃ t, exec .deferredEntryDrain s = .next t ∧ t.arr.defq = q ∧ arrFrame s t
      ∧ (∀ x, x < d.w.cnt.toNat * d.w.rowLen → accGet t (d.w.dst.toNat + x) =
          (dotFrom d.w.fmt (tens s d.part d.w.src.toNat).lrows (fun k => logRow s (tens s d.part d.w.src.toNat) k (x / d.w.rowLen))
            (fun k => logRow s (tens s d.part d.w.aux.toNat) k (x % d.w.rowLen))
            (if d.w.cont then accGet s (d.w.dst.toNat + x) else 0) d.w.gst.toNat d.w.gct.toNat).1)
      ∧ accFrame s t d.w.dst.toNat (d.w.cnt.toNat * d.w.rowLen))
  ∧ (∀ (s : State) (p : Part) (w : AWord), issuesNow s p .arr (.arr .atwin w) = true →
    ∃ t, exec (.atwin p w) s = .next t ∧ leadOf t p = .twin ∧ t.arr = s.arr ∧ arrFrame s t)
  ∧ (∀ (s : State) (p : Part) (w : AWord), issuesNow s p .arr (.arr .aque w) = true →
    ∃ t, exec (.aque p w) s = .next t ∧ leadOf t p = .que ∧ t.arr = s.arr ∧ arrFrame s t)
  ∧ (∀ (s : State) (p : Part) (w : AWord), issuesNow s p .arr (.arr .anop w) = true →
    ∃ t k, exec (.anop p w) s = .next t ∧ t.arr = s.arr ∧ arrFrame s t
      ∧ getJob t p = some k ∧ k.arrS.earliest = nowCyc s + w.cnt.toNat)
  ∧ ∀ (s : State) (p : Part) (w : AWord) (j : Job), getJob s p = some j → issuesNow s p .arr (.arr .amode w) = true →
    ∃ t k, exec (.amode p w) s = .next t ∧ t.arr.mode = arrMode w ∧ t.arr.colr = (w.cont || bit 0 j.plan.compat)
      ∧ t.arr.acc = s.arr.acc ∧ t.arr.defq = s.arr.defq ∧ t.vec = s.vec
      ∧ getJob t p = some k ∧ k.arrS.earliest = nowCyc s + 16

/-- AWLD, ASLD and ACLR (R35, R70, R72, R74, R78, R289): AWLD copies the codes of its source into the region, padded with zero
codes, or the two-level encoding of a gathered Facet8 copy (log entry 120), in the plain copy and under TWO in the transposed one, and sets or clears the region's mark; ASLD fills a scale bank from index
0; ACLR makes its block +0. -/
def Obligations.ArrayLoads : Prop :=
  ∀ (s : State) (p : Part) (w : AWord), calm s →
    let e := tens s p w.src.toNat
    let r := entry s p w.aux.toNat
    let code (k n : Nat) : Nat :=
      match (if r.scaled then (getJob s p).bind fun j => copyKch j.plan w.src.toNat else none) with
      | none => shelfRaw s e r k n
      | some c =>
        let cols := (List.range r.cols).map (gatheredCol s e r c)
        (nth 0 (twoLevelGroup (twoLevelBase cols) ((nth [] cols n).map fun x => (x, .away))).2.1 k).toNat
    (issuesNow s p .arr (.arr .awld w) = true → r.cols % 512 = 0 → r.rows % 512 = 0 → r.fmt < 4 →
      ∃ t, exec (.awld p w) s = .next t ∧ arrFrame s t ∧ t.arr.acc = s.arr.acc ∧ t.arr.scale = s.arr.scale
        ∧ (∀ k n, k < r.rows → n < r.cols →
            t.arr.plain.readNat (r.plainOff k n) (fmtWidth r.fmt) = code k n % 2 ^ (8 * fmtWidth r.fmt))
        ∧ ((w.two && !s.arr.colr) = true → ∀ k n, k < r.rows → n < r.cols →
            t.arr.trans.readNat (r.transOff k n) (fmtWidth r.fmt) = code k n % 2 ^ (8 * fmtWidth r.fmt))
        ∧ ((w.two && !s.arr.colr) = false → t.arr.trans = s.arr.trans)
        ∧ (∀ a, a < r.base ∨ r.base + r.regionSize ≤ a → t.arr.plain.get a = s.arr.plain.get a)
        ∧ markSet t p w.aux.toNat = (w.two && !s.arr.colr))
    ∧ (issuesNow s p .arr (.arr .asld w) = true → w.cnt.toNat ≤ 4096 →
      ∃ t, exec (.asld p w) s = .next t ∧ arrFrame s t ∧ t.arr.acc = s.arr.acc ∧ t.arr.plain = s.arr.plain
        ∧ (∀ k, k < w.cnt.toNat → t.arr.scale.get (4096 * b2n w.sbk + k) =
            BitVec.ofNat 8 (rawSafe s e.codes (e.rc k).1 (e.rc k).2))
        ∧ ∀ a, a < 4096 * b2n w.sbk ∨ 4096 * b2n w.sbk + w.cnt.toNat ≤ a → t.arr.scale.get a = s.arr.scale.get a)
    ∧ (issuesNow s p .arr (.arr .aclr w) = true →
      ∃ t, exec (.aclr p w) s = .next t ∧ arrFrame s t ∧ t.arr.plain = s.arr.plain ∧ t.arr.scale = s.arr.scale
        ∧ (∀ x, x < w.cnt.toNat * w.rowLen → accGet t (w.dst.toNat + x) = 0)
        ∧ accFrame s t w.dst.toNat (w.cnt.toNat * w.rowLen))

/-- ADMP, ALDMP and AMOV (R54, R56, R78, R82) where no write is held for a deferred entry. ADMP stores each accumulator of the block that
lies inside the entry's columns, rounded once into the destination format (its bits for Opal32), and clears the block under
CLR; ALDMP stores grid codes of the tensor's exponent and clears the block; AMOV moves bits either way. -/
def Obligations.ArrayDumps : Prop :=
  ∀ (s : State) (p : Part) (w : AWord), calm s → s.parked = [] →
    let d := tens s p w.dst.toNat
    let n := w.cnt.toNat * w.rowLen
    let acc (i c : Nat) : W32 := accGet s (w.src.toNat + i * w.rowLen + c)
    let inBlock (i c : Nat) : Prop := i < w.cnt.toNat ∧ c < w.rowLen ∧ c < d.cols
    let stored (t : State) (f : Nat → Nat → Nat) : Prop :=
      (∀ i c, inBlock i c → t.mem.readNat (d.addr i c) (fmtWidth d.fmt) = f i c % 2 ^ (8 * fmtWidth d.fmt))
      ∧ ∀ a, (∀ i c, inBlock i c → a < d.addr i c ∨ d.addr i c + fmtWidth d.fmt ≤ a) → t.mem.get a = s.mem.get a
    let cleared (t : State) : Prop :=
      (∀ x, x < n → accGet t (w.src.toNat + x) = 0) ∧ accFrame s t w.src.toNat n
    d.cols * fmtWidth d.fmt ≤ d.pitch →
    (issuesNow s p .arr (.arr .admp w) = true → w.fmt ≠ 3 → d.fmt = w.fmt →
      ∃ t, exec (.admp p w) s = .next t ∧ t.vec = s.vec
        ∧ stored t (fun i c => if w.fmt = 1 then (acc i c).toNat
            else (toRaw w.fmt (rndAt s p w.scl d i c) (ofOpal (acc i c)).toRes).1)
        ∧ (w.cont = false → t.arr.acc = s.arr.acc) ∧ (w.cont = true → cleared t)
        ∧ (w.grad = true → (∃ i c, inBlock i c ∧ (ofOpal (acc i c)).isFinite = false) → reported t p (vNonfin ||| srcArray)))
    ∧ (issuesNow s p .arr (.arr .admp w) = true → w.fmt = 3 → w.cont = true → ∃ t, exec (.admp p w) s = .next t ∧ t.vec = s.vec ∧ cleared t)
    ∧ (issuesNow s p .arr (.arr .aldmp w) = true → fmtWidth d.fmt = 2 →
      ∃ t, exec (.aldmp p w) s = .next t ∧ t.vec = s.vec ∧ cleared t
        ∧ ∀ j k, getJob s p = some j → gridOfTensor j.plan w.dst.toNat = some k →
            stored t fun i c => pat 16 (toGrid 16 (gridExp j k) (ofOpal (acc i c))).code)
    ∧ (issuesNow s p .arr (.arr .amov { w with flg := w.flg &&& 0x7F#8 }) = true → fmtWidth d.fmt = 4 →
      ∃ t, exec (.amovToScratchpad p w) s = .next t ∧ t.vec = s.vec ∧ t.arr.acc = s.arr.acc ∧ stored t fun i c => (acc i c).toNat)
    ∧ (issuesNow s p .arr (.arr .amov { w with flg := w.flg ||| 0x80#8 }) = true →
      ∃ t, exec (.amovToStore p w) s = .next t ∧ arrFrame s t
        ∧ ∀ k, accGet t k =
          let e := tens s p w.src.toNat
          let x := k - w.dst.toNat
          if w.dst.toNat ≤ k ∧ x < n ∧ x % w.rowLen < e.cols then BitVec.ofNat 32 (rawSafe s e (x / w.rowLen) (x % w.rowLen))
          else accGet s k)

/-- ARRAY_INSTRUCTION_COMPLETE and VECTOR_INSTRUCTION_COMPLETE (R84, R99), where no stream holds a word and no gate waits: the
instruction leaves its unit, and no register, accumulator or byte of memory changes. -/
def Obligations.InstructionsComplete : Prop :=
  ∀ (s : State) (i : Byte), heldWords s = 0 → s.pwr.gates = [] →
    (i.toNat < s.arr.flying.length →
      exec (.arrayInstructionComplete i) s = .next { s with arr := { s.arr with flying := s.arr.flying.eraseIdx i.toNat } })
    ∧ (i.toNat < s.vec.flying.length →
      exec (.vectorInstructionComplete i) s = .next { s with vec := { s.vec with flying := s.vec.flying.eraseIdx i.toNat } })

/-! ### Control words and the words of the step sequencer -/

/-- SAT, SCUE, SARR and SEND (R245, R247) on any unit's stream: SAT lets the next word issue no earlier than its cycle offset
from the anchor; SCUE and SARR note the stream's arrival at the cue point, SCUE makes it wait there, and the arrival at a
type-4 cue point starts the update segment; SEND ends the stream. Nothing changes but the stream, the arrivals and, of a
late intake, the counters.
PWAKE, PGATE_OFF, PGATE_RETAIN (R131, R252, R431), DOMAIN_WAKE_COMPLETE (R429, R432) and DMAQ (R246). A power word makes
its request current for every domain of its mask, a retain request for the bank groups alone; a domain takes the highest
state requested, waking before it is on, and a gate waits for the end of the domain's use. A domain that has woken is on,
which counts one switching cycle. DMAQ queues its descriptor on its channel. -/
def Obligations.SequencerWords : Prop :=
  (∀ (s : State) (p : Part) (u : SUnit) (j : Job), getJob s p = some j →
    (∀ cyc : W32, issuesNow s p u (.sat cyc.toNat) = true →
      ∃ t, exec (.sat p u cyc) s = .next t ∧ onlyJob s t p
        ∧ getJob t p = some (j.modStream u fun st => { st with
            held := [], heldAt := none, heldWake := false, index := st.index + 1
            earliest := Nat.max st.earliest (st.anchor + cyc.toNat) }))
    ∧ (∀ cue : BitVec 12, issuesNow s p u (.scue cue.toNat) = true →
      ∃ t k, exec (.scue p u cue) s = .next t ∧ onlyJobCtr s t p ∧ getJob t p = some k
        ∧ k.arrived = j.arrived ++ [(cue.toNat, SUnitNum u)]
        ∧ (k.stream u).wait = some cue.toNat ∧ (k.stream u).waitAt = nowCyc s ∧ (k.stream u).index = (j.stream u).index + 1
        ∧ ((k.stream u).gated = true ↔ (j.stream u).gated = true ∨ cueType (nth 0 j.plan.cues cue.toNat) = 4)
        ∧ ∀ v, v ≠ u → k.stream v = j.stream v)
    ∧ (∀ cue : BitVec 12, issuesNow s p u (.sarr cue.toNat) = true →
      ∃ t k, exec (.sarr p u cue) s = .next t ∧ onlyJobCtr s t p ∧ getJob t p = some k
        ∧ k.arrived = j.arrived ++ [(cue.toNat, SUnitNum u)]
        ∧ (k.stream u).wait = (j.stream u).wait ∧ (k.stream u).index = (j.stream u).index + 1
        ∧ ((k.stream u).gated = true ↔ (j.stream u).gated = true ∨ cueType (nth 0 j.plan.cues cue.toNat) = 4)
        ∧ ∀ v, v ≠ u → k.stream v = j.stream v)
    ∧ (issuesNow s p u .send = true →
      ∃ t, exec (.send p u) s = .next t ∧ onlyJob s t p
        ∧ getJob t p = some (j.modStream u fun st => { st with
            held := [], heldAt := none, heldWake := false, index := st.index + 1, ended := true })))
  ∧ ∀ (s : State) (p : Part), s.pwr.pd.length = 64 →
    let named (m : W64) (lo d : Nat) : Prop := lo ≤ d ∧ d < 43 ∧ m.getLsbD d = true
    let only (t : State) (m : W64) (lo : Nat) : Prop :=
      t.pwr = { s.pwr with req := t.pwr.req, gates := t.pwr.gates, pd := t.pwr.pd }
      ∧ (∀ k, (∀ d, named m lo d → k ≠ reqKey p.toNat d) → tabFind t.pwr.req k = tabFind s.pwr.req k)
      ∧ ∀ d, ¬ named m lo d → dom t d = dom s d ∧ tabFind t.pwr.gates d = tabFind s.pwr.gates d
    (∀ m : W64, issuesNow s p .seq (.pwake m) = true → ∃ t, exec (.pwake p m) s = .next t
      ∧ t = { s with jobs := t.jobs, isl := t.isl, pwr := t.pwr } ∧ only t m 0
      ∧ ∀ d, named m 0 d → tabFind t.pwr.req (reqKey p.toNat d) = some .on ∧ tabFind t.pwr.gates d = none
          ∧ dom t d = if dom s d = .on then .on else .waking)
    ∧ (∀ m : W64, issuesNow s p .seq (.pgateOff m) = true → ∃ t, exec (.pgateOff p m) s = .next t ∧ only t m 0
      ∧ (∀ d, named m 0 d → tabFind t.pwr.req (reqKey p.toNat d) = some .off
          ∧ (effReq t d = some .off → inUse s d = false → dom t d = .off)
          ∧ (effReq t d = some .off → inUse s d = true → dom t d = dom s d ∧ tabFind t.pwr.gates d = some .off))
      ∧ (∀ a, t0End ≤ a → t.mem.get a = s.mem.get a)
      ∧ (∀ a, a < t0End → dom t (36 + bankOf a / 32) ≠ .off → t.mem.get a = s.mem.get a)
      ∧ t.arr = s.arr ∧ t.vec = s.vec ∧ t.tables = s.tables ∧ t.rings = s.rings)
    ∧ (∀ m : W64, issuesNow s p .seq (.pgateRetain m) = true → ∃ t, exec (.pgateRetain p m) s = .next t
      ∧ t = { s with jobs := t.jobs, isl := t.isl, pwr := t.pwr } ∧ only t m 36
      ∧ ∀ d, named m 36 d → tabFind t.pwr.req (reqKey p.toNat d) = some .retain
          ∧ (effReq t d = some .retain → inUse s d = false → dom t d = .retain))
    ∧ (∀ d : BitVec 6, s.pwr.mst = .active → dom s d.toNat = .waking → heldWords s = 0 →
      ∃ t, exec (.domainWakeComplete d) s = .next t ∧ t = { s with pwr := t.pwr, alm := t.alm, sorts := t.sorts }
        ∧ dom t d.toNat = .on ∧ (∀ e, e ≠ d.toNat → dom t e = dom s e)
        ∧ t.alm = { s.alm with switches := t.alm.switches }
        ∧ tabGet 0 t.alm.switches d.toNat = tabGet 0 s.alm.switches d.toNat + 1
        ∧ ∀ u w, tabFind t.sorts u = some w → sortUnitDom u = d.toNat → w.waiting = false)
    ∧ (∀ (k : W32) (c : ChanNum) (j : Job), issuesNow s p .seq (.dmaq k.toNat c) = true → getJob s p = some j →
      (getChan s c.toNat).part = p → (getChan s c.toNat).use = 1 →
      ∃ t, exec (.dmaq p k c) s = .next t ∧ t = { s with jobs := t.jobs, isl := t.isl, chans := t.chans }
        ∧ getChan t c.toNat = { getChan s c.toNat with
            prog := (getChan s c.toNat).prog ++ [{ d := nth 0 j.plan.descs k.toNat, idx := k.toNat, pdesc := some k.toNat }] }
        ∧ ∀ x, x ≠ c.toNat → getChan t x = getChan s x)

/-- The five phases of LKG (R145, R156, R162, R165, R167, R246): each starts its phase of the group. Phase 0 splits the group's
entries into rounds; phase 1 pools the group where every payload it awaits has come; phase 3 sums the owner gradients where
every partial has come; phase 4 makes the update of every summed row due and forms the step's parameters of the trained
tables. Phases 0 to 3 change no table. -/
def Obligations.LookupPhases : Prop :=
  ∀ (s : State) (p : Part) (g : Group) (j : Job), getJob s p = some j →
    let r := runOf j g.toNat
    let starts (c : Instr) (ph : Nat) (more : State → LkpRun → Prop) : Prop :=
      issuesNow s p .seq (.lkg g ph) = true → ∃ t k, exec c s = .next t ∧ getJob t p = some k ∧ planFrame s t p
        ∧ (runOf k g.toNat).started = r.started ++ [ph] ∧ more t (runOf k g.toNat)
        ∧ ∀ h, h ≠ g.toNat → runOf k h = runOf j h
    starts (.lkgIndexExchange p g) 0 (fun t x =>
      x.split = splitRows j.plan g.toNat (walkRows s p j g.toNat) ∧ t.tables = s.tables
      ∧ ∀ a, shadowed s a = false → t.mem.get a = s.mem.get a)
    ∧ starts (.lkgFetchPool p g) 1 (fun t x => x.pooled = (r.pooled || paysIn r) ∧ t.tables = s.tables)
    ∧ starts (.lkgBackwardPartials p g) 2 (fun t x => x.idxIn = r.idxIn ∧ t.tables = s.tables)
    ∧ starts (.lkgOwnerSums p g) 3 (fun t x => t.tables = s.tables
      ∧ (gradsIn r = true → squallIn s p j g.toNat = true → 3 ∈ x.done))
    ∧ (j.vetoed = false → starts (.lkgRowUpdates p g) 4 (fun t x => x.todo = r.grads.map (·.1) ∧ t.mem = s.mem
      ∧ (∀ tid, tid ∉ groupTids j.plan g.toNat ∨ trainTid j.plan g.toNat tid = false → getTbl t p tid = getTbl s p tid)
      ∧ ∀ tid v, tid ∈ groupTids j.plan g.toNat → trainTid j.plan g.toNat tid = true → getTbl s p tid = some v →
          getTbl t p tid = some { v with par := deviceParams v.par v.desc.dim j.ls }))

/-- XCH of an RQ, RF, AG or CH entry (R270, R275, R287, R288, R290, R298): the entry starts. An RQ entry keeps the module's own
chunk for its pod owner; an RF entry forms the step's parameters of its block; a sending CH entry is then done, a receiving
one where its hop has come. -/
def Obligations.ExchangeStarts : Prop :=
  ∀ (s : State) (p : Part) (e : XIx) (j : Job), getJob s p = some j → issuesNow s p .seq (.xch e) = true →
    xStarted j e.toNat = false →
    let x := xent j.plan e.toNat
    (entryKind s p e = 0 → ∃ t k, exec (.xchRq p e) s = .next t ∧ getJob t p = some k ∧ planFrame s t p
      ∧ xStarted k e.toNat = true ∧ t.tables = s.tables
      ∧ (j.plan.lidx ∈ x.members → 0 < x.din → (x.chunk (myPos j x % x.din)).2 ≠ 0 →
          ∃ d ∈ k.dense, d.entry = e.toNat ∧ d.kind = kFirst ∧ d.src = j.plan.lidx
            ∧ d.first = (x.chunk (myPos j x % x.din)).1 ∧ d.units = (x.chunk (myPos j x % x.din)).2))
    ∧ (entryKind s p e = 1 → j.vetoed = false → ∃ t k, exec (.xchRf p e) s = .next t ∧ getJob t p = some k ∧ planFrame s t p
      ∧ xStarted k e.toNat = true ∧ t.tables = s.tables
      ∧ tabFind k.rfPar e.toNat = some (deviceParams (tabGet {} j.rfPar e.toNat) (shardEls j x).2 j.ls))
    ∧ (entryKind s p e = 2 → j.vetoed = false → ∃ t k, exec (.xchAg p e) s = .next t ∧ getJob t p = some k ∧ planFrame s t p
      ∧ xStarted k e.toNat = true ∧ k.shards = j.shards ∧ t.tables = s.tables
      ∧ ∀ a, shadowed s a = false → t.mem.get a = s.mem.get a)
    ∧ (entryKind s p e = 3 → ∃ t k, exec (.xchCh p e) s = .next t ∧ getJob t p = some k ∧ planFrame s t p
      ∧ xStarted k e.toNat = true ∧ t.tables = s.tables
      ∧ (x.recv = false → (xrunOf k e.toNat).any (·.done) = true)
      ∧ (x.recv = true → (j.dense.any fun d => d.entry == e.toNat && d.kind == kChain) = true →
          (xrunOf k e.toNat).any (·.done) = true)
      ∧ (x.recv = true → (j.dense.any fun d => d.entry == e.toNat && d.kind == kChain) = false → t.mem = s.mem))

/-! ### The training step -/

/-- CUE_POINT_FIRE, TOKEN_TREE_MESSAGE and VETO_TOKEN_COMPLETE (R245, R249, R253 to R258, R351). A cue point fires once every
stream of its UNITS has arrived and its condition holds: the streams that wait there go on with the firing cycle as their
anchor; type 3 makes the module's contribution, type 4 opens the gate and vetoes the step that its token vetoes. Token
messages of another step have no effect. -/
def Obligations.CueAndToken : Prop :=
  ∀ (s : State) (p : Part) (j : Job), getJob s p = some j →
    (∀ cue : BitVec 12, cueReady s p j cue.toNat = true → heldWords s = 0 →
      let ty := cueType (nth 0 j.plan.cues cue.toNat)
      ∃ t k, exec (.cuePointFire p cue) s = .next t ∧ getJob t p = some k ∧ planFrame s t p ∧ t.tables = s.tables
        ∧ k.fired = cue.toNat :: j.fired
        ∧ (∀ u, (j.stream u).wait = some cue.toNat → k.stream u = { j.stream u with wait := none, anchor := nowCyc s })
        ∧ (∀ u, (j.stream u).wait ≠ some cue.toNat → k.stream u = j.stream u)
        ∧ (j.phase ≠ .testing → ty = 3 → j.contributed = false →
            k.contributed = true ∧ k.tokAcc = some (match j.tokAcc with | none => contribution j | some a => a.join (contribution j)))
        ∧ (j.phase ≠ .testing → ty = 4 → k.gate = true ∧ k.vetoed = stepVetoed j))
    ∧ (∀ (src : Lidx) (t : Token), t.step ≠ nextStep s p → ∀ down, exec (.tokenTreeMessage p src down t) s = .next s)
    ∧ (∀ (src : Lidx) (t : Token), t.step = nextStep s p → j.tokTree.fresh j.plan src.toNat = true →
      ∃ u k, exec (.tokenTreeMessage p src false t) s = .next u ∧ getJob u p = some k ∧ planFrame s u p ∧ u.tables = s.tables
        ∧ k.tokAcc = some (match j.tokAcc with | none => t | some a => a.join t)
        ∧ k.tokTree.kids = src.toNat :: j.tokTree.kids)
    ∧ (∀ (src : Lidx) (t : Token), t.step = nextStep s p → j.plan.lidx ≠ 0 → src.toNat = parentOf j.plan → j.tokRes = none →
      j.token = none → ∃ u k, exec (.tokenTreeMessage p src true t) s = .next u ∧ getJob u p = some k ∧ planFrame s u p
        ∧ u.tables = s.tables ∧ k = { j with tokRes := some t })
    ∧ (∀ t : Token, j.tokRes = some t → j.token = none → j.contributed = true →
      ∃ u k, exec (.vetoTokenComplete p) s = .next u ∧ getJob u p = some k ∧ planFrame s u p ∧ u.tables = s.tables
        ∧ k.tokRes = none
        ∧ k.token = some (if t.incons = true then { t with veto := t.veto ||| vIncons } else t)
        ∧ (t.incons = true → raises s u evStepIncons [j.step]))

/-- SEAL_CONTRIBUTION, SEAL_TREE_MESSAGE, STEP_BEACON and SEAL_REACHED (R260 to R262, R267, R351, R352). A module contributes to
the seal wave once its token is there and its update work has ended; at seal N the step is sealed or vetoed, the loss scale
and the grid exponents of the next step are formed, its record is written to the staging area, and the job holds where the
wave carried HOLD; where a re-shard is due at N under HOLD, its ready vote comes before the rest of that work. -/
def Obligations.Seals : Prop :=
  ∀ (s : State) (p : Part) (j : Job), getJob s p = some j →
    (j.phase = .running → j.sealSent = false → j.token.isSome = true → updatesDone s p j = true → j.twin.paired = false →
      ∃ t k, exec (.sealContribution p) s = .next t ∧ getJob t p = some k ∧ planFrame s t p ∧ t.tables = s.tables
        ∧ k.sealSent = true ∧ k.vetoed = stepVetoed j ∧ k.sealTree.own = true ∧ k.sealTree.kids = j.sealTree.kids
        ∧ k.sealTree.hold = (j.sealTree.hold || j.hold || !j.cmds.pause.isEmpty
            || (match j.reshard with | some r => r.target == j.step | none => false))
        ∧ (j.plan.nmod = 1 → j.plan.lidx = 0 → k.waveIn = true ∧ k.waveHold = k.sealTree.hold))
    ∧ (∀ (src : Lidx) (step : W64) (hold : Bool), step.toNat = nextStep s p → j.sealTree.fresh j.plan src.toNat = true →
      ∃ t k, exec (.sealTreeMessage p src step hold) s = .next t ∧ getJob t p = some k ∧ planFrame s t p ∧ t.tables = s.tables
        ∧ k.sealTree = { j.sealTree with kids := src.toNat :: j.sealTree.kids, hold := j.sealTree.hold || hold })
    ∧ (∀ (step : W64) (hold : Bool) (start : Option W64), j.plan.lidx ≠ 0 → j.phase = .running → j.sealSent = true →
      j.waveIn = false → step.toNat = (if start.isSome then j.step + 1 else j.step) →
      ∃ t k, exec (.stepBeacon p step hold start) s = .next t ∧ getJob t p = some k ∧ planFrame s t p ∧ t.tables = s.tables
        ∧ k = { j with
            waveIn := true
            waveHold := hold
            beacon := start.map BitVec.toNat
            lateBeacons := j.lateBeacons + b2n (match start with | some v => decide (v.toNat < s.tim.now) | none => false) })
    ∧ (j.phase = .running → j.waveIn = true → ∃ t k, exec (.sealReached p) s = .next t ∧ getJob t p = some k
        ∧ k.lastSeal = some j.step
        ∧ (reshardDue j j.step = false → k.phase = (if j.waveHold then .held else .sealed) ∧ k.sealWork = false)
        ∧ (∀ r, j.reshard = some r → r.target = j.step → j.waveHold = true → r.checked = false →
            k.phase = .sealed ∧ k.sealWork = true ∧ k.reshard = some r)
        ∧ (k.ls, k.growth) = sealScale j (stepVetoed j) ∧ k.grid = nextGrids j
        ∧ k.sealedCount = j.sealedCount + b2n (!stepVetoed j) ∧ k.vetoedCount = j.vetoedCount + b2n (stepVetoed j)
        ∧ k.accepted = j.accepted.filter (fun n => decide (j.step < n)) ∧ k.runs = [] ∧ k.xruns = [] ∧ k.waveIn = false
        ∧ raises s t (if stepVetoed j then evStepVetoed else evStepSeal) [j.step]
        ∧ t.arr = s.arr ∧ t.vec = s.vec ∧ t.tim = s.tim ∧ (∀ q, q ≠ p → getJob t q = getJob s q)
        ∧ (dom s 43 ≠ .off → t0End ≤ nth 0 s.tdir p.toNat → (∀ a, tokBase + 0x4800 ≤ a → a < tokBase + 0x4C00 → shadowed s a = false) →
            ∃ late, t.mem.read (tokBase + 0x4800 + j.step % 16 * 64) 64 =
              sealBytes j.step (vetoWord j) j.waveHold (stepVetoed j) (nextScale j (stepVetoed j)).1 s.tim.now late))

/-- STEP_START, START_READINESS, RESUME_READINESS, STEP_ABANDON, UNIT_FAULT, LOSS_SCALE_GROWTH and SELFTEST_COMPLETE (R244, R251,
R263, R264, R267, R377). A step starts its streams at the step-start cycle with the reports raised since the last
contribution; a step abandoned before its contribution withdraws, one abandoned after it completes, and both hold; the loss
scale rises by one up to its limit; a self-test that fails drops a first load and ends a resume. -/
def Obligations.Steps : Prop :=
  ∀ (s : State) (p : Part) (j : Job), getJob s p = some j →
    (startReady s j = true → ∃ u k, onlyJobCtr s u p ∧ getJob u p = some k
        ∧ exec (.stepStart p) s = .next (match j.cmds.resume with | none => u | some c => complete u c stDone (nextStep s p) 0 0)
        ∧ k.phase = .running ∧ k.step = nextStep s p ∧ (k.kind, k.startLeft, k.recLeft) = nextKind j
        ∧ (∀ v, k.stream v = { anchor := nowCyc s }) ∧ k.arrived = [] ∧ k.fired = [] ∧ k.stepStart = nowCyc s
        ∧ k.contributed = false ∧ k.token = none ∧ k.gate = false ∧ k.vetoed = false ∧ k.rep = j.repNext ∧ k.repNext = {}
        ∧ k.ls = j.ls ∧ k.plan = j.plan)
    ∧ (∀ src : Lidx, j.loading = true →
      exec (.startReadiness p src) s = .next { s with early := s.early ++ [(p.toNat, src.toNat)] })
    ∧ (∀ src : Lidx, j.loading = false → j.startTree.fresh j.plan src.toNat = true →
      ∃ t k, exec (.startReadiness p src) s = .next t ∧ getJob t p = some k ∧ planFrame s t p ∧ t.tables = s.tables
        ∧ k.startTree = { j.startTree with kids := src.toNat :: j.startTree.kids } ∧ k.phase = j.phase)
    ∧ (∀ src : Lidx, j.resTree.fresh j.plan src.toNat = true →
      ∃ t k, exec (.resumeReadiness p src) s = .next t ∧ getJob t p = some k ∧ planFrame s t p ∧ t.tables = s.tables
        ∧ k.resTree = { j.resTree with kids := src.toNat :: j.resTree.kids } ∧ k.phase = j.phase)
    ∧ (j.phase = .running → j.withdrawn = true → j.abandoned = false → j.completing = false → j.sealSent = false →
      ∃ t k, exec (.stepAbandon p) s = .next t ∧ getJob t p = some k ∧ k.hold = true ∧ raises s t evStepAbandon [j.step]
        ∧ (j.contributed = true → k.completing = true ∧ k.seqS = j.seqS ∧ k.arrS = j.arrS ∧ k.vecS = j.vecS ∧ t.arr = s.arr)
        ∧ (j.contributed = false → k.abandoned = true ∧ k.contributed = true ∧ k.rep.bits &&& vWithdraw = vWithdraw
            ∧ (∀ u, (k.stream u).ended = true ∧ (k.stream u).held = []) ∧ t.arr.defq = s.arr.defq.filter (fun d => d.part != p))
        ∧ t.vec = s.vec ∧ t.tables = s.tables ∧ t.arr.acc = s.arr.acc)
    ∧ (∀ src : BitVec 4, j.phase = .running → ∃ t k, exec (.unitFault p src) s = .next t ∧ onlyJob s t p ∧ getJob t p = some k
        ∧ k.withdrawn = true ∧ k.phase = .running ∧ (8 ≤ src.toNat → src.toNat ≤ 14 → reported t p (1#32 <<< src.toNat)))
    ∧ (growthDue j = true → ∃ t k, exec (.lossScaleGrowth p) s = .next t ∧ onlyJob s t p ∧ getJob t p = some k
        ∧ k = { j with ls := if j.plan.lsmax < j.ls + 1 then j.plan.lsmax else j.ls + 1, growth := 0 })
    ∧ (j.phase = .testing → (∀ u, (j.stream u).ended = true) →
      let ok : Prop := selfDigest s p j = j.plan.digest
      ∃ t, exec (.selftestComplete p) s = .next t ∧ t.vec = s.vec
        ∧ (¬ ok → raises s t evPlanSelftest [])
        ∧ (∀ old, j.prev = some old → j.cmds.resume = none ∨ ¬ ok → ∃ k, getJob t p = some k ∧ k.phase = .held ∧ k.plan = old ∧ k.prev = none
            ∧ (ok → k.next = some j.plan) ∧ (¬ ok → k.next = none))
        ∧ (j.prev = none → j.resuming = false → (¬ ok → getJob t p = none)
            ∧ (ok → ∃ k, getJob t p = some k ∧ k.phase = .ready ∧ k.readyOwn = true ∧ k.plan = j.plan))
        ∧ (j.prev = none → j.resuming = true → ∃ k, getJob t p = some k ∧ k.phase = .held
            ∧ (ok → k.testOk = true) ∧ (¬ ok → k.testOk = false ∧ k.resuming = false ∧ k.cmds.resume = none)))

/-! ### Feature batches and the embedding lookup -/

/-- BATCH, BATCH_DMA_COMPLETE, SORT_START and SORT_COMPLETE (R139, R140, R143, R144, R538). A batch command in the window starts
its intake, a late one is refused; a batch that has landed in its slot is accepted or rejected by its checks; a sort unit
takes the next list of its job, and waits where its domain is not on; its unique list is ascending, each index once. -/
def Obligations.Batches : Prop :=
  (∀ (s : State) (c : Cmd) (a : W64) (len : W32) (step : W64) (chan : ChanNum) (j : Job),
    runs s c 0x01 → getJob s (partOf s c.fn) = some j →
    let p := partOf s c.fn
    let w := window s p j
    (step.toNat < w.1 ∨ step.toNat ∈ j.accepted →
      ∃ t, exec (.batch c a len step chan) s = .next t ∧ commandFrame { s with jobs := t.jobs } t
        ∧ getJob t p = some { j with taken := j.taken.filter (·.1 != c) } ∧ raises s t evBatchLate [step.toNat])
    ∧ (w.1 ≤ step.toNat → step.toNat ≤ w.2 → step.toNat ∉ j.accepted →
      (tabGet {} s.chans chan.toNat).part = p → (tabGet {} s.chans chan.toNat).use = 2 → len.toNat ≤ j.plan.slotsz →
      len.toNat % 64 = 0 →
      ∃ t, exec (.batch c a len step chan) s = .next t ∧ t = { s with jobs := t.jobs, portA := t.portA, portB := t.portB }
        ∧ getJob t p = some { j with
            taken := j.taken.filter (·.1 != c)
            intakes := j.intakes ++ [{ cmd := c, step := step.toNat, len := len.toNat, chan := chan }] }
        ∧ (getPort t (portOf c.fn.toNat)).reads = c.fn :: (getPort s (portOf c.fn.toNat)).reads))
  ∧ (∀ (s : State) (p : Part) (step : W64) (status : Byte) (data : List Byte) (j : Job) (i : Intake), getJob s p = some j →
    j.intakes.find? (fun i => i.step == step.toNat) = some i →
    let d := (padTo 0 i.len data).take i.len
    let w := window s p j
    ∃ t k, exec (.batchDmaComplete p step status data) s = .next t ∧ getJob t p = some k ∧ planFrame s t p
      ∧ t.tables = s.tables ∧ k.intakes = j.intakes.erase i ∧ k.sorted = j.sorted
      ∧ (status ≠ 0 → k.accepted = j.accepted ∧ commandFrame { s with jobs := t.jobs } { t with
          portA := { t.portA with reads := s.portA.reads }
          portB := { t.portB with reads := s.portB.reads } })
      ∧ (status = 0 → w.1 ≤ step.toNat → step.toNat ≤ w.2 → step.toNat ∉ j.accepted →
          (batchBad (listRd d) i.len step.toNat j.plan = false → k.accepted = j.accepted ++ [step.toNat]
              ∧ t.sortOrder = s.sortOrder.filter (liveBatch t) ++ [(p.toNat, step.toNat)])
          ∧ (batchBad (listRd d) i.len step.toNat j.plan = true → k.accepted = j.accepted
              ∧ raises s t evBatchReject [step.toNat]))
      ∧ (status = 0 → s.arr.defq = [] → calm s → slotBase j.plan step.toNat + i.len ≤ t0End →
          (∀ x, x < i.len → shadowed s (slotBase j.plan step.toNat + x) = false) →
          (∀ d, 36 ≤ d → d ≤ 43 → dom s d ≠ .off) → t.mem.read (slotBase j.plan step.toNat) i.len = d))
  ∧ (∀ (s : State) (su : BitVec 3) (p : Part) (step : W64) (g : Group) (tid : Tid) (j : Job), getJob s p = some j →
    s.pwr.mst = .active → tabFind s.sorts su.toNat = none → nextList s su.toNat = some (p.toNat, step.toNat, g.toNat, tid.toNat) →
    ∃ t, exec (.sortStart su p step g tid) s = .next t ∧ t = { s with sorts := t.sorts, isl := t.isl }
      ∧ (∀ u, u ≠ su.toNat → tabFind t.sorts u = tabFind s.sorts u)
      ∧ tabFind t.sorts su.toNat = some { part := p, step := step.toNat, group := g.toNat, tid := tid.toNat, waiting := decide (dom s (sortDom su.toNat) ≠ .on) })
  ∧ (∀ (s : State) (su : BitVec 3) (w : SortJob) (j : Job), tabFind s.sorts su.toNat = some w → w.waiting = false →
    getJob s w.part = some j → w.step ∈ j.accepted →
    ∃ t k, exec (.sortComplete su) s = .next t ∧ getJob t w.part = some k ∧ planFrame s t w.part
      ∧ tabFind t.sorts su.toNat = none ∧ k.sorted = j.sorted ++ [sortList s j w.step w.group w.tid] ∧ k.accepted = j.accepted)
  ∧ ∀ l : List Nat, (sortedOnce l).Pairwise (· < ·) ∧ ∀ v, v ∈ sortedOnce l ↔ v ∈ l

/-- The messages of the lookup and its engines: INDEX_ROUND_MESSAGE, OWNER_FETCH, PAYLOAD_ROUND_MESSAGE, SPILL_ROUND,
SPILL_ROUND_MESSAGE, POOLING_START and GRADIENT_ROUND_MESSAGE (R147 to R156, R165, R180, R286, R299, R330). A message of
another epoch is discarded, counted and reported; one of a step that the module has not reached waits (the model's own, log
entry 107); one of the wrong shape is discarded and reported as a checksum fault; a
fetch gives the payload entry of its record, and pins the row of a training fetch. -/
def Obligations.LookupMessages : Prop :=
  ∀ (s : State) (p : Part) (j : Job), getJob s p = some j →
    let good (m : RMsg) : Prop := epochOk j m.epoch = true ∧ m.body.length = 8 * m.n ∧ m.step % 65536 = nextStep s p % 65536
    (∀ m : RMsg, epochOk j m.epoch = false → ∀ c ∈ [Instr.indexRoundMessage p m, .payloadRoundMessage p m, .gradientRoundMessage p m],
      ∃ t, exec c s = .next t ∧ eventFrame { s with fabr := t.fabr } t ∧ t.fabr = { s.fabr with stale := s.fabr.stale + 1 }
        ∧ raises s t evXchStale [m.src.toNat, m.round])
    ∧ (∀ m : RMsg, epochOk j m.epoch = true → laterStep s p m.step = true → exec (.indexRoundMessage p m) s = .next s)
    ∧ (∀ m : RMsg, epochOk j m.epoch = true → laterStep s p m.step = false → ¬ good m → ∃ t, exec (.indexRoundMessage p m) s = .next t ∧ planFrame s t p
        ∧ t.tables = s.tables ∧ raises s t evXchFormat [m.src.toNat, m.round] ∧ reported t p (vCksum ||| srcXch))
    ∧ (∀ m : RMsg, good m →
      ∃ t k, exec (.indexRoundMessage p m) s = .next t ∧ onlyJob s t p ∧ getJob t p = some k
        ∧ exec (.spillRoundMessage p .index { m with left := 0 }) s = exec (.indexRoundMessage p { m with left := 0 }) s
        ∧ (runOf k m.group.toNat).idxIn =
            (if (runOf j m.group.toNat).idxIn.any (fun y => y.src == m.src.toNat && y.round == m.round)
             then (runOf j m.group.toNat).idxIn
             else (runOf j m.group.toNat).idxIn ++
               [{ src := m.src.toNat, round := m.round, left := m.left, ents := idxEntries m.body m.n }]))
    ∧ (∀ m : RMsg, m.left ≠ 0 → epochOk j m.epoch = true →
      ∃ t, exec (.spillRoundMessage p .index m) s = .next t ∧ t.jobs = s.jobs ∧ t.tables = s.tables ∧ t.arr = s.arr ∧ t.vec = s.vec)
    ∧ (∀ m : RMsg, epochOk j m.epoch = true →
      let ents := answered (runOf j m.group.toNat) m.src.toNat m.round
      ents.length = m.n → (m.round ≠ 18 → m.body.length = total (payLens s p (ents.map (·.tid)))) →
      ∃ t k, exec (.payloadRoundMessage p m) s = .next t ∧ onlyJob s t p ∧ getJob t p = some k
        ∧ (runOf k m.group.toNat).payIn =
            (runOf j m.group.toNat).payIn ++ [{ src := m.src.toNat, round := m.round, body := m.body }])
    ∧ (∀ (g : Group) (src : Lidx) (round : Byte) (n : W32) (m : IdxMsg) (tid row : Nat) (v : Table) (b : List Byte),
      (runOf j g.toNat).idxIn.find? (fun m => m.src == src.toNat && m.round == round.toNat) = some m →
      m.ents[n.toNat]? = some (tid, row) → tabFind m.pay n.toNat = none → getTbl s p tid = some v → v.desc.tier ≠ 2 →
      waitsRepair s p v row = false →
      let train := trainTid j.plan g.toNat tid
      let home := homeAddr v j.plan.lidx row
      (memOpen s p home v.desc.size false = false →
        exec (.ownerFetch p g src round n) s = .next (noteWait s home v.desc.size false))
      ∧ (v.desc.tid = tid → tierOf home = some 1 → memOpen s p home v.desc.size false = true → recRead s v home row = some b →
      ∃ t k, exec (.ownerFetch p g src round n) s = .next t ∧ getJob t p = some k ∧ planFrame s t p
        ∧ (∃ x ∈ (runOf k g.toNat).idxIn, x.src = src.toNat ∧ x.round = round.toNat
            ∧ tabFind x.pay n.toNat = some (payEntry v.desc b))
        ∧ (train = true → ∃ u, getTbl t p tid = some u ∧ u.pinned row = true)
        ∧ (train = false → t.tables = s.tables)))
    ∧ (∀ (g : Group) (src : Lidx),
      let r := runOf j g.toNat
      squallIn s p j g.toNat = true → spillMore r src.toNat = true →
      (tabGet 0 r.pulled src.toNat = 0 ∨
        r.idxIn.any (fun m => m.src == src.toNat && m.round == tabGet 0 r.pulled src.toNat + 1 && m.sent) = true) →
      ∃ t k, exec (.spillRound p g src) s = .next t ∧ getJob t p = some k ∧ planFrame s t p ∧ t.tables = s.tables
        ∧ tabGet 0 (runOf k g.toNat).pulled src.toNat = tabGet 0 r.pulled src.toNat + 1
        ∧ raises s t evLkpSpill [g.toNat, src.toNat])
    ∧ (∀ g : Group, 1 ∈ (runOf j g.toNat).started → (runOf j g.toNat).pooled = false → paysIn (runOf j g.toNat) = true →
      ∃ t k, exec (.poolingStart p g) s = .next t ∧ getJob t p = some k ∧ planFrame s t p ∧ t.tables = s.tables
        ∧ (runOf k g.toNat).pooled = true ∧ ∀ h, h ≠ g.toNat → runOf k h = runOf j h)
    ∧ (∀ (m : RMsg) (x : IdxMsg), epochOk j m.epoch = true →
      (runOf j m.group.toNat).idxIn.find? (fun x => x.src == m.src.toNat && x.round == m.round) = some x →
      let ents := dropAt (backEnts s p j.plan m.group.toNat x) m.evals
      ents.length = m.n → m.body.length = roundUp (total (gradLens s p j.plan ents)) 8 →
      (runOf j m.group.toNat).gradIn.any (fun y => y.src == m.src.toNat && y.round == m.round) = false →
      ∃ t k, exec (.gradientRoundMessage p m) s = .next t ∧ getJob t p = some k ∧ planFrame s t p ∧ t.tables = s.tables
        ∧ (runOf k m.group.toNat).gradIn = (runOf j m.group.toNat).gradIn ++
            [{ src := m.src.toNat, round := m.round, body := m.body, evals := m.evals }])

/-- ROW_UPDATE (R134, R162 to R164, R174, R184, R185) of a row that is due and that no fetch has still to read: its update is
taken off what is due; it waits, undone, while its access may not issue (R233, R234). A frozen row's record and digests stay; a record that fails its check is lost and reported; else the record is
read, changed by its optimizer and written with its CRC, and the digests of its table take the old record's hash out and the
new one's in. -/
def Obligations.RowUpdate : Prop :=
  ∀ (s : State) (p : Part) (g : Group) (tid : Tid) (row : RowIx) (j : Job) (x : (Nat × Nat) × List W32) (v : Table) (q : Pin),
    let r := runOf j g.toNat
    let e : Nat × Nat := (tid.toNat, row.toNat)
    getJob s p = some j → j.gate = true → j.vetoed = false → e ∈ r.todo → j.unread e.1 e.2 = false →
    r.grads.find? (fun x => x.1 == e) = some x → getTbl s p tid.toNat = some v → v.desc.tid = tid.toNat →
    v.pins.find? (fun q => q.row == row.toNat) = some q → tierOf q.addr = some 1 →
    (allOpen s p (pinSpan s p tid.toNat row.toNat) = false → ∃ t, exec (.rowUpdate p g tid row) s = .next t
      ∧ t = { s with dramStacks := t.dramStacks })
    ∧ (allOpen s p (pinSpan s p tid.toNat row.toNat) = true → ∃ t k, exec (.rowUpdate p g tid row) s = .next t ∧ getJob t p = some k ∧ planFrame s t p
      ∧ (runOf k g.toNat).todo = r.todo.erase e
      ∧ (∀ y, y ≠ tid.toNat → getTbl t p y = getTbl s p y)
      ∧ (q.frz = true → t.mem = s.mem ∧ t.tables = s.tables ∧ t.evLog = s.evLog)
      ∧ (q.frz = false → recRead s v q.addr row.toNat = none → t.tables = s.tables
          ∧ raises s t evUpdRecord [tid.toNat, row.toNat, q.addr, j.step]
          ∧ ∀ a, shadowed s a = false → t.mem.get a = s.mem.get a)
      ∧ (q.frz = false → ∀ b, recRead s v q.addr row.toNat = some b → v.desc.tier ≠ 2 → exportAhead v row.toNat b = none →
          let o := updateRec s p v row.toNat (x.2.map ofOpal) b
          let n := fixCrc (setHdr o.1 97 97 (b2n (hExs b)))
          (o.2.2 = true → raises s t evUpdNonfinite [tid.toNat, row.toNat])
          ∧ (unwalked v row.toNat = false → ∃ u, getTbl t p tid.toNat = some u
              ∧ u.set = v.set ^^^ (recHash p tid.toNat b ^^^ recHash p tid.toNat n))
          ∧ (row.toNat < v.desc.rows → q.addr + n.length ≤ dirSlot s p tid.toNat ∨ dirSlot s p tid.toNat + 0x12000 ≤ q.addr →
              (∀ i, i < n.length → shadowed s (q.addr + i) = false) → t.mem.read q.addr n.length = n)))

/-! ### Row tiers and flash -/

/-- FORECAST_HINT_MESSAGE, HINT_SERVICE and PROMOTION_READ_COMPLETE (R206, R207, R209, R210). The hints of rows that the module
owns in a tiered table are queued in their order; a served hint leaves the queue, and the mark of a resident row takes the
hint's step; a promotion from a good home record is counted and keeps its slot; one whose home record fails its
check is counted and gives its slot back. -/
def Obligations.Forecast : Prop :=
  (∀ (s : State) (p : Part) (m : RMsg) (j : Job), getJob s p = some j → epochOk j m.epoch = true →
    let d := (m.step + 65536 - nextStep s p % 65536) % 65536
    d < 32768 → j.hints.length + m.n ≤ 1048576 →
    ∃ t k, exec (.forecastHintMessage p m) s = .next t ∧ onlyJobCtr s t p ∧ getJob t p = some k
      ∧ k.hints = j.hints ++ ((idxEntries m.body m.n).filter fun e => match getTbl s p e.1 with
          | some v => v.desc.tier == 2 && decide (e.2 < v.desc.rows) && decide (ownerOf v.map v.desc e.2 = j.plan.lidx)
          | none => false).map fun e => { tid := e.1, row := e.2, step := nextStep s p + d })
  ∧ (∀ (s : State) (p : Part) (j : Job) (h : Hint), s.pwr.mst = .active → getJob s p = some j →
    (sortBy (·.step) j.hints).head? = some h →
    ∃ t k, exec (.hintService p) s = .next t ∧ getJob t p = some k ∧ planFrame s t p ∧ (k.hints = j.hints.erase h ∨ k.hints = j.hints)
      ∧ (∀ v, getTbl s p h.tid = some v → ((dirFind s v h.row).isSome ∨ (freePoolSlot v (v.desc.eng h.row)).isSome) →
          k.hints = j.hints.erase h)
      ∧ ∀ v iv, getTbl s p h.tid = some v → dirFind s v h.row = some iv → deState iv.2 ≠ 3 →
          t0End ≤ dirAddr v.pl (v.desc.eng h.row) iv.1 →
          t = { s with jobs := t.jobs, mem := t.mem, poison := t.poison, spdErr := t.spdErr }
          ∧ dirGet t v.pl (v.desc.eng h.row) iv.1 = setBits 60 57 (setBits 61 61 iv.2 1) (h.step % 16)
          ∧ ∀ a, a < dirAddr v.pl (v.desc.eng h.row) iv.1 ∨ dirAddr v.pl (v.desc.eng h.row) iv.1 + 8 ≤ a →
              t.mem.get a = s.mem.get a)
  ∧ ∀ (s : State) (p : Part) (tid : Tid) (row : RowIx) (j : Job) (v : Table) (iv : Nat × Nat) (x : Nat), s.pwr.mst = .active →
    getJob s p = some j → getTbl s p tid.toNat = some v → v.desc.tid = tid.toNat →
    v.promoting.find? (fun y => y.1 == row.toNat) = some (row.toNat, x) →
    dirFind s v row.toNat = some iv → deSlot iv.2 = x → waitsFor j tid.toNat row.toNat = [] → s.flash.bad = [] →
    tierOf (homeAddr v j.plan.lidx row.toNat) = some 3 → tierOf (slotAddr v x) = some 1 →
    memOpen s p (homeAddr v j.plan.lidx row.toNat) v.desc.size false = true → memOpen s p (slotAddr v x) v.desc.size true = true →
    let n (t : State) (i : Nat) : Nat := (tabGet {} t.isl.live.tbl ((4096 * p.toNat + tid.toNat) * 12 + i)).total
    ∃ t u, exec (.promotionReadComplete p tid row) s = .next t ∧ getTbl t p tid.toNat = some u ∧ planFrame s t p
      ∧ (∀ y ∈ u.promoting, y.1 ≠ row.toNat)
      ∧ (∀ b, recRead s v (homeAddr v j.plan.lidx row.toNat) row.toNat = some b → n t 9 = (n s 9 + 1) % 2 ^ 48
          ∧ u.usedPool = v.usedPool ∧ u.usedRes = v.usedRes)
      ∧ (recRead s v (homeAddr v j.plan.lidx row.toNat) row.toNat = none → n t 7 = (n s 7 + 1) % 2 ^ 48
          ∧ x ∉ u.usedPool)

/-- The background engines of a tiered table: DRIZZLE_EVICT, DRIZZLE_WARM_PROMOTE, WRITEBACK, WRITEBACK_DURABLE, DECAY_SWEEP and
RANGE_MERGE (R206, R213, R215 to R219, R221, R230, R231, R233), which run while the module is active, no re-shard moves the
table and their accesses may issue; those of Drizzle not at a share of 0 %. A window that holds a clean evictable row frees the coldest one's slot; a writeback hands a page group to the
translation layer; a durable one stands in T3 and has spent one credit a page. -/
def Obligations.TierEngines : Prop :=
  ∀ (s : State) (p : Part) (tid : Tid) (v : Table), s.pwr.mst = .active → getTbl s p tid.toNat = some v → v.desc.tid = tid.toNat →
    (v.pl.dsh = 0 → ∀ e : Engine, ∀ c ∈ [Instr.drizzleEvict p tid e, .drizzleWarmPromote p tid e, .decaySweep p tid e, .rangeMerge p tid],
      exec c s = .next s)
    ∧ (∀ e : Engine, v.pl.dsh ≠ 0 → permuting s p tid.toNat = false → belowHigh v e.toNat = true →
      let all := evictable s p v (residents s v e.toNat)
      let n := Nat.max 1 (ceilDiv (v.pl.pslots / 16) 64)
      let h := nth 0 v.hand e.toNat
      let resv := all.filter fun x => decide (v.pl.pslots ≤ x.2.1)
      let cand := if resv.isEmpty then all.filter (fun x => decide (x.2.1 < v.pl.pslots ∧ x.2.1 / 16 / 64 = h % n)) else resv
      ∃ t u, exec (.drizzleEvict p tid e) s = .next t ∧ getTbl t p tid.toNat = some u ∧ planFrame s t p
        ∧ u.hand = setNth v.hand e.toNat ((h + 1) % n)
        ∧ (∀ x, coldest (cand.filter (settled v)) = some x → u.wbs = v.wbs
            ∧ x.2.1 ∉ u.usedPool ∧ (∀ k ∈ u.usedRes, k + v.pl.pslots ≠ x.2.1))
        ∧ (∀ x, coldest (cand.filter (settled v)) = none → coldest (cand.filter fun x => hDirty x.2.2.2) = some x →
            (belowLow v e.toNat || !resv.isEmpty || routineOk s) = true → allOpen s p (writebackSpans s p v x.1) = true →
            u.wbs.length = v.wbs.length + 1))
    ∧ (∀ e : Engine, belowHigh v e.toNat = false → exec (.drizzleEvict p tid e) s = .next s)
    ∧ (∀ e : Engine, v.pl.dsh ≠ 0 → permuting s p tid.toNat = false → allOpen s p (warmSpans s p tid.toNat) = true →
      let me := lidxOf s p
      let k := nth 0 v.warm e.toNat
      let page (r : Nat) : Nat := (homeAddr v me r - t3Base) / 16384
      let lps := sortBy id (((engineRows v me e.toNat).map page).foldl (fun l x => if l.contains x then l else l ++ [x]) [])
      ∃ t u, exec (.drizzleWarmPromote p tid e) s = .next t ∧ getTbl t p tid.toNat = some u ∧ planFrame s t p
        ∧ (lps[k]? = none → u.warm = setNth v.warm e.toNat 0)
        ∧ (∀ lp, lps[k]? = some lp → warmRoom v e.toNat = false → t = s)
        ∧ (∀ lp, lps[k]? = some lp → warmRoom v e.toNat = true →
            u.warm = if ((engineRows v me e.toNat).filter fun r => page r == lp).any (warmRow t u me) then v.warm
              else setNth v.warm e.toNat ((k + 1) % Nat.max 1 lps.length)))
    ∧ (∀ row : RowIx, v.desc.tier = 2 → permuting s p tid.toNat = false → row.toNat ∈ dirtyRows s v →
      (urgentRow s v row.toNat || (routineOk s && v.pl.dsh != 0)) = true → allOpen s p (writebackSpans s p v row.toNat) = true →
      ∃ t u wb, exec (.writeback p tid row) s = .next t ∧ getTbl t p tid.toNat = some u ∧ planFrame s t p
        ∧ u.wbs = v.wbs ++ [wb] ∧ wb.urgent = urgentRow s v row.toNat
        ∧ (homeAddr v (lidxOf s p) row.toNat - t3Base) / 16384 ∈ wb.pages)
    ∧ (∀ (wb : Writeback) (rest : List Writeback), v.wbs = wb :: rest → allOpen s p (durableSpans s p tid.toNat) = true →
      getJob s p = none → v.evicting = [] → v.flushes = [] →
      ∃ t u, exec (.writebackDurable p tid) s = .next t ∧ getTbl t p tid.toNat = some u ∧ t.arr = s.arr ∧ t.vec = s.vec
        ∧ u = { v with wbs := rest } ∧ t.wear.c = s.wear.c - wb.pages.length
        ∧ ∀ lp b, wb.bytes = [(lp, b)] → (∀ i, i < b.length → shadowed s (t3Base + 16384 * lp + i) = false) →
            t.mem.read (t3Base + 16384 * lp) b.length = b)
    ∧ (∀ (e : Engine) (sh : Nat) (rest : List Nat), v.pl.dsh ≠ 0 → permuting s p tid.toNat = false →
      allOpen s p (sweepSpans s p tid.toNat e.toNat) = true → v.shifts e.toNat = sh :: rest →
      ∃ t u, exec (.decaySweep p tid e) s = .next t ∧ getTbl t p tid.toNat = some u ∧ planFrame s t p
        ∧ u = { v with sweeps := v.sweeps.map fun y => if y.seg == e.toNat then { y with shifts := rest } else y })
    ∧ (∀ m, v.merge = some m → allOpen s p (mergeSpans s p tid.toNat) = true → v.wbs ≠ [] → exec (.rangeMerge p tid) s = .next s)
    ∧ (∀ m r0, v.pl.dsh ≠ 0 → permuting s p tid.toNat = false → v.merge = some m → v.wbs = [] →
      allOpen s p (mergeSpans s p tid.toNat) = true → ((sortBy (fun r => (v.desc.lbase + rowOff v (lidxOf s p) r - t3Base) / 16384) m.rows).head?) = some r0 →
      ∃ t u, exec (.rangeMerge p tid) s = .next t ∧ getTbl t p tid.toNat = some u ∧ t.arr = s.arr ∧ t.vec = s.vec
        ∧ (match u.merge with
           | none => True
           | some m' => m' = { m with rows := m'.rows } ∧ r0 ∉ m'.rows ∧ m'.rows.length < m.rows.length))

/-- The flash translation layer: GARBAGE_COLLECTION, WEAR_LEVEL_MOVE, BLOCK_FAILURE, MAP_CHECKPOINT, T3_MOUNT, FTL_REBUILD, and
HOURLY_TICK (R224, R225, R227, R229 to R231, R235, R449), which wait for T3 to be ready and for a stack that programs. Collection below 64 erased bands and levelling above a spread of 256
erase one band, each of its blocks in service once more; a failed block is retired for good; a checkpoint is made when one is due, and the copies
alternate; the newer copy and the pages programmed after it make the map at a mount, every page's out-of-band area where no copy
is valid; the hour's overdraft is recorded, the credit renewed and the Almanac written to its older copy. -/
def Obligations.FlashEngines : Prop :=
  ∀ s : State, s.pwr.mst = .active →
    let moves (c : Instr) (b : Nat) : Prop :=
      ∃ t, exec c s = .next t ∧ b ∉ t.flash.used ∧ t.flash.retired = s.flash.retired
        ∧ (∀ k, k / 32 = b → k ∉ s.flash.retired → eraseOf t.flash k = eraseOf s.flash k + 1)
        ∧ (∀ k, k / 32 ≠ b ∨ k ∈ s.flash.retired → eraseOf t.flash k = eraseOf s.flash k)
        ∧ t = { s with flash := t.flash, wear := t.wear }
    let work : Prop := s.flash.ready = true ∧ programsOpen s = true
    (s.flash.ready = false → ∀ c ∈ [Instr.garbageCollection, .wearLevelMove, .mapCheckpoint], exec c s = .next s)
    ∧ (work → erasedBands s.flash < 64 → ∀ b, pickBand s.flash (fun b => (validPages s.flash b).length) = some b →
      moves .garbageCollection b)
    ∧ (work → 64 ≤ erasedBands s.flash → exec .garbageCollection s = .next s)
    ∧ (work → 256 < eraseSpread s.flash → ∀ b, pickBand s.flash (bandErases s.flash) = some b → moves .wearLevelMove b)
    ∧ (work → eraseSpread s.flash ≤ 256 → exec .wearLevelMove s = .next s)
    ∧ (∀ blk : BitVec 20, work → blk.toNat ∉ s.flash.retired →
      ∃ t, exec (.blockFailure blk) s = .next t ∧ t = { s with flash := t.flash, wear := t.wear }
        ∧ t.flash.retired = blk.toNat :: s.flash.retired
        ∧ t.wear.c = s.wear.c - (s.flash.map.filter fun kv => pageBlock kv.2 == blk.toNat).length)
    ∧ (work → ckDue s.flash = false → exec .mapCheckpoint s = .next s)
    ∧ (work → ckDue s.flash = true →
        let k : Ckpt := { seq := s.flash.ckSeq + 1, upTo := s.flash.seq, map := s.flash.map }
        exec .mapCheckpoint s = .next { s with
          wear := { s.wear with c := s.wear.c - ckPages }
          flash := { s.flash with
            ckSeq := s.flash.ckSeq + 1, sinceCk := 0, ckHour := false
            ckA := if s.flash.ckSeq % 2 = 0 then some k else s.flash.ckA
            ckB := if s.flash.ckSeq % 2 = 0 then s.flash.ckB else some k } })
    ∧ (s.flash.ready = true → exec .t3Mount s = .next s ∧ exec .ftlRebuild s = .next s)
    ∧ (s.flash.ready = false → ∀ k, newerCkpt s.flash = some k →
        exec .t3Mount s = .next { s with flash := { s.flash with map := replayMap s.flash k.map k.upTo, ready := true } }
        ∧ exec .ftlRebuild s = .next s)
    ∧ (s.flash.ready = false → newerCkpt s.flash = none → exec .t3Mount s = .next s
        ∧ ∃ t, exec .ftlRebuild s = .next t
          ∧ eventFrame { s with flash := { s.flash with map := replayMap s.flash [] 0, ready := true } } t
          ∧ raises s t evFtlRebuild [])
    ∧ (dom s 62 = .on → ∃ t, exec .hourlyTick s = .next t ∧ t.alm.hours = s.alm.hours + 1 ∧ t.wear.odPages = 0
        ∧ t.wear.c = addCredit { s.wear with a := t.wear.a } - (ceilDiv almLength 16384 : Nat)
        ∧ t.wear.a = (allowance { s with alm := { s.alm with hours := s.alm.hours + 1 } }).1
        ∧ (s.wear.odPages ≠ 0 → t.alm.overdrafts.head? = some (s.alm.hours, s.wear.odPages, s.wear.odTab)
            ∧ t.alm.odTotal = s.alm.odTotal + s.wear.odPages)
        ∧ (copySeq s.almA ≤ copySeq s.almB → t.almA = some t.alm ∧ t.almB = s.almB)
        ∧ (copySeq s.almB < copySeq s.almA → t.almB = some t.alm ∧ t.almA = s.almA)
        ∧ eventFrame { s with alm := t.alm, almA := t.almA, almB := t.almB, wear := t.wear, flash := { s.flash with ckHour := true } } t)

/-- REGULATOR_REFILL, DRAM_TEMP_REPORT, DRAM_CAP_TICK, FLASH_TEMP_REPORT, DRAM_CRITICAL_HOLD, DRAM_CRITICAL_TRIP and
DIE_TEMP_REPORT (R232, R234, R235, R442): the buckets refill up to their depth; the zones and traffic caps of the stacks; a
critical stack makes every job that runs abandon its step, and trips after 10 s; a die at 115 °C trips at once, a DRAM stack
at 110 °C too; a trip turns the module off and records its cause. -/
def Obligations.Thermal : Prop :=
  ∀ s : State, s.dramStacks.length = 28 →
    let trips (c : Instr) (cause : Nat) : Prop :=
      ∃ t, exec c s = .next t ∧ t.pwr.mst = .off ∧ t.pwr.trip = true ∧ t.pwr.tripCause = cause ∧ t.pwr.tripNew = true
        ∧ t.jobs = [] ∧ (∀ d, dom t d = .off) ∧ t.sec.otp = s.sec.otp ∧ t.pending = s.pending
    let on : Prop := s.pwr.mst ≠ .off ∧ s.pwr.mst ≠ .unpowered
    (∃ t, exec .regulatorRefill s = .next t ∧ t = { s with bucket := t.bucket } ∧ ∀ (p : Part) b, b < 4 →
        tabGet 0 t.bucket (4 * p.toNat + b)
          = Nat.min (tabGet 0 s.bucket (4 * p.toNat + b) + rateOf s p b * refillUnit b) (bucketDepth s p b))
    ∧ (∀ (k : BitVec 5) (x : Byte), on → k.toNat < 20 → x.toInt < 110 →
      let o := getStack s k.toNat
      ∃ t n, exec (.dramTempReport k x) s = .next t ∧ getStack t k.toNat = n ∧ n.temp = x.toInt
        ∧ (105 ≤ x.toInt → n.zone = .crit ∧ n.cap = 0) ∧ (95 ≤ x.toInt → x.toInt < 100 → n.zone = .hot ∧ n.cap ≤ 4)
        ∧ (x.toInt < 83 → n.zone = .normal ∨ n.zone = .warm) ∧ (n.refresh2 = true ↔ n.zone = .hot ∨ n.zone = .crit)
        ∧ (o.zone = .crit → n.zone ≠ .crit → n.cap = 1)
        ∧ (n.zone = .crit → o.zone ≠ .crit → raises s t evMemCrit [k.toNat])
        ∧ (∀ i, i ≠ k.toNat → getStack t i = getStack s i)
        ∧ eventFrame { s with dramStacks := t.dramStacks, isl := t.isl } t ∧ (o.waitFrom = none → t.isl = s.isl))
    ∧ (∀ (k : BitVec 5) (x : Byte), on → k.toNat < 20 → 110 ≤ x.toInt → trips (.dramTempReport k x) 2)
    ∧ (∃ t, exec .dramCapTick s = .next t ∧ t = { s with dramStacks := t.dramStacks } ∧ t.dramStacks.length = 28
      ∧ (∀ i, 20 ≤ i → getStack t i = getStack s i)
      ∧ ∀ i, i < 20 → let o := getStack s i
          let n := getStack t i
          n.temp = o.temp ∧ (o.zone = .crit → n = o) ∧ (o.zone = .normal → n.cap = Nat.min 8 (o.cap + 1))
          ∧ (o.zone = .hot ∨ o.zone = .warm → 83 ≤ o.temp → n.cap = Nat.max 1 (o.cap - 1))
          ∧ (o.zone = .hot → o.temp < 83 → n.cap = Nat.min 4 (o.cap + 1))
          ∧ (o.zone = .warm → o.temp < 83 → n.cap = Nat.min 8 (o.cap + 1)))
    ∧ (∀ (k : BitVec 3) (x : Byte), ∃ t, exec (.flashTempReport k x) s = .next t ∧ t = { s with dramStacks := t.dramStacks, isl := t.isl }
      ∧ ((getStack s (20 + k.toNat)).waitFrom = none → t.isl = s.isl)
      ∧ (∀ i, i ≠ 20 + k.toNat → getStack t i = getStack s i)
      ∧ let n := getStack t (20 + k.toNat)
        n.temp = x.toInt ∧ (95 ≤ x.toInt → n.cap = 0) ∧ (85 ≤ x.toInt → x.toInt < 93 → n.cap = 4) ∧ (x.toInt < 83 → n.cap = 8))
    ∧ (∀ k : BitVec 5, k.toNat < 20 → (getStack s k.toNat).zone = .crit →
      (∃ t, exec (.dramCriticalHold k) s = .next t ∧ raises s t evPwrThermHold [k.toNat]
        ∧ (∀ (p : Part) j, getJob s p = some j → getJob t p =
            some (if j.phase = .held ∨ j.phase = .testing then j else { j with withdrawn := true }))
        ∧ eventFrame { s with jobs := t.jobs } t)
      ∧ (on → trips (.dramCriticalTrip k) 3))
    ∧ (∀ (d : BitVec 2) (x : Byte), on → d.toNat < 3 → 115 ≤ x.toInt → trips (.dieTempReport d x) 1)
    ∧ (∀ (d : BitVec 2) (x : Byte), on → d.toNat < 3 → x.toInt < 115 → s.pwr.dieTemp.length = 3 →
      ∃ t, exec (.dieTempReport d x) s = .next t ∧ eventFrame { s with pwr := t.pwr } t
        ∧ t.pwr = { s.pwr with dieTemp := setNth s.pwr.dieTemp d.toNat x.toInt }
        ∧ (100 ≤ x.toInt → nth 0 s.pwr.dieTemp d.toNat < 100 → raises s t evPwrThermWarn [d.toNat])
        ∧ (x.toInt < 100 → t.evLog = s.evLog))

/-! ### Completions and events, which every command shares -/

/-- A completion (R373, R378, R379): it changes nothing but what `commandFrame` names; where the submission ring's completion
ring is enabled and its port not in hold, the command leaves its ring's list and its slot becomes free, and one 64-byte entry
goes to the completion ring's next place, its last byte the phase; a command with NOCQ that ends DONE writes none, and the
completion of a command whose port is in hold is kept for the summary (R390). An event (R382 to R385): it changes nothing but
what `eventFrame` names, it is logged, and into an event ring with room and no drop to report it goes as one 64-byte entry; a
full ring drops and counts it, and the next entry after drops is EV_EVT_OVERFLOW with their number. -/
def Obligations.RingEntries : Prop :=
  (∀ (s : State) (c : Cmd) (st a b x : Nat),
    let n := c.ring.toNat
    let r := getRing s n
    let q := getRing s r.link
    let t := complete s c st a b x
    commandFrame s t
    ∧ (c ∈ r.prog → c ∉ r.old → r.link ≠ n → (getRing t n).prog = r.prog.erase c ∧ (getRing t n).slots = r.slots - 1)
    ∧ (keepsCompletion s c = false → (c.nocq && st == stDone) = false → r.kind = 0 → q.kind = 1 → q.enable = true → r.link ≠ n →
      (getPort s (portOf q.fn)).hold = false → (getRing t r.link).dev = (q.dev + 1) % 2 ^ 32
      ∧ ∃ e, t.tx = e :: s.tx ∧ e.portB = portOf q.fn ∧ e.addr = q.base + 64 * (q.dev % 2 ^ q.size)
        ∧ e.bytes = bytesOf 2 c.tag ++ bytesOf 2 n ++ bytesOf 4 r.dev ++ bytesOf 1 st ++ bytesOf 1 c.opc ++ bytesOf 6 0
            ++ bytesOf 8 a ++ bytesOf 8 b ++ bytesOf 8 x ++ List.replicate 23 0
            ++ [if (q.dev / 2 ^ q.size) % 2 = 0 then 1 else 0])
    ∧ (keepsCompletion s c = false → c.nocq = true → st = stDone → t.tx = s.tx)
    ∧ (keepsCompletion s c = true → t.tx = s.tx ∧ ∃ k, (getPort t (portOf c.fn.toNat)).kept = (getPort s (portOf c.fn.toNat)).kept ++ [k]
        ∧ k.ring = c.ring ∧ k.status = st ∧ k.tag = c.tag ∧ k.a = a ∧ k.b = b))
  ∧ (∀ (s : State) (e : Event), eventFrame s (raiseE s e) ∧ (raiseE s e).evLog = e :: s.evLog)
  ∧ ∀ (s : State) (n : Nat) (e : Event),
    let r := getRing s n
    let t := evPut s n e
    let q := getRing t n
    let at' (i : Nat) : Nat := r.base + 64 * ((r.dev + i) % 2 ^ 32 % 2 ^ r.size)
    let ph (i : Nat) : Byte := if ((r.dev + i) % 2 ^ 32 / 2 ^ r.size) % 2 = 0 then 1 else 0
    let text (e : Event) : List Byte :=
      bytesOf 2 e.code ++ bytesOf 1 e.status ++ bytesOf 1 (e.code / 256) ++ bytesOf 2 e.fn
        ++ bytesOf 1 (match e.part with | none => 0xFF | some p => p.toNat) ++ [0] ++ bytesOf 8 e.step ++ bytesOf 8 e.time
        ++ ((e.detail ++ [0, 0, 0, 0]).take 4).flatMap (bytesOf 8)
    (r.full 0 = true → t.tx = s.tx ∧ q.dev = r.dev ∧ q.drop = (if r.drop = 0xFFFFFFFF then r.drop else r.drop + 1)
        ∧ q.dropNew = r.dropNew + 1)
    ∧ (r.full 0 = false → (getPort s (portOf r.fn)).hold = false → r.dev < 2 ^ 32 →
      (r.dropNew = 0 → q.dev = (r.dev + 1) % 2 ^ 32 ∧ q.drop = r.drop ∧ ∃ x, t.tx = x :: s.tx ∧ x.portB = portOf r.fn
        ∧ x.addr = at' 0 ∧ x.bytes = (padTo 0 63 (text e)).take 63 ++ [ph 0])
      ∧ (r.dropNew ≠ 0 → Ring.full { r with dev := (r.dev + 1) % 2 ^ 32, dropNew := 0 } 0 = false →
        q.dev = (r.dev + 2) % 2 ^ 32 ∧ q.dropNew = 0 ∧ ∃ x y o, t.tx = x :: y :: s.tx
          ∧ y.addr = at' 0 ∧ y.bytes = (padTo 0 63 (text o)).take 63 ++ [ph 0] ∧ o.code = evEvtOverflow ∧ o.detail = [r.dropNew]
          ∧ x.addr = at' 1 ∧ x.bytes = (padTo 0 63 (text e)).take 63 ++ [ph 1]))

/-! ### Table commands -/

/-- TDEF, TREL, PLACE and PARAM (R133, R170, R200, R374, R536): one that passes its checks takes effect at once while no step
runs, completes DONE with the last seal in A, and else waits, in order, for the next seal. One that fails its checks ends with
its event and INVALID. A defined table has its descriptor, the default parameter block and digests that are zero and not
valid; a released one is gone with its slot of the directory; PARAM replaces P0 to P10. -/
def Obligations.TableCommands : Prop :=
  ∀ (s : State) (c : Cmd),
    let p := partOf s c.fn
    let a := sealOrNone (lastSealOf s p)
    let slotFree (d : Nat) : Prop := t0End ≤ dirSlot s p d
    let others (u : State) (tid : Nat) : Prop :=
      (∀ k, k ≠ tkey p tid → tabFind u.tables k = tabFind s.tables k) ∧ u.jobs = s.jobs ∧ u.rings = s.rings ∧ u.arr = s.arr
        ∧ u.vec = s.vec ∧ u.tx = s.tx
    let waits (i : Instr) (o : TblOp) : Prop := exec i s = .next { s with tblOps := s.tblOps ++ [(p, o)] }
    (∀ x : BitVec 512, runs s c 0x02 →
      let d := descOf x
      (nth 0 s.tdir p.toNat ≠ 0 → s.tblOps = [] → defineOk s p d = true →
        (runsSteps s p = true → waits (.tdef c x) (.define d c))
        ∧ (runsSteps s p = false → d.tier ≠ 2 → slotFree d.tid →
          ∃ u t, exec (.tdef c x) s = .next (complete u c stDone a 0 0) ∧ others u d.tid
            ∧ getTbl u p d.tid = some t ∧ t.desc = d ∧ t.par = {} ∧ t.set = 0 ∧ t.ranges = [] ∧ t.digOk = false ∧ t.staged = none
            ∧ (u.mem.read (dirSlot s p d.tid) 64 = bytesOf 64 d.num) ∧ nth false u.tierLock p.toNat = nth false (setNth s.tierLock p.toNat true) p.toNat))
      ∧ (nth 0 s.tdir p.toNat = 0 ∨ (s.tblOps = [] ∧ defineOk s p d = false) →
        exec (.tdef c x) s = .next (rejectCmd s c evTblReject stInvalid [d.tid])))
    ∧ (∀ tid : Tid, runs s c 0x03 →
      (planUses s p tid.toNat = false → (getTbl s p tid.toNat).isSome = true →
        (runsSteps s p = true → waits (.trel c tid) (.release tid.toNat c))
        ∧ (runsSteps s p = false → ∃ u, exec (.trel c tid) s = .next (complete u c stDone a 0 0)
            ∧ ((∀ t, getTbl s p tid.toNat = some t → t.wbs = [] ∧ t.exp = none ∧ t.staged = none) → others u tid.toNat)
            ∧ getTbl u p tid.toNat = none ∧ tabFind u.places (tkey p tid.toNat) = none
            ∧ ∀ i, i < 0x100 + 65552 → u.mem.get (dirSlot s p tid.toNat + i) = 0))
      ∧ (planUses s p tid.toNat = true ∨ (getTbl s p tid.toNat = none ∧ s.tblOps = []) →
        exec (.trel c tid) s = .next (rejectCmd s c evTblReject stInvalid [tid.toNat])))
    ∧ (∀ x : BitVec 512, runs s c 0x04 →
      let e := placeOf x
      let ok : Bool := placeOk e && (match getTbl s p e.tid with
        | none => placeIn s p e 64
        | some t => (match t.place with | none => true | some o => placeChange o e))
      (ok = true → runsSteps s p = true → waits (.place c x) (.place e c))
      ∧ (ok = true → runsSteps s p = false → slotFree e.tid → ∃ u, exec (.place c x) s = .next (complete u c stDone a 0 0)
          ∧ others u e.tid ∧ tabFind u.places (tkey p e.tid) = some e
          ∧ getTbl u p e.tid = (getTbl s p e.tid).map (fun t => { t with place := some e })
          ∧ u.mem.read (dirSlot s p e.tid + 0xC0) 64 = bytesOf 64 e.num)
      ∧ (ok = false → exec (.place c x) s = .next (rejectCmd s c evProgError stInvalid [e.tid])))
    ∧ ∀ (n : W32) (f : Byte) (ps : List W32), runs s c 0x05 → ps.length = 11 →
      (bit 1 f.toNat = false → ∀ t, getTbl s p (n.toNat % 4096) = some t →
        (runsSteps s p = true → waits (.param c n f ps) (.param false (n.toNat % 4096) (bit 0 f.toNat) ps c))
        ∧ (runsSteps s p = false → slotFree (n.toNat % 4096) → ∃ u v, exec (.param c n f ps) s = .next (complete u c stDone a 0 0) ∧ others u (n.toNat % 4096)
            ∧ getTbl u p (n.toNat % 4096) = some v ∧ v = { t with par := v.par } ∧ v.par.p = ps ++ t.par.p.drop 11
            ∧ (bit 0 f.toNat = false → v.par.p1 = t.par.p1 ∧ v.par.p2 = t.par.p2)
            ∧ (bit 0 f.toNat = true → v.par.p1 = 0x3F800000 ∧ v.par.p2 = 0x3F800000)))
      ∧ (bit 1 f.toNat = true → isRf s p n.toNat = true → runsSteps s p = false →
        ∃ u k j, getJob s p = some j ∧ exec (.param c n f ps) s = .next (complete u c stDone a 0 0) ∧ u.tables = s.tables
          ∧ getJob u p = some k ∧ (tabGet {} k.rfPar n.toNat).p = ps ++ (tabGet {} j.rfPar n.toNat).p.drop 11)
      ∧ ((if bit 1 f.toNat then isRf s p n.toNat else (getTbl s p (n.toNat % 4096)).isSome) = false → s.tblOps = [] →
        exec (.param c n f ps) s = .next (rejectCmd s c evProgError stInvalid [if bit 1 f.toNat then n.toNat else n.toNat % 4096]))

/-- STAGE, COMMIT and STAGED_CHECK_COMPLETE (R158, R159, R161): STAGE records a generation and completes DONE at once; COMMIT
keeps its command until the target seal and starts the check; the check passes where every staged record is good, and else
raises EV_GEN_FAIL, ends the commit with CKSUM and the row, and leaves the area staged. -/
def Obligations.Generations : Prop :=
  (∀ (s : State) (c : Cmd) (tid : Tid) (t : Table), getTbl s (partOf s c.fn) tid.toNat = some t →
    let p := partOf s c.fn
    let put (v : Option Staged) : State := putTbl s p tid.toNat { t with staged := v }
    (∀ (whole : Bool) (lo hi area rows : W64), runs s c 0x06 →
      let n := if rows = 0 then t.desc.rows else rows.toNat
      let size := if whole then ownShards t (lidxOf s p) * ((n + t.desc.shards - 1) / t.desc.shards) * t.desc.size
        else if t.desc.tier = 2 then (hi.toNat - lo.toNat) * t.desc.size
        else ownShards t (lidxOf s p) * t.desc.ns * t.desc.size
      (t.staged = none → (whole = true ∨ (rows = 0 ∧ lo.toNat < hi.toNat ∧ hi.toNat ≤ t.desc.rows)) → n ≤ 2 ^ 40 → area.toNat % 64 = 0 →
        inTier s p t.desc.homeTier area.toNat (Nat.max size t.desc.size) = true →
        exec (.stage c tid whole lo hi area rows) s = .next (complete (put (some
          { whole := whole, a := if whole then 0 else lo.toNat, b := if whole then n else hi.toNat, area := area.toNat, rows := n }))
          c stDone 0 0 0))
      ∧ (t.staged.isSome = true ∨ area.toNat % 64 ≠ 0 → exec (.stage c tid whole lo hi area rows) s
          = .next (rejectCmd s c evProgError stInvalid [tid.toNat])))
    ∧ (∀ target : W64, runs s c 0x07 →
      (∀ g, t.staged = some g → g.commit = none → exec (.commit c tid target) s
          = .next (put (some { g with commit := some c, target := target.toNat, chk := .running })))
      ∧ (t.staged = none → exec (.commit c tid target) s = .next (rejectCmd s c evProgError stInvalid [tid.toNat]))))
  ∧ ∀ (s : State) (p : Part) (tid : Tid) (t : Table) (g : Staged) (c : Cmd) (j : Job), getTbl s p tid.toNat = some t →
    getJob s p = some j → t.staged = some g → g.commit = some c → g.chk = .running →
    s.flash.bad = [] → calm s →
    let rows := stagedRows t g j.plan.lidx
    allOpen s p (rows.map fun r => (stagedAddr t g j.plan.lidx r, t.desc.size, false)) = true →
    let good (r : Nat) : Bool := (recRead s t (stagedAddr t g j.plan.lidx r) r).isSome
    (rows.all good = true → ∃ u v, exec (.stagedCheckComplete p tid) s = .next u ∧ getTbl u p tid.toNat = some v
      ∧ v = { t with staged := some { g with chk := .passed } } ∧ u.mem = s.mem ∧ u.jobs = s.jobs)
    ∧ ∀ r, rows.find? (fun r => !good r) = some r → ∃ u v, exec (.stagedCheckComplete p tid) s
          = .next (complete (raise u p evGenFail [tid.toNat, r]) c stCksum 0 0 r)
        ∧ getTbl u p tid.toNat = some v ∧ v = { t with staged := some { g with commit := none, chk := .failed } } ∧ u.mem = s.mem
        ∧ u.jobs = s.jobs

/-- EXPORT, EXPORT_WALK_ROW, EXPORT_COMPLETE, TFLUSH and DIGEST_BUILD (R187, R189, R190, R192, R193, R220): EXPORT records the
export on its table; a walk takes the engine's next row from its shadowed copy or its live record, and stops the export at a
record that fails; a finished export completes with its rows and leaves the table; a flush of a table with nothing dirty
completes at once; a build adds its row's hash to the set digest and to the row's range. -/
def Obligations.Exports : Prop :=
  (∀ (s : State) (c : Cmd) (tid : Tid) (st : Bool) (chan : ChanNum) (c0 cc : BitVec 16) (a b x area size : W64) (t : Table),
    runs s c 0x08 → getTbl s (partOf s c.fn) tid.toNat = some t →
    let p := partOf s c.fn
    let late : Prop := ∃ n, lastSealOf s p = some n ∧ x.toNat ≤ n
    let e : Export := { cmd := c, state := st, chan := chan, c0 := c0.toNat, cc := cc.toNat, a := a.toNat, b := b.toNat
                        x := x.toNat, shadow := area.toNat, size := size.toNat }
    (t.exp = none → ¬ late → a.toNat < b.toNat → b.toNat ≤ t.desc.rows → t.desc.pfmt ≠ 3 → 1 ≤ cc.toNat →
      c0.toNat + cc.toNat ≤ t.desc.dim → c0.toNat % 8 = 0 → cc.toNat % 8 = 0 → area.toNat % 64 = 0 → size.toNat % 64 = 0 →
      8192 ≤ size.toNat → inTier s p 1 area.toNat size.toNat = true → (getChan s chan.toNat).part = p →
      (getChan s chan.toNat).use = 0 →
      ∃ u, exec (.exportTable c tid st chan c0 cc a b x area size) s = .next u ∧ u = { s with tables := u.tables, tierLock := u.tierLock }
        ∧ getTbl u p tid.toNat = some { t with exp := some e })
    ∧ (t.exp.isSome = true ∨ late ∨ b.toNat ≤ a.toNat ∨ (getChan s chan.toNat).part ≠ p →
      exec (.exportTable c tid st chan c0 cc a b x area size) s = .next (rejectCmd s c evProgError stInvalid [tid.toNat])))
  ∧ (∀ (s : State) (p : Part) (tid : Tid) (e : Engine) (t : Table) (x : Export) (r : Nat) (rest : List Nat),
    s.pwr.mst = .active → calm s → s.flash.bad = [] → getTbl s p tid.toNat = some t → t.exp = some x → x.active = true →
    x.fail = none → nth [] x.todo e.toNat = r :: rest → e.toNat < x.todo.length → (expRun s x.chan.toNat).isSome = true →
    let src := match x.ents.find? fun y => y.row == r with | some y => y.addr | none => recAddr s t (lidxOf s p) r
    memOpen s p src t.desc.size false = true →
    ∃ u v y, exec (.exportWalkRow p tid e) s = .next u ∧ getTbl u p tid.toNat = some v ∧ v.exp = some y
      ∧ v.desc = t.desc ∧ y.cmd = x.cmd
      ∧ (recRead s t src r = none → y.fail = some stCksum ∧ y.failRow = r ∧ y.written = x.written)
      ∧ (∀ bs, recRead s t src r = some bs → y.todo = setNth x.todo e.toNat rest ∧ y.fail = none
          ∧ ((r, cameoEntry t.desc x bs) ∈ y.cur ∨ x.written < y.written)))
  ∧ (∀ (s : State) (p : Part) (tid : Tid) (t : Table) (x : Export), s.pwr.mst = .active → getTbl s p tid.toNat = some t →
    t.exp = some x →
    (x.fail = none → x.active = true → x.todo.all List.isEmpty = true → x.chunks.all List.isEmpty = true →
      ∃ u, exec (.exportComplete p tid) s = .next (complete u x.cmd stDone x.written 0 0)
        ∧ getTbl u p tid.toNat = some { t with exp := none } ∧ u.mem = s.mem)
    ∧ (∀ st, x.fail = some st → st ≠ stDone → ∃ u, exec (.exportComplete p tid) s
        = .next (complete u x.cmd st x.written 0 (if st = stCksum then x.failRow else 0))
        ∧ getTbl u p tid.toNat = some { t with exp := none })
    ∧ (x.fail = none → x.active = false → exec (.exportComplete p tid) s = .next s))
  ∧ (∀ (s : State) (c : Cmd) (tid : BitVec 16) (t : Table), runs s c 0x09 → tid.toNat < 4096 →
    let p := partOf s c.fn
    let sl := sealOrNone (lastSealOf s p)
    let all := (((tblsOf s p).filter fun t => t.desc.tier == 2).map (·.desc.tid)).filter (· == tid.toNat)
    let left := dirtyRows s t ++ t.wbs.flatMap (·.rows)
    (all = [tid.toNat] → getTbl s p tid.toNat = some t → flushing s p c = false →
      (left = [] → exec (.tflush c tid) s = .next (complete (putTbl s p tid.toNat t) c stDone sl 0 0))
      ∧ (left ≠ [] → ∃ u v, exec (.tflush c tid) s = .next u ∧ getTbl u p tid.toNat = some v ∧ v.flushes = t.flushes ++ [(c, sl, left)]
          ∧ u.jobs = s.jobs))
    ∧ (all = [] → exec (.tflush c tid) s = .next (rejectCmd s c evProgError stInvalid [tid.toNat])))
  ∧ ∀ (s : State) (p : Part) (tid : Tid) (e : Engine) (t : Table) (b : Build) (r : Nat) (rest : List Nat), s.pwr.mst = .active →
    calm s → s.flash.bad = [] → getTbl s p tid.toNat = some t → t.build = some b → nth [] b.todo e.toNat = r :: rest →
    let h := recHash p tid.toNat (s.mem.read (recAddr s t (lidxOf s p) r) t.desc.size)
    memOpen s p (recAddr s t (lidxOf s p) r) t.desc.size false = true →
    ∃ u v, exec (.digestBuild p tid e) s = .next u ∧ getTbl u p tid.toNat = some v ∧ planFrame s u p
      ∧ v = { t with build := some { todo := setNth b.todo e.toNat rest }, set := v.set, ranges := v.ranges }
      ∧ v.set = t.set ^^^ h ∧ tabGet 0 v.ranges (rangeOf t.desc r) = tabGet 0 t.ranges (rangeOf t.desc r) ^^^ h
      ∧ ∀ k, k ≠ rangeOf t.desc r → tabGet 0 v.ranges k = tabGet 0 t.ranges k

/-! ### DMA -/

/-- DESCRIPTOR_FETCH, DESCRIPTOR_FETCH_FAIL, DMA_NOP, DMA_COPY, DMA_FILL, DMA_CLASP, DMA_EXPDST, DMA_TRANSFER_COMPLETE,
CLASP_FLUSH_COMPLETE and DMA_STATUS_WRITE (R402, R403, R407, R408, R410 to R412, R415, R416, R419, R420). A descriptor that
fails its checks moves nothing and ends with its status, with a programming error where it would write the veto-token staging
area (R257); one starts once its accesses may issue and no deferred entry holds its destination; a copy gives the destination the bytes of the source, a fill its
pattern; a Clasp of VIS other than 0 invalidates the windows' buffers; the status goes out as word 7, then word 0. -/
def Obligations.DmaDescriptors : Prop :=
  ∀ (s : State) (ch : ChanNum) (v : Chan), getChan s ch.toNat = v →
    let c := ch.toNat
    let pb := chanPort s c
    let ended (t : State) (r : DescRun) (rest : List DescRun) (st : Option Nat) (n : Nat) : Prop :=
      getChan t c = { v with prog := { r with started := true, status := st, doneb := n } :: rest }
    (∀ (rn : RingNum) (d : BitVec 512), v.bound = some rn →
      let r := getRing s rn.toNat
      r.enable = true → r.err = false → r.kind = 3 →
      (r.fill ≠ 0 → (getPort s (portOf r.fn)).hold = false → (getFn s r.fn).det = false → r.grant ≠ 0 → v.prog.length < 4 →
        s.pwr.mst = .active → s.pwr.pending = none → ∃ t, exec (.descriptorFetch ch d) s = .next t
          ∧ (getRing t rn.toNat).dev = (r.dev + 1) % 2 ^ 32 ∧ (getRing t rn.toNat).grant = r.grant - 1
          ∧ (dOwn d = true → getChan t c = { v with prog := v.prog ++ [{ d := d, idx := r.dev, ring := some rn }] } ∧ t.evLog = s.evLog)
          ∧ (dOwn d = false → raises s t evDmaOwn [rn.toNat, r.dev] ∧ getChan t c = { v with prog := v.prog ++
              [{ d := d, idx := r.dev, ring := some rn, started := true, status := some stInvalid, complete := true, flushed := true }] }))
      ∧ (v.prog = [] → ∃ t, exec (.descriptorFetchFail ch) s = .next t ∧ (getRing t rn.toNat).err = true
          ∧ raises s t evDmaFetch [rn.toNat, r.dev] ∧ t.chans = s.chans)
      ∧ (v.prog ≠ [] → exec (.descriptorFetchFail ch) s = .next s))
    ∧ (∀ (r : DescRun) (rest : List DescRun), v.prog = r :: rest → r.started = false → chanOpen s c = true →
      (descFail s v.part r.d = none → dstHeld s r.d = false ∧ allOpen s v.part (dmaSpans r.d) = true) →
      let len := dLen r.d
      let fails (i : Instr) : Prop := ∀ x, descFail s v.part r.d = some x →
        ∃ t, exec i s = .next t ∧ ended t r rest (some x.1) x.2
          ∧ (hitsStaging r.d = false → t.mem = s.mem ∧ t.tx = s.tx)
          ∧ (hitsStaging r.d = true → raises s t evProgError [dDst r.d])
      let ok : Prop := descFail s v.part r.d = none
      let dram (a : Nat) : Prop := tierOf a = some 1 ∨ tierOf a = some 2
      let filled (t : State) (bs : List Byte) : Prop := t.mem.read (dDst r.d) len = bs
        ∧ ∀ a, a < dDst r.d ∨ dDst r.d + len ≤ a → t.mem.get a = s.mem.get a
      let posted (t : State) (bs : List Byte) : Prop :=
        t.mem = s.mem ∧ t.tx = { portB := pb, addr := dDst r.d, bytes := bs, relaxed := true } :: s.tx
      (dOpc r.d = 0 → fails (.dmaNop ch) ∧ (ok → ∃ t, exec (.dmaNop ch) s = .next t ∧ ended t r rest (some stDone) 0
        ∧ t.mem = s.mem ∧ t.tx = s.tx))
      ∧ (4 < dOpc r.d → ∃ t, exec (.dmaNop ch) s = .next t ∧ ended t r rest (some stInvalid) 0 ∧ t.mem = s.mem ∧ t.tx = s.tx)
      ∧ (dOpc r.d = 3 → fails (.dmaClasp ch) ∧ (ok → ∃ t, exec (.dmaClasp ch) s = .next t ∧ ended t r rest (some stDone) 0
        ∧ t.mem = s.mem ∧ t.tx = s.tx))
      ∧ (dOpc r.d = 4 → fails (.dmaExpdst ch) ∧ (ok → ∃ t, exec (.dmaExpdst ch) s = .next t ∧ ended t r rest none 0
        ∧ t.mem = s.mem ∧ t.tx = s.tx))
      ∧ (dOpc r.d = 2 → fails (.dmaFill ch)
        ∧ (ok → dDwrap r.d = 0 → dDsth r.d = false → dRaw r.d = true → dram (dDst r.d) →
          ∃ t, exec (.dmaFill ch) s = .next t ∧ ended t r rest (some stDone) len ∧ t.tx = s.tx
            ∧ filled t ((List.range (len / 8)).flatMap fun _ => bytesOf 8 (dWord r.d 4)))
        ∧ (ok → dDwrap r.d = 0 → dDsth r.d = true → (getPort s pb).hold = false → ∃ t, exec (.dmaFill ch) s = .next t
            ∧ ended t r rest (some stDone) len ∧ posted t ((List.range (len / 8)).flatMap fun _ => bytesOf 8 (dWord r.d 4))))
      ∧ (dOpc r.d = 1 → dSwrap r.d = 0 → dDwrap r.d = 0 → dRaw r.d = true → ∀ (data : List Byte) (fail : Option W32),
        fails (.dmaCopy ch data fail)
        ∧ (ok → dSrch r.d = false → dDsth r.d = false → dram (dSrc r.d) → dram (dDst r.d) → badOffset s (dSrc r.d) len = none →
          ∃ t, exec (.dmaCopy ch data fail) s = .next t ∧ ended t r rest (some stDone) len ∧ t.tx = s.tx
            ∧ filled t (s.mem.read (dSrc r.d) len))
        ∧ (ok → dSrch r.d = true → dDsth r.d = false → dram (dDst r.d) → data.length = len → fail = none →
          ∃ t, exec (.dmaCopy ch data fail) s = .next t ∧ ended t r rest (some stDone) len ∧ t.tx = s.tx ∧ filled t data)
        ∧ (∀ o : W32, ok → dSrch r.d = true → fail = some o → dDsth r.d = true → ∃ t, exec (.dmaCopy ch data fail) s = .next t
            ∧ ended t r rest (some stBuserr) (o.toNat / 64 * 64))
        ∧ (ok → dSrch r.d = false → dDsth r.d = true → dram (dSrc r.d) → badOffset s (dSrc r.d) len = none → (getPort s pb).hold = false →
          ∃ t, exec (.dmaCopy ch data fail) s = .next t ∧ ended t r rest (some stDone) len ∧ posted t (s.mem.read (dSrc r.d) len))))
    ∧ (∀ (r : DescRun) (rest : List DescRun) (st : Nat), v.prog = r :: rest → r.status = some st → r.complete = false →
      ∃ t, exec (.dmaTransferComplete ch) s = .next t
        ∧ (r.pdesc = none → getChan t c = { v with prog := { r with complete := true, flushed := !(dCc r.d || dOpc r.d == 3) } :: rest })
        ∧ (r.pdesc.isSome = true → getChan t c = { v with prog := rest })
        ∧ (st = stDone → t.evLog = s.evLog)
        ∧ (st = stBuserr → raises s t evDmaBuserr [c, r.doneb]) ∧ (st = stInvalid → raises s t evDmaInvalid [c, r.idx])
        ∧ (st = stAlign → raises s t evDmaAlign [c, r.idx])
        ∧ ∀ k, r.pdesc = some k → st ≠ stDone → raises s t evDmaPlan [k, c]
            ∧ ((getJob s v.part).isSome = true → reported t v.part (vCksum ||| srcDma)))
    ∧ (∀ (r : DescRun) (rest : List DescRun) (ok : Bool), v.prog = r :: rest → r.complete = true → r.flushed = false →
      ∃ t, exec (.claspFlushComplete ch ok) s = .next t
        ∧ (dVis r.d ≠ 0 → t.winA = {} ∧ t.winB = {}) ∧ (dVis r.d = 0 → t.winA = s.winA ∧ t.winB = s.winB)
        ∧ (dVis r.d = 1 ∨ ok = true → getChan t c = { v with prog := { r with flushed := true } :: rest } ∧ t.evLog = s.evLog)
        ∧ (dVis r.d ≠ 1 → ok = false → raises s t evDmaBuserr [c, 0]
            ∧ getChan t c = { v with prog := { r with flushed := true, status := some stBuserr, doneb := 0 } :: rest }))
    ∧ ∀ (r : DescRun) (rest : List DescRun) (rn : RingNum) (st : Nat), v.prog = r :: rest → r.ring = some rn → r.complete = true →
      r.flushed = true → r.status = some st → dCqe r.d = false →
      let q := getRing s rn.toNat
      let a := q.base + 64 * (r.idx % 2 ^ q.size)
      let word (a n : Nat) : HostTx := { portB := portOf q.fn, addr := a, bytes := bytesOf 8 n, relaxed := false }
      (getPort s (portOf q.fn)).hold = false → exec (.dmaStatusWrite ch) s = .next { s with
        chans := tabSet s.chans c { v with prog := rest }
        tx := word a (dWord r.d 0 % 2 ^ 63)
          :: word (a + 56) (r.doneb % 2 ^ 32 + r.aux % 2 ^ 24 * 2 ^ 32 + st * 2 ^ 56) :: s.tx }

/-! ### Plans, holds, re-shards, aborts -/

/-- PLOAD, PAUSE, RESUME and PAIR (R241, R242, R244, R266, R300, R376, R377): the plan is read from its image at the address, the parts
whose byte layout the spec does not give from the command (log entry 33); a first load that passes its checks makes the job,
with the array whole, COLR 0, no mark valid and the deferred queue empty, and runs its self-test; one without a self-test
completes at once. A replacement needs a held job and takes effect at RESUME. PAUSE
completes at once where the job holds and else waits. -/
def Obligations.PlanCommands : Prop :=
  ∀ (s : State) (c : Cmd),
    let p := partOf s c.fn
    let bad (st : Nat) (i : Instr) : Prop := exec i s = .next (rejectCmd s c evProgError st [c.ring.toNat])
    (∀ (addr : W64) (len : W32) (pl : Plan), runs s c 0x10 →
      let fits : Prop := nth 0 s.tdir p.toNat ≠ 0 ∧ addr.toNat % 4096 = 0 ∧ len.toNat ≤ 2 ^ 30 ∧ inTier s p 1 addr.toNat len.toNat = true
      let fill := pl
      let pl := readPlan s.mem addr.toNat len.toNat fill
      let fault := failOffset s p addr.toNat len.toNat pl
      let right : Prop := pl.magic = 0x47524E31 ∧ pl.ver = 1
      (¬ fits → exec (.pload c addr len fill) s = .next (planReject s c evPlanReject none))
      ∧ (fits → pl.magic ≠ 0x47524E31 → exec (.pload c addr len fill) s = .next (planReject s c evPlanReject (some 0)))
      ∧ (fits → pl.magic = 0x47524E31 → pl.ver ≠ 1 → exec (.pload c addr len fill) s = .next (planReject s c evPlanReject (some 4)))
      ∧ (fits → right → pl.icrcOk = false → exec (.pload c addr len fill) s = .next (complete s c stCksum 0 0 0))
      ∧ (fits → right → pl.icrcOk = true → getJob s p = none →
        (planBad s p pl = true → exec (.pload c addr len fill) s = .next (planReject s c evPlanReject fault))
        ∧ (planBad s p pl = false → pl.selftest.isSome = true → ∃ t j, exec (.pload c addr len fill) s = .next t
            ∧ getJob t p = some j ∧ j.plan = pl ∧ j.phase = .testing ∧ j.kind = .selftest ∧ j.loadCmd = some c ∧ j.ls = pl.ls0
            ∧ j.epoch = pl.epoch ∧ j.startLeft = pl.nstart ∧ t.arr.mode = .whole ∧ t.arr.colr = false ∧ t.arr.tvalid = []
            ∧ t.arr.defq = [] ∧ ∀ q, q ≠ p → getJob t q = getJob s q)
        ∧ (planBad s p pl = false → pl.selftest = none → ∃ u j, exec (.pload c addr len fill) s
            = .next (takeReady (readyOwn (startBuilds (complete u c stDone 0 0 0) p) p false) p)
            ∧ getJob u p = some j ∧ j.plan = pl ∧ j.phase = .ready ∧ j.loadCmd = none))
      ∧ ∀ j, fits → right → pl.icrcOk = true → getJob s p = some j →
        (replaces j pl = false → exec (.pload c addr len fill) s = .next (planReject s c evProgError none))
        ∧ (replaces j pl = true → planBad s p pl = true → exec (.pload c addr len fill) s = .next (planReject s c evPlanReject fault))
        ∧ (replaces j pl = true → planBad s p pl = false → pl.selftest = none → j.cmds.resume = none → ∃ u k, exec (.pload c addr len fill) s
            = .next (complete u c stDone 0 0 0)
            ∧ getJob u p = some k ∧ k.plan = j.plan ∧ k.next = some pl ∧ k.phase = .held))
    ∧ (runs s c 0x12 →
      (getJob s p = none → bad stInvalid (.pause c))
      ∧ ∀ j, getJob s p = some j →
        (j.phase = .held → exec (.pause c) s = .next (complete s c stDone (sealOrNone j.lastSeal) 0 0))
        ∧ (j.phase ≠ .held → ∃ t, exec (.pause c) s = .next t ∧ onlyJob s t p
            ∧ getJob t p = some { j with cmds := { j.cmds with pause := j.cmds.pause ++ [c] } }))
    ∧ (runs s c 0x13 →
      (getJob s p = none → bad stInvalid (.resume c))
      ∧ ∀ j, getJob s p = some j →
        (j.phase ≠ .held ∨ j.cmds.resume.isSome = true → bad stInvalid (.resume c))
        ∧ (j.phase = .held → j.cmds.resume = none → (j.next.getD j.plan).selftest.isSome = true →
          ∃ t k, exec (.resume c) s = .next t ∧ getJob t p = some k ∧ k.plan = j.next.getD j.plan ∧ k.next = none
            ∧ k.phase = .testing ∧ k.kind = .selftest ∧ k.cmds.resume = some c ∧ k.resuming = true ∧ k.recLeft = k.plan.nrec
            ∧ k.lastSeal = j.lastSeal))
    ∧ ∀ (base size : W64), runs s c 0x14 →
      (getJob s p = none → bad stInvalid (.pair c base size))
      ∧ ∀ j, getJob s p = some j →
        (j.phase ≠ .held ∨ j.twin.cmd.isSome = true ∨ size.toNat % 4096 ≠ 0 ∨ base.toNat % 64 ≠ 0
            ∨ inTier s p 1 base.toNat size.toNat = false → bad stInvalid (.pair c base size))
        ∧ (j.phase = .held → j.twin.cmd = none → size.toNat % 4096 = 0 → base.toNat % 64 = 0 →
            inTier s p 1 base.toNat size.toNat = true → ∃ t k, exec (.pair c base size) s = .next t ∧ onlyJob s t p
            ∧ getJob t p = some k ∧ k = { j with twin := k.twin } ∧ k.twin.cmd = some c ∧ k.twin.logBase = base.toNat
            ∧ k.twin.logSize = size.toNat ∧ k.twin.logPtr = 0 ∧ k.twin.paired = false)

/-- RESHARD, RESHARD_CHECK_COMPLETE, READY_VOTE, RESHARD_MOVE_MESSAGE and COMMIT_VOTE (R323 to R327, R331, R351): the command waits for
its target seal; the check says whether the module votes ready; the votes combine up the tree, and their results come down; a
ready vote of 1 starts the moves; a moved row stands at its place in the new area and is acknowledged; the commit makes the new
plan and epoch current; a failed vote ends the command and keeps the old. -/
def Obligations.Reshards : Prop :=
  (∀ (s : State) (c : Cmd) (addr target epoch : W64) (pl : Plan) (j : Job), runs s c 0x11 →
    let p := partOf s c.fn
    getJob s p = some j →
    let early : Prop := match j.lastSeal with | none => j.plan.step0 ≤ target.toNat | some n => n < target.toNat
    let ok : Prop := early ∨ ((j.phase = .held ∨ j.sealWork = true) ∧ j.lastSeal = some target.toNat)
    (j.reshard = none → addr.toNat % 4096 = 0 → inTier s p 1 addr.toNat 256 = true → j.epoch < epoch.toNat → ok →
      ∃ t, exec (.reshard c addr target epoch pl) s = .next t ∧ onlyJob s t p ∧ getJob t p = some
        { j with reshard := some { cmd := c, plan := readPlan s.mem addr.toNat (imageEnd s.mem addr.toNat) pl
                                   image := addr.toNat, target := target.toNat, epoch := epoch.toNat } })
    ∧ (j.reshard.isSome = true ∨ addr.toNat % 4096 ≠ 0 ∨ epoch.toNat ≤ j.epoch ∨ ¬ ok →
      exec (.reshard c addr target epoch pl) s = .next (rejectCmd s c evProgError stInvalid [c.ring.toNat])))
  ∧ ∀ (s : State) (p : Part) (j : Job) (r : Reshard), getJob s p = some j → j.reshard = some r →
    let here : Prop := activeReshard j = some r
    let after (t : State) (r' : Reshard) : Prop := ∃ k, getJob t p = some k ∧ k.reshard = some r' ∧ k.plan = j.plan ∧ k.epoch = j.epoch
    let ends (i : Instr) : Prop := ∃ u, exec i s = .next (reshardEnd (complete u r.cmd (r.fail.getD stAborted) 0 0 0) p)
      ∧ getJob u p = some { j with reshard := none, readyTree := {}, commitTree := {} } ∧ raises s u evReshardFail [r.target]
    let parent (src : Lidx) : Prop := j.plan.lidx ≠ 0 ∧ src.toNat = parentOf j.plan
    let child (src : Lidx) : Prop := src.toNat ∈ kidsOf j.plan ∧ ¬ parent src
    (r.checked = false → r.ready = none → r.started = false → (activeReshard j = none ∨ j.plan.lidx ≠ 0) →
      let voted (f : Option Nat) : Option Bool := if (activeReshard j).isSome then some (f.isNone && !r.aborted) else none
      (r.plan.icrcOk = true → reshardBad s p j r = false → ∃ t, exec (.reshardCheckComplete p) s = .next t
        ∧ after t { r with checked := true, fail := none, ready := voted none })
      ∧ (r.plan.icrcOk = false → ∃ t, exec (.reshardCheckComplete p) s = .next t
        ∧ after t { r with checked := true, fail := some stCksum, ready := voted (some stCksum) })
      ∧ (r.plan.icrcOk = true → reshardBad s p j r = true → ∃ t, exec (.reshardCheckComplete p) s = .next t
        ∧ after t { r with checked := true, fail := some stInvalid, ready := voted (some stInvalid) }))
    ∧ (here → r.ready.isSome = true → r.started = false → ∀ src : Lidx,
      (parent src → r.ready = some true → ∃ t r', exec (.readyVote p ⟨src, true⟩) s = .next t ∧ after t r' ∧ r'.started = true ∧ r'.cmd = r.cmd
          ∧ raises s t evReshardStart [r.target]
          ∧ ((movedTables (raise s p evReshardStart [r.target]) p r.plan).any (fun t => !t.1.flushes.isEmpty) = false →
            r.moved = false → r'.moved = true))
      ∧ (parent src → ends (.readyVote p ⟨src, false⟩)) ∧ (parent src → r.ready = some false → ends (.readyVote p ⟨src, true⟩)))
    ∧ (∀ (src : Lidx) (v : Bool), child src → src.toNat ∉ j.readyTree.kids →
      let tree := j.readyTree.join (some src.toNat) v
      (tree.full j.plan = false ∨ j.plan.lidx ≠ 0 → ∃ t, exec (.readyVote p ⟨src, v⟩) s = .next t ∧ planFrame s t p
        ∧ t.tables = s.tables ∧ getJob t p = some { j with readyTree := tree })
      ∧ (here → r.ready = some true → r.started = false → tree.full j.plan = true → j.plan.lidx = 0 →
        (tree.vote = true → ∃ t, exec (.readyVote p ⟨src, v⟩) s = .next t ∧ raises s t evReshardStart [r.target])
        ∧ (tree.vote = false → ends (.readyVote p ⟨src, v⟩))))
    ∧ (here → r.ready = some true → r.voted = none →
      (j.plan.lidx ≠ 0 ∨ ({ j.commitTree with own := true }).full j.plan = false) → ∀ src : Lidx,
      (∀ (tid : Tid) (row : RowIx) (b : List Byte) (x : TableRef) (v : Table),
        r.plan.refs.find? (fun x => x.tid == tid.toNat) = some x → getTbl s p tid.toNat = some v →
        r.rowsIn.any (fun y => y.1 == tid.toNat && y.2.1 == row.toNat) = false →
        let a := homeAddr (movedTable s v x) j.plan.lidx row.toNat
        t0End ≤ a → ∃ t r', exec (.reshardMoveMessage p ⟨src, (.row tid row b)⟩) s = .next t ∧ after t r'
          ∧ r'.rowsIn = r.rowsIn ++ [(tid.toNat, row.toNat, b)]
          ∧ (v.desc.tier ≠ 2 → t.mem.read a b.length = b)
          ∧ ∀ k, k < a ∨ (a + b.length ≤ k ∧ a + (setDirty b false).length ≤ k) → t.mem.get k = s.mem.get k)
      ∧ (∀ (key : W32) (role first : Nat) (b : List Byte), (keyIn r.plan key.toNat).isSome = true →
        ∃ t r', exec (.reshardMoveMessage p ⟨src, (.dense key role first b)⟩) s = .next t ∧ after t r'
          ∧ r'.denseIn = r.denseIn ++ [(key.toNat, role, first, b)])
      ∧ ∃ t r', exec (.reshardMoveMessage p ⟨src, .ack⟩) s = .next t ∧ after t r' ∧ r'.acks = r.acks - 1 ∧ t.mem = s.mem)
    ∧ ((activeReshard j = none ∨ r.ready ≠ some true ∨ r.voted.isSome = true) → ∀ (src : Lidx) (m : MoveMsg),
      exec (.reshardMoveMessage p ⟨src, m⟩) s = .next (outOfState s p 0x12))
    ∧ (here → r.voted.isSome = true → ∀ src : Lidx,
      (parent src → r.voted = some true → ∃ t k, exec (.commitVote p ⟨src, true⟩) s = .next t ∧ getJob t p = some k ∧ k.plan = r.plan
          ∧ k.epoch = r.epoch ∧ k.reshard = none)
      ∧ (parent src → ends (.commitVote p ⟨src, false⟩)) ∧ (parent src → r.voted = some false → ends (.commitVote p ⟨src, true⟩)))
    ∧ (∀ (src : Lidx) (v : Bool), child src → src.toNat ∉ j.commitTree.kids →
      let tree := j.commitTree.join (some src.toNat) v
      (tree.full j.plan = false ∨ j.plan.lidx ≠ 0 → ∃ t, exec (.commitVote p ⟨src, v⟩) s = .next t ∧ planFrame s t p
        ∧ t.tables = s.tables ∧ getJob t p = some { j with commitTree := tree })
      ∧ (here → r.voted = some true → tree.full j.plan = true → j.plan.lidx = 0 →
        (tree.vote = true → ∃ t k, exec (.commitVote p ⟨src, v⟩) s = .next t ∧ getJob t p = some k ∧ k.plan = r.plan
          ∧ k.epoch = r.epoch ∧ k.reshard = none)
        ∧ (tree.vote = false → ends (.commitVote p ⟨src, v⟩))))

/-- ABORT_COMMAND, ABORT_RING, ABORT_FUNCTION, ABORT_JOB, ATTACH and ADOPT (R393, R394, R396): an ABORT ends what it names with
ABORTED and completes DONE with the number; one without the right to its target ends INVALID with EV_CMD_RIGHTS; ATTACH and
ADOPT deliver the summary of the lost port and take its functions out of detachment, ADOPT to the other port's PF. -/
def Obligations.AbortsAndAttachment : Prop :=
  ∀ (s : State) (c : Cmd),
    let p := partOf s c.fn
    let refused (i : Instr) : Prop := exec i s = .next (rejectCmd s c evCmdRights stInvalid [c.ring.toNat, c.opc])
    (runs s c 0x18 →
      (∀ (ring : RingNum) (tag : BitVec 16),
        let r := getRing s ring.toNat
        let l := (r.old ++ r.prog).find? fun x => x.tag == tag.toNat && x != c
        (abortRight c r.fn = false → refused (.abortCommand c ring tag) ∧ refused (.abortRing c ring))
        ∧ (abortRight c r.fn = true → l = none → exec (.abortCommand c ring tag) s = .next (complete s c stDone 0 0 0))
        ∧ (∀ x, abortRight c r.fn = true → l = some x → x.ring = ring → 2 ≤ x.opc → x.opc ≤ 5 →
            isReshard s (partOf s x.fn) x = false → exec (.abortCommand c ring tag) s = .next
              (complete (complete { s with tblOps := s.tblOps.filter fun o => o.2.cmd != x } x stAborted 0 0 0) c stDone 1 0 0))
        ∧ (abortRight c r.fn = true → ∃ u, exec (.abortRing c ring) s = .next (completeAt u c (getRing u ring.toNat).dev stDone
              (if r.kind = 3 then (getChan s r.link).prog.length else ((r.old ++ r.prog).filter (· != c)).length) 0 0)
            ∧ (getRing u ring.toNat).enable = false ∧ (getRing u ring.toNat).grant = 0))
      ∧ (∀ f : FnNum,
        let ok := isPf c.fn.toNat && (pfOf f.toNat == c.fn.toNat || (getPort s (portOf f.toNat)).hold)
        (ok = false → refused (.abortFunction c f))
        ∧ (ok = true → ∃ u n, exec (.abortFunction c f) s = .next (complete u c stDone n 0 0) ∧ (getFn u f.toNat).dbReads = []
            ∧ ∀ k, (getRing s k).fn = f.toNat → (getRing u k).enable = false))
      ∧ (isPf c.fn.toNat = false → refused (.abortJob c))
      ∧ (isPf c.fn.toNat = true →
        (getJob s p = none → exec (.abortJob c) s = .next (complete s c stDone 0 0 0))
        ∧ ∀ j, getJob s p = some j →
          (j.phase = .held ∨ j.phase = .testing → exec (.abortJob c) s = .next (complete s c stDone 0 0 0))
          ∧ (j.phase ≠ .held → j.phase ≠ .testing → ∃ t, exec (.abortJob c) s = .next t ∧ onlyJob s t p ∧ getJob t p = some
              { j with withdrawn := true, cmds := { j.cmds with abort := j.cmds.abort ++ [c] } })))
    ∧ ∀ (q : Part) (addr : W64) (size : W32),
      let sent (u : State) (pb : Bool) : Prop := (getPort s (portOf c.fn.toNat)).hold = false →
        u.tx = { portB := portOf c.fn.toNat, addr := addr.toNat, bytes := summary s pb q } :: s.tx
      let small (i : Instr) (pb : Bool) : Prop := exec i s = .next (complete (raiseF s evProgError stInvalid c.fn.toNat (some p)
        [c.ring.toNat]) c stInvalid (summary s pb q).length 0 0)
      let none' (i : Instr) : Prop := exec i s = .next (rejectCmd s c evProgError stInvalid [c.ring.toNat])
      (runs s c 0x19 →
        let pb := portOf c.fn.toNat
        (detached s pb q = [] ∨ size.toNat % 64 ≠ 0 → none' (.attach c q addr size))
        ∧ (detached s pb q ≠ [] → size.toNat % 64 = 0 → size.toNat < (summary s pb q).length → small (.attach c q addr size) pb)
        ∧ (detached s pb q ≠ [] → size.toNat % 64 = 0 → (summary s pb q).length ≤ size.toNat →
          ∃ u, exec (.attach c q addr size) s = .next (complete u c stDone (summary s pb q).length 0 0) ∧ sent u pb
            ∧ (∀ f ∈ detached s pb q, getFn u f = { getFn s f with det := false }) ∧ u.rings = s.rings ∧ u.mem = s.mem
            ∧ ∀ k ∈ (getPort u pb).kept, k.part ≠ q))
      ∧ (runs s c 0x1A →
        let pb := !portOf c.fn.toNat
        (detached s pb q = [] ∨ size.toNat % 64 ≠ 0 → none' (.adopt c q addr size))
        ∧ (detached s pb q ≠ [] → size.toNat % 64 = 0 → size.toNat < (summary s pb q).length → small (.adopt c q addr size) pb)
        ∧ (detached s pb q ≠ [] → size.toNat % 64 = 0 → (summary s pb q).length ≤ size.toNat →
          ∃ u, exec (.adopt c q addr size) s = .next (complete u c stDone (summary s pb q).length 0 0) ∧ sent u pb
            ∧ u.pctl = setNth s.pctl q.toNat c.fn.toNat ∧ u.rings = s.rings ∧ u.mem = s.mem
            ∧ (∀ f ∈ detached s pb q, (getFn u f).det = false ∧ (getFn u f).pv = false ∧ (getFn u f).tgrant = false
                ∧ (getFn u f).adopter = c.fn.toNat)
            ∧ ∀ k ∈ (getPort u pb).kept, k.part ≠ q))

/-! ### The gradient exchange, copies, chains -/

/-- FIRST_HOP_MESSAGE, SPINE_HOP_MESSAGE, RELEASE_CHUNK, CHUNK_UPDATE and COPY_HASH (R276, R278, R286 to R288, R293, R330): a message
of another epoch is discarded as stale, one of a later step waits (the model's own, log entry 107), one of the wrong form is
discarded as badly formed, a good one is kept; the chunks whose contributions are in are released once each, in the order in which they
became complete, after the gate, with the exact sums scaled by 2^-LS and rounded once; the update of a released chunk
is noted once, and a gradient that is not finite is reported. -/
def Obligations.ExchangeMessages : Prop :=
  ∀ (s : State) (p : Part) (j : Job), getJob s p = some j →
    (∀ m : DMsg, epochOk j m.epoch = false →
      exec (.firstHopMessage p m) s = .next (staleMsg s p m.src.toNat kFirst)
      ∧ exec (.spineHopMessage p m) s = .next (staleMsg s p m.src.toNat kSpine))
    ∧ (∀ m : DMsg, epochOk j m.epoch = true →
      let e := m.entry.toNat
      let x := xent j.plan e
      let c := x.chunk (myPos j x % x.din)
      let d : DenseIn := { entry := e, kind := kFirst, src := m.src.toNat, first := m.first, units := m.units, body := m.body }
      let fits : Prop := x.kind = 0 ∧ e < j.plan.exch.length ∧ m.step % 65536 = nextStep s p % 65536 ∧ 0 < m.units
        ∧ c.1 ≤ m.first ∧ m.first + m.units ≤ c.1 + c.2 ∧ m.src.toNat ∈ podMembers j x
        ∧ m.body.length ∈ gradLens' j x kFirst m.units
      (laterStep s p m.step = true → exec (.firstHopMessage p m) s = .next s)
      ∧ (laterStep s p m.step = false → ¬ fits → exec (.firstHopMessage p m) s = .next (badFormat s p m.src.toNat kFirst))
      ∧ (fits → (denseFor j e kFirst m.src.toNat m.first).isSome = true → exec (.firstHopMessage p m) s = .next s)
      ∧ (fits → denseFor j e kFirst m.src.toNat m.first = none → ∃ t k, exec (.firstHopMessage p m) s = .next t ∧ planFrame s t p
          ∧ getJob t p = some k ∧ k.plan = j.plan ∧ d ∈ k.dense
          ∧ (j.plan.level = 0 → voidIn d x = true → reported t p (vNonfin ||| srcXch))))
    ∧ (∀ m : DMsg, epochOk j m.epoch = true →
      let e := m.entry.toNat
      let x := xent j.plan (xent j.plan e).linke
      let sh := x.shard (myPos j x)
      let d : DenseIn := { entry := e, kind := kSpine, src := m.src.toNat, first := m.first, units := m.units, body := m.body }
      let fits : Prop := (xent j.plan e).kind = 1 ∧ e < j.plan.exch.length ∧ m.step % 65536 = nextStep s p % 65536 ∧ 0 < m.units
        ∧ sh.1 ≤ m.first ∧ m.first + m.units ≤ sh.1 + sh.2 ∧ m.src.toNat ∈ rankMembers j x ∧ 1 < x.dout
        ∧ m.body.length ∈ gradLens' j x kSpine m.units
      (laterStep s p m.step = true → exec (.spineHopMessage p m) s = .next s)
      ∧ (laterStep s p m.step = false → ¬ fits → exec (.spineHopMessage p m) s = .next (badFormat s p m.src.toNat kSpine))
      ∧ (fits → denseFor j e kSpine m.src.toNat m.first = none → ∃ t k, exec (.spineHopMessage p m) s = .next t ∧ onlyJob s t p
          ∧ getJob t p = some k ∧ k.dense = j.dense ++ [d]
          ∧ (let y := xent j.plan e
             chunksIn k e = chunksIn j e ++ (List.range (chunkCount j y)).filter fun c => !(chunksIn j e).contains c && chunkIn k e y c)
          ∧ (j.plan.level = 0 → voidIn d x = true → reported t p (vNonfin ||| srcXch))))
    ∧ (∀ (e : XIx) (chunk : W32) (r : XRun),
      let x := xent j.plan e.toNat
      let c := chunk.toNat
      let us := chunkUnits j x c
      xrunOf j e.toNat = some r →
      (j.gate = true → j.vetoed = false → x.kind = 1 → xStarted j e.toNat = true → us ≠ [] →
        (chunksIn j e.toNat).find? (fun d => !r.released.contains d) = some c →
        ∃ t k r', exec (.releaseChunk p e chunk) s = .next t ∧ planFrame s t p ∧ getJob t p = some k ∧ k.plan = j.plan
          ∧ xrunOf k e.toNat = some r' ∧ r'.released = r.released ++ [c] ∧ r'.updated = r.updated
          ∧ (flushOf j e.toNat = none → tabGet [] r'.g c = us.flatMap fun u =>
              let lo := (shardEls j x).1 + 4096 * c
              let hi := lo + Nat.min 4096 ((shardEls j x).1 + (shardEls j x).2 - lo)
              let sp := x.span u
              let a := Nat.max lo sp.1
              (slice (unitSums j e.toNat x u).1 (a - sp.1) (Nat.min hi (sp.1 + sp.2) - a)).map
                fun v => (toOpalR .away ((v.add .zero).scale (-j.ls)).toRes).1))
      ∧ (j.gate = false ∨ j.vetoed = true ∨ c ∈ r.released → exec (.releaseChunk p e chunk) s = .next s)
      ∧ (allOpen s p (chunkAccess s p x) = true → c ∈ r.released → c ∉ r.updated → j.vetoed = false → ∃ t k r', exec (.chunkUpdate p e chunk) s = .next t ∧ planFrame s t p
          ∧ getJob t p = some k ∧ k.plan = j.plan ∧ xrunOf k e.toNat = some r' ∧ r'.updated = r.updated ++ [c]
          ∧ (calm s → s.poison = [] → ∀ g ∈ tabGet [] r.g c, (ofOpal g).isFinite = false → reported t p (vNonfin ||| srcRow)))
      ∧ (allOpen s p (chunkAccess s p x) = true → c ∉ r.released ∨ c ∈ r.updated ∨ j.vetoed = true → exec (.chunkUpdate p e chunk) s = .next s)
      ∧ (x.kind = 2 → r.hashSent = false → (x.shard (myPos j x)).2 ≠ 0 → (doneUnits j x.linke x).length = (x.shard (myPos j x)).2 →
          ∃ t k r', exec (.copyHash p e) s = .next t ∧ planFrame s t p ∧ getJob t p = some k
            ∧ xrunOf k e.toNat = some r' ∧ r' = { r with hashSent := true })
      ∧ (x.kind ≠ 2 ∨ r.hashSent = true ∨ (x.shard (myPos j x)).2 = 0 → exec (.copyHash p e) s = .next s))

/-- ALLGATHER_SPINE_MESSAGE, ALLGATHER_POD_MESSAGE, COPY_DIGEST_MESSAGE, SHARD_REREQUEST_MESSAGE, CHAIN_HOP_MESSAGE,
EXPERT_TOKEN_MESSAGE and SEQUENCE_BLOCK_MESSAGE (R290, R293, R294, R298, R318, R320, R330): the units of a shard are kept as they
came; a whole shard is compared with its owner's digest, asked for once more where they differ, and else marked suspect with
HOLD; a refresh that agrees takes the shard off the list, one that differs leaves it suspect (R294, log entry 139); a chain hop that has come ends
its entry's work; a router deals its tokens to the replicas, and a replica takes those dealt to it, laid out in canonical order; a block is
kept, its rows' partials are formed, and a row with all its partials is combined in ascending block order; a message of a later
step waits (the model's own, log entry 107). -/
def Obligations.GatherMessages : Prop :=
  ∀ (s : State) (p : Part) (j : Job), getJob s p = some j →
    (∀ m : DMsg, epochOk j m.epoch = false →
      exec (.allgatherSpineMessage p m) s = .next (staleMsg s p m.src.toNat kGather)
      ∧ exec (.allgatherPodMessage p m) s = .next (staleMsg s p m.src.toNat kPod)
      ∧ exec (.copyDigestMessage p m) s = .next (staleMsg s p m.src.toNat kDigest)
      ∧ exec (.shardRerequestMessage p m) s = .next (staleMsg s p m.src.toNat kDigest)
      ∧ exec (.chainHopMessage p m) s = .next (staleMsg s p m.src.toNat kChain))
    ∧ (∀ m : DMsg, epochOk j m.epoch = true →
      let e := m.entry.toNat
      let x := xent j.plan e
      let q := x.ownerPos m.first
      let sh := x.shard q
      let h := shardOf j e q
      let mine := myPos j x
      let good : Prop := x.kind = 2 ∧ e < j.plan.exch.length ∧ m.step % 65536 = nextStep s p % 65536 ∧ 0 < m.units
      let sender : Prop := m.src.toNat = shardSrc j x q ∨ (h.suspect = true ∧ m.src.toNat = x.memberAt q)
      let spine : Prop := q / x.din ≠ mine / x.din ∧ x.memberAt q = m.src.toNat
      let units : Prop := sh.1 ≤ m.first ∧ m.first + m.units ≤ sh.1 + sh.2 ∧ q ≠ mine
        ∧ m.body.length = roundUp (m.units * copyLen x) 8
      let keeps (t : State) : Prop := ∃ k, getJob t p = some k ∧ k.plan = j.plan ∧
        ∀ i, i < m.units → tabFind (shardOf k e q).units (m.first + i) = some (slice m.body (i * copyLen x) (copyLen x))
      (good → sender → units → h.digest = none →
        (spine → ∃ t, exec (.allgatherSpineMessage p m) s = .next t ∧ planFrame s t p ∧ keeps t)
        ∧ (¬ spine → ∃ t, exec (.allgatherPodMessage p m) s = .next t ∧ planFrame s t p ∧ keeps t))
      ∧ (good → sender → q ≠ mine → (m.first, m.units) = sh → m.body.length = 16 →
        let d := natOf m.body
        ∃ t k, exec (.copyDigestMessage p m) s = .next t ∧ planFrame s t p ∧ getJob t p = some k ∧ k.plan = j.plan
          ∧ (h.full x = false → shardOf k e q = { h with digest := some d })
          ∧ (h.full x = true → d = copyHash (h.bytes x) → h.refresh = false → shardOf k e q = { h with digest := some d, suspect := false })
          ∧ (h.full x = true → d = copyHash (h.bytes x) → h.refresh = true → (k.shards.any fun g => g.entry == e && g.owner == q) = false)
          ∧ (h.full x = true → d ≠ copyHash (h.bytes x) → h.refresh = true →
              shardOf k e q = { h with digest := none, units := [], refresh := false } ∧ raises s t evXchDigest [e, q])
          ∧ (h.full x = true → d ≠ copyHash (h.bytes x) → h.refresh = false → h.tries = 0 →
              shardOf k e q = { h with digest := none, units := [], tries := 1 })
          ∧ (h.full x = true → d ≠ copyHash (h.bytes x) → h.refresh = false → h.tries ≠ 0 →
              shardOf k e q = { h with digest := some d, suspect := true } ∧ k.hold = true ∧ reported t p (vCksum ||| srcXch)))
      ∧ (x.kind ≠ 2 ∨ (xStarted j e = false ∧ j.phase ≠ .held) →
        exec (.shardRerequestMessage p m) s = .next (badFormat s p m.src.toNat kDigest))
      ∧ (x.kind = 2 → (xStarted j e = true ∨ j.phase = .held) → (m.first, m.units) = sh → m.src.toNat ∈ x.members → q = mine →
        let u := readCopies s p x sh.1 sh.2
        let b := (List.range sh.2).flatMap fun k => copyBytes u p x (sh.1 + k)
        exec (.shardRerequestMessage p m) s = .next (sendDense (sendDense u p m.src.toNat
          (if x.posOf m.src.toNat / x.din = mine / x.din then kPod else kGather) e sh.1 sh.2 b)
          p m.src.toNat kDigest e sh.1 sh.2 (bytesOf 16 (copyHash b))))
      ∧ (laterStep s p m.step = true → ∀ c ∈ [Instr.allgatherSpineMessage p m, .allgatherPodMessage p m, .copyDigestMessage p m], exec c s = .next s)
      ∧ (laterStep s p m.step = false → ¬ good → exec (.allgatherSpineMessage p m) s = .next (badFormat s p m.src.toNat kGather)
        ∧ exec (.allgatherPodMessage p m) s = .next (badFormat s p m.src.toNat kPod)
        ∧ exec (.copyDigestMessage p m) s = .next (badFormat s p m.src.toNat kDigest)))
    ∧ (∀ m : DMsg, epochOk j m.epoch = true →
      let e := m.entry.toNat
      let x := xent j.plan e
      let t := tens s p x.src
      let n := t.rows * t.cols
      x.kind = 3 → e < j.plan.exch.length → m.step % 65536 = nextStep s p % 65536 → x.recv = true → x.peer = m.src.toNat → m.first = 0 →
      m.units = ceilDiv n 64 → 0 < m.units → m.body.length = roundUp (4 * n) 8 → j.dense.any (fun d => d.entry == e && d.kind == kChain) = false →
      ∃ u k, exec (.chainHopMessage p m) s = .next u ∧ planFrame s u p ∧ getJob u p = some k ∧ k.plan = j.plan
        ∧ { entry := e, kind := kChain, src := m.src.toNat, first := 0, units := m.units, body := m.body } ∈ k.dense
        ∧ ∀ r, xrunOf j e = some r → r.done = false → xrunOf k e = some { r with done := true })
    ∧ ∀ m : RMsg,
      let g := m.group.toNat
      let x := nth {} j.plan.experts g
      let me := j.plan.lidx
      (∀ (ts : List ExpTok) (b : SeqBlock),
        (epochOk j m.epoch = false → exec (.expertTokenMessage p ⟨m, ts⟩) s = .next (staleMsg s p m.src.toNat m.round)
          ∧ exec (.sequenceBlockMessage p ⟨m, b⟩) s = .next (staleMsg s p m.src.toNat m.round))
        ∧ (epochOk j m.epoch = true → laterStep s p m.step = true →
          exec (.expertTokenMessage p ⟨m, ts⟩) s = .next s ∧ exec (.sequenceBlockMessage p ⟨m, b⟩) s = .next s)
        ∧ (epochOk j m.epoch = true → laterStep s p m.step = false →
          (m.step % 65536 ≠ nextStep s p % 65536 ∨ j.plan.experts.length ≤ g →
            exec (.expertTokenMessage p ⟨m, ts⟩) s = .next (badFormat s p m.src.toNat m.round))
          ∧ (m.step % 65536 ≠ nextStep s p % 65536 ∨ blockFits me m.src.toNat b = false →
            exec (.sequenceBlockMessage p ⟨m, b⟩) s = .next (badFormat s p m.src.toNat m.round))))
      ∧ (∀ ts : List ExpTok, epochOk j m.epoch = true → m.step % 65536 = nextStep s p % 65536 → g < j.plan.experts.length →
        (∀ y ∈ ts, y.expert < x.experts.length) →
        (m.src.toNat = me → ∃ t k, exec (.expertTokenMessage p ⟨m, ts⟩) s = .next t ∧ planFrame s t p ∧ t.mem = s.mem ∧ getJob t p = some k
          ∧ k = { j with expertIn := k.expertIn, expertLay := k.expertLay }
          ∧ k.expertIn = j.expertIn ++ ((List.range x.slots.length).filter fun d => slotModule x d == me).flatMap fun d =>
              (canonical (ts.filter fun y => dealSlot x y == d)).map fun y => (g, d, y))
        ∧ (m.src.toNat ≠ me → (∀ y ∈ ts, slotModule x (dealSlot x y) = me) →
          ∃ t k, exec (.expertTokenMessage p ⟨m, ts⟩) s = .next t ∧ onlyJob s t p ∧ getJob t p = some k
            ∧ k.expertIn = j.expertIn ++ ts.map (fun y => (g, dealSlot x y, y))
            ∧ (∀ y ∈ ts, tabFind k.expertLay (65536 * g + dealSlot x y) = some (expertRows x
                (nth {} x.experts (nth (0, 0) x.slots (dealSlot x y)).2).cap
                ((k.expertIn.filter fun z => z.1 == g && z.2.1 == dealSlot x y).map (·.2.2))))
            ∧ (65536 < m.left → reported t p (vSpill ||| srcXch))))
      ∧ ∀ b : SeqBlock, epochOk j m.epoch = true → m.step % 65536 = nextStep s p % 65536 → blockFits me m.src.toNat b = true →
        ∃ t k, exec (.sequenceBlockMessage p ⟨m, b⟩) s = .next t ∧ planFrame s t p ∧ t.mem = s.mem ∧ getJob t p = some k
          ∧ k.seqIn = j.seqIn ++ [{ src := m.src.toNat, round := m.round, body := m.body }]
          ∧ ∀ r, b.rows = [r] → b.j < attended b r.row →
            let mine (y : SeqPart) : Bool := y.seq == g && y.row == r.row
            j.parts.any (fun y => mine y && y.blk == b.j) = false →
            let ps := sortBy (·.blk) ({ seq := g, row := r.row, blk := b.j, val := (blockPartial s b r).1 } :: j.parts.filter mine)
            (ps.length < attended b r.row → k.parts = j.parts.filter (fun y => !mine y) ++ ps ∧ k.seqOut = j.seqOut)
            ∧ (attended b r.row ≤ ps.length → k.parts = j.parts.filter (fun y => !mine y)
                ∧ tabFind k.seqOut (g * 2 ^ 32 + r.row) = some (rowOutput s b.df (ps.filterMap (·.val))).1)

/-! ### The redundant pair -/

/-- TWIN_TOKEN_MESSAGE, TWIN_MESSAGE, TWIN_LOST, HISTORY_POLL, BISECTION_LIST_MESSAGE, REPAIR_DATA_MESSAGE, REPAIR_ROUND_COMPLETE and
FAILED_RECORD_REPAIR (R300 to R309): equal digests make the seal the agreed one, digests that differ set HOLD and begin the
repair; the history polls of both fabrics end, then the bisection begins; a line that agrees is divided no further, a row that differs is repaired from the source's copy and logged; a
round ends the repair with the digests equal, or after the third. -/
def Obligations.Twins : Prop :=
  ∀ (s : State) (p : Part) (j : Job), getJob s p = some j →
    let w := j.twin
    let same (t : State) (w' : Twin) : Prop := onlyJob s t p ∧ getJob t p = some { j with twin := w' }
    (∀ v : Token, (w.paired = true → v.step = nextStep s p →
        ∃ t, exec (.twinTokenMessage p v) s = .next t ∧ same t { w with token := some v })
      ∧ (w.paired = false ∨ v.step ≠ nextStep s p → exec (.twinTokenMessage p v) s = .next s))
    ∧ (∀ (step : W64) (dig : BitVec 128) (grown bad : Bool),
      let msg := (step.toNat, dig.toNat, grown, bad)
      (w.paired = true → j.phase = .running → step.toNat = j.step → w.msg = none →
        (w.own = none → ∃ t, exec (.twinMessage p step dig grown bad) s = .next t ∧ same t { w with msg := some msg })
        ∧ (∀ d g, w.own = some (j.step, d, g, false) → bad = false → j.sealSent = false →
          ∃ t k, exec (.twinMessage p step dig grown bad) s = .next t ∧ planFrame s t p ∧ getJob t p = some k ∧ k.sealSent = true
            ∧ (d = dig.toNat → k.twin = { w with msg := some msg, agreed := some j.step, histAt := s.hist.length, twinClean := true })
            ∧ (d ≠ dig.toNat → k.twin = { w with msg := some msg, mismatch := true, round := 0, items := 0, diff := [], twinClean := !grown }
                ∧ k.hold = true ∧ raises s t evTwinMismatch [j.step])))
      ∧ (∀ c d g, w.paired = false → w.cmd = some c → j.phase = .held → w.own = some (step.toNat, d, g, false) → bad = false → d = dig.toNat →
        ∃ u k, exec (.twinMessage p step dig grown bad) s = .next (resumeReady (complete u c stDone step.toNat 0 0) p)
          ∧ getJob u p = some k ∧ k.twin.paired = true ∧ k.twin.agreed = some step.toNat ∧ k.twin.cmd = none))
    ∧ (w.paired = true → j.phase = .running → w.ownAt + 50000000 ≤ s.tim.now → j.token.isSome = true → w.token = none → w.own = none →
      ∃ t, exec (.twinLost p) s = .next t ∧ getJob t p = some { j with twin := { w with paired := false } }
        ∧ raises s t evTwinLost [j.step] ∧ eventFrame { s with jobs := t.jobs } t)
    ∧ (s.tim.now < w.ownAt + 50000000 → exec (.twinLost p) s = .next s)
    ∧ (∀ g : Bool, w.paired = true →
      (w.fabTwin = none → ∃ t, exec (.historyPoll p none g) s = .next t ∧ planFrame s t p ∧ getJob t p = some { j with twin := { w with
          fabTwin := some (!g), begun := w.begun || (repairing j && w.fabOwn.isSome) } })
      ∧ ∀ src : Lidx,
        (j.plan.lidx ≠ 0 → src.toNat = parentOf j.plan → w.fabOwn = none → ∃ t, exec (.historyPoll p (some src) g) s = .next t
          ∧ planFrame s t p ∧ getJob t p = some { j with twin := { w with
            fabOwn := some (!g), begun := w.begun || (repairing j && w.fabTwin.isSome) } })
        ∧ ((j.plan.lidx = 0 ∨ src.toNat ≠ parentOf j.plan) → j.histTree.fresh j.plan src.toNat = true → (w.begun = true ∨ w.fabOwn = none) →
          let tree := { j.histTree with kids := src.toNat :: j.histTree.kids, hold := j.histTree.hold || g }
          (tree.full j.plan = false ∨ j.plan.lidx ≠ 0 → ∃ t, exec (.historyPoll p (some src) g) s = .next t ∧ planFrame s t p
            ∧ getJob t p = some { j with histTree := tree })
          ∧ (tree.full j.plan = true → j.plan.lidx = 0 → ∃ t k, exec (.historyPoll p (some src) g) s = .next t ∧ planFrame s t p
            ∧ getJob t p = some k ∧ k.twin.fabOwn = some (!tree.hold))))
    ∧ (∀ (k : BisKind) (l : List BisEnt), repairing j = true → w.fabOwn.isSome = true →
      ((∀ x ∈ l, bisHash s p k x = x.hash) → ∃ t, exec (.bisectionListMessage p k l) s = .next t ∧ planFrame s t p
        ∧ t.jobs = s.jobs ∧ t.tables = s.tables ∧ (k = .tables ∨ k = .ranges ∨ k = .areas → t = s))
      ∧ (∀ x, k = .rows → l = [x] → bisHash s p k x ≠ x.hash → (0, x.tid, 0, x.s) ∉ w.diff → w.items < 1024 →
        (∀ m ∈ w.early, m.item ≠ (0, x.tid, 0, x.s)) →
        ∃ t, exec (.bisectionListMessage p k l) s = .next t ∧ planFrame s t p ∧ getJob t p = some { j with twin := { w with
          items := w.items + 1, diff := w.diff ++ [(0, x.tid, 0, x.s)] } })
      ∧ (∀ x, k = .rows → l = [x] → bisHash s p k x ≠ x.hash → (0, x.tid, 0, x.s) ∉ w.diff → 1024 ≤ w.items →
        ∃ t, exec (.bisectionListMessage p k l) s = .next t ∧ raises s t evTwinWide [j.lastSeal.getD 0] ∧ getJob t p = some
          { j with twin := { w with mismatch := false, items := 0, diff := [], early := [] } }))
    ∧ (∀ m : RepairItem, (repairing j = false → exec (.repairDataMessage p m) s = .next (outOfState s p 0x13))
      ∧ (repairing j = true → m.item ∉ w.diff → ∃ t, exec (.repairDataMessage p m) s = .next t ∧ same t { w with early := w.early ++ [m] }))
    ∧ (∀ m : RepairItem, repairing j = true → m.isRow = true → (0, m.tid, m.role, m.index) ∈ w.diff → ∀ v, getTbl s p m.tid = some v →
      let a := recAddr s v (lidxOf s p) m.index
      let n := m.bytes.length
      64 + roundUp (rowBytes s p v m.index).length 64 + roundUp n 64 ≤ w.logSize → t0End ≤ a → t0End ≤ w.logBase → t0End ≤ dirSlot s p m.tid →
      ∃ t k x, exec (.repairDataMessage p m) s = .next t ∧ getJob t p = some k ∧ k.twin = { w with diff := w.diff.erase (0, m.tid, m.role, m.index), logPtr := k.twin.logPtr }
        ∧ raises s t evTwinRepair [w.logBase + x] ∧ x < k.twin.logPtr ∧ k.twin.logPtr ≤ w.logSize
        ∧ ((repairSource s j).1 = false → (a + n ≤ w.logBase ∨ w.logBase + w.logSize ≤ a) →
            (a + n ≤ dirSlot s p m.tid ∨ dirSlot s p m.tid + 0x12000 ≤ a) → m.index < v.desc.rows →
            (∀ i, i < n → shadowed s (a + i) = false) → t.mem.read a n = m.bytes)
        ∧ ((repairSource s j).1 = true → ∀ y, (y < w.logBase ∨ w.logBase + w.logSize ≤ y) → shadowed s y = false → t.mem.get y = s.mem.get y))
    ∧ (∀ dig : BitVec 128, repairing j = true → w.fabOwn.isSome = true → w.diff = [] → ∀ j1, getJob (denseDigests s p) p = some j1 →
      let n := j.lastSeal.getD 0
      let nx := heldScale j1
      let own := moduleDigest (denseDigests s p) p j1 n nx.1 nx.2
      ∃ t k, exec (.repairRoundComplete p dig) s = .next t ∧ getJob t p = some k ∧ k.plan = j.plan
        ∧ (own = dig.toNat → k.twin.agreed = some n ∧ k.twin.mismatch = false ∧ k.twin.twinClean = true)
        ∧ (own ≠ dig.toNat → 2 ≤ w.round → k.twin.mismatch = false ∧ k.twin.agreed = w.agreed)
        ∧ (own ≠ dig.toNat → w.round < 2 → k.twin.mismatch = true ∧ k.twin.round = w.round + 1 ∧ k.twin.items = 0 ∧ k.twin.diff = []))
    ∧ ∀ (tid : Tid) (row : RowIx) (v : Table), getTbl s p tid.toNat = some v → w.paired = true →
      ((tid.toNat, row.toNat) ∈ w.asked → exec (.failedRecordRepair p tid row .ask) s
        = .next (toTwin s p 0x13 ([2, 0] ++ bytesOf 4 tid.toNat ++ bytesOf 8 row.toNat)))
      ∧ ((tid.toNat, row.toNat) ∉ w.asked → exec (.failedRecordRepair p tid row .ask) s = .next s)
      ∧ (ownerOf v.map v.desc row.toNat = j.plan.lidx → exec (.failedRecordRepair p tid row .request) s
        = .next (sendItem s p (0, tid.toNat, 0, row.toNat)))
      ∧ ∀ b : List Byte, (tid.toNat, row.toNat) ∈ w.asked → waitsFor j tid.toNat row.toNat = [] →
        let asked := w.asked.erase (tid.toNat, row.toNat)
        let a := recAddr s v j.plan.lidx row.toNat
        (recOk tid.toNat row.toNat b = false ∨ b.length ≠ v.desc.size → ∃ t, exec (.failedRecordRepair p tid row (.copy b)) s = .next t
          ∧ same t { w with asked := asked })
        ∧ (recOk tid.toNat row.toNat b = true → b.length = v.desc.size → w.logSize = 0 → t0End ≤ a →
          ∃ t k, exec (.failedRecordRepair p tid row (.copy b)) s = .next t ∧ getJob t p = some k ∧ k.twin.asked = asked
            ∧ t.mem.read a b.length = b ∧ t.tables = s.tables)

/-! ### Links -/

/-- FRAME_RECEIVE, REPLAY_REQUEST_RECEIVE and FRAME_TRANSMIT (R335, R338, R339, R341): of 512 bytes, a frame whose codewords, FCRC
or SEQ are wrong is discarded with every later one and asked for again; a good one gives its ACK and credits, a data frame
also its slots; one of a reserved KIND does nothing (the model's choice, entry 135). A request for a SEQ resends from it and returns
again the credits of idle frames behind it; the eighth in a row retrains the link. A transmitter sends a request first, then
what it resends, then up to seven slots as a new frame that it keeps for replay, and else an idle frame. -/
def Obligations.LinkFrames : Prop :=
  ∀ (s : State) (k : Link), s.fabr.links.length = 24 →
    let l := getLink s k
    let ack : W32 := BitVec.ofNat 32 (l.rxSeq + 2 ^ 32 - 1)
    let covers (a q : W32) : Prop := (a.toNat + 2 ^ 32 - q.toNat) % 2 ^ 32 < 2 ^ 31
    let only (t : State) (m : LinkSt) : Prop := onlyLink s t k ∧ t.alm = s.alm ∧ getLink t k = m
    let resting (f : Frame) : List (Nat × Nat × Nat × Nat) :=
      if l.retB + l.retC + l.retK = 0 then l.idle else l.idle ++ [(f.seq.toNat, l.retB, l.retC, l.retK)]
    let returns (f : Frame) : Prop := f.ack = ack ∧ f.crb = l.retB ∧ f.crc = l.retC ∧ f.crk = l.retK
    (l.usable = false → (∀ bs codes, exec (.frameReceive k ⟨bs, codes⟩) s = .next s) ∧ exec (.frameTransmit k) s = .next s
      ∧ ∀ q, exec (.replayRequestReceive k q) s = .next s)
    ∧ (l.usable = true →
      (∀ (bs : List Byte) (codes : Bool),
        let f := frameOf bs
        let good := codes && fcrcGood bs
        let m (t : State) := getLink t k
        let acks (t : State) : Prop := ∀ g, g ∈ (m t).replay ↔ g ∈ l.replay ∧ ¬ covers f.ack g.seq
        (good = false ∨ f.seq.toNat ≠ l.rxSeq → gives (.frameReceive k ⟨bs, codes⟩) s fun t => t.isl = s.isl
          ∧ only t { l with discarding := true, seen := if good = true then some f.seq.toNat else none, reqOut := (m t).reqOut }
          ∧ (l.reqOut = true ∨ l.discarding = false ∨ good = false → (m t).reqOut = true)
          ∧ ((m t).reqOut = true → l.reqOut = false → l.discarding = true → good = true →
            ∃ q, l.seen = some q ∧ 0 < (q + 2 ^ 32 - f.seq.toNat) % 2 ^ 32 ∧ (q + 2 ^ 32 - f.seq.toNat) % 2 ^ 32 < 2 ^ 31))
        ∧ (good = true → f.seq.toNat = l.rxSeq →
          (2 < f.kind.toNat → exec (.frameReceive k ⟨bs, codes⟩) s = .next s)
          ∧ (f.kind = 0 → gives (.frameReceive k ⟨bs, codes⟩) s fun t => onlyLink s t k ∧ t.alm = s.alm ∧ acks t
            ∧ (m t).rxSeq = (l.rxSeq + 1) % 2 ^ 32 ∧ (m t).discarding = false ∧ (m t).reqOut = l.reqOut ∧ (m t).st = l.st
            ∧ (m t).credB = l.credB + f.crb ∧ (m t).credC = l.credC + f.crc ∧ (m t).credK = l.credK + f.crk
            ∧ (m t).outB = l.outB ∧ (m t).outC = l.outC ∧ (m t).outK = l.outK
            ∧ ((∀ i, i < 7 → slotVc f i = none) → (m t).inbox = l.inbox)
            ∧ ∀ v, slotVc f 0 = some v → (∀ i, 1 ≤ i → i < 7 → slotVc f i = none) → bit 0 f.som.toNat = true →
              bit 0 f.eom.toNat = true → (m t).inbox = l.inbox ++ [msgOf (nth [] f.slots 0)])
          ∧ (f.kind = 1 → gives (.frameReceive k ⟨bs, codes⟩) s fun t => acks t
            ∧ only t { l with discarding := false, seen := none, credB := l.credB + f.crb, credC := l.credC + f.crc,
                              credK := l.credK + f.crk, replay := (m t).replay, resend := (m t).resend, idle := (m t).idle, sent := (m t).sent })
          ∧ (f.kind = 2 → l.reqRun < 7 → gives (.frameReceive k ⟨bs, codes⟩) s fun t => onlyLink s t k ∧ acks t
            ∧ (m t).reqSeq = (f.ack.toNat + 1) % 2 ^ 32 ∧ (m t).resend = (m t).replay)))
      ∧ (∀ q : W32,
        let later (x : Nat) : Bool := decide ((x + 2 ^ 32 - q.toNat) % 2 ^ 32 < 2 ^ 31)
        let lost := l.idle.filter fun x => later x.1 && x.1 != q.toNat
        (l.reqSeq ≠ q.toNat ∨ l.reqRun < 7 → gives (.replayRequestReceive k q) s fun t =>
          only t { l with reqSeq := q.toNat, reqRun := if l.reqRun ≠ 0 ∧ l.reqSeq = q.toNat then l.reqRun + 1 else 1,
                          resend := l.replay.filter fun g => later g.seq.toNat, idle := [],
                          retB := l.retB + total (lost.map (·.2.1)), retC := l.retC + total (lost.map (·.2.2.1)),
                          retK := l.retK + total (lost.map (·.2.2.2)) })
        ∧ (l.reqSeq = q.toNat → 7 ≤ l.reqRun → gives (.replayRequestReceive k q) s fun t =>
          onlyLinkE s t k ∧ (getLink t k).st = .training ∧ raises s t evLnkRetrain [k.val]))
      ∧ (l.reqOut = true → gives (.frameTransmit k) s fun t => ∃ f, f.kind = 2 ∧ f.slots = [] ∧ returns f
        ∧ f.seq = BitVec.ofNat 32 l.nextSeq
        ∧ only t { l with reqOut := false, lastTx := frameBytes f, idle := resting f, retB := 0, retC := 0, retK := 0 })
      ∧ (∀ g r, l.reqOut = false → l.resend = g :: r → gives (.frameTransmit k) s fun t =>
        only t { l with resend := r, lastTx := frameBytes { g with ack := ack, lstat := l.lanes.zeroExtend 16 } })
      ∧ (l.reqOut = false → l.resend = [] → (4096 ≤ l.replay.length ∨ (l.outB = [] ∧ l.outC = [] ∧ l.outK = [])) →
        gives (.frameTransmit k) s fun t => ∃ f, f.kind = 1 ∧ f.slots = [] ∧ returns f ∧ f.seq = BitVec.ofNat 32 l.txSeq
        ∧ only t { l with lastTx := frameBytes f, idle := resting f, retB := 0, retC := 0, retK := 0 })
      ∧ (l.reqOut = false → l.resend = [] → l.replay.length < 4096 → (∃ v, canSend l v = true) →
        gives (.frameTransmit k) s fun t => ∃ f, onlyLink s t k ∧ (getLink t k).lastTx = frameBytes f ∧ f.kind = 0
          ∧ f.seq = BitVec.ofNat 32 l.txSeq ∧ returns f ∧ 0 < f.slots.length ∧ f.slots.length ≤ 7
          ∧ (getLink t k).replay = l.replay ++ [f] ∧ (getLink t k).txSeq = (l.txSeq + 1) % 2 ^ 32
          ∧ ∀ x r, l.outK = x :: r → 0 < l.credK → f.slots.head? = some x.bytes))

/-- LINK_MESSAGE_RECEIVE and MESSAGE_RELAY (R337, R340, R342, R348 to R350, R358): a message leaves its link's receive store and
returns the credits that it holds; one of a known type goes to its engine, one for no job or of no type is discarded, counted and
reported. One for another module goes on, one hop more, along its dimension order; where no path reaches, it waits. -/
def Obligations.LinkMessages : Prop :=
  ∀ (s : State) (k : Link) (m : LinkMsg), s.fabr.links.length = 24 →
    let l := getLink s k
    let i := l.inbox.idxOf m
    let h := nth (.ctl, 0) l.holds i
    let f (t : State) : Prop := eventFrame { s with fabr := t.fabr } t
    let drains (t : State) : Prop := (m ∉ l.inbox → getLink t k = l)
      ∧ (m ∈ l.inbox → getLink t k = ({ l with inbox := l.inbox.eraseIdx i, holds := l.holds.eraseIdx i }).giveBack h.1 h.2)
    let bad (c : Instr) : Prop := gives c s fun t => f t ∧ drains t ∧ t.fabr.badtype = s.fabr.badtype + 1
        ∧ t.fabr.given = s.fabr.given ∧ raises s t evLnkBadtype [m.mtype.toNat, k]
    (vcOf m.mtype ≠ none → (deliverable s m = true ∨ keptEarly m = true) →
      gives (.linkMessageReceive k m) s fun t => t = { s with fabr := t.fabr } ∧ t.fabr.given = m :: s.fabr.given ∧ drains t)
    ∧ (vcOf m.mtype ≠ none → deliverable s m = false → keptEarly m = false →
      gives (.linkMessageReceive k m) s fun t => f t ∧ drains t ∧ t.fabr.nojob = s.fabr.nojob + 1 ∧ t.fabr.given = s.fabr.given
        ∧ raises s t evLnkNojob [m.mtype.toNat, k])
    ∧ (vcOf m.mtype = none → bad (.linkMessageReceive k m) ∧ bad (.messageRelay k m))
    ∧ (∀ (d : Nat) (v : VC), vcOf m.mtype = some v → nodeFab m.dst = s.fabr.fab → nodePod m.dst = s.fabr.pod.toNat → m.detour = false →
      nextDir s.fabr.slot.toNat (nodeSlot m.dst) [0, 1, 2] = some d → dirUsable s d = true →
      gives (.messageRelay k m) s fun t => t = { s with fabr := t.fabr, isl := t.isl } ∧ t.fabr.given = s.fabr.given ∧ ∃ j, j / 2 = d
        ∧ (getLink s j).usable = true ∧ (getLink t j).out v = (getLink s j).out v ++ { m with hops := m.hops + 1 }.slots
        ∧ ∀ i, i ≠ j → ∀ u, (getLink t i).out u = (getLink s i).out u)
    ∧ (vcOf m.mtype ≠ none → nodeFab m.dst = s.fabr.fab → nodePod m.dst = s.fabr.pod.toNat →
      (∀ i, (getLink s i).usable = false ∧ (getLink s i).st ≠ .training) → gives (.messageRelay k m) s fun t =>
        f t ∧ t.fabr.stuck = s.fabr.stuck ++ [{ m with hops := m.hops + 1 }] ∧ raises s t evLnkUnreach [m.dst.toNat])

/-- LINK_RETRAIN, CODEWORD_LOCK_LOSS, ACK_PROGRESS_TIMEOUT, RETRAIN_COMPLETE, LINK_BACKGROUND_TRAIN, LINK_TRAINED and LINK_LOOP_WRITE
(R339, R344, R347, R356, R357, R360, R511): a retrain ends at full width, at four lanes, or with the link dead and empty, its
unacknowledged messages sent again on other links; a trained link whose partner is not the one of its wiring is dead, and
trains in the background only with that partner; the first fixes the address; a link that trained before rejoins at the next
seal while a step runs. -/
def Obligations.LinkTraining : Prop :=
  ∀ (s : State) (k : Link), s.fabr.links.length = 24 →
    let l := getLink s k
    let retrains (c : Instr) : Prop := gives c s fun t => onlyLinkE s t k ∧ raises s t evLnkRetrain [k.val]
      ∧ tabGet 0 t.alm.retrains k = tabGet 0 s.alm.retrains k + 1
      ∧ getLink t k = { l with st := .training, reqRun := 0, retrainCount := l.retrainCount + 1 }
    (l.usable = true → retrains (.linkRetrain k) ∧ retrains (.codewordLockLoss k)
      ∧ (l.replay ≠ [] → retrains (.ackProgressTimeout k)))
    ∧ (l.usable = false → exec (.linkRetrain k) s = .next s ∧ exec (.codewordLockLoss k) s = .next s
      ∧ exec (.ackProgressTimeout k) s = .next s)
    ∧ (∀ lanes : Byte, l.st ≠ .training → exec (.retrainComplete k lanes) s = .next s)
    ∧ (l.st = .training → s.fabr.stuck = [] → gives (.retrainComplete k 0xFF) s fun t => onlyLink s t k
        ∧ getLink t k = { l with st := .full, lanes := 0xFF, failed := 0, resend := l.replay })
    ∧ (∀ lanes : Byte, l.st = .training → s.fabr.stuck = [] → lanes ≠ 0xFF → (lanes.toNat % 16 = 15 ∨ lanes.toNat / 16 = 15) →
      gives (.retrainComplete k lanes) s fun t => onlyLinkE s t k ∧ raises s t evLnkDegrade [k.val]
        ∧ tabGet 0 t.alm.degrades k = tabGet 0 s.alm.degrades k + 1
        ∧ getLink t k = { l with st := .degraded, lanes := if lanes.toNat % 16 = 15 then 0x0F else 0xF0, failed := 0, resend := l.replay })
    ∧ (∀ lanes : Byte, l.st = .training → lanes.toNat % 16 ≠ 15 → lanes.toNat / 16 ≠ 15 → l.sent = [] →
      gives (.retrainComplete k lanes) s fun t => raises s t evLnkDown [k.val]
        ∧ eventFrame { s with fabr := t.fabr, isl := t.isl, alm := t.alm } t
        ∧ getLink t k = freshLink { l with st := .dead, lanes := 0, failed := l.failed + 1 })
    ∧ (∀ (lanes : Byte) (m : LinkMsg) (d : Nat), l.st = .training → lanes.toNat % 16 ≠ 15 → lanes.toNat / 16 ≠ 15 → l.sent = [(.ctl, m)] →
      vcOf m.mtype = some .ctl → nodeFab m.dst = s.fabr.fab → nodePod m.dst = s.fabr.pod.toNat → m.detour = false →
      nextDir s.fabr.slot.toNat (nodeSlot m.dst) [0, 1, 2] = some d → (getLink s (2 * d)).usable = true → (getLink s (2 * d + 1)).usable = true →
      gives (.retrainComplete k lanes) s fun t => ∃ j, j / 2 = d ∧ (getLink t j).outK = (getLink s j).outK ++ m.slots)
    ∧ ((l.st = .dead ∨ l.st = .degraded) →
      (wiredRight s k l.paddr l.plink.toNat = true →
        gives (.linkBackgroundTrain k 0xFF) s fun t => onlyLink s t k ∧ getLink t k = { l with rejoin := true })
      ∧ (wiredRight s k l.paddr l.plink.toNat = false → gives (.linkBackgroundTrain k 0xFF) s fun t => eventFrame s t
        ∧ raises s t evLnkWiring [(myNode s).toNat, k.val, l.paddr.toNat, l.plink.toNat]))
    ∧ (∀ lanes : Byte, ((l.st ≠ .dead ∧ l.st ≠ .degraded) ∨ lanes ≠ 0xFF) → exec (.linkBackgroundTrain k lanes) s = .next s)
    ∧ (∀ (a : NodeAddr) (q : BitVec 5),
      let id := { freshLink l with lanes := 0xFF, paddr := a, plink := q }
      let later := l.once && stepRuns s
      let trains : Prop := dom s (54 + k / 4) = .on ∧ (l.st = .down ∨ l.st = .dead)
      (¬ trains → exec (.linkTrained k a q) s = .next s)
      ∧ (trains → bit k s.fabr.loop = true → l.sent = [] → gives (.linkTrained k a q) s fun t => onlyLink s t k ∧ getLink t k = { id with st := .loop })
      ∧ (trains → bit k s.fabr.loop = false → wiredRight s k a q.toNat = false → gives (.linkTrained k a q) s fun t =>
        onlyLinkE s t k ∧ getLink t k = { l with st := .dead, paddr := a, plink := q }
          ∧ raises s t evLnkWiring [(myNode s).toNat, k.val, a.toNat, q.toNat])
      ∧ (trains → bit k s.fabr.loop = false → wiredRight s k a q.toNat = true → s.fabr.stuck = [] → l.sent = [] → gives (.linkTrained k a q) s fun t =>
        t = { s with fabr := t.fabr, tim := t.tim } ∧ t.fabr = { s.fabr with links := t.fabr.links, fixed := true }
          ∧ (∀ i, i ≠ k.val → getLink t i = getLink s i)
          ∧ t.tim = { s.tim with src := if s.fabr.links.any (·.once) = false ∧ (timeParent s).isSome = true then 3 else s.tim.src }
          ∧ getLink t k = { id with st := if later then .down else .full, rejoin := later, once := true, failed := 0 }))
    ∧ ∀ (w : Who) (v : BitVec 24), byRight (.linkLoopWrite w v) s (stewardOk s w || (operatorOk s w && s.jobs.isEmpty)) w 0x7008 fun t =>
        t = { s with fabr := t.fabr } ∧ t.fabr = { s.fabr with links := t.fabr.links, loop := v.toNat }
          ∧ getLink t k = if bit k v.toNat = bit k s.fabr.loop then l else downLink l

/-! ### The roll call, the node address, time -/

/-- CHAIN_IN_EDGE, CHAIN_IN_LOW_TIMEOUT, ROLL_CALL_ANNOUNCE, POD_CONTROLLER_TIMEOUT, ROLL_CALL_RESTART and AON_NODE_WRITE (R344 to
R346): low periods of 1 to 3 ticks count, one of 4 to 7 discards the count, 8 ticks make the count the slot, a count above 63
gives none; the slot is announced by as many pulses of one low and one high tick, and CHAIN_OUT then stays low; pod and fabric come from the pod controller or the Locket and
are fixed by the first link; a restart takes every link down and, under policy 1, takes the address from the Locket. -/
def Obligations.RollCall : Prop :=
  ∀ s : State,
    let f := s.fabr
    let counts : Prop := f.roll = 0 ∧ s.pwr.mst ≠ .unpowered
    (∀ low : BitVec 16,
      (counts → 1 ≤ low.toNat → low.toNat ≤ 3 →
        exec (.chainInEdge low) s = .next { s with fabr := { f with pulses := f.pulses + 1 } })
      ∧ (counts → 4 ≤ low.toNat → low.toNat ≤ 7 → gives (.chainInEdge low) s fun t =>
        eventFrame { s with fabr := { f with pulses := 0 } } t ∧ raises s t evLnkRollcall [low.toNat])
      ∧ (¬ counts ∨ low = 0 ∨ 8 ≤ low.toNat → exec (.chainInEdge low) s = .next s))
    ∧ (counts → f.pulses ≤ 63 → exec .chainInLowTimeout s =
        .next { s with fabr := { f with slot := BitVec.ofNat 6 f.pulses, roll := 1, announce := f.pulses + 1 } })
    ∧ (counts → 63 < f.pulses → gives .chainInLowTimeout s fun t =>
        eventFrame { s with fabr := { f with roll := 2 } } t ∧ raises s t evLnkRollcall [f.pulses])
    ∧ (¬ counts → exec .chainInLowTimeout s = .next s)
    ∧ ((f.roll = 1 ∨ f.roll = 3) → exec .rollCallAnnounce s = .next { s with
        fabr := { f with
          announce := 0, chainOut := false
          wave := f.wave ++ (List.range f.announce).flatMap (fun _ => [false, true]) ++ [false] } })
    ∧ ((f.roll = 0 ∨ f.roll = 2) → exec .rollCallAnnounce s = .next s)
    ∧ ((f.roll = 1 ∨ f.roll = 2) → f.podW = false → f.fixed = false →
        exec .podControllerTimeout s = .next { s with fabr := { f with fab := lkFab s == 1, pod := BitVec.ofNat 8 (lkPod s) } })
    ∧ ((f.roll = 0 ∨ f.roll = 3 ∨ f.podW = true ∨ f.fixed = true) → exec .podControllerTimeout s = .next s)
    ∧ (∀ w : Who, byRight (.rollCallRestart w) s (stewardOk s w) w 0xC008 fun t =>
        t = { s with fabr := t.fabr } ∧ t.fabr.links = f.links.map downLink ∧ t.fabr.fixed = false ∧ t.fabr.pulses = 0
          ∧ t.fabr.chainOut = true ∧ t.fabr.wave = [] ∧ t.fabr.given = f.given
          ∧ (lkPolicy s ≠ 1 → t.fabr.roll = 0 ∧ t.fabr.announce = 0 ∧ t.fabr.slot = f.slot ∧ t.fabr.pod = f.pod ∧ t.fabr.fab = f.fab)
          ∧ (lkPolicy s = 1 → t.fabr.roll = 3 ∧ t.fabr.announce = lkSlotNo s + 1 ∧ t.fabr.slot = BitVec.ofNat 6 (lkSlotNo s)
            ∧ t.fabr.pod = BitVec.ofNat 8 (lkPod s) ∧ t.fabr.fab = (lkFab s == 1)))
    ∧ ∀ (w : Who) (v : W64), byRight (.aonNodeWrite w v) s (stewardOk s w) w 0xC000 fun t =>
        (f.fixed = true → eventFrame s t ∧ raises s t evLnkAddrlock [v.toNat])
        ∧ (f.fixed = false → f.roll = 3 → t = s)
        ∧ (f.fixed = false → f.roll ≠ 3 → t = { s with fabr := { f with
            fab := bit 14 v.toNat, pod := BitVec.ofNat 8 (bits 13 6 v.toNat), podW := f.podW || w.isNone } })

/-- TIME_EXCHANGE_TICK, TIME_REQUEST_MESSAGE, TIME_REPLY_MESSAGE, TIME_SYNC_LOST, PTM_DIALOG, CRYSTAL_TICK, CALENDAR_TICK, TIM_SET,
TIM_UTC_WRITE and ALMANAC_READ (R353 to R355, R445 to R450): a child asks its parent, the parent answers with its own instants,
and the offset of the four instants moves device time where the tree or the port is its source: by a step above 1 µs, by a
slew else. In sleep and off device time advances by 30,517 ns and 37/64 ns a tick of the crystal; TIM_SET steps it where
TIM_SRC is 0; the Almanac's image goes to the buffer of the requester's partition, or to the management port. -/
def Obligations.DeviceTime : Prop :=
  (∀ s : State,
    let follows (t : State) (th : Int) : Prop := t.tim.valid = true
      ∧ (1000 < th.natAbs → t.tim.now = ((s.tim.now : Int) - th).toNat % 2 ^ 64 ∧ t.tim.slew = 0)
      ∧ (th.natAbs ≤ 1000 → t.tim.now = s.tim.now ∧ t.tim.slew = -th ∧ t.isl = s.isl)
    let stays (t : State) : Prop := t.tim.now = s.tim.now ∧ t.tim.slew = s.tim.slew ∧ t.tim.valid = s.tim.valid ∧ t.isl = s.isl
    (s.fabr.links.length = 24 → ∀ a, timeParent s = some a → (getLink s (timeLink s)).usable = true →
      gives .timeExchangeTick s fun t => onlyLink s t (timeLink s) ∧ t.isl = s.isl ∧ t.alm = s.alm
        ∧ let l := getLink s (timeLink s)
          let m : LinkMsg := { dst := a, src := myNode s, mtype := 0x22, body := 0 :: bytesOf 8 s.tim.now }
          getLink t (timeLink s) = { l with outK := l.outK ++ m.slots, sent := l.sent ++ [(.ctl, m)] })
    ∧ ((timeParent s = none ∨ (getLink s (timeLink s)).usable = false) → exec .timeExchangeTick s = .next s)
    ∧ (∀ (a : NodeAddr) (t1 : W64) (cf : W32),
      let m : LinkMsg := { dst := a, src := myNode s, mtype := 0x22, body :=
        1 :: (bytesOf 8 t1.toNat ++ bytesOf 8 s.tim.now ++ bytesOf 8 s.tim.now ++ bytesOf 4 cf.toNat) }
      let k := childLink s a
      let l := getLink s k
      (s.fabr.links.length = 24 → l.usable = true → gives (.timeRequestMessage a t1 cf) s fun t => onlyLink s t k
        ∧ t.isl = s.isl ∧ t.alm = s.alm ∧ getLink t k = { l with outK := l.outK ++ m.slots, sent := l.sent ++ [(.ctl, m)] })
      ∧ (l.usable = false → exec (.timeRequestMessage a t1 cf) s = .next s))
    ∧ (∀ (t1 t2 t3 : W64) (cf cb : W32),
      let th := timeOffset t1.toNat t2.toNat t3.toNat s.tim.now cf.toNat cb.toNat
      gives (.timeReplyMessage t1 t2 t3 cf cb) s fun t => eventFrame { s with tim := t.tim, isl := t.isl } t ∧ t.tim.theta = th
        ∧ t.tim.syncLost = false ∧ (s.tim.syncLost = true → raises s t evTimSync []) ∧ (s.tim.syncLost = false → t.evLog = s.evLog)
        ∧ (s.tim.src = 3 → follows t th) ∧ (s.tim.src ≠ 3 → stays t))
    ∧ ((timeParent s).isSome = true → s.tim.syncLost = false → gives .timeSyncLost s fun t =>
        eventFrame { s with tim := { s.tim with syncLost := true } } t ∧ raises s t evTimSyncLost [])
    ∧ (timeParent s = none ∨ s.tim.syncLost = true → exec .timeSyncLost s = .next s)
    ∧ ∀ (b : Bool) (t1 t2 t3 t4 : W64) (delay : W32),
      let th := timeOffset t1.toNat t2.toNat t3.toNat t4.toNat delay.toNat delay.toNat
      ((getPort s b).hold = true ∨ (getPort s b).up = false → exec (.ptmDialog b t1 t2 t3 t4 delay) s = .next s)
      ∧ ((getPort s b).hold = false → (getPort s b).up = true → gives (.ptmDialog b t1 t2 t3 t4 delay) s fun t =>
        t = { s with tim := t.tim, isl := t.isl } ∧ t.tim.ptmOff = setNth s.tim.ptmOff (b2n b) th
          ∧ (s.tim.src = 1 + b2n b → follows t th) ∧ (s.tim.src ≠ 1 + b2n b → stays t)))
  ∧ ∀ s : State,
    ((s.pwr.mst = .sleep ∨ s.pwr.mst = .off) → gives .crystalTick s fun t => t = { s with tim := t.tim, alm := t.alm }
        ∧ t.tim = { s.tim with now := (s.tim.now + 30517 + (s.tim.rem + 37) / 64) % 2 ^ 64, rem := (s.tim.rem + 37) % 64 })
    ∧ (s.pwr.mst ≠ .sleep → s.pwr.mst ≠ .off → exec .crystalTick s = .next s)
    ∧ (s.pwr.mst ≠ .unpowered → exec .calendarTick s = .next { s with tim := { s.tim with utc := (s.tim.utc + 1) % 2 ^ 64 } })
    ∧ (s.pwr.mst = .unpowered → exec .calendarTick s = .next s)
    ∧ (∀ (w : Who) (v : W64), byRight (.timSet w v) s (operatorOk s w) w 0x6010 fun t =>
        (s.tim.src ≠ 0 → eventFrame s t ∧ raises s t evProgError [0x6010])
        ∧ (s.tim.src = 0 → t = { s with tim := { s.tim with now := v.toNat, slew := 0, valid := true }, isl := t.isl }))
    ∧ (∀ (w : Who) (v : W64), byRight (.timUtcWrite w v) s (operatorOk s w) w 0x6018 fun t =>
        t = { s with tim := { s.tim with utc := v.toNat, calValid := true } })
    ∧ ∀ w : Who, byRight (.almanacRead w) s (operatorOk s w) w 0xC020 fun t =>
        (w = none → t = { s with almLen := almLength, almDone := true, rsp := .bytes (almImage s) })
        ∧ (w ≠ none → bufferOk s w s.almDst almLength = false → eventFrame s t ∧ raises s t evProgError [0xC020])
        ∧ (w ≠ none → bufferOk s w s.almDst almLength = true → t0End ≤ s.almDst →
          t = { s with mem := t.mem, poison := t.poison, winA := t.winA, winB := t.winB, almLen := almLength, almDone := true }
          ∧ t.mem.read s.almDst (almImage s).length = almImage s
          ∧ ∀ a, (a < s.almDst ∨ s.almDst + (almImage s).length ≤ a) → t.mem.get a = s.mem.get a)

/-! ### Functions, rings, ports -/

/-- FN_WAKE, DOORBELL_POLL_TICK and DOORBELL_READ (R370 to R372): the doorbells of the enabled rings that the write names are read, at
once in the active state and else once the module is ready; a poll reads those of all; an index that a ring of its size
cannot have puts the ring in error, any other becomes the host's index. -/
def Obligations.Doorbells : Prop :=
  (∀ (s : State) (w : Who) (f : FnNum) (v : W32),
    let i := f.toNat
    let off := 0x1000 + 0x40 * (i % 32)
    let n := bits 13 0 v.toNat
    let named : Prop := bit 31 v.toNat = true ∨ (getRing s n).fn = i
    let right : Bool := match w with
      | none => true
      | some g => g == f || (isPf g.toNat && pfOf i == g.toNat) || granted s g.toNat
    byRight (.fnWake w f v) s right w off fun t =>
      (¬ named → eventFrame s t ∧ raises s t evProgError [off])
      ∧ (named → (s.pwr.mst ≠ .active ∨ (getPort s (portOf i)).hold = true) →
        t = { s with fns := t.fns, pwr := t.pwr } ∧ (∀ g, g ≠ i → getFn t g = getFn s g)
          ∧ t.pwr = (if s.pwr.mst = .sleep then { s.pwr with waking := true, regReq := 0 } else s.pwr)
          ∧ getFn t i = { getFn s i with wakeAll := (getFn t i).wakeAll, wake := (getFn t i).wake }
          ∧ (bit 31 v.toNat = true → (getFn t i).wakeAll = true) ∧ (bit 31 v.toNat = false → BitVec.ofNat 14 n ∈ (getFn t i).wake))
      ∧ (named → s.pwr.mst = .active → (getPort s (portOf i)).hold = false →
        t = { s with fns := t.fns } ∧ (getFn t i).wake = [] ∧ (getFn t i).wakeAll = false
          ∧ ∀ m, (m, getRing s m) ∈ s.rings → (getRing s m).enable = true → (getRing s m).fn = i →
            (bit 31 v.toNat = true ∨ m = n) → m ∈ (getFn t i).dbReads))
  ∧ ∀ s : State,
    (∀ f : FnNum, s.pwr.mst = .active → (getFn s f.toNat).poll ≠ 0 → (getPort s (portOf f.toNat)).hold = false →
      gives (.doorbellPollTick f) s fun t => t = { s with fns := t.fns } ∧ ∀ m, (m, getRing s m) ∈ s.rings →
        (getRing s m).enable = true → (getRing s m).fn = f.toNat → m ∈ (getFn t f.toNat).dbReads)
    ∧ (∀ f : FnNum, s.pwr.mst ≠ .active ∨ (getFn s f.toNat).poll = 0 ∨ (getPort s (portOf f.toNat)).hold = true →
      exec (.doorbellPollTick f) s = .next s)
    ∧ ∀ (n : RingNum) (v : W64),
      let r := getRing s n.toNat
      let f := getFn s r.fn
      let i := v.toNat % 2 ^ 32
      let gap := if r.kind = 0 ∨ r.kind = 3 then (i + 2 ^ 32 - r.dev) % 2 ^ 32 else (r.dev + 2 ^ 32 - i) % 2 ^ 32
      let read (t : State) : Prop := getFn t r.fn = { f with dbReads := f.dbReads.filter (· != n.toNat), noring := (getFn t r.fn).noring }
      (n.toNat ∉ f.dbReads → exec (.doorbellRead n v) s = .next s)
      ∧ (n.toNat ∈ f.dbReads → r.enable = true → r.err = false → gap ≤ 2 ^ r.size → gives (.doorbellRead n v) s fun t =>
        onlyRing s t n.toNat ∧ read t ∧ getRing t n.toNat = { r with host := i })
      ∧ (n.toNat ∈ f.dbReads → r.enable = true → r.err = false → 2 ^ r.size < gap → gives (.doorbellRead n v) s fun t =>
        read t ∧ (getRing t n.toNat).err = true ∧ (getRing t n.toNat).host = r.host ∧ raises s t evRngIndex [n.toNat, i])
      ∧ (n.toNat ∈ f.dbReads → (r.enable = false ∨ r.err = true) → gives (.doorbellRead n v) s fun t =>
        t = { s with fns := t.fns } ∧ read t)

/-- ARBITRATION_ROUND (R386, R387): of the ready rings of a port, each class serves as many as its weight in its order of service; a
served ring may deliver eight entries, a DMA-channel ring one; a ready ring that is not served ages and moves up a class at
the limit of its own; no other ring changes.
COMMAND_CONSUME, INTERRUPT_RAISE, RING_ENABLE and RING_DISABLE (R365, R366, R373, R381, R504, R538): a consumed command reserves its
completion slot and is in progress under its index and tag; a BATCH beyond its window, or whose slot another fills, waits; an unknown opcode is taken
with an event; a due vector reports every ring that shares it; ENABLE is set where every attribute keeps its rule, with
both indices 0, and else raises EV_RNG_SETUP; a locked attribute does not change while ENABLE is 1. -/
def Obligations.Rings : Prop :=
  (∀ (s : State) (b : Bool), keysRise s.rings →
    let q := getPort s b
    let ready := s.rings.filter fun kr => portOf kr.2.fn == b && ringReady s kr.2
    let picks (c : Nat) := (serviceOrder (nth 0 q.rr c) (ready.filter fun kr => kr.2.cur == c)).take (nth 0 q.weights c)
    gives (.arbitrationRound b) s fun t =>
      t = { s with rings := t.rings, portA := t.portA, portB := t.portB, mem := t.mem } ∧ getPort t (!b) = getPort s (!b)
      ∧ getPort t b = { q with rr := (getPort t b).rr } ∧ (∀ a, shadowed s a = false → t.mem.get a = s.mem.get a)
      ∧ ∀ n, let r := getRing s n
        let age := Nat.min 65535 (r.age + 1)
        ((∃ c, c < 4 ∧ n ∈ picks c) → getRing t n = { r with cur := r.cls, promoted := false, age := 0, grant := if r.kind = 3 then 1 else 8 })
        ∧ (n ∈ ready.map (·.1) → (∀ c, c < 4 → n ∉ picks c) → 0 < r.cur → nth 0 q.limits (r.cur - 1) ≤ age →
            getRing t n = { r with cur := r.cur - 1, promoted := true, age := 0 })
        ∧ (n ∈ ready.map (·.1) → (∀ c, c < 4 → n ∉ picks c) → (r.cur = 0 ∨ age < nth 0 q.limits (r.cur - 1)) →
            getRing t n = { r with age := age })
        ∧ (n ∉ ready.map (·.1) → getRing t n = r))
  ∧ (∀ (s : State) (n : RingNum) (e : BitVec 512),
    let r := getRing s n.toNat
    let f := getFn s r.fn
    let opc := bits 7 0 e.toNat
    let step := bits 223 160 e.toNat
    let may : Prop := serves s r = true ∧ r.kind = 0 ∧ r.fill ≠ 0 ∧ r.grant ≠ 0 ∧ slotFree s r = true ∧ (f.det = true → opc = 0x18 ∨ opc = 0x19)
    let waits : Prop := opc = 0x01 ∧ f.pv = true ∧ batchWaits s f.part step = true
    (¬ may → exec (.commandConsume n e) s = .next s)
    ∧ (may → waits → gives (.commandConsume n e) s fun t => onlyRing s t n.toNat ∧ t.fns = s.fns ∧ t.chans = s.chans
        ∧ getRing t n.toNat = { r with batchAt := some step, grant := 0 })
    ∧ (may → ¬ waits → knownOpc opc = true → gives (.commandConsume n e) s fun t => onlyRing { s with jobs := t.jobs } t n.toNat
        ∧ t.fns = s.fns ∧ t.chans = s.chans ∧ (∀ q, (q ≠ f.part ∨ opc ≠ 0x01 ∨ f.pv = false) → getJob t q = getJob s q)
        ∧ let c : Cmd := { fn := BitVec.ofNat 6 r.fn, ring := n, idx := r.dev, tag := bits 31 16 e.toNat, opc := opc, nocq := bit 9 e.toNat, fence := bit 8 e.toNat }
          (∀ j, opc = 0x01 → f.pv = true → getJob s f.part = some j → getJob t f.part = some { j with taken := j.batchesTaken s ++ [(c, step)] }) ∧
          getRing t n.toNat = { r with dev := (r.dev + 1) % 2 ^ 32, slots := r.slots + 1, prog := r.prog ++ [c], grant := r.grant - 1, batchAt := none })
    ∧ (may → ¬ waits → knownOpc opc = false → r.link ≠ n.toNat → keysRise s.rings → gives (.commandConsume n e) s fun t =>
        commandFrame { s with rings := t.rings } t ∧ (getRing t n.toNat).dev = (r.dev + 1) % 2 ^ 32 ∧ raises s t evProgError [n.toNat, opc]))
  ∧ (∀ (s : State) (n : RingNum),
    let r := getRing s n.toNat
    let due : Prop := interruptDue s r = true ∧ (getPort s (portOf r.fn)).hold = false
    (due → keysRise s.rings → gives (.interruptRaise n) s fun t => t = { s with irqs := (r.fn, r.vec) :: s.irqs, rings := t.rings, mem := t.mem }
      ∧ (∀ a, shadowed s a = false → t.mem.get a = s.mem.get a)
      ∧ ∀ m q, (m, q) ∈ s.rings → getRing t m = if q.fn = r.fn ∧ q.vec = r.vec ∧ (q.kind = 1 ∨ q.kind = 2) then { q with unrep := 0 } else q)
    ∧ (¬ due → exec (.interruptRaise n) s = .next s))
  ∧ ∀ (s : State) (w : Who) (n : RingNum) (v : W64),
    let x := v.toNat
    let r := getRing s n.toNat
    let off := rngOff n.toNat + 0x10
    let right := if bits 45 40 x = r.fn then ringRight s w r else fnRight s w (bits 45 40 x)
    let q := { r with cls := bits 33 32 x, cur := if r.promoted then r.cur else bits 33 32 x }
    let a := { q.withCtl x with enHeld := false }
    let only (t : State) (y : Ring) : Prop := onlyRing s t n.toNat ∧ t.fns = s.fns ∧ getRing t n.toNat = y
    let locked (t : State) (y : Ring) : Prop := raises s t evProgError [off] ∧ (getRing t n.toNat).enable = y.enable
      ∧ (getRing t n.toNat).cls = y.cls ∧ (getRing t n.toNat).fn = r.fn ∧ (getRing t n.toNat).kind = r.kind
      ∧ (getRing t n.toNat).size = r.size ∧ (getRing t n.toNat).link = r.link
    (bit 63 x = false → exec (.ringEnable w n v) s = .next s) ∧ (bit 63 x = true → exec (.ringDisable w n v) s = .next s)
    ∧ (bit 63 x = true → byRight (.ringEnable w n v) s right w off fun t =>
      (r.enable = true → ctlChanges r x = false → only t q)
      ∧ (r.enable = true → ctlChanges r x = true → locked t q)
      ∧ (r.enable = false → s.pwr.mst = .boot → only t { q.withCtl x with enHeld := true })
      ∧ (r.enable = false → s.pwr.mst ≠ .boot → ringOk s n.toNat a = true → only t { a with
          enable := true, host := 0, dev := 0, age := 0, cur := a.cls, promoted := false, err := false, slots := 0,
          old := a.old ++ a.prog, prog := [], unrep := 0, drop := 0, dropNew := 0, grant := 0, batchAt := none }
        ∧ (a.kind = 3 → (getChan t a.link).bound = some n) ∧ (a.kind ≠ 3 → t.chans = s.chans))
      ∧ (r.enable = false → s.pwr.mst ≠ .boot → ringOk s n.toNat a = false →
        (getRing t n.toNat).enable = false ∧ raises s t evRngSetup [n.toNat]))
    ∧ (bit 63 x = false → byRight (.ringDisable w n v) s right w off fun t =>
      (r.enable = true → ctlChanges r x = false → only t { q with enable := false, grant := 0 })
      ∧ (r.enable = true → ctlChanges r x = true → locked t { q with enable := false })
      ∧ (r.enable = false → only t a))

/-- FUNCTION_LEVEL_RESET, HOST_LOSS_HOLD, PCIE_LINK_TRAINED, PCIE_RETRAIN, HOST_READ_COMPLETION, UNSUPPORTED_REQUEST, PERST_ASSERT and
PERST_RELEASE (R361, R362, R389 to R392, R525): a reset function and its rings stand at their reset values, a PF's with those of
its VFs; a lost port holds, its functions are detached and no intake of its hosts remains; a port that trains leaves its hold;
a late completion of a discarded read is counted. -/
def Obligations.Ports : Prop :=
  ∀ s : State,
    (∀ f : FnNum, keysRise s.rings → gives (.functionLevelReset f) s fun t => ∀ g, (g = f.toNat ∨ (isPf f.toNat = true ∧ f.toNat ≤ g ∧ g < f.toNat + 32)) →
      getFn t g = { noring := (getFn t g).noring, adopter := (getFn s g).adopter } ∧ BitVec.ofNat 6 g ∉ (getPort t (portOf g)).reads
      ∧ ∀ n, (getRing s n).fn = g →
        let r := getRing t n
        r.enable = false ∧ r.host = 0 ∧ r.dev = 0 ∧ r.base = 0 ∧ r.size = 0 ∧ r.kind = 0 ∧ r.link = 0)
    ∧ (∀ (b : Bool) (c : LossCause),
      let q := getPort s b
      let low := q.perst || decide (c = .perst)
      (q.hold = true ∨ q.up = false → gives (.hostLossHold b c) s fun t => t = { s with portA := t.portA, portB := t.portB }
        ∧ getPort t (!b) = getPort s (!b) ∧ getPort t b = { q with up := false, perst := low })
      ∧ (q.hold = false → q.up = true → gives (.hostLossHold b c) s fun t =>
        let u := getPort t b
        u.hold = true ∧ u.up = false ∧ u.perst = low ∧ u.holdStart = s.tim.now ∧ u.keptRings = ringRecords s b
          ∧ (∀ f, f < 64 → portOf f = b → (getFn s f).pv = true → (getFn t f).det = true)
          ∧ (∀ p j, getJob t p = some j → ∀ i ∈ j.intakes, portOf i.cmd.fn.toNat ≠ b)
          ∧ (∀ n, (n, getRing s n) ∈ s.rings → portOf (getRing s n).fn = b → (getRing t n).grant = 0)
          ∧ raises s t evPrtHostloss [b2n b]))
    ∧ (∀ (b : Bool) (rate : BitVec 4) (width : BitVec 5),
      let q := getPort s b
      let bad : Prop := q.perst = true ∨ width = 0 ∨ 16 < width.toNat ∨ rate = 0 ∨ 6 < rate.toNat ∨ s.pwr.mst = .off ∨ s.pwr.mst = .unpowered
        ∨ (s.pwr.mst = .sleep ∧ q.hold = true)
      (bad → exec (.pcieLinkTrained b rate width) s = .next s)
      ∧ (¬ bad → gives (.pcieLinkTrained b rate width) s fun t =>
        let u := getPort t b
        u.up = true ∧ u.rate = rate.toNat ∧ u.width = width.toNat ∧ u.hold = false ∧ u.kept = q.kept
          ∧ (q.hold = true → u.weights = [8, 4, 2, 1] ∧ u.limits = [32, 64, 128] ∧ ∀ f, f < 64 → portOf f = b →
              let x := getFn s f
              let y := getFn t f
              y.poll = 0 ∧ y.winbase = 0 ∧ (x.det = true → y.pv = x.pv ∧ y.part = x.part ∧ y.tgrant = x.tgrant ∧ y.det = true)
                ∧ (x.det = false → y.pv = false ∧ y.tgrant = false))
          ∧ (q.hold = false → u.weights = q.weights ∧ u.limits = q.limits ∧ ∀ n, (getRing t n).enable = (getRing s n).enable)
          ∧ (rate.toNat < 6 ∨ width.toNat < 16 → raises s t evPrtDegraded [b2n b, rate.toNat, width.toNat])
          ∧ (rate.toNat = 6 → width.toNat = 16 → t.evLog = s.evLog)))
    ∧ (∀ b : Bool,
      let q := getPort s b
      (q.up = true → exec (.pcieRetrain b) s = .next (putPort s b { q with retrain := (q.retrain + 1) % 2 ^ 48 }))
      ∧ (q.up = false → exec (.pcieRetrain b) s = .next s)
      ∧ (∀ f : FnNum, (f ∈ q.discarded → exec (.hostReadCompletion b f) s
            = .next (putPort s b { q with discarded := q.discarded.erase f, latedrop := (q.latedrop + 1) % 2 ^ 48 }))
          ∧ (f ∉ q.discarded → exec (.hostReadCompletion b f) s = .next s))
      ∧ (∀ k : BadReq, exec (.unsupportedRequest b k) s = .next { s with rsp := .unsupported })
      ∧ (s.pwr.mst = .active → exec (.perstAssert b) s = exec (.hostLossHold b .perst) s)
      ∧ (s.pwr.mst = .sleep → q.up = true → gives (.perstAssert b) s fun t => t.pwr.waking = true ∧ (getPort t b).hold = true ∧ (getPort t b).perst = true)
      ∧ (s.pwr.mst = .boot → gives (.perstAssert b) s fun t =>
        getPort t b = { perst := true, retrain := q.retrain, latedrop := q.latedrop, retryStatus := q.retryStatus }
          ∧ ∀ f, f < 64 → portOf f = b → getFn t f = { noring := (getFn s f).noring })
      ∧ (s.pwr.mst = .off ∨ s.pwr.mst = .unpowered → exec (.perstAssert b) s = .next (putPort s b { q with perst := true }))
      ∧ (q.perst = false → exec (.perstRelease b) s = .next s)
      ∧ (q.perst = true → s.pwr.mst ≠ .off → exec (.perstRelease b) s = .next (putPort s b { q with perst := false }))
      ∧ (q.perst = true → s.pwr.mst = .off → gives (.perstRelease b) s fun t => t.pwr.mst = .boot ∧ t.alm.boots = s.alm.boots + 1
          ∧ t.pwr.bootAt = s.tim.now ∧ getPort t b = { q with perst := false } ∧ t.mem = s.mem))

/-- PARTITION_ASSIGN and FN_RELEASE (R363, R364, R394, R503), and the right to every ring command (R374): the PF of a function's port assigns it once; the first to assign a
function to a partition becomes the partition's controlling PF; a function of an adopted partition stays unassigned until its
adopter releases it. A command that does not stand first where its fence asks for it waits; one whose function lacks the right
ends with EV_CMD_RIGHTS and INVALID, without any of its effect. -/
def Obligations.Partitions : Prop :=
  (∀ (s : State) (w : Who) (f : FnNum) (v : W64),
    let i := f.toNat
    let x := getFn s i
    let p := bits 1 0 v.toNat
    let on := bit 2 v.toNat
    let right : Bool := match w with | none => true | some g => g.toNat == pfOf i || granted s g.toNat
    let grant := if isPf i then x.tgrant else bit 8 v.toNat
    let others (t : State) : Prop := ∀ g, g ≠ i → getFn t g = getFn s g
    byRight (.partitionAssign w f v) s right w (cfgOff i) fun t =>
      (x.pv = true → on = true → p = x.part.toNat → t = { s with fns := t.fns } ∧ others t ∧ getFn t i = { x with tgrant := grant })
      ∧ (x.pv = true → (on = false ∨ p ≠ x.part.toNat) → raises s t evProgError [cfgOff i] ∧ (getFn t i).pv = true
          ∧ (getFn t i).part = x.part ∧ (getFn t i).tgrant = grant ∧ t.pctl = s.pctl)
      ∧ (x.pv = false → on = true → x.adopter ≠ 255 → raises s t evProgError [cfgOff i] ∧ (getFn t i).pv = false ∧ t.pctl = s.pctl)
      ∧ (x.pv = false → on = true → x.adopter = 255 → t = { s with fns := t.fns, pctl := t.pctl } ∧ others t
          ∧ getFn t i = { x with pv := true, part := BitVec.ofNat 2 p, tgrant := grant }
          ∧ t.pctl = (if nth 255 s.pctl p = 255 then setNth s.pctl p (pfOf i) else s.pctl))
      ∧ (x.pv = false → on = false → t = { s with fns := t.fns } ∧ others t
          ∧ getFn t i = { x with part := BitVec.ofNat 2 p, tgrant := grant }))
  ∧ (∀ (s : State) (c : Cmd),
    let no (i : Instr) (opc : Nat) : Prop := (cmdStarts s c opc = false → exec i s = .next s)
      ∧ (cmdStarts s c opc = true → cmdRight s c = false → gives i s fun t => t = rejectCmd s c evCmdRights stInvalid [c.ring.toNat, opc]
        ∧ commandFrame s t ∧ raises s t evCmdRights [c.ring.toNat, opc])
    (∀ a l n k, no (.batch c a l n k) 0x01) ∧ (∀ d, no (.tdef c d) 0x02) ∧ (∀ d, no (.trel c d) 0x03) ∧ (∀ e, no (.place c e) 0x04)
    ∧ (∀ n f l, no (.param c n f l) 0x05) ∧ (∀ d w a b x r, no (.stage c d w a b x r) 0x06) ∧ (∀ d g, no (.commit c d g) 0x07)
    ∧ (∀ d q k e f a b x h z, no (.exportTable c d q k e f a b x h z) 0x08) ∧ (∀ d, no (.tflush c d) 0x09)
    ∧ (∀ a l q, no (.pload c a l q) 0x10) ∧ (∀ a g e q, no (.reshard c a g e q) 0x11) ∧ no (.pause c) 0x12 ∧ no (.resume c) 0x13
    ∧ (∀ a z, no (.pair c a z) 0x14) ∧ (∀ q a z, no (.attach c q a z) 0x19) ∧ ∀ q a z, no (.adopt c q a z) 0x1A)
  ∧ ∀ (s : State) (w : Who) (v : W64),
    let f := bits 5 0 v.toNat
    let x := getFn s f
    let pf : Bool := match w with | none => true | some g => isPf g.toNat || granted s g.toNat
    let mine : Bool := match w with | none => true | some g => x.adopter == g.toNat || granted s g.toNat
    byRight (.fnRelease w v) s pf w 0x1F00 fun t =>
      (bit 8 v.toNat = false → t = s)
      ∧ (bit 8 v.toNat = true → x.adopter ≠ 255 → mine = true → t = putFn s f { x with adopter := 255 })
      ∧ (bit 8 v.toNat = true → (x.adopter = 255 ∨ mine = false) → x.pv = true → partOk s w x.part.toNat = true →
          t = putFn s f { x with pv := false, part := 0, det := false })
      ∧ (bit 8 v.toNat = true → (x.adopter = 255 ∨ mine = false) → (x.pv = false ∨ partOk s w x.part.toNat = false) →
          eventFrame s t ∧ raises s t evProgError [0x1F00])

/-! ### Windows, semaphores, arbitration of the scratchpad -/

/-- HOST_WINDOW_WRITE, HOST_WINDOW_READ, the four semaphore commands and STALL_STREAK_GRANT (R123, R129, R418, R501): a write within
the function's window and tiers stores its bytes and drops the buffered 4 KiB that it touches; a read gives the buffered
bytes or memory's; a semaphore operation is indivisible and answers the word before it, or a data abort where it cannot be
read; a bank grants the highest class that requests it, or the highest with a streak of 16, whose streak it clears, and
raises the streak of every other one. -/
def Obligations.Windows : Prop :=
  (∀ (s : State) (f : FnNum) (o : W64) (d : List Byte),
    let a := windowAddr s f.toNat o.toNat
    let b := portOf f.toNat
    let ok := windowOk s f.toNat o.toNat d.length true && !overlaps a d.length dualBase 0x40000 && !overlaps a d.length tokBase 0x8000
    (windowServes s f.toNat = false → exec (.hostWindowWrite f o d) s = .next s)
    ∧ (windowServes s f.toNat = true → ok = false → onlyRaises (.hostWindowWrite f o d) s evProgError [a])
    ∧ (windowServes s f.toNat = true → ok = true → t0End ≤ a → gives (.hostWindowWrite f o d) s fun t =>
        t = { s with mem := t.mem, isl := t.isl, poison := t.poison, winA := t.winA, winB := t.winB }
        ∧ t.mem.read a d.length = d ∧ (∀ x, (x < a ∨ a + d.length ≤ x) → t.mem.get x = s.mem.get x)
        ∧ getWin t (!b) = getWin s (!b) ∧ ∀ g bs, (g, bs) ∈ (getWin t b).lines →
          (g, bs) ∈ (getWin s b).lines ∧ 64 * g / 4096 * 4096 ∉ blocksOf a d.length))
  ∧ (∀ (s : State) (f : FnNum) (o : W64) (n : BitVec 13),
    let a := windowAddr s f.toNat o.toNat
    let b := portOf f.toNat
    let ok := windowOk s f.toNat o.toNat n.toNat false
    let read (t : State) (r : BusRsp) : Prop :=
      t = { s with isl := t.isl, winA := t.winA, winB := t.winB, rsp := r } ∧ getWin t (!b) = getWin s (!b)
    (windowServes s f.toNat = false → exec (.hostWindowRead f o n) s = .next { s with rsp := .completerAbort })
    ∧ (windowServes s f.toNat = true → ok = false → gives (.hostWindowRead f o n) s fun t =>
        eventFrame { s with rsp := .completerAbort } t ∧ raises s t evProgError [a])
    ∧ (windowServes s f.toNat = true → ok = true → t0End ≤ a → s.poison = [] → gives (.hostWindowRead f o n) s fun t =>
        read t (.bytes (windowBytes s b a n.toNat))))
  ∧ (∀ (s : State) (i : BitVec 12), calm s → poisoned s (semAddr i) 8 = true →
    let abort (c : Instr) : Prop := gives c s fun t =>
      t = { s with pwr := t.pwr, alm := t.alm, isl := t.isl, rsp := .dataAbort }
    abort (.semaphoreRead i) ∧ (∀ x, abort (.semaphoreFetchAdd i x)) ∧ ∀ x y, abort (.semaphoreCompareSwap i x y))
  ∧ (∀ (s : State) (i : BitVec 12), calm s → poisoned s (semAddr i) 8 = false →
    let v := semGet s i
    let word (t : State) (x : Nat) : Prop := t.mem.readNat (semAddr i) 8 = x
      ∧ ∀ a, (a < semAddr i ∨ semAddr i + 8 ≤ a) → t.mem.get a = s.mem.get a
    let same (t : State) (r : BusRsp) : Prop := t = { s with mem := t.mem, poison := t.poison, pwr := t.pwr, alm := t.alm, isl := t.isl, rsp := r }
    gives (.semaphoreRead i) s (fun t => same t (.data v) ∧ t.mem = s.mem)
    ∧ (∀ x : W64, gives (.semaphoreWrite i x) s fun t => same t s.rsp ∧ word t x.toNat)
    ∧ (∀ x : W32, gives (.semaphoreFetchAdd i x) s fun t => same t (.data v) ∧ word t (((v : Int) + x.toInt) % 2 ^ 64).toNat)
    ∧ ∀ x y : W64, (v = x.toNat → gives (.semaphoreCompareSwap i x y) s fun t => same t (.data v) ∧ word t y.toNat)
      ∧ (v ≠ x.toNat → gives (.semaphoreCompareSwap i x y) s fun t => same t (.data v) ∧ t.mem = s.mem))
  ∧ ∀ (s : State) (k : Byte), exec (.stallStreakGrant k []) s = .next s
    ∧ (∀ (l : List (BitVec 7)) (r : BitVec 7) (t : State), exec (.stallStreakGrant k l) s = .next t →
        exec (.stallStreakGrant k (l ++ [r])) s = exec (.stallStreakGrant k [r]) t)
    ∧ ∀ (r : BitVec 7) (w : Nat), w < 7 → r.getLsbD w = true →
        let long (c : Nat) : Prop := c < 7 ∧ r.getLsbD c = true ∧ 16 ≤ streak s k.toNat c
        (long w ∨ ∀ c, ¬ long c) → (∀ c < w, r.getLsbD c = true → long w ∧ ¬ long c) →
        gives (.stallStreakGrant k [r]) s fun t =>
          t = { s with streaks := t.streaks, granted := some (k.toNat, w), isl := t.isl }
          ∧ ∀ b c, c < 8 → streak t b c = if b = k.toNat ∧ c = w then 0
            else if b = k.toNat ∧ c < 7 ∧ r.getLsbD c = true then streak s b c + 1 else streak s b c

/-! ### Boot and the supplies -/

/-- POWER_54V_IN_RANGE, POWER_54V_LOSS, MGMT_BOOT, BOOT_VERIFY_DONE, DRAM_TRAINING_DONE, MODULE_READY, REFCLK_LOSS and REFCLK_RETURN
(R434, R435, R440, R449, R460, R462, R524, R526): boot starts when 54 V comes into range, on the boot command in off, and when
the REFCLK whose loss turned the module off returns; the selected bank runs where it verifies, else the other; a stack that
does not train holds the module in boot; a ready module has PD44 to PD59 and PD63 on. Loss of 54 V or REFCLK loses everything below the
always-on domain. -/
def Obligations.Boot : Prop :=
  ∀ s : State,
    let m := s.pwr.mst
    let boots (t : State) : Prop := t.pwr.mst = .boot ∧ t.pwr.bootAt = s.tim.now ∧ t.isl.live.winStart = s.tim.now
    let lost (t : State) : Prop := t.jobs = [] ∧ t.tables = [] ∧ t.rings = [] ∧ t.fns = [] ∧ t.chans = [] ∧ t.wins = []
      ∧ (∀ d, dom t d = .off) ∧ t.alm = s.alm ∧ t.tim.now = s.tim.now ∧ t.sec.otp = s.sec.otp ∧ t.pending = s.pending
      ∧ t.fabr.slot = s.fabr.slot ∧ ∀ k, (getLink t k).st = .down
    (m = .unpowered → gives .power54vInRange s fun t => boots t ∧ t.alm = { s.alm with cycles := s.alm.cycles + 1 } ∧ t.mem = s.mem)
    ∧ (m ≠ .unpowered → exec .power54vInRange s = .next s)
    ∧ (m = .unpowered → exec .power54vLoss s = .next s)
    ∧ (m ≠ .unpowered → gives .power54vLoss s fun t => t.pwr.mst = .unpowered ∧ t.jobs = [] ∧ t.tables = [] ∧ t.rings = [] ∧ t.tim = {}
        ∧ t.alm = newerCopy s ∧ t.almA = s.almA ∧ t.almB = s.almB ∧ t.sec.otp = s.sec.otp ∧ t.wear.c = (newerCopy s).credit ∧ ∀ d, dom t d = .off)
    ∧ (m = .off → gives .mgmtBoot s fun t => boots t ∧ t.alm = { s.alm with boots := s.alm.boots + 1 } ∧ t.mem = s.mem)
    ∧ (m = .boot → s.pwr.bootFailed = true → gives .mgmtBoot s fun t => boots t ∧ t.pwr.bootFailed = false ∧ t.jobs = [])
    ∧ (m ≠ .off → (m ≠ .boot ∨ s.pwr.bootFailed = false) → exec .mgmtBoot s = .next s)
    ∧ (let runs := m = .boot ∧ s.pwr.refclk = true ∧ s.pwr.fwOk = false ∧ s.pwr.bootFailed = false
       (¬ runs → exec .bootVerifyDone s = .next s)
       ∧ (runs → (bankPasses s s.sec.selB = true ∨ bankPasses s (!s.sec.selB) = true) → gives .bootVerifyDone s fun t =>
         t.pwr.fwOk = true ∧ t.pwr.mst = .boot ∧ t.portA.retryStatus = false ∧ t.portB.retryStatus = false ∧ t.sec.gen = activeGen s
           ∧ t.sec.runB = (if bankPasses s s.sec.selB then s.sec.selB else !s.sec.selB)
           ∧ t.sec.fallback = !bankPasses s s.sec.selB ∧ t.mem = s.mem
           ∧ ∀ k, bankOfFw s t.sec.runB = some k → t.sec.svn = k.svn)
       ∧ (runs → bankPasses s s.sec.selB = false → bankPasses s (!s.sec.selB) = false → gives .bootVerifyDone s fun t =>
         t.pwr.bootFailed = true ∧ t.pwr.fwOk = false ∧ t.pwr.mst = .boot ∧ t.sec = s.sec))
    ∧ (∀ (k : BitVec 5) (ok : Bool),
      let runs : Prop := m = .boot ∧ s.pwr.refclk = true ∧ s.pwr.fwOk = true ∧ s.pwr.bootFailed = false ∧ k.toNat < 20
      (¬ runs → exec (.dramTrainingDone k ok) s = .next s)
      ∧ (runs → ok = true → gives (.dramTrainingDone k ok) s fun t => t = { s with pwr := t.pwr }
        ∧ t.pwr = { s.pwr with dramDone := t.pwr.dramDone } ∧ k.toNat ∈ t.pwr.dramDone ∧ ∀ i, i ≠ k.toNat → (i ∈ t.pwr.dramDone ↔ i ∈ s.pwr.dramDone))
      ∧ (runs → ok = false → gives (.dramTrainingDone k ok) s fun t => eventFrame { s with pwr := { s.pwr with bootFailed := true } } t
        ∧ raises s t evPwrDramtrain [k.toNat]))
    ∧ (readyToServe s = false → exec .moduleReady s = .next s)
    ∧ (readyToServe s = true → s.pwr.pd.length = 64 → gives .moduleReady s fun t => t.pwr.mst = .active
        ∧ (∀ d, (43 ≤ d ∧ d ≤ 59) ∨ d = 63 → dom t d = .on) ∧ (∀ d, 36 ≤ d ∧ d ≤ 42 → dom t d = .retain)
        ∧ (s.pwr.tripNew = true → raises s t evPwrTrip [s.pwr.tripCause] ∧ t.alm.trips = s.alm.trips + 1)
        ∧ (s.sec.fallback = true → raises s t evSecFwfallback []) ∧ (s.sec.gen = none → raises s t evSecNolocket []))
    ∧ ((m = .active ∨ m = .sleep) → gives .refclkLoss s fun t => t.pwr.mst = .off ∧ lost t ∧ t.pwr.refclk = false ∧ t.pwr.refOff = true)
    ∧ (m = .boot → gives .refclkLoss s fun t => t.pwr.mst = .boot ∧ lost t ∧ t.pwr.refclk = false ∧ t.pwr.fwOk = false)
    ∧ ((m = .off ∨ m = .unpowered) → exec .refclkLoss s = .next { s with pwr := { s.pwr with refclk := false } })
    ∧ (m = .off → s.pwr.refOff = true → gives .refclkReturn s fun t => boots t ∧ t.pwr.refclk = true ∧ t.alm.boots = s.alm.boots + 1)
    ∧ ((m ≠ .off ∨ s.pwr.refOff = false) → exec .refclkReturn s = .next { s with pwr := { s.pwr with refclk := true, refOff := false } })

/-! ### Power requests, the limits, the controller -/

/-- PWR_REQ_SLEEP, PWR_REQ_OFF, PWR_REQ_WAKE, SLEEP_WAIT_TIMEOUT, SLEEP_ENTRY, OFF_ENTRY, MGMT_WAKE and WAKE_COMPLETE (R436 to R439): a request
proceeds where every job holds and, for off without FORCE, no tiered table is dirty; work that remains at the end of the wait
ends it; sleep turns the domains off or to retain and keeps memory but for T0's lost parts; off keeps T3 and the lifetime
counts. -/
def Obligations.PowerRequests : Prop :=
  ∀ s : State,
    let p := s.pwr
    let awake : Prop := p.mst = .active ∧ p.pending = none
    let holds : Prop := ∀ p j, (p, j) ∈ s.jobs → j.phase = .held
    let refused (t : State) (why : Nat) : Prop := raises s t evPwrRefused [why] ∧ t.pwr.rstat = 3 ∧ t.pwr.why = why ∧ t.pwr.pending = none
      ∧ t.pwr.mst = p.mst ∧ t.jobs = s.jobs
    let waits (t : State) (off force : Bool) : Prop := t = { s with pwr := { p with
      regReq := if off then 2 else 1, regForce := force, why := 0, rstat := 1, pending := some { off := off, force := force } } }
    (∀ w : Who,
      byRight (.pwrReqSleep w) s (operatorOk s w) w 0x4000 (fun t => (awake → holds → waits t false false)
        ∧ (awake → ¬ holds → refused t 1) ∧ (¬ awake → t = storeReq s 1 false))
      ∧ (∀ force : Bool,
        let may : Prop := p.pending = none ∧ (p.mst = .active ∨ p.mst = .sleep)
        byRight (.pwrReqOff w force) s (operatorOk s w) w 0x4000 fun t => (may → holds → (force = true ∨ firstDirty s = none) → waits t true force)
          ∧ (may → ¬ holds → refused t 1)
          ∧ (∀ k, may → holds → force = false → firstDirty s = some k → refused t 3 ∧ t.pwr.dpart = k / 4096 ∧ t.pwr.dtid = k % 4096)
          ∧ (¬ may → t = storeReq s 2 force))
      ∧ byRight (.pwrReqWake w) s (operatorOk s w) w 0x4000 fun t =>
        let q := (storeReq s 0 false).pwr
        (p.pending ≠ none → t = { s with pwr := { q with pending := none, rstat := 0 } })
          ∧ (p.pending = none → t = { s with pwr := if p.mst = .sleep then { q with waking := true } else q }))
    ∧ (p.pending ≠ none → workLeft s = true → gives .sleepWaitTimeout s fun t => refused t 2)
    ∧ (p.pending = none ∨ workLeft s = false → exec .sleepWaitTimeout s = .next s)
    ∧ (let may : Prop := mayEnter s false = true ∧ p.mst = .active
       (¬ may → exec .sleepEntry s = .next s)
       ∧ (may → p.pd.length = 64 → gives .sleepEntry s fun t => t.pwr.mst = .sleep ∧ t.pwr.pending = none ∧ t.pwr.rstat = 2
         ∧ (s.parked = [] → t.mem = s.mem ∧ t.rings = s.rings ∧ t.fns = s.fns) ∧ t.tables = s.tables ∧ t.alm.sleeps = s.alm.sleeps + 1
         ∧ (∀ d, (d < 36 ∨ (44 ≤ d ∧ d ≤ 47) ∨ (52 ≤ d ∧ d ≤ 59) ∨ d = 63) → dom t d = .off)
         ∧ (∀ d, 48 ≤ d ∧ d ≤ 51 → dom t d = .retain) ∧ (∀ d, 60 ≤ d ∧ d ≤ 62 → dom t d = dom s d)
         ∧ (∀ d, 36 ≤ d ∧ d ≤ 42 → dom t d = .retain)
         ∧ ∀ k, k < s.fabr.links.length → (getLink t k).st = .down))
    ∧ (let may : Prop := mayEnter s true = true
       (¬ may → exec .offEntry s = .next s)
       ∧ (may → gives .offEntry s fun t => t.pwr.mst = .off ∧ t.pwr.trip = false ∧ t.pwr.rstat = 2 ∧ (∀ d, dom t d = .off) ∧ t.jobs = []
         ∧ t.tables = [] ∧ t.rings = [] ∧ t.tim.now = s.tim.now ∧ t.sec.otp = s.sec.otp ∧ t.alm.onSec = s.alm.onSec
         ∧ ∀ a, t3Base ≤ a → a < t3End → t.mem.get a = s.mem.get a))
    ∧ (p.mst = .sleep → exec .mgmtWake s = .next { s with pwr := { p with waking := true, regReq := 0 } })
    ∧ (p.mst ≠ .sleep → exec .mgmtWake s = .next s)
    ∧ (p.mst = .sleep → p.waking = true → p.pd.length = 64 → gives .wakeComplete s fun t => t.pwr.mst = .active ∧ t.pwr.waking = false
        ∧ (∀ d, (43 ≤ d ∧ d ≤ 59) ∨ d = 63 → dom t d = .on) ∧ t.mem = s.mem ∧ t.tables = s.tables ∧ t.jobs = s.jobs ∧ t.rings = s.rings)
    ∧ ((p.mst ≠ .sleep ∨ p.waking = false) → exec .wakeComplete s = .next s)

/-- PWR_BRAKE_ASSERT, PWR_BRAKE_RELEASE, POWER_SAMPLE, DUTY_ADJUST_TICK, WATCHDOG_EXPIRY and HK_RESTART_COMPLETE (R441, R444, R527): the
brake holds the duty at 4/16 at most; 1 ms above 1,150 W halves it, not below 4/16; a tick moves it by 1/16 down above the limit
or with a die at 100 °C, up below 95 % of it; a restart of the controller counts and reports itself and changes no register. -/
def Obligations.PowerLimits : Prop :=
  ∀ s : State,
    let p := s.pwr
    let off : Prop := p.mst = .off ∨ p.mst = .unpowered
    let d := s.arr.duty
    let set (u : State) (x : Nat) : State := { u with arr := { u.arr with duty := if p.brake then Nat.min 4 x else x } }
    exec .pwrBrakeAssert s = .next { s with pwr := { p with brake := true }, arr := { s.arr with duty := Nat.min 4 d } }
    ∧ exec .pwrBrakeRelease s = .next { s with pwr := { p with brake := false } }
    ∧ (∀ watts : BitVec 16,
      let l := (watts.toNat :: p.samples).take 100
      let u : State := { s with pwr := { p with sample := watts.toNat, samples := l, avg := average l } }
      let high : Prop := (l.take 10).length = 10 ∧ 11500 < (l.take 10).foldl (· + ·) 0
      (off → exec (.powerSample watts) s = .next s)
      ∧ (¬ off → high → exec (.powerSample watts) s = .next (set u (Nat.max 4 (d / 2))))
      ∧ (¬ off → ¬ high → exec (.powerSample watts) s = .next u))
    ∧ (let hot : Prop := (∃ x ∈ p.dieTemp, 100 ≤ x) ∨ p.limit < p.avg
       (hot → exec .dutyAdjustTick s = .next (set s (Nat.max 4 (d - 1))))
       ∧ (¬ hot → p.avg * 100 < p.limit * 95 → exec .dutyAdjustTick s = .next (set s (Nat.min 16 (d + 1))))
       ∧ (¬ hot → p.limit * 95 ≤ p.avg * 100 → exec .dutyAdjustTick s = .next s))
    ∧ (dom s 62 = .on → exec .watchdogExpiry s = .next { s with pwr := { p with hkDown := true } })
    ∧ (dom s 62 ≠ .on → exec .watchdogExpiry s = .next s)
    ∧ (p.hkDown = true → gives .hkRestartComplete s fun t => eventFrame { s with
        pwr := { p with hkDown := false }, alm := { s.alm with hkRestarts := s.alm.hkRestarts + 1 } } t ∧ raises s t evPwrHkrestart [])
    ∧ (p.hkDown = false → exec .hkRestartComplete s = .next s)

/-! ### Security -/

/-- FWUPDATE, SVCOMMIT, RKREVOKE, LKPROG, DBGUNLOCK, IDCSR, IDINSTALL, RECOVER, ATTESTATION_REQUEST and JTAG_ACCESS (R451 to R477): a request
runs with steward authority, while the firmware runs and with its data in the requester's window, and answers its status and
reason in the mailbox; an image that fails leaves the selection; the version counter rises to the running image's; only
blown bits are added; an attestation report carries the nonce and both signatures of the next index. -/
def Obligations.Security : Prop :=
  ∀ s : State,
    let stewards (c : Instr) (r : SReq) (code : Nat) (eff : State → Prop) : Prop :=
      let go : Prop := reaches s r.who = true ∧ stewardOk s r.who = true
      let data : Prop := r.who = none ∨ r.len = 0 ∨ bufferOk s r.who r.addr.toNat r.len.toNat = true
      (reaches s r.who = false → exec c s = .next s)
      ∧ (reaches s r.who = true → stewardOk s r.who = false → gives c s fun t => eventFrame { s with rsp := t.rsp } t
        ∧ t.rsp = .bytes (reqBlock r code stInvalid 1 0) ∧ raises s t evSecAuth [0xB040, whoFn r.who])
      ∧ (go → s.pwr.fwOk = false → exec c s = .next (answer s r code stInvalid 8 0))
      ∧ (go → s.pwr.fwOk = true → ¬ data → exec c s = .next (answer s r code stInvalid 5 0))
      ∧ (go → s.pwr.fwOk = true → data → gives c s eff)
    let blown (t : State) (x : Nat) (b : Byte) : Prop :=
      ∀ a, t.sec.otp.get a = if a = x then s.sec.otp.get a ||| b else s.sec.otp.get a
    (∀ (r : SReq) (m : FwImage),
      let b := !s.sec.runB
      let u : State := { s with sec := if b then { s.sec with bankB := some m } else { s.sec with bankA := some m } }
      stewards (.fwupdate r m) r 1 fun t =>
        (imageFault s m = 0 → t = answer { u with sec := { u.sec with selB := b } } r 1 stDone 0 (b2n b))
        ∧ (imageFault s m = 1 ∨ imageFault s m = 2 → t = answer u r 1 stInvalid 5 0)
        ∧ (imageFault s m = 5 → t = answer u r 1 stInvalid (if 512 < m.svn then 5 else 4) 0)
        ∧ (imageFault s m ∈ [3, 4, 6, 7] → t = answer u r 1 stCksum 3 0))
    ∧ (∀ r : SReq, stewards (.svcommit r) r 2 fun t => t = { s with sec := t.sec, rsp := t.rsp }
        ∧ t.sec = { s.sec with otp := t.sec.otp, mbox := t.sec.mbox, mbDone := true }
        ∧ (s.sec.svn ≤ 512 → svCounter t = Nat.max (svCounter s) s.sec.svn)
        ∧ (∀ a, a < 0x1C0 ∨ 0x200 ≤ a → t.sec.otp.get a = s.sec.otp.get a)
        ∧ (∀ a i, bit i (s.sec.otp.get a).toNat = true → bit i (t.sec.otp.get a).toNat = true)
        ∧ t.rsp = .bytes (reqBlock r 2 stDone 0 (svCounter t)))
    ∧ (∀ (r : SReq) (st : Signed), stewards (.rkrevoke r st) r 3 fun t =>
        (st.bytes.length ≠ 64 → t = answer s r 3 stInvalid 5 0)
        ∧ (st.bytes.length = 64 → (st.keysOk = false ∨ st.sigsOk = false) → t = answer s r 3 stCksum 3 0)
        ∧ (st.bytes.length = 64 → st.keysOk = true → st.sigsOk = true → blown t 0x180 1 ∧ slot0Revoked t = true
          ∧ t.rsp = .bytes (reqBlock r 3 stDone 0 0)))
    ∧ (∀ (r : SReq) (st : Signed), stewards (.lkprog r st) r 4 fun t =>
        let g := r.operand.toNat
        let above : Prop := ∀ a, s.sec.gen = some a → a < g
        let good : Prop := recordOk g st.bytes = true ∧ st.keysOk = true ∧ st.sigsOk = true
        (freeSlot s = none → t = answer s r 4 stInvalid 6 0)
        ∧ (∀ k, freeSlot s = some k → (g ≠ k ∨ ¬ above) → t = answer s r 4 stInvalid 8 0)
        ∧ (freeSlot s = some g → above → ¬ good → t = answer s r 4 stCksum 3 0)
        ∧ (freeSlot s = some g → above → good → lkRead t (lkSlot g) 1024 = st.bytes ∧ tabGet false t.sec.sigBlocks g = true
          ∧ (∀ a, (a < lkSlot g ∨ lkSlot g + 1024 ≤ a) → t.sec.otp.get a = s.sec.otp.get a) ∧ t.sec.gen = s.sec.gen
          ∧ t.rsp = .bytes (reqBlock r 4 stDone 0 g)))
    ∧ (∀ r : SReq, stewards (.dbgunlock r) r 5 fun t =>
        (lkDebug s = false → t = answer s r 5 stInvalid 8 0)
        ∧ (lkDebug s = true → t.sec.dbg = true ∧ raises s t evSecDebug [] ∧ t.sec.otp = s.sec.otp ∧ t.rsp = .bytes (reqBlock r 5 stDone 0 0)
          ∧ ∀ k, k ≠ 3 → nth [] t.sec.meas k = nth [] s.sec.meas k))
    ∧ (∀ r : SReq, stewards (.idcsr r) r 6 fun t =>
        let room : Prop := r.who = none ∨ bufferOk s r.who r.addr.toNat csrLength = true
        (¬ room → t = answer s r 6 stInvalid 5 0)
        ∧ (room → takeIndex s = none → t = answer s r 6 stInvalid 7 0)
        ∧ (∀ i u, room → takeIndex s = some (i, u) →
          let b := serialNo u ++ ekeyOf u ++ hkeyOf u
          let d := b ++ signBoth u i b
          i = s.sec.signNext ∧ t.sec.signNext = i + 1 ∧ (r.who = none → t.rsp = .bytes (reqBlock r 6 stDone 0 d.length ++ d))
            ∧ (r.who ≠ none → t0End ≤ r.addr.toNat → t.mem.read r.addr.toNat d.length = d ∧ t.rsp = .bytes (reqBlock r 6 stDone 0 d.length))))
    ∧ (∀ (r : SReq) (c : Cert),
      let own : Prop := c.serial = serialNo s ∧ c.ekey = ekeyOf s ∧ c.hkey = hkeyOf s
      stewards (.idinstall r c) r 7 fun t => (own → t = answer { s with sec := { s.sec with cert := some c } } r 7 stDone 0 0)
        ∧ (¬ own → t = answer s r 7 stInvalid 5 0))
    ∧ (∀ (r : SReq) (m : FwImage), r.who = none → s.pwr.mst ≠ .unpowered →
      let failed : Prop := s.pwr.mst = .boot ∧ s.pwr.fwOk = false ∧ s.pwr.bootFailed = true
      let u (b : Bool) : State := { s with sec := if b then { s.sec with bankB := some m } else { s.sec with bankA := some m } }
      (¬ failed → exec (.recover r m) s = .next (answer s r 8 stInvalid 8 0))
      ∧ (failed → 1 < r.operand.toNat → exec (.recover r m) s = .next (answer s r 8 stInvalid 5 0))
      ∧ (failed → r.operand.toNat ≤ 1 → exec (.recover r m) s
          = .next (answer (u (decide (r.operand = 1))) r 8 stDone 0 r.operand.toNat)))
    ∧ (∀ (r : SReq) (m : FwImage), r.who ≠ none → reaches s r.who = true → gives (.recover r m) s fun t =>
        eventFrame { s with rsp := t.rsp } t ∧ raises s t evSecAuth [0xB040, whoFn r.who] ∧ t.rsp = .bytes (reqBlock r 8 stInvalid 1 0))
    ∧ (∀ (w : Who) (nonce : Option (List Byte)), byRight (.attestationRequest w nonce) s (operatorOk s w) w 0xB058 fun t =>
        let a := s.sec.attDst
        let may : Prop := bufferOk s w a 4224 = true ∧ s.pwr.fwOk = true
        (¬ may ∨ takeIndex s = none → t = attEnd s stInvalid 0)
        ∧ (∀ i u, may → takeIndex s = some (i, u) → t0End ≤ a →
          let n := match w with | none => nonce.getD [] | some _ => u.mem.read (a + 48) 48
          let b := reportBody u i n
          let d := b ++ signBoth u i b ++ List.replicate 12 0
          i = s.sec.signNext ∧ t.sec.signNext = i + 1 ∧ t.sec.attDone = true ∧ t.sec.attStatus = stDone ∧ t.sec.attLen = 4224
            ∧ t.mem.read a d.length = d))
    ∧ ∀ i : JtagInst, let stops : Prop := lkDebug s = true ∧ s.sec.dbg = true ∧ (i = .extest ∨ i = .debug)
        (¬ stops → exec (.jtagAccess i) s = .next s) ∧ (stops → exec (.jtagAccess i) s = .fault .debugInstruction)

/-! ### Counters, windows, Frost, samples -/

/-- BWLEN_WRITE, BANDWIDTH_WINDOW_CLOSE, the Frost commands, CTR_XSEL_CLEAR and SAMPLE_RECORD (R486 to R497): a closed window's counts
and flags enter the rings with its end time; a request past its time or seal ends with its reason, one at once copies every
live counter; CLR clears what CTR_XSEL selects; a sample that is due fills one record of the trace ring or is dropped and
counted. -/
def Obligations.Counters : Prop :=
  ∀ s : State, s.isl.frost.length = 5 → s.isl.trace.length = 4 →
    let same (t : State) : Prop := t = { s with isl := t.isl }
    let bwOff := 0x404800
    (∀ (w : Who) (v : W64), byRight (.bwlenWrite w v) s (operatorOk s w) w bwOff fun t =>
        let ok : Prop := 1000 ≤ v.toNat ∧ v.toNat ≤ 1000000000
        (¬ ok → eventFrame s t ∧ raises s t evProgError [bwOff])
        ∧ (ok → t = { s with isl := { s.isl with bwLen := v.toNat, shortEnd := some ((s.tim.now / v.toNat + 1) * v.toNat) } }))
    ∧ (let e := winEnd s
       let k := s.isl.live.bwIdx % 64
       let flags := (if s.isl.shortEnd.isSome || s.isl.shortNext then 2 ^ 48 else 0) + (if s.isl.stepped then 2 ^ 49 else 0)
       (s.tim.now < e → exec .bandwidthWindowClose s = .next s)
       ∧ (e ≤ s.tim.now → gives .bandwidthWindowClose s fun t => same t ∧ t.isl.live.win = [] ∧ t.isl.live.winStart = e
         ∧ t.isl.live.bwIdx = (s.isl.live.bwIdx + 1) % 2 ^ 32 ∧ t.isl.live.blk = s.isl.live.blk ∧ t.isl.shortEnd = none
         ∧ t.isl.stepped = false ∧ tabGet 0 t.isl.ring (64 * 58 + k) = e
         ∧ (∀ c, c < 58 → tabGet 0 t.isl.ring (64 * c + k) = tabGet 0 s.isl.live.win c % 2 ^ 48 + flags)
         ∧ ∀ q, q % 64 ≠ k → tabGet 0 t.isl.ring q = tabGet 0 s.isl.ring q))
    ∧ (∀ i : Fin 5,
      let f := getFrost s i
      let only (t : State) (g : Frost) : Prop := same t ∧ t.isl = { s.isl with frost := t.isl.frost } ∧ getFrost t i = g
        ∧ ∀ j, j ≠ i.val → getFrost t j = getFrost s j
      let captured (g : Frost) (sl : Nat) : Frost :=
        { g with seq := (g.seq + 1) % 2 ^ 32, res := 0, done := true, armed := false, capTime := s.tim.now, capSeal := sl, set := s.isl.live }
      let ended (g : Frost) (res : Nat) : Frost := { g with res := res, done := true, armed := false }
      (∀ w : Who, byRight (.frostCancel w i) s (frostOk s w i) w (frostOff i) fun t =>
          only t (if f.armed then ended { f with mode := 0 } 3 else { f with mode := 0 }))
      ∧ (∀ (w : Who) (x : W64), byRight (.frostArmTime w i x) s (frostOk s w i) w (frostOff i) fun t =>
          let g : Frost := { f with mode := 1, target := x.toNat, armed := true }
          only t (if x.toNat < s.tim.now then ended g 1 else g))
      ∧ (∀ (w : Who) (x : W64), byRight (.frostArmSeal w i x) s (frostOk s w i) w (frostOff i) fun t =>
          let g : Frost := { f with mode := 2, target := x.toNat, armed := true }
          let job := if i.val < 4 then getJob s (BitVec.ofNat 2 i.val) else none
          (job = none → only t (ended g 2))
          ∧ (∀ j, job = some j → (∃ m, j.lastSeal = some m ∧ x.toNat ≤ m) → only t (ended g 1))
          ∧ (∀ j, job = some j → (∀ m, j.lastSeal = some m → m < x.toNat) → only t g))
      ∧ (∀ w : Who, byRight (.frostAtOnce w i) s (frostOk s w i) w (frostOff i) fun t => only t (captured { f with mode := 3 } 0))
      ∧ (let due : Prop := f.armed = true ∧ f.mode = 1 ∧ f.target ≤ s.tim.now
         (due → gives (.frostCaptureTime i) s fun t => only t (captured f 0)) ∧ (¬ due → exec (.frostCaptureTime i) s = .next s)))
    ∧ (∀ (w : Who) (v : W32),
      let x := v.toNat
      let k := 4096 * bits 13 12 x + bits 11 0 x
      let clears : Prop := bit 24 x = true ∧ bits 31 28 x = 0
      byRight (.ctrXselClear w v) s (ctrRead s w (bits 13 12 x)) w 0x406000 fun t =>
        (5 < bits 31 28 x → eventFrame s t ∧ raises s t evProgError [0x406000])
        ∧ (bits 31 28 x ≤ 5 → same t ∧ t.isl.xsel = bits 31 28 x * 2 ^ 28 + bits 27 27 x * 2 ^ 27 + bits 13 0 x ∧ t.isl.live.blk = s.isl.live.blk)
        ∧ (bits 31 28 x ≤ 5 → ¬ clears → t.isl.live = s.isl.live)
        ∧ (clears → bit 27 x = true → t.isl.live = { s.isl.live with cue := t.isl.live.cue }
          ∧ tabGet {} t.isl.live.cue k = { tabGet {} s.isl.live.cue k with max := 0, sum := 0 }
          ∧ ∀ q, q ≠ k → tabGet {} t.isl.live.cue q = tabGet {} s.isl.live.cue q)
        ∧ (clears → bit 27 x = false → t.isl.live = { s.isl.live with tbl := t.isl.live.tbl }
          ∧ (∀ i, i < 12 → tabGet {} t.isl.live.tbl (k * 12 + i) = { tabGet {} s.isl.live.tbl (k * 12 + i) with total := 0, ovf := false })
          ∧ ∀ q, q / 12 ≠ k → tabGet {} t.isl.live.tbl q = tabGet {} s.isl.live.tbl q))
    ∧ ∀ (p : Part) (src : BitVec 5) (r : Sample),
      let k := 32 * p.toNat + src.toNat
      let n := tabGet 0 s.isl.due k
      let c := nth {} s.isl.trace p.toNat
      let size := 2 ^ (c.size + 12)
      let full : Prop := size ≤ c.trp - c.trc
      let a := c.base + 32 * (c.trp % size)
      (n = 0 → exec (.sampleRecord p src r) s = .next s)
      ∧ (n ≠ 0 → full → c.ovw = false → gives (.sampleRecord p src r) s fun t => same t ∧ tabGet 0 t.isl.due k = n - 1
        ∧ nth {} t.isl.trace p.toNat = { c with drop := (c.drop + 1) % 2 ^ 48 })
      ∧ (n ≠ 0 → (¬ full ∨ c.ovw = true) → t0End ≤ c.base → gives (.sampleRecord p src r) s fun t =>
        t = { s with isl := t.isl, bucket := t.bucket, mem := t.mem, poison := t.poison } ∧ tabGet 0 t.isl.due k = n - 1
        ∧ t.mem.read a 32 = sampleBytes (stepOf s p) src.toNat r ∧ (∀ x, (x < a ∨ a + 32 ≤ x) → t.mem.get x = s.mem.get x)
        ∧ nth {} t.isl.trace p.toNat = { c with trp := c.trp + 1, trc := if size ≤ c.trp - c.trc then c.trc + 1 else c.trc })

/-! ### Registers -/

/-- REGISTER_READ, REGISTER_READ_CLEAR and REGISTER_WRITE (R7, R9, R452, R453, R499, R500, R502): an access of another size or alignment is a
programming error and reads 0; a read without the right raises EV_SEC_AUTH and reads 0; a read answers the register's 64 bits
or the half that it names, and clears RS bits; a value out of range is a programming error and writes nothing; 4 bytes change
their half; a read-only register ignores a write. -/
def Obligations.Registers : Prop :=
  ∀ s : State,
    (∀ (w : Who) (off : BitVec 24) (size : Byte), ∀ c ∈ [Instr.registerRead w off size, Instr.registerReadClear w off size],
      let o := off.toNat
      let bad : Prop := (size ≠ 4 ∧ size ≠ 8) ∨ o % size.toNat ≠ 0
      let at' := o / 8 * 8
      let v := regVal s w at'
      let x := if size = 8 then v else if o % 8 = 0 then v % 2 ^ 32 else v / 2 ^ 32 % 2 ^ 32
      let rs : Prop := at' = 0xB048 ∨ at' = 0xB060 ∨ at' = 0xC028 ∨ (0x404000 ≤ at' ∧ at' < 0x404140 ∧ at' % 0x40 = 0x10)
      (reaches s w = false → exec c s = .next s)
      ∧ (reaches s w = true → bad → gives c s fun t => eventFrame { s with rsp := .data 0 } t ∧ raises s t evProgError [o])
      ∧ (reaches s w = true → ¬ bad → canRead s w at' = false → gives c s fun t =>
        eventFrame { s with rsp := .data 0 } t ∧ raises s t evSecAuth [o, whoFn w])
      ∧ (reaches s w = true → ¬ bad → canRead s w at' = true → (¬ rs ∨ o % 8 = 4) → exec c s = .next { s with rsp := .data x })
      ∧ (reaches s w = true → ¬ bad → canRead s w at' = true → o = 0xB048 →
        exec c s = .next { s with rsp := .data x, sec := { s.sec with mbDone := false } })
      ∧ (reaches s w = true → ¬ bad → canRead s w at' = true → o = 0xB060 →
        exec c s = .next { s with rsp := .data x, sec := { s.sec with attDone := false } })
      ∧ (reaches s w = true → ¬ bad → canRead s w at' = true → o = 0xC028 → exec c s = .next { s with rsp := .data x, almDone := false })
      ∧ (∀ i : Fin 5, reaches s w = true → ¬ bad → canRead s w at' = true → o = 0x404010 + 0x40 * i.val → s.isl.frost.length = 5 →
        gives c s fun t => t = { s with rsp := .data x, isl := t.isl } ∧ getFrost t i = { getFrost s i with done := false }))
    ∧ (∀ (w : Who) (off : BitVec 24) (size : Byte) (v : W64),
      let o := off.toNat
      let c := Instr.registerWrite w off size v
      (reaches s w = false → exec c s = .next s)
      ∧ (reaches s w = true → ((size ≠ 4 ∧ size ≠ 8) ∨ o % size.toNat ≠ 0) → onlyRaises c s evProgError [o])
      ∧ (((size = 4 ∨ size = 8) ∧ o % size.toNat = 0) → (o < 0x1000 ∨ (0x5000 ≤ o ∧ o < 0x6000) ∨ (0x8000 ≤ o ∧ o < 0x9000) ∨ (0xD000 ≤ o ∧ o < 0x100000)
          ∨ (0x200000 ≤ o ∧ o < 0x305000) ∨ (0x305100 ≤ o ∧ o < 0x400000)) → exec c s = .next s))
    ∧ ∀ (w : Who) (v : W64),
      let x := v.toNat
      let put (off : Nat) : Instr := .registerWrite w (BitVec.ofNat 24 off) 8 v
      let inRange (off : Nat) (right ok : Bool) (u : State) : Prop := byRight (put off) s right w off fun t =>
        (ok = true → t = u) ∧ (ok = false → eventFrame s t ∧ raises s t evProgError [off])
      let limit := bits 10 0 x
      inRange 0x4010 (operatorOk s w) (decide (1 ≤ bits 13 0 x ∧ bits 13 0 x ≤ 10000)) { s with pwr := { s.pwr with wait := bits 13 0 x } }
      ∧ inRange 0x4018 (if 950 < limit then stewardOk s w else operatorOk s w) (decide (300 ≤ limit ∧ limit ≤ 1150))
          { s with pwr := { s.pwr with limit := limit } }
      ∧ inRange 0x6008 (operatorOk s w) true { s with tim := { s.tim with src := bits 1 0 x } }
      ∧ inRange 0x6020 (operatorOk s w) (decide (1 ≤ bits 9 0 x ∧ bits 9 0 x ≤ 1000)) { s with tim := { s.tim with ptmInt := bits 9 0 x } }
      ∧ inRange 0x6038 (operatorOk s w) (decide (1000 ≤ bits 16 0 x ∧ bits 16 0 x ≤ 100000)) { s with tim := { s.tim with lead := bits 16 0 x } }
      ∧ inRange 0x7000 (stewardOk s w) (decide (1 ≤ bits 3 0 x ∧ 1 ≤ bits 7 4 x))
          { s with fabr := { s.fabr with vcwC := bits 3 0 x, vcwB := bits 7 4 x } }
      ∧ (∀ p : Part,
        let b := bits 63 30 x * 2 ^ 30
        inRange (0xA000 + 0x40 * p.toNat) (partOk s w p.toNat)
          (!nth false s.tierLock p.toNat && (b == 0 || inTier s p 1 b (2 ^ 29))) { s with tdir := setNth s.tdir p.toNat b }
        ∧ ∀ k : Fin 3,
          let old := tabGet (0, 0) s.wins (4 * p.toNat + k)
          let set (off : Nat) (n : Nat × Nat) : Prop := inRange off (partOk s w p.toNat)
            (!nth false s.tierLock p.toNat && winOk s p.toNat k n) { s with wins := tabSet s.wins (4 * p.toNat + k) n }
          set (0x9000 + 0x100 * p.toNat + 16 * k.val) (b, old.2) ∧ set (0x9008 + 0x100 * p.toNat + 16 * k.val) (old.1, bits 15 0 x))
      ∧ (∀ c : Byte,
        let d := getChan s c.toNat
        inRange (0x3000 + 16 * c.toNat) (partOk s w d.part.toNat && partOk s w (bits 1 0 x))
          (!d.plan && (chanBound s c.toNat).isNone && bits 5 4 x != 3)
          (putChan s c.toNat { d with part := BitVec.ofNat 2 (bits 1 0 x), use := bits 5 4 x, dcq := bits 29 16 x }))
      ∧ (∀ n : RingNum,
        let r := getRing s n.toNat
        let set (o : Nat) (q : Ring) : Prop := inRange (rngOff n.toNat + o) (ringRight s w r) (!r.enable) (putRing s n.toNat q)
        set 0 { r with base := bits 63 12 x * 4096 } ∧ set 8 { r with dbaddr := bits 63 3 x * 8 }
          ∧ set 0x18 { r with modt := bits 9 0 x, modc := bits 24 16 x, vec := bits 37 32 x, emask := bits 47 40 x })
      ∧ (∀ i : Fin 5, inRange (frostOff i + 8) (frostOk s w i) true (putFrost s i { getFrost s i with target := x })
        ∧ ∀ (hi : Bool), byRight (.registerWrite w (BitVec.ofNat 24 (frostOff i + 8 + 4 * b2n hi)) 4 v) s (frostOk s w i) w (frostOff i + 8) fun t =>
          let y := (getFrost s i).target
          t = putFrost s i { getFrost s i with target := if hi then y % 2 ^ 32 + x % 2 ^ 32 * 2 ^ 32 else x % 2 ^ 32 + y / 2 ^ 32 * 2 ^ 32 })

/-! ### What every step keeps -/

/-- What holds of every state that a run reaches: memory is in canonical form, no ring number stands twice, and the lists
of domains, links, stacks, shadow sets and trace rings have their lengths. -/
def Obligations.InvariantKept : Prop :=
  StepKeeps fun s => s.mem.wf = true ∧ keysRise s.rings ∧ s.pwr.pd.length = 64 ∧ s.fabr.links.length = 24 ∧ s.dramStacks.length = 28
    ∧ s.isl.frost.length = 5 ∧ s.isl.trace.length = 4

/-- A blown bit of the Locket stays blown, whatever command runs (R471, R461): no step clears a bit of it. -/
def Obligations.FusesKept : Prop :=
  ∀ a i, StepKeeps fun s => bit i (s.sec.otp.get a).toNat = true

/-- The state after reset has what every step keeps; its memory lists nothing, the module boots, every switched domain is off,
and no bit of the Locket is blown (the Locket's contents at reset are the model's own, log entry 5). -/
def Obligations.ResetHolds : Prop :=
  let s := State.reset
  s.mem.wf = true ∧ keysRise s.rings ∧ s.pwr.pd.length = 64 ∧ s.fabr.links.length = 24 ∧ s.dramStacks.length = 28 ∧ s.isl.frost.length = 5
    ∧ s.isl.trace.length = 4 ∧ s.mem.cells = [] ∧ s.pwr.mst = .boot ∧ (∀ d, dom s d = .off) ∧ s.pending = [] ∧ s.jobs = [] ∧ s.rings = []
    ∧ (∀ k, (getLink s k).st = .down) ∧ s.portA.weights = [8, 4, 2, 1] ∧ s.portA.limits = [32, 64, 128]
    ∧ s.tim.lead = 5000 ∧ s.tim.ptmInt = 10 ∧ s.pwr.wait = 1000 ∧ s.pwr.limit = 950 ∧ s.isl.bwLen = 1000000 ∧ s.fabr.vcwC = 3 ∧ s.fabr.vcwB = 1
    ∧ ∀ a, s.sec.otp.get a = 0
end

