-- ==== Sys2Proof/Laws/Tab.lean ====
section
/-! SUPPORT. The sparse tables, lists by index and byte strings: what a read gives after a write. -/

namespace Sys2Proof.Machine

theorem tabFind_tabSet_same {α : Type} (t : Tab α) (k : Nat) (v : α) : tabFind (tabSet t k v) k = some v := by
  induction t with
  | nil => simp [tabSet, tabFind]
  | cons a t ih =>
    simp only [tabSet]
    split
    · simp [tabFind]
    · split
      · simp [tabFind]
      · simp only [tabFind]; rw [if_neg (by omega), ih]

theorem tabFind_tabSet_other {α : Type} (t : Tab α) (k l : Nat) (v : α) (h : l ≠ k) :
    tabFind (tabSet t k v) l = tabFind t l := by
  induction t with
  | nil => simp [tabSet, tabFind, Ne.symm h]
  | cons a t ih =>
    simp only [tabSet]
    split
    · simp only [tabFind]; rw [if_neg (by omega)]
    · split
      · simp only [tabFind]; rw [if_neg (by omega), if_neg (by omega)]
      · simp only [tabFind, ih]

/-- A read of a table after a write: the value at the key written, what stood there at any other. -/
theorem tabFind_tabSet {α : Type} (t : Tab α) (k l : Nat) (v : α) :
    tabFind (tabSet t k v) l = if l = k then some v else tabFind t l := by
  split
  · subst_vars; exact tabFind_tabSet_same t _ v
  · exact tabFind_tabSet_other t k l v ‹_›

theorem tabGet_eq_find {α : Type} (d : α) (t : Tab α) (k : Nat) : tabGet d t k = (tabFind t k).getD d := by
  induction t with
  | nil => rfl
  | cons a t ih => simp only [tabGet, tabFind]; split <;> simp [*]

/-- The same for a read with a default. -/
theorem tabGet_tabSet {α : Type} (d : α) (t : Tab α) (k l : Nat) (v : α) :
    tabGet d (tabSet t k v) l = if l = k then v else tabGet d t l := by
  simp only [tabGet_eq_find, tabFind_tabSet]; split <;> rfl

@[simp] theorem length_bytesOf (n v : Nat) : (bytesOf n v).length = n := by
  induction n generalizing v with
  | zero => rfl
  | succ n ih => simp [bytesOf, ih]

/-- The number that a byte string spells is the one it was formed from, at its width. -/
theorem natOf_bytesOf (n v : Nat) : natOf (bytesOf n v) = v % 2 ^ (8 * n) := by
  induction n generalizing v with
  | zero => simp [bytesOf, natOf, Nat.mod_one]
  | succ n ih =>
    have h : 2 ^ (8 * (n + 1)) = 256 * 2 ^ (8 * n) := by rw [Nat.mul_add, Nat.pow_add]; omega
    simp only [bytesOf, natOf, ih, BitVec.toNat_ofNat, h, Nat.mod_mul]

theorem nth_setNth_same {α : Type} (d : α) (l : List α) (i : Nat) (v : α) (h : i < l.length) :
    nth d (setNth l i v) i = v := by
  induction l generalizing i with
  | nil => simp at h
  | cons a l ih =>
    cases i with
    | zero => rfl
    | succ i => exact ih i (by simpa using h)

theorem nth_setNth_other {α : Type} (d : α) (l : List α) (i k : Nat) (v : α) (h : k ≠ i) :
    nth d (setNth l i v) k = nth d l k := by
  induction l generalizing i k with
  | nil => rfl
  | cons a l ih =>
    cases i with
    | zero => cases k with
      | zero => omega
      | succ k => rfl
    | succ i => cases k with
      | zero => rfl
      | succ k => exact ih i k (by omega)

@[simp] theorem length_setNth {α : Type} (l : List α) (i : Nat) (v : α) : (setNth l i v).length = l.length := by
  induction l generalizing i with
  | nil => rfl
  | cons a l ih =>
    cases i with
    | zero => rfl
    | succ i => simpa [setNth, modNth] using ih i

end Sys2Proof.Machine
end

