-- ==== Sys2Proof/Laws/Fabric.lean ====
section
/-! SUPPORT. Frames: their length, and the check of the FCRC that a sender writes. -/

namespace Sys2Proof.Machine

/-- A frame's image is its header up to the FCRC, the FCRC, and the rest, neither of which depends on the FCRC. -/
theorem frameImage_parts (f : Frame) : ∃ a b : List Byte, a.length = 56 ∧ ∀ c, frameImage f c = a ++ (bytesOf 8 c ++ b) :=
  ⟨[f.kind, 0] ++ bytesOf 2 f.vcmap.toNat ++ [f.som, f.eom, 0, 0] ++ bytesOf 4 f.seq.toNat ++ bytesOf 4 f.ack.toNat
    ++ bytesOf 2 f.crb ++ bytesOf 2 f.crc ++ bytesOf 2 f.crk ++ bytesOf 2 f.lstat.toNat ++ List.replicate 32 0,
   padTo 0 448 f.slots.flatten, by simp, fun c => by simp only [frameImage, List.append_assoc]⟩

/-- The FCRC of a frame that is sent holds where it arrives unchanged (R335). -/
theorem fcrcGood_frameBytes (f : Frame) : fcrcGood (frameBytes f) = true := by
  obtain ⟨a, b, ha, h⟩ := frameImage_parts f
  have h8 : ∀ c, (bytesOf 8 c).length = 8 := length_bytesOf 8
  rw [fcrcGood, frameBytes, decide_eq_true_iff, h]
  have e1 : slice (a ++ (bytesOf 8 (crc64 (frameImage f 0)).toNat ++ b)) 56 8 = bytesOf 8 (crc64 (frameImage f 0)).toNat := by
    rw [slice, List.drop_left' ha, List.take_left' (h8 _)]
  have e2 : (a ++ (bytesOf 8 (crc64 (frameImage f 0)).toNat ++ b)).take 56 ++ List.replicate 8 0
      ++ (a ++ (bytesOf 8 (crc64 (frameImage f 0)).toNat ++ b)).drop 64 = frameImage f 0 := by
    rw [List.take_left' ha, h 0, ← List.append_assoc a, List.drop_left' (by simp [ha]), List.append_assoc]
    rfl
  rw [e1, e2, natOf_bytesOf, Nat.mod_eq_of_lt (crc64 (frameImage f 0)).isLt]

end Sys2Proof.Machine
end

