-- ==== Sys2Proof/Laws/Memory.lean ====
section
/-! SUPPORT. The memories: a read after a write, and the canonical form, which every memory operation keeps. -/

namespace Sys2Proof.Machine

theorem cellFind_cellSet (c : List Host.Cell) (a x : Nat) (b : Byte) :
    cellFind (cellSet c a b) x = if x = a then some b else cellFind c x := by
  induction c with
  | nil => simp only [cellSet, cellFind]; split <;> split <;> simp_all
  | cons h t ih =>
    simp only [cellSet]
    by_cases ha : a < h.1
    · rw [if_pos ha]; simp only [cellFind]
      by_cases hx : a = x
      · simp [hx]
      · rw [if_neg hx, if_neg (Ne.symm hx)]
    · rw [if_neg ha]
      by_cases hb : a = h.1
      · rw [if_pos hb]; simp only [cellFind]
        by_cases hx : a = x
        · simp [hx]
        · rw [if_neg hx, if_neg (Ne.symm hx), if_neg (by omega)]
      · rw [if_neg hb]; simp only [cellFind, ih]
        by_cases hx : h.1 = x
        · rw [if_pos hx, if_pos hx, if_neg (by omega)]
        · rw [if_neg hx, if_neg hx]

theorem cellFind_cellErase (c : List Host.Cell) (a x : Nat) :
    cellFind (cellErase c a) x = if x = a then none else cellFind c x := by
  induction c with
  | nil => simp [cellErase, cellFind]
  | cons k t ih =>
    simp only [cellErase]
    by_cases hk : k.1 = a
    · rw [if_pos hk, ih]; simp only [cellFind]
      by_cases hx : x = a
      · rw [if_pos hx, if_pos hx]
      · rw [if_neg hx, if_neg hx, if_neg (by omega)]
    · rw [if_neg hk]; simp only [cellFind, ih]
      by_cases hx : k.1 = x
      · rw [if_pos hx, if_pos hx, if_neg (by omega)]
      · rw [if_neg hx, if_neg hx]

theorem cellsRise_mono (c : List Host.Cell) (lo hi : Nat) (h : cellsRise hi c = true) (hl : lo ≤ hi) :
    cellsRise lo c = true := by
  cases c with
  | nil => rfl
  | cons a t =>
    simp only [cellsRise, Bool.and_eq_true, decide_eq_true_eq] at h ⊢
    exact ⟨by omega, h.2⟩

theorem cellsRise_cellSet (c : List Host.Cell) (lo a : Nat) (b : Byte) (h : cellsRise lo c = true) (ha : lo ≤ a) :
    cellsRise lo (cellSet c a b) = true := by
  induction c generalizing lo with
  | nil => simp [cellSet, cellsRise, ha]
  | cons k t ih =>
    simp only [cellsRise, Bool.and_eq_true, decide_eq_true_eq] at h
    simp only [cellSet]
    split
    · simp only [cellsRise, Bool.and_eq_true, decide_eq_true_eq]; exact ⟨ha, by omega, h.2⟩
    · split
      · subst_vars; simp only [cellsRise, Bool.and_eq_true, decide_eq_true_eq]; exact ⟨ha, h.2⟩
      · simp only [cellsRise, Bool.and_eq_true, decide_eq_true_eq]; exact ⟨h.1, ih _ h.2 (by omega)⟩

theorem cellsRise_cellErase (c : List Host.Cell) (lo a : Nat) (h : cellsRise lo c = true) :
    cellsRise lo (cellErase c a) = true := by
  induction c generalizing lo with
  | nil => rfl
  | cons k t ih =>
    simp only [cellsRise, Bool.and_eq_true, decide_eq_true_eq] at h
    simp only [cellErase]
    split
    · exact cellsRise_mono _ _ _ (ih _ h.2) (by omega)
    · simp only [cellsRise, Bool.and_eq_true, decide_eq_true_eq]; exact ⟨h.1, ih _ h.2⟩

theorem cellsRise_filter (c : List Host.Cell) (lo : Nat) (f : Host.Cell → Bool) (h : cellsRise lo c = true) :
    cellsRise lo (c.filter f) = true := by
  induction c generalizing lo with
  | nil => rfl
  | cons k t ih =>
    simp only [cellsRise, Bool.and_eq_true, decide_eq_true_eq] at h
    simp only [List.filter_cons]
    split
    · simp only [cellsRise, Bool.and_eq_true, decide_eq_true_eq]; exact ⟨h.1, ih _ h.2⟩
    · exact cellsRise_mono _ _ _ (ih _ h.2) (by omega)

theorem mem_cellSet (c : List Host.Cell) (a : Nat) (b : Byte) (x : Host.Cell) (h : x ∈ cellSet c a b) :
    x = (a, b) ∨ x ∈ c := by
  induction c with
  | nil => simpa [cellSet] using h
  | cons k t ih =>
    simp only [cellSet] at h
    split at h
    · simpa using h
    · split at h
      · rcases List.mem_cons.1 h with h | h
        · exact Or.inl h
        · exact Or.inr (List.mem_cons_of_mem _ h)
      · rcases List.mem_cons.1 h with h | h
        · exact Or.inr (h ▸ List.mem_cons_self)
        · rcases ih h with h | h
          · exact Or.inl h
          · exact Or.inr (List.mem_cons_of_mem _ h)

theorem mem_cellErase (c : List Host.Cell) (a : Nat) (x : Host.Cell) (h : x ∈ cellErase c a) : x ∈ c := by
  induction c with
  | nil => exact h
  | cons k t ih =>
    simp only [cellErase] at h
    split at h
    · exact List.mem_cons_of_mem _ (ih h)
    · rcases List.mem_cons.1 h with h | h
      · exact h ▸ List.mem_cons_self
      · exact List.mem_cons_of_mem _ (ih h)

@[simp] theorem Memory.dflt_set (m : Memory) (a : Nat) (b : Byte) (x : Nat) : (m.set a b).dflt x = m.dflt x := rfl

/-- Writing one byte keeps the canonical form. -/
theorem Memory.wf_set (m : Memory) (a : Nat) (b : Byte) (h : m.wf = true) : (m.set a b).wf = true := by
  simp only [Memory.wf, Bool.and_eq_true, List.all_eq_true, decide_eq_true_eq] at h ⊢
  obtain ⟨hr, hd⟩ := h
  simp only [Memory.set]
  split
  · exact ⟨cellsRise_cellErase _ _ _ hr, fun x hx => hd x (mem_cellErase _ _ _ hx)⟩
  · refine ⟨cellsRise_cellSet _ _ _ _ hr (Nat.zero_le _), fun x hx => ?_⟩
    rcases mem_cellSet _ _ _ _ hx with rfl | hx
    · assumption
    · exact hd x hx

/-- Writing a byte string keeps it. -/
theorem Memory.wf_write (m : Memory) (a : Nat) (bs : List Byte) (h : m.wf = true) : (m.write a bs).wf = true := by
  induction bs generalizing m a with
  | nil => exact h
  | cons b bs ih => exact ih _ _ (Memory.wf_set m a b h)

/-- Writing a number keeps it. -/
theorem Memory.wf_writeNat (m : Memory) (a n v : Nat) (h : m.wf = true) : (m.writeNat a n v).wf = true :=
  Memory.wf_write m a _ h

/-- Writing zeros keeps it. -/
theorem Memory.wf_zero (m : Memory) (a n : Nat) (h : m.wf = true) : (m.zero a n).wf = true := by
  simp only [Memory.zero]
  split
  · simp only [Memory.wf, Bool.and_eq_true, List.all_eq_true, decide_eq_true_eq] at h ⊢
    exact ⟨cellsRise_filter _ _ _ h.1, fun x hx => h.2 x (List.mem_filter.1 hx).1⟩
  · exact Memory.wf_write m a _ h

/-- Reset memory has the canonical form. -/
theorem reset_mem_wf : State.reset.mem.wf = true := rfl

/-- A read of one byte after a write of one byte. -/
theorem Memory.get_set (m : Memory) (a x : Nat) (b : Byte) : (m.set a b).get x = if x = a then b else m.get x := by
  simp only [Memory.get, Memory.dflt_set]
  simp only [Memory.set]
  split
  · rw [cellFind_cellErase]; split <;> simp_all
  · rw [cellFind_cellSet]; split <;> simp_all

/-- A write leaves every byte outside its range alone. -/
theorem Memory.get_write_outside (m : Memory) (a x : Nat) (bs : List Byte) (hx : x < a ∨ a + bs.length ≤ x) :
    (m.write a bs).get x = m.get x := by
  induction bs generalizing m a with
  | nil => rfl
  | cons b bs ih =>
    simp only [List.length_cons] at hx
    rw [Memory.write, ih _ _ (by omega), Memory.get_set, if_neg (by omega)]

/-- A write stores its byte string. -/
theorem Memory.get_write_inside (m : Memory) (a k : Nat) (bs : List Byte) (hk : k < bs.length) :
    (m.write a bs).get (a + k) = nth 0 bs k := by
  induction bs generalizing m a k with
  | nil => simp at hk
  | cons b bs ih =>
    cases k with
    | zero =>
      rw [Memory.write, Memory.get_write_outside _ _ _ _ (by omega), Memory.get_set]
      simp [nth]
    | succ k =>
      have := ih (m.set a b) (a + 1) k (by simpa using hk)
      rw [Memory.write, show a + (k + 1) = a + 1 + k by omega, this]; rfl

/-- A byte string read back where it was written. -/
theorem Memory.read_write (m : Memory) (a : Nat) (bs : List Byte) : (m.write a bs).read a bs.length = bs := by
  induction bs generalizing m a with
  | nil => rfl
  | cons b bs ih =>
    have h0 := Memory.get_write_inside m a 0 (b :: bs) (by simp)
    simp only [Nat.add_zero, nth] at h0
    simp only [List.length_cons, Memory.read]
    rw [h0, Memory.write, ih]

/-- A range apart from the one written reads as before. -/
theorem Memory.read_write_outside (m : Memory) (a x n : Nat) (bs : List Byte) (hx : x + n ≤ a ∨ a + bs.length ≤ x) :
    (m.write a bs).read x n = m.read x n := by
  induction n generalizing x with
  | zero => rfl
  | succ n ih =>
    simp only [Memory.read]
    rw [Memory.get_write_outside m a x bs (by omega), ih (x + 1) (by omega)]

/-- A number read back where it was written. -/
theorem Memory.readNat_writeNat (m : Memory) (a n v : Nat) : (m.writeNat a n v).readNat a n = v % 2 ^ (8 * n) := by
  have h := Memory.read_write m a (bytesOf n v)
  rw [length_bytesOf] at h
  rw [Memory.readNat, Memory.writeNat, h, natOf_bytesOf]

theorem Memory.length_read (m : Memory) (a n : Nat) : (m.read a n).length = n := by
  induction n generalizing a with
  | zero => rfl
  | succ n ih => rw [Memory.read, List.length_cons, ih]

theorem Memory.read_add (m : Memory) (a i j : Nat) : m.read a (i + j) = m.read a i ++ m.read (a + i) j := by
  induction i generalizing a with
  | zero => simp [Memory.read]
  | succ i ih => rw [Nat.succ_add, Memory.read, Memory.read, ih, List.cons_append, Nat.succ_add_eq_add_succ]

end Sys2Proof.Machine
end

