-- ==== Sys2Proof/Laws/State.lean ====
section
/-! SUPPORT. State updates field by field: what each of the shared updates leaves as it was, and what a read of the field it
writes gives. -/

namespace Sys2Proof.Machine

/-! ### `modJob` -/

@[simp] theorem modJob_pending (s : State) (p : Part) (f : Job → Job) : (modJob s p f).pending = s.pending := by unfold modJob; split <;> rfl
@[simp] theorem modJob_free (s : State) (p : Part) (f : Job → Job) : (modJob s p f).free = s.free := by unfold modJob; split <;> rfl
@[simp] theorem modJob_arr (s : State) (p : Part) (f : Job → Job) : (modJob s p f).arr = s.arr := by unfold modJob; split <;> rfl
@[simp] theorem modJob_vec (s : State) (p : Part) (f : Job → Job) : (modJob s p f).vec = s.vec := by unfold modJob; split <;> rfl
@[simp] theorem modJob_mem (s : State) (p : Part) (f : Job → Job) : (modJob s p f).mem = s.mem := by unfold modJob; split <;> rfl
@[simp] theorem modJob_poison (s : State) (p : Part) (f : Job → Job) : (modJob s p f).poison = s.poison := by unfold modJob; split <;> rfl
@[simp] theorem modJob_spdErr (s : State) (p : Part) (f : Job → Job) : (modJob s p f).spdErr = s.spdErr := by unfold modJob; split <;> rfl
@[simp] theorem modJob_parked (s : State) (p : Part) (f : Job → Job) : (modJob s p f).parked = s.parked := by unfold modJob; split <;> rfl
@[simp] theorem modJob_streaks (s : State) (p : Part) (f : Job → Job) : (modJob s p f).streaks = s.streaks := by unfold modJob; split <;> rfl
@[simp] theorem modJob_granted (s : State) (p : Part) (f : Job → Job) : (modJob s p f).granted = s.granted := by unfold modJob; split <;> rfl
@[simp] theorem modJob_tables (s : State) (p : Part) (f : Job → Job) : (modJob s p f).tables = s.tables := by unfold modJob; split <;> rfl
@[simp] theorem modJob_places (s : State) (p : Part) (f : Job → Job) : (modJob s p f).places = s.places := by unfold modJob; split <;> rfl
@[simp] theorem modJob_tblOps (s : State) (p : Part) (f : Job → Job) : (modJob s p f).tblOps = s.tblOps := by unfold modJob; split <;> rfl
@[simp] theorem modJob_sorts (s : State) (p : Part) (f : Job → Job) : (modJob s p f).sorts = s.sorts := by unfold modJob; split <;> rfl
@[simp] theorem modJob_sortOrder (s : State) (p : Part) (f : Job → Job) : (modJob s p f).sortOrder = s.sortOrder := by unfold modJob; split <;> rfl
@[simp] theorem modJob_rings (s : State) (p : Part) (f : Job → Job) : (modJob s p f).rings = s.rings := by unfold modJob; split <;> rfl
@[simp] theorem modJob_fns (s : State) (p : Part) (f : Job → Job) : (modJob s p f).fns = s.fns := by unfold modJob; split <;> rfl
@[simp] theorem modJob_portA (s : State) (p : Part) (f : Job → Job) : (modJob s p f).portA = s.portA := by unfold modJob; split <;> rfl
@[simp] theorem modJob_portB (s : State) (p : Part) (f : Job → Job) : (modJob s p f).portB = s.portB := by unfold modJob; split <;> rfl
@[simp] theorem modJob_pctl (s : State) (p : Part) (f : Job → Job) : (modJob s p f).pctl = s.pctl := by unfold modJob; split <;> rfl
@[simp] theorem modJob_msixTab (s : State) (p : Part) (f : Job → Job) : (modJob s p f).msixTab = s.msixTab := by unfold modJob; split <;> rfl
@[simp] theorem modJob_irqs (s : State) (p : Part) (f : Job → Job) : (modJob s p f).irqs = s.irqs := by unfold modJob; split <;> rfl
@[simp] theorem modJob_tx (s : State) (p : Part) (f : Job → Job) : (modJob s p f).tx = s.tx := by unfold modJob; split <;> rfl
@[simp] theorem modJob_evLog (s : State) (p : Part) (f : Job → Job) : (modJob s p f).evLog = s.evLog := by unfold modJob; split <;> rfl
@[simp] theorem modJob_rsp (s : State) (p : Part) (f : Job → Job) : (modJob s p f).rsp = s.rsp := by unfold modJob; split <;> rfl
@[simp] theorem modJob_chans (s : State) (p : Part) (f : Job → Job) : (modJob s p f).chans = s.chans := by unfold modJob; split <;> rfl
@[simp] theorem modJob_winA (s : State) (p : Part) (f : Job → Job) : (modJob s p f).winA = s.winA := by unfold modJob; split <;> rfl
@[simp] theorem modJob_winB (s : State) (p : Part) (f : Job → Job) : (modJob s p f).winB = s.winB := by unfold modJob; split <;> rfl
@[simp] theorem modJob_isl (s : State) (p : Part) (f : Job → Job) : (modJob s p f).isl = s.isl := by unfold modJob; split <;> rfl
@[simp] theorem modJob_pwr (s : State) (p : Part) (f : Job → Job) : (modJob s p f).pwr = s.pwr := by unfold modJob; split <;> rfl
@[simp] theorem modJob_tim (s : State) (p : Part) (f : Job → Job) : (modJob s p f).tim = s.tim := by unfold modJob; split <;> rfl
@[simp] theorem modJob_fabr (s : State) (p : Part) (f : Job → Job) : (modJob s p f).fabr = s.fabr := by unfold modJob; split <;> rfl
@[simp] theorem modJob_flash (s : State) (p : Part) (f : Job → Job) : (modJob s p f).flash = s.flash := by unfold modJob; split <;> rfl
@[simp] theorem modJob_wear (s : State) (p : Part) (f : Job → Job) : (modJob s p f).wear = s.wear := by unfold modJob; split <;> rfl
@[simp] theorem modJob_bucket (s : State) (p : Part) (f : Job → Job) : (modJob s p f).bucket = s.bucket := by unfold modJob; split <;> rfl
@[simp] theorem modJob_rates (s : State) (p : Part) (f : Job → Job) : (modJob s p f).rates = s.rates := by unfold modJob; split <;> rfl
@[simp] theorem modJob_wins (s : State) (p : Part) (f : Job → Job) : (modJob s p f).wins = s.wins := by unfold modJob; split <;> rfl
@[simp] theorem modJob_tierLock (s : State) (p : Part) (f : Job → Job) : (modJob s p f).tierLock = s.tierLock := by unfold modJob; split <;> rfl
@[simp] theorem modJob_tdir (s : State) (p : Part) (f : Job → Job) : (modJob s p f).tdir = s.tdir := by unfold modJob; split <;> rfl
@[simp] theorem modJob_dramStacks (s : State) (p : Part) (f : Job → Job) : (modJob s p f).dramStacks = s.dramStacks := by unfold modJob; split <;> rfl
@[simp] theorem modJob_alm (s : State) (p : Part) (f : Job → Job) : (modJob s p f).alm = s.alm := by unfold modJob; split <;> rfl
@[simp] theorem modJob_almA (s : State) (p : Part) (f : Job → Job) : (modJob s p f).almA = s.almA := by unfold modJob; split <;> rfl
@[simp] theorem modJob_almB (s : State) (p : Part) (f : Job → Job) : (modJob s p f).almB = s.almB := by unfold modJob; split <;> rfl
@[simp] theorem modJob_almDst (s : State) (p : Part) (f : Job → Job) : (modJob s p f).almDst = s.almDst := by unfold modJob; split <;> rfl
@[simp] theorem modJob_almLen (s : State) (p : Part) (f : Job → Job) : (modJob s p f).almLen = s.almLen := by unfold modJob; split <;> rfl
@[simp] theorem modJob_almDone (s : State) (p : Part) (f : Job → Job) : (modJob s p f).almDone = s.almDone := by unfold modJob; split <;> rfl
@[simp] theorem modJob_sec (s : State) (p : Part) (f : Job → Job) : (modJob s p f).sec = s.sec := by unfold modJob; split <;> rfl
@[simp] theorem modJob_hist (s : State) (p : Part) (f : Job → Job) : (modJob s p f).hist = s.hist := by unfold modJob; split <;> rfl
@[simp] theorem modJob_early (s : State) (p : Part) (f : Job → Job) : (modJob s p f).early = s.early := by unfold modJob; split <;> rfl

/-! ### `report` -/

@[simp] theorem report_pending (s : State) (p : Part) (v : W32) : (report s p v).pending = s.pending := by unfold report; simp
@[simp] theorem report_free (s : State) (p : Part) (v : W32) : (report s p v).free = s.free := by unfold report; simp
@[simp] theorem report_arr (s : State) (p : Part) (v : W32) : (report s p v).arr = s.arr := by unfold report; simp
@[simp] theorem report_vec (s : State) (p : Part) (v : W32) : (report s p v).vec = s.vec := by unfold report; simp
@[simp] theorem report_mem (s : State) (p : Part) (v : W32) : (report s p v).mem = s.mem := by unfold report; simp
@[simp] theorem report_poison (s : State) (p : Part) (v : W32) : (report s p v).poison = s.poison := by unfold report; simp
@[simp] theorem report_spdErr (s : State) (p : Part) (v : W32) : (report s p v).spdErr = s.spdErr := by unfold report; simp
@[simp] theorem report_parked (s : State) (p : Part) (v : W32) : (report s p v).parked = s.parked := by unfold report; simp
@[simp] theorem report_streaks (s : State) (p : Part) (v : W32) : (report s p v).streaks = s.streaks := by unfold report; simp
@[simp] theorem report_granted (s : State) (p : Part) (v : W32) : (report s p v).granted = s.granted := by unfold report; simp
@[simp] theorem report_tables (s : State) (p : Part) (v : W32) : (report s p v).tables = s.tables := by unfold report; simp
@[simp] theorem report_places (s : State) (p : Part) (v : W32) : (report s p v).places = s.places := by unfold report; simp
@[simp] theorem report_tblOps (s : State) (p : Part) (v : W32) : (report s p v).tblOps = s.tblOps := by unfold report; simp
@[simp] theorem report_sorts (s : State) (p : Part) (v : W32) : (report s p v).sorts = s.sorts := by unfold report; simp
@[simp] theorem report_sortOrder (s : State) (p : Part) (v : W32) : (report s p v).sortOrder = s.sortOrder := by unfold report; simp
@[simp] theorem report_rings (s : State) (p : Part) (v : W32) : (report s p v).rings = s.rings := by unfold report; simp
@[simp] theorem report_fns (s : State) (p : Part) (v : W32) : (report s p v).fns = s.fns := by unfold report; simp
@[simp] theorem report_portA (s : State) (p : Part) (v : W32) : (report s p v).portA = s.portA := by unfold report; simp
@[simp] theorem report_portB (s : State) (p : Part) (v : W32) : (report s p v).portB = s.portB := by unfold report; simp
@[simp] theorem report_pctl (s : State) (p : Part) (v : W32) : (report s p v).pctl = s.pctl := by unfold report; simp
@[simp] theorem report_msixTab (s : State) (p : Part) (v : W32) : (report s p v).msixTab = s.msixTab := by unfold report; simp
@[simp] theorem report_irqs (s : State) (p : Part) (v : W32) : (report s p v).irqs = s.irqs := by unfold report; simp
@[simp] theorem report_tx (s : State) (p : Part) (v : W32) : (report s p v).tx = s.tx := by unfold report; simp
@[simp] theorem report_evLog (s : State) (p : Part) (v : W32) : (report s p v).evLog = s.evLog := by unfold report; simp
@[simp] theorem report_rsp (s : State) (p : Part) (v : W32) : (report s p v).rsp = s.rsp := by unfold report; simp
@[simp] theorem report_chans (s : State) (p : Part) (v : W32) : (report s p v).chans = s.chans := by unfold report; simp
@[simp] theorem report_winA (s : State) (p : Part) (v : W32) : (report s p v).winA = s.winA := by unfold report; simp
@[simp] theorem report_winB (s : State) (p : Part) (v : W32) : (report s p v).winB = s.winB := by unfold report; simp
@[simp] theorem report_isl (s : State) (p : Part) (v : W32) : (report s p v).isl = s.isl := by unfold report; simp
@[simp] theorem report_pwr (s : State) (p : Part) (v : W32) : (report s p v).pwr = s.pwr := by unfold report; simp
@[simp] theorem report_tim (s : State) (p : Part) (v : W32) : (report s p v).tim = s.tim := by unfold report; simp
@[simp] theorem report_fabr (s : State) (p : Part) (v : W32) : (report s p v).fabr = s.fabr := by unfold report; simp
@[simp] theorem report_flash (s : State) (p : Part) (v : W32) : (report s p v).flash = s.flash := by unfold report; simp
@[simp] theorem report_wear (s : State) (p : Part) (v : W32) : (report s p v).wear = s.wear := by unfold report; simp
@[simp] theorem report_bucket (s : State) (p : Part) (v : W32) : (report s p v).bucket = s.bucket := by unfold report; simp
@[simp] theorem report_rates (s : State) (p : Part) (v : W32) : (report s p v).rates = s.rates := by unfold report; simp
@[simp] theorem report_wins (s : State) (p : Part) (v : W32) : (report s p v).wins = s.wins := by unfold report; simp
@[simp] theorem report_tierLock (s : State) (p : Part) (v : W32) : (report s p v).tierLock = s.tierLock := by unfold report; simp
@[simp] theorem report_tdir (s : State) (p : Part) (v : W32) : (report s p v).tdir = s.tdir := by unfold report; simp
@[simp] theorem report_dramStacks (s : State) (p : Part) (v : W32) : (report s p v).dramStacks = s.dramStacks := by unfold report; simp
@[simp] theorem report_alm (s : State) (p : Part) (v : W32) : (report s p v).alm = s.alm := by unfold report; simp
@[simp] theorem report_almA (s : State) (p : Part) (v : W32) : (report s p v).almA = s.almA := by unfold report; simp
@[simp] theorem report_almB (s : State) (p : Part) (v : W32) : (report s p v).almB = s.almB := by unfold report; simp
@[simp] theorem report_almDst (s : State) (p : Part) (v : W32) : (report s p v).almDst = s.almDst := by unfold report; simp
@[simp] theorem report_almLen (s : State) (p : Part) (v : W32) : (report s p v).almLen = s.almLen := by unfold report; simp
@[simp] theorem report_almDone (s : State) (p : Part) (v : W32) : (report s p v).almDone = s.almDone := by unfold report; simp
@[simp] theorem report_sec (s : State) (p : Part) (v : W32) : (report s p v).sec = s.sec := by unfold report; simp
@[simp] theorem report_hist (s : State) (p : Part) (v : W32) : (report s p v).hist = s.hist := by unfold report; simp
@[simp] theorem report_early (s : State) (p : Part) (v : W32) : (report s p v).early = s.early := by unfold report; simp

/-! ### `modLive` -/

@[simp] theorem modLive_pending (s : State) (f : CtrSet → CtrSet) : (modLive s f).pending = s.pending := rfl
@[simp] theorem modLive_free (s : State) (f : CtrSet → CtrSet) : (modLive s f).free = s.free := rfl
@[simp] theorem modLive_arr (s : State) (f : CtrSet → CtrSet) : (modLive s f).arr = s.arr := rfl
@[simp] theorem modLive_vec (s : State) (f : CtrSet → CtrSet) : (modLive s f).vec = s.vec := rfl
@[simp] theorem modLive_mem (s : State) (f : CtrSet → CtrSet) : (modLive s f).mem = s.mem := rfl
@[simp] theorem modLive_poison (s : State) (f : CtrSet → CtrSet) : (modLive s f).poison = s.poison := rfl
@[simp] theorem modLive_spdErr (s : State) (f : CtrSet → CtrSet) : (modLive s f).spdErr = s.spdErr := rfl
@[simp] theorem modLive_parked (s : State) (f : CtrSet → CtrSet) : (modLive s f).parked = s.parked := rfl
@[simp] theorem modLive_streaks (s : State) (f : CtrSet → CtrSet) : (modLive s f).streaks = s.streaks := rfl
@[simp] theorem modLive_granted (s : State) (f : CtrSet → CtrSet) : (modLive s f).granted = s.granted := rfl
@[simp] theorem modLive_tables (s : State) (f : CtrSet → CtrSet) : (modLive s f).tables = s.tables := rfl
@[simp] theorem modLive_places (s : State) (f : CtrSet → CtrSet) : (modLive s f).places = s.places := rfl
@[simp] theorem modLive_tblOps (s : State) (f : CtrSet → CtrSet) : (modLive s f).tblOps = s.tblOps := rfl
@[simp] theorem modLive_jobs (s : State) (f : CtrSet → CtrSet) : (modLive s f).jobs = s.jobs := rfl
@[simp] theorem modLive_sorts (s : State) (f : CtrSet → CtrSet) : (modLive s f).sorts = s.sorts := rfl
@[simp] theorem modLive_sortOrder (s : State) (f : CtrSet → CtrSet) : (modLive s f).sortOrder = s.sortOrder := rfl
@[simp] theorem modLive_rings (s : State) (f : CtrSet → CtrSet) : (modLive s f).rings = s.rings := rfl
@[simp] theorem modLive_fns (s : State) (f : CtrSet → CtrSet) : (modLive s f).fns = s.fns := rfl
@[simp] theorem modLive_portA (s : State) (f : CtrSet → CtrSet) : (modLive s f).portA = s.portA := rfl
@[simp] theorem modLive_portB (s : State) (f : CtrSet → CtrSet) : (modLive s f).portB = s.portB := rfl
@[simp] theorem modLive_pctl (s : State) (f : CtrSet → CtrSet) : (modLive s f).pctl = s.pctl := rfl
@[simp] theorem modLive_msixTab (s : State) (f : CtrSet → CtrSet) : (modLive s f).msixTab = s.msixTab := rfl
@[simp] theorem modLive_irqs (s : State) (f : CtrSet → CtrSet) : (modLive s f).irqs = s.irqs := rfl
@[simp] theorem modLive_tx (s : State) (f : CtrSet → CtrSet) : (modLive s f).tx = s.tx := rfl
@[simp] theorem modLive_evLog (s : State) (f : CtrSet → CtrSet) : (modLive s f).evLog = s.evLog := rfl
@[simp] theorem modLive_rsp (s : State) (f : CtrSet → CtrSet) : (modLive s f).rsp = s.rsp := rfl
@[simp] theorem modLive_chans (s : State) (f : CtrSet → CtrSet) : (modLive s f).chans = s.chans := rfl
@[simp] theorem modLive_winA (s : State) (f : CtrSet → CtrSet) : (modLive s f).winA = s.winA := rfl
@[simp] theorem modLive_winB (s : State) (f : CtrSet → CtrSet) : (modLive s f).winB = s.winB := rfl
@[simp] theorem modLive_pwr (s : State) (f : CtrSet → CtrSet) : (modLive s f).pwr = s.pwr := rfl
@[simp] theorem modLive_tim (s : State) (f : CtrSet → CtrSet) : (modLive s f).tim = s.tim := rfl
@[simp] theorem modLive_fabr (s : State) (f : CtrSet → CtrSet) : (modLive s f).fabr = s.fabr := rfl
@[simp] theorem modLive_flash (s : State) (f : CtrSet → CtrSet) : (modLive s f).flash = s.flash := rfl
@[simp] theorem modLive_wear (s : State) (f : CtrSet → CtrSet) : (modLive s f).wear = s.wear := rfl
@[simp] theorem modLive_bucket (s : State) (f : CtrSet → CtrSet) : (modLive s f).bucket = s.bucket := rfl
@[simp] theorem modLive_rates (s : State) (f : CtrSet → CtrSet) : (modLive s f).rates = s.rates := rfl
@[simp] theorem modLive_wins (s : State) (f : CtrSet → CtrSet) : (modLive s f).wins = s.wins := rfl
@[simp] theorem modLive_tierLock (s : State) (f : CtrSet → CtrSet) : (modLive s f).tierLock = s.tierLock := rfl
@[simp] theorem modLive_tdir (s : State) (f : CtrSet → CtrSet) : (modLive s f).tdir = s.tdir := rfl
@[simp] theorem modLive_dramStacks (s : State) (f : CtrSet → CtrSet) : (modLive s f).dramStacks = s.dramStacks := rfl
@[simp] theorem modLive_alm (s : State) (f : CtrSet → CtrSet) : (modLive s f).alm = s.alm := rfl
@[simp] theorem modLive_almA (s : State) (f : CtrSet → CtrSet) : (modLive s f).almA = s.almA := rfl
@[simp] theorem modLive_almB (s : State) (f : CtrSet → CtrSet) : (modLive s f).almB = s.almB := rfl
@[simp] theorem modLive_almDst (s : State) (f : CtrSet → CtrSet) : (modLive s f).almDst = s.almDst := rfl
@[simp] theorem modLive_almLen (s : State) (f : CtrSet → CtrSet) : (modLive s f).almLen = s.almLen := rfl
@[simp] theorem modLive_almDone (s : State) (f : CtrSet → CtrSet) : (modLive s f).almDone = s.almDone := rfl
@[simp] theorem modLive_sec (s : State) (f : CtrSet → CtrSet) : (modLive s f).sec = s.sec := rfl
@[simp] theorem modLive_hist (s : State) (f : CtrSet → CtrSet) : (modLive s f).hist = s.hist := rfl
@[simp] theorem modLive_early (s : State) (f : CtrSet → CtrSet) : (modLive s f).early = s.early := rfl

/-! ### `count` -/

@[simp] theorem count_pending (s : State) (b c n q : Nat) (a : EvAt) : (count s b c n q a).pending = s.pending := rfl
@[simp] theorem count_free (s : State) (b c n q : Nat) (a : EvAt) : (count s b c n q a).free = s.free := rfl
@[simp] theorem count_arr (s : State) (b c n q : Nat) (a : EvAt) : (count s b c n q a).arr = s.arr := rfl
@[simp] theorem count_vec (s : State) (b c n q : Nat) (a : EvAt) : (count s b c n q a).vec = s.vec := rfl
@[simp] theorem count_mem (s : State) (b c n q : Nat) (a : EvAt) : (count s b c n q a).mem = s.mem := rfl
@[simp] theorem count_poison (s : State) (b c n q : Nat) (a : EvAt) : (count s b c n q a).poison = s.poison := rfl
@[simp] theorem count_spdErr (s : State) (b c n q : Nat) (a : EvAt) : (count s b c n q a).spdErr = s.spdErr := rfl
@[simp] theorem count_parked (s : State) (b c n q : Nat) (a : EvAt) : (count s b c n q a).parked = s.parked := rfl
@[simp] theorem count_streaks (s : State) (b c n q : Nat) (a : EvAt) : (count s b c n q a).streaks = s.streaks := rfl
@[simp] theorem count_granted (s : State) (b c n q : Nat) (a : EvAt) : (count s b c n q a).granted = s.granted := rfl
@[simp] theorem count_tables (s : State) (b c n q : Nat) (a : EvAt) : (count s b c n q a).tables = s.tables := rfl
@[simp] theorem count_places (s : State) (b c n q : Nat) (a : EvAt) : (count s b c n q a).places = s.places := rfl
@[simp] theorem count_tblOps (s : State) (b c n q : Nat) (a : EvAt) : (count s b c n q a).tblOps = s.tblOps := rfl
@[simp] theorem count_jobs (s : State) (b c n q : Nat) (a : EvAt) : (count s b c n q a).jobs = s.jobs := rfl
@[simp] theorem count_sorts (s : State) (b c n q : Nat) (a : EvAt) : (count s b c n q a).sorts = s.sorts := rfl
@[simp] theorem count_sortOrder (s : State) (b c n q : Nat) (a : EvAt) : (count s b c n q a).sortOrder = s.sortOrder := rfl
@[simp] theorem count_rings (s : State) (b c n q : Nat) (a : EvAt) : (count s b c n q a).rings = s.rings := rfl
@[simp] theorem count_fns (s : State) (b c n q : Nat) (a : EvAt) : (count s b c n q a).fns = s.fns := rfl
@[simp] theorem count_portA (s : State) (b c n q : Nat) (a : EvAt) : (count s b c n q a).portA = s.portA := rfl
@[simp] theorem count_portB (s : State) (b c n q : Nat) (a : EvAt) : (count s b c n q a).portB = s.portB := rfl
@[simp] theorem count_pctl (s : State) (b c n q : Nat) (a : EvAt) : (count s b c n q a).pctl = s.pctl := rfl
@[simp] theorem count_msixTab (s : State) (b c n q : Nat) (a : EvAt) : (count s b c n q a).msixTab = s.msixTab := rfl
@[simp] theorem count_irqs (s : State) (b c n q : Nat) (a : EvAt) : (count s b c n q a).irqs = s.irqs := rfl
@[simp] theorem count_tx (s : State) (b c n q : Nat) (a : EvAt) : (count s b c n q a).tx = s.tx := rfl
@[simp] theorem count_evLog (s : State) (b c n q : Nat) (a : EvAt) : (count s b c n q a).evLog = s.evLog := rfl
@[simp] theorem count_rsp (s : State) (b c n q : Nat) (a : EvAt) : (count s b c n q a).rsp = s.rsp := rfl
@[simp] theorem count_chans (s : State) (b c n q : Nat) (a : EvAt) : (count s b c n q a).chans = s.chans := rfl
@[simp] theorem count_winA (s : State) (b c n q : Nat) (a : EvAt) : (count s b c n q a).winA = s.winA := rfl
@[simp] theorem count_winB (s : State) (b c n q : Nat) (a : EvAt) : (count s b c n q a).winB = s.winB := rfl
@[simp] theorem count_pwr (s : State) (b c n q : Nat) (a : EvAt) : (count s b c n q a).pwr = s.pwr := rfl
@[simp] theorem count_tim (s : State) (b c n q : Nat) (a : EvAt) : (count s b c n q a).tim = s.tim := rfl
@[simp] theorem count_fabr (s : State) (b c n q : Nat) (a : EvAt) : (count s b c n q a).fabr = s.fabr := rfl
@[simp] theorem count_flash (s : State) (b c n q : Nat) (a : EvAt) : (count s b c n q a).flash = s.flash := rfl
@[simp] theorem count_wear (s : State) (b c n q : Nat) (a : EvAt) : (count s b c n q a).wear = s.wear := rfl
@[simp] theorem count_bucket (s : State) (b c n q : Nat) (a : EvAt) : (count s b c n q a).bucket = s.bucket := rfl
@[simp] theorem count_rates (s : State) (b c n q : Nat) (a : EvAt) : (count s b c n q a).rates = s.rates := rfl
@[simp] theorem count_wins (s : State) (b c n q : Nat) (a : EvAt) : (count s b c n q a).wins = s.wins := rfl
@[simp] theorem count_tierLock (s : State) (b c n q : Nat) (a : EvAt) : (count s b c n q a).tierLock = s.tierLock := rfl
@[simp] theorem count_tdir (s : State) (b c n q : Nat) (a : EvAt) : (count s b c n q a).tdir = s.tdir := rfl
@[simp] theorem count_dramStacks (s : State) (b c n q : Nat) (a : EvAt) : (count s b c n q a).dramStacks = s.dramStacks := rfl
@[simp] theorem count_alm (s : State) (b c n q : Nat) (a : EvAt) : (count s b c n q a).alm = s.alm := rfl
@[simp] theorem count_almA (s : State) (b c n q : Nat) (a : EvAt) : (count s b c n q a).almA = s.almA := rfl
@[simp] theorem count_almB (s : State) (b c n q : Nat) (a : EvAt) : (count s b c n q a).almB = s.almB := rfl
@[simp] theorem count_almDst (s : State) (b c n q : Nat) (a : EvAt) : (count s b c n q a).almDst = s.almDst := rfl
@[simp] theorem count_almLen (s : State) (b c n q : Nat) (a : EvAt) : (count s b c n q a).almLen = s.almLen := rfl
@[simp] theorem count_almDone (s : State) (b c n q : Nat) (a : EvAt) : (count s b c n q a).almDone = s.almDone := rfl
@[simp] theorem count_sec (s : State) (b c n q : Nat) (a : EvAt) : (count s b c n q a).sec = s.sec := rfl
@[simp] theorem count_hist (s : State) (b c n q : Nat) (a : EvAt) : (count s b c n q a).hist = s.hist := rfl
@[simp] theorem count_early (s : State) (b c n q : Nat) (a : EvAt) : (count s b c n q a).early = s.early := rfl

/-! ### `tally` -/

@[simp] theorem tally_pending (s : State) (b : Nat) (c : Counts) : (tally s b c).pending = s.pending := rfl
@[simp] theorem tally_free (s : State) (b : Nat) (c : Counts) : (tally s b c).free = s.free := rfl
@[simp] theorem tally_arr (s : State) (b : Nat) (c : Counts) : (tally s b c).arr = s.arr := rfl
@[simp] theorem tally_vec (s : State) (b : Nat) (c : Counts) : (tally s b c).vec = s.vec := rfl
@[simp] theorem tally_mem (s : State) (b : Nat) (c : Counts) : (tally s b c).mem = s.mem := rfl
@[simp] theorem tally_poison (s : State) (b : Nat) (c : Counts) : (tally s b c).poison = s.poison := rfl
@[simp] theorem tally_spdErr (s : State) (b : Nat) (c : Counts) : (tally s b c).spdErr = s.spdErr := rfl
@[simp] theorem tally_parked (s : State) (b : Nat) (c : Counts) : (tally s b c).parked = s.parked := rfl
@[simp] theorem tally_streaks (s : State) (b : Nat) (c : Counts) : (tally s b c).streaks = s.streaks := rfl
@[simp] theorem tally_granted (s : State) (b : Nat) (c : Counts) : (tally s b c).granted = s.granted := rfl
@[simp] theorem tally_tables (s : State) (b : Nat) (c : Counts) : (tally s b c).tables = s.tables := rfl
@[simp] theorem tally_places (s : State) (b : Nat) (c : Counts) : (tally s b c).places = s.places := rfl
@[simp] theorem tally_tblOps (s : State) (b : Nat) (c : Counts) : (tally s b c).tblOps = s.tblOps := rfl
@[simp] theorem tally_jobs (s : State) (b : Nat) (c : Counts) : (tally s b c).jobs = s.jobs := rfl
@[simp] theorem tally_sorts (s : State) (b : Nat) (c : Counts) : (tally s b c).sorts = s.sorts := rfl
@[simp] theorem tally_sortOrder (s : State) (b : Nat) (c : Counts) : (tally s b c).sortOrder = s.sortOrder := rfl
@[simp] theorem tally_rings (s : State) (b : Nat) (c : Counts) : (tally s b c).rings = s.rings := rfl
@[simp] theorem tally_fns (s : State) (b : Nat) (c : Counts) : (tally s b c).fns = s.fns := rfl
@[simp] theorem tally_portA (s : State) (b : Nat) (c : Counts) : (tally s b c).portA = s.portA := rfl
@[simp] theorem tally_portB (s : State) (b : Nat) (c : Counts) : (tally s b c).portB = s.portB := rfl
@[simp] theorem tally_pctl (s : State) (b : Nat) (c : Counts) : (tally s b c).pctl = s.pctl := rfl
@[simp] theorem tally_msixTab (s : State) (b : Nat) (c : Counts) : (tally s b c).msixTab = s.msixTab := rfl
@[simp] theorem tally_irqs (s : State) (b : Nat) (c : Counts) : (tally s b c).irqs = s.irqs := rfl
@[simp] theorem tally_tx (s : State) (b : Nat) (c : Counts) : (tally s b c).tx = s.tx := rfl
@[simp] theorem tally_evLog (s : State) (b : Nat) (c : Counts) : (tally s b c).evLog = s.evLog := rfl
@[simp] theorem tally_rsp (s : State) (b : Nat) (c : Counts) : (tally s b c).rsp = s.rsp := rfl
@[simp] theorem tally_chans (s : State) (b : Nat) (c : Counts) : (tally s b c).chans = s.chans := rfl
@[simp] theorem tally_winA (s : State) (b : Nat) (c : Counts) : (tally s b c).winA = s.winA := rfl
@[simp] theorem tally_winB (s : State) (b : Nat) (c : Counts) : (tally s b c).winB = s.winB := rfl
@[simp] theorem tally_pwr (s : State) (b : Nat) (c : Counts) : (tally s b c).pwr = s.pwr := rfl
@[simp] theorem tally_tim (s : State) (b : Nat) (c : Counts) : (tally s b c).tim = s.tim := rfl
@[simp] theorem tally_fabr (s : State) (b : Nat) (c : Counts) : (tally s b c).fabr = s.fabr := rfl
@[simp] theorem tally_flash (s : State) (b : Nat) (c : Counts) : (tally s b c).flash = s.flash := rfl
@[simp] theorem tally_wear (s : State) (b : Nat) (c : Counts) : (tally s b c).wear = s.wear := rfl
@[simp] theorem tally_bucket (s : State) (b : Nat) (c : Counts) : (tally s b c).bucket = s.bucket := rfl
@[simp] theorem tally_rates (s : State) (b : Nat) (c : Counts) : (tally s b c).rates = s.rates := rfl
@[simp] theorem tally_wins (s : State) (b : Nat) (c : Counts) : (tally s b c).wins = s.wins := rfl
@[simp] theorem tally_tierLock (s : State) (b : Nat) (c : Counts) : (tally s b c).tierLock = s.tierLock := rfl
@[simp] theorem tally_tdir (s : State) (b : Nat) (c : Counts) : (tally s b c).tdir = s.tdir := rfl
@[simp] theorem tally_dramStacks (s : State) (b : Nat) (c : Counts) : (tally s b c).dramStacks = s.dramStacks := rfl
@[simp] theorem tally_alm (s : State) (b : Nat) (c : Counts) : (tally s b c).alm = s.alm := rfl
@[simp] theorem tally_almA (s : State) (b : Nat) (c : Counts) : (tally s b c).almA = s.almA := rfl
@[simp] theorem tally_almB (s : State) (b : Nat) (c : Counts) : (tally s b c).almB = s.almB := rfl
@[simp] theorem tally_almDst (s : State) (b : Nat) (c : Counts) : (tally s b c).almDst = s.almDst := rfl
@[simp] theorem tally_almLen (s : State) (b : Nat) (c : Counts) : (tally s b c).almLen = s.almLen := rfl
@[simp] theorem tally_almDone (s : State) (b : Nat) (c : Counts) : (tally s b c).almDone = s.almDone := rfl
@[simp] theorem tally_sec (s : State) (b : Nat) (c : Counts) : (tally s b c).sec = s.sec := rfl
@[simp] theorem tally_hist (s : State) (b : Nat) (c : Counts) : (tally s b c).hist = s.hist := rfl
@[simp] theorem tally_early (s : State) (b : Nat) (c : Counts) : (tally s b c).early = s.early := rfl

/-! ### `tblCount` -/

@[simp] theorem tblCount_pending (s : State) (p : Part) (t i q : Nat) : (tblCount s p t i q).pending = s.pending := rfl
@[simp] theorem tblCount_free (s : State) (p : Part) (t i q : Nat) : (tblCount s p t i q).free = s.free := rfl
@[simp] theorem tblCount_arr (s : State) (p : Part) (t i q : Nat) : (tblCount s p t i q).arr = s.arr := rfl
@[simp] theorem tblCount_vec (s : State) (p : Part) (t i q : Nat) : (tblCount s p t i q).vec = s.vec := rfl
@[simp] theorem tblCount_mem (s : State) (p : Part) (t i q : Nat) : (tblCount s p t i q).mem = s.mem := rfl
@[simp] theorem tblCount_poison (s : State) (p : Part) (t i q : Nat) : (tblCount s p t i q).poison = s.poison := rfl
@[simp] theorem tblCount_spdErr (s : State) (p : Part) (t i q : Nat) : (tblCount s p t i q).spdErr = s.spdErr := rfl
@[simp] theorem tblCount_parked (s : State) (p : Part) (t i q : Nat) : (tblCount s p t i q).parked = s.parked := rfl
@[simp] theorem tblCount_streaks (s : State) (p : Part) (t i q : Nat) : (tblCount s p t i q).streaks = s.streaks := rfl
@[simp] theorem tblCount_granted (s : State) (p : Part) (t i q : Nat) : (tblCount s p t i q).granted = s.granted := rfl
@[simp] theorem tblCount_tables (s : State) (p : Part) (t i q : Nat) : (tblCount s p t i q).tables = s.tables := rfl
@[simp] theorem tblCount_places (s : State) (p : Part) (t i q : Nat) : (tblCount s p t i q).places = s.places := rfl
@[simp] theorem tblCount_tblOps (s : State) (p : Part) (t i q : Nat) : (tblCount s p t i q).tblOps = s.tblOps := rfl
@[simp] theorem tblCount_jobs (s : State) (p : Part) (t i q : Nat) : (tblCount s p t i q).jobs = s.jobs := rfl
@[simp] theorem tblCount_sorts (s : State) (p : Part) (t i q : Nat) : (tblCount s p t i q).sorts = s.sorts := rfl
@[simp] theorem tblCount_sortOrder (s : State) (p : Part) (t i q : Nat) : (tblCount s p t i q).sortOrder = s.sortOrder := rfl
@[simp] theorem tblCount_rings (s : State) (p : Part) (t i q : Nat) : (tblCount s p t i q).rings = s.rings := rfl
@[simp] theorem tblCount_fns (s : State) (p : Part) (t i q : Nat) : (tblCount s p t i q).fns = s.fns := rfl
@[simp] theorem tblCount_portA (s : State) (p : Part) (t i q : Nat) : (tblCount s p t i q).portA = s.portA := rfl
@[simp] theorem tblCount_portB (s : State) (p : Part) (t i q : Nat) : (tblCount s p t i q).portB = s.portB := rfl
@[simp] theorem tblCount_pctl (s : State) (p : Part) (t i q : Nat) : (tblCount s p t i q).pctl = s.pctl := rfl
@[simp] theorem tblCount_msixTab (s : State) (p : Part) (t i q : Nat) : (tblCount s p t i q).msixTab = s.msixTab := rfl
@[simp] theorem tblCount_irqs (s : State) (p : Part) (t i q : Nat) : (tblCount s p t i q).irqs = s.irqs := rfl
@[simp] theorem tblCount_tx (s : State) (p : Part) (t i q : Nat) : (tblCount s p t i q).tx = s.tx := rfl
@[simp] theorem tblCount_evLog (s : State) (p : Part) (t i q : Nat) : (tblCount s p t i q).evLog = s.evLog := rfl
@[simp] theorem tblCount_rsp (s : State) (p : Part) (t i q : Nat) : (tblCount s p t i q).rsp = s.rsp := rfl
@[simp] theorem tblCount_chans (s : State) (p : Part) (t i q : Nat) : (tblCount s p t i q).chans = s.chans := rfl
@[simp] theorem tblCount_winA (s : State) (p : Part) (t i q : Nat) : (tblCount s p t i q).winA = s.winA := rfl
@[simp] theorem tblCount_winB (s : State) (p : Part) (t i q : Nat) : (tblCount s p t i q).winB = s.winB := rfl
@[simp] theorem tblCount_pwr (s : State) (p : Part) (t i q : Nat) : (tblCount s p t i q).pwr = s.pwr := rfl
@[simp] theorem tblCount_tim (s : State) (p : Part) (t i q : Nat) : (tblCount s p t i q).tim = s.tim := rfl
@[simp] theorem tblCount_fabr (s : State) (p : Part) (t i q : Nat) : (tblCount s p t i q).fabr = s.fabr := rfl
@[simp] theorem tblCount_flash (s : State) (p : Part) (t i q : Nat) : (tblCount s p t i q).flash = s.flash := rfl
@[simp] theorem tblCount_wear (s : State) (p : Part) (t i q : Nat) : (tblCount s p t i q).wear = s.wear := rfl
@[simp] theorem tblCount_bucket (s : State) (p : Part) (t i q : Nat) : (tblCount s p t i q).bucket = s.bucket := rfl
@[simp] theorem tblCount_rates (s : State) (p : Part) (t i q : Nat) : (tblCount s p t i q).rates = s.rates := rfl
@[simp] theorem tblCount_wins (s : State) (p : Part) (t i q : Nat) : (tblCount s p t i q).wins = s.wins := rfl
@[simp] theorem tblCount_tierLock (s : State) (p : Part) (t i q : Nat) : (tblCount s p t i q).tierLock = s.tierLock := rfl
@[simp] theorem tblCount_tdir (s : State) (p : Part) (t i q : Nat) : (tblCount s p t i q).tdir = s.tdir := rfl
@[simp] theorem tblCount_dramStacks (s : State) (p : Part) (t i q : Nat) : (tblCount s p t i q).dramStacks = s.dramStacks := rfl
@[simp] theorem tblCount_alm (s : State) (p : Part) (t i q : Nat) : (tblCount s p t i q).alm = s.alm := rfl
@[simp] theorem tblCount_almA (s : State) (p : Part) (t i q : Nat) : (tblCount s p t i q).almA = s.almA := rfl
@[simp] theorem tblCount_almB (s : State) (p : Part) (t i q : Nat) : (tblCount s p t i q).almB = s.almB := rfl
@[simp] theorem tblCount_almDst (s : State) (p : Part) (t i q : Nat) : (tblCount s p t i q).almDst = s.almDst := rfl
@[simp] theorem tblCount_almLen (s : State) (p : Part) (t i q : Nat) : (tblCount s p t i q).almLen = s.almLen := rfl
@[simp] theorem tblCount_almDone (s : State) (p : Part) (t i q : Nat) : (tblCount s p t i q).almDone = s.almDone := rfl
@[simp] theorem tblCount_sec (s : State) (p : Part) (t i q : Nat) : (tblCount s p t i q).sec = s.sec := rfl
@[simp] theorem tblCount_hist (s : State) (p : Part) (t i q : Nat) : (tblCount s p t i q).hist = s.hist := rfl
@[simp] theorem tblCount_early (s : State) (p : Part) (t i q : Nat) : (tblCount s p t i q).early = s.early := rfl

/-! ### `sampleTick` -/

@[simp] theorem sampleTick_pending (s : State) (p : Part) (k : Nat) : (sampleTick s p k).pending = s.pending := by simp only [sampleTick]; (repeat' split) <;> rfl
@[simp] theorem sampleTick_free (s : State) (p : Part) (k : Nat) : (sampleTick s p k).free = s.free := by simp only [sampleTick]; (repeat' split) <;> rfl
@[simp] theorem sampleTick_arr (s : State) (p : Part) (k : Nat) : (sampleTick s p k).arr = s.arr := by simp only [sampleTick]; (repeat' split) <;> rfl
@[simp] theorem sampleTick_vec (s : State) (p : Part) (k : Nat) : (sampleTick s p k).vec = s.vec := by simp only [sampleTick]; (repeat' split) <;> rfl
@[simp] theorem sampleTick_mem (s : State) (p : Part) (k : Nat) : (sampleTick s p k).mem = s.mem := by simp only [sampleTick]; (repeat' split) <;> rfl
@[simp] theorem sampleTick_poison (s : State) (p : Part) (k : Nat) : (sampleTick s p k).poison = s.poison := by simp only [sampleTick]; (repeat' split) <;> rfl
@[simp] theorem sampleTick_spdErr (s : State) (p : Part) (k : Nat) : (sampleTick s p k).spdErr = s.spdErr := by simp only [sampleTick]; (repeat' split) <;> rfl
@[simp] theorem sampleTick_parked (s : State) (p : Part) (k : Nat) : (sampleTick s p k).parked = s.parked := by simp only [sampleTick]; (repeat' split) <;> rfl
@[simp] theorem sampleTick_streaks (s : State) (p : Part) (k : Nat) : (sampleTick s p k).streaks = s.streaks := by simp only [sampleTick]; (repeat' split) <;> rfl
@[simp] theorem sampleTick_granted (s : State) (p : Part) (k : Nat) : (sampleTick s p k).granted = s.granted := by simp only [sampleTick]; (repeat' split) <;> rfl
@[simp] theorem sampleTick_tables (s : State) (p : Part) (k : Nat) : (sampleTick s p k).tables = s.tables := by simp only [sampleTick]; (repeat' split) <;> rfl
@[simp] theorem sampleTick_places (s : State) (p : Part) (k : Nat) : (sampleTick s p k).places = s.places := by simp only [sampleTick]; (repeat' split) <;> rfl
@[simp] theorem sampleTick_tblOps (s : State) (p : Part) (k : Nat) : (sampleTick s p k).tblOps = s.tblOps := by simp only [sampleTick]; (repeat' split) <;> rfl
@[simp] theorem sampleTick_jobs (s : State) (p : Part) (k : Nat) : (sampleTick s p k).jobs = s.jobs := by simp only [sampleTick]; (repeat' split) <;> rfl
@[simp] theorem sampleTick_sorts (s : State) (p : Part) (k : Nat) : (sampleTick s p k).sorts = s.sorts := by simp only [sampleTick]; (repeat' split) <;> rfl
@[simp] theorem sampleTick_sortOrder (s : State) (p : Part) (k : Nat) : (sampleTick s p k).sortOrder = s.sortOrder := by simp only [sampleTick]; (repeat' split) <;> rfl
@[simp] theorem sampleTick_rings (s : State) (p : Part) (k : Nat) : (sampleTick s p k).rings = s.rings := by simp only [sampleTick]; (repeat' split) <;> rfl
@[simp] theorem sampleTick_fns (s : State) (p : Part) (k : Nat) : (sampleTick s p k).fns = s.fns := by simp only [sampleTick]; (repeat' split) <;> rfl
@[simp] theorem sampleTick_portA (s : State) (p : Part) (k : Nat) : (sampleTick s p k).portA = s.portA := by simp only [sampleTick]; (repeat' split) <;> rfl
@[simp] theorem sampleTick_portB (s : State) (p : Part) (k : Nat) : (sampleTick s p k).portB = s.portB := by simp only [sampleTick]; (repeat' split) <;> rfl
@[simp] theorem sampleTick_pctl (s : State) (p : Part) (k : Nat) : (sampleTick s p k).pctl = s.pctl := by simp only [sampleTick]; (repeat' split) <;> rfl
@[simp] theorem sampleTick_msixTab (s : State) (p : Part) (k : Nat) : (sampleTick s p k).msixTab = s.msixTab := by simp only [sampleTick]; (repeat' split) <;> rfl
@[simp] theorem sampleTick_irqs (s : State) (p : Part) (k : Nat) : (sampleTick s p k).irqs = s.irqs := by simp only [sampleTick]; (repeat' split) <;> rfl
@[simp] theorem sampleTick_tx (s : State) (p : Part) (k : Nat) : (sampleTick s p k).tx = s.tx := by simp only [sampleTick]; (repeat' split) <;> rfl
@[simp] theorem sampleTick_evLog (s : State) (p : Part) (k : Nat) : (sampleTick s p k).evLog = s.evLog := by simp only [sampleTick]; (repeat' split) <;> rfl
@[simp] theorem sampleTick_rsp (s : State) (p : Part) (k : Nat) : (sampleTick s p k).rsp = s.rsp := by simp only [sampleTick]; (repeat' split) <;> rfl
@[simp] theorem sampleTick_chans (s : State) (p : Part) (k : Nat) : (sampleTick s p k).chans = s.chans := by simp only [sampleTick]; (repeat' split) <;> rfl
@[simp] theorem sampleTick_winA (s : State) (p : Part) (k : Nat) : (sampleTick s p k).winA = s.winA := by simp only [sampleTick]; (repeat' split) <;> rfl
@[simp] theorem sampleTick_winB (s : State) (p : Part) (k : Nat) : (sampleTick s p k).winB = s.winB := by simp only [sampleTick]; (repeat' split) <;> rfl
@[simp] theorem sampleTick_pwr (s : State) (p : Part) (k : Nat) : (sampleTick s p k).pwr = s.pwr := by simp only [sampleTick]; (repeat' split) <;> rfl
@[simp] theorem sampleTick_tim (s : State) (p : Part) (k : Nat) : (sampleTick s p k).tim = s.tim := by simp only [sampleTick]; (repeat' split) <;> rfl
@[simp] theorem sampleTick_fabr (s : State) (p : Part) (k : Nat) : (sampleTick s p k).fabr = s.fabr := by simp only [sampleTick]; (repeat' split) <;> rfl
@[simp] theorem sampleTick_flash (s : State) (p : Part) (k : Nat) : (sampleTick s p k).flash = s.flash := by simp only [sampleTick]; (repeat' split) <;> rfl
@[simp] theorem sampleTick_wear (s : State) (p : Part) (k : Nat) : (sampleTick s p k).wear = s.wear := by simp only [sampleTick]; (repeat' split) <;> rfl
@[simp] theorem sampleTick_bucket (s : State) (p : Part) (k : Nat) : (sampleTick s p k).bucket = s.bucket := by simp only [sampleTick]; (repeat' split) <;> rfl
@[simp] theorem sampleTick_rates (s : State) (p : Part) (k : Nat) : (sampleTick s p k).rates = s.rates := by simp only [sampleTick]; (repeat' split) <;> rfl
@[simp] theorem sampleTick_wins (s : State) (p : Part) (k : Nat) : (sampleTick s p k).wins = s.wins := by simp only [sampleTick]; (repeat' split) <;> rfl
@[simp] theorem sampleTick_tierLock (s : State) (p : Part) (k : Nat) : (sampleTick s p k).tierLock = s.tierLock := by simp only [sampleTick]; (repeat' split) <;> rfl
@[simp] theorem sampleTick_tdir (s : State) (p : Part) (k : Nat) : (sampleTick s p k).tdir = s.tdir := by simp only [sampleTick]; (repeat' split) <;> rfl
@[simp] theorem sampleTick_dramStacks (s : State) (p : Part) (k : Nat) : (sampleTick s p k).dramStacks = s.dramStacks := by simp only [sampleTick]; (repeat' split) <;> rfl
@[simp] theorem sampleTick_alm (s : State) (p : Part) (k : Nat) : (sampleTick s p k).alm = s.alm := by simp only [sampleTick]; (repeat' split) <;> rfl
@[simp] theorem sampleTick_almA (s : State) (p : Part) (k : Nat) : (sampleTick s p k).almA = s.almA := by simp only [sampleTick]; (repeat' split) <;> rfl
@[simp] theorem sampleTick_almB (s : State) (p : Part) (k : Nat) : (sampleTick s p k).almB = s.almB := by simp only [sampleTick]; (repeat' split) <;> rfl
@[simp] theorem sampleTick_almDst (s : State) (p : Part) (k : Nat) : (sampleTick s p k).almDst = s.almDst := by simp only [sampleTick]; (repeat' split) <;> rfl
@[simp] theorem sampleTick_almLen (s : State) (p : Part) (k : Nat) : (sampleTick s p k).almLen = s.almLen := by simp only [sampleTick]; (repeat' split) <;> rfl
@[simp] theorem sampleTick_almDone (s : State) (p : Part) (k : Nat) : (sampleTick s p k).almDone = s.almDone := by simp only [sampleTick]; (repeat' split) <;> rfl
@[simp] theorem sampleTick_sec (s : State) (p : Part) (k : Nat) : (sampleTick s p k).sec = s.sec := by simp only [sampleTick]; (repeat' split) <;> rfl
@[simp] theorem sampleTick_hist (s : State) (p : Part) (k : Nat) : (sampleTick s p k).hist = s.hist := by simp only [sampleTick]; (repeat' split) <;> rfl
@[simp] theorem sampleTick_early (s : State) (p : Part) (k : Nat) : (sampleTick s p k).early = s.early := by simp only [sampleTick]; (repeat' split) <;> rfl

/-! ### `putRing` -/

@[simp] theorem putRing_pending (s : State) (n : Nat) (r : Ring) : (putRing s n r).pending = s.pending := rfl
@[simp] theorem putRing_free (s : State) (n : Nat) (r : Ring) : (putRing s n r).free = s.free := rfl
@[simp] theorem putRing_arr (s : State) (n : Nat) (r : Ring) : (putRing s n r).arr = s.arr := rfl
@[simp] theorem putRing_vec (s : State) (n : Nat) (r : Ring) : (putRing s n r).vec = s.vec := rfl
@[simp] theorem putRing_poison (s : State) (n : Nat) (r : Ring) : (putRing s n r).poison = s.poison := rfl
@[simp] theorem putRing_spdErr (s : State) (n : Nat) (r : Ring) : (putRing s n r).spdErr = s.spdErr := rfl
@[simp] theorem putRing_parked (s : State) (n : Nat) (r : Ring) : (putRing s n r).parked = s.parked := rfl
@[simp] theorem putRing_streaks (s : State) (n : Nat) (r : Ring) : (putRing s n r).streaks = s.streaks := rfl
@[simp] theorem putRing_granted (s : State) (n : Nat) (r : Ring) : (putRing s n r).granted = s.granted := rfl
@[simp] theorem putRing_tables (s : State) (n : Nat) (r : Ring) : (putRing s n r).tables = s.tables := rfl
@[simp] theorem putRing_places (s : State) (n : Nat) (r : Ring) : (putRing s n r).places = s.places := rfl
@[simp] theorem putRing_tblOps (s : State) (n : Nat) (r : Ring) : (putRing s n r).tblOps = s.tblOps := rfl
@[simp] theorem putRing_jobs (s : State) (n : Nat) (r : Ring) : (putRing s n r).jobs = s.jobs := rfl
@[simp] theorem putRing_sorts (s : State) (n : Nat) (r : Ring) : (putRing s n r).sorts = s.sorts := rfl
@[simp] theorem putRing_sortOrder (s : State) (n : Nat) (r : Ring) : (putRing s n r).sortOrder = s.sortOrder := rfl
@[simp] theorem putRing_fns (s : State) (n : Nat) (r : Ring) : (putRing s n r).fns = s.fns := rfl
@[simp] theorem putRing_portA (s : State) (n : Nat) (r : Ring) : (putRing s n r).portA = s.portA := rfl
@[simp] theorem putRing_portB (s : State) (n : Nat) (r : Ring) : (putRing s n r).portB = s.portB := rfl
@[simp] theorem putRing_pctl (s : State) (n : Nat) (r : Ring) : (putRing s n r).pctl = s.pctl := rfl
@[simp] theorem putRing_msixTab (s : State) (n : Nat) (r : Ring) : (putRing s n r).msixTab = s.msixTab := rfl
@[simp] theorem putRing_irqs (s : State) (n : Nat) (r : Ring) : (putRing s n r).irqs = s.irqs := rfl
@[simp] theorem putRing_tx (s : State) (n : Nat) (r : Ring) : (putRing s n r).tx = s.tx := rfl
@[simp] theorem putRing_evLog (s : State) (n : Nat) (r : Ring) : (putRing s n r).evLog = s.evLog := rfl
@[simp] theorem putRing_rsp (s : State) (n : Nat) (r : Ring) : (putRing s n r).rsp = s.rsp := rfl
@[simp] theorem putRing_chans (s : State) (n : Nat) (r : Ring) : (putRing s n r).chans = s.chans := rfl
@[simp] theorem putRing_winA (s : State) (n : Nat) (r : Ring) : (putRing s n r).winA = s.winA := rfl
@[simp] theorem putRing_winB (s : State) (n : Nat) (r : Ring) : (putRing s n r).winB = s.winB := rfl
@[simp] theorem putRing_isl (s : State) (n : Nat) (r : Ring) : (putRing s n r).isl = s.isl := rfl
@[simp] theorem putRing_pwr (s : State) (n : Nat) (r : Ring) : (putRing s n r).pwr = s.pwr := rfl
@[simp] theorem putRing_tim (s : State) (n : Nat) (r : Ring) : (putRing s n r).tim = s.tim := rfl
@[simp] theorem putRing_fabr (s : State) (n : Nat) (r : Ring) : (putRing s n r).fabr = s.fabr := rfl
@[simp] theorem putRing_flash (s : State) (n : Nat) (r : Ring) : (putRing s n r).flash = s.flash := rfl
@[simp] theorem putRing_wear (s : State) (n : Nat) (r : Ring) : (putRing s n r).wear = s.wear := rfl
@[simp] theorem putRing_bucket (s : State) (n : Nat) (r : Ring) : (putRing s n r).bucket = s.bucket := rfl
@[simp] theorem putRing_rates (s : State) (n : Nat) (r : Ring) : (putRing s n r).rates = s.rates := rfl
@[simp] theorem putRing_wins (s : State) (n : Nat) (r : Ring) : (putRing s n r).wins = s.wins := rfl
@[simp] theorem putRing_tierLock (s : State) (n : Nat) (r : Ring) : (putRing s n r).tierLock = s.tierLock := rfl
@[simp] theorem putRing_tdir (s : State) (n : Nat) (r : Ring) : (putRing s n r).tdir = s.tdir := rfl
@[simp] theorem putRing_dramStacks (s : State) (n : Nat) (r : Ring) : (putRing s n r).dramStacks = s.dramStacks := rfl
@[simp] theorem putRing_alm (s : State) (n : Nat) (r : Ring) : (putRing s n r).alm = s.alm := rfl
@[simp] theorem putRing_almA (s : State) (n : Nat) (r : Ring) : (putRing s n r).almA = s.almA := rfl
@[simp] theorem putRing_almB (s : State) (n : Nat) (r : Ring) : (putRing s n r).almB = s.almB := rfl
@[simp] theorem putRing_almDst (s : State) (n : Nat) (r : Ring) : (putRing s n r).almDst = s.almDst := rfl
@[simp] theorem putRing_almLen (s : State) (n : Nat) (r : Ring) : (putRing s n r).almLen = s.almLen := rfl
@[simp] theorem putRing_almDone (s : State) (n : Nat) (r : Ring) : (putRing s n r).almDone = s.almDone := rfl
@[simp] theorem putRing_sec (s : State) (n : Nat) (r : Ring) : (putRing s n r).sec = s.sec := rfl
@[simp] theorem putRing_hist (s : State) (n : Nat) (r : Ring) : (putRing s n r).hist = s.hist := rfl
@[simp] theorem putRing_early (s : State) (n : Nat) (r : Ring) : (putRing s n r).early = s.early := rfl

/-! ### `putFn` -/

@[simp] theorem putFn_pending (s : State) (n : Nat) (v : Fn) : (putFn s n v).pending = s.pending := rfl
@[simp] theorem putFn_free (s : State) (n : Nat) (v : Fn) : (putFn s n v).free = s.free := rfl
@[simp] theorem putFn_arr (s : State) (n : Nat) (v : Fn) : (putFn s n v).arr = s.arr := rfl
@[simp] theorem putFn_vec (s : State) (n : Nat) (v : Fn) : (putFn s n v).vec = s.vec := rfl
@[simp] theorem putFn_mem (s : State) (n : Nat) (v : Fn) : (putFn s n v).mem = s.mem := rfl
@[simp] theorem putFn_poison (s : State) (n : Nat) (v : Fn) : (putFn s n v).poison = s.poison := rfl
@[simp] theorem putFn_spdErr (s : State) (n : Nat) (v : Fn) : (putFn s n v).spdErr = s.spdErr := rfl
@[simp] theorem putFn_parked (s : State) (n : Nat) (v : Fn) : (putFn s n v).parked = s.parked := rfl
@[simp] theorem putFn_streaks (s : State) (n : Nat) (v : Fn) : (putFn s n v).streaks = s.streaks := rfl
@[simp] theorem putFn_granted (s : State) (n : Nat) (v : Fn) : (putFn s n v).granted = s.granted := rfl
@[simp] theorem putFn_tables (s : State) (n : Nat) (v : Fn) : (putFn s n v).tables = s.tables := rfl
@[simp] theorem putFn_places (s : State) (n : Nat) (v : Fn) : (putFn s n v).places = s.places := rfl
@[simp] theorem putFn_tblOps (s : State) (n : Nat) (v : Fn) : (putFn s n v).tblOps = s.tblOps := rfl
@[simp] theorem putFn_jobs (s : State) (n : Nat) (v : Fn) : (putFn s n v).jobs = s.jobs := rfl
@[simp] theorem putFn_sorts (s : State) (n : Nat) (v : Fn) : (putFn s n v).sorts = s.sorts := rfl
@[simp] theorem putFn_sortOrder (s : State) (n : Nat) (v : Fn) : (putFn s n v).sortOrder = s.sortOrder := rfl
@[simp] theorem putFn_rings (s : State) (n : Nat) (v : Fn) : (putFn s n v).rings = s.rings := rfl
@[simp] theorem putFn_portA (s : State) (n : Nat) (v : Fn) : (putFn s n v).portA = s.portA := rfl
@[simp] theorem putFn_portB (s : State) (n : Nat) (v : Fn) : (putFn s n v).portB = s.portB := rfl
@[simp] theorem putFn_pctl (s : State) (n : Nat) (v : Fn) : (putFn s n v).pctl = s.pctl := rfl
@[simp] theorem putFn_msixTab (s : State) (n : Nat) (v : Fn) : (putFn s n v).msixTab = s.msixTab := rfl
@[simp] theorem putFn_irqs (s : State) (n : Nat) (v : Fn) : (putFn s n v).irqs = s.irqs := rfl
@[simp] theorem putFn_tx (s : State) (n : Nat) (v : Fn) : (putFn s n v).tx = s.tx := rfl
@[simp] theorem putFn_evLog (s : State) (n : Nat) (v : Fn) : (putFn s n v).evLog = s.evLog := rfl
@[simp] theorem putFn_rsp (s : State) (n : Nat) (v : Fn) : (putFn s n v).rsp = s.rsp := rfl
@[simp] theorem putFn_chans (s : State) (n : Nat) (v : Fn) : (putFn s n v).chans = s.chans := rfl
@[simp] theorem putFn_winA (s : State) (n : Nat) (v : Fn) : (putFn s n v).winA = s.winA := rfl
@[simp] theorem putFn_winB (s : State) (n : Nat) (v : Fn) : (putFn s n v).winB = s.winB := rfl
@[simp] theorem putFn_isl (s : State) (n : Nat) (v : Fn) : (putFn s n v).isl = s.isl := rfl
@[simp] theorem putFn_pwr (s : State) (n : Nat) (v : Fn) : (putFn s n v).pwr = s.pwr := rfl
@[simp] theorem putFn_tim (s : State) (n : Nat) (v : Fn) : (putFn s n v).tim = s.tim := rfl
@[simp] theorem putFn_fabr (s : State) (n : Nat) (v : Fn) : (putFn s n v).fabr = s.fabr := rfl
@[simp] theorem putFn_flash (s : State) (n : Nat) (v : Fn) : (putFn s n v).flash = s.flash := rfl
@[simp] theorem putFn_wear (s : State) (n : Nat) (v : Fn) : (putFn s n v).wear = s.wear := rfl
@[simp] theorem putFn_bucket (s : State) (n : Nat) (v : Fn) : (putFn s n v).bucket = s.bucket := rfl
@[simp] theorem putFn_rates (s : State) (n : Nat) (v : Fn) : (putFn s n v).rates = s.rates := rfl
@[simp] theorem putFn_wins (s : State) (n : Nat) (v : Fn) : (putFn s n v).wins = s.wins := rfl
@[simp] theorem putFn_tierLock (s : State) (n : Nat) (v : Fn) : (putFn s n v).tierLock = s.tierLock := rfl
@[simp] theorem putFn_tdir (s : State) (n : Nat) (v : Fn) : (putFn s n v).tdir = s.tdir := rfl
@[simp] theorem putFn_dramStacks (s : State) (n : Nat) (v : Fn) : (putFn s n v).dramStacks = s.dramStacks := rfl
@[simp] theorem putFn_alm (s : State) (n : Nat) (v : Fn) : (putFn s n v).alm = s.alm := rfl
@[simp] theorem putFn_almA (s : State) (n : Nat) (v : Fn) : (putFn s n v).almA = s.almA := rfl
@[simp] theorem putFn_almB (s : State) (n : Nat) (v : Fn) : (putFn s n v).almB = s.almB := rfl
@[simp] theorem putFn_almDst (s : State) (n : Nat) (v : Fn) : (putFn s n v).almDst = s.almDst := rfl
@[simp] theorem putFn_almLen (s : State) (n : Nat) (v : Fn) : (putFn s n v).almLen = s.almLen := rfl
@[simp] theorem putFn_almDone (s : State) (n : Nat) (v : Fn) : (putFn s n v).almDone = s.almDone := rfl
@[simp] theorem putFn_sec (s : State) (n : Nat) (v : Fn) : (putFn s n v).sec = s.sec := rfl
@[simp] theorem putFn_hist (s : State) (n : Nat) (v : Fn) : (putFn s n v).hist = s.hist := rfl
@[simp] theorem putFn_early (s : State) (n : Nat) (v : Fn) : (putFn s n v).early = s.early := rfl

/-! ### `putPort` -/

@[simp] theorem putPort_pending (s : State) (b : Bool) (q : Port) : (putPort s b q).pending = s.pending := by cases b <;> rfl
@[simp] theorem putPort_free (s : State) (b : Bool) (q : Port) : (putPort s b q).free = s.free := by cases b <;> rfl
@[simp] theorem putPort_arr (s : State) (b : Bool) (q : Port) : (putPort s b q).arr = s.arr := by cases b <;> rfl
@[simp] theorem putPort_vec (s : State) (b : Bool) (q : Port) : (putPort s b q).vec = s.vec := by cases b <;> rfl
@[simp] theorem putPort_mem (s : State) (b : Bool) (q : Port) : (putPort s b q).mem = s.mem := by cases b <;> rfl
@[simp] theorem putPort_poison (s : State) (b : Bool) (q : Port) : (putPort s b q).poison = s.poison := by cases b <;> rfl
@[simp] theorem putPort_spdErr (s : State) (b : Bool) (q : Port) : (putPort s b q).spdErr = s.spdErr := by cases b <;> rfl
@[simp] theorem putPort_parked (s : State) (b : Bool) (q : Port) : (putPort s b q).parked = s.parked := by cases b <;> rfl
@[simp] theorem putPort_streaks (s : State) (b : Bool) (q : Port) : (putPort s b q).streaks = s.streaks := by cases b <;> rfl
@[simp] theorem putPort_granted (s : State) (b : Bool) (q : Port) : (putPort s b q).granted = s.granted := by cases b <;> rfl
@[simp] theorem putPort_tables (s : State) (b : Bool) (q : Port) : (putPort s b q).tables = s.tables := by cases b <;> rfl
@[simp] theorem putPort_places (s : State) (b : Bool) (q : Port) : (putPort s b q).places = s.places := by cases b <;> rfl
@[simp] theorem putPort_tblOps (s : State) (b : Bool) (q : Port) : (putPort s b q).tblOps = s.tblOps := by cases b <;> rfl
@[simp] theorem putPort_jobs (s : State) (b : Bool) (q : Port) : (putPort s b q).jobs = s.jobs := by cases b <;> rfl
@[simp] theorem putPort_sorts (s : State) (b : Bool) (q : Port) : (putPort s b q).sorts = s.sorts := by cases b <;> rfl
@[simp] theorem putPort_sortOrder (s : State) (b : Bool) (q : Port) : (putPort s b q).sortOrder = s.sortOrder := by cases b <;> rfl
@[simp] theorem putPort_rings (s : State) (b : Bool) (q : Port) : (putPort s b q).rings = s.rings := by cases b <;> rfl
@[simp] theorem putPort_fns (s : State) (b : Bool) (q : Port) : (putPort s b q).fns = s.fns := by cases b <;> rfl
@[simp] theorem putPort_pctl (s : State) (b : Bool) (q : Port) : (putPort s b q).pctl = s.pctl := by cases b <;> rfl
@[simp] theorem putPort_msixTab (s : State) (b : Bool) (q : Port) : (putPort s b q).msixTab = s.msixTab := by cases b <;> rfl
@[simp] theorem putPort_irqs (s : State) (b : Bool) (q : Port) : (putPort s b q).irqs = s.irqs := by cases b <;> rfl
@[simp] theorem putPort_tx (s : State) (b : Bool) (q : Port) : (putPort s b q).tx = s.tx := by cases b <;> rfl
@[simp] theorem putPort_evLog (s : State) (b : Bool) (q : Port) : (putPort s b q).evLog = s.evLog := by cases b <;> rfl
@[simp] theorem putPort_rsp (s : State) (b : Bool) (q : Port) : (putPort s b q).rsp = s.rsp := by cases b <;> rfl
@[simp] theorem putPort_chans (s : State) (b : Bool) (q : Port) : (putPort s b q).chans = s.chans := by cases b <;> rfl
@[simp] theorem putPort_winA (s : State) (b : Bool) (q : Port) : (putPort s b q).winA = s.winA := by cases b <;> rfl
@[simp] theorem putPort_winB (s : State) (b : Bool) (q : Port) : (putPort s b q).winB = s.winB := by cases b <;> rfl
@[simp] theorem putPort_isl (s : State) (b : Bool) (q : Port) : (putPort s b q).isl = s.isl := by cases b <;> rfl
@[simp] theorem putPort_pwr (s : State) (b : Bool) (q : Port) : (putPort s b q).pwr = s.pwr := by cases b <;> rfl
@[simp] theorem putPort_tim (s : State) (b : Bool) (q : Port) : (putPort s b q).tim = s.tim := by cases b <;> rfl
@[simp] theorem putPort_fabr (s : State) (b : Bool) (q : Port) : (putPort s b q).fabr = s.fabr := by cases b <;> rfl
@[simp] theorem putPort_flash (s : State) (b : Bool) (q : Port) : (putPort s b q).flash = s.flash := by cases b <;> rfl
@[simp] theorem putPort_wear (s : State) (b : Bool) (q : Port) : (putPort s b q).wear = s.wear := by cases b <;> rfl
@[simp] theorem putPort_bucket (s : State) (b : Bool) (q : Port) : (putPort s b q).bucket = s.bucket := by cases b <;> rfl
@[simp] theorem putPort_rates (s : State) (b : Bool) (q : Port) : (putPort s b q).rates = s.rates := by cases b <;> rfl
@[simp] theorem putPort_wins (s : State) (b : Bool) (q : Port) : (putPort s b q).wins = s.wins := by cases b <;> rfl
@[simp] theorem putPort_tierLock (s : State) (b : Bool) (q : Port) : (putPort s b q).tierLock = s.tierLock := by cases b <;> rfl
@[simp] theorem putPort_tdir (s : State) (b : Bool) (q : Port) : (putPort s b q).tdir = s.tdir := by cases b <;> rfl
@[simp] theorem putPort_dramStacks (s : State) (b : Bool) (q : Port) : (putPort s b q).dramStacks = s.dramStacks := by cases b <;> rfl
@[simp] theorem putPort_alm (s : State) (b : Bool) (q : Port) : (putPort s b q).alm = s.alm := by cases b <;> rfl
@[simp] theorem putPort_almA (s : State) (b : Bool) (q : Port) : (putPort s b q).almA = s.almA := by cases b <;> rfl
@[simp] theorem putPort_almB (s : State) (b : Bool) (q : Port) : (putPort s b q).almB = s.almB := by cases b <;> rfl
@[simp] theorem putPort_almDst (s : State) (b : Bool) (q : Port) : (putPort s b q).almDst = s.almDst := by cases b <;> rfl
@[simp] theorem putPort_almLen (s : State) (b : Bool) (q : Port) : (putPort s b q).almLen = s.almLen := by cases b <;> rfl
@[simp] theorem putPort_almDone (s : State) (b : Bool) (q : Port) : (putPort s b q).almDone = s.almDone := by cases b <;> rfl
@[simp] theorem putPort_sec (s : State) (b : Bool) (q : Port) : (putPort s b q).sec = s.sec := by cases b <;> rfl
@[simp] theorem putPort_hist (s : State) (b : Bool) (q : Port) : (putPort s b q).hist = s.hist := by cases b <;> rfl
@[simp] theorem putPort_early (s : State) (b : Bool) (q : Port) : (putPort s b q).early = s.early := by cases b <;> rfl

/-! ### `putTbl` -/

@[simp] theorem putTbl_pending (s : State) (p : Part) (t : Nat) (v : Table) : (putTbl s p t v).pending = s.pending := rfl
@[simp] theorem putTbl_free (s : State) (p : Part) (t : Nat) (v : Table) : (putTbl s p t v).free = s.free := rfl
@[simp] theorem putTbl_arr (s : State) (p : Part) (t : Nat) (v : Table) : (putTbl s p t v).arr = s.arr := rfl
@[simp] theorem putTbl_vec (s : State) (p : Part) (t : Nat) (v : Table) : (putTbl s p t v).vec = s.vec := rfl
@[simp] theorem putTbl_mem (s : State) (p : Part) (t : Nat) (v : Table) : (putTbl s p t v).mem = s.mem := rfl
@[simp] theorem putTbl_poison (s : State) (p : Part) (t : Nat) (v : Table) : (putTbl s p t v).poison = s.poison := rfl
@[simp] theorem putTbl_spdErr (s : State) (p : Part) (t : Nat) (v : Table) : (putTbl s p t v).spdErr = s.spdErr := rfl
@[simp] theorem putTbl_parked (s : State) (p : Part) (t : Nat) (v : Table) : (putTbl s p t v).parked = s.parked := rfl
@[simp] theorem putTbl_streaks (s : State) (p : Part) (t : Nat) (v : Table) : (putTbl s p t v).streaks = s.streaks := rfl
@[simp] theorem putTbl_granted (s : State) (p : Part) (t : Nat) (v : Table) : (putTbl s p t v).granted = s.granted := rfl
@[simp] theorem putTbl_places (s : State) (p : Part) (t : Nat) (v : Table) : (putTbl s p t v).places = s.places := rfl
@[simp] theorem putTbl_tblOps (s : State) (p : Part) (t : Nat) (v : Table) : (putTbl s p t v).tblOps = s.tblOps := rfl
@[simp] theorem putTbl_jobs (s : State) (p : Part) (t : Nat) (v : Table) : (putTbl s p t v).jobs = s.jobs := rfl
@[simp] theorem putTbl_sorts (s : State) (p : Part) (t : Nat) (v : Table) : (putTbl s p t v).sorts = s.sorts := rfl
@[simp] theorem putTbl_sortOrder (s : State) (p : Part) (t : Nat) (v : Table) : (putTbl s p t v).sortOrder = s.sortOrder := rfl
@[simp] theorem putTbl_rings (s : State) (p : Part) (t : Nat) (v : Table) : (putTbl s p t v).rings = s.rings := rfl
@[simp] theorem putTbl_fns (s : State) (p : Part) (t : Nat) (v : Table) : (putTbl s p t v).fns = s.fns := rfl
@[simp] theorem putTbl_portA (s : State) (p : Part) (t : Nat) (v : Table) : (putTbl s p t v).portA = s.portA := rfl
@[simp] theorem putTbl_portB (s : State) (p : Part) (t : Nat) (v : Table) : (putTbl s p t v).portB = s.portB := rfl
@[simp] theorem putTbl_pctl (s : State) (p : Part) (t : Nat) (v : Table) : (putTbl s p t v).pctl = s.pctl := rfl
@[simp] theorem putTbl_msixTab (s : State) (p : Part) (t : Nat) (v : Table) : (putTbl s p t v).msixTab = s.msixTab := rfl
@[simp] theorem putTbl_irqs (s : State) (p : Part) (t : Nat) (v : Table) : (putTbl s p t v).irqs = s.irqs := rfl
@[simp] theorem putTbl_tx (s : State) (p : Part) (t : Nat) (v : Table) : (putTbl s p t v).tx = s.tx := rfl
@[simp] theorem putTbl_evLog (s : State) (p : Part) (t : Nat) (v : Table) : (putTbl s p t v).evLog = s.evLog := rfl
@[simp] theorem putTbl_rsp (s : State) (p : Part) (t : Nat) (v : Table) : (putTbl s p t v).rsp = s.rsp := rfl
@[simp] theorem putTbl_chans (s : State) (p : Part) (t : Nat) (v : Table) : (putTbl s p t v).chans = s.chans := rfl
@[simp] theorem putTbl_winA (s : State) (p : Part) (t : Nat) (v : Table) : (putTbl s p t v).winA = s.winA := rfl
@[simp] theorem putTbl_winB (s : State) (p : Part) (t : Nat) (v : Table) : (putTbl s p t v).winB = s.winB := rfl
@[simp] theorem putTbl_isl (s : State) (p : Part) (t : Nat) (v : Table) : (putTbl s p t v).isl = s.isl := rfl
@[simp] theorem putTbl_pwr (s : State) (p : Part) (t : Nat) (v : Table) : (putTbl s p t v).pwr = s.pwr := rfl
@[simp] theorem putTbl_tim (s : State) (p : Part) (t : Nat) (v : Table) : (putTbl s p t v).tim = s.tim := rfl
@[simp] theorem putTbl_fabr (s : State) (p : Part) (t : Nat) (v : Table) : (putTbl s p t v).fabr = s.fabr := rfl
@[simp] theorem putTbl_flash (s : State) (p : Part) (t : Nat) (v : Table) : (putTbl s p t v).flash = s.flash := rfl
@[simp] theorem putTbl_wear (s : State) (p : Part) (t : Nat) (v : Table) : (putTbl s p t v).wear = s.wear := rfl
@[simp] theorem putTbl_bucket (s : State) (p : Part) (t : Nat) (v : Table) : (putTbl s p t v).bucket = s.bucket := rfl
@[simp] theorem putTbl_rates (s : State) (p : Part) (t : Nat) (v : Table) : (putTbl s p t v).rates = s.rates := rfl
@[simp] theorem putTbl_wins (s : State) (p : Part) (t : Nat) (v : Table) : (putTbl s p t v).wins = s.wins := rfl
@[simp] theorem putTbl_tierLock (s : State) (p : Part) (t : Nat) (v : Table) : (putTbl s p t v).tierLock = s.tierLock := rfl
@[simp] theorem putTbl_tdir (s : State) (p : Part) (t : Nat) (v : Table) : (putTbl s p t v).tdir = s.tdir := rfl
@[simp] theorem putTbl_dramStacks (s : State) (p : Part) (t : Nat) (v : Table) : (putTbl s p t v).dramStacks = s.dramStacks := rfl
@[simp] theorem putTbl_alm (s : State) (p : Part) (t : Nat) (v : Table) : (putTbl s p t v).alm = s.alm := rfl
@[simp] theorem putTbl_almA (s : State) (p : Part) (t : Nat) (v : Table) : (putTbl s p t v).almA = s.almA := rfl
@[simp] theorem putTbl_almB (s : State) (p : Part) (t : Nat) (v : Table) : (putTbl s p t v).almB = s.almB := rfl
@[simp] theorem putTbl_almDst (s : State) (p : Part) (t : Nat) (v : Table) : (putTbl s p t v).almDst = s.almDst := rfl
@[simp] theorem putTbl_almLen (s : State) (p : Part) (t : Nat) (v : Table) : (putTbl s p t v).almLen = s.almLen := rfl
@[simp] theorem putTbl_almDone (s : State) (p : Part) (t : Nat) (v : Table) : (putTbl s p t v).almDone = s.almDone := rfl
@[simp] theorem putTbl_sec (s : State) (p : Part) (t : Nat) (v : Table) : (putTbl s p t v).sec = s.sec := rfl
@[simp] theorem putTbl_hist (s : State) (p : Part) (t : Nat) (v : Table) : (putTbl s p t v).hist = s.hist := rfl
@[simp] theorem putTbl_early (s : State) (p : Part) (t : Nat) (v : Table) : (putTbl s p t v).early = s.early := rfl

/-! ### `modTbl` -/

@[simp] theorem modTbl_pending (s : State) (p : Part) (t : Nat) (f : Table → Table) : (modTbl s p t f).pending = s.pending := by unfold modTbl; split <;> rfl
@[simp] theorem modTbl_free (s : State) (p : Part) (t : Nat) (f : Table → Table) : (modTbl s p t f).free = s.free := by unfold modTbl; split <;> rfl
@[simp] theorem modTbl_arr (s : State) (p : Part) (t : Nat) (f : Table → Table) : (modTbl s p t f).arr = s.arr := by unfold modTbl; split <;> rfl
@[simp] theorem modTbl_vec (s : State) (p : Part) (t : Nat) (f : Table → Table) : (modTbl s p t f).vec = s.vec := by unfold modTbl; split <;> rfl
@[simp] theorem modTbl_mem (s : State) (p : Part) (t : Nat) (f : Table → Table) : (modTbl s p t f).mem = s.mem := by unfold modTbl; split <;> rfl
@[simp] theorem modTbl_poison (s : State) (p : Part) (t : Nat) (f : Table → Table) : (modTbl s p t f).poison = s.poison := by unfold modTbl; split <;> rfl
@[simp] theorem modTbl_spdErr (s : State) (p : Part) (t : Nat) (f : Table → Table) : (modTbl s p t f).spdErr = s.spdErr := by unfold modTbl; split <;> rfl
@[simp] theorem modTbl_parked (s : State) (p : Part) (t : Nat) (f : Table → Table) : (modTbl s p t f).parked = s.parked := by unfold modTbl; split <;> rfl
@[simp] theorem modTbl_streaks (s : State) (p : Part) (t : Nat) (f : Table → Table) : (modTbl s p t f).streaks = s.streaks := by unfold modTbl; split <;> rfl
@[simp] theorem modTbl_granted (s : State) (p : Part) (t : Nat) (f : Table → Table) : (modTbl s p t f).granted = s.granted := by unfold modTbl; split <;> rfl
@[simp] theorem modTbl_places (s : State) (p : Part) (t : Nat) (f : Table → Table) : (modTbl s p t f).places = s.places := by unfold modTbl; split <;> rfl
@[simp] theorem modTbl_tblOps (s : State) (p : Part) (t : Nat) (f : Table → Table) : (modTbl s p t f).tblOps = s.tblOps := by unfold modTbl; split <;> rfl
@[simp] theorem modTbl_jobs (s : State) (p : Part) (t : Nat) (f : Table → Table) : (modTbl s p t f).jobs = s.jobs := by unfold modTbl; split <;> rfl
@[simp] theorem modTbl_sorts (s : State) (p : Part) (t : Nat) (f : Table → Table) : (modTbl s p t f).sorts = s.sorts := by unfold modTbl; split <;> rfl
@[simp] theorem modTbl_sortOrder (s : State) (p : Part) (t : Nat) (f : Table → Table) : (modTbl s p t f).sortOrder = s.sortOrder := by unfold modTbl; split <;> rfl
@[simp] theorem modTbl_rings (s : State) (p : Part) (t : Nat) (f : Table → Table) : (modTbl s p t f).rings = s.rings := by unfold modTbl; split <;> rfl
@[simp] theorem modTbl_fns (s : State) (p : Part) (t : Nat) (f : Table → Table) : (modTbl s p t f).fns = s.fns := by unfold modTbl; split <;> rfl
@[simp] theorem modTbl_portA (s : State) (p : Part) (t : Nat) (f : Table → Table) : (modTbl s p t f).portA = s.portA := by unfold modTbl; split <;> rfl
@[simp] theorem modTbl_portB (s : State) (p : Part) (t : Nat) (f : Table → Table) : (modTbl s p t f).portB = s.portB := by unfold modTbl; split <;> rfl
@[simp] theorem modTbl_pctl (s : State) (p : Part) (t : Nat) (f : Table → Table) : (modTbl s p t f).pctl = s.pctl := by unfold modTbl; split <;> rfl
@[simp] theorem modTbl_msixTab (s : State) (p : Part) (t : Nat) (f : Table → Table) : (modTbl s p t f).msixTab = s.msixTab := by unfold modTbl; split <;> rfl
@[simp] theorem modTbl_irqs (s : State) (p : Part) (t : Nat) (f : Table → Table) : (modTbl s p t f).irqs = s.irqs := by unfold modTbl; split <;> rfl
@[simp] theorem modTbl_tx (s : State) (p : Part) (t : Nat) (f : Table → Table) : (modTbl s p t f).tx = s.tx := by unfold modTbl; split <;> rfl
@[simp] theorem modTbl_evLog (s : State) (p : Part) (t : Nat) (f : Table → Table) : (modTbl s p t f).evLog = s.evLog := by unfold modTbl; split <;> rfl
@[simp] theorem modTbl_rsp (s : State) (p : Part) (t : Nat) (f : Table → Table) : (modTbl s p t f).rsp = s.rsp := by unfold modTbl; split <;> rfl
@[simp] theorem modTbl_chans (s : State) (p : Part) (t : Nat) (f : Table → Table) : (modTbl s p t f).chans = s.chans := by unfold modTbl; split <;> rfl
@[simp] theorem modTbl_winA (s : State) (p : Part) (t : Nat) (f : Table → Table) : (modTbl s p t f).winA = s.winA := by unfold modTbl; split <;> rfl
@[simp] theorem modTbl_winB (s : State) (p : Part) (t : Nat) (f : Table → Table) : (modTbl s p t f).winB = s.winB := by unfold modTbl; split <;> rfl
@[simp] theorem modTbl_isl (s : State) (p : Part) (t : Nat) (f : Table → Table) : (modTbl s p t f).isl = s.isl := by unfold modTbl; split <;> rfl
@[simp] theorem modTbl_pwr (s : State) (p : Part) (t : Nat) (f : Table → Table) : (modTbl s p t f).pwr = s.pwr := by unfold modTbl; split <;> rfl
@[simp] theorem modTbl_tim (s : State) (p : Part) (t : Nat) (f : Table → Table) : (modTbl s p t f).tim = s.tim := by unfold modTbl; split <;> rfl
@[simp] theorem modTbl_fabr (s : State) (p : Part) (t : Nat) (f : Table → Table) : (modTbl s p t f).fabr = s.fabr := by unfold modTbl; split <;> rfl
@[simp] theorem modTbl_flash (s : State) (p : Part) (t : Nat) (f : Table → Table) : (modTbl s p t f).flash = s.flash := by unfold modTbl; split <;> rfl
@[simp] theorem modTbl_wear (s : State) (p : Part) (t : Nat) (f : Table → Table) : (modTbl s p t f).wear = s.wear := by unfold modTbl; split <;> rfl
@[simp] theorem modTbl_bucket (s : State) (p : Part) (t : Nat) (f : Table → Table) : (modTbl s p t f).bucket = s.bucket := by unfold modTbl; split <;> rfl
@[simp] theorem modTbl_rates (s : State) (p : Part) (t : Nat) (f : Table → Table) : (modTbl s p t f).rates = s.rates := by unfold modTbl; split <;> rfl
@[simp] theorem modTbl_wins (s : State) (p : Part) (t : Nat) (f : Table → Table) : (modTbl s p t f).wins = s.wins := by unfold modTbl; split <;> rfl
@[simp] theorem modTbl_tierLock (s : State) (p : Part) (t : Nat) (f : Table → Table) : (modTbl s p t f).tierLock = s.tierLock := by unfold modTbl; split <;> rfl
@[simp] theorem modTbl_tdir (s : State) (p : Part) (t : Nat) (f : Table → Table) : (modTbl s p t f).tdir = s.tdir := by unfold modTbl; split <;> rfl
@[simp] theorem modTbl_dramStacks (s : State) (p : Part) (t : Nat) (f : Table → Table) : (modTbl s p t f).dramStacks = s.dramStacks := by unfold modTbl; split <;> rfl
@[simp] theorem modTbl_alm (s : State) (p : Part) (t : Nat) (f : Table → Table) : (modTbl s p t f).alm = s.alm := by unfold modTbl; split <;> rfl
@[simp] theorem modTbl_almA (s : State) (p : Part) (t : Nat) (f : Table → Table) : (modTbl s p t f).almA = s.almA := by unfold modTbl; split <;> rfl
@[simp] theorem modTbl_almB (s : State) (p : Part) (t : Nat) (f : Table → Table) : (modTbl s p t f).almB = s.almB := by unfold modTbl; split <;> rfl
@[simp] theorem modTbl_almDst (s : State) (p : Part) (t : Nat) (f : Table → Table) : (modTbl s p t f).almDst = s.almDst := by unfold modTbl; split <;> rfl
@[simp] theorem modTbl_almLen (s : State) (p : Part) (t : Nat) (f : Table → Table) : (modTbl s p t f).almLen = s.almLen := by unfold modTbl; split <;> rfl
@[simp] theorem modTbl_almDone (s : State) (p : Part) (t : Nat) (f : Table → Table) : (modTbl s p t f).almDone = s.almDone := by unfold modTbl; split <;> rfl
@[simp] theorem modTbl_sec (s : State) (p : Part) (t : Nat) (f : Table → Table) : (modTbl s p t f).sec = s.sec := by unfold modTbl; split <;> rfl
@[simp] theorem modTbl_hist (s : State) (p : Part) (t : Nat) (f : Table → Table) : (modTbl s p t f).hist = s.hist := by unfold modTbl; split <;> rfl
@[simp] theorem modTbl_early (s : State) (p : Part) (t : Nat) (f : Table → Table) : (modTbl s p t f).early = s.early := by unfold modTbl; split <;> rfl

/-! ### `history` -/

@[simp] theorem history_pending (s : State) (k a b : Nat) : (history s k a b).pending = s.pending := rfl
@[simp] theorem history_free (s : State) (k a b : Nat) : (history s k a b).free = s.free := rfl
@[simp] theorem history_arr (s : State) (k a b : Nat) : (history s k a b).arr = s.arr := rfl
@[simp] theorem history_vec (s : State) (k a b : Nat) : (history s k a b).vec = s.vec := rfl
@[simp] theorem history_mem (s : State) (k a b : Nat) : (history s k a b).mem = s.mem := rfl
@[simp] theorem history_poison (s : State) (k a b : Nat) : (history s k a b).poison = s.poison := rfl
@[simp] theorem history_spdErr (s : State) (k a b : Nat) : (history s k a b).spdErr = s.spdErr := rfl
@[simp] theorem history_parked (s : State) (k a b : Nat) : (history s k a b).parked = s.parked := rfl
@[simp] theorem history_streaks (s : State) (k a b : Nat) : (history s k a b).streaks = s.streaks := rfl
@[simp] theorem history_granted (s : State) (k a b : Nat) : (history s k a b).granted = s.granted := rfl
@[simp] theorem history_tables (s : State) (k a b : Nat) : (history s k a b).tables = s.tables := rfl
@[simp] theorem history_places (s : State) (k a b : Nat) : (history s k a b).places = s.places := rfl
@[simp] theorem history_tblOps (s : State) (k a b : Nat) : (history s k a b).tblOps = s.tblOps := rfl
@[simp] theorem history_jobs (s : State) (k a b : Nat) : (history s k a b).jobs = s.jobs := rfl
@[simp] theorem history_sorts (s : State) (k a b : Nat) : (history s k a b).sorts = s.sorts := rfl
@[simp] theorem history_sortOrder (s : State) (k a b : Nat) : (history s k a b).sortOrder = s.sortOrder := rfl
@[simp] theorem history_rings (s : State) (k a b : Nat) : (history s k a b).rings = s.rings := rfl
@[simp] theorem history_fns (s : State) (k a b : Nat) : (history s k a b).fns = s.fns := rfl
@[simp] theorem history_portA (s : State) (k a b : Nat) : (history s k a b).portA = s.portA := rfl
@[simp] theorem history_portB (s : State) (k a b : Nat) : (history s k a b).portB = s.portB := rfl
@[simp] theorem history_pctl (s : State) (k a b : Nat) : (history s k a b).pctl = s.pctl := rfl
@[simp] theorem history_msixTab (s : State) (k a b : Nat) : (history s k a b).msixTab = s.msixTab := rfl
@[simp] theorem history_irqs (s : State) (k a b : Nat) : (history s k a b).irqs = s.irqs := rfl
@[simp] theorem history_tx (s : State) (k a b : Nat) : (history s k a b).tx = s.tx := rfl
@[simp] theorem history_evLog (s : State) (k a b : Nat) : (history s k a b).evLog = s.evLog := rfl
@[simp] theorem history_rsp (s : State) (k a b : Nat) : (history s k a b).rsp = s.rsp := rfl
@[simp] theorem history_chans (s : State) (k a b : Nat) : (history s k a b).chans = s.chans := rfl
@[simp] theorem history_winA (s : State) (k a b : Nat) : (history s k a b).winA = s.winA := rfl
@[simp] theorem history_winB (s : State) (k a b : Nat) : (history s k a b).winB = s.winB := rfl
@[simp] theorem history_isl (s : State) (k a b : Nat) : (history s k a b).isl = s.isl := rfl
@[simp] theorem history_pwr (s : State) (k a b : Nat) : (history s k a b).pwr = s.pwr := rfl
@[simp] theorem history_tim (s : State) (k a b : Nat) : (history s k a b).tim = s.tim := rfl
@[simp] theorem history_fabr (s : State) (k a b : Nat) : (history s k a b).fabr = s.fabr := rfl
@[simp] theorem history_flash (s : State) (k a b : Nat) : (history s k a b).flash = s.flash := rfl
@[simp] theorem history_wear (s : State) (k a b : Nat) : (history s k a b).wear = s.wear := rfl
@[simp] theorem history_bucket (s : State) (k a b : Nat) : (history s k a b).bucket = s.bucket := rfl
@[simp] theorem history_rates (s : State) (k a b : Nat) : (history s k a b).rates = s.rates := rfl
@[simp] theorem history_wins (s : State) (k a b : Nat) : (history s k a b).wins = s.wins := rfl
@[simp] theorem history_tierLock (s : State) (k a b : Nat) : (history s k a b).tierLock = s.tierLock := rfl
@[simp] theorem history_tdir (s : State) (k a b : Nat) : (history s k a b).tdir = s.tdir := rfl
@[simp] theorem history_dramStacks (s : State) (k a b : Nat) : (history s k a b).dramStacks = s.dramStacks := rfl
@[simp] theorem history_alm (s : State) (k a b : Nat) : (history s k a b).alm = s.alm := rfl
@[simp] theorem history_almA (s : State) (k a b : Nat) : (history s k a b).almA = s.almA := rfl
@[simp] theorem history_almB (s : State) (k a b : Nat) : (history s k a b).almB = s.almB := rfl
@[simp] theorem history_almDst (s : State) (k a b : Nat) : (history s k a b).almDst = s.almDst := rfl
@[simp] theorem history_almLen (s : State) (k a b : Nat) : (history s k a b).almLen = s.almLen := rfl
@[simp] theorem history_almDone (s : State) (k a b : Nat) : (history s k a b).almDone = s.almDone := rfl
@[simp] theorem history_sec (s : State) (k a b : Nat) : (history s k a b).sec = s.sec := rfl

/-! ### `setDom` -/

@[simp] theorem setDom_pending (s : State) (d : Nat) (v : DomState) : (setDom s d v).pending = s.pending := by simp only [setDom]; split <;> rfl
@[simp] theorem setDom_free (s : State) (d : Nat) (v : DomState) : (setDom s d v).free = s.free := by simp only [setDom]; split <;> rfl
@[simp] theorem setDom_arr (s : State) (d : Nat) (v : DomState) : (setDom s d v).arr = s.arr := by simp only [setDom]; split <;> rfl
@[simp] theorem setDom_vec (s : State) (d : Nat) (v : DomState) : (setDom s d v).vec = s.vec := by simp only [setDom]; split <;> rfl
@[simp] theorem setDom_mem (s : State) (d : Nat) (v : DomState) : (setDom s d v).mem = s.mem := by simp only [setDom]; split <;> rfl
@[simp] theorem setDom_poison (s : State) (d : Nat) (v : DomState) : (setDom s d v).poison = s.poison := by simp only [setDom]; split <;> rfl
@[simp] theorem setDom_spdErr (s : State) (d : Nat) (v : DomState) : (setDom s d v).spdErr = s.spdErr := by simp only [setDom]; split <;> rfl
@[simp] theorem setDom_parked (s : State) (d : Nat) (v : DomState) : (setDom s d v).parked = s.parked := by simp only [setDom]; split <;> rfl
@[simp] theorem setDom_streaks (s : State) (d : Nat) (v : DomState) : (setDom s d v).streaks = s.streaks := by simp only [setDom]; split <;> rfl
@[simp] theorem setDom_granted (s : State) (d : Nat) (v : DomState) : (setDom s d v).granted = s.granted := by simp only [setDom]; split <;> rfl
@[simp] theorem setDom_tables (s : State) (d : Nat) (v : DomState) : (setDom s d v).tables = s.tables := by simp only [setDom]; split <;> rfl
@[simp] theorem setDom_places (s : State) (d : Nat) (v : DomState) : (setDom s d v).places = s.places := by simp only [setDom]; split <;> rfl
@[simp] theorem setDom_tblOps (s : State) (d : Nat) (v : DomState) : (setDom s d v).tblOps = s.tblOps := by simp only [setDom]; split <;> rfl
@[simp] theorem setDom_jobs (s : State) (d : Nat) (v : DomState) : (setDom s d v).jobs = s.jobs := by simp only [setDom]; split <;> rfl
@[simp] theorem setDom_sorts (s : State) (d : Nat) (v : DomState) : (setDom s d v).sorts = s.sorts := by simp only [setDom]; split <;> rfl
@[simp] theorem setDom_sortOrder (s : State) (d : Nat) (v : DomState) : (setDom s d v).sortOrder = s.sortOrder := by simp only [setDom]; split <;> rfl
@[simp] theorem setDom_rings (s : State) (d : Nat) (v : DomState) : (setDom s d v).rings = s.rings := by simp only [setDom]; split <;> rfl
@[simp] theorem setDom_fns (s : State) (d : Nat) (v : DomState) : (setDom s d v).fns = s.fns := by simp only [setDom]; split <;> rfl
@[simp] theorem setDom_portA (s : State) (d : Nat) (v : DomState) : (setDom s d v).portA = s.portA := by simp only [setDom]; split <;> rfl
@[simp] theorem setDom_portB (s : State) (d : Nat) (v : DomState) : (setDom s d v).portB = s.portB := by simp only [setDom]; split <;> rfl
@[simp] theorem setDom_pctl (s : State) (d : Nat) (v : DomState) : (setDom s d v).pctl = s.pctl := by simp only [setDom]; split <;> rfl
@[simp] theorem setDom_msixTab (s : State) (d : Nat) (v : DomState) : (setDom s d v).msixTab = s.msixTab := by simp only [setDom]; split <;> rfl
@[simp] theorem setDom_irqs (s : State) (d : Nat) (v : DomState) : (setDom s d v).irqs = s.irqs := by simp only [setDom]; split <;> rfl
@[simp] theorem setDom_tx (s : State) (d : Nat) (v : DomState) : (setDom s d v).tx = s.tx := by simp only [setDom]; split <;> rfl
@[simp] theorem setDom_evLog (s : State) (d : Nat) (v : DomState) : (setDom s d v).evLog = s.evLog := by simp only [setDom]; split <;> rfl
@[simp] theorem setDom_rsp (s : State) (d : Nat) (v : DomState) : (setDom s d v).rsp = s.rsp := by simp only [setDom]; split <;> rfl
@[simp] theorem setDom_chans (s : State) (d : Nat) (v : DomState) : (setDom s d v).chans = s.chans := by simp only [setDom]; split <;> rfl
@[simp] theorem setDom_winA (s : State) (d : Nat) (v : DomState) : (setDom s d v).winA = s.winA := by simp only [setDom]; split <;> rfl
@[simp] theorem setDom_winB (s : State) (d : Nat) (v : DomState) : (setDom s d v).winB = s.winB := by simp only [setDom]; split <;> rfl
@[simp] theorem setDom_isl (s : State) (d : Nat) (v : DomState) : (setDom s d v).isl = s.isl := by simp only [setDom]; split <;> rfl
@[simp] theorem setDom_tim (s : State) (d : Nat) (v : DomState) : (setDom s d v).tim = s.tim := by simp only [setDom]; split <;> rfl
@[simp] theorem setDom_fabr (s : State) (d : Nat) (v : DomState) : (setDom s d v).fabr = s.fabr := by simp only [setDom]; split <;> rfl
@[simp] theorem setDom_flash (s : State) (d : Nat) (v : DomState) : (setDom s d v).flash = s.flash := by simp only [setDom]; split <;> rfl
@[simp] theorem setDom_wear (s : State) (d : Nat) (v : DomState) : (setDom s d v).wear = s.wear := by simp only [setDom]; split <;> rfl
@[simp] theorem setDom_bucket (s : State) (d : Nat) (v : DomState) : (setDom s d v).bucket = s.bucket := by simp only [setDom]; split <;> rfl
@[simp] theorem setDom_rates (s : State) (d : Nat) (v : DomState) : (setDom s d v).rates = s.rates := by simp only [setDom]; split <;> rfl
@[simp] theorem setDom_wins (s : State) (d : Nat) (v : DomState) : (setDom s d v).wins = s.wins := by simp only [setDom]; split <;> rfl
@[simp] theorem setDom_tierLock (s : State) (d : Nat) (v : DomState) : (setDom s d v).tierLock = s.tierLock := by simp only [setDom]; split <;> rfl
@[simp] theorem setDom_tdir (s : State) (d : Nat) (v : DomState) : (setDom s d v).tdir = s.tdir := by simp only [setDom]; split <;> rfl
@[simp] theorem setDom_dramStacks (s : State) (d : Nat) (v : DomState) : (setDom s d v).dramStacks = s.dramStacks := by simp only [setDom]; split <;> rfl
@[simp] theorem setDom_almA (s : State) (d : Nat) (v : DomState) : (setDom s d v).almA = s.almA := by simp only [setDom]; split <;> rfl
@[simp] theorem setDom_almB (s : State) (d : Nat) (v : DomState) : (setDom s d v).almB = s.almB := by simp only [setDom]; split <;> rfl
@[simp] theorem setDom_almDst (s : State) (d : Nat) (v : DomState) : (setDom s d v).almDst = s.almDst := by simp only [setDom]; split <;> rfl
@[simp] theorem setDom_almLen (s : State) (d : Nat) (v : DomState) : (setDom s d v).almLen = s.almLen := by simp only [setDom]; split <;> rfl
@[simp] theorem setDom_almDone (s : State) (d : Nat) (v : DomState) : (setDom s d v).almDone = s.almDone := by simp only [setDom]; split <;> rfl
@[simp] theorem setDom_sec (s : State) (d : Nat) (v : DomState) : (setDom s d v).sec = s.sec := by simp only [setDom]; split <;> rfl
@[simp] theorem setDom_hist (s : State) (d : Nat) (v : DomState) : (setDom s d v).hist = s.hist := by simp only [setDom]; split <;> rfl
@[simp] theorem setDom_early (s : State) (d : Nat) (v : DomState) : (setDom s d v).early = s.early := by simp only [setDom]; split <;> rfl

/-! ### Reads of what an update writes -/

@[simp] theorem getJob_modJob (s : State) (p q : Part) (f : Job → Job) :
    getJob (modJob s p f) q = if q = p then (getJob s p).map f else getJob s q := by
  unfold modJob
  split
  · next h => split
              · subst_vars; simp [h]
              · rfl
  · next j h =>
    simp only [getJob, tabFind_tabSet] at h ⊢
    by_cases hq : q = p
    · subst_vars; simp [h]
    · rw [if_neg hq, if_neg (fun e => hq (BitVec.eq_of_toNat_eq e))]

@[simp] theorem getRing_putRing (s : State) (n m : Nat) (r : Ring) :
    getRing (putRing s n r) m = if m = n then r else getRing s m := by
  simp only [getRing, putRing, tabGet_tabSet]

@[simp] theorem getFn_putFn (s : State) (n m : Nat) (v : Fn) : getFn (putFn s n v) m = if m = n then v else getFn s m := by
  simp only [getFn, putFn, tabGet_tabSet]

@[simp] theorem getPort_putPort (s : State) (a b : Bool) (q : Port) :
    getPort (putPort s a q) b = if b = a then q else getPort s b := by
  cases a <;> cases b <;> rfl

@[simp] theorem getTbl_putTbl (s : State) (p q : Part) (t u : Nat) (v : Table) :
    getTbl (putTbl s p t v) q u = if tkey q u = tkey p t then some v else getTbl s q u := by
  simp only [getTbl, putTbl, tabFind_tabSet]

/-! ### Reads that depend on one field -/

theorem getJob_congr {s t : State} (h : t.jobs = s.jobs) (p : Part) : getJob t p = getJob s p := by simp only [getJob, h]
theorem getRing_congr {s t : State} (h : t.rings = s.rings) (n : Nat) : getRing t n = getRing s n := by simp only [getRing, h]
theorem getFn_congr {s t : State} (h : t.fns = s.fns) (n : Nat) : getFn t n = getFn s n := by simp only [getFn, h]
theorem getTbl_congr {s t : State} (h : t.tables = s.tables) (p : Part) (n : Nat) : getTbl t p n = getTbl s p n := by
  simp only [getTbl, h]
theorem dom_congr {s t : State} (h : t.pwr = s.pwr) (d : Nat) : dom t d = dom s d := by simp only [dom, h]

end Sys2Proof.Machine
end

