-- ==== Sys2Proof/Laws/Streams.lean ====
section
/-! SUPPORT. A word that issues at once: what the pump does with it. -/

namespace Sys2Proof.Machine

@[simp] theorem stream_modStream (j : Job) (u v : SUnit) (f : Stream → Stream) :
    (j.modStream u f).stream v = if v = u then f (j.stream u) else j.stream v := by
  cases u <;> cases v <;> rfl

@[simp] theorem vetoed_modStream (j : Job) (u : SUnit) (f : Stream → Stream) : (j.modStream u f).vetoed = j.vetoed := by
  cases u <;> rfl

theorem mem_allStreams (q : Part) (u : SUnit) : (q, u) ∈ allStreams := by
  have : ∀ q : Part, (q, SUnit.seq) ∈ allStreams ∧ (q, SUnit.arr) ∈ allStreams ∧ (q, SUnit.vec) ∈ allStreams := by decide
  cases u
  · exact (this q).1
  · exact (this q).2.1
  · exact (this q).2.2

theorem turns_pos (x : SWord) : 1 ≤ x.turns := by unfold SWord.turns; split <;> omega

theorem waiting_zero (st : Stream) : st.waiting = 0 ↔ st.held = [] ∧ st.drain = 0 := by
  unfold Stream.waiting
  cases h : st.held with
  | nil => simp
  | cons x t =>
    have := turns_pos x
    simp only [List.map_cons, List.foldr_cons, reduceCtorEq, false_and, iff_false]
    omega

theorem heldWords_zero {s : State} (h : heldWords s = 0) (q : Part) (u : SUnit) (j : Job) (hj : getJob s q = some j) :
    (j.stream u).held = [] ∧ (j.stream u).drain = 0 := by
  have hz : ∀ (l : List Nat) (a : Nat), l.foldl (· + ·) a = 0 → a = 0 ∧ ∀ x ∈ l, x = 0 := by
    intro l
    induction l with
    | nil => intro a h; simpa using h
    | cons b l ih =>
      intro a h
      obtain ⟨h1, h2⟩ := ih _ h
      have h1' : a + b = 0 := h1
      refine ⟨by omega, fun x hx => ?_⟩
      rcases List.mem_cons.1 hx with rfl | hx
      · omega
      · exact h2 x hx
  have hm := (hz _ _ h).2
  have := hm _ (List.mem_map.2 ⟨(q, u), mem_allStreams q u, rfl⟩)
  rw [hj] at this
  exact (waiting_zero _).1 this

theorem queued_job (s : State) (p : Part) (u : SUnit) (x : SWord) (j : Job) (h : getJob s p = some j) (q : Part) :
    getJob (queued s p u x) q =
      if q = p then some (j.modStream u fun st => { st with held := st.held ++ [x] }) else getJob s q := by
  simp only [queued, getJob_modJob, h, Option.map_some]

/-- No stream holds a word. -/
def noneHeld (s : State) : Prop := ∀ (q : Part) (v : SUnit) (k : Job), getJob s q = some k → (k.stream v).held = []

/-- A stream that has nothing to drain and no AACC that finds the queue full runs no deferred entry. -/
theorem pumpDrain_none (s : State) (q : Part)
    (h : ∀ k, getJob s q = some k → k.arrS.drain = 0 ∧ queueFull s q k = false) : pumpDrain s q = none := by
  unfold pumpDrain
  split
  · rfl
  · next j hj => simp [h j hj]

theorem queueFull_nil (s : State) (q : Part) (k : Job) (h : k.arrS.held = []) : queueFull s q k = false := by
  unfold queueFull; rw [h]

theorem pumpOne_none (s : State) (q : Part) (v : SUnit)
    (h : ∀ k, getJob s q = some k → (k.stream v).held = [] ∧ (k.stream v).drain = 0) : pumpOne s q v = none := by
  unfold pumpOne
  split
  · rfl
  · next j hj =>
    have hd : (if v = .arr then pumpDrain s q else none) = none := by
      split
      · next e =>
        subst e
        exact pumpDrain_none s q fun k hk => ⟨(h k hk).2, queueFull_nil s q k (h k hk).1⟩
      · rfl
    rw [hd, (h j hj).1]

theorem noteHold_none (s : State) (q : Part) (v : SUnit) (h : ∀ k, getJob s q = some k → (k.stream v).held = []) :
    noteHold s q v = s := by
  unfold noteHold
  split
  · rfl
  · next j hj => rw [h j hj]

theorem noteHold_all (s : State) (h : noneHeld s) :
    allStreams.foldl (fun s x => noteHold s x.1 x.2) s = s := by
  generalize allStreams = l
  induction l with
  | nil => rfl
  | cons a l ih =>
    simp only [List.foldl_cons]
    rw [noteHold_none s a.1 a.2 (h a.1 a.2)]
    exact ih

theorem findSome_only {α β : Type} (f : α → Option β) (l : List α) (a : α) (b : β) (ha : a ∈ l) (hf : f a = some b)
    (ho : ∀ x ∈ l, x ≠ a → f x = none) : l.findSome? f = some b := by
  induction l with
  | nil => simp at ha
  | cons x l ih =>
    simp only [List.findSome?_cons]
    by_cases hx : x = a
    · rw [hx, hf]
    · rw [ho x List.mem_cons_self hx]
      exact ih ((List.mem_cons.1 ha).resolve_left (Ne.symm hx)) fun y hy => ho y (List.mem_cons_of_mem _ hy)

theorem foldl_add_single {α : Type} (g : α → Nat) (l : List α) (a : α) (n : Nat) (hn : l.Nodup) (ha : a ∈ l)
    (ho : ∀ x ∈ l, x ≠ a → g x = 0) : (l.map g).foldl (· + ·) n = n + g a := by
  induction l generalizing n with
  | nil => simp at ha
  | cons x l ih =>
    obtain ⟨hx, hl⟩ := List.nodup_cons.1 hn
    simp only [List.map_cons, List.foldl_cons]
    by_cases e : x = a
    · subst e
      have hz : ∀ m : Nat, (l.map g).foldl (· + ·) m = m := by
        have : ∀ y ∈ l, g y = 0 := fun y hy => ho y (List.mem_cons_of_mem _ hy) fun e => hx (e ▸ hy)
        clear ih ho ha hn hx hl
        induction l with
        | nil => intro m; rfl
        | cons y l ih =>
          intro m
          simp only [List.map_cons, List.foldl_cons, this y List.mem_cons_self, Nat.add_zero]
          exact ih (fun z hz => this z (List.mem_cons_of_mem _ hz)) m
      exact hz _
    · rw [ih _ hl ((List.mem_cons.1 ha).resolve_left (Ne.symm e)) fun y hy => ho y (List.mem_cons_of_mem _ hy),
        ho x List.mem_cons_self e, Nat.add_zero]

theorem heldWords_queued (s : State) (p : Part) (u : SUnit) (x : SWord) (j : Job) (h : getJob s p = some j)
    (hz : heldWords s = 0) (ht : x.turns = 1) : heldWords (queued s p u x) = 1 := by
  have hn : allStreams.Nodup := by decide
  have hw : ∀ (q : Part) (v : SUnit) (k : Job), getJob s q = some k → (k.stream v).waiting = 0 :=
    fun q v k hk => (waiting_zero _).2 (heldWords_zero hz q v k hk)
  have hv : ∀ q v, (match getJob (queued s p u x) q with | some j => (j.stream v).waiting | none => 0) =
      if (q, v) = (p, u) then 1 else 0 := by
    intro q v
    rw [queued_job s p u x j h]
    by_cases hq : q = p
    · subst hq
      simp only [if_true, stream_modStream, Prod.mk.injEq, true_and]
      by_cases hu : v = u
      · subst hu; simp [Stream.waiting, heldWords_zero hz q v j h, ht]
      · simp [hu, hw q v j h]
    · simp only [Prod.mk.injEq, hq, false_and, if_false]
      split
      · next k hk => exact hw q v k hk
      · rfl
  unfold heldWords
  have := foldl_add_single (fun y : Part × SUnit => match getJob (queued s p u x) y.1 with
    | some j => (j.stream y.2).waiting | none => 0) allStreams (p, u) 0 hn (mem_allStreams p u)
    (fun y _ hy => by rw [hv]; exact if_neg hy)
  exact this.trans (by rw [Nat.zero_add]; exact (hv p u).trans (if_pos rfl))

/-- What the notes of held words may change: nothing but the streams of the jobs. -/
def noted (s : State) : State := allStreams.foldl (fun s x => noteHold s x.1 x.2) s

theorem queueFull_go (s : State) (p : Part) (j : Job) (x : SWord) (h : j.arrS.held = [x])
    (hr : wordReady s p j .arr x = .go) : queueFull s p j = false := by
  unfold queueFull
  rw [h]
  cases x with
  | arr op w => cases op <;> simp [hr]
  | _ => rfl

/-- A word that issues at once, an ADRN aside: the word is taken and issued, and nothing else runs. -/
theorem pushWord_issues (s : State) (p : Part) (u : SUnit) (x : SWord) (h : issuesNow s p u x = true) (ht : x.turns = 1) :
    ∃ j, getJob s p = some j ∧ pushWord s p u x =
      noted (takeWord (queued s p u x) p u (j.modStream u fun st => { st with held := st.held ++ [x] }) x []) := by
  unfold issuesNow at h
  split at h
  · simp at h
  · next j hj =>
    refine ⟨j, hj, ?_⟩
    have hq := queued_job s p u x j hj
    rw [hq p, if_pos rfl] at h
    simp only [Bool.and_eq_true, beq_iff_eq, Bool.not_eq_true'] at h
    obtain ⟨⟨⟨⟨⟨hs, he⟩, ha⟩, hz⟩, hk⟩, hr⟩ := h
    have hheld := (heldWords_zero hz p u j hj).1
    unfold pushWord
    rw [hj]
    simp only [hs, he, Bool.not_false, Bool.and_self, if_true]
    change pump (queued s p u x) = _
    unfold pump noted
    rw [heldWords_queued s p u x j hj hz ht]
    congr 1
    have hone : pumpOne (queued s p u x) p u =
        some (takeWord (queued s p u x) p u (j.modStream u fun st => { st with held := st.held ++ [x] }) x []) := by
      unfold pumpOne
      rw [hq p, if_pos rfl]
      have hd : (if u = .arr then pumpDrain (queued s p u x) p else none) = none := by
        split
        · next e =>
          subst e
          refine pumpDrain_none _ _ fun k hk => ?_
          rw [hq p, if_pos rfl, Option.some.injEq] at hk
          subst hk
          exact ⟨(heldWords_zero hz p .arr j hj).2, queueFull_go _ _ _ x (by simp [Job.modStream, show j.arrS.held = [] from hheld]) hr⟩
        · rfl
      simp only [hd, stream_modStream, if_true, hheld, List.nil_append, takeWords]
      rw [if_pos hr]
    simp only [pumpN]
    rw [findSome_only (fun y : Part × SUnit => pumpOne (queued s p u x) y.1 y.2) allStreams (p, u) _ (mem_allStreams p u) hone]
    intro y _ hy
    apply pumpOne_none
    intro k hk'
    rw [hq] at hk'
    by_cases e : y.1 = p
    · rw [if_pos e] at hk'
      cases hk'
      simp only [stream_modStream, if_neg (fun e2 => hy (Prod.ext e e2))]
      exact heldWords_zero hz p y.2 j hj
    · rw [if_neg e] at hk'
      exact heldWords_zero hz y.1 y.2 k hk'

/-! ### The notes change nothing but streams -/

theorem noteHold_cases (s : State) (p : Part) (u : SUnit) :
    noteHold s p u = s ∨ ∃ f, noteHold s p u = modJob s p fun j => j.modStream u f := by
  unfold noteHold
  split
  · exact Or.inl rfl
  · split
    · exact Or.inl rfl
    · dsimp only
      split
      · exact Or.inl rfl
      · exact Or.inr ⟨_, rfl⟩

theorem foldl_field {α β : Type} (g : State → β) (f : State → α → State) (h : ∀ s a, g (f s a) = g s) (l : List α)
    (s : State) : g (l.foldl f s) = g s := by
  induction l generalizing s with
  | nil => rfl
  | cons a l ih => rw [List.foldl_cons, ih, h]

/-- A read that no change of a job's streams alters is the same before and after the notes. -/
theorem noted_field {β : Type} (g : State → β)
    (h : ∀ (s : State) (p : Part) (u : SUnit) (f : Stream → Stream), g (modJob s p fun j => j.modStream u f) = g s)
    (s : State) : g (noted s) = g s := by
  unfold noted
  refine foldl_field g _ (fun s x => ?_) _ _
  rcases noteHold_cases s x.1 x.2 with e | ⟨f, e⟩
  · rw [e]
  · rw [e, h]

@[simp] theorem noted_pending (s : State) : (noted s).pending = s.pending := noted_field (fun s => s.pending) (fun _ _ _ _ => by simp) s
@[simp] theorem noted_free (s : State) : (noted s).free = s.free := noted_field (fun s => s.free) (fun _ _ _ _ => by simp) s
@[simp] theorem noted_arr (s : State) : (noted s).arr = s.arr := noted_field (fun s => s.arr) (fun _ _ _ _ => by simp) s
@[simp] theorem noted_vec (s : State) : (noted s).vec = s.vec := noted_field (fun s => s.vec) (fun _ _ _ _ => by simp) s
@[simp] theorem noted_mem (s : State) : (noted s).mem = s.mem := noted_field (fun s => s.mem) (fun _ _ _ _ => by simp) s
@[simp] theorem noted_poison (s : State) : (noted s).poison = s.poison := noted_field (fun s => s.poison) (fun _ _ _ _ => by simp) s
@[simp] theorem noted_spdErr (s : State) : (noted s).spdErr = s.spdErr := noted_field (fun s => s.spdErr) (fun _ _ _ _ => by simp) s
@[simp] theorem noted_parked (s : State) : (noted s).parked = s.parked := noted_field (fun s => s.parked) (fun _ _ _ _ => by simp) s
@[simp] theorem noted_streaks (s : State) : (noted s).streaks = s.streaks := noted_field (fun s => s.streaks) (fun _ _ _ _ => by simp) s
@[simp] theorem noted_granted (s : State) : (noted s).granted = s.granted := noted_field (fun s => s.granted) (fun _ _ _ _ => by simp) s
@[simp] theorem noted_tables (s : State) : (noted s).tables = s.tables := noted_field (fun s => s.tables) (fun _ _ _ _ => by simp) s
@[simp] theorem noted_places (s : State) : (noted s).places = s.places := noted_field (fun s => s.places) (fun _ _ _ _ => by simp) s
@[simp] theorem noted_tblOps (s : State) : (noted s).tblOps = s.tblOps := noted_field (fun s => s.tblOps) (fun _ _ _ _ => by simp) s
@[simp] theorem noted_sorts (s : State) : (noted s).sorts = s.sorts := noted_field (fun s => s.sorts) (fun _ _ _ _ => by simp) s
@[simp] theorem noted_rings (s : State) : (noted s).rings = s.rings := noted_field (fun s => s.rings) (fun _ _ _ _ => by simp) s
@[simp] theorem noted_fns (s : State) : (noted s).fns = s.fns := noted_field (fun s => s.fns) (fun _ _ _ _ => by simp) s
@[simp] theorem noted_portA (s : State) : (noted s).portA = s.portA := noted_field (fun s => s.portA) (fun _ _ _ _ => by simp) s
@[simp] theorem noted_portB (s : State) : (noted s).portB = s.portB := noted_field (fun s => s.portB) (fun _ _ _ _ => by simp) s
@[simp] theorem noted_pctl (s : State) : (noted s).pctl = s.pctl := noted_field (fun s => s.pctl) (fun _ _ _ _ => by simp) s
@[simp] theorem noted_msixTab (s : State) : (noted s).msixTab = s.msixTab := noted_field (fun s => s.msixTab) (fun _ _ _ _ => by simp) s
@[simp] theorem noted_irqs (s : State) : (noted s).irqs = s.irqs := noted_field (fun s => s.irqs) (fun _ _ _ _ => by simp) s
@[simp] theorem noted_tx (s : State) : (noted s).tx = s.tx := noted_field (fun s => s.tx) (fun _ _ _ _ => by simp) s
@[simp] theorem noted_evLog (s : State) : (noted s).evLog = s.evLog := noted_field (fun s => s.evLog) (fun _ _ _ _ => by simp) s
@[simp] theorem noted_rsp (s : State) : (noted s).rsp = s.rsp := noted_field (fun s => s.rsp) (fun _ _ _ _ => by simp) s
@[simp] theorem noted_chans (s : State) : (noted s).chans = s.chans := noted_field (fun s => s.chans) (fun _ _ _ _ => by simp) s
@[simp] theorem noted_winA (s : State) : (noted s).winA = s.winA := noted_field (fun s => s.winA) (fun _ _ _ _ => by simp) s
@[simp] theorem noted_winB (s : State) : (noted s).winB = s.winB := noted_field (fun s => s.winB) (fun _ _ _ _ => by simp) s
@[simp] theorem noted_isl (s : State) : (noted s).isl = s.isl := noted_field (fun s => s.isl) (fun _ _ _ _ => by simp) s
@[simp] theorem noted_pwr (s : State) : (noted s).pwr = s.pwr := noted_field (fun s => s.pwr) (fun _ _ _ _ => by simp) s
@[simp] theorem noted_tim (s : State) : (noted s).tim = s.tim := noted_field (fun s => s.tim) (fun _ _ _ _ => by simp) s
@[simp] theorem noted_fabr (s : State) : (noted s).fabr = s.fabr := noted_field (fun s => s.fabr) (fun _ _ _ _ => by simp) s
@[simp] theorem noted_flash (s : State) : (noted s).flash = s.flash := noted_field (fun s => s.flash) (fun _ _ _ _ => by simp) s
@[simp] theorem noted_wear (s : State) : (noted s).wear = s.wear := noted_field (fun s => s.wear) (fun _ _ _ _ => by simp) s
@[simp] theorem noted_bucket (s : State) : (noted s).bucket = s.bucket := noted_field (fun s => s.bucket) (fun _ _ _ _ => by simp) s
@[simp] theorem noted_rates (s : State) : (noted s).rates = s.rates := noted_field (fun s => s.rates) (fun _ _ _ _ => by simp) s
@[simp] theorem noted_wins (s : State) : (noted s).wins = s.wins := noted_field (fun s => s.wins) (fun _ _ _ _ => by simp) s
@[simp] theorem noted_tierLock (s : State) : (noted s).tierLock = s.tierLock := noted_field (fun s => s.tierLock) (fun _ _ _ _ => by simp) s
@[simp] theorem noted_tdir (s : State) : (noted s).tdir = s.tdir := noted_field (fun s => s.tdir) (fun _ _ _ _ => by simp) s
@[simp] theorem noted_dramStacks (s : State) : (noted s).dramStacks = s.dramStacks := noted_field (fun s => s.dramStacks) (fun _ _ _ _ => by simp) s
@[simp] theorem noted_alm (s : State) : (noted s).alm = s.alm := noted_field (fun s => s.alm) (fun _ _ _ _ => by simp) s
@[simp] theorem noted_almA (s : State) : (noted s).almA = s.almA := noted_field (fun s => s.almA) (fun _ _ _ _ => by simp) s
@[simp] theorem noted_almB (s : State) : (noted s).almB = s.almB := noted_field (fun s => s.almB) (fun _ _ _ _ => by simp) s
@[simp] theorem noted_almDst (s : State) : (noted s).almDst = s.almDst := noted_field (fun s => s.almDst) (fun _ _ _ _ => by simp) s
@[simp] theorem noted_almLen (s : State) : (noted s).almLen = s.almLen := noted_field (fun s => s.almLen) (fun _ _ _ _ => by simp) s
@[simp] theorem noted_almDone (s : State) : (noted s).almDone = s.almDone := noted_field (fun s => s.almDone) (fun _ _ _ _ => by simp) s
@[simp] theorem noted_sec (s : State) : (noted s).sec = s.sec := noted_field (fun s => s.sec) (fun _ _ _ _ => by simp) s
@[simp] theorem noted_hist (s : State) : (noted s).hist = s.hist := noted_field (fun s => s.hist) (fun _ _ _ _ => by simp) s

end Sys2Proof.Machine
end

