-- ==== Sys2Proof/Laws/Vector.lean ====
section
/-! SUPPORT. The tile registers: what writing a tile leaves at each element and elsewhere, and what a vector word that issues
at once does. -/

namespace Sys2Proof.Machine

theorem Memory.read_length (m : Memory) (a n : Nat) : (m.read a n).length = n := by
  induction n generalizing a with
  | zero => rfl
  | succ n ih => simp [Memory.read, ih]

/-- A part of a range read. -/
theorem Memory.read_part (m : Memory) (a n k l : Nat) (h : k + l ≤ n) : m.read (a + k) l = slice (m.read a n) k l := by
  obtain ⟨r, rfl⟩ : ∃ r, n = k + (l + r) := ⟨n - k - l, by omega⟩
  rw [Memory.read_add m a k (l + r), Memory.read_add m (a + k) l r, slice,
    List.drop_left' (Memory.read_length _ _ _), List.take_left' (Memory.read_length _ _ _)]

theorem slice_flatMap {α : Type} (l : List α) (h : α → List Byte) (w j : Nat) (hw : ∀ x ∈ l, (h x).length = w)
    (hj : j < l.length) : slice (l.flatMap h) (j * w) w = h l[j] := by
  induction l generalizing j with
  | nil => simp at hj
  | cons x l ih =>
    have hx := hw x List.mem_cons_self
    cases j with
    | zero => simp [slice, hx]
    | succ j =>
      have := ih j (fun y hy => hw y (List.mem_cons_of_mem _ hy)) (by simpa using hj)
      simp only [slice, List.flatMap_cons, List.getElem_cons_succ] at this ⊢
      rw [show (j + 1) * w = w + j * w by rw [Nat.add_mul]; omega, ← List.drop_drop, List.drop_left' hx]
      exact this

/-- Rows written one after another: each row reads back, and what lies outside every row is as it was. -/
theorem read_rows (m : Memory) (base off len : Nat) (f : Nat → List Byte) (hl : ∀ i, (f i).length = len) (ho : off + len ≤ 64)
    (n i : Nat) (hi : i < n) :
    ((List.range n).foldl (fun m i => m.write (base + 64 * i + off) (f i)) m).read (base + 64 * i + off) len = f i := by
  induction n with
  | zero => omega
  | succ n ih =>
    rw [List.range_succ, List.foldl_append, List.foldl_cons, List.foldl_nil]
    by_cases e : i = n
    · subst e
      have := Memory.read_write ((List.range i).foldl (fun m i => m.write (base + 64 * i + off) (f i)) m)
        (base + 64 * i + off) (f i)
      rwa [hl] at this
    · rw [Memory.read_write_outside _ _ _ _ _ (by rw [hl]; omega)]
      exact ih (by omega)

theorem get_rows_outside (m : Memory) (base off len : Nat) (f : Nat → List Byte) (hl : ∀ i, (f i).length = len)
    (ho : off + len ≤ 64) (n a : Nat) (ha : a < base ∨ base + 64 * n ≤ a) :
    ((List.range n).foldl (fun m i => m.write (base + 64 * i + off) (f i)) m).get a = m.get a := by
  induction n with
  | zero => rfl
  | succ n ih =>
    rw [List.range_succ, List.foldl_append, List.foldl_cons, List.foldl_nil,
      Memory.get_write_outside _ _ _ _ (by rw [hl]; omega)]
    exact ih (by omega)

@[simp] theorem vecReport_vec (s : State) (p : Part) (g n : Bool) (c : Counts) : (vecReport s p g n c).vec = s.vec := by
  simp only [vecReport]; split <;> simp
@[simp] theorem vecReport_mem (s : State) (p : Part) (g n : Bool) (c : Counts) : (vecReport s p g n c).mem = s.mem := by
  simp only [vecReport]; split <;> simp
@[simp] theorem vecReport_arr (s : State) (p : Part) (g n : Bool) (c : Counts) : (vecReport s p g n c).arr = s.arr := by
  simp only [vecReport]; split <;> simp
@[simp] theorem vecReport_tables (s : State) (p : Part) (g n : Bool) (c : Counts) :
    (vecReport s p g n c).tables = s.tables := by
  simp only [vecReport]; split <;> simp
@[simp] theorem vecReport_rings (s : State) (p : Part) (g n : Bool) (c : Counts) : (vecReport s p g n c).rings = s.rings := by
  simp only [vecReport]; split <;> simp
@[simp] theorem vecReport_pwr (s : State) (p : Part) (g n : Bool) (c : Counts) : (vecReport s p g n c).pwr = s.pwr := by
  simp only [vecReport]; split <;> simp

theorem tileWrite_tile (s : State) (p : Part) (w : VWord) (fmt lo n : Nat) (f : Nat → Nat → Elem) :
    (tileWrite s p w fmt lo n f).vec.tile =
      (List.range 32).foldl (fun (m : Memory) i =>
        m.write (2048 * w.td.toNat + 64 * i + lo * fmtWidth fmt)
          ((tileRow s w fmt lo n f i).flatMap fun e => bytesOf (fmtWidth fmt) e.raw)) s.vec.tile := by
  simp only [tileWrite, vecReport_vec, List.foldl_map]

theorem length_tileRow (s : State) (w : VWord) (fmt lo n : Nat) (f : Nat → Nat → Elem) (i : Nat) :
    ((tileRow s w fmt lo n f i).flatMap fun e => bytesOf (fmtWidth fmt) e.raw).length = n * fmtWidth fmt := by
  simp [tileRow, List.length_flatMap, List.map_const', Function.comp_def]

/-- The element that a tile write leaves at a place it covers. -/
theorem tileRaw_tileWrite (s : State) (p : Part) (w : VWord) (fmt lo n : Nat) (f : Nat → Nat → Elem)
    (hw : (lo + n) * fmtWidth fmt ≤ 64) (i k : Nat) (hi : i < 32) (hk : k < n) :
    tileRaw (tileWrite s p w fmt lo n f) w.td.toNat fmt i (lo + k) =
      (tileElem s w fmt f i (lo + k)).raw % 2 ^ (8 * fmtWidth fmt) := by
  have hrow := read_rows s.vec.tile (2048 * w.td.toNat) (lo * fmtWidth fmt) (n * fmtWidth fmt)
    (fun i => (tileRow s w fmt lo n f i).flatMap fun e => bytesOf (fmtWidth fmt) e.raw)
    (length_tileRow s w fmt lo n f) (by rw [← Nat.add_mul]; exact hw) 32 i hi
  unfold tileRaw Memory.readNat
  rw [tileWrite_tile]
  rw [show 2048 * w.td.toNat + 64 * i + (lo + k) * fmtWidth fmt =
      2048 * w.td.toNat + 64 * i + lo * fmtWidth fmt + k * fmtWidth fmt by rw [Nat.add_mul]; omega,
    Memory.read_part _ _ (n * fmtWidth fmt) _ _ (by rw [← Nat.succ_mul]; exact Nat.mul_le_mul_right _ hk), hrow,
    slice_flatMap _ _ _ _ (fun _ _ => length_bytesOf _ _) (by simpa [tileRow] using hk), natOf_bytesOf]
  simp [tileRow]

/-- A tile write leaves every other tile register alone. -/
theorem tile_tileWrite_outside (s : State) (p : Part) (w : VWord) (fmt lo n : Nat) (f : Nat → Nat → Elem)
    (hw : (lo + n) * fmtWidth fmt ≤ 64) (a : Nat) (ha : a < 2048 * w.td.toNat ∨ 2048 * w.td.toNat + 2048 ≤ a) :
    (tileWrite s p w fmt lo n f).vec.tile.get a = s.vec.tile.get a := by
  rw [tileWrite_tile]
  have h := get_rows_outside s.vec.tile (2048 * w.td.toNat) (lo * fmtWidth fmt) (n * fmtWidth fmt)
    (fun i => (tileRow s w fmt lo n f i).flatMap fun e => bytesOf (fmtWidth fmt) e.raw)
    (length_tileRow s w fmt lo n f) (by rw [← Nat.add_mul]; exact hw) 32 a (by omega)
  exact h

end Sys2Proof.Machine
end

