-- ==== Sys2Proof/WellFormed.lean ====
section
/-! DEFINITION. When the operands of a command have the shape that the rules give them. -/

namespace Sys2Proof

/-- A DRAM stack is one of N0 to N7 and D0 to D11 (R234). -/
def dramWf (s : BitVec 5) : Bool := decide (s.toNat < 20)

/-- An access of 4 bytes carries 32 bits (R499). -/
def accessWf (size : Byte) (v : W64) : Bool := size != 4 || decide (v.toNat < 2 ^ 32)

/-- Whether a command is well-formed. -/
def Instr.wf : Instr → Bool
  | .frameReceive _ f => f.bytes.length == 512
  | .param _ _ _ ps => ps.length == 11
  | .attestationRequest w nonce =>
    (match nonce with | some n => n.length == 48 && w.isNone | none => w.isSome)
  | .rkrevoke _ st => st.bytes.length == 64
  | .lkprog _ r => r.bytes.length == 1024
  | .dramTempReport s _ => dramWf s
  | .dramCriticalHold s => dramWf s
  | .dramCriticalTrip s => dramWf s
  | .dramTrainingDone s _ => dramWf s
  | .dieTempReport d _ => decide (d.toNat < 3)
  | .sampleRecord _ src _ => decide (src.toNat ≤ 17)
  | .unitFault _ src => decide (8 ≤ src.toNat ∧ src.toNat ≤ 14)
  | .registerWrite _ _ size v => accessWf size v
  | _ => true

end Sys2Proof
end

