-- ==== Sys2Proof/Tests/Slice0.lean ====
section
/-! SUPPORT. Small tests: one ill-formed term for each check of `Instr.wf`, fixed values of the formats, and for each
statement a state and operands that meet what it asks for. -/

open Sys2Proof Sys2Proof.Machine

namespace Sys2Proof.Tests

set_option Elab.async false

/-! ### The states that the tests start from -/

/-- What a command leaves; the state itself where it does not answer one. -/
def after (c : Instr) (s : State) : State := match exec c s with | .next t => t | _ => s

/-- The details of the events that a command raises, with their codes. -/
def raisedBy (c : Instr) (s : State) : List (Nat × List Nat) :=
  (((after c s).evLog).take ((after c s).evLog.length - s.evLog.length)).map fun e => (e.code, e.detail)

/-- A tensor of 2 by 16 Opal32 elements, one of 2 by 32 Pearl16, one of 2 by 64 Facet8 in the scratchpad, a region, and two
tensors of 128 elements. -/
def tensors : List TEntry :=
  [ { base := 0x1000, fmt := 1, rows := 2, cols := 16, pitch := 64, lrows := 2, lcols := 16 },
    { base := 0x2000, fmt := 0, rows := 2, cols := 32, pitch := 64, lrows := 2, lcols := 32 },
    { base := 0x3000, fmt := 3, rows := 2, cols := 64, pitch := 64, sbase := 0x3800, spitch := 1, bax := 64, lrows := 2, lcols := 64 },
    { shelf := true, base := 0, fmt := 0, rows := 512, cols := 512, pitch := 1024 },
    { base := 0x4000, fmt := 1, rows := 2, cols := 64, pitch := 256, lrows := 2, lcols := 64 },
    { base := 0x4800, fmt := 0, rows := 4, cols := 64, pitch := 128, lrows := 4, lcols := 64 } ]

/-- An exchange entry of a kind, with its pods, elements and other fields at their bits. -/
def xe (kind din dout npar : Nat) (rest : List (Nat × Nat)) : XEntry :=
  { bits := BitVec.ofNat 512 ((rest.map fun f => f.2 * 2 ^ f.1).foldl (· + ·)
      (kind * 2 ^ 508 + din * 2 ^ 455 + dout * 2 ^ 446 + npar * 2 ^ 374)), members := [0, 1] }

/-- RQ, RF and AG of tensor 4 over one pod, a chain that receives and one that sends, RQ and RF over two pods. -/
def exch : List XEntry :=
  [ xe 0 2 1 128 [(333, 4), (270, 5), (172, 4)], xe 1 2 1 128 [(208, 0), (312, 4), (228, 4), (504, 1)],
    xe 2 2 1 128 [(208, 1), (228, 4), (504, 1)], xe 3 1 1 32 [(193, 1), (194, 1)], xe 3 1 1 32 [(194, 1)],
    xe 0 1 2 128 [(333, 4), (270, 5), (249, 5), (172, 4)], xe 1 1 2 128 [(208, 5), (312, 4), (228, 4), (504, 1)] ]

/-- The cue points: gate (4), contribution (3), intake (5), end of step (6), lookup (1), exchange (2), plain (0). -/
def cues : List (BitVec 128) :=
  [4, 3, 5, 6, 1, 2, 0].map fun t => BitVec.ofNat 128 (t * 2 ^ 28 + 1)

/-- A plan of two modules of which this one is the first. -/
def plan : Plan :=
  { tensors := tensors, exch := exch, cues := cues, modules := [0, 1], nmod := 2, lsmax := 4, lsmin := -4, lsw := 2, look := 1
    slotsz := 128, descs := [0], lookups := [BitVec.ofNat 256 (5 * 2 ^ 132 + 4 * 2 ^ 150)]
    groups := [{ group := 0, buckets := [4, 4], squall := 4 }] }

/-- A job in step 5. -/
def job : Job := { plan := plan, phase := .running, step := 5, lastSeal := some 4, testOk := true, started := true }

/-- Table 5: 16 rows of 8 Opal32 elements in T1, all on this module. -/
def table : Table := { desc := { lbase := t1Base + 0x1000, mbase := t1Base, rowm1 := 15, dimq := 1, pfmt := 1, tid := 5, opt := 1 }, map := [0] }

/-- A command in progress on ring 1. -/
def cmd (opc : Nat) : Cmd := { fn := 0, ring := 1, idx := 0, tag := 7, opc := opc }

/-- A submission ring, its completion ring, an event ring and a DMA ring. -/
def rings : Tab Ring :=
  [ (1, { enable := true, kind := 0, size := 6, link := 2, base := 0x10000, dbaddr := 0x800 }),
    (2, { enable := true, kind := 1, size := 6, base := 0x20000, modc := 1, modt := 10, dbaddr := 0x808 }),
    (3, { enable := true, kind := 2, size := 6, base := 0x30000, modc := 1, modt := 10, emask := 0xFF, dbaddr := 0x810 }),
    (4, { enable := true, kind := 3, size := 6, link := 5, base := 0x40000, dbaddr := 0x818 }) ]

/-- An active module: its domains on, its links at full width, one function with four rings, one running job. -/
def world : State :=
  { State.reset with
    jobs := [(0, job)]
    tables := [(5, table)]
    rings := rings
    fns := [(0, { pv := true })]
    pctl := [0, 255, 255, 255]
    chans := [(5, { use := 0, bound := some 4 }), (6, { use := 1, plan := true }), (7, { use := 2, plan := true }), (8, { use := 0 })]
    portA := { up := true, width := 16, rate := 6, retryStatus := false }
    pwr := { mst := .active, pd := List.replicate 64 .on, fwOk := true }
    wins := [(0, (t1Base, 64)), (1, (t2Base, 64)), (2, (t3Base, 64))]
    tdir := [t1Base + 0x40000000, 0, 0, 0]
    flash := { ready := true }
    fabr := { State.reset.fabr with links := List.replicate 24 { st := .full, lanes := 0xFF, once := true }, fixed := true, roll := 1 } }

/-- The same with another job. -/
def withJob (f : Job → Job) : State := modJob world 0 f

/-- The same with one command in progress on ring 1. -/
def withCmd (opc : Nat) (s : State) : State := putRing s 1 { getRing s 1 with prog := [cmd opc], slots := 1, dev := 1, host := 1 }

/-! ### Well-formed commands -/

theorem test_wf_frame : Instr.wf (.frameReceive 0 ⟨(List.replicate 511 0), true⟩) = false
    ∧ Instr.wf (.frameReceive 0 ⟨(List.replicate 512 0), true⟩) = true := by decide +kernel
theorem test_wf_param : Instr.wf (.param {} 0 0 (List.replicate 10 0)) = false := by decide
theorem test_wf_nonce_size : Instr.wf (.attestationRequest none (some (List.replicate 47 0))) = false := by decide
theorem test_wf_nonce_fn : Instr.wf (.attestationRequest (some 0) (some (List.replicate 48 0))) = false := by decide
theorem test_wf_nonce_missing : Instr.wf (.attestationRequest none none) = false := by decide
theorem test_wf_revoke : Instr.wf (.rkrevoke {} { bytes := List.replicate 63 0 }) = false := by decide
theorem test_wf_record : Instr.wf (.lkprog {} { bytes := List.replicate 1023 0 }) = false := by decide +kernel
theorem test_wf_dram : [Instr.dramTempReport 20 0, .dramCriticalHold 20, .dramCriticalTrip 20, .dramTrainingDone 20 true].all (!·.wf) = true := by decide
theorem test_wf_die : Instr.wf (.dieTempReport 3 0) = false := by decide
theorem test_wf_sample : Instr.wf (.sampleRecord 0 18 {}) = false := by decide
theorem test_wf_unit_fault : (Instr.wf (.unitFault 0 7) || Instr.wf (.unitFault 0 15)) = false := by decide
theorem test_wf_access : Instr.wf (.registerWrite none 0 4 0x100000000) = false := by decide

/-! ### The number formats -/

/-- R12: 1.5 is exponent 63, fraction 0x80; the smallest subnormal is 2^-70; R15: 1.5 and -2. -/
theorem test_formats : ofPearl 0x3F80 = .fin 384 (-8) ∧ ofPearl 1 = .fin 1 (-70) ∧ ofPearl 0x7F00 = .inf false ∧ ofPearl 0xFF01 = .nan
    ∧ ofOpal 0x3FC00000 = .fin 12582912 (-23) ∧ ofOpal 0xC0000000 = .fin (-8388608) (-22) ∧ ofOpal 0x80000000 = .fin 0 (-149) := by decide
/-- R24: a tie rounds away from zero; R26: beyond the largest finite value an infinity. -/
theorem test_ties_away : (toPearlR .away (.fin false (.dy 513 (-9)))).1 = 0x3F01 ∧ (toPearlR .away (.fin true (.dy 1 64))).1 = 0xFF00
    ∧ (toPearlR .away (.fin true (.dy 1 (-71)))).1 = 0x8001 ∧ (toPearlR .away (.fin true (.dy 1 (-72)))).1 = 0 := by decide +kernel
/-- R32: 1.0 and 100.0 in chosen-shift mode: the largest takes the shift 0. -/
theorem test_facet : (facetChosen [(.fin 1 0, .away), (.fin 100 0, .away)]).1 = 0 ∧
    (facetChosen [(.fin 1 0, .away), (.fin 100 0, .away)]).2.1 = [1, 100] := by decide +kernel
theorem wit_FormatValues : (∃ v : BitVec 16, 1 ≤ (v.extractLsb' 8 7).toNat ∧ (v.extractLsb' 8 7).toNat ≤ 126) ∧
    (∃ v : BitVec 16, (v.extractLsb' 8 7).toNat = 127 ∧ (v.extractLsb' 0 8).toNat ≠ 0) ∧
    (∃ v : W32, (v.extractLsb' 23 8).toNat = 254) ∧ ∃ v : W32, (v.extractLsb' 23 8).toNat = 255 ∧ (v.extractLsb' 0 23).toNat ≠ 0 :=
  ⟨⟨0x7E00, by decide⟩, ⟨0x7F01, by decide⟩, ⟨0x7F000000, by decide⟩, ⟨0x7F800001, by decide⟩⟩
theorem wit_BeadValues : (0x7F : Byte) ≠ 0x80 ∧ ((0x08 : Byte).extractLsb' 3 4).toNat = 1 ∧ ((0x01 : Byte).extractLsb' 3 4).toNat = 0 := by decide
theorem wit_RoundingKeepsValues : (ofOpal 0x7F7FFFFF).isFinite = true ∧ (ofPearl 1).isFinite = true := by decide

/-! ### Streams -/

theorem wit_StepRunsFront : heldWords world = 0 ∧ dom world 62 = .on ∧ world.pwr.mst = .active ∧ world.tim.slew = 0
    ∧ world.tim.now + 5 < 2 ^ 64 ∧ world.isl.live.cycCore + 7 < 2 ^ 64 ∧ (idle world).tim.now = 5 := by decide +kernel

/-! ### The vector engine -/

/-- The vector instructions and the commands of their words. -/
def vecOps : List VOp :=
  [.vadd, .vsub, .vmul, .vfma, .vdiv, .vmax, .vmin, .vabs, .vneg, .vscl, .vsqrt, .vbc, .vtr, .vgth, .vsel, .vmov, .vrsq, .vexp2, .vlog2,
   .vact, .vactd, .vnrm, .vnrmb, .vsmx, .vsmxb, .vcvt, .vdq, .vrnd, .vqnt, .vdrp, .vmsk, .vmcmp, .vmlog, .rsum, .rmax, .rmin, .rssq, .rdot,
   .vbce, .vmse, .vld, .vst, .vnop]

/-- Every vector word issues at once in the running job. -/
theorem wit_vector_words : (vecOps.all fun op => issuesNow world 0 .vec (.vec op { td := 4, tc := 5, df := 1, sf := 1, ent := 0 })) = true := by
  decide +kernel
theorem wit_vector_masked : (vecOps.all fun op =>
    issuesNow world 0 .vec (.vec op { td := 31, flg := 0xFF, msk := 7, ci := 15, df := 0, sf := 0, ent := 1 })) = true := by decide +kernel
theorem wit_VectorLoadStore : calm world ∧ world.arr.defq = [] ∧ world.parked = [] := by
  refine ⟨⟨fun d h1 h2 => ?_, by decide⟩, by decide, by decide⟩
  interval_cases d <;> decide +kernel

/-- One Opal32 element of a tile register. -/
def lit (s : State) (t i j : Nat) (v : W32) : State :=
  { s with vec := { s.vec with tile := s.vec.tile.writeNat (2048 * t + 64 * i + 4 * j) 4 v.toNat } }

/-- Tile 1 holds 1.5 and tile 2 holds -2 at (3, 5). -/
def tiles : State := lit (lit world 1 3 5 0x3FC00000) 2 3 5 0xC0000000

def vw : VWord := { td := 4, ta := 1, tb := 2, tc := 1, df := 1, sf := 1 }

theorem test_vadd : (tileElem tiles vw 1 (fun i j => rounded tiles 0 vw i j ((taNum tiles vw i j).add (tbNum tiles vw (colOff vw) i j)).toRes) 3 5).raw
    = 0xBF000000 := by decide +kernel
theorem test_vfma : (tileElem tiles vw 1 (fun i j => rounded tiles 0 vw i j
    (((taNum tiles vw i j).mul (tbNum tiles vw 0 i j)).add (tcNum tiles vw i j)).toRes) 3 5).raw = 0xBFC00000 := by decide +kernel
theorem test_vdiv : (tileElem tiles vw 1 (fun i j => rounded tiles 0 vw i j ((taNum tiles vw i j).div (tbNum tiles vw 0 i j))) 3 5).raw
    = 0xBF400000 := by decide +kernel
/-- R101: the square root of a negative value is NaN; 0 divided by 0 is NaN. -/
theorem test_vsqrt_negative : (rounded tiles 0 vw 3 5 (tbNum tiles vw 0 3 5).sqrt).raw = 0x7FC00000
    ∧ (rounded tiles 0 vw 0 0 ((taNum tiles vw 0 0).div (tbNum tiles vw 0 0 0))).raw = 0x7FC00000 := by decide +kernel
/-- R93: an element whose mask bit is 0 becomes +0 under ZM. -/
theorem test_masked_zero : (tileElem tiles { vw with flg := 0xC0 } 1 (fun _ _ => moved 7) 3 5).raw = 0 := by decide +kernel
theorem test_vmsk : maskBit (after (.vmsk 0 { td := 2, imm := 0x0083 }) world) 2 2 1 = true
    ∧ maskBit (after (.vmsk 0 { td := 2, imm := 0x0083 }) world) 2 2 2 = false := by decide +kernel

/-! ### The matrix array -/

/-- A product of tensor 1, 2 rows by 32 groups' lanes, on region 3. -/
def aw : AWord := { src := 1, dst := 0, cnt := 2, gst := 0, gct := 1, til := 1, aux := 3 }

/-- Every array word issues at once in the running job. -/
theorem wit_array_words : ([AOp.anop, .awld, .asld, .amm, .ammt, .atwin, .aacc, .admp, .aldmp, .aque, .adrn, .aclr, .amode].all fun op =>
    issuesNow world 0 .arr (.arr op aw)) = true ∧
    issuesNow world 0 .arr (.arr .amov { aw with flg := 0 }) = true ∧ issuesNow world 0 .arr (.arr .amov { aw with flg := 0x80 }) = true := by
  decide +kernel

/-- An array word issued as a deferred one: the lead word AQUE stands in force. -/
def led : State := withJob fun j => { j with arrS := { j.arrS with lead := .que } }

/-- The queue holds one entry. -/
def deferred : State := { led with arr := { led.arr with defq := [{ part := 0, w := aw }] } }

theorem wit_ArrayProducts : (led.arr.colr || markSet { world with arr := { world.arr with tvalid := [(0, 3)] } } 0 3) = true
    ∧ markSet world 0 aw.aux.toNat = false ∧ world.arr.colr = false ∧ aaccDeferred world (leadOf world 0) = false := by decide +kernel
theorem wit_ArrayQueue : issuesNow led 0 .arr (.arr .aacc aw) = true ∧ aaccDeferred led (leadOf led 0) = true ∧ led.arr.defq.length < 256
    ∧ issuesNow deferred 0 .arr (.arr .adrn aw) = true ∧ heldWords deferred = 0 ∧ drainReady deferred = .go ∧ deferred.parked = []
    ∧ (after (.aacc 0 aw) led).arr.defq.length = 1 ∧ (after .deferredEntryDrain deferred).arr.defq = [] := by decide +kernel
theorem wit_ArrayLoads : (entry world 0 3).cols % 512 = 0 ∧ (entry world 0 3).rows % 512 = 0 ∧ (entry world 0 3).fmt < 4
    ∧ issuesNow world 0 .arr (.arr .awld aw) = true ∧ aw.cnt.toNat ≤ 4096 := by decide +kernel
theorem wit_ArrayDumps : (tens world 0 0).cols * fmtWidth (tens world 0 0).fmt ≤ (tens world 0 0).pitch
    ∧ issuesNow world 0 .arr (.arr .admp { aw with dst := 1, flg := 0xA4 }) = true
    ∧ AWord.fmt { aw with dst := 1, flg := 0xA4 } = (tens world 0 1).fmt ∧ AWord.fmt { aw with flg := 0xC0 } = (tens world 0 0).fmt
    ∧ AWord.fmt { aw with dst := 2, flg := 0x20 } = 3 ∧ AWord.cont { aw with dst := 2, flg := 0x20 } = true ∧ fmtWidth (tens world 0 0).fmt = 4 ∧ fmtWidth (tens world 0 1).fmt = 2
    ∧ issuesNow world 0 .arr (.arr .admp { aw with dst := 2, flg := 0x20 }) = true := by decide +kernel
/-- R72: an AMMT on a region without a valid mark reports itself. -/
theorem test_ammt_unmarked : (getJob (after (.ammt 0 { aw with cnt := 1 }) world) 0).map (·.rep.bits &&& (vNonfin ||| srcArray))
    = some (vNonfin ||| srcArray) := by decide +kernel
/-- An accumulator of 1.5 stored as Opal32 and read back. -/
theorem test_admp : (after (.admp 0 { src := 0, dst := 0, cnt := 1, til := 1, flg := 0xC0 })
    { world with arr := { world.arr with acc := world.arr.acc.writeNat 0 4 0x3FC00000 } }).mem.readNat 0x1000 4 = 0x3FC00000 := by decide +kernel
theorem test_aclr : accGet (after (.aclr 0 { dst := 5, cnt := 1, til := 1 }) { world with arr := { world.arr with acc := world.arr.acc.writeNat 20 4 0x3FC00000 } }) 5
    = 0 := by decide +kernel
theorem test_amode : (after (.amode 0 { flg := 0x20 }) world).arr.colr = true := by decide +kernel
theorem wit_InstructionsComplete : (after (.arrayInstructionComplete 0) (after (.aclr 0 { dst := 5, cnt := 1, til := 1 }) world)).arr.flying = []
    ∧ (after (.aclr 0 { dst := 5, cnt := 1, til := 1 }) world).arr.flying.length = 1 ∧ heldWords (after (.aclr 0 { dst := 5, cnt := 1, til := 1 }) world) = 0
    ∧ (after (.aclr 0 { dst := 5, cnt := 1, til := 1 }) world).pwr.gates = [] ∧ (after (.vadd 0 {}) world).vec.flying.length = 1 := by decide +kernel

/-! ### Control words, power words, lookup phases, exchange entries -/

theorem wit_SequencerWords : (getJob world 0).isSome = true ∧
    ([SUnit.seq, .arr, .vec].all fun u => issuesNow world 0 u (.sat 100) && issuesNow world 0 u (.scue 0) && issuesNow world 0 u (.sarr 6)
      && issuesNow world 0 u .send) = true := by decide +kernel
theorem test_sat : (getJob (after (.sat 0 .arr 100) world) 0).map (fun k => (k.arrS.earliest, k.arrS.index, k.vecS.index)) = some (100, 1, 0) := by
  decide +kernel
theorem test_scue : (getJob (after (.scue 0 .vec 0) world) 0).map (fun k => (k.arrived, k.vecS.wait, k.vecS.gated)) = some ([(0, 2)], some 0, true) := by
  decide +kernel
theorem test_sarr : (getJob (after (.sarr 0 .vec 6) world) 0).map (fun k => (k.arrived, k.vecS.wait, k.vecS.gated)) = some ([(6, 2)], none, false) := by
  decide +kernel
theorem test_send : (getJob (after (.send 0 .seq) world) 0).map (fun k => (k.seqS.ended, k.arrS.ended)) = some (true, false) := by decide +kernel

/-- Domain 36 as a wake leaves it before it has ended. -/
def waking : State := { world with pwr := { world.pwr with pd := setNth world.pwr.pd 36 .waking } }

/-- The plan has requested domain 36 off. -/
def named36 : W64 := 0x1000000000

theorem wit_SequencerWords_power : world.pwr.pd.length = 64 ∧ issuesNow world 0 .seq (.pwake named36) = true
    ∧ issuesNow world 0 .seq (.pgateOff named36) = true ∧ issuesNow world 0 .seq (.pgateRetain named36) = true
    ∧ effReq (after (.pgateOff 0 named36) world) 36 = some .off ∧ inUse world 36 = false
    ∧ waking.pwr.mst = .active ∧ dom waking 36 = .waking ∧ heldWords waking = 0
    ∧ issuesNow world 0 .seq (.dmaq 0 6) = true ∧ (getChan world 6).part = 0 ∧ (getChan world 6).use = 1 := by decide +kernel
/-- A gate of a domain that the array uses waits. -/
theorem wit_SequencerWords_waits :
    let s := after (.amm 0 { src := 1, cnt := 1, til := 1, gct := 1, aux := 3 }) world
    inUse s 0 = true ∧ issuesNow s 0 .seq (.pgateOff 1) = true ∧ effReq (after (.pgateOff 0 1) s) 0 = some .off
      ∧ tabFind (after (.pgateOff 0 1) s).pwr.gates 0 = some .off ∧ dom (after (.pgateOff 0 1) s) 0 = .on := by decide +kernel
theorem test_pgate_off : dom (after (.pgateOff 0 named36) world) 36 = .off ∧ dom (after (.pgateOff 0 named36) world) 37 = .on := by decide +kernel
theorem test_pgate_retain : dom (after (.pgateRetain 0 named36) world) 36 = .retain := by decide +kernel
theorem test_pwake : dom (after (.pwake 0 named36) (after (.pgateOff 0 named36) world)) 36 = .waking
    ∧ dom (after (.domainWakeComplete 36) waking) 36 = .on := by decide +kernel
theorem test_dmaq : (getChan (after (.dmaq 0 0 6) world) 6).prog.map (·.pdesc) = [some 0] := by decide +kernel

/-- A run of group 0 whose squall round has come, with its gradients. -/
def lookupRun : LkpRun :=
  { group := 0, idxIn := [{ src := 1, round := 1, left := 0, ents := [] }], gradIn := [{ src := 1, round := 1, body := [] }] }

theorem wit_LookupPhases : ([0, 1, 2, 3, 4].all fun ph => issuesNow world 0 .seq (.lkg 0 ph)) = true
    ∧ 5 ∈ groupTids plan 0 ∧ trainTid plan 0 5 = true ∧ (getTbl world 0 5).isSome = true
    ∧ gradsIn (runOf job 0) = true
    ∧ gradsIn lookupRun = true ∧ squallIn world 0 { job with runs := [lookupRun] } 0 = true := by decide +kernel
theorem test_lkg_index : (getJob (after (.lkgIndexExchange 0 0) world) 0).map (fun k => (k.runs.map (·.started), k.seqS.index)) = some ([[0]], 1) := by
  decide +kernel
theorem test_lkg_updates : ((getTbl (after (.lkgRowUpdates 0 0) world) 0 5).map (·.par.next.isSome)) = some true := by decide +kernel

theorem wit_ExchangeStarts : ([0, 1, 2, 3, 4].all fun e => issuesNow world 0 .seq (.xch e) && !xStarted job e.toNat) = true
    ∧ [0, 1, 2, 3, 4].map (entryKind world 0) = [0, 1, 2, 3, 3] ∧ ((xent plan 0).chunk 0).2 ≠ 0
    ∧ (xent plan 3).recv = true ∧ (xent plan 4).recv = false := by decide +kernel
theorem test_xch_rq : (getJob (after (.xchRq 0 0) world) 0).map (fun k => k.dense.map fun d => (d.kind, d.src, d.first, d.units)) = some [(kFirst, 0, 0, 1)] := by
  decide +kernel
theorem test_xch_rf : (getJob (after (.xchRf 0 1) world) 0).map (fun k => (tabFind k.rfPar 1).isSome) = some true := by decide +kernel
theorem test_xch_ag : (getJob (after (.xchAg 0 2) world) 0).map (fun k => xStarted k 2) = some true := by decide +kernel
theorem test_xch_ch : (getJob (after (.xchCh 0 4) world) 0).map (fun k => (xrunOf k 4).any (·.done)) = some true
    ∧ (getJob (after (.xchCh 0 3) world) 0).map (fun k => (xrunOf k 3).any (·.done)) = some false := by decide +kernel

/-! ### The training step -/

/-- The sequencer's stream waits at the contribution point and has passed the gate. -/
def arrivedJob : Job := { job with arrived := [(0, 0), (1, 0)], seqS := { wait := some 1, index := 3 }, token := some { step := 5, veto := 1 } }
def arrived : State := { world with jobs := [(0, arrivedJob)] }

/-- The token result that has come for a contributing module. -/
def resultJob : Job := { job with contributed := true, tokRes := some { step := 5, chka := 1 } }
def result : State := { world with jobs := [(0, resultJob)] }

/-- Module 1 of the two. -/
def childJob : Job := { job with plan := { plan with lidx := 1 }, sealSent := true }
def child : State := { world with jobs := [(0, childJob)] }

theorem wit_CueAndToken : cueReady arrived 0 arrivedJob 1 = true ∧ cueReady arrived 0 arrivedJob 0 = true ∧ heldWords arrived = 0
    ∧ arrivedJob.phase ≠ .testing ∧ cueType (nth 0 plan.cues 1) = 3 ∧ cueType (nth 0 plan.cues 0) = 4 ∧ arrivedJob.contributed = false
    ∧ (5 = nextStep world 0) ∧ (4 ≠ nextStep world 0) ∧ job.tokTree.fresh plan 1 = true
    ∧ childJob.plan.lidx ≠ 0 ∧ 0 = parentOf childJob.plan ∧ childJob.tokRes = none ∧ childJob.token = none ∧ nextStep child 0 = 5
    ∧ resultJob.tokRes.isSome = true ∧ resultJob.token = none := by decide +kernel
theorem test_cue_contributes : (getJob (after (.cuePointFire 0 1) arrived) 0).map (fun k => (k.contributed, k.fired, k.seqS.wait))
    = some (true, [1], none) := by decide +kernel
theorem test_cue_gate : (getJob (after (.cuePointFire 0 0) arrived) 0).map (fun k => (k.gate, k.vetoed)) = some (true, true) := by decide +kernel
theorem test_token_up : (getJob (after (.tokenTreeMessage 0 1 false { step := 5, veto := 2 }) world) 0).map (fun k => k.tokAcc.map (·.veto))
    = some (some 2) := by decide +kernel
theorem test_token_down : (getJob (after (.tokenTreeMessage 0 0 true { step := 5 }) child) 0).map (fun k => k.tokRes.isSome) = some true := by
  decide +kernel
/-- R254: a result whose check words differ sets INCONS. -/
theorem test_token_complete : (getJob (after (.vetoTokenComplete 0) result) 0).map (fun k => (k.tokRes.isNone, k.token.map (·.veto)))
    = some (true, some vIncons) ∧ raisedBy (.vetoTokenComplete 0) result = [(evStepIncons, [5])] := by decide +kernel

/-- A running job whose token has come and whose update work has ended. -/
def doneJob : Job := { job with token := some { step := 5 }, contributed := true, arrived := [(3, 0)], gate := true }
def doneWork : State := { world with jobs := [(0, doneJob)] }

/-- The seal wave's result has come. -/
def waveJob : Job := { doneJob with sealSent := true, waveIn := true, plan := { plan with lsmode := 1 }, accepted := [5, 6] }
def wave : State := { world with jobs := [(0, waveJob)] }

theorem wit_Seals : doneJob.phase = .running ∧ doneJob.sealSent = false ∧ doneJob.token.isSome = true ∧ updatesDone doneWork 0 doneJob = true
    ∧ doneJob.twin.paired = false ∧ doneJob.sealTree.fresh plan 1 = true ∧ 5 = nextStep doneWork 0
    ∧ childJob.plan.lidx ≠ 0 ∧ childJob.phase = .running ∧ childJob.sealSent = true ∧ childJob.waveIn = false ∧ childJob.step + 1 = 6
    ∧ waveJob.phase = .running ∧ waveJob.waveIn = true ∧ dom wave 43 ≠ .off ∧ wave.rings ≠ [] := by decide +kernel
theorem wit_Seals_single : updatesDone { world with jobs := [(0, { doneJob with plan := { plan with nmod := 1 } })] } 0
    { doneJob with plan := { plan with nmod := 1 } } = true := by decide +kernel
theorem test_seal_contribution : (getJob (after (.sealContribution 0) doneWork) 0).map (fun k => (k.sealSent, k.sealTree.own, k.waveIn))
    = some (true, true, false) := by decide +kernel
theorem test_seal_tree : (getJob (after (.sealTreeMessage 0 1 5 true) doneWork) 0).map (fun k => (k.sealTree.kids, k.sealTree.hold)) = some ([1], true) := by
  decide +kernel
theorem test_beacon : (getJob (after (.stepBeacon 0 6 true (some 9)) child) 0).map (fun k => (k.waveIn, k.waveHold, k.beacon)) = some (true, true, some 9) := by
  decide +kernel
theorem test_seal : (getJob (after (.sealReached 0) wave) 0).map (fun k => (k.lastSeal, k.phase, k.growth, k.accepted)) = some (some 5, .sealed, 1, [6]) := by
  decide +kernel
theorem test_seal_record : (after (.sealReached 0) wave).mem.readNat (tokBase + 0x4800 + 5 * 64) 8 = 5
    ∧ raisedBy (.sealReached 0) wave = [(evStepSeal, [5])] := by decide +kernel

/-- The next step's beacon has come, its start time is over. -/
def sealedJob : Job := { job with phase := .sealed, lastSeal := some 5, beacon := some 0, repNext := { bits := 4 } }
def sealedState : State := { world with jobs := [(0, sealedJob)] }
def heldJob : Job := { job with phase := .held, readyOwn := true, beacon := some 0, cmds := { resume := some (cmd 0x13) } }

theorem wit_Steps : startReady sealedState sealedJob = true ∧ startReady { world with jobs := [(0, heldJob)] } heldJob = true
    ∧ job.startTree.fresh plan 1 = true ∧ job.resTree.fresh plan 1 = true
    ∧ growthDue { job with growth := 2, plan := { plan with lsmode := 1 } } = true := by decide +kernel
theorem test_step_start : (getJob (after (.stepStart 0) sealedState) 0).map (fun k => (k.phase, k.step, k.rep.bits, k.repNext.bits)) = some (.running, 6, 4, 0) := by
  decide +kernel
theorem test_start_readiness : (getJob (after (.startReadiness 0 1) world) 0).map (·.startTree.kids) = some [1]
    ∧ (getJob (after (.resumeReadiness 0 1) world) 0).map (·.resTree.kids) = some [1] := by decide +kernel
theorem test_abandon : (getJob (after (.stepAbandon 0) (withJob fun j => { j with withdrawn := true })) 0).map (fun k => (k.abandoned, k.contributed, k.hold, k.completing))
    = some (true, true, true, false) := by decide +kernel
theorem test_abandon_late : (getJob (after (.stepAbandon 0) (withJob fun j => { j with withdrawn := true, contributed := true })) 0).map (fun k => (k.abandoned, k.hold, k.completing))
    = some (false, true, true) := by decide +kernel
theorem test_unit_fault : (getJob (after (.unitFault 0 8) world) 0).map (fun k => (k.withdrawn, k.rep.bits &&& 0x100)) = some (true, 0x100) := by decide +kernel
theorem test_growth : (getJob (after (.lossScaleGrowth 0) (withJob fun j => { j with growth := 2, ls := 4, plan := { plan with lsmode := 1 } })) 0).map (fun k => (k.ls, k.growth))
    = some (4, 0) := by decide +kernel

/-- A first load whose self-test has ended. -/
def testJob (d : Nat) : Job :=
  { job with phase := .testing, plan := { plan with digest := d }, seqS := { ended := true }, arrS := { ended := true }, vecS := { ended := true }
             lastSeal := none, loadCmd := some (cmd 0x10) }
theorem wit_Steps_loading : (testJob 0).loading = true ∧ job.loading = false
    ∧ (after (.startReadiness 0 1) { world with jobs := [(0, testJob 0)] }).early = [(0, 1)] := by decide +kernel
theorem wit_Steps_selftest : selfDigest { world with jobs := [(0, testJob 0)] } 0 (testJob 0) = 0 ∧ selfDigest { world with jobs := [(0, testJob 1)] } 0 (testJob 1) ≠ 1
    ∧ (testJob 0).phase = .testing ∧ (testJob 0).prev = none ∧ (testJob 0).resuming = false := by decide +kernel
theorem test_selftest : ((getJob (after (.selftestComplete 0) { world with jobs := [(0, testJob 0)] }) 0).map fun k => (k.phase, k.readyOwn)) = some (.ready, true)
    ∧ getJob (after (.selftestComplete 0) { world with jobs := [(0, testJob 1)] }) 0 = none
    ∧ (raisedBy (.selftestComplete 0) { world with jobs := [(0, testJob 1)] }).map (·.1) = [evPlanSelftest] := by decide +kernel

/-! ### Feature batches and the embedding lookup -/

/-- A batch of step 6 with one empty feature section. -/
def batchBytes (step : Nat) : List Byte :=
  bytesOf 8 step ++ bytesOf 4 0 ++ bytesOf 4 1 ++ List.replicate 32 0 ++ bytesOf 8 64 ++ List.replicate 72 0

/-- An intake of step 6 under way. -/
def intakeJob : Job := { job with intakes := [{ cmd := cmd 0x01, step := 6, len := 128, chan := 7 }] }
def intake : State := modJob (withCmd 0x01 world) 0 fun _ => intakeJob

/-- A batch of step 5 accepted, its list being sorted. -/
def sortingJob : Job := { job with accepted := [5] }
def sorting : State :=
  { world with jobs := [(0, sortingJob)], sortOrder := [(0, 5)], sorts := [(0, { part := 0, step := 5, group := 0, tid := 5 })] }

theorem wit_Batches : cmdStarts (withCmd 0x01 world) (cmd 0x01) 0x01 = true ∧ cmdRight (withCmd 0x01 world) (cmd 0x01) = true
    ∧ window world 0 job = (5, 6) ∧ (getChan world 7).use = 2 ∧ 128 ≤ plan.slotsz
    ∧ intakeJob.intakes.find? (fun i => i.step == 6) = intakeJob.intakes.head?
    ∧ batchBad (listRd (batchBytes 6)) 128 6 plan = false ∧ batchBad (listRd (batchBytes 7)) 128 6 plan = true
    ∧ slotBase plan 6 + 128 ≤ t0End ∧ ((List.range 128).all fun x => !shadowed world (slotBase plan 6 + x)) = true
    ∧ tabFind world.sorts 0 = none ∧ nextList { sorting with sorts := [] } 0 = some (0, 5, 0, 5) ∧ (tabFind sorting.sorts 0).isSome = true ∧ 5 ∈ sortingJob.accepted := by
  decide +kernel
theorem test_batch : (getJob (after (.batch (cmd 0x01) 0 128 6 7) (withCmd 0x01 world)) 0).map (fun k => k.intakes.map (·.step)) = some [6]
    ∧ raisedBy (.batch (cmd 0x01) 0 128 4 7) (withCmd 0x01 world) = [(evBatchLate, [4])] := by decide +kernel
theorem test_batch_done : (getJob (after (.batchDmaComplete 0 6 0 (batchBytes 6)) intake) 0).map (fun k => (k.accepted, k.intakes.length)) = some ([6], 0)
    ∧ (after (.batchDmaComplete 0 6 0 (batchBytes 6)) intake).sortOrder = [(0, 6)]
    ∧ raisedBy (.batchDmaComplete 0 6 0 (batchBytes 7)) intake = [(evBatchReject, [6])] := by decide +kernel
theorem test_batch_lands : (after (.batchDmaComplete 0 6 0 (batchBytes 6)) intake).mem.readNat (slotBase plan 6) 8 = 6
    ∧ ((after (.batchDmaComplete 0 6 0 (batchBytes 6)) intake).tx.map fun x => x.bytes.length) = [64] := by decide +kernel
theorem test_sort_start : (tabFind (after (.sortStart 0 0 5 0 5) { sorting with sorts := [] }).sorts 0).map (fun w => (w.tid, w.waiting)) = some (5, false) := by
  decide +kernel
theorem test_sort_complete : (getJob (after (.sortComplete 0) sorting) 0).map (fun k => k.sorted.map (·.tid)) = some [5]
    ∧ (after (.sortComplete 0) sorting).sorts = [] := by decide +kernel
theorem test_sorted_once : sortedOnce [3, 1, 3, 2, 1] = [1, 2, 3] := by decide

/-- A record of table 5 with a payload of one byte value. -/
def record (row : Nat) (b : Byte) : List Byte := fixCrc (bytesOf 16 (row + 5 * 2 ^ 40) ++ List.replicate 32 b ++ List.replicate 16 0)

/-- Rows 3 and 4 of table 5 stand in T1; a message of module 1 asks for row 3. -/
def asking : IdxMsg := { src := 1, round := 0, left := 0, ents := [(5, 3)] }
def askedJob : Job := { job with runs := [{ group := 0, started := [1], idxIn := [asking] }] }
def asked : State :=
  { world with jobs := [(0, askedJob)], mem := (world.mem.write (t1Base + 0x1000 + 3 * 64) (record 3 7)).write (t1Base + 0x1000 + 4 * 64) (record 4 9) }

/-- A run that waits for one payload and has fifty entries left over. -/
def waitingRun : LkpRun := { group := 0, started := [1], split := [{ tid := 5, row := 3, dst := 1, round := 0 }] }
def spilled : State :=
  withJob fun j => { j with runs := [{ group := 0, idxIn := [{ src := 1, round := 1, left := 50, ents := [] }] }] }

theorem wit_LookupMessages : epochOk job 0 = true ∧ epochOk job 1 = false ∧ (idxBytes 5 3).length = 8 ∧ nextStep world 0 = 5
    ∧ laterStep world 0 5 = false ∧ laterStep world 0 6 = true ∧ laterStep world 0 4 = false
    ∧ ((runOf askedJob 0).idxIn.find? fun m => m.src == 1 && m.round == 0) = some asking ∧ tabFind asking.pay 0 = none
    ∧ homeAddr table plan.lidx 3 = t1Base + 0x10C0 ∧ tierOf (homeAddr table plan.lidx 3) = some 1 ∧ waitsRepair asked 0 table 3 = false
    ∧ (recRead asked table (homeAddr table plan.lidx 3) 3).isSome = true
    ∧ memOpen asked 0 (homeAddr table plan.lidx 3) 64 false = true ∧ memOpen { asked with rates := [] } 0 (homeAddr table plan.lidx 3) 64 false = false
    ∧ (answered waitingRun 1 0).length = 1 ∧ total (payLens world 0 [5]) = 32
    ∧ (do let j ← getJob spilled 0; some (squallIn spilled 0 j 0 && spillMore (runOf j 0) 1 && tabGet 0 (runOf j 0).pulled 1 == 0)) = some true
    ∧ paysIn { waitingRun with split := [] } = true ∧ paysIn waitingRun = false
    ∧ dropAt (backEnts world 0 plan 0 asking) [] = [(5, 3)] ∧ roundUp (total (gradLens world 0 plan [(5, 3)])) 8 = 16 := by decide +kernel

/-- An index message of module 1 in the running step. -/
def idxMsg : RMsg := { src := 1, n := 1, step := 5, body := idxBytes 5 3 }

theorem test_index_message : (getJob (after (.indexRoundMessage 0 idxMsg) world) 0).map (fun k => (runOf k 0).idxIn.map (·.ents)) = some [[(5, 3)]] := by
  decide +kernel
theorem test_index_stale : raisedBy (.indexRoundMessage 0 { idxMsg with epoch := 1 }) world = [(evXchStale, [1, 0])]
    ∧ raisedBy (.indexRoundMessage 0 { idxMsg with n := 2 }) world = [(evXchFormat, [1, 0])] := by decide +kernel
theorem test_owner_fetch : (getJob (after (.ownerFetch 0 0 1 0 0) asked) 0).map (fun k => (runOf k 0).idxIn.map fun x => tabFind x.pay 0)
    = some [some (List.replicate 32 7)] ∧ (getTbl (after (.ownerFetch 0 0 1 0 0) asked) 0 5).map (·.pinned 3) = some true := by decide +kernel
theorem test_payload : (getJob (after (.payloadRoundMessage 0 { src := 1, n := 1, step := 5, body := List.replicate 32 1 })
    (withJob fun j => { j with runs := [waitingRun] })) 0).map (fun k => (runOf k 0).payIn.map (·.src)) = some [1] := by decide +kernel
theorem test_spill_round : (getJob (after (.spillRound 0 0 1) spilled) 0).map (fun k => tabGet 0 (runOf k 0).pulled 1) = some 1
    ∧ raisedBy (.spillRound 0 0 1) spilled = [(evLkpSpill, [0, 1])] := by decide +kernel
theorem test_spill_index : (getJob (after (.spillRoundMessage 0 .index { idxMsg with round := 2 }) world) 0).map (fun k => (runOf k 0).idxIn.length) = some 1 := by
  decide +kernel
theorem test_pooling : (getJob (after (.poolingStart 0 0) (withJob fun j => { j with runs := [{ group := 0, started := [1] }] })) 0).map (fun k => (runOf k 0).pooled)
    = some true := by decide +kernel
theorem test_gradient_message : (getJob (after (.gradientRoundMessage 0 { src := 1, n := 1, step := 5, body := List.replicate 16 0 }) asked) 0).map
    (fun k => (runOf k 0).gradIn.map (·.src)) = some [1] := by decide +kernel

/-- Row 3 of table 5 is due for its update, pinned at its record. -/
def dueJob : Job :=
  { job with gate := true, runs := [{ group := 0, todo := [(5, 3)], grads := [((5, 3), List.replicate 8 0x3F800000)] }] }
def due : State :=
  { asked with jobs := [(0, dueJob)], tables := [(5, { table with pins := [{ row := 3, addr := t1Base + 0x10C0, frz := false }] })] }

theorem wit_RowUpdate : dueJob.gate = true ∧ (5, 3) ∈ (runOf dueJob 0).todo ∧ dueJob.unread 5 3 = false
    ∧ ((runOf dueJob 0).grads.find? fun x => x.1 == (5, 3)).isSome = true ∧ ((getTbl due 0 5).bind fun v => v.pins.find? fun q => q.row == 3).isSome = true
    ∧ tierOf (t1Base + 0x10C0) = some 1 ∧ (recRead due table (t1Base + 0x10C0) 3).isSome = true ∧ exportAhead table 3 (record 3 7) = none
    ∧ recRead due table (t1Base + 0x1100) 3 = none ∧ unwalked table 3 = false
    ∧ allOpen due 0 (pinSpan due 0 5 3) = true ∧ allOpen { due with rates := [] } 0 (pinSpan { due with rates := [] } 0 5 3) = false
    ∧ t1Base + 0x10C0 + 64 ≤ dirSlot due 0 5 ∧ ((List.range 64).all fun i => !shadowed due (t1Base + 0x10C0 + i)) = true := by decide +kernel
/-- R171, OPT 0x01: with a learning rate of 0 the weights stay, and the record's check holds. -/
theorem test_row_update : (getJob (after (.rowUpdate 0 0 5 3) due) 0).map (fun k => (runOf k 0).todo) = some []
    ∧ (recRead (after (.rowUpdate 0 0 5 3) due) table (t1Base + 0x10C0) 3).isSome = true := by decide +kernel

/-! ### Row tiers, flash, temperatures -/

/-- Table 6, tiered: 16 rows of 8 Opal32 elements, homes in T3, slots and directory in T1. -/
def tiered : Table :=
  { desc := { lbase := t3Base, mbase := t1Base, rowm1 := 15, dimq := 1, pfmt := 1, tid := 6, tier := 2, opt := 1 }, map := [0]
    place := some { pbase := t1Base + 0x100000, dbase := t1Base + 0x200000, rbase := t1Base + 0x300000, flo := 10, fhi := 255, dsh := 50, tid := 6 } }

/-- A record of table 6. -/
def tieredRecord (row : Nat) (b : Byte) (dirty : Bool) : List Byte :=
  fixCrc (bytesOf 16 (row + 6 * 2 ^ 40 + b2n dirty * 2 ^ 88) ++ List.replicate 32 b ++ List.replicate 16 0)

/-- Row 3 is resident in pool slot 3; its home record stands in T3; row 5 is being promoted into slot 5. -/
def tiers (dirty : Bool) : State :=
  let t := { tiered with usedPool := [3, 5], promoting := [(5, 5)] }
  let s := { world with tables := [(6, t)], wear := { c := 100 } }
  let m := ((s.mem.write (slotAddr t 3) (tieredRecord 3 7 dirty)).write (t3Base + 3 * 64) (tieredRecord 3 1 false)).write (t3Base + 5 * 64) (tieredRecord 5 2 false)
  dirInsert (dirInsert { s with mem := m } t 3 (deMake 1 false 0 (dirTag 3) 3)) t 5 (deMake 2 false 0 (dirTag 5) 5)

/-- The hint of row 3 for step 6 waits. -/
def hinted : State := modJob (tiers false) 0 fun j => { j with hints := [{ tid := 6, row := 3, step := 6 }] }

theorem wit_Forecast : epochOk job 0 = true ∧ (6 + 65536 - nextStep world 0 % 65536) % 65536 < 32768 ∧ job.hints.length + 1 ≤ 1048576
    ∧ hinted.pwr.mst = .active ∧ (getJob hinted 0).map (fun j => (sortBy (·.step) j.hints).head?) = some (some { tid := 6, row := 3, step := 6 })
    ∧ ((getTbl hinted 0 6).bind fun v => (dirFind hinted v 3).map fun iv => deState iv.2) = some 1
    ∧ ((getTbl hinted 0 6).bind fun v => (dirFind hinted v 5).map fun iv => deState iv.2) = some 2
    ∧ t0End ≤ dirAddr tiered.pl 3 0 ∧ waitsFor job 6 5 = [] ∧ (tiers false).flash.bad = []
    ∧ tierOf (homeAddr tiered 0 5) = some 3 ∧ tierOf (slotAddr tiered 5) = some 1
    ∧ ((getTbl (tiers false) 0 6).bind fun v => v.promoting.find? fun y => y.1 == 5) = some (5, 5)
    ∧ memOpen (tiers false) 0 (homeAddr tiered 0 5) 64 false = true ∧ memOpen (tiers false) 0 (slotAddr tiered 5) 64 true = true
    ∧ ((getTbl (tiers false) 0 6).bind fun v => (dirFind (tiers false) v 5).map fun iv => deSlot iv.2) = some 5
    ∧ (recRead (tiers false) tiered (homeAddr tiered 0 5) 5).isSome = true ∧ recRead (tiers false) tiered (homeAddr tiered 0 7) 5 = none := by
  decide +kernel
theorem test_hint_message : (getJob (after (.forecastHintMessage 0 { src := 1, n := 1, step := 6, body := idxBytes 6 3 }) (tiers false)) 0).map (·.hints)
    = some [{ tid := 6, row := 3, step := 6 }] := by decide +kernel
theorem test_hint_service : ((getTbl (tiers false) 0 6).bind fun v => (dirFind (after (.hintService 0) hinted) v 3).map fun iv => (deFv iv.2, deStep iv.2))
    = some (true, 6) := by decide +kernel
theorem test_promotion : (getTbl (after (.promotionReadComplete 0 6 5) (tiers false)) 0 6).map (·.promoting) = some []
    ∧ hRow ((after (.promotionReadComplete 0 6 5) (tiers false)).mem.read (slotAddr tiered 5) 16) = 5 := by decide +kernel

theorem wit_TierEngines : (getTbl (tiers false) 0 6).map (fun v => (belowHigh v 3, belowHigh v 4, v.desc.tid)) = some (true, false, 6)
    ∧ permuting (tiers false) 0 6 = false
    ∧ ((getTbl (tiers false) 0 6).map fun v => (evictable (tiers false) 0 v (residents (tiers false) v 3)).map (·.1)) = some [3]
    ∧ (getTbl (tiers true) 0 6).map (fun v => decide (3 ∈ dirtyRows (tiers true) v)) = some true ∧ routineOk (tiers true) = true
    ∧ (tiers true).flash.ready = true ∧ tiered.pl.dsh = 50 ∧ ({ tiered with place := none } : Table).pl.dsh = 0
    ∧ urgentRow (tiers true) ((getTbl (tiers true) 0 6).getD {}) 3 = false
    ∧ allOpen (tiers true) 0 (writebackSpans (tiers true) 0 ((getTbl (tiers true) 0 6).getD {}) 3) = true
    ∧ allOpen (tiers true) 0 (warmSpans (tiers true) 0 6) = true := by decide +kernel
theorem test_evict : (getTbl (after (.drizzleEvict 0 6 3) (tiers false)) 0 6).map (·.usedPool) = some [5] := by decide +kernel
theorem test_writeback : (getTbl (after (.writeback 0 6 3) (tiers true)) 0 6).map (fun v => v.wbs.map fun w => (w.rows, w.pages, w.urgent)) = some [([3], [0], false)]
    ∧ (getTbl (after (.drizzleEvict 0 6 3) (tiers true)) 0 6).map (·.wbs.length) = some 1 := by decide +kernel
theorem test_warm : (getTbl (after (.drizzleWarmPromote 0 6 3) (tiers false)) 0 6).map (fun v => nth 9 v.warm 3) = some 0 := by decide +kernel

/-- A durable writeback, a sweep and a merge are due; no job stands. -/
def background : State :=
  { tiers false with jobs := [], tables := [(6, { tiered with
      wbs := [{ rows := [3], pages := [0], bytes := [(0, [9])], urgent := false }], sweeps := [{ seg := 2, shifts := [1, 1] }],
      merge := some { a := 0, b := 2, area := t3Base + 0x1000000, rows := [0, 1] } })] }

theorem wit_TierEngines_background : (getTbl background 0 6).map (fun v => (v.wbs.length, v.evicting, v.flushes.length, v.shifts 2, v.merge.isSome))
    = some (1, [], 0, [1, 1], true) ∧ getJob background 0 = none ∧ allOpen background 0 (durableSpans background 0 6) = true
    ∧ allOpen background 0 (sweepSpans background 0 6 2) = true ∧ allOpen background 0 (mergeSpans background 0 6) = true := by decide +kernel
theorem test_durable : (after (.writebackDurable 0 6) background).mem.read t3Base 1 = [9] ∧ (after (.writebackDurable 0 6) background).wear.c = 99
    ∧ (getTbl (after (.writebackDurable 0 6) background) 0 6).map (·.wbs.length) = some 0 := by decide +kernel
theorem test_sweep : (getTbl (after (.decaySweep 0 6 2) background) 0 6).map (fun v => v.shifts 2) = some [1] := by decide +kernel
theorem test_merge : (getTbl (after (.rangeMerge 0 6) (after (.writebackDurable 0 6) background)) 0 6).map (fun v => v.merge.map (·.rows.length)) ≠ some (some 2) := by decide +kernel

/-- A flash with all but 63 bands used, a block erased 300 times, one page mapped. -/
def fullFlash : State :=
  { world with flash := { used := List.range 32687, erases := [(0, 300)], map := [(0, 5)], ready := true, ckA := some { seq := 1, upTo := 0, map := [(0, 5)] } } }

theorem wit_FlashEngines : eraseSpread fullFlash.flash = 300 ∧ pickBand { world.flash with used := [3] } (bandErases { world.flash with used := [3] }) = some 3
    ∧ 64 ≤ erasedBands world.flash ∧ eraseSpread world.flash ≤ 256 ∧ 7 ∉ world.flash.retired ∧ world.flash.ckSeq % 2 = 0
    ∧ fullFlash.flash.ckA.isSome = true ∧ world.flash.ready = true ∧ fullFlash.flash.ready = true ∧ programsOpen world = true
    ∧ ckDue world.flash = false ∧ ckDue { world.flash with ckHour := true } = true
    ∧ newerCkpt { world.flash with ckA := some { seq := 1, upTo := 0, map := [] }, ckB := some { seq := 2, upTo := 7, map := [] } }
        = some { seq := 2, upTo := 7, map := [] }
    ∧ newerCkpt world.flash = none ∧ world.flash.ckA = none ∧ world.flash.ckB = none ∧ dom world 62 = .on := by decide +kernel
theorem test_wear_level : (after .wearLevelMove { world with flash := { used := [3], erases := [(0, 300)], ready := true } }).flash.used = []
    ∧ eraseOf (after .wearLevelMove { world with flash := { used := [3], erases := [(0, 300)], ready := true } }).flash 96 = 1 := by decide +kernel
theorem test_collect_idle : (after .garbageCollection { world with flash := { used := [3], ready := true } }).flash.used = [3] := by decide +kernel
theorem test_block_failure : (after (.blockFailure 7) { world with flash := { map := [(0, 7)], used := [0], openB := [(0, 9)], ready := true } }).flash.retired = [7]
    ∧ (after (.blockFailure 7) { world with flash := { map := [(0, 7)], used := [0], openB := [(0, 9)], ready := true } }).wear.c = -1 := by decide +kernel
/-- An hour has passed since the last checkpoint; and a flash that has come up with page 1 programmed after its copy B. -/
def ckHour : State := { world with flash := { world.flash with ckHour := true, map := [(0, 7)], seq := 4 } }
def unmounted : State :=
  { world with flash := { ckB := some { seq := 2, upTo := 4, map := [(0, 7)] }, oob := [(7, { lp := 0, seq := 3 }), (9, { lp := 1, seq := 5 })] } }

theorem test_checkpoint : (after .mapCheckpoint ckHour).flash.ckA = some { seq := 1, upTo := 4, map := [(0, 7)] }
    ∧ (after .mapCheckpoint (after .mapCheckpoint ckHour)).flash.ckB = none
    ∧ (after .t3Mount unmounted).flash.map = [(0, 7), (1, 9)] ∧ (after .t3Mount unmounted).flash.ready = true := by decide +kernel
theorem test_rebuild : (after .ftlRebuild { unmounted with flash := { unmounted.flash with ckB := none } }).flash.map = [(0, 7), (1, 9)]
    ∧ (raisedBy .ftlRebuild { unmounted with flash := { unmounted.flash with ckB := none } }).map (·.1) = [evFtlRebuild]
    ∧ raisedBy .ftlRebuild fullFlash = [] := by decide +kernel
theorem test_hourly : (after .hourlyTick world).alm.hours = 1 ∧ (after .hourlyTick world).almA.isSome = true ∧ (after .hourlyTick world).almB = none := by
  decide +kernel

theorem wit_Thermal : world.dramStacks.length = 28 ∧ world.pwr.mst = .active ∧ world.pwr.dieTemp.length = 3
    ∧ (getStack (after (.dramTempReport 4 105) world) 4).zone = .crit := by decide +kernel
theorem test_refill : tabGet 0 (after .regulatorRefill world).bucket 0 = Nat.min (8000000) (bucketDepth world 0 0) := by decide +kernel
theorem test_zones : (getStack (after (.dramTempReport 4 97) world) 4).zone = .hot ∧ (getStack (after (.dramTempReport 4 97) world) 4).refresh2 = true
    ∧ (getStack (after (.dramTempReport 4 105) world) 4).cap = 0 ∧ raisedBy (.dramTempReport 4 105) world = [(evMemCrit, [4])] := by decide +kernel
theorem test_dram_trip : (after (.dramTempReport 4 110) world).pwr.mst = .off ∧ (after (.dramTempReport 4 110) world).pwr.tripCause = 2 := by decide +kernel
theorem test_flash_temp : (getStack (after (.flashTempReport 3 95) world) 23).cap = 0 ∧ (getStack (after (.flashTempReport 3 90) world) 23).cap = 4 := by decide +kernel
theorem test_cap_tick : (getStack (after .dramCapTick (after (.dramTempReport 4 97) world)) 4).cap = 3 := by decide +kernel
theorem test_critical : (getJob (after (.dramCriticalHold 4) (after (.dramTempReport 4 105) world)) 0).map (·.withdrawn) = some true
    ∧ (after (.dramCriticalTrip 4) (after (.dramTempReport 4 105) world)).pwr.tripCause = 3 := by decide +kernel
theorem test_die : (after (.dieTempReport 1 115) world).pwr.tripCause = 1 ∧ raisedBy (.dieTempReport 1 100) world = [(evPwrThermWarn, [1])]
    ∧ raisedBy (.dieTempReport 1 99) world = [] := by decide +kernel

/-! ### Completions, events, table commands, DMA -/

/-- A full event ring, and one that has dropped events and has room. -/
def fullRing : State := putRing world 3 { getRing world 3 with dev := 64 }
def droppedRing : State := putRing world 3 { getRing world 3 with dropNew := 2, drop := 2 }

theorem wit_RingEntries : keepsCompletion (withCmd 0x12 world) (cmd 0x12) = false ∧ (getRing (withCmd 0x12 world) 1).kind = 0
    ∧ (getRing (withCmd 0x12 world) (getRing world 1).link).kind = 1 ∧ (getRing world 2).enable = true ∧ (getRing world 1).link ≠ 1
    ∧ cmd 0x12 ∈ (getRing (withCmd 0x12 world) 1).prog ∧ cmd 0x12 ∉ (getRing (withCmd 0x12 world) 1).old
    ∧ keepsCompletion { world with portA := { world.portA with hold := true } } (cmd 0x12) = true
    ∧ (getRing fullRing 3).full 0 = true ∧ (getRing world 3).full 0 = false ∧ (getRing droppedRing 3).dropNew ≠ 0
    ∧ Ring.full { getRing droppedRing 3 with dev := 1, dropNew := 0 } 0 = false := by decide +kernel
theorem test_completion : ((complete (withCmd 0x12 world) (cmd 0x12) stDone 4 0 0).tx.map fun x => (x.addr, x.bytes.take 9, x.bytes.length))
    = [(0x20000, [7, 0, 1, 0, 1, 0, 0, 0, 0], 64)] ∧ (getRing (complete (withCmd 0x12 world) (cmd 0x12) stDone 4 0 0) 1).prog = [] := by decide +kernel
theorem test_event : ((evPut world 3 { code := 0x1234 }).tx.map fun x => (x.addr, x.bytes.take 2, x.bytes.length)) = [(0x30000, [0x34, 0x12], 64)]
    ∧ (getRing (evPut fullRing 3 { code := 1 }) 3).drop = 1 ∧ ((evPut droppedRing 3 { code := 1 }).tx.length) = 2 := by decide +kernel

/-- The descriptor of table 9 and the placement entry of table 6. -/
def desc9 : BitVec 512 := BitVec.ofNat 512 (Desc.num { table.desc with lbase := t1Base + 0x100000, mbase := t1Base + 0x200000, tid := 9, opt := 0 })
def place6 : BitVec 512 :=
  BitVec.ofNat 512 (Place.num { pbase := t2Base + 0x100000, dbase := t1Base + 0x200000, rbase := t1Base + 0x300000, flo := 10, fhi := 20, tid := 6 })

/-- The job holds. -/
def heldState : State := withJob fun j => { j with phase := .held }

theorem wit_TableCommands : (descOf desc9).tid = 9 ∧ nth 0 world.tdir 0 ≠ 0 ∧ world.tblOps = [] ∧ defineOk world 0 (descOf desc9) = true
    ∧ runsSteps world 0 = true ∧ runsSteps heldState 0 = false ∧ (descOf desc9).tier ≠ 2 ∧ t0End ≤ dirSlot world 0 9
    ∧ defineOk world 0 table.desc = false ∧ planUses world 0 5 = true ∧ planUses world 0 9 = false ∧ getTbl world 0 9 = none
    ∧ (placeOf place6).tid = 6 ∧ placeOk (placeOf place6) = true ∧ placeIn world 0 (placeOf place6) 64 = true ∧ placeOk (placeOf 0) = false
    ∧ (getTbl world 0 5).isSome = true ∧ isRf world 0 1 = true ∧ isRf world 0 0 = false
    ∧ ([0x02, 0x03, 0x04, 0x05].all fun o => cmdStarts (withCmd o world) (cmd o) o && cmdRight (withCmd o world) (cmd o)) = true := by decide +kernel
theorem test_tdef : ((getTbl (after (.tdef (cmd 0x02) desc9) (withCmd 0x02 heldState)) 0 9).map fun t => (t.desc.tid, t.digOk)) = some (9, false)
    ∧ (after (.tdef (cmd 0x02) desc9) (withCmd 0x02 world)).tblOps.length = 1
    ∧ raisedBy (.tdef (cmd 0x02) (BitVec.ofNat 512 table.desc.num)) (withCmd 0x02 world) = [(evTblReject, [5])] := by decide +kernel
theorem test_trel : getTbl (after (.trel (cmd 0x03) 9) (withCmd 0x03 { heldState with tables := tabSet heldState.tables 9 { table with desc := { table.desc with tid := 9 } } })) 0 9 = none
    ∧ raisedBy (.trel (cmd 0x03) 5) (withCmd 0x03 heldState) = [(evTblReject, [5])] := by decide +kernel
theorem test_place : tabFind (after (.place (cmd 0x04) place6) (withCmd 0x04 heldState)).places 6 = some (placeOf place6)
    ∧ (raisedBy (.place (cmd 0x04) 0) (withCmd 0x04 heldState)).map (·.1) = [evProgError] := by decide +kernel
theorem test_param : ((getTbl (after (.param (cmd 0x05) 5 1 (List.replicate 11 2)) (withCmd 0x05 heldState)) 0 5).map fun t => (t.par.p.take 2, t.par.p1))
    = some ([2, 2], 0x3F800000) := by decide +kernel

/-- A staged range of table 5 whose commit is being checked. -/
def stagedTable : Table :=
  { table with staged := some { whole := false, a := 3, b := 4, area := t1Base + 0x1000, rows := 16, commit := some (cmd 0x07), target := 9, chk := .running } }
def stagedState (good : Bool) : State :=
  let s := withCmd 0x07 { world with tables := [(5, stagedTable)] }
  if good then { s with mem := s.mem.write (t1Base + 0x10C0) (record5 3 7) } else s
where record5 (row : Nat) (b : Byte) : List Byte := fixCrc (bytesOf 16 (row + 5 * 2 ^ 40) ++ List.replicate 32 b ++ List.replicate 16 0)

theorem wit_Generations : (stagedRows stagedTable (stagedTable.staged.getD { whole := true, a := 0, b := 0, area := 0, rows := 0 }) 0) = [3]
    ∧ table.staged = none ∧ table.desc.rows ≤ 2 ^ 40 ∧ inTier world 0 table.desc.homeTier (t1Base + 0x8000) (Nat.max 1024 64) = true
    ∧ (recRead (stagedState true) stagedTable (stagedAddr stagedTable (stagedTable.staged.getD { whole := true, a := 0, b := 0, area := 0, rows := 0 }) 0 3) 3).isSome = true
    ∧ (recRead (stagedState false) stagedTable (stagedAddr stagedTable (stagedTable.staged.getD { whole := true, a := 0, b := 0, area := 0, rows := 0 }) 0 3) 3).isSome = false
    ∧ ([0x06, 0x07].all fun o => cmdStarts (withCmd o world) (cmd o) o && cmdRight (withCmd o world) (cmd o)) = true := by decide +kernel
theorem test_stage : ((getTbl (after (.stage (cmd 0x06) 5 true 0 0 (BitVec.ofNat 64 (t1Base + 0x8000)) 0) (withCmd 0x06 world)) 0 5).bind fun t => t.staged.map fun g => (g.b, g.rows))
    = some (16, 16) ∧ (raisedBy (.stage (cmd 0x06) 5 true 0 0 1 0) (withCmd 0x06 world)).map (·.1) = [evProgError] := by decide +kernel
theorem test_commit : ((getTbl (after (.commit (cmd 0x07) 5 9) (withCmd 0x07 { world with tables := [(5, { table with staged := some { whole := true, a := 0, b := 16, area := 0, rows := 16 } })] })) 0 5).bind
    fun t => t.staged.map fun g => (g.target, g.chk)) = some (9, .running) := by decide +kernel
theorem test_staged_check : ((getTbl (after (.stagedCheckComplete 0 5) (stagedState true)) 0 5).bind fun t => t.staged.map fun g => g.chk) = some .passed
    ∧ (raisedBy (.stagedCheckComplete 0 5) (stagedState false)).map (·.1) = [evGenFail] := by decide +kernel

/-- An export of table 5 under way on channel 8, whose walk has come to row 3. -/
def exported : Export :=
  { cmd := cmd 0x08, state := false, chan := 8, c0 := 0, cc := 8, a := 0, b := 4, x := 9, shadow := 0, size := 8192, active := true,
    todo := [[], [], [], [3]], chunks := [[3]] }
def exportState (e : Export) : State :=
  let s := stagedState true
  { s with tables := [(5, { table with exp := some e })], chans := tabSet s.chans 8 { prog := [{ d := BitVec.ofNat 512 (2 ^ 63 + 4 * 2 ^ 56 + 2 ^ 50 + 0x10000), started := true }] } }

theorem wit_Exports : table.exp = none ∧ inTier world 0 1 (t1Base + 0x10000) 8192 = true ∧ (getChan world 8).use = 0 ∧ (getChan world 8).part = 0
    ∧ cmdStarts (withCmd 0x08 world) (cmd 0x08) 0x08 = true ∧ cmdRight (withCmd 0x08 world) (cmd 0x08) = true
    ∧ (expRun (exportState exported) 8).isSome = true ∧ nth [] exported.todo 3 = [3]
    ∧ (recRead (exportState exported) table (recAddr world table 0 3) 3).isSome = true ∧ recRead world table (recAddr world table 0 3) 3 = none
    ∧ cmdStarts (withCmd 0x09 world) (cmd 0x09) 0x09 = true ∧ cmdRight (withCmd 0x09 world) (cmd 0x09) = true
    ∧ (((tblsOf world 0).filter fun t => t.desc.tier == 2).map (·.desc.tid)) = [] := by decide +kernel
theorem test_export : ((getTbl (after (.exportTable (cmd 0x08) 5 false 8 0 8 0 4 9 (BitVec.ofNat 64 (t1Base + 0x10000)) 8192) (withCmd 0x08 world)) 0 5).map fun t => t.exp.map (·.cc))
    = some (some 8) ∧ (raisedBy (.exportTable (cmd 0x08) 5 false 8 0 8 0 4 4 0 8192) (withCmd 0x08 world)).map (·.1) = [evProgError] := by decide +kernel
theorem test_walk : ((getTbl (after (.exportWalkRow 0 5 3) (exportState exported)) 0 5).bind fun t => t.exp.map fun e => (e.todo, e.fail)) = some ([[], [], [], []], none) := by
  decide +kernel
theorem test_walk_fails : ((getTbl (after (.exportWalkRow 0 5 3) { exportState exported with mem := {} }) 0 5).bind fun t => t.exp.map fun e => (e.fail, e.failRow))
    = some (some stCksum, 3) := by decide +kernel
theorem test_export_complete : ((getTbl (after (.exportComplete 0 5) (exportState { exported with todo := [], chunks := [] })) 0 5).map fun t => t.exp.isNone) = some true := by
  decide +kernel
theorem test_digest_build : ((getTbl (after (.digestBuild 0 5 3) { exportState exported with tables := [(5, { table with build := some { todo := [[], [], [], [3, 4]] } })] }) 0 5).map
    fun t => t.build.map (·.todo)) = some (some [[], [], [], [4]]) := by decide +kernel
theorem test_tflush : (raisedBy (.tflush (cmd 0x09) 5) (withCmd 0x09 world)).map (·.1) = [evProgError] := by decide +kernel

/-- A descriptor by its opcode, flags in word 0, length, source, destination and pattern. -/
def dd (opc flags len src dst pattern : Nat) : BitVec 512 :=
  BitVec.ofNat 512 (2 ^ 63 + opc * 2 ^ 56 + flags + len + src * 2 ^ 64 + dst * 2 ^ 128 + pattern * 2 ^ 256)
/-- Channel 5, bound to ring 4, with one descriptor to run. -/
def chanWith (d : BitVec 512) : State := putChan world 5 { getChan world 5 with prog := [{ d := d, ring := some 4 }] }
/-- One that has ended with a status. -/
def chanEnded (d : BitVec 512) (st : Nat) (complete flushed : Bool) : State :=
  putChan world 5 { getChan world 5 with prog := [{ d := d, ring := some 4, started := true, status := some st, complete := complete, flushed := flushed }] }
/-- Ring 4 with an entry that its host has given. -/
def dmaRing : State := putRing world 4 { getRing world 4 with host := 1, grant := 1 }

def raw : Nat := 2 ^ 49
def toHost : Nat := 2 ^ 50
def fromHost : Nat := 2 ^ 51

theorem wit_Dma : (getChan world 5).bound = some 4 ∧ (getRing dmaRing 4).fill ≠ 0 ∧ (getRing dmaRing 4).kind = 3 ∧ (getRing dmaRing 4).grant ≠ 0
    ∧ (getFn world 0).det = false ∧ world.pwr.pending = none ∧ chanOpen world 5 = true
    ∧ descFail world 0 (dd 0 0 0 0 0 0) = none ∧ descFail world 0 (dd 0 0 64 0 0 0) = some (stInvalid, 0) ∧ dOpc (dd 5 0 0 0 0 0) = 5
    ∧ descFail world 0 (dd 3 0 0 0 0 0) = none ∧ descFail world 0 (dd 4 toHost 128 0 0 0) = none
    ∧ descFail world 0 (dd 2 raw 64 0 t1Base 5) = none ∧ descFail world 0 (dd 2 toHost 64 0 0x1000 5) = none
    ∧ descFail world 0 (dd 1 raw 64 t1Base (t1Base + 64) 0) = none ∧ descFail world 0 (dd 1 (raw + fromHost) 64 0x1000 t1Base 0) = none
    ∧ descFail world 0 (dd 1 (raw + toHost) 64 t1Base 0x1000 0) = none ∧ descFail world 0 (dd 1 (raw + toHost + fromHost) 64 0x2000 0x1000 0) = none
    ∧ descFail world 0 (dd 1 raw 64 t1Base (t1Base + 32) 0) = some (stAlign, 0) ∧ descFail world 0 (dd 1 raw 64 t1Base 0x7000000000000000 0) = some (stBuserr, 0)
    ∧ badOffset world t1Base 64 = none ∧ tierOf t1Base = some 1 ∧ chanPort world 5 = false := by decide +kernel
theorem test_fetch : ((getChan (after (.descriptorFetch 5 (dd 0 0 0 0 0 0)) dmaRing) 5).prog.map (·.idx)) = [0]
    ∧ (getRing (after (.descriptorFetch 5 (dd 0 0 0 0 0 0)) dmaRing) 4).dev = 1
    ∧ (raisedBy (.descriptorFetch 5 0) dmaRing).map (·.1) = [evDmaOwn] := by decide +kernel
theorem test_fetch_fail : (getRing (after (.descriptorFetchFail 5) dmaRing) 4).err = true := by decide +kernel
theorem test_dma_nop : ((getChan (after (.dmaNop 5) (chanWith (dd 0 0 0 0 0 0))) 5).prog.map (·.status)) = [some stDone]
    ∧ ((getChan (after (.dmaNop 5) (chanWith (dd 5 0 0 0 0 0))) 5).prog.map (·.status)) = [some stInvalid] := by decide +kernel
theorem test_dma_clasp : ((getChan (after (.dmaClasp 5) (chanWith (dd 3 0 0 0 0 0))) 5).prog.map (·.status)) = [some stDone]
    ∧ ((getChan (after (.dmaExpdst 5) (chanWith (dd 4 toHost 128 0 0 0))) 5).prog.map (·.started)) = [true] := by decide +kernel
theorem test_dma_fill : (after (.dmaFill 5) (chanWith (dd 2 raw 64 0 t1Base 0x0102))).mem.readNat (t1Base + 56) 2 = 0x0102
    ∧ ((getChan (after (.dmaFill 5) (chanWith (dd 2 raw 64 0 t1Base 5))) 5).prog.map (·.doneb)) = [64] := by decide +kernel
theorem test_dma_copy : (after (.dmaCopy 5 (List.replicate 64 9) none) (chanWith (dd 1 (raw + fromHost) 64 0x1000 t1Base 0))).mem.readNat (t1Base + 63) 1 = 9
    ∧ ((after (.dmaCopy 5 [] none) (chanWith (dd 1 (raw + toHost) 64 t1Base 0x1000 0))).tx.map fun x => (x.addr, x.bytes.length)) = [(0x1000, 64)] := by decide +kernel
theorem test_dma_copy_fails : ((getChan (after (.dmaCopy 5 [] none) (chanWith (dd 1 raw 64 t1Base (t1Base + 32) 0))) 5).prog.map (·.status)) = [some stAlign]
    ∧ ((getChan (after (.dmaCopy 5 [] (some 70)) (chanWith (dd 1 (raw + toHost + fromHost) 128 0x2000 0x1000 0))) 5).prog.map fun r => (r.status, r.doneb)) = [(some stBuserr, 64)] := by
  decide +kernel
theorem test_dma_complete : ((getChan (after (.dmaTransferComplete 5) (chanEnded (dd 1 raw 64 0 0 0) stAlign false false)) 5).prog.map fun r => (r.complete, r.flushed)) = [(true, true)]
    ∧ (raisedBy (.dmaTransferComplete 5) (chanEnded (dd 1 raw 64 0 0 0) stAlign false false)).map (·.1) = [evDmaAlign] := by decide +kernel
theorem test_flush : ((getChan (after (.claspFlushComplete 5 false) (chanEnded (dd 3 (2 ^ 54) 0 0 0 0) stDone true false)) 5).prog.map (·.status)) = [some stBuserr]
    ∧ (raisedBy (.claspFlushComplete 5 false) (chanEnded (dd 3 (2 ^ 54) 0 0 0 0) stDone true false)).map (·.1) = [evDmaBuserr] := by decide +kernel
theorem test_status_write : ((after (.dmaStatusWrite 5) (chanEnded (dd 0 0 0 0 0 0) stAlign true true)).tx.map fun x => (x.addr, x.bytes))
    = [(0x40000, bytesOf 8 0), (0x40038, bytesOf 8 (stAlign * 2 ^ 56))] := by decide +kernel

/-! ### Plan images -/

/-- The polynomial slots of a plan, zero but for the headers of slots 13 to 15 (R103). -/
def polySlots : List Byte :=
  List.replicate 13520 0 ++ (bytesOf 4 0x3F800000 ++ [0xFC] ++ List.replicate 1035 0) ++ (bytesOf 4 0 ++ [0xFA] ++ List.replicate 1035 0)
    ++ (bytesOf 4 0x3F800000 ++ [0xFA] ++ List.replicate 1035 0)

/-- A stream that arrives at the end of the step and ends. -/
def endWords : List (BitVec 128) := [BitVec.ofNat 128 (0xF1 * 2 ^ 120 + 2), BitVec.ofNat 128 (0xFF * 2 ^ 120)]
/-- The array's stream, whose first word sets MODE 2. -/
def arrWords : List (BitVec 128) := BitVec.ofNat 128 (0x0D * 2 ^ 120 + 0x80 * 2 ^ 112) :: endWords

/-- A plan that breaks no rule. -/
def goodPlan : Plan :=
  { poly := polySlots, cues := [4, 3, 6].map fun t => BitVec.ofNat 128 (t * 2 ^ 28 + 7), step0 := 5
    steady := { seq := endWords, arr := endWords, vec := endWords }, recov := { seq := endWords, arr := arrWords, vec := endWords } }
/-- The same with a self-test. -/
def testPlan : Plan := { goodPlan with selftest := some goodPlan.recov, sects := [1, 2, 3, 5, 9, 11, 12] }

/-- Stream words, and a stream section whose streams begin at `d`, as they stand in an image (R240). -/
def imgWords (l : List (BitVec 128)) : List Byte := l.flatMap fun w => bytesOf 16 w.toNat
def imgStreams (d : Nat) (x : Streams) : List Byte :=
  padTo 0 192 (bytesOf 8 d ++ bytesOf 8 x.seq.length ++ bytesOf 8 (d + 16 * x.seq.length) ++ bytesOf 8 x.arr.length
    ++ bytesOf 8 (d + 16 * (x.seq.length + x.arr.length)) ++ bytesOf 8 x.vec.length ++ List.replicate (d - 48) 0
    ++ imgWords (x.seq ++ x.arr ++ x.vec))

/-- Bytes written one part after another, each behind a gap of bytes 0, into a memory that lists nothing. -/
def putParts (a : Nat) : List (Nat × List Byte) → Memory
  | [] => {}
  | x :: t => (putParts (a + x.1 + x.2.length) t).write (a + x.1) x.2
def partBytes (l : List (Nat × List Byte)) : List Byte := l.flatMap fun x => List.replicate x.1 0 ++ x.2

theorem get_putParts_below (l : List (Nat × List Byte)) (a x : Nat) (h : x < a) : (putParts a l).get x = 0 := by
  induction l generalizing a with
  | nil =>
    show Memory.get {} x = 0
    by_cases hx : x < t0End <;> simp [Memory.get, cellFind, Memory.dflt, Memory.lossOf, tabFind, hx]
  | cons y t ih => rw [putParts, Memory.get_write_outside _ _ _ _ (Or.inl (by omega))]; exact ih _ (by omega)
theorem read_zeros (m : Memory) (a n : Nat) (h : ∀ x, x < a + n → m.get x = 0) : m.read a n = List.replicate n 0 := by
  induction n generalizing a with
  | zero => rfl
  | succ n ih => rw [Memory.read, h a (by omega), ih _ fun x hx => h x (by omega), List.replicate_succ]
theorem read_putParts (l : List (Nat × List Byte)) (a : Nat) : (putParts a l).read a (partBytes l).length = partBytes l := by
  induction l generalizing a with
  | nil => rfl
  | cons y t ih =>
    have h1 : (putParts a (y :: t)).read a y.1 = List.replicate y.1 0 := by
      rw [putParts, Memory.read_write_outside _ _ _ _ _ (Or.inl (by omega))]
      exact read_zeros _ _ _ fun x hx => get_putParts_below _ _ _ (by omega)
    have h2 : (putParts a (y :: t)).read (a + y.1) y.2.length = y.2 := Memory.read_write _ _ _
    have h3 : (putParts a (y :: t)).read (a + y.1 + y.2.length) (partBytes t).length = partBytes t := by
      rw [putParts, Memory.read_write_outside _ _ _ _ _ (Or.inr (by omega))]; exact ih _
    have h : (partBytes (y :: t)).length = y.1 + (y.2.length + (partBytes t).length) := by simp [partBytes]
    rw [h, Memory.read_add, Memory.read_add, h1, h2, h3]; simp [partBytes]

/-- The CRC-32C on numbers, each byte's value formed before the next. -/
def crcBitN (c : Nat) : Nat := (c >>> 1) ^^^ (0x82F63B78 * (c % 2))
def crcStepN (c b : Nat) : Nat := crcBitN (crcBitN (crcBitN (crcBitN (crcBitN (crcBitN (crcBitN (crcBitN (c ^^^ b))))))))
def crcN : List Byte → Nat → Nat
  | [], c => c
  | b :: t, 0 => crcN t (crcStepN 0 b.toNat)
  | b :: t, n + 1 => crcN t (crcStepN (n + 1) b.toNat)
theorem crcBit_toNat (c : W32) : (crc32cBit c).toNat = crcBitN c.toNat := by
  simp only [crc32cBit, crcBitN, BitVec.getLsbD]
  rcases Nat.mod_two_eq_zero_or_one c.toNat with h | h <;> simp [Nat.testBit_zero, h]
theorem crcByte_toNat (c : W32) (b : Byte) : (crc32cByte c b).toNat = crcStepN c.toNat b.toNat := by
  have h : c.toNat ^^^ b.toNat = (c ^^^ b.zeroExtend 32).toNat := by
    rw [BitVec.toNat_xor, BitVec.zeroExtend, BitVec.toNat_setWidth, Nat.mod_eq_of_lt (by omega)]
  rw [crcStepN, h]
  simp only [← crcBit_toNat]
  rfl
theorem crcN_eq (l : List Byte) (c : W32) : crcN l c.toNat = (l.foldl crc32cByte c).toNat := by
  induction l generalizing c with
  | nil => rfl
  | cons b t ih =>
    have h : crcN (b :: t) c.toNat = crcN t (crcStepN c.toNat b.toNat) := by cases c.toNat <;> rfl
    rw [h, ← crcByte_toNat, List.foldl_cons, ih]

/-- The parts of the image of `goodPlan`, or with its self-test of `testPlan`, by the tables of R239, R240 and R538; its ICRC was
computed outside the model. -/
def imgParts (test : Bool) : List (Nat × List Byte) :=
  let n := b2n test * 192
  let secs : List (Nat × Nat × Nat) := [(1, 256, 16640), (2, 16896, 0), (3, 16896, 64), (5, 16960, 48)] ++ (if test then [(9, 17024, 192)] else [])
    ++ [(11, 17024 + n, 192), (12, 17216 + n, 192)]
  [(0, bytesOf 4 0x47524E31 ++ bytesOf 2 1 ++ [0, 1]), (12, [1]), (3, [1]), (4, [1]), (4, [1]), (3, [3]), (9, [5]),
   (11, bytesOf 4 (if test then 0xB5228F74 else 0x77E3C669)),
   (0, padTo 0 192 (secs.flatMap fun x => bytesOf 8 x.1 ++ bytesOf 4 x.2.1 ++ bytesOf 4 x.2.2)),
   (13520, bytesOf 4 0x3F800000 ++ [0xFC]), (1039, [0xFA]), (1035, bytesOf 4 0x3F800000 ++ [0xFA]),
   (1051, bytesOf 8 0x07C50000 ++ bytesOf 4 64), (36, imgWords goodPlan.cues)]
  ++ (if test then [(16, imgStreams 80 goodPlan.recov)] else [])
  ++ [(if test then 0 else 16, imgStreams 64 goodPlan.steady), (0, imgStreams 64 goodPlan.recov)]
def imgLen (test : Bool) : Nat := if test then 17600 else 17408
def imgAt : Nat := t1Base + 0x100000
def img (test : Bool) : Memory := putParts imgAt (imgParts test)

/-- No job; and a job that holds after step 4; each with an image in T1. -/
def noJob : State := { world with jobs := [], mem := img false }
def holding : State := { world with jobs := [(0, { job with phase := .held })], mem := img false }

theorem wit_goodPlan : planBad noJob 0 goodPlan = false ∧ planBad noJob 0 testPlan = false ∧ planBad noJob 0 plan = true := by decide +kernel
/-- The image of `goodPlan` ends with its ICRC (R239): the bytes of each of its three runs are known, and their CRC-32C is formed on
numbers. -/
theorem icrc_img (test : Bool) : icrcGood (img test) imgAt (imgLen test) = true := by
  have hl : imgLen test = (partBytes (imgParts test)).length := by cases test <;> decide +kernel
  have h : (img test).read imgAt (60 + (4 + (imgLen test - 64))) = partBytes (imgParts test) := by
    have e : 60 + (4 + (imgLen test - 64)) = (partBytes (imgParts test)).length := by cases test <;> decide +kernel
    rw [e]; exact read_putParts _ _
  rw [Memory.read_add, Memory.read_add] at h
  have h60 : ((img test).read imgAt 60).length = 60 := Memory.length_read _ _ _
  have h4 : ((img test).read (imgAt + 60) 4).length = 4 := Memory.length_read _ _ _
  have e1 : (img test).read imgAt 60 = (partBytes (imgParts test)).take 60 := by rw [← h, List.take_left' h60]
  have e2 : (img test).read (imgAt + 60 + 4) (imgLen test - 64) = (partBytes (imgParts test)).drop 64 := by
    rw [← h, ← List.append_assoc, List.drop_left' (by simp [h60, h4])]
  have e3 : (img test).readNat (imgAt + 60) 4 = if test then 0xB5228F74 else 0x77E3C669 := by cases test <;> decide +kernel
  have e4 : crcN ((partBytes (imgParts test)).take 60 ++ [0, 0, 0, 0] ++ (partBytes (imgParts test)).drop 64) 0xFFFFFFFF
      = 0xFFFFFFFF - (if test then 0xB5228F74 else 0x77E3C669) := by cases test <;> decide +kernel
  have e5 := crcN_eq ((partBytes (imgParts test)).take 60 ++ [0, 0, 0, 0] ++ (partBytes (imgParts test)).drop 64) 0xFFFFFFFF#32
  rw [show (0xFFFFFFFF#32).toNat = 0xFFFFFFFF from rfl, e4] at e5
  rw [icrcGood, e1, show imgAt + 64 = imgAt + 60 + 4 from rfl, e2, e3, crc32c, decide_eq_true_iff, BitVec.toNat_not, ← e5]
  cases test <;> rfl

theorem wit_PlanCommands : nth 0 world.tdir 0 ≠ 0 ∧ inTier noJob 0 1 imgAt (imgLen true) = true ∧ imgAt % 4096 = 0
    ∧ (readPlan (img false) imgAt 17408 {}).magic = 0x47524E31 ∧ (readPlan (img false) imgAt 17408 {}).ver = 1
    ∧ planBad noJob 0 (readPlan (img false) imgAt 17408 {}) = false ∧ planBad noJob 0 (readPlan (img true) imgAt 17600 {}) = false
    ∧ (readPlan (img false) imgAt 17408 {}).selftest.isSome = false ∧ (readPlan (img true) imgAt 17600 {}).selftest.isSome = true
    ∧ replaces { job with phase := .held } (readPlan (img false) imgAt 17408 {}) = true
    ∧ replaces job goodPlan = false ∧ (({ job with next := some testPlan } : Job).next.getD job.plan).selftest.isSome = true
    ∧ inTier holding 0 1 (t1Base + 0x100000) 8192 = true
    ∧ ([0x10, 0x12, 0x13, 0x14].all fun o => cmdStarts (withCmd o world) (cmd o) o && cmdRight (withCmd o world) (cmd o)
        && cmdRight (withCmd o noJob) (cmd o)) = true := by decide +kernel

def planAt : W64 := BitVec.ofNat 64 imgAt

/-- PLOAD goes on to the plan's checks where the image has its form and its ICRC. -/
theorem planLoad_accepts (s : State) (m : Memory) (c : Cmd) (addr len : Nat) (fill : Plan) (hm : s.mem = m)
    (h1 : ¬ (nth 0 s.tdir (partOf s c.fn).toNat = 0 ∨ addr % 4096 ≠ 0 ∨ 2 ^ 30 < len ∨ (!inTier s (partOf s c.fn) 1 addr len) = true))
    (h2 : (readPlan m addr len fill).magic = 0x47524E31) (h3 : (readPlan m addr len fill).ver = 1)
    (h4 : (readPlan m addr len fill).icrcOk = true) :
    planLoad s c addr len fill = planAccept s c addr len (readPlan m addr len fill) := by
  subst hm
  unfold planLoad
  simp only [h1, h2, h3, h4, if_false, ne_eq, not_true_eq_false, Bool.not_true, Bool.false_eq_true]
theorem test_pload_image (test : Bool) : planLoad { withCmd 0x10 noJob with mem := img test } (cmd 0x10) imgAt (imgLen test) {}
    = planAccept { withCmd 0x10 noJob with mem := img test } (cmd 0x10) imgAt (imgLen test) (readPlan (img test) imgAt (imgLen test) {}) :=
  planLoad_accepts _ _ _ _ _ _ rfl (by cases test <;> decide +kernel) (by cases test <;> decide +kernel) (by cases test <;> decide +kernel)
    (icrc_img test)

/-- The image with its self-test: the plan waits for it. -/
theorem test_pload : (getJob (planAccept (withCmd 0x10 { noJob with mem := img true }) (cmd 0x10) imgAt 17600 (readPlan (img true) imgAt 17600 {})) 0).map
    (fun k => (k.phase, k.kind, k.loadCmd.isSome)) = some (.testing, .selftest, true) := by
  decide +kernel
theorem test_pload_ready : (getJob (planAccept (withCmd 0x10 noJob) (cmd 0x10) imgAt 17408 (readPlan (img false) imgAt 17408 {})) 0).map
    (fun k => (k.phase, k.readyOwn)) = some (.ready, true) := by
  decide +kernel
theorem test_pload_bad : (raisedBy (.pload (cmd 0x10) (planAt + 4096) 4096 {}) (withCmd 0x10 noJob)).map (·.1) = [evPlanReject]
    ∧ (raisedBy (.pload (cmd 0x10) planAt 4096 {}) (withCmd 0x10 { noJob with mem := (img false).write (imgAt + 4) [2] })).map (fun x => (x.1, x.2.take 1)) = [(evPlanReject, [4])] := by
  decide +kernel
theorem test_replacement : (getJob (planAccept (withCmd 0x10 holding) (cmd 0x10) imgAt 17408 (readPlan (img false) imgAt 17408 {})) 0).map
    (fun k => (k.phase, k.next.isSome, k.prev.isSome)) = some (.held, true, false) := by
  decide +kernel
/-! ### Holds, re-shards, aborts -/

theorem test_pause : (getJob (after (.pause (cmd 0x12)) (withCmd 0x12 world)) 0).map (·.cmds.pause) = some [cmd 0x12]
    ∧ (after (.pause (cmd 0x12)) (withCmd 0x12 holding)).tx.length = 1 := by decide +kernel
theorem test_resume : (getJob (after (.resume (cmd 0x13)) (withCmd 0x13 { world with jobs := [(0, { job with phase := .held, next := some testPlan })] })) 0).map
    (fun k => (k.phase, k.resuming, k.recLeft, k.next.isNone)) = some (.testing, true, 1, true)
    ∧ (raisedBy (.resume (cmd 0x13)) (withCmd 0x13 world)).map (·.1) = [evProgError] := by decide +kernel
theorem test_pair : (getJob (after (.pair (cmd 0x14) planAt 8192) (withCmd 0x14 holding)) 0).map (fun k => (k.twin.logSize, k.twin.paired)) = some (8192, false)
    ∧ (raisedBy (.pair (cmd 0x14) planAt 100) (withCmd 0x14 holding)).map (·.1) = [evProgError] := by decide +kernel

/-- A re-shard that waits for the seal of step 4, at which its job holds; the module is the root of two, or its child. -/
def resh : Reshard := { cmd := cmd 0x11, plan := { goodPlan with refs := [{ tid := 5, mbase := t1Base, lbase := t1Base + 0x400000 }], keys := [{ key := 7, rf := 1 }] }, target := 4, epoch := 1 }
def reshJob (me : Nat) (r : Reshard) : Job := { job with phase := .held, reshard := some r, plan := { job.plan with nmod := 2, lidx := me } }
def resharding (me : Nat) (r : Reshard) : State := { withCmd 0x11 world with jobs := [(0, reshJob me r)] }
/-- The root whose own contributions are in. -/
def asRoot (r : Reshard) : State :=
  { resharding 0 r with jobs := [(0, { reshJob 0 r with readyTree := { own := true }, commitTree := { own := true } })] }
def wrongPlan : Reshard := { resh with plan := { goodPlan with epoch := 1 } }
def ready : Reshard := { resh with checked := true, ready := some true }
def voting : Reshard := { ready with started := true, moved := true }
def reshOf (i : Instr) (s : State) : Option Reshard := (getJob (after i s) 0).bind (·.reshard)

theorem wit_Reshards : cmdStarts (withCmd 0x11 world) (cmd 0x11) 0x11 = true ∧ cmdRight (withCmd 0x11 world) (cmd 0x11) = true
    ∧ job.reshard = none ∧ inTier world 0 1 (t1Base + 0x100000) 256 = true ∧ job.epoch < 1 ∧ (4 < 9)
    ∧ resh.checked = false ∧ resh.ready = none ∧ reshardBad (resharding 0 wrongPlan) 0 (reshJob 0 wrongPlan) wrongPlan = true
    ∧ (activeReshard (reshJob 1 resh)).isSome = true ∧ parentOf (reshJob 1 resh).plan = 0 ∧ kidsOf (reshJob 0 resh).plan = [1] ∧ kidsOf (reshJob 1 resh).plan = []
    ∧ (({ own := true } : TreeSt).join (some 1) true).full (reshJob 0 resh).plan = true
    ∧ ({ own := true } : TreeSt).full (reshJob 0 resh).plan = false ∧ (({} : TreeSt).join (some 1) true).full (reshJob 0 resh).plan = false
    ∧ (voting.plan.refs.find? fun x => x.tid == 5).isSome = true ∧ voting.rowsIn = [] ∧ voting.voted = none
    ∧ t0End ≤ homeAddr (movedTable (resharding 0 voting) table { tid := 5, mbase := t1Base, lbase := t1Base + 0x400000 }) 0 3
    ∧ (keyIn voting.plan 7).isSome = true := by decide +kernel
theorem test_reshard : (getJob (after (.reshard (cmd 0x11) planAt 9 1 {}) (withCmd 0x11 world)) 0).map (fun k => k.reshard.map (·.target)) = some (some 9)
    ∧ (raisedBy (.reshard (cmd 0x11) planAt 4 1 {}) (withCmd 0x11 world)).map (·.1) = [evProgError] := by decide +kernel
theorem test_reshard_check : (reshOf (.reshardCheckComplete 0) (resharding 1 { resh with plan := { goodPlan with icrcOk := false } })).map
    (fun r => (r.checked, r.ready, r.fail)) = some (true, some false, some stCksum) := by decide +kernel
theorem test_ready_vote : (reshOf (.readyVote 0 ⟨0, true⟩) (resharding 1 ready)).map (fun r => (r.started, r.moved)) = some (true, true)
    ∧ reshOf (.readyVote 0 ⟨0, false⟩) (resharding 1 ready) = none
    ∧ (reshOf (.readyVote 0 ⟨1, true⟩) (asRoot ready)).map (·.started) = some true ∧ reshOf (.readyVote 0 ⟨1, false⟩) (asRoot ready) = none
    ∧ (getJob (after (.readyVote 0 ⟨1, true⟩) (resharding 0 resh)) 0).map (·.readyTree.kids) = some [1] := by
  decide +kernel
theorem test_move : (reshOf (.reshardMoveMessage 0 ⟨1, (.row 5 3 [1, 2])⟩) (resharding 0 voting)).map (·.rowsIn.length) = some 1
    ∧ (reshOf (.reshardMoveMessage 0 ⟨1, (.dense 7 0 0 [1, 2, 3, 4])⟩) (resharding 0 voting)).map (·.denseIn.length) = some 1
    ∧ (reshOf (.reshardMoveMessage 0 ⟨1, .ack⟩) (resharding 0 { voting with acks := 2 })).map (·.acks) = some 1
    ∧ (raisedBy (.reshardMoveMessage 0 ⟨1, .ack⟩) (resharding 0 resh)).map (·.1) = [evLnkNojob] := by decide +kernel
theorem test_commit_vote : (getJob (after (.commitVote 0 ⟨0, true⟩) (resharding 1 { voting with voted := some true })) 0).map (fun k => (k.epoch, k.reshard.isNone)) = some (1, true)
    ∧ (getJob (after (.commitVote 0 ⟨0, false⟩) (resharding 1 { voting with voted := some true })) 0).map (fun k => (k.epoch, k.reshard.isNone)) = some (0, true)
    ∧ (getJob (after (.commitVote 0 ⟨1, true⟩) (asRoot { voting with voted := some true })) 0).map (·.epoch) = some 1 := by decide +kernel

/-- An ABORT in progress on ring 1 beside a table command, and a PAUSE. -/
def aborting : State :=
  let s := withCmd 0x18 world
  { putRing s 1 { getRing s 1 with prog := [cmd 0x18, { cmd 0x02 with tag := 9 }], slots := 2 } with tblOps := [(0, .release 9 { cmd 0x02 with tag := 9 })] }

/-- Function 0 is detached. -/
def detachedState (o : Nat) : State := { withCmd o world with fns := [(0, { pv := true, det := true }), (32, { pv := true })] }

theorem wit_AbortsAndAttachment : cmdStarts aborting (cmd 0x18) 0x18 = true ∧ cmdRight aborting (cmd 0x18) = true
    ∧ abortRight (cmd 0x18) 0 = true ∧ abortRight { cmd 0x18 with fn := 1 } 0 = false
    ∧ isReshard aborting 0 { cmd 0x02 with tag := 9 } = false ∧ isPf 0 = true ∧ isPf 1 = false
    ∧ detached (detachedState 0x19) false 0 = [0] ∧ cmdStarts (detachedState 0x19) (cmd 0x19) 0x19 = true ∧ cmdRight (detachedState 0x19) (cmd 0x19) = true
    ∧ (summary (detachedState 0x19) false 0).length % 64 = 0 ∧ 64 ≤ (summary (detachedState 0x19) false 0).length := by decide +kernel
theorem test_abort_command : (after (.abortCommand (cmd 0x18) 1 9) aborting).tblOps = [] ∧ (after (.abortCommand (cmd 0x18) 1 9) aborting).tx.length = 2
    ∧ (after (.abortCommand (cmd 0x18) 1 8) aborting).tblOps.length = 1 := by decide +kernel
theorem test_abort_ring : (getRing (after (.abortRing (cmd 0x18) 3) aborting) 3).enable = false ∧ (getRing (after (.abortRing (cmd 0x18) 1) aborting) 1).enable = false := by
  decide +kernel
theorem test_abort_function : (getRing (after (.abortFunction (cmd 0x18) 0) aborting) 2).enable = false
    ∧ (raisedBy (.abortFunction (cmd 0x18) 33) aborting).map (·.1) = [evCmdRights] := by decide +kernel
theorem test_abort_job : (getJob (after (.abortJob (cmd 0x18)) aborting) 0).map (fun k => (k.withdrawn, k.cmds.abort.length)) = some (true, 1) := by decide +kernel
theorem test_attach : (getFn (after (.attach (cmd 0x19) 0 0x9000 4096) (detachedState 0x19)) 0).det = false
    ∧ (raisedBy (.attach (cmd 0x19) 0 0x9000 0) (detachedState 0x19)).map (·.1) = [evProgError] := by decide +kernel

/-- The other port's PF 32 adopts what port A has lost. -/
def adoptCmd : Cmd := { cmd 0x1A with fn := 32 }
def adopting : State := { world with
  fns := [(0, { pv := true, det := true }), (32, { pv := true })], portA := { world.portA with hold := true }, portB := world.portA
  rings := [(1, { getRing world 1 with fn := 32, prog := [adoptCmd] }), (2, { getRing world 2 with fn := 32 })] }
theorem wit_Adopt : cmdStarts adopting adoptCmd 0x1A = true ∧ cmdRight adopting adoptCmd = true ∧ detached adopting false 0 = [0]
    ∧ (summary adopting false 0).length ≤ 4096 := by decide +kernel
theorem test_adopt : (getFn (after (.adopt adoptCmd 0 0x9000 4096) adopting) 0).adopter = 32 ∧ (after (.adopt adoptCmd 0 0x9000 4096) adopting).pctl = [32, 255, 255, 255] := by
  decide +kernel

/-! ### The dense exchange's messages -/

/-- A Facet8 message of one unit: its shift, 64 codes, padding. -/
def unitBody (shift code : Byte) : List Byte := shift :: (List.replicate 64 code ++ List.replicate 7 0)
/-- The exchange entries run; unit 0 of RF 1 is summed from both pod members and its chunk released. -/
def xjob : Job :=
  { job with gate := true, chunkOrder := [(1, [0])]
             xruns := [{ entry := 0 }, { entry := 1 }, { entry := 2 }, { entry := 3 }, { entry := 6 }]
             dense := [{ entry := 1, kind := kSpine, src := 0, first := 0, units := 1, body := 0 :: List.replicate 64 2 },
                       { entry := 1, kind := kSpine, src := 1, first := 0, units := 1, body := 0 :: List.replicate 64 3 }] }
def xworld : State := { world with jobs := [(0, xjob)] }
/-- The same with the chunk released. -/
def xreleased : State := { world with jobs := [(0, { xjob with xruns := [{ entry := 0, done := true }, { entry := 1, released := [0], g := [(0, List.replicate 64 0x3F800000)] }, { entry := 2 }] })] }
/-- The same with the chunk updated. -/
def xupdated : State := { world with jobs := [(0, { xjob with xruns := [{ entry := 0, done := true }, { entry := 1, released := [0], updated := [0] }, { entry := 2 }] })] }
def hopMsg (e : XIx) (units : Nat) (body : List Byte) : DMsg := { src := 1, entry := e, first := 0, units := units, step := 5, body := body }

theorem wit_ExchangeMessages : (xent plan 0).chunk 0 = (0, 1) ∧ (1 ∈ podMembers xjob (xent plan 0)) ∧ 72 ∈ gradLens' xjob (xent plan 0) kFirst 1
    ∧ (unitBody 0 1).length = 72 ∧ denseFor xjob 0 kFirst 1 0 = none ∧ (denseFor xjob 1 kSpine 1 0).isSome = true
    ∧ voidIn { entry := 0, kind := kFirst, src := 1, first := 0, units := 1, body := unitBody 0 0x80 } (xent plan 0) = true
    ∧ (xent plan (xent plan 6).linke).shard 0 = (0, 1) ∧ (1 ∈ rankMembers xjob (xent plan 5)) ∧ 1 < (xent plan 5).dout
    ∧ denseFor xjob 6 kSpine 1 0 = none ∧ epochOk xjob 3 = false ∧ xjob.gate = true ∧ (xent plan 1).kind = 1
    ∧ chunkUnits xjob (xent plan 1) 0 = [0] ∧ spineSrcs xjob (xent plan 1) = [0, 1] ∧ flushOf xjob 1 = none := by decide +kernel
theorem test_first_hop : (getJob (after (.firstHopMessage 0 (hopMsg 0 1 (unitBody 0 1))) xworld) 0).map (fun k => k.dense.length) = some 3
    ∧ (getJob (after (.firstHopMessage 0 (hopMsg 0 1 (unitBody 0 0x80))) xworld) 0).map (fun k => k.rep.bits &&& 0xFF) = some vNonfin := by decide +kernel
theorem test_first_hop_bad : (raisedBy (.firstHopMessage 0 (hopMsg 0 2 (unitBody 0 1))) xworld).length = 1
    ∧ (raisedBy (.firstHopMessage 0 { hopMsg 0 1 (unitBody 0 1) with epoch := 3 }) xworld).length = 1 := by decide +kernel
theorem test_spine_hop : (getJob (after (.spineHopMessage 0 (hopMsg 6 1 (unitBody 0 1))) xworld) 0).map (fun k => k.dense.length) = some 3 := by decide +kernel
/-- R278, R287: the owner gradient is the sum of the members' blocks. -/
theorem test_release : (getJob (after (.releaseChunk 0 1 0) xworld) 0).map (fun k => (xrunOf k 1).map fun r => (r.released, (tabGet [] r.g 0).take 2))
    = some (some ([0], [0x40A00000, 0x40A00000])) := by decide +kernel
theorem test_chunk_update : (getJob (after (.chunkUpdate 0 1 0) xreleased) 0).map (fun k => (xrunOf k 1).map fun r => (r.updated, r.done)) = some (some ([0], true)) := by
  decide +kernel
theorem test_copy_hash : (getJob (after (.copyHash 0 2) xupdated) 0).map (fun k => (xrunOf k 2).map (·.hashSent)) = some (some true)
    ∧ after (.copyHash 0 2) xworld = xworld := by decide +kernel

/-- Two shards: this module owns unit 0, module 1 unit 1. -/
def shardMsg (units : Nat) (body : List Byte) : DMsg := { src := 1, entry := 2, first := 1, units := units, step := 5, body := body }
def copyBody : List Byte := List.replicate (64 * fmtWidth (xent plan 2).cfmt) 1
def shardJob (tries : Nat) : Job := { xjob with shards := [{ entry := 2, owner := 1, units := [(1, copyBody)], tries := tries }] }
def shardWorld (tries : Nat) : State := { world with jobs := [(0, shardJob tries)] }

theorem wit_GatherMessages : (xent plan 2).ownerPos 1 = 1 ∧ (xent plan 2).shard 1 = (1, 1) ∧ myPos xjob (xent plan 2) = 0
    ∧ (1 = shardSrc xjob (xent plan 2) 1) ∧ (shardOf xjob 2 1).digest = none ∧ copyBody.length = roundUp (1 * copyLen (xent plan 2)) 8
    ∧ ¬ (1 / (xent plan 2).din ≠ 0 / (xent plan 2).din) ∧ (shardOf (shardJob 0) 2 1).full (xent plan 2) = true
    ∧ (shardOf (shardJob 0) 2 1).digest = none ∧ (xent plan 2).shard 0 = (0, 1) ∧ 1 ∈ (xent plan 2).members
    ∧ (xent plan 3).recv = true ∧ (xent plan 3).peer = 1 ∧ (tens xworld 0 (xent plan 3).src).rows * (tens xworld 0 (xent plan 3).src).cols = 32
    ∧ ceilDiv 32 64 = 1 ∧ roundUp (4 * 32) 8 = 128 ∧ xjob.dense.any (fun d => d.entry == 3 && d.kind == kChain) = false := by decide +kernel
/-- An all-gather across the spine: two pods of one module. -/
def spineJob : Job := { xjob with plan := { plan with exch := plan.exch ++ [xe 2 1 2 128 [(208, 6), (228, 4), (504, 1)]] } }
def spineWorld : State := { world with jobs := [(0, spineJob)] }
theorem wit_GatherMessages_spine : (xent spineJob.plan 7).ownerPos 1 = 1 ∧ 1 / (xent spineJob.plan 7).din ≠ myPos spineJob (xent spineJob.plan 7) / (xent spineJob.plan 7).din
    ∧ (1 = shardSrc spineJob (xent spineJob.plan 7) 1) ∧ (xent spineJob.plan 7).memberAt 1 = 1 := by decide +kernel
theorem test_gather_spine : (getJob (after (.allgatherSpineMessage 0 { shardMsg 1 copyBody with entry := 7 }) spineWorld) 0).map (fun k => (shardOf k 7 1).units.map (·.1)) = some [1]
    ∧ (raisedBy (.allgatherSpineMessage 0 (shardMsg 1 copyBody)) xworld).length = 1 := by decide +kernel
theorem test_gather_pod : (getJob (after (.allgatherPodMessage 0 (shardMsg 1 copyBody)) xworld) 0).map (fun k => (shardOf k 2 1).units) = some [(1, copyBody)] := by
  decide +kernel
theorem test_digest : (getJob (after (.copyDigestMessage 0 (shardMsg 1 (bytesOf 16 5))) (shardWorld 0)) 0).map (fun k => ((shardOf k 2 1).tries, (shardOf k 2 1).units, k.hold))
    = some (1, [], false)
    ∧ (getJob (after (.copyDigestMessage 0 (shardMsg 1 (bytesOf 16 5))) (shardWorld 1)) 0).map (fun k => ((shardOf k 2 1).suspect, k.hold)) = some (true, true)
    ∧ (getJob (after (.copyDigestMessage 0 (shardMsg 1 (bytesOf 16 (copyHash copyBody)))) (shardWorld 0)) 0).map (fun k => (shardOf k 2 1).settled (xent plan 2)) = some true := by
  decide +kernel
theorem test_rerequest : (after (.shardRerequestMessage 0 { src := 1, entry := 2, first := 0, units := 1, step := 5 }) xworld).fabr ≠ xworld.fabr := by decide +kernel
theorem test_chain : (getJob (after (.chainHopMessage 0 { src := 1, entry := 3, units := 1, step := 5, body := List.replicate 128 0x3F }) xworld) 0).map
    (fun k => (xrunOf k 3).map (·.done)) = some (some true) := by decide +kernel
/-- One expert with a replica here and one on module 1, tokens dealt in turn, capacity 64. -/
def expertJob : Job := { job with plan := { plan with experts := [{ experts := [{ first := 0, replicas := 2, cap := 64 }], slots := [(0, 0), (1, 0)] }] } }
def expertWorld : State := { world with jobs := [(0, expertJob)] }
def tok (k pos : Nat) : ExpTok := { k := k, sample := 1, pos := pos, data := [BitVec.ofNat 8 k, 7] }
/-- Two blocks of 64 keys over a ring of two modules; of the row, block 0 attends one key, block 1 two. -/
def seqBlock (j : Nat) (sc : List (Option W32)) : SeqBlock :=
  { group := [0, 1], n := 128, kb := 64, j := j, fmt := 1, df := 1, values := List.replicate 64 [0x40000000], rows := [{ row := 70, scores := sc }] }
/-- A polynomial of slot 14 with 2^0 = 1; and the partial of block 1 already there. -/
def seqWorld : State := { world with vec := { world.vec with poly := world.vec.poly.write (1040 * 14 + 16) (bytesOf 4 0x3F800000) } }
def seqKept : State := { seqWorld with jobs := [(0, { job with parts := [{ seq := 0, row := 70, blk := 1, val := some (0x3F800000, 0x3F800000, [0x40400000]) }] })] }

theorem wit_GatherMessages_tokens : epochOk job 0 = true ∧ epochOk job 3 = false ∧ laterStep world 0 6 = true ∧ nextStep world 0 = 5
    ∧ slotModule (nth {} expertJob.plan.experts 0) (dealSlot (nth {} expertJob.plan.experts 0) (tok 2 0)) = expertJob.plan.lidx
    ∧ blockFits 0 0 (seqBlock 0 []) = true ∧ blockFits 0 1 (seqBlock 1 []) = true ∧ blockFits 0 1 (seqBlock 0 []) = false
    ∧ attended (seqBlock 0 []) 70 = 2 ∧ (1 < attended (seqBlock 1 []) 70) := by decide +kernel
/-- R318, R319: the tokens of one's own router are dealt in turn; a replica packs its tokens in canonical order. -/
theorem test_expert : (getJob (after (.expertTokenMessage 0 ⟨{ src := 0, step := 5 }, [tok 2 9, tok 0 3, tok 1 5]⟩) expertWorld) 0).map
      (fun k => (k.expertIn.map fun x => (x.2.1, x.2.2.k), (tabGet [] k.expertLay 0).take 3)) = some ([(0, 0), (0, 2)], [[0, 7], [2, 7], [0, 0]])
    ∧ (getJob (after (.expertTokenMessage 0 ⟨{ src := 1, step := 5, left := 65537 }, [tok 2 9]⟩) expertWorld) 0).map (fun k => (k.expertIn.length, k.rep.bits &&& 0xFF))
      = some (1, vSpill)
    ∧ (raisedBy (.expertTokenMessage 0 ⟨{ src := 1, step := 5 }, [tok 1 9]⟩) expertWorld).length = 1 := by decide +kernel
/-- R321: one unmasked key of score 1 gives m = 1, z = 1, o = the value 2. -/
theorem test_sequence : (getJob (after (.sequenceBlockMessage 0 ⟨{ src := 0, step := 5, body := [1] }, (seqBlock 0 [some 0x3F800000, none])⟩) seqWorld) 0).map
      (fun k => k.parts.map (·.val)) = some [some (0x3F800000, 0x3F800000, [0x40000000])] := by decide +kernel
theorem test_sequence_row : (getJob (after (.sequenceBlockMessage 0 ⟨{ src := 0, step := 5, body := [1] }, (seqBlock 0 [some 0x3F800000, none])⟩) seqKept) 0).map
      (fun k => (k.parts.length, tabGet [] k.seqOut 70)) = some (0, [0x40200000]) := by decide +kernel
theorem test_sequence_bad : (raisedBy (.sequenceBlockMessage 0 ⟨{ src := 1, step := 4 }, (seqBlock 1 [])⟩) world).length = 1
    ∧ after (.sequenceBlockMessage 0 ⟨{ src := 1, step := 6 }, (seqBlock 1 [])⟩) world = world := by decide +kernel

/-! ### The redundant pair -/

/-- A pair after its own twin message of step 5. -/
def pairJob (d : Nat) : Job :=
  { job with token := some { step := 5 }, twin := { paired := true, own := some (5, d, false, false), logBase := t1Base + 0x2000000, logSize := 4096 } }
def pair (d : Nat) : State := { world with jobs := [(0, pairJob d)] }
/-- A pair that repairs. -/
def repairJob (w : Twin → Twin) : Job :=
  { job with phase := .held, twin := w { paired := true, mismatch := true, fabOwn := some true, fabTwin := some false, logBase := t1Base + 0x2000000, logSize := 4096 } }
def repair (w : Twin → Twin) : State := { world with jobs := [(0, repairJob w)] }
/-- A job that forms a pair at its resume. -/
def pairingJob : Job := { job with phase := .held, twin := { cmd := some (cmd 0x14), own := some (4, 7, false, false) } }
def rowCopy (r v : Nat) : List Byte := List.replicate 32 (BitVec.ofNat 8 v) ++ bytesOf 32 (r + v)

theorem wit_Twins : ((pairJob 7).twin.paired = true) ∧ (5 = nextStep (pair 7) 0) ∧ (pairJob 7).twin.msg = none ∧ (pairJob 7).sealSent = false
    ∧ pairingJob.twin.paired = false ∧ pairingJob.twin.own = some (4, 7, false, false)
    ∧ repairing (repairJob id) = true ∧ (repairJob id).twin.fabOwn.isSome = true ∧ (repairJob fun w => { w with fabOwn := none }).twin.fabOwn = none
    ∧ bisHash (repair id) 0 .rows { tid := 5, s := 3, hash := 1 } ≠ 1 ∧ (repairSource (repair id) (repairJob id)).1 = true
    ∧ (repairSource (repair fun w => { w with fabOwn := some false, fabTwin := some true }) (repairJob fun w => { w with fabOwn := some false, fabTwin := some true })).1 = false
    ∧ 64 + roundUp (rowBytes (repair id) 0 table 3).length 64 + roundUp 64 64 ≤ 4096 ∧ t0End ≤ recAddr (repair id) table 0 3
    ∧ t0End ≤ dirSlot (repair id) 0 5 ∧ recAddr (repair id) table 0 3 + 64 ≤ t1Base + 0x2000000 ∧ recAddr (repair id) table 0 3 + 64 ≤ dirSlot (repair id) 0 5
    ∧ ownerOf table.map table.desc 3 = plan.lidx := by decide +kernel
/-- Tokens and messages of the twin. -/
theorem test_twin_token : (getJob (after (.twinTokenMessage 0 { step := 5, veto := 1 }) (pair 7)) 0).map (fun k => k.twin.token.map (·.veto)) = some (some 1)
    ∧ after (.twinTokenMessage 0 { step := 6 }) (pair 7) = pair 7 := by decide +kernel
theorem test_twin_equal : (getJob (after (.twinMessage 0 5 7 false false) (pair 7)) 0).map (fun k => (k.sealSent, k.hold, k.twin.agreed)) = some (true, false, some 5) := by
  decide +kernel
theorem test_twin_differs : (getJob (after (.twinMessage 0 5 8 false false) (pair 7)) 0).map (fun k => (k.sealSent, k.hold, k.twin.mismatch)) = some (true, true, true)
    ∧ raisedBy (.twinMessage 0 5 8 false false) (pair 7) = [(evTwinMismatch, [5])] := by decide +kernel
theorem test_pair_forms : (getJob (after (.twinMessage 0 4 7 false false) { withCmd 0x14 world with jobs := [(0, pairingJob)] }) 0).map (fun k => (k.twin.paired, k.twin.agreed))
    = some (true, some 4) := by decide +kernel
/-- The twin is lost after 50 ms without its message. -/
def lonely (t : Nat) : State := { world with jobs := [(0, { pairJob 7 with twin := { (pairJob 7).twin with own := none } })], tim := { world.tim with now := t } }
theorem test_twin_lost : (getJob (after (.twinLost 0) (lonely 50000000)) 0).map (fun k => k.twin.paired) = some false ∧ after (.twinLost 0) (lonely 49999999) = lonely 49999999 := by
  decide +kernel
theorem test_history_poll : (getJob (after (.historyPoll 0 none true) (repair fun w => { w with fabTwin := none })) 0).map (fun k => (k.twin.fabTwin, k.twin.begun))
    = some (some false, true)
    ∧ (getJob (after (.historyPoll 0 (some 1) true) { repair (fun w => { w with fabOwn := none }) with jobs := [(0, { repairJob (fun w => { w with fabOwn := none }) with histTree := { own := true } })] }) 0).map
      (fun k => k.twin.fabOwn) = some (some false) := by decide +kernel
def bisLine (h : Nat) : BisEnt := { tid := 5, s := 3, e := 4, hash := h }
theorem test_bisection : (getJob (after (.bisectionListMessage 0 .rows [bisLine 1]) (repair id)) 0).map (fun k => (k.twin.items, k.twin.diff)) = some (1, [(0, 5, 0, 3)])
    ∧ (after (.bisectionListMessage 0 .rows [bisLine (bisHash (repair id) 0 .rows (bisLine 0))]) (repair id)).jobs = (repair id).jobs := by decide +kernel
theorem test_twin_wide : (getJob (after (.bisectionListMessage 0 .rows [bisLine 1]) (repair fun w => { w with items := 1024 })) 0).map (fun k => k.twin.mismatch) = some false := by
  decide +kernel
def found (w : Twin) : Twin := { w with diff := [(0, 5, 0, 3)] }
theorem test_repair_written : (after (.repairDataMessage 0 { tid := 5, index := 3, bytes := rowCopy 3 9 }) (repair fun w => { found w with fabOwn := some false, fabTwin := some true })).mem.read
    (recAddr world table 0 3) 64 = rowCopy 3 9 := by decide +kernel
theorem test_repair_logged : (raisedBy (.repairDataMessage 0 { tid := 5, index := 3, bytes := rowCopy 3 9 }) (repair found)) = [(evTwinRepair, [t1Base + 0x2000000])] := by
  decide +kernel
/-- The same of a plan without dense state. -/
def bare (w : Twin → Twin) : State := { world with jobs := [(0, { repairJob w with plan := { plan with exch := [] } })] }
theorem test_repair_round : (getJob (after (.repairRoundComplete 0 1) (bare id)) 0).map (fun k => (k.twin.round, k.twin.mismatch)) = some (1, true) := by
  decide +kernel
theorem test_repair_fails : (getJob (after (.repairRoundComplete 0 1) (bare fun w => { w with round := 2 })) 0).map (fun k => k.twin.mismatch) = some false := by
  decide +kernel
/-- A repair item that comes before the bisection has found it; one outside a repair. -/
theorem test_repair_early : (getJob (after (.repairDataMessage 0 { tid := 5, index := 3, bytes := [1] }) (repair id)) 0).map (fun k => k.twin.early.length) = some 1
    ∧ (raisedBy (.repairDataMessage 0 { tid := 5, index := 3, bytes := [1] }) (pair 7)).map (·.1) = [evLnkNojob] := by decide +kernel
/-- A pair whose module has asked for row 3; the record that its twin sends. -/
def askedPair : State := { world with jobs := [(0, { pairJob 7 with twin := { (pairJob 7).twin with asked := [(5, 3)], logSize := 0 } })] }
theorem wit_Twins_failed : (5, 3) ∉ (pairJob 7).twin.asked ∧ recOk 5 3 (record 3 9) = true ∧ (record 3 9).length = table.desc.size
    ∧ ownerOf table.map table.desc 3 = (pairJob 7).plan.lidx ∧ waitsFor (pairJob 7) 5 3 = [] ∧ t0End ≤ recAddr askedPair table 0 3 := by decide +kernel
theorem test_failed_asked : (after (.failedRecordRepair 0 5 3 .ask) askedPair).fabr ≠ askedPair.fabr
    ∧ (after (.failedRecordRepair 0 5 3 .request) askedPair).fabr ≠ askedPair.fabr := by decide +kernel
theorem test_failed_copy : (getJob (after (.failedRecordRepair 0 5 3 (.copy [1])) askedPair) 0).map (fun k => k.twin.asked) = some []
    ∧ (after (.failedRecordRepair 0 5 3 (.copy (record 3 9))) askedPair).mem.read (recAddr world table 0 3) 64 = record 3 9 := by decide +kernel

/-! ### Links -/

/-- The world with one link changed. -/
def withLink (k : Nat) (f : LinkSt → LinkSt) : State := putLink world k (f (getLink world k))
/-- A message of no body from slot 1 to this module. -/
def linkMsg (dst : NodeAddr) (t : Byte) : LinkMsg := { dst := dst, src := 1, mtype := t }
/-- A frame whose first slot is a whole collective message, with fields changed; its bytes. -/
def dataFrame : Frame := { vcmap := 2, som := 1, eom := 1, seq := 9, ack := 3, crb := 1, crc := 2, crk := 3, slots := (linkMsg 0 1).slots.map (·.bytes) }
def rxLink (l : LinkSt) : LinkSt := { l with rxSeq := 9, replay := [{ seq := 3 }, { seq := 4 }] }
def sendLink (l : LinkSt) : LinkSt := { l with txSeq := 7, outK := (linkMsg 1 0x20).slots, outC := (linkMsg 1 1).slots, retB := 5 }
/-- Link 2 after a frame that comes whole, which is what FRAME_RECEIVE of its bytes leaves. -/
def linkAfter (f : Frame) (l : LinkSt → LinkSt) : LinkSt := getLink (takeFrame (withLink 2 l) 2 (frameOf (frameBytes f)) true) 2
theorem test_frame_receive (f : Frame) (s : State) : receiveFrame s 2 (frameBytes f) true = takeFrame s 2 (frameOf (frameBytes f)) true := by
  rw [receiveFrame, fcrcGood_frameBytes, Bool.and_self]
/-- The frame that link 2 sends. -/
def sent (s : State) : Frame := frameOf (getLink (transmit s 2) 2).lastTx

theorem wit_LinkFrames : world.fabr.links.length = 24 ∧ (getLink world 2).usable = true ∧ (getLink (withLink 2 fun l => { l with st := .dead }) 2).usable = false
    ∧ (frameOf (frameBytes dataFrame)).seq.toNat = 9 ∧ slotVc (frameOf (frameBytes dataFrame)) 0 = some .coll
    ∧ (∀ i, 1 ≤ i → i < 7 → slotVc (frameOf (frameBytes dataFrame)) i = none) ∧ bit 0 (frameOf (frameBytes dataFrame)).som.toNat = true
    ∧ (frameBytes dataFrame).length = 512
    ∧ canSend (getLink (withLink 2 sendLink) 2) .ctl = true ∧ (getLink (withLink 2 sendLink) 2).replay.length < 4096
    ∧ (getLink (withLink 2 fun l => { l with reqSeq := 4, reqRun := 7 }) 2).reqSeq = 4 := by decide +kernel
theorem test_frame_bad : (linkAfter { dataFrame with seq := 8 } rxLink).reqOut = true
    ∧ (linkAfter { dataFrame with seq := 11 } fun l => { rxLink l with discarding := true, seen := some 10 }).reqOut = false
    ∧ (linkAfter { dataFrame with seq := 10 } fun l => { rxLink l with discarding := true, seen := some 12 }).reqOut = true
    ∧ (getLink (after (.frameReceive 2 ⟨(frameBytes dataFrame), false⟩) (withLink 2 fun l => { rxLink l with discarding := true })) 2).reqOut = true := by decide +kernel
theorem test_frame_good : (let l := linkAfter dataFrame rxLink
    l.rxSeq = 10 ∧ l.credB = 513 ∧ l.credC = 1026 ∧ l.credK = 131 ∧ l.replay.map (·.seq) = [4] ∧ l.inbox = [linkMsg 0 1] ∧ l.holds = [(.coll, 1)]) := by decide +kernel
theorem test_frame_kinds : (linkAfter { dataFrame with kind := 3 } rxLink).rxSeq = 9 ∧ (linkAfter { kind := 1, seq := 9, ack := 3, crk := 2 } rxLink).credK = 130
    ∧ (linkAfter { kind := 2, seq := 9, ack := 3 } rxLink).resend.map (·.seq) = [4] := by decide +kernel
/-- R339: the credits of an idle frame behind the one that the partner asks for go out again. -/
theorem test_replay_request : (getLink (after (.replayRequestReceive 2 4) (withLink 2 rxLink)) 2).resend.map (·.seq) = [4]
    ∧ (getLink (after (.replayRequestReceive 2 4) (withLink 2 fun l => { rxLink l with idle := [(5, 1, 2, 3)] })) 2).retK = 3
    ∧ (getLink (after (.replayRequestReceive 2 4) (withLink 2 fun l => { rxLink l with reqSeq := 4, reqRun := 7 })) 2).st = .training := by decide +kernel
/-- R335, R341: control first; the frame is numbered and kept. -/
theorem test_transmit : (let l := getLink (after (.frameTransmit 2) (withLink 2 sendLink)) 2; (l.txSeq, l.replay.length, l.lastTx.length)) = (8, 1, 512)
    ∧ (let f := sent (withLink 2 sendLink); (f.kind, f.seq, f.crb, (f.slots.take 2).map fun b => nth 0 b 4)) = (0, 7, 5, [0x20, 1]) := by
  decide +kernel
theorem test_transmit_first : (sent (withLink 2 fun l => { sendLink l with reqOut := true })).kind = 2
    ∧ (sent (withLink 2 fun l => { sendLink l with resend := [{ seq := 3 }] })).seq = 3 ∧ (sent world).kind = 1 := by decide +kernel

theorem wit_LinkMessages : vcOf 1 = some .coll ∧ vcOf 0x30 = none ∧ deliverable world (linkMsg 0 1) = true ∧ deliverable { world with jobs := [] } (linkMsg 0 1) = false
    ∧ keptEarly { linkMsg 0 0x24 with body := [0, 1] } = true ∧ keptEarly (linkMsg 0 0x24) = false ∧ deliverable world (linkMsg 0 0x12) = false
    ∧ nextDir world.fabr.slot.toNat (nodeSlot 1) [0, 1, 2] = some 0 ∧ dirUsable world 0 = true ∧ nodeFab 1 = world.fabr.fab
    ∧ (∀ i, i < 24 → (getLink State.reset i).usable = false) := by decide +kernel
theorem test_message : (let t := after (.linkMessageReceive 2 (linkMsg 0 1)) (withLink 2 fun l => { l with inbox := [linkMsg 0 1], holds := [(.coll, 1)] })
    (t.fabr.given, (getLink t 2).inbox, (getLink t 2).retC)) = ([linkMsg 0 1], [], 1) := by decide +kernel
theorem test_message_dropped : raisedBy (.linkMessageReceive 2 (linkMsg 0 1)) { world with jobs := [] } = [(evLnkNojob, [1, 2])]
    ∧ raisedBy (.linkMessageReceive 2 (linkMsg 0 0x30)) world = [(evLnkBadtype, [0x30, 2])] ∧ raisedBy (.messageRelay 2 (linkMsg 1 0x30)) world = [(evLnkBadtype, [0x30, 2])] := by decide +kernel
theorem test_relay : (getLink (after (.messageRelay 2 (linkMsg 1 1)) world) 0).outC = ({ linkMsg 1 1 with hops := 1 } : LinkMsg).slots
    ∧ (after (.messageRelay 2 (linkMsg 1 1)) State.reset).fabr.stuck.length = 1 := by decide +kernel

theorem wit_LinkTraining : (getLink (withLink 2 fun l => { l with st := .training }) 2).st = .training ∧ world.fabr.stuck = [] ∧ (0x3F : Byte).toNat % 16 = 15
    ∧ (0xF3 : Byte).toNat / 16 = 15 ∧ (0x77 : Byte).toNat % 16 ≠ 15 ∧ wiredRight world 0 1 2 = true ∧ wiredRight world 0 1 3 = false
    ∧ dom world 54 = .on ∧ (getLink world 2).replay = [] ∧ (getLink world 2).sent = [] ∧ (getLink world 0).usable = true ∧ (getLink world 1).usable = true := by decide +kernel
theorem test_retrain : (getLink (after (.linkRetrain 2) world) 2).st = .training ∧ raisedBy (.codewordLockLoss 2) world = [(evLnkRetrain, [2])]
    ∧ (getLink (after (.ackProgressTimeout 2) (withLink 2 rxLink)) 2).st = .training ∧ (getLink (after (.ackProgressTimeout 2) world) 2).st = .full := by decide +kernel
def training : State := withLink 2 fun l => { l with st := .training }
theorem test_retrain_complete : (getLink (after (.retrainComplete 2 0xFF) training) 2).st = .full ∧ (getLink (after (.retrainComplete 2 0xF3) training) 2).lanes = 0xF0
    ∧ (getLink (after (.retrainComplete 2 0x77) training) 2).st = .dead := by decide +kernel
/-- R359: what the partner of a dead link has not acknowledged goes out on another. -/
theorem test_reroute : (let s := after (.retrainComplete 2 0x77) (withLink 2 fun l => { l with st := .training, sent := [(.ctl, linkMsg 1 0x20)] })
    ((getLink s 0).outK ++ (getLink s 1).outK, (getLink s 2).sent)) = ((linkMsg 1 0x20).slots, []) := by decide +kernel
/-- Link 2 goes in the direction x- to the module of slot 3, whose x+ link it meets. -/
def degraded2 (q : BitVec 5) : State := withLink 2 fun l => { l with st := .degraded, paddr := 3, plink := q }
theorem test_background : (getLink (after (.linkBackgroundTrain 2 0xFF) (degraded2 0)) 2).rejoin = true
    ∧ (getLink (after (.linkBackgroundTrain 2 0xFE) (degraded2 0)) 2).rejoin = false
    ∧ raisedBy (.linkBackgroundTrain 2 0xFF) (degraded2 1) = [(evLnkWiring, [0, 2, 3, 1])] := by decide +kernel
def untrained (once : Bool) : State := withLink 0 fun l => { l with st := .down, once := once }
theorem test_trained : (getLink (after (.linkTrained 0 1 2) (untrained false)) 0).st = .full ∧ (getLink (after (.linkTrained 0 1 2) (untrained true)) 0).rejoin = true
    ∧ raisedBy (.linkTrained 0 1 3) (untrained false) = [(evLnkWiring, [0, 0, 1, 3])] := by decide +kernel
theorem test_loop : (after (.linkLoopWrite none 1) world).fabr.loop = 1 ∧ (getLink (after (.linkLoopWrite none 1) world) 0).st = .down
    ∧ (getLink (after (.linkLoopWrite none 1) world) 1).st = .full := by decide +kernel

/-! ### The roll call, time -/

def rollCall (n pulses : Nat) : State := { world with fabr := { world.fabr with roll := n, pulses := pulses, fixed := false } }
theorem wit_RollCall : (rollCall 0 63).fabr.roll = 0 ∧ (rollCall 0 63).pwr.mst ≠ .unpowered ∧ (rollCall 1 0).fabr.podW = false ∧ lkPolicy world = 0 ∧ stewardOk world none = true
    ∧ lkPolicy { world with sec := { world.sec with gen := some 0, otp := world.sec.otp.write (lkSlot 0 + 8) [1, 1, 9, 5] } } = 1 := by decide +kernel
theorem test_chain_in : (after (.chainInEdge 3) (rollCall 0 5)).fabr.pulses = 6 ∧ (after (.chainInEdge 4) (rollCall 0 5)).fabr.pulses = 0
    ∧ after (.chainInEdge 8) (rollCall 0 5) = rollCall 0 5 := by decide +kernel
theorem test_chain_timeout : (after .chainInLowTimeout (rollCall 0 63)).fabr.slot = 63 ∧ (after .chainInLowTimeout (rollCall 0 63)).fabr.announce = 64
    ∧ raisedBy .chainInLowTimeout (rollCall 0 64) = [(evLnkRollcall, [64])] := by decide +kernel
theorem test_announce_wave : (after .rollCallAnnounce { rollCall 1 0 with fabr := { (rollCall 1 0).fabr with announce := 2, chainOut := true } }).fabr.wave
    = world.fabr.wave ++ [false, true, false, true, false] := by decide +kernel
theorem test_announce : (after .rollCallAnnounce { rollCall 1 0 with fabr := { (rollCall 1 0).fabr with announce := 3, chainOut := true } }).fabr.chainOut = false := by
  decide +kernel
/-- The Locket's record of fabric B, pod 9, slot 5 under policy 1. -/
def pinned : State := { rollCall 1 0 with sec := { world.sec with gen := some 0, otp := world.sec.otp.write (lkSlot 0 + 8) [1, 1, 9, 5] } }
theorem test_pod_timeout : (after .podControllerTimeout pinned).fabr.pod = 9 ∧ (after .podControllerTimeout pinned).fabr.fab = true := by decide +kernel
theorem test_roll_restart : (after (.rollCallRestart none) pinned).fabr.announce = 6 ∧ (after (.rollCallRestart none) world).fabr.roll = 0 := by decide +kernel
theorem test_node_write : (after (.aonNodeWrite none 0x4240) (rollCall 1 0)).fabr.pod = 9 ∧ raisedBy (.aonNodeWrite none 0x4240) world = [(evLnkAddrlock, [0x4240])] := by
  decide +kernel

/-- A module at slot 1 whose time source is the tree. -/
def timed : State := { world with fabr := { world.fabr with slot := 1 }, tim := { world.tim with src := 3, now := 10000, syncLost := true } }
theorem wit_DeviceTime : timeParent timed = some 0 ∧ (getLink world (childLink world 1)).usable = true ∧ (getLink State.reset (childLink State.reset 1)).usable = false ∧ (getLink timed (timeLink timed)).usable = true ∧ timeParent world = none
    ∧ (route world (linkMsg 1 0x22) none).isSome = true ∧ (route { world with fabr := { world.fabr with links := [] } } (linkMsg 1 0x22) none).isNone = true
    ∧ timeOffset 9000 6000 6000 10000 0 0 = 3500 ∧ timeOffset 9000 9000 9000 10000 0 0 = 500 ∧ (getPort world true).up = false
    ∧ (getPort world false).hold = false ∧ world.pwr.mst ≠ .sleep := by decide +kernel
theorem test_time_tick : (getLink (after .timeExchangeTick timed) (timeLink timed)).outK.length = 1 ∧ after .timeExchangeTick world = world := by decide +kernel
theorem test_time_request : (getLink (after (.timeRequestMessage 1 7 0) world) 0).outK.length = 1 := by decide +kernel
/-- R354: an offset of 3,500 ns steps the time, one of 500 ns slews it. -/
theorem test_time_reply : (after (.timeReplyMessage 9000 6000 6000 0 0) timed).tim.now = 6500 ∧ (after (.timeReplyMessage 9000 9000 9000 0 0) timed).tim.slew = -500
    ∧ raisedBy (.timeReplyMessage 9000 9000 9000 0 0) timed = [(evTimSync, [])] := by decide +kernel
theorem test_time_lost : raisedBy .timeSyncLost { timed with tim := { timed.tim with syncLost := false } } = [(evTimSyncLost, [])] := by decide +kernel
theorem test_ptm : (after (.ptmDialog false 9000 6000 6000 10000 0) { timed with tim := { timed.tim with src := 1 } }).tim.now = 6500
    ∧ (after (.ptmDialog false 9000 6000 6000 10000 0) timed).tim.now = 10000 := by decide +kernel
def asleep : State := { world with pwr := { world.pwr with mst := .sleep } }
theorem test_crystal : (after .crystalTick asleep).tim.now = 30517 ∧ (after .crystalTick asleep).tim.rem = 37 ∧ after .crystalTick world = world := by decide +kernel
theorem test_calendar : (after .calendarTick world).tim.utc = world.tim.utc + 1 ∧ (after (.timUtcWrite none 77) world).tim.utc = 77 := by decide +kernel
theorem test_tim_set : (after (.timSet none 77) world).tim.now = 77 ∧ raisedBy (.timSet none 77) timed = [(evProgError, [0x6010])]
    ∧ raisedBy (.timSet (some 1) 77) world = [(evSecAuth, [0x6010, 1])] := by decide +kernel
theorem test_almanac : (after (.almanacRead none) world).almDone = true ∧ (raisedBy (.almanacRead (some 0)) world).map (·.1) = [evProgError] := by decide +kernel

/-! ### Functions, rings, ports -/

/-- The world with ring `n` or function 0 changed. -/
def withRing (n : Nat) (f : Ring → Ring) : State := putRing world n (f (getRing world n))
def withFn (f : Fn → Fn) : State := { world with fns := [(0, f { pv := true })] }
/-- The same with the module in another state. -/
def inMode (m : ModState) : State := { world with pwr := { world.pwr with mst := m } }

theorem wit_Doorbells : (getRing world 1).fn = 0 ∧ bit 31 (0x80000000 : W32).toNat = true ∧ (inMode .sleep).pwr.mst ≠ .active
    ∧ (getPort world (portOf 0)).hold = false ∧ (1, getRing world 1) ∈ world.rings ∧ (getFn (withFn fun f => { f with poll := 1 }) 0).poll ≠ 0
    ∧ (getRing world 1).enable = true ∧ (getRing (withRing 1 fun r => { r with err := true }) 1).err = true ∧ 2 ^ (getRing world 1).size = 64 := by decide +kernel
theorem test_fn_wake : (getFn (after (.fnWake none 0 1) world) 0).dbReads = [1, 2, 3, 4] ∧ (getFn (after (.fnWake (some 0) 0 0x80000000) world) 0).dbReads.length = 4
    ∧ (getFn (after (.fnWake none 0 1) (inMode .sleep)) 0).wake = [1] ∧ (after (.fnWake none 0 1) (inMode .sleep)).pwr.waking = true
    ∧ raisedBy (.fnWake none 1 1) world = [(evProgError, [0x1040])] := by decide +kernel
theorem test_poll : (getFn (after (.doorbellPollTick 0) (withFn fun f => { f with poll := 1 })) 0).dbReads.length = 4 ∧ after (.doorbellPollTick 0) world = world := by
  decide +kernel
def reading : State := withFn fun f => { f with dbReads := [1, 2] }
theorem test_doorbell : (getRing (after (.doorbellRead 1 64) reading) 1).host = 64 ∧ (getRing (after (.doorbellRead 1 65) reading) 1).err = true
    ∧ (getFn (after (.doorbellRead 1 64) reading) 0).dbReads = [2] ∧ raisedBy (.doorbellRead 1 65) reading = [(evRngIndex, [1, 65])] := by decide +kernel

/-- Submission ring 1 has three entries, DMA ring 4 one. -/
def busy : State := putRing (putRing world 1 { getRing world 1 with host := 3, cls := 1, cur := 1 }) 4 { getRing world 4 with host := 1, cls := 2, cur := 2, age := 63 }
def entry (opc flags : Nat) : BitVec 512 := BitVec.ofNat 512 (opc + flags * 256 + 9 * 2 ^ 16 + 7 * 2 ^ 160)
def granted8 : State := putRing world 1 { getRing world 1 with host := 3, grant := 8 }

theorem wit_Rings : ringReady busy (getRing busy 1) = true ∧ ringReady busy (getRing busy 4) = true ∧ serves granted8 (getRing granted8 1) = true
    ∧ slotFree granted8 (getRing granted8 1) = true ∧ (getRing granted8 1).fill = 3 ∧ knownOpc 0x12 = true ∧ knownOpc 0x55 = false
    ∧ batchWaits world 0 7 = true ∧ batchWaits world 0 6 = false ∧ (getRing world 1).link ≠ 1
    ∧ interruptDue (withRing 2 fun r => { r with unrep := 1 }) (getRing (withRing 2 fun r => { r with unrep := 1 }) 2) = true := by decide +kernel
theorem wit_Rings_keys : keysRise world.rings ∧ keysRise State.reset.rings := ⟨by unfold keysRise; decide +kernel, by unfold keysRise; decide⟩
theorem test_arbitration : (getRing (after (.arbitrationRound false) busy) 1).grant = 8 ∧ (getRing (after (.arbitrationRound false) busy) 4).grant = 1
    ∧ (getRing (after (.arbitrationRound true) busy) 1).grant = 0 := by decide +kernel
/-- A ring whose class has weight 0 ages and moves up a class at the limit. -/
theorem test_aging : (getRing (after (.arbitrationRound false) { busy with portA := { busy.portA with weights := [8, 4, 0, 1] } }) 4).cur = 1
    ∧ (getRing (after (.arbitrationRound false) { busy with portA := { busy.portA with weights := [8, 0, 1, 1] } }) 1).age = 1 := by decide +kernel
theorem test_consume : (let r := getRing (after (.commandConsume 1 (entry 0x12 3)) granted8) 1
    (r.dev, r.slots, r.grant, r.prog)) = (1, 1, 7, [{ fn := 0, ring := 1, idx := 0, tag := 9, opc := 0x12, nocq := true, fence := true }]) := by decide +kernel
theorem test_consume_waits : (getRing (after (.commandConsume 1 (entry 0x01 0)) granted8) 1).batchAt = some 7
    ∧ raisedBy (.commandConsume 1 (entry 0x55 0)) granted8 = [(evProgError, [1, 0x55])] := by decide +kernel
theorem test_interrupt : (after (.interruptRaise 2) (withRing 2 fun r => { r with unrep := 1 })).irqs = [(0, 0)]
    ∧ (getRing (after (.interruptRaise 2) (withRing 2 fun r => { r with unrep := 1 })) 2).unrep = 0 ∧ after (.interruptRaise 2) world = world := by decide +kernel
/-- +0x10 of an event ring of size 6. -/
def ctl (on kind size : Nat) : W64 := BitVec.ofNat 64 (on * 2 ^ 63 + kind * 2 ^ 30 + size * 2 ^ 25)
def ringOff : State := withRing 3 fun r => { r with enable := false, host := 5, dev := 5 }
theorem wit_Rings_enable : ringOk ringOff 3 { getRing ringOff 3 with enHeld := false } = true ∧ ctlChanges (getRing world 3) (ctl 1 2 6).toNat = false
    ∧ ctlChanges (getRing world 3) (ctl 1 2 7).toNat = true ∧ ringRight world none (getRing world 3) = true
    ∧ ringOk ringOff 3 ((getRing ringOff 3).withCtl (ctl 1 2 3).toNat) = false := by decide +kernel
theorem test_ring_enable : (getRing (after (.ringEnable none 3 (ctl 1 2 6)) ringOff) 3).enable = true ∧ (getRing (after (.ringEnable none 3 (ctl 1 2 6)) ringOff) 3).host = 0
    ∧ raisedBy (.ringEnable none 3 (ctl 1 2 3)) ringOff = [(evRngSetup, [3])] := by decide +kernel
theorem test_ring_locked : raisedBy (.ringEnable none 3 (ctl 1 2 7)) world = [(evProgError, [0x1000D0])] ∧ (getRing (after (.ringEnable none 3 (ctl 1 2 7)) world) 3).size = 6
    ∧ (getRing (after (.ringDisable none 3 (ctl 0 2 6)) world) 3).enable = false
    ∧ (getRing (after (.ringEnable none 3 (ctl 1 2 6)) { ringOff with pwr := { ringOff.pwr with mst := .boot } }) 3).enHeld = true := by decide +kernel

/-- Port A in host-loss hold. -/
def lostA : State := { world with portA := { world.portA with hold := true, up := false } }
theorem wit_Ports : (getPort world false).up = true ∧ (getPort lostA false).hold = true ∧ (getPort world true).up = false ∧ (getFn world 0).pv = true
    ∧ (getPort { world with portA := { world.portA with discarded := [0] } } false).discarded = [0] ∧ (inMode .off).pwr.mst = .off
    ∧ (getPort { world with portA := { world.portA with perst := true } } false).perst = true := by decide +kernel
theorem test_flr : (getRing (after (.functionLevelReset 0) world) 1).enable = false ∧ (getFn (after (.functionLevelReset 0) world) 0).pv = false := by decide +kernel
theorem test_host_loss : (getPort (after (.hostLossHold false .linkDown) world) false).hold = true ∧ (getFn (after (.hostLossHold false .linkDown) world) 0).det = true
    ∧ (getPort (after (.hostLossHold true .perst) world) true).perst = true ∧ (raisedBy (.hostLossHold false .perst) world).map (·.1) = [evPrtHostloss] := by decide +kernel
theorem test_port_trained : (getPort (after (.pcieLinkTrained true 6 16) world) true).up = true ∧ raisedBy (.pcieLinkTrained true 5 16) world = [(evPrtDegraded, [1, 5, 16])]
    ∧ (getPort (after (.pcieLinkTrained false 6 16) lostA) false).hold = false ∧ after (.pcieLinkTrained true 7 16) world = world := by decide +kernel
theorem test_port_rest : (getPort (after (.pcieRetrain false) world) false).retrain = 1 ∧ (after (.unsupportedRequest false .atomicOp) world).rsp = .unsupported
    ∧ (getPort (after (.hostReadCompletion false 0) { world with portA := { world.portA with discarded := [0] } }) false).latedrop = 1 := by decide +kernel
theorem test_perst : (getPort (after (.perstAssert false) world) false).perst = true ∧ (after (.perstAssert false) (inMode .sleep)).pwr.waking = true
    ∧ (getPort (after (.perstAssert false) (inMode .boot)) false).width = 0 ∧ (getPort (after (.perstAssert false) (inMode .off)) false).perst = true := by decide +kernel
theorem test_perst_release : (after (.perstRelease false) { inMode .off with portA := { perst := true } }).pwr.mst = .boot
    ∧ (getPort (after (.perstRelease false) { world with portA := { perst := true } }) false).perst = false := by decide +kernel

/-- Function 1 of port A, assigned or adopted. -/
def withFn1 (f : Fn) : State := { world with fns := [(0, { pv := true }), (1, f)] }
theorem wit_Partitions : (getFn (withFn1 { adopter := 32 }) 1).adopter ≠ 255 ∧ (getFn (withFn1 {}) 1).pv = false ∧ nth 255 world.pctl 2 = 255
    ∧ (getFn (withFn1 { pv := true, part := 1 }) 1).pv = true ∧ cmdStarts (withCmd 0x12 world) (cmd 0x13) 0x13 = false
    ∧ cmdStarts { withCmd 0x12 world with pctl := [32, 255, 255, 255] } (cmd 0x12) 0x12 = true
    ∧ cmdRight { withCmd 0x12 world with pctl := [32, 255, 255, 255] } (cmd 0x12) = false := by decide +kernel
theorem test_assign : (let s := after (.partitionAssign (some 0) 1 0x106) (withFn1 {})
    ((getFn s 1).pv, (getFn s 1).part, (getFn s 1).tgrant, s.pctl)) = (true, 2, true, [0, 255, 0, 255]) := by decide +kernel
theorem test_assign_refused : (raisedBy (.partitionAssign none 1 6) (withFn1 { adopter := 32 })).map (·.1) = [evProgError]
    ∧ (raisedBy (.partitionAssign none 1 6) (withFn1 { pv := true, part := 1 })).map (·.1) = [evProgError] := by decide +kernel
theorem test_no_right : raisedBy (.pause (cmd 0x12)) { withCmd 0x12 world with pctl := [32, 255, 255, 255] } = [(evCmdRights, [1, 0x12])] := by decide +kernel
theorem test_release_fn : (getFn (after (.fnRelease none 0x101) (withFn1 { adopter := 32 })) 1).adopter = 255
    ∧ (getFn (after (.fnRelease none 0x101) (withFn1 { pv := true, part := 1 })) 1).pv = false ∧ (raisedBy (.fnRelease none 0x101) (withFn1 {})).map (·.1) = [evProgError] := by
  decide +kernel

/-! ### Windows, semaphores, arbitration of the scratchpad -/

def windowed : State := withFn fun f => { f with winbase := t1Base + 0x100000 }
theorem wit_Windows : windowServes windowed 0 = true ∧ windowServes lostA 0 = false ∧ windowOk windowed 0 0x40 4 true = true ∧ windowOk windowed 0 0 0 true = true
    ∧ windowOk windowed 1 0x40 4 true = false ∧ t0End ≤ windowAddr windowed 0 0x40 ∧ windowed.poison = [] ∧ windowOk windowed 0 (2 ^ 34) 1 false = false
    ∧ semGet world 7 = 0 := by decide +kernel
theorem test_window_write : (after (.hostWindowWrite 0 0x40 [1, 2, 3]) windowed).mem.read (t1Base + 0x100040) 3 = [1, 2, 3]
    ∧ (raisedBy (.hostWindowWrite 1 0x40 [1]) windowed).map (·.1) = [evProgError] ∧ after (.hostWindowWrite 0 0x40 [1]) lostA = lostA := by decide +kernel
theorem test_window_read : (after (.hostWindowRead 0 0x40 3) { windowed with mem := windowed.mem.write (t1Base + 0x100040) [1, 2, 3], winA := { lines := [((t1Base + 0x100040) / 64, [9, 8, 7])] } }).rsp
    = .bytes [9, 8, 7] ∧ (after (.hostWindowRead 0 0 3) lostA).rsp = .completerAbort := by decide +kernel
theorem test_window_memory : (after (.hostWindowRead 0 0x40 3) { windowed with mem := windowed.mem.write (t1Base + 0x100040) [1, 2, 3] }).rsp = .bytes [1, 2, 3] := by
  decide +kernel
theorem test_semaphore : semGet (after (.semaphoreFetchAdd 7 (-1)) world) 7 = 2 ^ 64 - 1 ∧ semGet (after (.semaphoreWrite 7 5) world) 7 = 5
    ∧ semGet (after (.semaphoreCompareSwap 7 0 9) world) 7 = 9 ∧ semGet (after (.semaphoreCompareSwap 7 1 9) world) 7 = 0
    ∧ (after (.semaphoreRead 7) (after (.semaphoreWrite 7 5) world)).rsp = .data 5 := by decide +kernel
theorem test_streak : (after (.stallStreakGrant 3 [0x11]) { world with streaks := [(28, 16), (29, 1)] }).streaks = [(24, 1), (29, 1)]
    ∧ (after (.stallStreakGrant 3 (List.replicate 17 0x11)) world).granted = some (3, 4) := by decide +kernel

/-! ### Boot, power -/

/-- The world in another state, with its firmware running or not. -/
def mode (m : ModState) (fw : Bool := true) : State := { world with pwr := { world.pwr with mst := m, fwOk := fw } }
/-- In boot with both banks, A selected. -/
def booting (a b : FwImage) : State := { mode .boot false with sec := { world.sec with bankA := some a, bankB := some b } }
def badImage : FwImage := { sigsOk := false }
def bootReady : State := { mode .boot with pwr := { (mode .boot).pwr with dramDone := List.range 20, refclk := true, pd := List.replicate 64 .off } }

theorem wit_Boot : (mode .unpowered).pwr.mst = .unpowered ∧ (booting {} badImage).pwr.refclk = true ∧ bankPasses (booting {} badImage) false = true
    ∧ bankPasses (booting {} badImage) true = false ∧ (booting {} badImage).sec.selB = false ∧ readyToServe bootReady = true ∧ bootReady.pwr.pd.length = 64
    ∧ readyToServe (mode .boot) = false ∧ ({ mode .off with pwr := { (mode .off).pwr with refOff := true } } : State).pwr.refOff = true := by decide +kernel
theorem test_power_good : (after .power54vInRange (mode .unpowered)).pwr.mst = .boot ∧ after .power54vInRange world = world ∧ (after .power54vInRange (mode .unpowered)).alm.cycles = 2 := by
  decide +kernel
theorem test_power_loss : (after .power54vLoss world).pwr.mst = .unpowered ∧ (after .power54vLoss world).jobs = [] ∧ (after .power54vLoss (mode .unpowered)).jobs.length = 1 := by
  decide +kernel
theorem test_mgmt_boot : (after .mgmtBoot (mode .off)).pwr.mst = .boot ∧ after .mgmtBoot world = world
    ∧ (after .mgmtBoot { mode .boot with pwr := { (mode .boot).pwr with bootFailed := true } }).pwr.bootFailed = false := by decide +kernel
theorem test_boot_verify : (after .bootVerifyDone (booting {} badImage)).sec.runB = false ∧ (after .bootVerifyDone (booting badImage { svn := 3 })).sec.fallback = true
    ∧ (after .bootVerifyDone (booting badImage badImage)).pwr.bootFailed = true := by decide +kernel
theorem test_dram_training : (after (.dramTrainingDone 19 true) (mode .boot)).pwr.dramDone = [19] ∧ raisedBy (.dramTrainingDone 19 false) (mode .boot) = [(evPwrDramtrain, [19])] := by
  decide +kernel
theorem test_module_ready : (after .moduleReady bootReady).pwr.mst = .active ∧ dom (after .moduleReady bootReady) 36 = .retain ∧ dom (after .moduleReady bootReady) 44 = .on
    ∧ after .moduleReady world = world := by decide +kernel
theorem test_refclk : (after .refclkLoss world).pwr.mst = .off ∧ (after .refclkLoss (mode .boot)).pwr.mst = .boot
    ∧ (after .refclkReturn { mode .off with pwr := { (mode .off).pwr with refOff := true } }).pwr.mst = .boot ∧ (after .refclkReturn (mode .off)).pwr.mst = .off := by decide +kernel

/-- No job runs; a request waits. -/
def quiet : State := { world with jobs := [(0, { job with phase := .held })] }
def waiting (off : Bool) : State := { quiet with pwr := { quiet.pwr with pending := some { off := off, force := false } } }
/-- A tiered table holds a dirty row. -/
def dirty : State := { quiet with tables := [(5, { table with desc := { table.desc with tier := 2 }, wbs := [{ rows := [1], pages := [0], bytes := [], urgent := false }] })] }

theorem wit_PowerRequests : (world.pwr.mst = .active ∧ world.pwr.pending = none) ∧ firstDirty quiet = none ∧ firstDirty dirty = some 5 ∧ mayEnter (waiting false) false = true
    ∧ mayEnter (waiting true) true = true ∧ workLeft (waiting false) = false ∧ workLeft { waiting false with rings := (withCmd 0x12 world).rings } = true
    ∧ (waiting false).pwr.pd.length = 64 ∧ (waiting false).parked = [] := by decide +kernel
theorem test_sleep_request : (after (.pwrReqSleep none) quiet).pwr.rstat = 1 ∧ raisedBy (.pwrReqSleep none) world = [(evPwrRefused, [1])] := by decide +kernel
theorem test_off_request : raisedBy (.pwrReqOff none false) dirty = [(evPwrRefused, [3])] ∧ (after (.pwrReqOff none true) dirty).pwr.rstat = 1
    ∧ (after (.pwrReqOff none false) quiet).pwr.regReq = 2 := by decide +kernel
theorem test_wake_request : (after (.pwrReqWake none) (waiting false)).pwr.pending = none ∧ (after (.pwrReqWake none) (mode .sleep)).pwr.waking = true := by decide +kernel
theorem test_wait_timeout : raisedBy .sleepWaitTimeout { waiting false with rings := (withCmd 0x12 world).rings } = [(evPwrRefused, [2])]
    ∧ after .sleepWaitTimeout (waiting false) = waiting false := by decide +kernel
theorem test_sleep_entry : (after .sleepEntry (waiting false)).pwr.mst = .sleep ∧ dom (after .sleepEntry (waiting false)) 48 = .retain ∧ dom (after .sleepEntry (waiting false)) 63 = .off
    ∧ (getLink (after .sleepEntry (waiting false)) 3).st = .down := by decide +kernel
theorem test_off_entry : (after .offEntry (waiting true)).pwr.mst = .off ∧ (after .offEntry (waiting true)).tables = [] ∧ after .offEntry (waiting false) = waiting false := by decide +kernel
theorem test_wake : (after .mgmtWake (mode .sleep)).pwr.waking = true
    ∧ (after .wakeComplete { mode .sleep with pwr := { (mode .sleep).pwr with waking := true, pd := List.replicate 64 .off } }).pwr.mst = .active := by decide +kernel

def duty (d : Nat) (p : Power → Power) : State := { world with arr := { world.arr with duty := d }, pwr := p world.pwr }
theorem wit_PowerLimits : (∃ x ∈ [100, 20], 100 ≤ x) ∧ (((1200 :: List.replicate 9 1150).take 10).foldl (· + ·) 0 = 11550) ∧ dom world 62 = .on
    ∧ (duty 8 fun p => { p with hkDown := true }).pwr.hkDown = true := by decide +kernel
theorem test_brake : (after .pwrBrakeAssert (duty 8 id)).arr.duty = 4 ∧ (after .pwrBrakeRelease (duty 4 fun p => { p with brake := true })).pwr.brake = false := by decide +kernel
/-- R441: 1 ms above 1,150 W halves the duty. -/
theorem test_power_sample : (after (.powerSample 1200) (duty 16 fun p => { p with samples := List.replicate 9 1150 })).arr.duty = 8
    ∧ (after (.powerSample 1150) (duty 16 fun p => { p with samples := List.replicate 9 1150 })).arr.duty = 16
    ∧ (after (.powerSample 1200) (duty 16 fun p => { p with samples := List.replicate 8 1150 })).arr.duty = 16 := by decide +kernel
theorem test_duty : (after .dutyAdjustTick (duty 8 fun p => { p with avg := 951 })).arr.duty = 7 ∧ (after .dutyAdjustTick (duty 8 fun p => { p with avg := 903 })).arr.duty = 8
    ∧ (after .dutyAdjustTick (duty 8 fun p => { p with avg := 902 })).arr.duty = 9 ∧ (after .dutyAdjustTick (duty 8 fun p => { p with dieTemp := [100] })).arr.duty = 7 := by
  decide +kernel
theorem test_watchdog : (after .watchdogExpiry world).pwr.hkDown = true ∧ raisedBy .hkRestartComplete (duty 8 fun p => { p with hkDown := true }) = [(evPwrHkrestart, [])] := by
  decide +kernel

/-! ### Security -/

def req (code : Nat) : SReq := { tag := BitVec.ofNat 16 code }
/-- The status and reason of the answer block. -/
def answered (c : Instr) (s : State) : BusRsp := (after c s).rsp
/-- The module with three blown version bits and firmware of version 5 running. -/
def secure : State := { world with sec := { world.sec with otp := world.sec.otp.write 0x1C0 [7], svn := 5, gen := some 0 } }
theorem wit_Security : reaches world none = true ∧ stewardOk world none = true ∧ stewardOk world (some 0) = false ∧ reaches { world with pwr := { world.pwr with mst := .off } } (some 0) = false
    ∧ imageFault secure { svn := 3 } = 0 ∧ imageFault secure { svn := 2 } = 5 ∧ imageFault secure { kslot := 2 } = 2 ∧ imageFault secure { sigsOk := false } = 4
    ∧ lkDebug world = false ∧ (takeIndex { world with sec := { world.sec with exhausted := true } }).isNone = true ∧ svCounter secure = 3
    ∧ (bufferOk world none t1Base 4224 = true) ∧ (mode .boot false).pwr.fwOk = false := by decide +kernel
theorem test_fwupdate : (after (.fwupdate (req 1) { svn := 3 }) secure).sec.selB = true ∧ (after (.fwupdate (req 1) { svn := 2 }) secure).sec.selB = false
    ∧ answered (.fwupdate (req 1) { svn := 2 }) secure = .bytes (reqBlock (req 1) 1 stInvalid 4 0) := by decide +kernel
theorem test_svcommit : svCounter (after (.svcommit (req 2)) secure) = 5 ∧ (after (.svcommit (req 2)) secure).sec.otp.get 0x1C0 = 0x1F := by decide +kernel
theorem test_rkrevoke : slot0Revoked (after (.rkrevoke (req 3) { bytes := List.replicate 64 0 }) secure) = true
    ∧ answered (.rkrevoke (req 3) { bytes := List.replicate 64 0, sigsOk := false }) secure = .bytes (reqBlock (req 3) 3 stCksum 3 0) := by decide +kernel
theorem test_steward : (raisedBy (.svcommit { req 2 with who := some 0 }) secure) = [(evSecAuth, [0xB040, 0])] := by decide +kernel
/-- A settings record of generation 0 that allows debugging. -/
def settings0 : List Byte := bytesOf 4 0x4C4B5431 ++ [0, 1, 0, 0, 0, 0, 0, 0, 0, 6, 1, 0] ++ List.replicate 1004 0
def settings : List Byte := settings0 ++ bytesOf 4 (crc32c settings0).toNat
theorem settings0_length : settings0.length = 1020 := by decide +kernel
theorem settings_fields : natOf (settings.take 4) = 0x4C4B5431 ∧ (nth 0 settings 4).toNat = 0 ∧ (nth 0 settings 5).toNat = 1 ∧ (nth 0 settings 8).toNat ≤ 1
    ∧ (nth 0 settings 9).toNat ≤ 1 ∧ (nth 0 settings 11).toNat ≤ 63 ∧ (nth 0 settings 12).toNat ≤ 1 ∧ 1 ≤ (nth 0 settings 13).toNat ∧ (nth 0 settings 13).toNat ≤ 15
    ∧ (nth 0 settings 15).toNat ≤ 2 := by decide +kernel
theorem settings_take : settings.take 1020 = settings0 := by
  rw [settings, ← settings0_length, List.take_left']
  rfl
theorem settings_drop : slice settings 1020 4 = bytesOf 4 (crc32c settings0).toNat := by
  have h : settings.drop 1020 = bytesOf 4 (crc32c settings0).toNat := by
     rw [settings, ← settings0_length, List.drop_left']
     rfl
  rw [slice, h]; rfl
theorem settings_crc (w : W32) : natOf (bytesOf 4 w.toNat) = w.toNat := by
  have := w.isLt
  simp [natOf, bytesOf]
  omega
/-- The record is one that LKPROG accepts. -/
theorem wit_Security_record : recordOk 0 settings = true := by
  have h := settings_fields
  have l : settings.length = 1024 := by rw [settings, List.length_append, settings0_length]; rfl
  simp only [recordOk, settings_take, settings_drop, settings_crc, l, h]
  simp
theorem wit_Security_slot : freeSlot world = some 0 ∧ world.sec.gen = none := by decide +kernel
theorem test_lkprog_refused : answered (.lkprog { req 4 with operand := 1 } { bytes := settings }) world = .bytes (reqBlock { req 4 with operand := 1 } 4 stInvalid 8 0)
    ∧ answered (.lkprog (req 4) { bytes := [] }) world = .bytes (reqBlock (req 4) 4 stCksum 3 0) := by decide +kernel
def unlocked : State := { world with sec := { world.sec with gen := some 0, otp := world.sec.otp.write (lkSlot 0 + 14) [1] } }
theorem test_dbgunlock : (after (.dbgunlock (req 5)) unlocked).sec.dbg = true ∧ raisedBy (.dbgunlock (req 5)) unlocked = [(evSecDebug, [])]
    ∧ answered (.dbgunlock (req 5)) world = .bytes (reqBlock (req 5) 5 stInvalid 8 0) := by decide +kernel
theorem test_idcsr_exhausted : answered (.idcsr (req 6)) { world with sec := { world.sec with exhausted := true } } = .bytes (reqBlock (req 6) 6 stInvalid 7 0) := by decide +kernel
theorem test_recover : (after (.recover { req 8 with operand := 1 } { svn := 9 }) { mode .boot false with pwr := { (mode .boot false).pwr with bootFailed := true } }).sec.bankB.map (·.svn) = some 9
    ∧ answered (.recover (req 8) {}) world = .bytes (reqBlock (req 8) 8 stInvalid 8 0) := by decide +kernel
theorem test_attestation_refused : (after (.attestationRequest none (some (List.replicate 48 0))) world).sec.attStatus = stInvalid := by decide +kernel
theorem test_jtag : exec (.jtagAccess .extest) world = .next world := by rfl
theorem test_jtag_debug : exec (.jtagAccess .extest) { unlocked with sec := { unlocked.sec with dbg := true } } = .fault .debugInstruction := by rfl

/-! ### Counters, windows, Frost, samples -/

def counting (now : Nat) : State := { world with tim := { world.tim with now := now }, isl := { world.isl with live := { world.isl.live with win := [(3, 77)] } } }
def frosty (f : Frost → Frost) : State := putFrost (counting 500) 0 (f (getFrost world 0))
theorem wit_Counters : world.isl.frost.length = 5 ∧ world.isl.trace.length = 4 ∧ winEnd (counting 0) = 1000000 ∧ (getJob world 0).isSome = true ∧ getJob world 1 = none
    ∧ (frosty fun f => { f with armed := true, mode := 1, target := 500 }).tim.now = 500 ∧ frostOk world none 0 = true ∧ frostOk world (some 0) 4 = false
    ∧ (2 ^ ((nth {} world.isl.trace 0).size + 12) = 4096) := by decide +kernel
theorem test_bwlen : (after (.bwlenWrite none 5000) (counting 500)).isl.bwLen = 5000 ∧ raisedBy (.bwlenWrite none 999) world = [(evProgError, [0x404800])] := by decide +kernel
theorem test_window_close : (let i := (after .bandwidthWindowClose (counting 1000000)).isl
    (i.live.win, i.live.bwIdx, tabGet 0 i.ring (64 * 3), tabGet 0 i.ring (64 * 58))) = ([], 1, 77, 1000000)
    ∧ after .bandwidthWindowClose (counting 999999) = counting 999999 := by decide +kernel
theorem test_frost_time : (let f := getFrost (after (.frostArmTime none 0 499) (counting 500)) 0
    (f.res, f.done, f.armed)) = (1, true, false) ∧ (getFrost (after (.frostArmTime none 0 500) (counting 500)) 0).armed = true
    ∧ (let f := getFrost (after (.frostCaptureTime 0) (frosty fun f => { f with armed := true, mode := 1, target := 500 })) 0
      (f.seq, f.capTime, f.done, f.set.win)) = (1, 500, true, [(3, 77)]) := by decide +kernel
theorem test_frost_seal : (getFrost (after (.frostArmSeal none 0 4) world) 0).res = 1 ∧ (getFrost (after (.frostArmSeal none 0 5) world) 0).armed = true
    ∧ (getFrost (after (.frostArmSeal none 1 5) world) 1).res = 2 := by decide +kernel
theorem test_frost_rest : (getFrost (after (.frostAtOnce none 4) world) 4).mode = 3 ∧ (getFrost (after (.frostCancel none 0) (frosty fun f => { f with armed := true, mode := 1 })) 0).res = 3
    ∧ raisedBy (.frostCancel (some 0) 4) world = [(evSecAuth, [0x404100, 0])] := by decide +kernel
theorem test_xsel : (let i := (after (.ctrXselClear none 0x01000005) { world with isl := { world.isl with live := { world.isl.live with tbl := [(60, { total := 9 }), (72, { total := 8 })] } } }).isl
    (i.xsel, (tabGet {} i.live.tbl 60).total, (tabGet {} i.live.tbl 72).total)) = (5, 0, 8)
    ∧ raisedBy (.ctrXselClear none 0x60000000) world = [(evProgError, [0x406000])] := by decide +kernel
def tracing : State := { world with isl := { world.isl with due := [(3, 2)], trace := [{ base := t1Base + 0x3000000 }, {}, {}, {}] } }
theorem test_sample : (after (.sampleRecord 0 3 { idx := 7 }) tracing).mem.read (t1Base + 0x3000000) 32 = sampleBytes 5 3 { idx := 7 }
    ∧ (nth {} (after (.sampleRecord 0 3 {}) tracing).isl.trace 0).trp = 1 ∧ after (.sampleRecord 0 4 {}) tracing = tracing := by decide +kernel
theorem test_sample_full : (nth {} (after (.sampleRecord 0 3 {}) { tracing with isl := { tracing.isl with trace := [{ base := t1Base + 0x3000000, trp := 4096 }, {}, {}, {}] } }).isl.trace 0).drop = 1 := by
  decide +kernel

/-! ### Registers, what every step keeps -/

theorem wit_Registers : canRead world none 0x4018 = true ∧ regVal world none 0x4018 = 950 ∧ canRead world (some 1) 0xB048 = false ∧ (getChan world 8).use = 0
    ∧ (chanBound world 8).isNone = true ∧ (getChan world 8).plan = false ∧ nth false world.tierLock 0 = false ∧ (getRing { world with rings := [] } 3).enable = false
    ∧ inTier world 0 1 (t1Base + 2 ^ 36) (2 ^ 29) = false := by decide +kernel
theorem test_read : (after (.registerRead none 0x4018 8) world).rsp = .data 950 ∧ (after (.registerRead none 0x4018 4) world).rsp = .data 950 ∧ (after (.registerRead none 0x401C 4) world).rsp = .data 0 ∧ (after (.registerRead none 0x4018 2) world).rsp = .data 0
    ∧ raisedBy (.registerRead none 0x401A 4) world = [(evProgError, [0x401A])] := by decide +kernel
theorem test_read_clear : (after (.registerReadClear none 0xB048 8) { world with sec := { world.sec with mbDone := true } }).sec.mbDone = false := by decide +kernel
theorem test_write_limit : (after (.registerWrite none 0x4018 8 700) world).pwr.limit = 700 ∧ raisedBy (.registerWrite none 0x4018 8 299) world = [(evProgError, [0x4018])]
    ∧ raisedBy (.registerWrite (some 0) 0x4018 8 951) world = [(evSecAuth, [0x4018, 0])] ∧ (after (.registerWrite (some 0) 0x4018 8 950) world).pwr.limit = 950 := by decide +kernel
theorem test_write_half : (getFrost (after (.registerWrite none 0x40400C 4 5) (frosty fun f => { f with target := 9 })) 0).target = 5 * 2 ^ 32 + 9 := by decide +kernel
theorem wit_InvariantKept : world.mem.wf = true ∧ world.pwr.pd.length = 64 ∧ world.fabr.links.length = 24 ∧ world.dramStacks.length = 28 ∧ world.isl.frost.length = 5
    ∧ world.isl.trace.length = 4 := by decide +kernel
theorem wit_FusesKept : bit 2 (secure.sec.otp.get 0x1C0).toNat = true := by decide +kernel

/-! ### Clauses at their boundaries -/

/-- A replacement plan's self-test at its load, and the self-test of a resume. -/
def replacing (d : Nat) : State := { world with jobs := [(0, { testJob d with loadCmd := none, prev := some plan, lastSeal := some 4 })] }
def resuming (d : Nat) : State := { world with jobs := [(0, { testJob d with loadCmd := none, resuming := true, lastSeal := some 4, cmds := { resume := some (cmd 0x13) } })] }
theorem wit_Steps_replacement : ((testJob 0).phase = .testing) ∧ selfDigest (replacing 0) 0 { testJob 0 with loadCmd := none, prev := some plan, lastSeal := some 4 } = 0
    ∧ selfDigest (resuming 1) 0 { testJob 1 with loadCmd := none, resuming := true, lastSeal := some 4, cmds := { resume := some (cmd 0x13) } } ≠ 1 := by decide +kernel
theorem test_selftest_replacement : (getJob (after (.selftestComplete 0) (replacing 0)) 0).map (fun k => (k.phase, k.next.isSome, k.prev.isNone)) = some (.held, true, true)
    ∧ (getJob (after (.selftestComplete 0) (replacing 1)) 0).map (fun k => (k.phase, k.next.isSome)) = some (.held, false) := by decide +kernel
theorem test_selftest_resume : (getJob (after (.selftestComplete 0) (resuming 0)) 0).map (fun k => (k.phase, k.testOk)) = some (.held, true)
    ∧ (getJob (after (.selftestComplete 0) (resuming 1)) 0).map (fun k => (k.testOk, k.cmds.resume.isNone)) = some (false, true) := by decide +kernel

/-- The seal wave's result of a vetoed step. -/
def vetoedJob : Job := { waveJob with vetoed := true, token := some { step := 5, veto := 2 }, ls := 3 }
def vetoedWave : State := { world with jobs := [(0, vetoedJob)] }
theorem wit_Seals_vetoed : stepVetoed vetoedJob = true ∧ stepVetoed waveJob = false ∧ vetoedJob.waveIn = true := by decide +kernel
theorem test_vetoed_seal : (getJob (after (.sealReached 0) vetoedWave) 0).map (fun k => (k.lastSeal, k.vetoedCount, k.growth)) = some (some 5, 1, 0)
    ∧ raisedBy (.sealReached 0) vetoedWave = [(evStepVetoed, [5])] := by decide +kernel

/-- At the seal of its target the re-shard's new plan breaks a rule. -/
theorem test_reshard_vote_no : (reshOf (.reshardCheckComplete 0) (resharding 1 wrongPlan)).map (fun r => (r.ready, r.fail)) = some (some false, some stInvalid) := by
  decide +kernel
/-- A re-shard whose target is the step that seals: the job's work at the seal goes on with it, before the job holds (R262). -/
def dueSealJob : Job := { waveJob with waveHold := true, reshard := some { resh with target := 5 } }
def dueSeal : State := { world with jobs := [(0, dueSealJob)] }
theorem wit_Seals_due : reshardDue dueSealJob 5 = true ∧ reshardDue waveJob 5 = false ∧ dueSealJob.waveIn = true ∧ resh.checked = false := by decide +kernel
theorem test_due_seal : (getJob (after (.sealReached 0) dueSeal) 0).map (fun k => (k.phase, k.sealWork, k.lastSeal)) = some (.sealed, true, some 5) := by
  decide +kernel

/-- Twin mode under ATWIN: the AMMT waits for its AACC, and the two run as one flight (R64). -/
def twinned : State :=
  let s := withJob fun j => { j with arrS := { j.arrS with lead := .twin } }
  { s with arr := { s.arr with mode := .twin, colr := true } }
def gradWord : AWord := { src := 4, dst := 0x1000, cnt := 2, til := 1, gct := 1, aux := 4 }
theorem wit_ArrayQueue_twin : pairReady twinned 0 aw gradWord = .go ∧ heldWords twinned = 0 ∧ leadOf twinned 0 = .twin ∧ twinned.parked = []
    ∧ (getJob twinned 0).map (fun k => (draining twinned k, k.arrS.gated, k.arrS.ended, k.arrS.unheld && decide (k.arrS.earliest ≤ nowCyc twinned))) = some (false, false, false, true) := by
  decide +kernel
theorem test_twin_pair : (after (.aacc 0 gradWord) (after (.ammt 0 aw) twinned)).arr.flying.map (fun f => (f.op, f.mate.isSome)) = [(.ammt, true)]
    ∧ (after (.ammt 0 aw) twinned).arr.flying = [] := by decide +kernel

/-- A semaphore whose granule is poisoned aborts the reader (R130). -/
def badSem : State := { world with poison := [semAddr 7 / 64] }
theorem wit_Windows_semaphore : poisoned badSem (semAddr 7) 8 = true ∧ poisoned world (semAddr 7) 8 = false := by decide +kernel
theorem test_semaphore_abort : (after (.semaphoreRead 7) badSem).rsp = .dataAbort ∧ (after (.semaphoreFetchAdd 7 1) badSem).mem = badSem.mem := by decide +kernel
/-- Class 4 has lost 16 cycles in a row and wins over class 0 (R123). -/
theorem wit_Windows_streak : streak { world with streaks := [(28, 16)] } 3 4 = 16 ∧ (0x11 : BitVec 7).getLsbD 4 = true ∧ (0x11 : BitVec 7).getLsbD 0 = true
    ∧ ¬ (16 ≤ streak { world with streaks := [(28, 16)] } 3 0) := by decide +kernel

/-- A BATCH beside one of its step that is already taken; a descriptor into the staging area. -/
def stepEntry (opc step : Nat) : BitVec 512 := BitVec.ofNat 512 (opc + 9 * 2 ^ 16 + step * 2 ^ 160)
theorem test_batch_taken : (getJob (after (.commandConsume 1 (stepEntry 0x01 6)) granted8) 0).map (fun j => j.taken.map (·.2)) = some [6] := by decide +kernel
theorem wit_Dma_open : dstHeld world (dd 2 raw 64 0 t1Base 5) = false ∧ allOpen world 0 (dmaSpans (dd 2 raw 64 0 t1Base 5)) = true
    ∧ hitsStaging (dd 2 raw 64 0 t1Base 5) = false ∧ hitsStaging (dd 2 raw 64 0 tokBase 5) = true := by decide +kernel
theorem test_dma_staging : (raisedBy (.dmaFill 5) (chanWith (dd 2 raw 64 0 tokBase 5))).map (·.1) = [evProgError] := by decide +kernel

/-- The statement about every step of `InvariantKept` has a state that meets its premise, and a command that ends in a next state. -/
theorem wit_StepKeeps : (match step { world with pending := [.pwrBrakeAssert] } with | .next t => t.pending.isEmpty && t.mem.wf | _ => false) = true := by
  decide +kernel

end Sys2Proof.Tests
end

section
/-! PROOFS. Events: what raising one changes, and what it logs (R382 to R390). -/

namespace Sys2Proof.Machine

/-! ### What an event changes -/

/-- The state without what events write: the event log, the rings, the functions, the ports, what is posted to the hosts
and device memory. -/
def eventless (s : State) : State := { s with evLog := [], rings := [], fns := [], portA := {}, portB := {}, tx := [], mem := {} }

/-- Two states that differ only where events write are the same without it. -/
theorem eq_but_events_iff {s t : State} :
    t = { s with evLog := t.evLog, rings := t.rings, fns := t.fns, portA := t.portA, portB := t.portB, tx := t.tx, mem := t.mem }
      ↔ eventless t = eventless s := by
  constructor
  · intro h; rw [h]; rfl
  · intro h
    exact congrArg (fun u : State => { u with
      evLog := t.evLog, rings := t.rings, fns := t.fns, portA := t.portA, portB := t.portB, tx := t.tx, mem := t.mem }) h

theorem eventFrame.eventless_eq {s t : State} (h : eventFrame s t) : eventless t = eventless s := eq_but_events_iff.1 h.1

theorem eventFrame_refl (s : State) : eventFrame s s :=
  ⟨rfl, fun _ _ => rfl, fun _ => rfl, fun _ => rfl, fun _ => rfl⟩

/-- An update of nothing but the event log and what is posted to the hosts stays in the frame. -/
theorem eventFrame_log_tx {s t : State} (h : eventFrame s t) (l : List Event) (x : List HostTx) :
    eventFrame s { t with evLog := l, tx := x } := by
  have h0 : eventless { t with evLog := l, tx := x } = eventless s := h.eventless_eq
  obtain ⟨-, hm, hr, hf, hp⟩ := h
  exact ⟨eq_but_events_iff.2 h0, hm, hr, hf, hp⟩

theorem eventFrame_hostWrite {s t : State} (h : eventFrame s t) (b : Bool) (a : Nat) (bs : List Byte) (rel : Bool) :
    eventFrame s (hostWrite t b a bs rel) := by
  unfold hostWrite
  split
  · exact h
  · exact eventFrame_log_tx h _ _

theorem length_shadowBytes (s : State) (r : Ring) : (shadowBytes s r).length = 16 := by
  simp [shadowBytes]

/-- What no ring shadows lies outside the 16 bytes of each ring (R368). -/
theorem shadow_outside {s : State} {n a : Nat} (hn : n ∈ s.rings.map Prod.fst) (ha : shadowed s a = false) :
    a < dualBase + 16 * n ∨ dualBase + 16 * n + 16 ≤ a := by
  obtain ⟨kr, hk, rfl⟩ := List.mem_map.1 hn
  have := List.any_eq_false.1 ha kr hk
  simp only [decide_eq_true_eq] at this
  omega

/-- A ring of the module whose producer index, drops and unreported entries change stays in the frame. -/
theorem eventFrame_putRing {s t : State} {n : Nat} {r : Ring} (h : eventFrame s t) (hn : n ∈ s.rings.map Prod.fst)
    (hr : r = { getRing t n with dev := r.dev, drop := r.drop, dropNew := r.dropNew, unrep := r.unrep, unrepAt := r.unrepAt }) :
    eventFrame s (putRing t n r) := by
  have h0 : eventless (putRing t n r) = eventless s := h.eventless_eq
  obtain ⟨-, hm, hg, hf, hp⟩ := h
  refine ⟨eq_but_events_iff.2 h0, fun a ha => ?_, fun m => ?_, hf, hp⟩
  · rw [← hm a ha]
    exact Memory.get_write_outside _ _ _ _ (by rw [length_shadowBytes]; exact shadow_outside hn ha)
  · rw [getRing_putRing]
    split
    · next e => subst e; rw [hr, hg m]
    · exact hg m

@[simp] theorem hostWrite_rings (s : State) (b : Bool) (a : Nat) (bs : List Byte) (rel : Bool) :
    (hostWrite s b a bs rel).rings = s.rings := by
  unfold hostWrite; split <;> rfl

theorem eventFrame_ringWrite {s t : State} {n : Nat} (h : eventFrame s t) (hn : n ∈ s.rings.map Prod.fst) (bs : List Byte) :
    eventFrame s (ringWrite t n bs) := by
  refine eventFrame_putRing (eventFrame_hostWrite h _ _ _ _) hn ?_
  rw [getRing_congr (hostWrite_rings ..)]

theorem eventFrame_evPut {s t : State} {n : Nat} (h : eventFrame s t) (hn : n ∈ s.rings.map Prod.fst) (e : Event) :
    eventFrame s (evPut t n e) := by
  unfold evPut
  dsimp only
  split
  · exact eventFrame_putRing h hn (by rfl)
  · split
    · exact eventFrame_ringWrite h hn _
    · have h1 := eventFrame_ringWrite (eventFrame_putRing (r := { getRing t n with dropNew := 0 }) h hn (by rfl)) hn
      split
      · exact eventFrame_putRing (h1 _) hn (by rfl)
      · exact eventFrame_ringWrite (h1 _) hn _

/-- A port whose event buffer changes stays in the frame. -/
theorem eventFrame_putPort {s t : State} {b : Bool} {q : Port} (h : eventFrame s t)
    (hq : q = { getPort t b with evBuf := q.evBuf, evDropped := q.evDropped, evDropCount := q.evDropCount }) :
    eventFrame s (putPort t b q) := by
  have hx : eventless (putPort t b q) = eventless t := by cases b <;> rfl
  have h0 := hx.trans h.eventless_eq
  obtain ⟨-, hm, hg, hf, hp⟩ := h
  refine ⟨eq_but_events_iff.2 h0, by simpa using hm, fun n => ?_, fun f => ?_, fun c => ?_⟩
  · rw [getRing_congr (putPort_rings t b q)]; exact hg n
  · rw [getFn_congr (putPort_fns t b q)]; exact hf f
  · rw [getPort_putPort]
    split
    · next e => subst e; rw [hq, hp c]
    · exact hp c

theorem eventFrame_evKeep {s t : State} (h : eventFrame s t) (b : Bool) (e : Event) : eventFrame s (evKeep t b e) := by
  unfold evKeep
  dsimp only
  split_ifs
  · exact eventFrame_putPort h (by rfl)
  · exact eventFrame_putPort h (by rfl)
  · exact h

theorem eventFrame_countNoring {s t : State} (h : eventFrame s t) (f k : Nat) :
    eventFrame s (putFn t f { getFn t f with noring := k }) := by
  have h0 : eventless (putFn t f { getFn t f with noring := k }) = eventless s := h.eventless_eq
  obtain ⟨-, hm, hg, hf, hp⟩ := h
  refine ⟨eq_but_events_iff.2 h0, hm, hg, fun m => ?_, hp⟩
  rw [getFn_putFn]
  split
  · next e => subst e; rw [hf m]
  · exact hf m

theorem eventFrame_foldl_evPut {s t : State} (l : List (Nat × Ring)) (h : eventFrame s t) (e : Event)
    (hl : ∀ kr ∈ l, kr.1 ∈ s.rings.map Prod.fst) : eventFrame s (l.foldl (fun s kr => evPut s kr.1 e) t) := by
  induction l generalizing t with
  | nil => exact h
  | cons kr l ih =>
    exact ih (eventFrame_evPut h (hl kr List.mem_cons_self) e) fun x hx => hl x (List.mem_cons_of_mem _ hx)

@[simp] theorem evKeep_rings (s : State) (b : Bool) (e : Event) : (evKeep s b e).rings = s.rings := by
  unfold evKeep
  dsimp only
  split_ifs <;> simp

/-- Raising an event changes nothing but what events may. -/
theorem eventFrame_raiseE (s : State) (e : Event) : eventFrame s (raiseE s e) := by
  have h1 := eventFrame_evKeep (eventFrame_evKeep (eventFrame_log_tx (eventFrame_refl s) (e :: s.evLog) s.tx) false e) true e
  have h2 : ∀ f : Nat × Ring → Bool, eventFrame s ((s.rings.filter f).foldl (fun s kr => evPut s kr.1 e) _) := fun f =>
    eventFrame_foldl_evPut (s.rings.filter f) h1 e fun kr hk => List.mem_map_of_mem (List.mem_filter.1 hk).1
  unfold raiseE
  dsimp only
  simp only [evKeep_rings]
  split
  · exact eventFrame_countNoring (h2 _) _ _
  · exact h2 _

/-! ### What an event logs -/

@[simp] theorem hostWrite_evLog (s : State) (b : Bool) (a : Nat) (bs : List Byte) (rel : Bool) :
    (hostWrite s b a bs rel).evLog = s.evLog := by
  unfold hostWrite; split <;> rfl

@[simp] theorem ringWrite_evLog (s : State) (n : Nat) (bs : List Byte) : (ringWrite s n bs).evLog = s.evLog := by
  simp [ringWrite]

@[simp] theorem evPut_evLog (s : State) (n : Nat) (e : Event) : (evPut s n e).evLog = s.evLog := by
  unfold evPut
  dsimp only
  split_ifs <;> simp

@[simp] theorem evKeep_evLog (s : State) (b : Bool) (e : Event) : (evKeep s b e).evLog = s.evLog := by
  unfold evKeep
  dsimp only
  split_ifs <;> simp

@[simp] theorem raiseE_evLog (s : State) (e : Event) : (raiseE s e).evLog = e :: s.evLog := by
  unfold raiseE
  dsimp only
  have hfold : ∀ (l : List (Nat × Ring)) (t : State), (l.foldl (fun s kr => evPut s kr.1 e) t).evLog = t.evLog :=
    foldl_field (fun t => t.evLog) _ fun t kr => evPut_evLog t kr.1 e
  split_ifs <;> simp [hfold]

theorem raises_raiseE (s : State) (e : Event) : raises s (raiseE s e) e.code e.detail :=
  ⟨[e], raiseE_evLog s e, e, List.mem_singleton_self e, rfl, rfl⟩

/-- The bus response is no part of what events change. -/
theorem eventFrame_rsp {s t : State} (h : eventFrame s t) (r : BusRsp) : eventFrame { s with rsp := r } { t with rsp := r } := by
  have h0 : eventless { t with rsp := r } = eventless { s with rsp := r } :=
    congrArg (fun u : State => { u with rsp := r }) h.eventless_eq
  obtain ⟨-, hm, hr, hf, hp⟩ := h
  exact ⟨eq_but_events_iff.2 h0, hm, hr, hf, hp⟩

end Sys2Proof.Machine
end

section
/-! PROOFS. Register accesses: reads and writes by right, and what each register's block does with a write (R453, R499, R500). -/

namespace Sys2Proof.Machine

/-! ### Accesses by right -/

theorem progError_effect (s : State) (w : Who) (off : Nat) :
    eventFrame s (progError s w off) ∧ raises s (progError s w off) evProgError [off] :=
  ⟨eventFrame_raiseE s _, raises_raiseE s _⟩

theorem noAuth_effect (s : State) (w : Who) (off : Nat) :
    eventFrame s (noAuth s w off) ∧ raises s (noAuth s w off) evSecAuth [off, whoFn w] :=
  ⟨eventFrame_raiseE s _, raises_raiseE s _⟩

/-- A command that does `f` under a right of the register at `off` (R453). -/
theorem byRight_of_withAuth {c : Instr} {s : State} {ok : Bool} {w : Who} {off : Nat} {f : State → State} {eff : State → Prop}
    (hc : exec c s = .next (withAuth s ok w off f)) (hf : reaches s w = true → ok = true → eff (f s)) :
    byRight c s ok w off eff := by
  refine ⟨fun hr ho => ⟨_, hc, ?_⟩, fun hr ho => ⟨_, hc, ?_⟩, fun hr => ?_⟩
  · simpa [withAuth, hr, ho] using hf hr ho
  · simpa [withAuth, hr, ho] using noAuth_effect s w off
  · rw [hc]; simp [withAuth, hr]

/-- What an access of a register with a right and a range of values answers: the state `u`, or a programming error. -/
def rangeEffect (s u : State) (off : Nat) (ok : Bool) (t : State) : Prop :=
  (ok = true → t = u) ∧ (ok = false → eventFrame s t ∧ raises s t evProgError [off])

/-- Where the range takes every value, the right alone guards the write. -/
theorem ranged_true (s : State) (a : RegWr) (right : Bool) (f : State → State) :
    ranged s a right true f = withAuth s right a.w a.o f := by
  simp only [ranged, if_true]

/-- A command that writes a register under a right and a range of values (R453, R500). -/
theorem byRight_of_ranged {c : Instr} {s : State} {a : RegWr} {right ok : Bool} {f : State → State}
    (hc : exec c s = .next (ranged s a right ok f)) : byRight c s right a.w a.o (rangeEffect s (f s) a.o ok) := by
  refine byRight_of_withAuth hc fun _ _ => ⟨fun h => if_pos h, fun h => ?_⟩
  simpa [h] using progError_effect s a.w a.o

/-! ### Register writes -/

theorem exec_registerWrite (w : Who) (off : BitVec 24) (size : Byte) (v : W64) (s : State) :
    exec (.registerWrite w off size v) s = .next (regWrite s w off.toNat size.toNat v.toNat) := rfl

theorem toNat_eq_four_iff (size : Byte) : size.toNat = 4 ↔ size = 4 :=
  ⟨fun h => BitVec.eq_of_toNat_eq h, fun h => by rw [h]; rfl⟩

theorem toNat_eq_eight_iff (size : Byte) : size.toNat = 8 ↔ size = 8 :=
  ⟨fun h => BitVec.eq_of_toNat_eq h, fun h => by rw [h]; rfl⟩

theorem accessOk_eq_false_iff (off : Nat) (size : Byte) :
    accessOk off size.toNat = false ↔ (size ≠ 4 ∧ size ≠ 8) ∨ off % size.toNat ≠ 0 := by
  simp [accessOk, toNat_eq_four_iff, toNat_eq_eight_iff, Classical.or_iff_not_imp_left]

theorem accessOk_eq_true_iff (off : Nat) (size : Byte) :
    accessOk off size.toNat = true ↔ ¬ ((size ≠ 4 ∧ size ≠ 8) ∨ off % size.toNat ≠ 0) := by
  rw [← accessOk_eq_false_iff, Bool.not_eq_false]

theorem regWrite_of_not_reaches {s : State} {w : Who} (h : reaches s w = false) (off size v : Nat) :
    regWrite s w off size v = s := by
  simp [regWrite, h]

theorem regWrite_of_not_accessOk {s : State} {w : Who} {off size : Nat} (hr : reaches s w = true)
    (ha : accessOk off size = false) (v : Nat) : regWrite s w off size v = progError s w off := by
  simp [regWrite, hr, ha]

/-- The write that an access makes of the register at its offset: an access of 4 bytes keeps the other half (R499). -/
def accessWrite (s : State) (w : Who) (off size v : Nat) : RegWr :=
  let old := regVal s w (off / 8 * 8)
  let lo : Bool := size == 8 || off % 8 == 0
  let hi : Bool := size == 8 || off % 8 == 4
  { w := w, o := off / 8 * 8, lo := lo, hi := hi
    v := (if lo then v % 2 ^ 32 else old % 2 ^ 32)
      + 2 ^ 32 * (if size = 8 then v / 2 ^ 32 % 2 ^ 32 else if hi then v % 2 ^ 32 else old / 2 ^ 32) }

theorem regWrite_of_accessOk {s : State} {w : Who} {off size : Nat} (hr : reaches s w = true) (ha : accessOk off size = true)
    (v : Nat) : regWrite s w off size v = blockWrite s (accessWrite s w off size v) := by
  simp only [regWrite, hr, ha, Bool.not_true, Bool.false_eq_true, if_false]
  rfl

/-- A write that covers a whole register. -/
def wholeWrite (w : Who) (o : Nat) (v : W64) : RegWr := { w := w, o := o, v := v.toNat, lo := true, hi := true }

theorem accessWrite_eight (s : State) (w : Who) {o : Nat} (ho : o % 8 = 0) (v : W64) :
    accessWrite s w o 8 v.toNat = wholeWrite w o v := by
  have hx : v.toNat % 2 ^ 32 + 2 ^ 32 * (v.toNat / 2 ^ 32 % 2 ^ 32) = v.toNat := by omega
  have hb : o / 8 * 8 = o := by omega
  simp only [accessWrite, wholeWrite, hb, hx, beq_self_eq_true, Bool.true_or, if_true]

/-- A write of 4 bytes changes the half that it covers. -/
theorem accessWrite_half_v (s : State) (w : Who) {o : Nat} (ho : o % 8 = 0) (hi : Bool) (v : Nat) :
    (accessWrite s w (o + 4 * b2n hi) 4 v).v =
      if hi then regVal s w o % 2 ^ 32 + v % 2 ^ 32 * 2 ^ 32 else v % 2 ^ 32 + regVal s w o / 2 ^ 32 * 2 ^ 32 := by
  cases hi with
  | false =>
    have hb : o / 8 * 8 = o := by omega
    simp [accessWrite, b2n, hb, ho, Nat.mul_comm]
  | true =>
    have hb : (o + 4) / 8 * 8 = o := by omega
    have hm : (o + 4) % 8 = 4 := by omega
    simp [accessWrite, b2n, hb, hm, Nat.mul_comm]

/-- A write that its register's block guards by a right and a range: the command is what the block does with it. -/
theorem exec_registerWrite_ranged {s : State} {w : Who} {off : Nat} {size : Byte} {v : W64} {a : RegWr} {right ok : Bool}
    {f : State → State} (hlt : off < 2 ^ 24) (ha : accessOk off size.toNat = true)
    (he : accessWrite s w off size.toNat v.toNat = a) (hb : blockWrite s a = ranged s a right ok f) :
    exec (.registerWrite w (BitVec.ofNat 24 off) size v) s = .next (ranged s a right ok f) := by
  rw [exec_registerWrite, BitVec.toNat_ofNat, Nat.mod_eq_of_lt hlt]
  cases hr : reaches s w with
  | false => subst he; rw [regWrite_of_not_reaches hr]; simp [ranged, withAuth, accessWrite, hr]
  | true => rw [regWrite_of_accessOk hr ha, he, hb]

/-- A write of 8 bytes, guarded so, does what `rangeEffect` says. -/
theorem byRight_write {s u : State} {w : Who} {o : Nat} {v : W64} {right ok : Bool} {f : State → State} (ho : o % 8 = 0)
    (hlt : o < 2 ^ 24) (hb : blockWrite s (wholeWrite w o v) = ranged s (wholeWrite w o v) right ok f) (hu : f s = u) :
    byRight (.registerWrite w (BitVec.ofNat 24 o) 8 v) s right w o (rangeEffect s u o ok) := by
  subst hu
  exact byRight_of_ranged (a := wholeWrite w o v)
    (exec_registerWrite_ranged hlt (by simp [accessOk, ho]) (accessWrite_eight s w ho v) hb)

/-! ### Which block an offset lies in -/

theorem blockWrite_pwr (s : State) (a : RegWr) (h : 0x4000 ≤ a.o ∧ a.o < 0x5000) : blockWrite s a = pwrWr s a := by
  simp (disch := omega) only [blockWrite, if_neg, if_pos]

theorem blockWrite_tim (s : State) (a : RegWr) (h : 0x6000 ≤ a.o ∧ a.o < 0x7000) : blockWrite s a = timWr s a := by
  simp (disch := omega) only [blockWrite, if_neg, if_pos]

theorem blockWrite_lnk (s : State) (a : RegWr) (h : 0x7000 ≤ a.o ∧ a.o < 0x8000) : blockWrite s a = lnkWr s a := by
  simp (disch := omega) only [blockWrite, if_neg, if_pos]

theorem blockWrite_dma (s : State) (a : RegWr) (h : 0x3000 ≤ a.o ∧ a.o < 0x4000) : blockWrite s a = dmaWr s a := by
  simp (disch := omega) only [blockWrite, if_neg, if_pos]

theorem blockWrite_tier (s : State) (a : RegWr) (h : 0x9000 ≤ a.o ∧ a.o < 0xA000) : blockWrite s a = tierWr s a := by
  simp (disch := omega) only [blockWrite, if_neg, if_pos]

theorem blockWrite_row (s : State) (a : RegWr) (h : 0xA000 ≤ a.o ∧ a.o < 0xB000) : blockWrite s a = rowWr s a := by
  simp (disch := omega) only [blockWrite, if_neg, if_pos]

theorem blockWrite_rng (s : State) (a : RegWr) (h : 0x100000 ≤ a.o ∧ a.o < 0x200000) : blockWrite s a = rngWr s a := by
  simp (disch := omega) only [blockWrite, if_neg, if_pos]

theorem blockWrite_frost (s : State) (a : RegWr) (h : 0x404000 ≤ a.o ∧ a.o < 0x404140) : blockWrite s a = frostWr s a := by
  simp (disch := omega) only [blockWrite, ctrWr, if_neg, if_pos]

/-- Where no block takes writes (R500). -/
theorem blockWrite_readOnly (s : State) (a : RegWr)
    (h : a.o < 0x1000 ∨ (0x5000 ≤ a.o ∧ a.o < 0x6000) ∨ (0x8000 ≤ a.o ∧ a.o < 0x9000) ∨ (0xD000 ≤ a.o ∧ a.o < 0x100000)
      ∨ (0x200000 ≤ a.o ∧ a.o < 0x305000) ∨ (0x305100 ≤ a.o ∧ a.o < 0x400000)) : blockWrite s a = s := by
  rcases h with h | h | h | h | h | h <;> simp (disch := omega) only [blockWrite, if_neg, if_pos]

/-! ### Register reads -/

/-- The part of a register's 64 bits that an access reads (R499). -/
def readPart (off : Nat) (size : Byte) (v : Nat) : Nat :=
  if size = 8 then v else if off % 8 = 0 then v % 2 ^ 32 else v / 2 ^ 32 % 2 ^ 32

/-- Whether the register at an offset has an RS bit (R9). -/
def hasReadClear (o : Nat) : Prop :=
  o = 0xB048 ∨ o = 0xB060 ∨ o = 0xC028 ∨ (0x404000 ≤ o ∧ o < 0x404140 ∧ o % 0x40 = 0x10)

theorem readClears_of_not (s : State) {o : Nat} (h : ¬ hasReadClear o) : readClears s o = s := by
  simp only [hasReadClear, not_or] at h
  obtain ⟨h1, h2, h3, h4⟩ := h
  simp only [readClears, if_neg h1, if_neg h2, if_neg h3, if_neg h4]

theorem readClears_mailbox (s : State) {o : Nat} (h : o = 0xB048) :
    readClears s o = { s with sec := { s.sec with mbDone := false } } := by
  simp only [readClears, if_pos h]

theorem readClears_attestation (s : State) {o : Nat} (h : o = 0xB060) :
    readClears s o = { s with sec := { s.sec with attDone := false } } := by
  simp (disch := omega) only [readClears, if_pos h, if_neg]

theorem readClears_almanac (s : State) {o : Nat} (h : o = 0xC028) : readClears s o = { s with almDone := false } := by
  simp (disch := omega) only [readClears, if_pos h, if_neg]

theorem readClears_frost (s : State) (i : Fin 5) {o : Nat} (h : o = 0x404010 + 0x40 * i.val) :
    readClears s o = putFrost s i { getFrost s i with done := false } := by
  have hi : (o - 0x404000) / 0x40 = i.val := by omega
  have hrs : 0x404000 ≤ o ∧ o < 0x404140 ∧ o % 0x40 = 0x10 := by omega
  simp (disch := omega) only [readClears, hi, if_pos hrs, if_neg]

theorem regRead_of_not_reaches {s : State} {w : Who} (h : reaches s w = false) (off size : Nat) : regRead s w off size = s := by
  simp [regRead, h]

theorem regRead_of_not_accessOk {s : State} {w : Who} {off size : Nat} (hr : reaches s w = true)
    (ha : accessOk off size = false) : regRead s w off size = { progError s w off with rsp := .data 0 } := by
  simp [regRead, hr, ha]

theorem regRead_of_not_canRead {s : State} {w : Who} {off size : Nat} (hr : reaches s w = true)
    (ha : accessOk off size = true) (hc : canRead s w (off / 8 * 8) = false) :
    regRead s w off size = { noAuth s w off with rsp := .data 0 } := by
  simp [regRead, hr, ha, hc]

/-- The state with the answer of a read by right. -/
def readAnswer (s : State) (w : Who) (off : Nat) (size : Byte) : State :=
  { s with rsp := .data (readPart off size (regVal s w (off / 8 * 8))) }

/-- A read by right answers the part of the register that it names, and the read of its low half clears its RS bits. -/
theorem regRead_of_canRead {s : State} {w : Who} {off : Nat} {size : Byte} (hr : reaches s w = true)
    (ha : accessOk off size.toNat = true) (hc : canRead s w (off / 8 * 8) = true) :
    regRead s w off size.toNat =
      if off % 8 = 0 then readClears (readAnswer s w off size) (off / 8 * 8) else readAnswer s w off size := by
  simp [regRead, hr, ha, hc, readPart, readAnswer, toNat_eq_eight_iff]

theorem regRead_of_low {s : State} {w : Who} {off : Nat} {size : Byte} (hr : reaches s w = true)
    (ha : accessOk off size.toNat = true) (hc : canRead s w (off / 8 * 8) = true) (hlow : off % 8 = 0) :
    regRead s w off size.toNat = readClears (readAnswer s w off size) (off / 8 * 8) := by
  rw [regRead_of_canRead hr ha hc, if_pos hlow]

/-- A read that meets no RS bit changes nothing but the answer. -/
theorem regRead_of_no_readClear {s : State} {w : Who} {off : Nat} {size : Byte} (hr : reaches s w = true)
    (ha : accessOk off size.toNat = true) (hc : canRead s w (off / 8 * 8) = true)
    (hrs : ¬ hasReadClear (off / 8 * 8) ∨ off % 8 = 4) : regRead s w off size.toNat = readAnswer s w off size := by
  rw [regRead_of_canRead hr ha hc]
  split
  · next hlow => exact readClears_of_not _ (hrs.resolve_right (by omega))
  · rfl

theorem getFrost_putFrost_same {s : State} {i : Nat} (f : Frost) (hi : i < s.isl.frost.length) : getFrost (putFrost s i f) i = f :=
  nth_setNth_same _ s.isl.frost i f hi

/-! ### The registers that a write by right fills -/

theorem blockWrite_wait (s : State) (a : RegWr) (ho : a.o = 0x4010) :
    blockWrite s a = ranged s a (operatorOk s a.w) (decide (1 ≤ bits 13 0 a.v ∧ bits 13 0 a.v ≤ 10000))
      fun s => { s with pwr := { s.pwr with wait := bits 13 0 a.v } } := by
  rw [blockWrite_pwr s a (by omega)]
  unfold pwrWr
  simp only [ho]

theorem blockWrite_limit (s : State) (a : RegWr) (ho : a.o = 0x4018) :
    blockWrite s a = ranged s a (if 950 < bits 10 0 a.v then stewardOk s a.w else operatorOk s a.w)
      (decide (300 ≤ bits 10 0 a.v ∧ bits 10 0 a.v ≤ 1150)) fun s => { s with pwr := { s.pwr with limit := bits 10 0 a.v } } := by
  rw [blockWrite_pwr s a (by omega)]
  unfold pwrWr
  simp only [ho]

theorem blockWrite_timeSource (s : State) (a : RegWr) (ho : a.o = 0x6008) :
    blockWrite s a = ranged s a (operatorOk s a.w) true fun s => { s with tim := { s.tim with src := bits 1 0 a.v } } := by
  rw [blockWrite_tim s a (by omega), ranged_true]
  unfold timWr
  simp only [ho]

theorem blockWrite_ptmInterval (s : State) (a : RegWr) (ho : a.o = 0x6020) :
    blockWrite s a = ranged s a (operatorOk s a.w) (decide (1 ≤ bits 9 0 a.v ∧ bits 9 0 a.v ≤ 1000))
      fun s => { s with tim := { s.tim with ptmInt := bits 9 0 a.v } } := by
  rw [blockWrite_tim s a (by omega)]
  unfold timWr
  simp only [ho]

theorem blockWrite_lead (s : State) (a : RegWr) (ho : a.o = 0x6038) :
    blockWrite s a = ranged s a (operatorOk s a.w) (decide (1000 ≤ bits 16 0 a.v ∧ bits 16 0 a.v ≤ 100000))
      fun s => { s with tim := { s.tim with lead := bits 16 0 a.v } } := by
  rw [blockWrite_tim s a (by omega)]
  unfold timWr
  simp only [ho]

theorem blockWrite_weights (s : State) (a : RegWr) (ho : a.o = 0x7000) :
    blockWrite s a = ranged s a (stewardOk s a.w) (decide (1 ≤ bits 3 0 a.v ∧ 1 ≤ bits 7 4 a.v))
      fun s => { s with fabr := { s.fabr with vcwC := bits 3 0 a.v, vcwB := bits 7 4 a.v } } := by
  rw [blockWrite_lnk s a (by omega)]
  unfold lnkWr
  simp only [ho]

theorem regVal_frostTarget (s : State) (w : Who) (i : Fin 5) : regVal s w (frostOff i + 8) = (getFrost s i).target := by
  have hd : (frostOff i + 8 - 0x400000 - 0x4000) / 0x40 = i.val := by simp only [frostOff]; omega
  have hm : (frostOff i + 8 - 0x400000 - 0x4000) % 0x40 = 8 := by simp only [frostOff]; omega
  have h1 : 0x404000 ≤ frostOff i + 8 ∧ frostOff i + 8 < 0x404140 := by simp only [frostOff]; omega
  have hv : regVal s w (frostOff i + 8) = frostVal s (frostOff i + 8 - 0x400000 - 0x4000) := by
    simp (disch := omega) only [regVal, ctrVal, if_neg, if_pos]
  rw [hv]
  simp only [frostVal, hd, hm]

theorem blockWrite_frostTarget (s : State) (a : RegWr) (i : Fin 5) (ho : a.o = frostOff i + 8) :
    blockWrite s a = ranged s a (frostOk s a.w i) true fun s => putFrost s i { getFrost s i with target := a.v } := by
  simp only [frostOff] at ho
  have hd : (a.o - 0x404000) / 0x40 = i.val := by omega
  have hm : (a.o - 0x404000) % 0x40 = 8 := by omega
  rw [blockWrite_frost s a (by omega), ranged_true]
  unfold frostWr
  simp only [hd, hm]

theorem blockWrite_tdir (s : State) (a : RegWr) (p : Part) (ho : a.o = 0xA000 + 0x40 * p.toNat) :
    blockWrite s a = ranged s a (partOk s a.w p.toNat)
      (!nth false s.tierLock p.toNat && (bits 63 30 a.v * 2 ^ 30 == 0 || inTier s p 1 (bits 63 30 a.v * 2 ^ 30) (2 ^ 29)))
      fun s => { s with tdir := setNth s.tdir p.toNat (bits 63 30 a.v * 2 ^ 30) } := by
  have hp : (a.o - 0xA000) / 0x40 = p.toNat := by omega
  have hn : ¬ (4 ≤ p.toNat ∨ a.o % 0x40 ≠ 0) := by omega
  rw [blockWrite_row s a (by omega)]
  simp only [rowWr, hp, if_neg hn, BitVec.ofNat_toNat, BitVec.setWidth_eq]

/-- A window's base or size, as the write of one of its two registers leaves the pair. -/
def newWin (old : Nat × Nat) (size : Bool) (v : Nat) : Nat × Nat :=
  if size then (old.1, bits 15 0 v) else (bits 63 30 v * 2 ^ 30, old.2)

theorem blockWrite_window (s : State) (a : RegWr) (p : Part) (k : Fin 3) (size : Bool) (hlo : a.lo = true)
    (ho : a.o = 0x9000 + 0x100 * p.toNat + 16 * k.val + 8 * b2n size) :
    blockWrite s a = ranged s a (partOk s a.w p.toNat)
      (!nth false s.tierLock p.toNat && winOk s p.toNat k (newWin (tabGet (0, 0) s.wins (4 * p.toNat + k)) size a.v))
      fun s' => { s' with wins := tabSet s'.wins (4 * p.toNat + k) (newWin (tabGet (0, 0) s.wins (4 * p.toNat + k)) size a.v) } := by
  have hb : b2n size ≤ 1 := by cases size <;> decide
  have hp : (a.o - 0x9000) / 0x100 = p.toNat := by omega
  have hk : (a.o - 0x9000) % 0x100 / 16 = k.val := by omega
  have hm : (a.o - 0x9000) % 0x100 % 16 = 8 * b2n size := by omega
  have hr : (a.o - 0x9000) % 0x100 < 0x30 := by omega
  rw [blockWrite_tier s a (by omega)]
  simp only [tierWr, hp, hk, hm, if_pos hr, if_neg (show ¬ 4 ≤ p.toNat by omega), hlo]
  cases size <;> simp [b2n, newWin]

theorem blockWrite_channel (s : State) (a : RegWr) (c : Byte) (hlo : a.lo = true) (ho : a.o = 0x3000 + 16 * c.toNat) :
    blockWrite s a = ranged s a (partOk s a.w (getChan s c.toNat).part.toNat && partOk s a.w (bits 1 0 a.v))
      (!(getChan s c.toNat).plan && (chanBound s c.toNat).isNone && bits 5 4 a.v != 3)
      fun s' => putChan s' c.toNat { getChan s c.toNat with
        part := BitVec.ofNat 2 (bits 1 0 a.v), use := bits 5 4 a.v, dcq := bits 29 16 a.v } := by
  have hc : (a.o - 0x3000) / 16 = c.toNat := by omega
  have hm : a.o % 16 = 0 := by omega
  rw [blockWrite_dma s a (by omega)]
  simp [dmaWr, hc, hm, hlo]

theorem blockWrite_ring (s : State) (a : RegWr) (n : RingNum) (o : Nat) (hreg : o = 0 ∨ o = 8 ∨ o = 0x18)
    (ho : a.o = rngOff n.toNat + o) :
    blockWrite s a = ranged s a (ringRight s a.w (getRing s n.toNat)) (!(getRing s n.toNat).enable)
      fun s' => putRing s' n.toNat (rngAttr (getRing s n.toNat) o a.v) := by
  simp only [rngOff] at ho
  have hn : (a.o - 0x100000) / 0x40 = n.toNat := by omega
  have hm : a.o % 0x40 = o := by omega
  rw [blockWrite_rng s a (by omega)]
  simp only [rngWr, hn, hm, if_pos hreg, if_neg (show ¬ o = 0x10 by omega)]

theorem rngOff_range (n : RingNum) : rngOff n.toNat % 0x40 = 0 ∧ rngOff n.toNat < 0x200000 := by
  simp only [rngOff]; omega

theorem frostOff_range (i : Fin 5) : frostOff i % 0x40 = 0 ∧ frostOff i < 0x404140 := by
  simp only [frostOff]; omega

/-- The write of one half of a Frost set's target keeps the other half (R499). -/
theorem byRight_write_frostHalf (s : State) (w : Who) (v : W64) (i : Fin 5) (hi : Bool) :
    byRight (.registerWrite w (BitVec.ofNat 24 (frostOff i + 8 + 4 * b2n hi)) 4 v) s (frostOk s w i) w (frostOff i + 8) fun t =>
      t = putFrost s i { getFrost s i with
        target := if hi then (getFrost s i).target % 2 ^ 32 + v.toNat % 2 ^ 32 * 2 ^ 32
          else v.toNat % 2 ^ 32 + (getFrost s i).target / 2 ^ 32 * 2 ^ 32 } := by
  have hb : b2n hi ≤ 1 := by cases hi <;> decide
  have hf := frostOff_range i
  have hm : (frostOff i + 8 + 4 * b2n hi) % 4 = 0 := by omega
  have ha : accessOk (frostOff i + 8 + 4 * b2n hi) (4 : Byte).toNat = true := by simp [accessOk, hm]
  have ho : (accessWrite s w (frostOff i + 8 + 4 * b2n hi) (4 : Byte).toNat v.toNat).o = frostOff i + 8 := by
    simp only [accessWrite]; omega
  have hv := accessWrite_half_v s w (o := frostOff i + 8) (by omega) hi v.toNat
  rw [regVal_frostTarget] at hv
  have h := exec_registerWrite_ranged (by omega) ha rfl (blockWrite_frostTarget s _ i ho)
  rw [ranged_true, ho] at h
  exact byRight_of_withAuth h fun _ _ => congrArg (fun x => putFrost s i { getFrost s i with target := x }) hv

/-- Both read commands read the register. -/
theorem exec_read_of_mem {c : Instr} {w : Who} {off : BitVec 24} {size : Byte} (s : State)
    (hc : c ∈ [Instr.registerRead w off size, Instr.registerReadClear w off size]) :
    exec c s = .next (regRead s w off.toNat size.toNat) := by
  rcases List.mem_pair.1 hc with rfl | rfl <;> rfl

end Sys2Proof.Machine
end

section
/-! PROOFS. The step: which commands answer, and the idle tick (R8, R446, R479). -/

namespace Sys2Proof.Machine

/-- Every command but JTAG_ACCESS answers a next state in every state. -/
theorem exec_answers (c : Instr) (s : State) (h : ∀ i, c ≠ .jtagAccess i) : ∃ t, exec c s = .next t := by
  cases c with
  | jtagAccess i => exact absurd rfl (h i)
  | _ => exact ⟨_, rfl⟩

theorem exec_jtagAccess_of_not_stops (i : JtagInst) (s : State) (h : jtagStops s i = false) :
    exec (.jtagAccess i) s = .next s := by
  change execJtagAccess i s = _
  simp [execJtagAccess, h]

theorem jtagStops_eq_false (s : State) (i : JtagInst)
    (h : (i ≠ .extest ∧ i ≠ .debug) ∨ lkDebug s = false ∨ s.sec.dbg = false) : jtagStops s i = false := by
  rcases h with ⟨hextest, hdebug⟩ | hlocked | hoff
  · simp [jtagStops, hextest, hdebug]
  · simp [jtagStops, debugOn, hlocked]
  · simp [jtagStops, debugOn, hoff]

/-- Power-on time is counted in the Almanac and nowhere else (R449). -/
theorem powerOn_frame (s : State) (n : Nat) : powerOn s n = { s with alm := (powerOn s n).alm } := by
  have hfold : ∀ (l : List Nat) (t : State), l.foldl (fun s _ => lifeSecond s) t
      = { t with alm := (l.foldl (fun s _ => lifeSecond s) t).alm } := by
    intro l
    induction l with
    | nil => intro t; rfl
    | cons _ l ih => intro t; exact ih (lifeSecond t)
  unfold powerOn
  split
  · rfl
  · exact hfold _ _

/-- The tick of an active module: time and the live counters go on, and the Almanac counts (R8, R446, R479). -/
theorem tick_active (s : State) (hon : dom s 62 = .on) (hact : s.pwr.mst = .active) :
    tick s = { s with tim := tickTime s.tim, isl := { s.isl with live := countCycles s.isl.live }, alm := (tick s).alm } := by
  have h : tick s = powerOn { s with tim := tickTime s.tim, isl := { s.isl with live := countCycles s.isl.live } } 5 := by
    simp [tick, hon, hact, whileActive, modLive]
  rw [h]
  exact powerOn_frame _ 5

theorem heldWords_congr {s t : State} (h : t.jobs = s.jobs) : heldWords t = heldWords s := by
  simp only [heldWords, getJob_congr h]

/-- Where no stream holds a word the pump does nothing. -/
theorem pump_of_heldWords_zero (s : State) (h : heldWords s = 0) : pump s = s := by
  unfold pump
  rw [h]
  exact noteHold_all s fun q v k hk => (heldWords_zero h q v k hk).1

theorem tickTime_now_of_no_slew (t : Time) (hs : t.slew = 0) (hn : t.now + 5 < 2 ^ 64) : (tickTime t).now = t.now + 5 := by
  have hd : slewStep t = 0 := by simp [slewStep, hs]
  simp only [tickTime, hd]
  omega

theorem idle_active (s : State) (hw : heldWords s = 0) (hon : dom s 62 = .on) (hact : s.pwr.mst = .active) :
    idle s = { s with tim := tickTime s.tim, isl := { s.isl with live := countCycles s.isl.live }, alm := (tick s).alm } := by
  have ht := tick_active s hon hact
  have hj : (tick s).jobs = s.jobs := by rw [ht]
  rw [idle, pump_of_heldWords_zero _ ((heldWords_congr hj).trans hw), ht]

/-- Settles O1: `exec_answers` for the commands, `idle_active` for the tick. -/
theorem stepRunsFront : Obligations.StepRunsFront := by
  unfold Obligations.StepRunsFront
  refine ⟨fun c rest s h => ?_, fun c s h => ?_, fun s h => ⟨?_, fun hw hon hact hslew hnow hcyc => ?_⟩⟩
  · simp only [step, h]
  · by_cases hj : ∃ i, c = .jtagAccess i
    · obtain ⟨i, rfl⟩ := hj
      exact ⟨s, exec_jtagAccess_of_not_stops i s (jtagStops_eq_false s i (h i rfl))⟩
    · exact exec_answers c s fun i e => hj ⟨i, e⟩
  · simp only [step, h]
  · rw [idle_active s hw hon hact]
    exact ⟨tickTime_now_of_no_slew s.tim hslew hnow, Nat.mod_eq_of_lt hcyc, rfl, rfl, h⟩

end Sys2Proof.Machine
end

section
/-! PROOFS. What the register commands do. -/

namespace Sys2Proof.Machine

/-- Settles O57: the reads by the cases of `regRead`, the writes by what the block of each register does with them. -/
theorem registers : Obligations.Registers := by
  unfold Obligations.Registers
  intro s
  refine ⟨fun w off size c hc => ?_, fun w off size v => ?_, fun w v => ?_⟩
  · have hx := exec_read_of_mem s hc
    have hok := (accessOk_eq_true_iff off.toNat size).2
    refine ⟨fun hr => ?_, fun hr hb => ⟨_, hx, ?_⟩, fun hr hb hn => ⟨_, hx, ?_⟩, fun hr hb hc ho => ?_, fun hr hb hc ho => ?_,
      fun hr hb hc ho => ?_, fun hr hb hc ho => ?_, fun i hr hb hc ho hlen => ⟨_, hx, ?_⟩⟩
    · rw [hx, regRead_of_not_reaches hr]
    · obtain ⟨hframe, hevent⟩ := progError_effect s w off.toNat
      rw [regRead_of_not_accessOk hr ((accessOk_eq_false_iff off.toNat size).2 hb)]
      exact ⟨eventFrame_rsp hframe _, hevent⟩
    · obtain ⟨hframe, hevent⟩ := noAuth_effect s w off.toNat
      rw [regRead_of_not_canRead hr (hok hb) hn]
      exact ⟨eventFrame_rsp hframe _, hevent⟩
    · exact hx.trans (congrArg _ (regRead_of_no_readClear hr (hok hb) hc ho))
    · rw [hx, regRead_of_low hr (hok hb) hc (by omega), readClears_mailbox _ (by omega)]; rfl
    · rw [hx, regRead_of_low hr (hok hb) hc (by omega), readClears_attestation _ (by omega)]; rfl
    · rw [hx, regRead_of_low hr (hok hb) hc (by omega), readClears_almanac _ (by omega)]; rfl
    · rw [regRead_of_low hr (hok hb) hc (by omega), readClears_frost _ i (by omega)]
      exact ⟨rfl, getFrost_putFrost_same _ (lt_of_lt_of_eq i.isLt hlen.symm)⟩
  · refine ⟨fun hr => ?_, fun hr hb => ⟨_, exec_registerWrite w off size v s, ?_⟩, fun ⟨hsize, halign⟩ ho => ?_⟩
    · rw [exec_registerWrite, regWrite_of_not_reaches hr]
    · rw [regWrite_of_not_accessOk hr ((accessOk_eq_false_iff off.toNat size).2 hb)]
      exact progError_effect s w _
    · rw [exec_registerWrite]
      cases hr : reaches s w with
      | false => rw [regWrite_of_not_reaches hr]
      | true =>
        have ha := (accessOk_eq_true_iff off.toNat size).2 (not_or.2 ⟨fun hs => hsize.elim hs.1 hs.2, not_not.2 halign⟩)
        rw [regWrite_of_accessOk hr ha, blockWrite_readOnly _ _ (by simp only [accessWrite]; omega)]
  · refine ⟨?_, ?_, ?_, ?_, ?_, ?_, fun p => ⟨?_, fun k => ⟨?_, ?_⟩⟩, fun c => ?_, fun n => ?_, fun i => ?_⟩
    · exact byRight_write (o := 0x4010) rfl (by decide) (blockWrite_wait s _ rfl) rfl
    · exact byRight_write (o := 0x4018) rfl (by decide) (blockWrite_limit s _ rfl) rfl
    · exact byRight_write (o := 0x6008) rfl (by decide) (blockWrite_timeSource s _ rfl) rfl
    · exact byRight_write (o := 0x6020) rfl (by decide) (blockWrite_ptmInterval s _ rfl) rfl
    · exact byRight_write (o := 0x6038) rfl (by decide) (blockWrite_lead s _ rfl) rfl
    · exact byRight_write (o := 0x7000) rfl (by decide) (blockWrite_weights s _ rfl) rfl
    · exact byRight_write (by omega) (by omega) (blockWrite_tdir s _ p rfl) rfl
    · exact byRight_write (o := 0x9000 + 0x100 * p.toNat + 16 * k.val) (by omega) (by omega)
        (blockWrite_window s _ p k false rfl rfl) rfl
    · exact byRight_write (o := 0x9008 + 0x100 * p.toNat + 16 * k.val) (by omega) (by omega)
        (blockWrite_window s _ p k true rfl (by simp only [wholeWrite, b2n, if_true]; omega)) rfl
    · exact byRight_write (by omega) (by omega) (blockWrite_channel s _ c rfl rfl) rfl
    · have hn := rngOff_range n
      refine ⟨?_, ?_, ?_⟩
      · exact byRight_write (o := rngOff n.toNat + 0) (by omega) (by omega) (blockWrite_ring s _ n 0 (by decide) rfl) rfl
      · exact byRight_write (o := rngOff n.toNat + 8) (by omega) (by omega) (blockWrite_ring s _ n 8 (by decide) rfl) rfl
      · exact byRight_write (o := rngOff n.toNat + 0x18) (by omega) (by omega) (blockWrite_ring s _ n 0x18 (by decide) rfl) rfl
    · have hi := frostOff_range i
      refine ⟨?_, fun hi => ?_⟩
      · exact byRight_write (o := frostOff i + 8) (by omega) (by omega) (blockWrite_frostTarget s _ i rfl) rfl
      · exact byRight_write_frostHalf s w v i hi

end Sys2Proof.Machine
end

section
/-! PROOFS. The number formats: sign and magnitude code, the value of a code, and the rounding that keeps it (R12 to R16,
R23 to R26). -/

namespace Sys2Proof.Machine

/-! ### A float as a sign and a magnitude code -/

/-- The significand of a magnitude code, which is the exponent and fraction fields read as one number: the fraction, with the
hidden bit above it where the exponent field is not 0. -/
def Fmt.sig (f : Fmt) (c : Nat) : Nat := if c / 2 ^ f.fb = 0 then c else 2 ^ f.fb + c % 2 ^ f.fb

/-- The exponent of the last place of a magnitude code. -/
def Fmt.ulp (f : Fmt) (c : Nat) : Int := f.emin - f.fb + (c / 2 ^ f.fb - 1 : Nat)

/-- The number of a sign and a magnitude code. -/
def Fmt.num (f : Fmt) (neg : Bool) (c : Nat) : Num := .fin ((if neg then -1 else 1) * (f.sig c : Int)) (f.ulp c)

theorem Fmt.sig_of_subnormal {f : Fmt} {c : Nat} (h : c / 2 ^ f.fb = 0) : f.sig c = c := if_pos h

theorem Fmt.sig_of_normal {f : Fmt} {c : Nat} (h : c / 2 ^ f.fb ≠ 0) : f.sig c = 2 ^ f.fb + c % 2 ^ f.fb := if_neg h

theorem Fmt.sig_lt (f : Fmt) (c : Nat) : f.sig c < 2 ^ (f.fb + 1) := by
  have hpow : 2 ^ (f.fb + 1) = 2 ^ f.fb + 2 ^ f.fb := by rw [pow_succ, mul_two]
  by_cases h : c / 2 ^ f.fb = 0
  · have := (Nat.div_eq_zero_iff_lt (Nat.two_pow_pos _)).1 h
    rw [Fmt.sig_of_subnormal h]; omega
  · have := Nat.mod_lt c (Nat.two_pow_pos f.fb)
    rw [Fmt.sig_of_normal h]; omega

/-- A magnitude code counts the last places below it: those of the lower binades, and its own significand. -/
theorem Fmt.binades_add_sig (f : Fmt) (c : Nat) : (c / 2 ^ f.fb - 1) * 2 ^ f.fb + f.sig c = c := by
  by_cases h : c / 2 ^ f.fb = 0
  · rw [Fmt.sig_of_subnormal h, h]; omega
  · have hdiv := Nat.div_add_mod' c (2 ^ f.fb)
    rw [← Nat.sub_one_add_one h, add_mul, one_mul] at hdiv
    rw [Fmt.sig_of_normal h, ← add_assoc, hdiv]

theorem Fmt.sig_eq_zero_iff (f : Fmt) (c : Nat) : f.sig c = 0 ↔ c = 0 := by
  by_cases h : c / 2 ^ f.fb = 0
  · rw [Fmt.sig_of_subnormal h]
  · have := Nat.two_pow_pos f.fb
    rw [Fmt.sig_of_normal h]
    refine ⟨by omega, fun e => absurd ?_ h⟩
    rw [e, Nat.zero_div]

/-- A field of a pattern (R6). -/
theorem extractLsb'_eq_bits {n : Nat} (v : BitVec n) (hi lo : Nat) :
    (v.extractLsb' lo (hi + 1 - lo)).toNat = bits hi lo v.toNat := by
  rw [bits, BitVec.extractLsb'_toNat, Nat.shiftRight_eq_div_pow]

/-- Opal32 of a pattern whose exponent field is not all ones (R15). -/
theorem ofOpal_eq_num (v : W32) (h : bits 30 23 v.toNat ≠ 255) :
    ofOpal v = opalFmt.num (bit 31 v.toNat) (v.toNat % 2 ^ 31) := by
  have he : v.toNat % 2 ^ 31 / 2 ^ 23 = bits 30 23 v.toNat := by simp only [bits]; omega
  have hf : v.toNat % 2 ^ 31 % 2 ^ 23 = bits 22 0 v.toNat := by simp only [bits]; omega
  simp only [ofOpal, if_neg h, Fmt.num, Fmt.sig, Fmt.ulp, opalFmt, he, hf]
  split
  · rw [show v.toNat % 2 ^ 31 = bits 22 0 v.toNat by omega]; simp [*]
  · simp only [Num.fin.injEq]; exact ⟨trivial, by omega⟩

/-- Pearl16 of such a pattern (R12). -/
theorem ofPearl_eq_num (v : BitVec 16) (h : bits 14 8 v.toNat ≠ 127) :
    ofPearl v = pearlFmt.num (bit 15 v.toNat) (v.toNat % 2 ^ 15) := by
  have he : v.toNat % 2 ^ 15 / 2 ^ 8 = bits 14 8 v.toNat := by simp only [bits]; omega
  have hf : v.toNat % 2 ^ 15 % 2 ^ 8 = bits 7 0 v.toNat := by simp only [bits]; omega
  simp only [ofPearl, if_neg h, Fmt.num, Fmt.sig, Fmt.ulp, pearlFmt, he, hf]
  split
  · rw [show v.toNat % 2 ^ 15 = bits 7 0 v.toNat by omega]; simp [*]
  · simp only [Num.fin.injEq]; exact ⟨rfl, by omega⟩

/-- Bead8 of every code but void (R14). -/
theorem ofBead_eq_num (v : Byte) (h : v ≠ 0x80) : ofBead v = beadFmt.num (bit 7 v.toNat) (v.toNat % 2 ^ 7) := by
  have hv : v.toNat ≠ 0x80 := fun e => h (BitVec.eq_of_toNat_eq e)
  have he : v.toNat % 2 ^ 7 / 2 ^ 3 = bits 6 3 v.toNat := by simp only [bits]; omega
  have hf : v.toNat % 2 ^ 7 % 2 ^ 3 = bits 2 0 v.toNat := by simp only [bits]; omega
  simp only [ofBead, if_neg hv, Fmt.num, Fmt.sig, Fmt.ulp, beadFmt, he, hf]
  split
  · rw [show v.toNat % 2 ^ 7 = bits 2 0 v.toNat by omega]; simp [*]
  · simp only [Num.fin.injEq]; exact ⟨rfl, by omega⟩

/-! ### The value of a code -/

theorem sign_eq_pow (b : Bool) : ((if b then -1 else 1 : Int) : Rat) = (-1 : Rat) ^ b2n b := by
  cases b <;> simp [b2n]

/-- A code of exponent field `e` at least 1 is a normal number; `x` is its exponent and `d` the number of fractions. -/
theorem Fmt.value_num_normal (f : Fmt) (neg : Bool) (e fr : Nat) (x : Int) (d : Rat) (he : 1 ≤ e) (hfr : fr < 2 ^ f.fb)
    (hx : f.emin + e - 1 = x) (hd : 2 ^ f.fb = d) :
    (f.num neg (e * 2 ^ f.fb + fr)).value = some ((-1 : Rat) ^ b2n neg * 2 ^ x * (1 + fr / d)) := by
  have hdiv : (e * 2 ^ f.fb + fr) / 2 ^ f.fb = e := by
    rw [mul_comm, Nat.mul_add_div (Nat.two_pow_pos _), Nat.div_eq_of_lt hfr, add_zero]
  have hmod : (e * 2 ^ f.fb + fr) % 2 ^ f.fb = fr := by rw [mul_comm, Nat.mul_add_mod, Nat.mod_eq_of_lt hfr]
  have hexp : f.emin - f.fb + ((e - 1 : Nat) : Int) = x - f.fb := by omega
  simp only [Fmt.num, Fmt.sig, Fmt.ulp, hdiv, hmod, if_neg (show e ≠ 0 by omega), Num.value, hexp, Option.some.injEq, ← hd]
  rw [zpow_sub₀ two_ne_zero, Int.cast_mul, sign_eq_pow, zpow_natCast]
  push_cast
  field_simp

/-- A code of exponent field 0 is a subnormal number. -/
theorem Fmt.value_num_subnormal (f : Fmt) (neg : Bool) (fr : Nat) (d : Rat) (hfr : fr < 2 ^ f.fb) (hd : 2 ^ f.fb = d) :
    (f.num neg fr).value = some ((-1 : Rat) ^ b2n neg * 2 ^ f.emin * (fr / d)) := by
  simp only [Fmt.num, Fmt.sig, Fmt.ulp, Nat.div_eq_of_lt hfr, if_true, Num.value, Option.some.injEq, ← hd]
  rw [Int.cast_mul, sign_eq_pow, zpow_add₀ two_ne_zero, zpow_sub₀ two_ne_zero, zpow_natCast]
  simp only [Nat.zero_sub, Nat.cast_zero, zpow_zero, Int.cast_natCast]
  field_simp

/-! ### The patterns of Pearl16 and Opal32 -/

/-- The exponent and fraction fields of a pattern are its magnitude code. -/
theorem opal_fields (v : W32) : v.toNat % 2 ^ 31 = bits 30 23 v.toNat * 2 ^ opalFmt.fb + bits 22 0 v.toNat
    ∧ bits 22 0 v.toNat < 2 ^ opalFmt.fb := by
  simp only [bits, opalFmt]; omega

theorem pearl_fields (v : BitVec 16) : v.toNat % 2 ^ 15 = bits 14 8 v.toNat * 2 ^ pearlFmt.fb + bits 7 0 v.toNat
    ∧ bits 7 0 v.toNat < 2 ^ pearlFmt.fb := by
  simp only [bits, pearlFmt]; omega

theorem bead_fields (v : Byte) : v.toNat % 2 ^ 7 = bits 6 3 v.toNat * 2 ^ beadFmt.fb + bits 2 0 v.toNat
    ∧ bits 2 0 v.toNat < 2 ^ beadFmt.fb := by
  simp only [bits, beadFmt]; omega

theorem b2n_bit (i v : Nat) : b2n (bit i v) = bits i i v := by
  rw [bits, add_tsub_cancel_left, pow_one, bit, b2n]
  split <;> simp_all

/-- The sign of a pattern. -/
theorem extractLsb'_sign {n : Nat} (v : BitVec n) (i : Nat) : (v.extractLsb' i 1).toNat = b2n (bit i v.toNat) := by
  rw [b2n_bit, ← extractLsb'_eq_bits, add_tsub_cancel_left]

theorem b2n_beq_one (b : Bool) : (b2n b == 1) = b := by cases b <;> rfl

/-- Settles O2: `ofPearl_eq_num` and `ofOpal_eq_num` give the number, `value_num_normal` and `value_num_subnormal` its value. -/
theorem formatValues : Obligations.FormatValues := by
  unfold Obligations.FormatValues
  refine ⟨fun v => ?_, fun v => ?_⟩
  · obtain ⟨hmag, hfr⟩ := pearl_fields v
    have he : (v.extractLsb' 8 7).toNat = bits 14 8 v.toNat := extractLsb'_eq_bits v 14 8
    have hf : (v.extractLsb' 0 8).toNat = bits 7 0 v.toNat := extractLsb'_eq_bits v 7 0
    simp only [extractLsb'_sign, he, hf, b2n_beq_one]
    refine ⟨fun h1 h2 => ?_, fun h0 => ?_, fun h1 h0 => ?_, fun h1 h0 => ?_⟩
    · rw [ofPearl_eq_num v (by omega), hmag]
      exact Fmt.value_num_normal _ _ _ _ _ _ h1 hfr (by simp only [pearlFmt]; omega) (by norm_num [pearlFmt])
    · rw [ofPearl_eq_num v (by omega), hmag, h0, zero_mul, zero_add]
      exact Fmt.value_num_subnormal _ _ _ _ hfr (by norm_num [pearlFmt])
    · simp only [ofPearl, h1, h0, if_true]
    · simp only [ofPearl, h1, if_true, if_neg h0]
  · obtain ⟨hmag, hfr⟩ := opal_fields v
    have he : (v.extractLsb' 23 8).toNat = bits 30 23 v.toNat := extractLsb'_eq_bits v 30 23
    have hf : (v.extractLsb' 0 23).toNat = bits 22 0 v.toNat := extractLsb'_eq_bits v 22 0
    simp only [extractLsb'_sign, he, hf, b2n_beq_one]
    refine ⟨fun h1 h2 => ?_, fun h0 => ?_, fun h1 h0 => ?_, fun h1 h0 => ?_⟩
    · rw [ofOpal_eq_num v (by omega), hmag]
      exact Fmt.value_num_normal _ _ _ _ _ _ h1 hfr (by simp only [opalFmt]; omega) rfl
    · rw [ofOpal_eq_num v (by omega), hmag, h0, zero_mul, zero_add]
      exact Fmt.value_num_subnormal _ _ _ _ hfr rfl
    · simp only [ofOpal, h1, h0, if_true]
    · simp only [ofOpal, h1, if_true, if_neg h0]

/-! ### Bead8 -/

/-- A Bead8 number is at most fifteen units of 2^2, and zero only of the code 0. -/
theorem beadNum_bounds (neg : Bool) (c : Nat) (hc : c < 2 ^ 7) :
    ∃ x : Rat, (beadFmt.num neg c).value = some x ∧ -60 ≤ x ∧ x ≤ 60 ∧ (x = 0 → c = 0) := by
  have hsig : (beadFmt.sig c : Rat) ≤ 15 := by
    have := beadFmt.sig_lt c
    exact_mod_cast (by simp only [beadFmt] at *; omega : beadFmt.sig c ≤ 15)
  have hulp : (2 : Rat) ^ beadFmt.ulp c ≤ 2 ^ (2 : Int) :=
    zpow_le_zpow_right₀ one_le_two (by simp only [Fmt.ulp, beadFmt]; omega)
  have hpos : (0 : Rat) < 2 ^ beadFmt.ulp c := zpow_pos two_pos _
  have hmag : (beadFmt.sig c : Rat) * 2 ^ beadFmt.ulp c ≤ 15 * 2 ^ (2 : Int) :=
    mul_le_mul hsig hulp hpos.le (by norm_num)
  have hnonneg : 0 ≤ (beadFmt.sig c : Rat) * 2 ^ beadFmt.ulp c := by positivity
  refine ⟨_, rfl, ?_⟩
  rw [Int.cast_mul, mul_assoc, Int.cast_natCast]
  have hzero : (beadFmt.sig c : Rat) * 2 ^ beadFmt.ulp c = 0 → c = 0 := fun h =>
    (beadFmt.sig_eq_zero_iff c).1 (by exact_mod_cast (mul_eq_zero.1 h).resolve_right hpos.ne')
  norm_num at hmag
  cases neg
  · simp only [Bool.false_eq_true, if_false, Int.cast_one, one_mul]
    exact ⟨by linarith, hmag, hzero⟩
  · simp only [if_true, Int.cast_neg, Int.cast_one, neg_one_mul]
    exact ⟨by linarith, by linarith, fun h => hzero (neg_eq_zero.1 h)⟩

/-- Settles O3: `ofBead_eq_num` gives the number, `beadNum_bounds` its range. -/
theorem beadValues : Obligations.BeadValues := by
  unfold Obligations.BeadValues
  refine ⟨rfl, ?_, fun v hv => ?_⟩
  · rw [show ofBead 0x7F = .fin 15 2 by decide]
    norm_num [Num.value]
  · obtain ⟨hmag, hfr⟩ := bead_fields v
    have he : (v.extractLsb' 3 4).toNat = bits 6 3 v.toNat := extractLsb'_eq_bits v 6 3
    have hf : (v.extractLsb' 0 3).toNat = bits 2 0 v.toNat := extractLsb'_eq_bits v 2 0
    simp only [extractLsb'_sign, he, hf, ofBead_eq_num v hv]
    refine ⟨fun h1 => ?_, fun h0 => ?_, rfl, ?_⟩
    · rw [hmag]
      exact Fmt.value_num_normal _ _ _ _ _ _ h1 hfr (by simp only [beadFmt]; omega) (by norm_num [beadFmt])
    · rw [hmag, h0, zero_mul, zero_add]
      exact Fmt.value_num_subnormal _ _ _ _ hfr (by norm_num [beadFmt])
    · obtain ⟨x, hx, hlo, hhi, hzero⟩ := beadNum_bounds (bit 7 v.toNat) (v.toNat % 2 ^ 7) (Nat.mod_lt _ (by decide))
      refine ⟨x, hx, hlo, hhi, fun h => ?_⟩
      have hv' : v.toNat ≠ 0x80 := fun e => hv (BitVec.eq_of_toNat_eq e)
      have := hzero h
      exact BitVec.eq_of_toNat_eq (by simp; omega)

/-! ### Rounding a value that the format holds -/

/-- A whole number of units of 2^u rounds to itself, whichever rounding is used (R24, R25). -/
theorem Mag.roundAt_dy (u : Int) (rnd : Rnd) (m : Nat) : (Mag.dy m u).roundAt u rnd = m := by
  have hk : u - (u - 12) = 12 := by omega
  have hfloor : (Mag.dy m u).floorAt (u - 12) = (m * 4096, true) := by
    simp [Mag.floorAt, hk]
  cases rnd <;> simp [Mag.roundAt, hfloor]

/-- The exponent at which the magnitude of a code is rounded is that of its binade, the smallest one below the normal range. -/
theorem Fmt.roundingExp_sig (f : Fmt) {c : Nat} (hc : c ≠ 0) :
    (if f.emin ≤ (Mag.dy (f.sig c) (f.ulp c)).log2 then (Mag.dy (f.sig c) (f.ulp c)).log2 else f.emin)
      = f.emin + (c / 2 ^ f.fb - 1 : Nat) := by
  have hsig : f.sig c ≠ 0 := mt (f.sig_eq_zero_iff c).1 hc
  by_cases h : c / 2 ^ f.fb = 0
  · have hlt : (f.sig c).log2 < f.fb := (Nat.log2_lt hsig).2 <| by
      rw [Fmt.sig_of_subnormal h]; exact (Nat.div_eq_zero_iff_lt (Nat.two_pow_pos _)).1 h
    simp only [Mag.log2, Fmt.ulp, h]
    rw [if_neg (by omega)]; omega
  · have hlog : (f.sig c).log2 = f.fb := (Nat.log2_eq_iff hsig).2 ⟨by rw [Fmt.sig_of_normal h]; omega, f.sig_lt c⟩
    simp only [Mag.log2, Fmt.ulp, hlog]
    rw [if_pos (by omega)]; omega

/-- The magnitude of a code rounds to that code. -/
theorem Fmt.code_sig (f : Fmt) (rnd : Rnd) (c : Nat) : f.code rnd (.dy (f.sig c) (f.ulp c)) = c := by
  by_cases hc : c = 0
  · have hsig := (f.sig_eq_zero_iff c).2 hc
    subst hc
    simp [Fmt.code, Mag.isZero, hsig]
  · have hsig : f.sig c ≠ 0 := mt (f.sig_eq_zero_iff c).1 hc
    have hulp : f.emin + ((c / 2 ^ f.fb - 1 : Nat) : Int) - f.fb = f.ulp c := by simp only [Fmt.ulp]; omega
    simp only [Fmt.code, Mag.isZero, hsig, decide_false, Bool.false_eq_true, if_false, f.roundingExp_sig hc, hulp,
      Mag.roundAt_dy]
    rw [add_sub_cancel_left, Int.toNat_natCast, f.binades_add_sig]

theorem Fmt.toRes_num (f : Fmt) (neg : Bool) (c : Nat) :
    (f.num neg c).toRes = .fin (neg && decide (c ≠ 0)) (.dy (f.sig c) (f.ulp c)) := by
  have hz := f.sig_eq_zero_iff c
  cases neg
  · simp [Fmt.num, Num.toRes]
  · simp only [Fmt.num, Num.toRes, if_true, Bool.true_and, neg_one_mul, Int.natAbs_neg, Int.natAbs_natCast, Res.fin.injEq,
      and_true, decide_eq_decide]
    omega

/-- A finite Opal32 pattern rounds to itself, that of a negative zero to zero, and counts nothing. -/
theorem toOpalR_ofOpal (rnd : Rnd) (v : W32) (h : bits 30 23 v.toNat ≠ 255) :
    toOpalR rnd (ofOpal v).toRes = (if v.toNat % 2 ^ 31 = 0 then 0 else v, {}) := by
  have hmax : ¬ opalFmt.maxCode < v.toNat % 2 ^ 31 := by simp only [bits] at h; simp only [opalFmt]; omega
  rw [ofOpal_eq_num v h, Fmt.toRes_num]
  simp only [toOpalR, Fmt.code_sig, if_neg hmax]
  split
  · rfl
  · next hc =>
    have hsum : bits 31 31 v.toNat * 2 ^ 31 + v.toNat % 2 ^ 31 = v.toNat := by simp only [bits]; omega
    rw [decide_eq_true hc, Bool.and_true, b2n_bit, hsum, BitVec.ofNat_toNat, BitVec.setWidth_eq]

/-- The same of Pearl16. -/
theorem toPearlR_ofPearl (rnd : Rnd) (v : BitVec 16) (h : bits 14 8 v.toNat ≠ 127) :
    toPearlR rnd (ofPearl v).toRes = (if v.toNat % 2 ^ 15 = 0 then 0 else v, {}) := by
  have hmax : ¬ pearlFmt.maxCode < v.toNat % 2 ^ 15 := by simp only [bits] at h; simp only [pearlFmt]; omega
  rw [ofPearl_eq_num v h, Fmt.toRes_num]
  simp only [toPearlR, Fmt.code_sig, if_neg hmax]
  split
  · rfl
  · next hc =>
    have hsum : bits 15 15 v.toNat * 2 ^ 15 + v.toNat % 2 ^ 15 = v.toNat := by simp only [bits]; omega
    rw [decide_eq_true hc, Bool.and_true, b2n_bit, hsum, BitVec.ofNat_toNat, BitVec.setWidth_eq]

/-- A finite pattern has no exponent field of all ones. -/
theorem ofOpal_finite {v : W32} (h : (ofOpal v).isFinite = true) : bits 30 23 v.toNat ≠ 255 := fun he => by
  simp only [ofOpal, he, if_true] at h
  split at h <;> simp [Num.isFinite] at h

theorem ofPearl_finite {v : BitVec 16} (h : (ofPearl v).isFinite = true) : bits 14 8 v.toNat ≠ 127 := fun he => by
  simp only [ofPearl, he, if_true] at h
  split at h <;> simp [Num.isFinite] at h

/-- Both zeros of a format read as +0, so a pattern of magnitude code 0 and the pattern 0 have one value (R13, R16). -/
theorem ofOpal_zero {v : W32} (h : v.toNat % 2 ^ 31 = 0) : ofOpal 0 = ofOpal v := by
  have he : bits 30 23 v.toNat = 0 := by simp only [bits]; omega
  have hf : bits 22 0 v.toNat = 0 := by simp only [bits]; omega
  rw [show ofOpal 0 = .fin 0 (-149) by decide]
  simp [ofOpal, he, hf]

theorem ofPearl_zero {v : BitVec 16} (h : v.toNat % 2 ^ 15 = 0) : ofPearl 0 = ofPearl v := by
  have he : bits 14 8 v.toNat = 0 := by simp only [bits]; omega
  have hf : bits 7 0 v.toNat = 0 := by simp only [bits]; omega
  rw [show ofPearl 0 = .fin 0 (-70) by decide]
  simp [ofPearl, he, hf]

/-! ### No negative zero -/

/-- A sign over a nonzero magnitude code is not the pattern of a negative zero. -/
theorem signed_ne_negZero (w : Nat) (neg : Bool) (c : Nat) (hc : c ≠ 0) (hlt : c < 2 ^ w) :
    BitVec.ofNat (w + 1) (b2n neg * 2 ^ w + c) ≠ BitVec.ofNat (w + 1) (2 ^ w) := by
  have hpow : 2 ^ (w + 1) = 2 ^ w + 2 ^ w := by rw [pow_succ, mul_two]
  intro e
  have hnat := congrArg BitVec.toNat e
  have hval : b2n neg * 2 ^ w = 0 ∨ b2n neg * 2 ^ w = 2 ^ w := by cases neg <;> simp [b2n]
  rw [BitVec.toNat_ofNat, BitVec.toNat_ofNat, Nat.mod_eq_of_lt (by omega), Nat.mod_eq_of_lt (by omega)] at hnat
  omega

/-- No rounding into Opal32 gives the pattern of a negative zero (R16). -/
theorem toOpalR_ne_negZero (rnd : Rnd) (x : Res) : (toOpalR rnd x).1 ≠ 0x80000000 := by
  cases x with
  | nan => simp [toOpalR]
  | inf neg => cases neg <;> simp [toOpalR]
  | fin neg g =>
    simp only [toOpalR]
    split
    · cases neg <;> simp
    · next hmax =>
      split
      · simp
      · next hc => exact signed_ne_negZero 31 neg _ hc (by simp only [opalFmt] at hmax ⊢; omega)

/-- No rounding into Pearl16 does (R13). -/
theorem toPearlR_ne_negZero (rnd : Rnd) (x : Res) : (toPearlR rnd x).1 ≠ 0x8000 := by
  cases x with
  | nan => simp [toPearlR]
  | inf neg => cases neg <;> simp [toPearlR]
  | fin neg g =>
    simp only [toPearlR]
    split
    · cases neg <;> simp
    · next hmax =>
      split
      · simp
      · next hc => exact signed_ne_negZero 15 neg _ hc (by simp only [pearlFmt] at hmax ⊢; omega)

/-- Settles O4: a finite pattern rounds to itself or, where it is a zero, to the pattern 0, which reads the same. -/
theorem roundingKeepsValues : Obligations.RoundingKeepsValues := by
  unfold Obligations.RoundingKeepsValues
  refine ⟨fun rnd v h => ?_, fun rnd v h => ?_, fun _ => ⟨rfl, rfl⟩,
    fun rnd x => ⟨toOpalR_ne_negZero rnd x, toPearlR_ne_negZero rnd x⟩⟩
  · rw [toOpalR_ofOpal rnd v (ofOpal_finite h)]
    split
    · next hz => exact ⟨congrArg Num.value (ofOpal_zero hz), rfl⟩
    · exact ⟨rfl, rfl⟩
  · rw [toPearlR_ofPearl rnd v (ofPearl_finite h)]
    split
    · next hz => exact ⟨congrArg Num.value (ofPearl_zero hz), rfl⟩
    · exact ⟨rfl, rfl⟩

end Sys2Proof.Machine
end

section
/-! PROOFS. What the array and the vector engine leave as it was while they reach their operands: accesses to the scratchpad
where no bank group is off and no bit error waits, counts, samples and the streams' own notes (R86, R130, R131). -/

namespace Sys2Proof.Machine

/-! ### The same operands -/

/-- A job without its streams. -/
def Job.unstreamed (j : Job) : Job := { j with seqS := {}, arrS := {}, vecS := {} }

/-- The state without what reaching an operand may change: the jobs, the counters, the domains' states and the Almanac. -/
def operandsOf (s : State) : State := { s with jobs := [], isl := {}, pwr := { s.pwr with pd := [] }, alm := {} }

/-- Two states whose operands are the same: they differ in counts, streams, and domains that have woken. -/
structure sameOperands (s t : State) : Prop where
  rest : operandsOf t = operandsOf s
  off : ∀ d, dom t d = .off ↔ dom s d = .off
  jobs : ∀ q, (getJob t q).map Job.unstreamed = (getJob s q).map Job.unstreamed

namespace sameOperands

theorem refl (s : State) : sameOperands s s := ⟨rfl, fun _ => Iff.rfl, fun _ => rfl⟩

theorem trans {s t u : State} (h : sameOperands s t) (k : sameOperands t u) : sameOperands s u :=
  ⟨k.rest.trans h.rest, fun d => (k.off d).trans (h.off d), fun q => (k.jobs q).trans (h.jobs q)⟩

section Fields

variable {s t : State} (h : sameOperands s t)
include h

theorem arr : t.arr = s.arr := (congrArg State.arr h.rest :)
theorem vec : t.vec = s.vec := (congrArg State.vec h.rest :)
theorem mem : t.mem = s.mem := (congrArg State.mem h.rest :)
theorem poison : t.poison = s.poison := (congrArg State.poison h.rest :)
theorem spdErr : t.spdErr = s.spdErr := (congrArg State.spdErr h.rest :)
theorem tables : t.tables = s.tables := (congrArg State.tables h.rest :)
theorem rings : t.rings = s.rings := (congrArg State.rings h.rest :)

theorem calm (hc : calm s) : calm t := by
  obtain ⟨hoff, hspd, harr⟩ := hc
  exact ⟨fun d hlo hhi => mt (h.off d).1 (hoff d hlo hhi), by rw [h.spdErr, hspd], by rw [h.arr, harr]⟩

/-- What is read of a job beside its streams. -/
theorem job_field {α : Type} (f : Job → α) (hf : ∀ j, f j.unstreamed = f j) (q : Part) :
    (getJob t q).map f = (getJob s q).map f := by
  have hcomp : f = f ∘ Job.unstreamed := funext fun j => (hf j).symm
  rw [hcomp, ← Option.map_map, h.jobs q, Option.map_map]

end Fields

/-- A change of nothing but the counters. -/
theorem of_isl {s t : State} (h : t = { s with isl := t.isl }) : sameOperands s t := by
  rw [h]; exact ⟨rfl, fun _ => Iff.rfl, fun _ => rfl⟩

end sameOperands

theorem sameOperands_count (s : State) (blk c n q : Nat) (a : EvAt) : sameOperands s (count s blk c n q a) :=
  .of_isl rfl

theorem sameOperands_tally (s : State) (blk : Nat) (c : Counts) : sameOperands s (tally s blk c) := .of_isl rfl

theorem sameOperands_sampleTick (s : State) (p : Part) (k : Nat) : sameOperands s (sampleTick s p k) := by
  apply sameOperands.of_isl
  unfold sampleTick
  dsimp only
  split
  · rfl
  · split <;> rfl

theorem unstreamed_modStream (j : Job) (u : SUnit) (f : Stream → Stream) : (j.modStream u f).unstreamed = j.unstreamed := by
  cases u <;> rfl

theorem operandsOf_modJob (s : State) (p : Part) (f : Job → Job) : operandsOf (modJob s p f) = operandsOf s := by
  unfold modJob; split <;> rfl

theorem sameOperands_modStream (s : State) (p : Part) (u : SUnit) (f : Stream → Stream) :
    sameOperands s (modJob s p fun j => j.modStream u f) := by
  refine ⟨operandsOf_modJob .., fun d => by rw [dom_congr (modJob_pwr ..)], fun q => ?_⟩
  rw [getJob_modJob]
  split
  · next e =>
    subst e
    rw [Option.map_map]
    exact congrArg (fun g => (getJob s q).map g) (funext fun j => unstreamed_modStream j u f)
  · rfl

theorem nth_eq_getD {α : Type} (d : α) (l : List α) (i : Nat) : nth d l i = l.getD i d := by
  induction l generalizing i with
  | nil => rfl
  | cons a l ih =>
    cases i with
    | zero => rfl
    | succ i => exact ih i

/-- A domain in retain that wakes: none is off that was not. -/
theorem sameOperands_wake (s : State) (d : Nat) (h : dom s d = .retain) : sameOperands s (setDom s d .on) := by
  have hpd : (setDom s d .on).pwr = { s.pwr with pd := setNth s.pwr.pd d .on } := by
    simp only [setDom]; split <;> rfl
  refine ⟨?_, fun k => ?_, fun q => by rw [getJob_congr (setDom_jobs ..)]⟩
  · simp only [setDom]; split <;> rfl
  · by_cases hk : k = d
    · subst hk
      have hlen : k < s.pwr.pd.length := by
        by_contra hge
        rw [dom, nth_eq_getD, List.getD_eq_default _ _ (not_lt.1 hge)] at h
        exact absurd h (by decide)
      rw [h, dom, hpd, nth_setNth_same _ _ _ _ hlen]
      decide
    · rw [dom, hpd, nth_setNth_other _ _ _ _ _ hk]; rfl

/-! ### Accesses in a calm state -/

/-- A fold each of whose steps keeps the operands of a calm state. -/
theorem sameOperands_foldl {α : Type} (f : State → α → State) (l : List α)
    (h : ∀ s, calm s → ∀ a ∈ l, sameOperands s (f s a)) (s : State) (hc : calm s) : sameOperands s (l.foldl f s) := by
  induction l generalizing s with
  | nil => exact .refl s
  | cons a l ih =>
    have h1 := h s hc a List.mem_cons_self
    exact h1.trans (ih (fun t ht b hb => h t ht b (List.mem_cons_of_mem _ hb)) _ (h1.calm hc))

theorem bankOf_lt (a : Nat) : bankOf a < 256 := by
  simp only [bankOf]; split <;> omega

theorem meetErrors_of_none (s : State) (a n : Nat) (h : s.spdErr = []) : meetErrors s a n = s := by
  simp [meetErrors, h]

theorem sameOperands_spdAccess (s : State) (a n : Nat) (write : Bool) (hc : calm s) :
    sameOperands s (spdAccess s a n write) := by
  unfold spdAccess
  split
  · exact .refl s
  · rw [meetErrors_of_none s a n hc.2.1, ite_self]
    refine sameOperands_foldl _ _ (fun t ht g hg => ?_) s hc
    have hlt : g ≤ 7 := by
      obtain ⟨b, -, rfl⟩ := List.mem_map.1 (List.mem_eraseDups.1 hg)
      have := bankOf_lt b
      omega
    split
    · next hd => exact (sameOperands_wake t _ hd).trans (sameOperands_count ..)
    · next hd => exact absurd hd (ht.1 _ (by omega) (by omega))
    · exact .refl t

theorem sameOperands_touchBlock (s : State) (e : TEntry) (r0 nr c0 nc : Nat) (write : Bool) (hc : calm s) :
    sameOperands s (touchBlock s e r0 nr c0 nc write) := by
  simp only [touchBlock]
  split
  · exact .refl s
  · refine sameOperands_foldl _ _ (fun t ht r _ => ?_) s hc
    have h1 := sameOperands_spdAccess t (e.addr r c0) ((Nat.min (c0 + nc) e.cols - c0) * fmtWidth e.fmt) write ht
    split
    · exact h1.trans (sameOperands_foldl _ _ (fun u hu k _ => sameOperands_spdAccess u _ _ _ hu) _ (h1.calm ht))
    · exact h1

/-! ### Reads of the same operands -/

section Reads

variable {s t : State} (h : sameOperands s t)
include h

theorem sameOperands.entry (p : Part) (i : Nat) : entry t p i = entry s p i := by
  have hj := h.job_field Job.plan (fun _ => rfl) p
  unfold Machine.entry
  cases hs : getJob s p <;> cases ht : getJob t p <;> simp_all

theorem sameOperands.tens (p : Part) (i : Nat) : tens t p i = tens s p i := by
  have hj := h.job_field (fun j => (j.plan, j.step)) (fun _ => rfl) p
  unfold Machine.tens
  rw [h.entry p i]
  cases hs : getJob s p <;> cases ht : getJob t p <;> simp_all

theorem sameOperands.spdOff : spdOff t = spdOff s := funext fun a => by simp only [Machine.spdOff, h.off]

theorem sameOperands.anyOff (a n : Nat) : anyOff t a n = anyOff s a n := by
  simp only [Machine.anyOff, h.spdOff]

theorem sameOperands.poisoned (a n : Nat) : poisoned t a n = poisoned s a n := by
  simp only [Machine.poisoned, h.poison, h.anyOff]

theorem sameOperands.rawSafe (e : TEntry) (i j : Nat) : rawSafe t e i j = rawSafe s e i j := by
  simp only [Machine.rawSafe, rawAt, h.poisoned, h.mem]

end Reads

/-! ### An array word that issues at once -/

/-- The state without what the issue of an array word notes beside its effect: the jobs and the instructions in flight. -/
def flightless (s : State) : State := { s with jobs := [], arr := { s.arr with flying := [] } }

/-- The state `t` is `u` but for the streams of the jobs and the array instructions in flight. -/
structure afterIssue (u t : State) : Prop where
  rest : flightless t = flightless u
  jobs : ∀ q, (getJob t q).map Job.unstreamed = (getJob u q).map Job.unstreamed

namespace afterIssue

theorem refl (u : State) : afterIssue u u := ⟨rfl, fun _ => rfl⟩

theorem trans {u t v : State} (h : afterIssue u t) (k : afterIssue t v) : afterIssue u v :=
  ⟨k.rest.trans h.rest, fun q => (k.jobs q).trans (h.jobs q)⟩

section Fields

variable {u t : State} (h : afterIssue u t)
include h

theorem acc : t.arr.acc = u.arr.acc := (congrArg (fun s : State => s.arr.acc) h.rest :)
theorem plain : t.arr.plain = u.arr.plain := (congrArg (fun s : State => s.arr.plain) h.rest :)
theorem trans_copy : t.arr.trans = u.arr.trans := (congrArg (fun s : State => s.arr.trans) h.rest :)
theorem scale : t.arr.scale = u.arr.scale := (congrArg (fun s : State => s.arr.scale) h.rest :)
theorem tvalid : t.arr.tvalid = u.arr.tvalid := (congrArg (fun s : State => s.arr.tvalid) h.rest :)
theorem mem : t.mem = u.mem := (congrArg State.mem h.rest :)
theorem vec : t.vec = u.vec := (congrArg State.vec h.rest :)
theorem tables : t.tables = u.tables := (congrArg State.tables h.rest :)
theorem rings : t.rings = u.rings := (congrArg State.rings h.rest :)

end Fields

end afterIssue

theorem afterIssue_modStream (s : State) (p : Part) (u : SUnit) (f : Stream → Stream) :
    afterIssue s (modJob s p fun j => j.modStream u f) :=
  ⟨by unfold modJob; split <;> rfl, (sameOperands_modStream s p u f).jobs⟩

theorem afterIssue_noted (s : State) : afterIssue s (noted s) :=
  ⟨noted_field flightless (fun t p u f => (afterIssue_modStream t p u f).rest) s,
   fun q => noted_field (fun t => (getJob t q).map Job.unstreamed) (fun t p u f => (afterIssue_modStream t p u f).jobs q) s⟩

theorem afterIssue_flying (s : State) (l : List ArrFlight) : afterIssue s { s with arr := { s.arr with flying := l } } :=
  ⟨rfl, fun _ => rfl⟩

theorem afterIssue_launchArr (s : State) (p : Part) (lead : Lead) (area : Option Area) (op : AOp) (w : AWord) :
    afterIssue s (launchArr s p lead area op w) := by
  cases op with
  | anop => exact afterIssue_modStream ..
  | amode => exact afterIssue_modStream ..
  | atwin => exact .refl s
  | aque => exact .refl s
  | adrn => exact .refl s
  | aacc =>
    cases area with
    | none => exact .refl s
    | some a =>
      simp only [launchArr]
      split <;> exact afterIssue_flying ..
  | _ => exact afterIssue_flying ..

/-- What an array instruction finds when it issues, and what it leaves: the operands are those of `s`, and beside its effect
nothing changes but the streams and the instructions in flight. -/
theorem issueArr_effect (s : State) (p : Part) (op : AOp) (w : AWord) (j : Job) (hj : getJob s p = some j) :
    ∃ s', sameOperands s s' ∧ afterIssue (arrEffect s' p j.arrS.lead j.arrS.index op w) (issueArr s p op w) := by
  refine ⟨sampleTick (count s blkArr 0 2 1 (atPart p)) p 0,
    (sameOperands_count ..).trans (sameOperands_sampleTick ..), ?_⟩
  simp only [issueArr, hj]
  exact (afterIssue_modStream ..).trans (afterIssue_launchArr ..)

theorem sameOperands_countHold (s : State) (p : Part) (u : SUnit) (st : Stream) : sameOperands s (countHold s p u st) := by
  have hadd (t : State) (e n : Nat) :
      sameOperands t (if n = 0 then t else count t (unitBlk u) 1 e n (atPart p)) := by
    split
    · exact .refl t
    · exact sameOperands_count ..
  exact (hadd _ _ _).trans (hadd _ _ _)

theorem countHold_jobs (s : State) (p : Part) (u : SUnit) (st : Stream) : (countHold s p u st).jobs = s.jobs := by
  have hadd (t : State) (e n : Nat) : (if n = 0 then t else count t (unitBlk u) 1 e n (atPart p)).jobs = t.jobs := by
    split <;> rfl
  exact (hadd _ _ _).trans (hadd _ _ _)

/-- A word that issues at once is not one that a vetoed step skips (R258). -/
theorem not_skipped_of_issuesNow {s : State} {p : Part} {u : SUnit} {x : SWord} {j : Job} (h : issuesNow s p u x = true)
    (hj : getJob s p = some j) : ((j.stream u).gated && j.vetoed && x.skips) = false := by
  simp only [issuesNow, hj, Bool.and_eq_true, Bool.not_eq_true'] at h
  exact h.1.2

/-- A stream once its oldest word has been taken and `rest` is left. -/
def Stream.taken (rest : List SWord) (st : Stream) : Stream :=
  { st with held := rest, heldAt := none, heldWake := false, heldCyc := 0, wakeCyc := 0 }

/-- The state in which the word that an array stream has taken issues. -/
def wordTaken (s : State) (p : Part) (j : Job) (rest : List SWord) : State :=
  modJob (countHold s p .arr j.arrS) p fun k => k.modStream .arr (Stream.taken rest)

theorem sameOperands_wordTaken (s : State) (p : Part) (j : Job) (rest : List SWord) :
    sameOperands s (wordTaken s p j rest) :=
  (sameOperands_countHold ..).trans (sameOperands_modStream ..)

/-- The word that a stream takes and does not skip. -/
theorem takeWord_arr_effect (s : State) (p : Part) (j : Job) (op : AOp) (w : AWord) (rest : List SWord)
    (hj : getJob s p = some j) (hskip : (j.arrS.gated && j.vetoed && (SWord.arr op w).skips) = false) :
    ∃ s' idx, sameOperands s s'
      ∧ afterIssue (arrEffect s' p j.arrS.lead idx op w) (takeWord s p .arr j (.arr op w) rest) := by
  have hjob : getJob (wordTaken s p j rest) p = some (j.modStream .arr (Stream.taken rest)) := by
    rw [wordTaken, getJob_modJob, if_pos rfl, getJob_congr (countHold_jobs ..), hj, Option.map_some]
  obtain ⟨s', hs', heffect⟩ := issueArr_effect (wordTaken s p j rest) p op w _ hjob
  refine ⟨s', j.arrS.index, (sameOperands_wordTaken ..).trans hs', ?_⟩
  have htake : takeWord s p .arr j (.arr op w) rest
      = modJob (issueArr (wordTaken s p j rest) p op w) p fun k => k.modStream .arr fun st => { st with index := st.index + 1 } := by
    simp only [takeWord, Job.stream, hskip, Bool.false_eq_true, if_false, runWord]
    rfl
  rw [htake]
  exact heffect.trans (afterIssue_modStream ..)

/-- An array word, an ADRN aside, that issues at once has its effect on the operands that it finds, and leaves the rest. -/
theorem pushWord_arr_effect {s : State} {p : Part} {op : AOp} {w : AWord} (hop : op ≠ .adrn)
    (h : issuesNow s p .arr (.arr op w) = true) :
    ∃ s' idx, sameOperands s s'
      ∧ afterIssue (arrEffect s' p (leadOf s p) idx op w) (pushWord s p .arr (.arr op w)) := by
  have hturns : (SWord.arr op w).turns = 1 := by
    unfold SWord.turns
    split
    · next e => cases e; exact absurd rfl hop
    · rfl
  obtain ⟨j, hj, hpush⟩ := pushWord_issues s p .arr (.arr op w) h hturns
  have hskip := not_skipped_of_issuesNow h hj
  have hqueued := queued_job s p .arr (.arr op w) j hj p
  rw [if_pos rfl] at hqueued
  obtain ⟨s', idx, hsame, heffect⟩ := takeWord_arr_effect _ p _ op w [] hqueued hskip
  refine ⟨s', idx, (sameOperands_modStream ..).trans hsame, ?_⟩
  have hlead : leadOf s p = j.arrS.lead := by simp only [leadOf, hj]
  rw [hpush, hlead]
  exact heffect.trans (afterIssue_noted _)

end Sys2Proof.Machine
end

section
/-! PROOFS. The layout of a weight region, and what filling it leaves at each element and elsewhere (R69, R70). -/

namespace Sys2Proof.Machine

/-! ### Many numbers written, zeros written -/

theorem Memory.read_congr {m k : Memory} {a n : Nat} (h : ∀ x, a ≤ x → x < a + n → m.get x = k.get x) :
    m.read a n = k.read a n := by
  induction n generalizing a with
  | zero => rfl
  | succ n ih => rw [Memory.read, Memory.read, h a le_rfl (by omega), ih fun x hx hy => h x (by omega) (by omega)]

theorem Memory.readNat_congr {m k : Memory} {a n : Nat} (h : ∀ x, a ≤ x → x < a + n → m.get x = k.get x) :
    m.readNat a n = k.readNat a n := congrArg natOf (Memory.read_congr h)

theorem Memory.readNat_of_zeros {m : Memory} {a n : Nat} (h : ∀ x, a ≤ x → x < a + n → m.get x = 0) : m.readNat a n = 0 := by
  induction n generalizing a with
  | zero => rfl
  | succ n ih =>
    have hrest : natOf (m.read (a + 1) n) = 0 := ih fun x hx hy => h x (by omega) (by omega)
    rw [Memory.readNat, Memory.read, natOf, hrest, h a le_rfl (by omega)]
    rfl

/-- Numbers written at `n` places leave every byte outside these places alone. -/
theorem Memory.get_writes_outside (m : Memory) (w n a : Nat) (off v : Nat → Nat)
    (h : ∀ x, x < n → a < off x ∨ off x + w ≤ a) :
    ((List.range n).foldl (fun m x => m.writeNat (off x) w (v x)) m).get a = m.get a := by
  induction n with
  | zero => rfl
  | succ n ih =>
    rw [List.range_succ, List.foldl_append, List.foldl_cons, List.foldl_nil, Memory.writeNat,
      Memory.get_write_outside _ _ _ _ (by rw [length_bytesOf]; exact h n (by omega)), ih fun x hx => h x (by omega)]

/-- Numbers written at places that lie apart: each reads back. -/
theorem Memory.readNat_writes (m : Memory) (w n : Nat) (off v : Nat → Nat)
    (h : ∀ x y, x < n → y < n → x ≠ y → off x + w ≤ off y ∨ off y + w ≤ off x) (x : Nat) (hx : x < n) :
    ((List.range n).foldl (fun m x => m.writeNat (off x) w (v x)) m).readNat (off x) w = v x % 2 ^ (8 * w) := by
  induction n with
  | zero => omega
  | succ n ih =>
    rw [List.range_succ, List.foldl_append, List.foldl_cons, List.foldl_nil]
    by_cases e : x = n
    · rw [e, Memory.readNat_writeNat]
    · have hapart := h x n hx (by omega) e
      rw [Memory.readNat, Memory.writeNat, Memory.read_write_outside _ _ _ _ _ (by rw [length_bytesOf]; exact hapart)]
      exact ih (fun x y hx hy => h x y (by omega) (by omega)) (by omega)

theorem cellFind_filter (c : List Host.Cell) (f : Nat → Bool) (x : Nat) :
    cellFind (c.filter fun k => f k.1) x = if f x then cellFind c x else none := by
  induction c with
  | nil => simp [cellFind]
  | cons k t ih =>
    simp only [List.filter_cons]
    by_cases hx : k.1 = x
    · subst hx
      split <;> simp [cellFind, *]
    · split
      · simp only [cellFind, if_neg hx, ih]
      · simp only [cellFind, if_neg hx, ih]

/-- Zeros written: the bytes of the range are 0, every other is as it was. -/
theorem Memory.get_zero (m : Memory) (a n x : Nat) : (m.zero a n).get x = if a ≤ x ∧ x < a + n then 0 else m.get x := by
  unfold Memory.zero
  split
  · next hkept =>
    obtain ⟨hlost, hgroups⟩ := Bool.and_eq_true_iff.1 hkept
    have hdflt (y : Nat) : m.dflt y = 0 := by
      simp [Memory.dflt, Memory.lossOf, Option.isNone_iff_eq_none.1 hlost, List.isEmpty_iff.1 hgroups, tabFind]
    have hdflt' (y : Nat) : Memory.dflt { m with cells := m.cells.filter fun c => decide (c.1 < a ∨ a + n ≤ c.1) } y = 0 := hdflt y
    simp only [Memory.get, hdflt', hdflt, cellFind_filter m.cells fun y => decide (y < a ∨ a + n ≤ y), decide_eq_true_eq]
    by_cases hx : a ≤ x ∧ x < a + n
    · rw [if_pos hx, if_neg (by omega)]; rfl
    · rw [if_neg hx, if_pos (by omega)]
  · split
    · next hx =>
      obtain ⟨k, rfl⟩ := Nat.exists_eq_add_of_le hx.1
      rw [Memory.get_write_inside _ _ _ _ (by simp; omega), nth_eq_getD]
      simp
    · next hx => exact Memory.get_write_outside _ _ _ _ (by simp; omega)

/-! ### The layout of a region -/

/-- The place of element (i, j) of `rows` rows laid out in panels of 512 columns, counted in elements (R69). -/
def panelIndex (rows i j : Nat) : Nat := (j / 512 * rows + i) * 512 + j % 512

theorem plainOff_eq (r : TEntry) (k n : Nat) : r.plainOff k n = r.base + panelIndex r.rows k n * fmtWidth r.fmt := by
  simp only [TEntry.plainOff, panelIndex, Nat.add_mul, Nat.add_assoc]

theorem transOff_eq (r : TEntry) (k n : Nat) : r.transOff k n = r.base + panelIndex r.cols n k * fmtWidth r.fmt := by
  simp only [TEntry.transOff, panelIndex, Nat.add_mul, Nat.add_assoc]

theorem panelIndex_lt {rows cols i j : Nat} (hi : i < rows) (hj : j < cols) (hc : cols % 512 = 0) :
    panelIndex rows i j < rows * cols := by
  obtain ⟨q, rfl⟩ := Nat.dvd_of_mod_eq_zero hc
  have hpanel : j / 512 * rows + i < q * rows :=
    calc j / 512 * rows + i < (j / 512 + 1) * rows := by rw [Nat.succ_mul]; omega
      _ ≤ q * rows := Nat.mul_le_mul_right _ (by omega)
  have hsize : rows * (512 * q) = q * rows * 512 := by ring
  rw [panelIndex, hsize]
  omega

theorem panelIndex_inj {rows i i' j j' : Nat} (hi : i < rows) (hi' : i' < rows)
    (h : panelIndex rows i j = panelIndex rows i' j') : i = i' ∧ j = j' := by
  have hrow : j / 512 * rows + i = j' / 512 * rows + i' := by simp only [panelIndex] at h; omega
  have hcol : j % 512 = j' % 512 := by simp only [panelIndex] at h; omega
  have hi0 : i = i' := by
    have := congrArg (· % rows) hrow
    simpa [Nat.mod_eq_of_lt hi, Nat.mod_eq_of_lt hi'] using this
  have hpanel : j / 512 = j' / 512 := Nat.eq_of_mul_eq_mul_right (by omega : 0 < rows) (by omega)
  exact ⟨hi0, by omega⟩

/-- A copy of a region laid out from its base: every element inside the region's codes, no two overlapping. -/
structure regionLayout (r : TEntry) (off : Nat → Nat → Nat) : Prop where
  inside : ∀ k n, k < r.rows → n < r.cols →
    r.base ≤ off k n ∧ off k n + fmtWidth r.fmt ≤ r.base + r.regionBytes
  apart : ∀ k n k' n', k < r.rows → n < r.cols → k' < r.rows → n' < r.cols → ¬ (k = k' ∧ n = n') →
    off k n + fmtWidth r.fmt ≤ off k' n' ∨ off k' n' + fmtWidth r.fmt ≤ off k n

/-- Places that are distinct and below the number of elements make a layout. -/
theorem regionLayout_of_place {r : TEntry} {off place : Nat → Nat → Nat}
    (hoff : ∀ k n, off k n = r.base + place k n * fmtWidth r.fmt)
    (hlt : ∀ k n, k < r.rows → n < r.cols → place k n < r.rows * r.cols)
    (hinj : ∀ k n k' n', k < r.rows → n < r.cols → k' < r.rows → n' < r.cols → place k n = place k' n' → k = k' ∧ n = n') :
    regionLayout r off := by
  have hnext {x y : Nat} (h : x < y) : x * fmtWidth r.fmt + fmtWidth r.fmt ≤ y * fmtWidth r.fmt := by
    rw [← Nat.succ_mul]; exact Nat.mul_le_mul_right _ h
  refine ⟨fun k n hk hn => ?_, fun k n k' n' hk hn hk' hn' hne => ?_⟩
  · have := hnext (hlt k n hk hn)
    rw [hoff, TEntry.regionBytes]
    omega
  · rw [hoff, hoff]
    rcases Nat.lt_or_gt_of_ne fun e => hne (hinj k n k' n' hk hn hk' hn' e) with h | h
    · have := hnext h; omega
    · have := hnext h; omega

theorem plain_layout {r : TEntry} (hc : r.cols % 512 = 0) : regionLayout r r.plainOff :=
  regionLayout_of_place (plainOff_eq r) (fun _ _ hk hn => panelIndex_lt hk hn hc)
    fun _ _ _ _ hk _ hk' _ h => panelIndex_inj hk hk' h

theorem trans_layout {r : TEntry} (hr : r.rows % 512 = 0) : regionLayout r r.transOff :=
  regionLayout_of_place (transOff_eq r) (fun _ _ hk hn => by rw [Nat.mul_comm]; exact panelIndex_lt hn hk hr)
    fun _ _ _ _ _ hn _ hn' h => (panelIndex_inj hn hn' h).symm

/-! ### A region filled -/

/-- Row and column of flat element `x` lie in the region. -/
theorem flat_inside {r : TEntry} {x : Nat} (hx : x < r.rows * r.cols) : x / r.cols < r.rows ∧ x % r.cols < r.cols := by
  have hpos : 0 < r.cols := Nat.pos_of_mul_pos_left (by omega : 0 < r.rows * r.cols)
  exact ⟨(Nat.div_lt_iff_lt_mul hpos).2 hx, Nat.mod_lt _ hpos⟩

section Codes

variable {r : TEntry} {off : Nat → Nat → Nat} (hl : regionLayout r off) (code : Nat → Nat → Nat) (m : Memory)
include hl

theorem readNat_shelfCodes {k n : Nat} (hk : k < r.rows) (hn : n < r.cols) :
    (shelfCodes r code m off).readNat (off k n) (fmtWidth r.fmt) = code k n % 2 ^ (8 * fmtWidth r.fmt) := by
  have hx : k * r.cols + n < r.rows * r.cols :=
    calc k * r.cols + n < (k + 1) * r.cols := by rw [Nat.succ_mul]; omega
      _ ≤ r.rows * r.cols := Nat.mul_le_mul_right _ hk
  have hdiv : (k * r.cols + n) / r.cols = k := by
    rw [Nat.mul_comm, Nat.mul_add_div (by omega), Nat.div_eq_of_lt hn, Nat.add_zero]
  have hmod : (k * r.cols + n) % r.cols = n := by rw [Nat.mul_comm, Nat.mul_add_mod, Nat.mod_eq_of_lt hn]
  have h := Memory.readNat_writes m (fmtWidth r.fmt) (r.rows * r.cols) (fun x => off (x / r.cols) (x % r.cols))
    (fun x => code (x / r.cols) (x % r.cols)) (fun x y hx hy hne => ?_) _ hx
  · simpa only [shelfCodes, hdiv, hmod] using h
  · obtain ⟨hkx, hnx⟩ := flat_inside hx
    obtain ⟨hky, hny⟩ := flat_inside hy
    refine hl.apart _ _ _ _ hkx hnx hky hny fun ⟨hq, hm⟩ => hne ?_
    rw [← Nat.div_add_mod x r.cols, ← Nat.div_add_mod y r.cols, hq, hm]

theorem get_shelfCodes_outside {a : Nat} (ha : a < r.base ∨ r.base + r.regionBytes ≤ a) :
    (shelfCodes r code m off).get a = m.get a := by
  refine Memory.get_writes_outside m (fmtWidth r.fmt) (r.rows * r.cols) a (fun x => off (x / r.cols) (x % r.cols))
    (fun x => code (x / r.cols) (x % r.cols)) fun x hx => ?_
  obtain ⟨hk, hn⟩ := flat_inside hx
  have := hl.inside _ _ hk hn
  omega

end Codes

theorem le_roundUp (n m : Nat) (h : 0 < m) : n ≤ roundUp n m := by
  have := Nat.div_add_mod (n + m - 1) m
  have := Nat.mod_lt (n + m - 1) h
  rw [roundUp, ceilDiv, Nat.mul_comm]
  omega

/-- A scale block lies behind the codes of its region and inside the region's whole granules (R69, R70). -/
theorem get_shelfScale_outside {r : TEntry} {block : List Byte} (hb : block.length = scaleLen r) (m : Memory) {a : Nat}
    (ha : a < r.base + r.regionBytes ∨ r.base + r.regionSize ≤ a) : (shelfScale r block m).get a = m.get a := by
  unfold shelfScale
  split
  · next hs =>
    have hlen : (padTo 0 (roundUp (scaleLen r) 64) block).length = roundUp (scaleLen r) 64 := by
      have := le_roundUp (scaleLen r) 64 (by decide)
      simp only [padTo, List.length_append, List.length_replicate, hb]
      omega
    have hsize : r.regionSize = r.regionBytes + roundUp (scaleLen r) 64 := by
      rw [TEntry.regionSize, if_pos hs]; rfl
    exact Memory.get_write_outside _ _ _ _ (by rw [hlen]; omega)
  · rfl

/-- A copy of a region that a load fills holds its codes. -/
theorem readNat_filled {r : TEntry} {off : Nat → Nat → Nat} (hl : regionLayout r off) (code : Nat → Nat → Nat)
    {block : List Byte} (hb : block.length = scaleLen r) (m : Memory) {k n : Nat} (hk : k < r.rows) (hn : n < r.cols) :
    (shelfScale r block (shelfCodes r code m off)).readNat (off k n) (fmtWidth r.fmt)
      = code k n % 2 ^ (8 * fmtWidth r.fmt) := by
  have := hl.inside k n hk hn
  rw [Memory.readNat_congr fun a hlo hhi => get_shelfScale_outside hb _ (by omega)]
  exact readNat_shelfCodes hl code m hk hn

/-- Outside the region the copy is as it was. -/
theorem get_filled_outside {r : TEntry} {off : Nat → Nat → Nat} (hl : regionLayout r off) (code : Nat → Nat → Nat)
    {block : List Byte} (hb : block.length = scaleLen r) (m : Memory) {a : Nat}
    (ha : a < r.base ∨ r.base + r.regionSize ≤ a) :
    (shelfScale r block (shelfCodes r code m off)).get a = m.get a := by
  have hsize : r.regionBytes ≤ r.regionSize := by rw [TEntry.regionSize]; omega
  rw [get_shelfScale_outside hb _ (by omega), get_shelfCodes_outside hl code m (by omega)]

end Sys2Proof.Machine
end

section
/-! PROOFS. Array loads and clears (R35, R70, R72, R74, R78, R289). -/

namespace Sys2Proof.Machine

/-! ### What a load takes from its source -/

section Reads

variable {s t : State} (h : sameOperands s t)
include h

theorem sameOperands.shelfRaw (e r : TEntry) (k n : Nat) : shelfRaw t e r k n = shelfRaw s e r k n := by
  simp only [Machine.shelfRaw, h.poisoned, h.rawSafe]

theorem sameOperands.gatheredAt (e : TEntry) (kch k n : Nat) : gatheredAt t e kch k n = gatheredAt s e kch k n := by
  simp only [Machine.gatheredAt, rawAt, h.poisoned, h.mem]

theorem sameOperands.gatheredCol (e r : TEntry) (kch n : Nat) : gatheredCol t e r kch n = gatheredCol s e r kch n := by
  simp only [Machine.gatheredCol, h.gatheredAt]

/-- The channel length of the gathered copy that a tensor entry holds. -/
theorem sameOperands.copyKch (p : Part) (i : Nat) :
    ((getJob t p).bind fun j => copyKch j.plan i) = (getJob s p).bind fun j => copyKch j.plan i := by
  have hj := h.job_field Job.plan (fun _ => rfl) p
  cases hs : getJob s p <;> cases ht : getJob t p <;> simp_all

theorem sameOperands.shelfLoad (p : Part) (src : Nat) (r : TEntry) : shelfLoad t p src r = shelfLoad s p src r := by
  have hraw : Machine.shelfRaw t = Machine.shelfRaw s := by funext e r k n; exact h.shelfRaw e r k n
  have hcol : Machine.gatheredCol t = Machine.gatheredCol s := by funext e r c n; exact h.gatheredCol e r c n
  simp only [Machine.shelfLoad, h.copyKch, h.tens, hraw, hcol, h.mem]

end Reads

theorem length_packNibbles (l : List Nat) : (packNibbles l).length = ceilDiv l.length 2 := by
  induction l using packNibbles.induct with
  | case1 a b t ih => simp only [packNibbles, List.length_cons, ih, ceilDiv]; omega
  | case2 a => simp [packNibbles, ceilDiv]
  | case3 => simp [packNibbles, ceilDiv]

theorem length_shelfLoad_scale (s : State) (p : Part) (src : Nat) (r : TEntry) :
    (shelfLoad s p src r).scale.length = scaleLen r := by
  simp only [shelfLoad]
  split
  · exact Memory.length_read _ _ _
  · simp [length_packNibbles, scaleLen, Nat.add_comm]

/-- The codes of a load that is not the copy of a gathered tensor (R70). -/
theorem shelfLoad_code_plain {s : State} {p : Part} {src : Nat} {r : TEntry}
    (h : (if r.scaled then (getJob s p).bind fun j => copyKch j.plan src else none) = none) :
    (shelfLoad s p src r).code = shelfRaw s (tens s p src) r := by
  simp only [shelfLoad, h]

/-- The codes of a gathered copy: the two-level encoding of each output channel (R35, R289). -/
theorem shelfLoad_code_gathered {s : State} {p : Part} {src : Nat} {r : TEntry} {c : Nat}
    (h : (if r.scaled then (getJob s p).bind fun j => copyKch j.plan src else none) = some c) (k : Nat) {n : Nat}
    (hn : n < r.cols) :
    (shelfLoad s p src r).code k n =
      (nth 0 (twoLevelGroup (twoLevelBase ((List.range r.cols).map (gatheredCol s (tens s p src) r c)))
        ((nth [] ((List.range r.cols).map (gatheredCol s (tens s p src) r c)) n).map fun x => (x, .away))).2.1 k).toNat := by
  simp only [shelfLoad, h, nth_eq_getD, List.map_map]
  simp [hn]

/-! ### The effects of the words -/

theorem errClear_of_none {s : State} (h : s.arr.errs = []) (store lo n : Nat) : errClear s store lo n = s := by
  have hnone : (s.arr.errs.filter fun e => !(e.1 == store && decide (lo ≤ 8 * e.2.1 ∧ 8 * e.2.1 + 8 ≤ lo + n))) = s.arr.errs := by
    rw [h]; rfl
  rw [errClear, hnone]

theorem sameOperands_touchLoad (s : State) (p : Part) (src : Nat) (r : TEntry) (hc : calm s) :
    sameOperands s (touchLoad s p src r) := by
  have hblock := sameOperands_touchBlock s (tens s p src).codes 0 r.rows 0 r.cols false hc
  simp only [touchLoad]
  split
  · exact hblock.trans (sameOperands_spdAccess _ _ _ _ (hblock.calm hc))
  · exact hblock

/-- The marks that an AWLD leaves: its own region's by whether the transposed copy is written (R72). -/
def awldMarks (s : State) (p : Part) (i : Nat) (r : TEntry) (two : Bool) : List (Nat × Nat) :=
  let keep := s.arr.tvalid.filter fun k => !markHit s p i r k && (k != (p.toNat, i))
  if two then (p.toNat, i) :: keep else keep

theorem contains_awldMarks (s : State) (p : Part) (i : Nat) (r : TEntry) (two : Bool) :
    (awldMarks s p i r two).contains (p.toNat, i) = two := by
  cases two <;> simp [awldMarks]

/-- A copy of the shelf after a load has been laid into a region of it. -/
def filled (r : TEntry) (l : ShelfLoad) (m : Memory) (off : Nat → Nat → Nat) : Memory :=
  shelfScale r l.scale (shelfCodes r l.code m off)

/-- The plain copy of the shelf after an AWLD. -/
def awldPlain (s : State) (p : Part) (w : AWord) : Memory :=
  let r := entry s p w.aux.toNat
  filled r (shelfLoad s p w.src.toNat r) s.arr.plain r.plainOff

/-- The transposed copy of the shelf after an AWLD: filled too under TWO, unless the array keeps one copy (R70, R73). -/
def awldTrans (s : State) (p : Part) (w : AWord) : Memory :=
  let r := entry s p w.aux.toNat
  if w.two && !s.arr.colr then filled r (shelfLoad s p w.src.toNat r) s.arr.trans r.transOff else s.arr.trans

theorem sameOperands.awldPlain {s t : State} (h : sameOperands s t) (p : Part) (w : AWord) :
    awldPlain t p w = awldPlain s p w := by
  simp only [Machine.awldPlain, h.entry, h.shelfLoad, h.arr]

theorem sameOperands.awldTrans {s t : State} (h : sameOperands s t) (p : Part) (w : AWord) :
    awldTrans t p w = awldTrans s p w := by
  simp only [Machine.awldTrans, h.entry, h.shelfLoad, h.arr]

/-- AWLD in a calm state changes the two copies of the shelf and the marks (R70 to R72). -/
theorem awldRun_eq (s : State) (p : Part) (w : AWord) (hc : calm s) :
    ∃ s', sameOperands s s' ∧ awldRun s p w = { s' with arr := { s.arr with
      plain := awldPlain s p w
      trans := awldTrans s p w
      tvalid := awldMarks s' p w.aux.toNat (entry s p w.aux.toNat) (w.two && !s.arr.colr) } } := by
  have hread := sameOperands_touchLoad s p w.src.toNat (entry s p w.aux.toNat) hc
  refine ⟨_, hread.trans (sameOperands_tally _ blkArr (shelfLoad s p w.src.toNat (entry s p w.aux.toNat)).counts), ?_⟩
  simp only [awldRun, errClear_of_none (hread.calm hc).2.2, ite_self, hread.shelfLoad, tally_arr, hread.arr, awldPlain,
    awldTrans, awldMarks, filled]

/-- The bytes that an ASLD lays into its bank. -/
def asldBytes (s : State) (p : Part) (w : AWord) : List Byte :=
  (List.range w.cnt.toNat).map fun k =>
    BitVec.ofNat 8 (rawSafe s (tens s p w.src.toNat).codes ((tens s p w.src.toNat).rc k).1 ((tens s p w.src.toNat).rc k).2)

/-- ASLD in a calm state: the bytes of the source laid into the bank from index 0 on (R74). -/
theorem asldRun_eq (s : State) (p : Part) (w : AWord) (hc : calm s) :
    ∃ s', sameOperands s s' ∧ asldRun s p w =
      { s' with arr := { s.arr with scale := s.arr.scale.write (4096 * b2n w.sbk) (asldBytes s p w) } } := by
  have hread := sameOperands_touchBlock s (tens s p w.src.toNat).codes 0
    (if (tens s p w.src.toNat).cols = 0 then 0 else ceilDiv w.cnt.toNat (tens s p w.src.toNat).cols) 0
    (tens s p w.src.toNat).cols false hc
  refine ⟨_, hread, ?_⟩
  simp only [asldRun, errClear_of_none (hread.calm hc).2.2, hread.rawSafe, hread.arr]
  rfl

/-- ACLR in a calm state: zeros in its block (R78). -/
theorem aclrRun_eq (s : State) (w : AWord) (hc : calm s) :
    aclrRun s w = accClear s w.dst.toNat (w.cnt.toNat * w.rowLen) := by
  simp only [aclrRun, errClear_of_none hc.2.2]

/-! ### Accumulators cleared -/

theorem accGet_accClear (s : State) (i n k : Nat) :
    accGet (accClear s i n) k = if i ≤ k ∧ k < i + n then 0 else accGet s k := by
  split
  · next h =>
    have hzero : (accClear s i n).arr.acc.readNat (4 * k) 4 = 0 := Memory.readNat_of_zeros fun x _ _ => by
      simp only [accClear, Memory.get_zero]
      rw [if_pos (by omega)]
    rw [accGet, hzero, BitVec.ofNat_eq_ofNat]
  · next h =>
    have hsame : (accClear s i n).arr.acc.readNat (4 * k) 4 = s.arr.acc.readNat (4 * k) 4 :=
      Memory.readNat_congr fun x _ _ => by
        simp only [accClear, Memory.get_zero]
        rw [if_neg (by omega)]
    rw [accGet, hsame, accGet]

theorem accFrame_accClear (s : State) (i n : Nat) : accFrame s (accClear s i n) i n := fun k hk => by
  rw [accGet_accClear, if_neg (by omega)]

theorem accGet_congr {s t : State} (h : t.arr.acc = s.arr.acc) (k : Nat) : accGet t k = accGet s k := by
  simp only [accGet, h]

/-! ### The commands -/

/-- An effect on the array alone stays in the array's frame. -/
theorem arrFrame_of_effect {s s' t : State} {a : ArrayUnit} (hs : sameOperands s s') (h : afterIssue { s' with arr := a } t) :
    arrFrame s t :=
  ⟨h.mem.trans hs.mem, h.vec.trans hs.vec, h.tables.trans hs.tables, h.rings.trans hs.rings⟩

/-- AWLD where it issues at once in a calm state. -/
theorem exec_awld {s : State} {p : Part} {w : AWord} (hc : calm s) (h : issuesNow s p .arr (.arr .awld w) = true) :
    ∃ t, exec (.awld p w) s = .next t ∧ arrFrame s t ∧ t.arr.acc = s.arr.acc ∧ t.arr.scale = s.arr.scale
      ∧ t.arr.plain = awldPlain s p w ∧ t.arr.trans = awldTrans s p w
      ∧ markSet t p w.aux.toNat = (w.two && !s.arr.colr) := by
  obtain ⟨s1, idx, hsame, hafter⟩ := pushWord_arr_effect (by decide) h
  obtain ⟨s2, hsame2, hrun⟩ := awldRun_eq s1 p w (hsame.calm hc)
  simp only [arrEffect, hrun] at hafter
  refine ⟨_, rfl, arrFrame_of_effect (hsame.trans hsame2) hafter, ?_, ?_, ?_, ?_, ?_⟩
  · rw [hafter.acc, hsame.arr]
  · rw [hafter.scale, hsame.arr]
  · rw [hafter.plain, hsame.awldPlain]
  · rw [hafter.trans_copy, hsame.awldTrans]
  · rw [markSet, hafter.tvalid, contains_awldMarks, hsame.arr]

/-- ASLD where it issues at once in a calm state. -/
theorem exec_asld {s : State} {p : Part} {w : AWord} (hc : calm s) (h : issuesNow s p .arr (.arr .asld w) = true) :
    ∃ t, exec (.asld p w) s = .next t ∧ arrFrame s t ∧ t.arr.acc = s.arr.acc ∧ t.arr.plain = s.arr.plain
      ∧ t.arr.scale = s.arr.scale.write (4096 * b2n w.sbk) (asldBytes s p w) := by
  obtain ⟨s1, idx, hsame, hafter⟩ := pushWord_arr_effect (by decide) h
  obtain ⟨s2, hsame2, hrun⟩ := asldRun_eq s1 p w (hsame.calm hc)
  simp only [arrEffect, hrun] at hafter
  have hbytes : asldBytes s1 p w = asldBytes s p w := by simp only [asldBytes, hsame.tens, hsame.rawSafe]
  refine ⟨_, rfl, arrFrame_of_effect (hsame.trans hsame2) hafter, ?_, ?_, ?_⟩
  · rw [hafter.acc, hsame.arr]
  · rw [hafter.plain, hsame.arr]
  · rw [hafter.scale, hbytes, hsame.arr]

/-- ACLR where it issues at once in a calm state. -/
theorem exec_aclr {s : State} {p : Part} {w : AWord} (hc : calm s) (h : issuesNow s p .arr (.arr .aclr w) = true) :
    ∃ t, exec (.aclr p w) s = .next t ∧ arrFrame s t ∧ t.arr.plain = s.arr.plain ∧ t.arr.scale = s.arr.scale
      ∧ t.arr.acc = (accClear s w.dst.toNat (w.cnt.toNat * w.rowLen)).arr.acc := by
  obtain ⟨s1, idx, hsame, hafter⟩ := pushWord_arr_effect (by decide) h
  simp only [arrEffect, aclrRun_eq s1 w (hsame.calm hc)] at hafter
  refine ⟨_, rfl, arrFrame_of_effect hsame hafter, ?_, ?_, ?_⟩
  · rw [hafter.plain]; simp only [accClear, hsame.arr]
  · rw [hafter.scale]; simp only [accClear, hsame.arr]
  · rw [hafter.acc]; simp only [accClear, hsame.arr]

/-- The bytes of a scale bank that an ASLD fills. -/
theorem get_asldBytes (s : State) (p : Part) (w : AWord) (m : Memory) (a k : Nat) (hk : k < w.cnt.toNat) :
    (m.write a (asldBytes s p w)).get (a + k) =
      BitVec.ofNat 8 (rawSafe s (tens s p w.src.toNat).codes ((tens s p w.src.toNat).rc k).1 ((tens s p w.src.toNat).rc k).2) := by
  rw [Memory.get_write_inside _ _ _ _ (by simpa [asldBytes] using hk), nth_eq_getD]
  simp [asldBytes, hk]

/-! ### The statement -/

/-- Settles O15: AWLD by `exec_awld` and what `filled` holds, ASLD and ACLR by what they write. -/
theorem arrayLoads : Obligations.ArrayLoads := by
  unfold Obligations.ArrayLoads
  intro s p w hc e r code
  refine ⟨fun h hcols hrows _ => ?_, fun h _ => ?_, fun h => ?_⟩
  · obtain ⟨t, ht, hframe, hacc, hscale, hplain, htrans, hmark⟩ := exec_awld hc h
    have hblock := length_shelfLoad_scale s p w.src.toNat r
    have hcode : ∀ k n, n < r.cols → (shelfLoad s p w.src.toNat r).code k n = code k n := fun k n hn => by
      simp only [code]
      split
      · next hsrc => rw [shelfLoad_code_plain hsrc]
      · next hsrc => rw [shelfLoad_code_gathered hsrc k hn]
    refine ⟨t, ht, hframe, hacc, hscale, fun k n hk hn => ?_, fun htwo k n hk hn => ?_, fun htwo => ?_, fun a ha => ?_, hmark⟩
    · rw [hplain, ← hcode k n hn]
      exact readNat_filled (plain_layout hcols) _ hblock _ hk hn
    · rw [htrans, awldTrans, if_pos htwo, ← hcode k n hn]
      exact readNat_filled (trans_layout hrows) _ hblock _ hk hn
    · rw [htrans, awldTrans, htwo]; rfl
    · rw [hplain]
      exact get_filled_outside (plain_layout hcols) _ hblock _ ha
  · obtain ⟨t, ht, hframe, hacc, hplain, hscale⟩ := exec_asld hc h
    refine ⟨t, ht, hframe, hacc, hplain, fun k hk => ?_, fun a ha => ?_⟩
    · rw [hscale, get_asldBytes s p w _ _ k hk]
    · rw [hscale, Memory.get_write_outside _ _ _ _ (by simpa [asldBytes] using ha)]
  · obtain ⟨t, ht, hframe, hplain, hscale, hacc⟩ := exec_aclr hc h
    refine ⟨t, ht, hframe, hplain, hscale, fun x hx => ?_, fun k hk => ?_⟩
    · rw [accGet_congr hacc, accGet_accClear, if_pos (by omega)]
    · rw [accGet_congr hacc]; exact accFrame_accClear s _ _ k hk

end Sys2Proof.Machine
end

section
/-! PROOFS. Blocks of accumulators written one after another, and what a product that issues at once leaves of the array
(R51, R60, R71, R72, R77). -/

namespace Sys2Proof.Machine

/-! ### Accumulators written -/

/-- A store of accumulators after `n` of them from `i` on have been written with what `v` gives. -/
def accWrites (m : Memory) (i n : Nat) (v : Nat → W32) : Memory :=
  (List.range n).foldl (fun m x => m.writeNat (4 * (i + x)) 4 (v x).toNat) m

/-- The state after `n` accumulators from `i` on have been written with what `v` gives. -/
def accFill (s : State) (i n : Nat) (v : Nat → W32) : State :=
  { s with arr := { s.arr with acc := accWrites s.arr.acc i n v } }

theorem accFill_succ (s : State) (i n : Nat) (v : Nat → W32) :
    accFill s i (n + 1) v = accSet (accFill s i n v) (i + n) (v n) := by
  simp only [accFill, accSet, accWrites, List.range_succ, List.foldl_append, List.foldl_cons, List.foldl_nil]

theorem accGet_accFill (s : State) (i n : Nat) (v : Nat → W32) (k : Nat) :
    accGet (accFill s i n v) k = if i ≤ k ∧ k < i + n then v (k - i) else accGet s k := by
  split
  · next h =>
    have hread := Memory.readNat_writes s.arr.acc 4 n (fun x => 4 * (i + x)) (fun x => (v x).toNat)
      (fun x y _ _ hne => by omega) (k - i) (by omega)
    have hk : i + (k - i) = k := by omega
    simp only [hk] at hread
    have hlt : (v (k - i)).toNat < 2 ^ (8 * 4) := (v (k - i)).isLt
    rw [accGet, accFill, accWrites, hread, Nat.mod_eq_of_lt hlt]
    simp
  · next h =>
    have hread : (accWrites s.arr.acc i n v).readNat (4 * k) 4 = s.arr.acc.readNat (4 * k) 4 :=
      Memory.readNat_congr fun a _ _ => Memory.get_writes_outside _ 4 n a (fun x => 4 * (i + x)) _ fun x hx => by omega
    rw [accGet, accFill, hread, accGet]

theorem accGet_accFill_inside (s : State) {i n x : Nat} (v : Nat → W32) (h : x < n) :
    accGet (accFill s i n v) (i + x) = v x := by
  rw [accGet_accFill, if_pos (by omega), Nat.add_sub_cancel_left]

theorem accFrame_accFill (s : State) (i n : Nat) (v : Nat → W32) : accFrame s (accFill s i n v) i n := fun k hk => by
  rw [accGet_accFill, if_neg (by omega)]

theorem accGet_accSet_of_ne (s : State) {i k : Nat} (v : W32) (h : k ≠ i) : accGet (accSet s i v) k = accGet s k := by
  have hread : (accSet s i v).arr.acc.readNat (4 * k) 4 = s.arr.acc.readNat (4 * k) 4 :=
    Memory.readNat_congr fun a _ _ => Memory.get_write_outside _ _ _ _ (by rw [length_bytesOf]; omega)
  rw [accGet, hread, accGet]

/-- Accumulators written one after another, each with a value that no write to another one alters. -/
theorem foldl_accSet (v : State → Nat → W32) (i n : Nat)
    (h : ∀ s k u x, k ≠ i + x → v (accSet s k u) x = v s x) (s : State) :
    (List.range n).foldl (fun t x => accSet t (i + x) (v t x)) s = accFill s i n (v s) := by
  have hsame : ∀ m x, m ≤ x → v (accFill s i m (v s)) x = v s x := by
    intro m
    induction m with
    | zero => intro x _; rfl
    | succ m ih => intro x hx; rw [accFill_succ, h _ _ _ _ (by omega), ih x (by omega)]
  induction n with
  | zero => rfl
  | succ n ih =>
    rw [List.range_succ, List.foldl_append, List.foldl_cons, List.foldl_nil, ih, hsame n n le_rfl, accFill_succ]

/-! ### The block of a product -/

/-- What a product leaves in accumulator `x` of its block: the accumulation of its groups, from the old value under CONT and
from +0 else (R51, R77). -/
def productAt (s : State) (w : AWord) (klen : Nat) (f g : Nat → Nat → Num) (x : Nat) : W32 :=
  (dotFrom w.fmt klen (f (x / w.rowLen)) (g (x % w.rowLen)) (if w.cont then accGet s (w.dst.toNat + x) else 0)
    w.gst.toNat w.gct.toNat).1

theorem productBlock_state (s : State) (w : AWord) (klen : Nat) (f g : Nat → Nat → Num) :
    (productBlock s w klen f g).1 = accFill s w.dst.toNat (w.cnt.toNat * w.rowLen) (productAt s w klen f g) := by
  rw [← foldl_accSet (fun t x => productAt t w klen f g x) w.dst.toNat _ fun t k u x hk => ?_]
  · exact (List.foldl_hom Prod.fst fun _ _ => rfl).symm
  · simp only [productAt, accGet_accSet_of_ne t u (Ne.symm hk)]

theorem blockMeet_of_no_errors {s : State} (h : s.arr.errs = []) (p : Part) (w : AWord) : blockMeet s p w = s := by
  simp only [blockMeet, accMeet, errClear_of_none h, h, List.filter_nil, List.foldl_nil, ite_self]

theorem shelfMeet_of_no_errors {s : State} (h : s.arr.errs = []) (p : Part) (op : AOp) (r : TEntry) (w : AWord)
    (klen : Nat) : shelfMeet s p op r w klen = s := by
  rw [shelfMeet, h, List.foldl_nil]

section Reads

variable {s t : State} (h : sameOperands s t)
include h

theorem sameOperands.elemAt (e : TEntry) (i j : Nat) : elemAt t e i j = elemAt s e i j := by
  simp only [Machine.elemAt, h.poisoned, shiftAt, rawAt, h.mem]

theorem sameOperands.logAt (e : TEntry) : logAt t e = logAt s e :=
  funext fun i => funext fun k => by simp only [Machine.logAt, h.elemAt]

theorem sameOperands.logRow (e : TEntry) : logRow t e = logRow s e :=
  funext fun k => funext fun j => by simp only [Machine.logRow, h.elemAt]

theorem sameOperands.ammWeight (r : TEntry) (w : AWord) : ammWeight t r w = ammWeight s r w :=
  funext fun n => funext fun k => by simp only [Machine.ammWeight, weightShift, scaleGet, h.arr]

theorem sameOperands.ammtWeight (r : TEntry) (w : AWord) : ammtWeight t r w = ammtWeight s r w :=
  funext fun n => funext fun k => by simp only [Machine.ammtWeight, weightShift, scaleGet, h.arr]

theorem sameOperands.productAt (w : AWord) (klen : Nat) (f g : Nat → Nat → Num) :
    productAt t w klen f g = productAt s w klen f g := by
  funext x
  simp only [Machine.productAt, accGet_congr (congrArg ArrayUnit.acc h.arr)]

end Reads

/-- A product block with its counts. -/
theorem tally_productBlock (s : State) (w : AWord) (klen : Nat) (f g : Nat → Nat → Num) :
    ∃ s', sameOperands s s'
      ∧ tally (productBlock s w klen f g).1 blkArr (productBlock s w klen f g).2
        = accFill s' w.dst.toNat (w.cnt.toNat * w.rowLen) (productAt s w klen f g) :=
  ⟨tally s blkArr (productBlock s w klen f g).2, sameOperands_tally .., by rw [productBlock_state]; rfl⟩

/-! ### What each product does to its block -/

/-- The accumulators of an AMM (R60). -/
def ammAt (s : State) (p : Part) (w : AWord) : Nat → W32 :=
  let e := tens s p w.src.toNat
  productAt s w e.lcols (logAt s e) (ammWeight s (entry s p w.aux.toNat) w)

/-- The accumulators of an AMMT on a marked region (R71). -/
def ammtAt (s : State) (p : Part) (w : AWord) : Nat → W32 :=
  let e := tens s p w.src.toNat
  productAt s w e.lcols (logAt s e) (ammtWeight s (entry s p w.aux.toNat) w)

/-- The accumulators of an AACC (R47, R62). -/
def aaccAt (s : State) (p : Part) (w : AWord) : Nat → W32 :=
  let e := tens s p w.src.toNat
  productAt s w e.lrows (fun c k => logRow s e k c) (fun n k => logRow s (tens s p w.aux.toNat) k n)

section Reads

variable {s t : State} (h : sameOperands s t)
include h

theorem sameOperands.ammAt (p : Part) (w : AWord) : ammAt t p w = ammAt s p w := by
  simp only [Machine.ammAt, h.tens, h.entry, h.logAt, h.ammWeight, h.productAt]

theorem sameOperands.ammtAt (p : Part) (w : AWord) : ammtAt t p w = ammtAt s p w := by
  simp only [Machine.ammtAt, h.tens, h.entry, h.logAt, h.ammtWeight, h.productAt]

theorem sameOperands.aaccAt (p : Part) (w : AWord) : aaccAt t p w = aaccAt s p w := by
  simp only [Machine.aaccAt, h.tens, h.logRow, h.productAt]

end Reads

/-- A product of rows in a calm state, its stationary operand from the shelf. -/
theorem shelfProduct_eq {s : State} (hc : calm s) (p : Part) (op : AOp) (r e : TEntry) (w : AWord)
    (g : State → Nat → Nat → Num) (hg : ∀ t, sameOperands s t → g t = g s) :
    ∃ s', sameOperands s s' ∧
      (let t := blockMeet (touchRows s e w) p w
       let o := productBlock t w e.lcols (logAt t e) (g t)
       shelfMeet (tally o.1 blkArr o.2) p op r w e.lcols)
        = accFill s' w.dst.toNat (w.cnt.toNat * w.rowLen) (productAt s w e.lcols (logAt s e) (g s)) := by
  have hread : sameOperands s (touchRows s e w) := sameOperands_touchBlock s e 0 _ _ _ false hc
  obtain ⟨s', hs', hblock⟩ := tally_productBlock (touchRows s e w) w e.lcols (logAt s e) (g s)
  have hnone : s'.arr.errs = [] := ((hread.trans hs').calm hc).2.2
  refine ⟨s', hread.trans hs', ?_⟩
  simp only [blockMeet_of_no_errors (hread.calm hc).2.2, hread.logAt, hg _ hread, hblock, hread.productAt]
  exact shelfMeet_of_no_errors (s := accFill s' _ _ _) hnone ..

theorem ammRun_eq {s : State} (hc : calm s) (p : Part) (w : AWord) :
    ∃ s', sameOperands s s'
      ∧ ammRun s p w = accFill s' w.dst.toNat (w.cnt.toNat * w.rowLen) (ammAt s p w) :=
  shelfProduct_eq hc p .amm (entry s p w.aux.toNat) (tens s p w.src.toNat) w
    (fun t => ammWeight t (entry s p w.aux.toNat) w) fun _ ht => ht.ammWeight ..

theorem ammtRun_eq {s : State} (hc : calm s) {p : Part} {w : AWord}
    (hmark : (s.arr.colr || markSet s p w.aux.toNat) = true) (idx : Nat) :
    ∃ s', sameOperands s s'
      ∧ ammtRun s p w idx = accFill s' w.dst.toNat (w.cnt.toNat * w.rowLen) (ammtAt s p w) := by
  rw [ammtRun, if_neg (by rw [← Bool.not_or, hmark]; decide)]
  exact shelfProduct_eq hc p .ammt (entry s p w.aux.toNat) (tens s p w.src.toNat) w
    (fun t => ammtWeight t (entry s p w.aux.toNat) w) fun _ ht => ht.ammtWeight ..

/-- AMMT on a region whose mark is clear: the block of NaN, then the event and the report (R72). -/
theorem ammtRun_unmarked {s : State} {p : Part} {w : AWord} (hcolr : s.arr.colr = false)
    (hmark : markSet s p w.aux.toNat = false) (idx : Nat) :
    ammtRun s p w idx =
      report (raise (accFill s w.dst.toNat (w.cnt.toNat * w.rowLen) fun _ => 0x7FC00000) p evProgError [idx]) p
        (vNonfin ||| srcArray) := by
  rw [ammtRun, hcolr, hmark, if_pos (by decide), ammtVoid, foldl_accSet (fun _ _ => 0x7FC00000) _ _ fun _ _ _ _ _ => rfl]

theorem sameOperands_touchSlab {s : State} (hc : calm s) (e : TEntry) (w : AWord) (klen n : Nat) :
    sameOperands s (touchSlab s e w klen n) := sameOperands_touchBlock s e _ _ 0 n false hc

theorem aaccRun_eq {s : State} (hc : calm s) (p : Part) (w : AWord) (tileRead : Bool) :
    ∃ s', sameOperands s s'
      ∧ aaccRun s p w tileRead = accFill s' w.dst.toNat (w.cnt.toNat * w.rowLen) (aaccAt s p w) := by
  have htile : sameOperands s (if tileRead then s
      else touchSlab s (tens s p w.src.toNat) w (tens s p w.src.toNat).lrows w.cnt.toNat) := by
    split
    · exact .refl s
    · exact sameOperands_touchSlab hc ..
  have hread := htile.trans (sameOperands_touchSlab (htile.calm hc) (tens s p w.aux.toNat) w
    (tens s p w.src.toNat).lrows w.rowLen)
  obtain ⟨s', hs', hblock⟩ := tally_productBlock _ w (tens s p w.src.toNat).lrows
    (fun c k => logRow s (tens s p w.src.toNat) k c) (fun n k => logRow s (tens s p w.aux.toNat) k n)
  rw [hread.productAt] at hblock
  refine ⟨s', hread.trans hs', ?_⟩
  simp only [aaccRun, blockMeet_of_no_errors (hread.calm hc).2.2, hread.logRow, hblock]
  rfl

end Sys2Proof.Machine
end

section
/-! PROOFS. The reports that array words make (R72, R82, R255), and the array products. -/

namespace Sys2Proof.Machine

/-! ### Reports -/

/-- Reported bits stand among the reports of the job. -/
theorem reported_report {s : State} {p : Part} {j : Job} (hj : getJob s p = some j) (v : W32) :
    reported (report s p v) p v := by
  have hor (b : W32) : (b ||| v) &&& v = v := by
    ext i hi
    simp only [BitVec.getElem_and, BitVec.getElem_or]
    cases b[i] <;> cases v[i] <;> rfl
  refine ⟨_, by rw [report, getJob_modJob, if_pos rfl, hj, Option.map_some], ?_⟩
  cases hlate : lateReport j
  · have hkept : lateReport { j with rep := { j.rep with bits := j.rep.bits ||| v } } = false := hlate
    simp only [hkept, Bool.false_eq_true, if_false, hor]
  · have hkept : lateReport { j with repNext := { j.repNext with bits := j.repNext.bits ||| v } } = true := hlate
    simp only [hkept, if_true, hor]

/-- The reports of a job do not depend on its streams. -/
theorem reported_congr {s t : State} {p : Part}
    (h : (getJob t p).map Job.unstreamed = (getJob s p).map Job.unstreamed) {v : W32} (hr : reported s p v) :
    reported t p v := by
  obtain ⟨j, hj, hbits⟩ := hr
  rw [hj, Option.map_some, Option.map_eq_some_iff] at h
  obtain ⟨k, hk, hjk⟩ := h
  have hlate : lateReport k = lateReport j := (congrArg lateReport hjk :)
  have hrep : k.rep = j.rep := (congrArg Job.rep hjk :)
  have hnext : k.repNext = j.repNext := (congrArg Job.repNext hjk :)
  exact ⟨k, hk, by rw [hlate, hrep, hnext]; exact hbits⟩

/-- A partition that has a job has one where its operands are the same. -/
theorem sameOperands.getJob_isSome {s t : State} (h : sameOperands s t) {p : Part} {j : Job} (hj : getJob s p = some j) :
    ∃ k, getJob t p = some k ∧ k.unstreamed = j.unstreamed := by
  have hjobs := h.jobs p
  rwa [hj, Option.map_some, Option.map_eq_some_iff] at hjobs

theorem getJob_of_issuesNow {s : State} {p : Part} {u : SUnit} {x : SWord} (h : issuesNow s p u x = true) :
    ∃ j, getJob s p = some j := by
  cases hj : getJob s p with
  | none => simp [issuesNow, hj] at h
  | some j => exact ⟨j, rfl⟩

theorem raise_arr (s : State) (p : Part) (code : Nat) (detail : List Nat) : (raise s p code detail).arr = s.arr :=
  (congrArg State.arr (eventFrame_raiseE s _).eventless_eq :)

theorem raise_jobs (s : State) (p : Part) (code : Nat) (detail : List Nat) : (raise s p code detail).jobs = s.jobs :=
  (congrArg State.jobs (eventFrame_raiseE s _).eventless_eq :)

/-! ### The commands -/

/-- What a product leaves of the array beside its accumulators: the shelf, the scale registers, the mode, the marks and the
deferred queue. -/
def storesKept (s t : State) : Prop :=
  t.arr.plain = s.arr.plain ∧ t.arr.trans = s.arr.trans ∧ t.arr.scale = s.arr.scale ∧ t.arr.mode = s.arr.mode
  ∧ t.arr.tvalid = s.arr.tvalid ∧ t.arr.defq = s.arr.defq

/-- The accumulators of a block hold what `v` gives, the others what they held. -/
def blockHolds (s t : State) (i n : Nat) (v : Nat → W32) : Prop :=
  (∀ x, x < n → accGet t (i + x) = v x) ∧ accFrame s t i n

theorem afterIssue.arr_but_flying {u t : State} (h : afterIssue u t) :
    { t.arr with flying := [] } = { u.arr with flying := [] } := (congrArg State.arr h.rest :)

/-- An array that is that of a filled block but for the instructions in flight. -/
theorem block_of_arr {s u t : State} {i n : Nat} {v : Nat → W32} (hu : u.arr = (accFill s i n v).arr)
    (h : afterIssue u t) : storesKept s t ∧ blockHolds s t i n v := by
  have harr := h.arr_but_flying
  rw [hu] at harr
  have hacc (k : Nat) : accGet t k = accGet (accFill s i n v) k := accGet_congr (congrArg ArrayUnit.acc harr :) k
  refine ⟨⟨(congrArg ArrayUnit.plain harr :), (congrArg ArrayUnit.trans harr :), (congrArg ArrayUnit.scale harr :),
    (congrArg ArrayUnit.mode harr :), (congrArg ArrayUnit.tvalid harr :), (congrArg ArrayUnit.defq harr :)⟩,
    fun x hx => ?_, fun k hk => ?_⟩
  · rw [hacc, accGet_accFill_inside s v hx]
  · rw [hacc, accFrame_accFill s i n v k hk]

theorem accFill_arr_of_sameOperands {s s' : State} (hs : sameOperands s s') (i n : Nat) (v : Nat → W32) :
    (accFill s' i n v).arr = (accFill s i n v).arr := by
  simp only [accFill, hs.arr]

/-- A word whose effect is to fill a block of accumulators. -/
theorem filled_effect {s s' t : State} {i n : Nat} {v : Nat → W32} (hs : sameOperands s s')
    (h : afterIssue (accFill s' i n v) t) : arrFrame s t ∧ storesKept s t ∧ blockHolds s t i n v :=
  ⟨arrFrame_of_effect hs h, block_of_arr (accFill_arr_of_sameOperands hs i n v) h⟩

/-- AMM where it issues at once in a calm state. -/
theorem pushWord_amm {s : State} {p : Part} {w : AWord} (hc : calm s) (h : issuesNow s p .arr (.arr .amm w) = true) :
    let t := pushWord s p .arr (.arr .amm w)
    arrFrame s t ∧ storesKept s t ∧ blockHolds s t w.dst.toNat (w.cnt.toNat * w.rowLen) (ammAt s p w) := by
  obtain ⟨s1, idx, hsame, hafter⟩ := pushWord_arr_effect (by decide) h
  obtain ⟨s2, hsame2, hrun⟩ := ammRun_eq (hsame.calm hc) p w
  simp only [arrEffect, hrun, hsame.ammAt] at hafter
  exact filled_effect (hsame.trans hsame2) hafter

theorem sameOperands.marked {s t : State} (h : sameOperands s t) (p : Part) (i : Nat) :
    (t.arr.colr || markSet t p i) = (s.arr.colr || markSet s p i) := by
  simp only [markSet, h.arr]

/-- AMMT on a marked region where it issues at once in a calm state. -/
theorem pushWord_ammt {s : State} {p : Part} {w : AWord} (hc : calm s) (h : issuesNow s p .arr (.arr .ammt w) = true)
    (hmark : (s.arr.colr || markSet s p w.aux.toNat) = true) :
    let t := pushWord s p .arr (.arr .ammt w)
    arrFrame s t ∧ storesKept s t ∧ blockHolds s t w.dst.toNat (w.cnt.toNat * w.rowLen) (ammtAt s p w) := by
  obtain ⟨s1, idx, hsame, hafter⟩ := pushWord_arr_effect (by decide) h
  obtain ⟨s2, hsame2, hrun⟩ := ammtRun_eq (hsame.calm hc) ((hsame.marked ..).trans hmark) idx
  simp only [arrEffect, hrun, hsame.ammtAt] at hafter
  exact filled_effect (hsame.trans hsame2) hafter

/-- AMMT on an unmarked region where it issues at once: NaN, and the report (R72). -/
theorem pushWord_ammt_unmarked {s : State} {p : Part} {w : AWord} (h : issuesNow s p .arr (.arr .ammt w) = true)
    (hcolr : s.arr.colr = false) (hmark : markSet s p w.aux.toNat = false) :
    let t := pushWord s p .arr (.arr .ammt w)
    storesKept s t ∧ blockHolds s t w.dst.toNat (w.cnt.toNat * w.rowLen) (fun _ => 0x7FC00000)
      ∧ reported t p (vNonfin ||| srcArray) := by
  obtain ⟨s1, idx, hsame, hafter⟩ := pushWord_arr_effect (by decide) h
  have hcolr1 : s1.arr.colr = false := by rw [hsame.arr, hcolr]
  have hmark1 : markSet s1 p w.aux.toNat = false := by rw [markSet, hsame.arr]; exact hmark
  simp only [arrEffect, ammtRun_unmarked hcolr1 hmark1] at hafter
  obtain ⟨hstores, hblock⟩ := block_of_arr (s := s) (by
    rw [report_arr, raise_arr, accFill_arr_of_sameOperands hsame]) hafter
  obtain ⟨j, hj⟩ := getJob_of_issuesNow h
  obtain ⟨j1, hj1, -⟩ := hsame.getJob_isSome hj
  refine ⟨hstores, hblock, reported_congr (hafter.jobs p) (reported_report (j := j1) ?_ _)⟩
  rw [getJob_congr (raise_jobs ..)]
  exact hj1

/-- AACC that is not deferred where it issues at once in a calm state. -/
theorem pushWord_aacc {s : State} {p : Part} {w : AWord} (hc : calm s) (h : issuesNow s p .arr (.arr .aacc w) = true)
    (hdef : aaccDeferred s (leadOf s p) = false) :
    let t := pushWord s p .arr (.arr .aacc w)
    arrFrame s t ∧ storesKept s t ∧ blockHolds s t w.dst.toNat (w.cnt.toNat * w.rowLen) (aaccAt s p w) := by
  obtain ⟨s1, idx, hsame, hafter⟩ := pushWord_arr_effect (by decide) h
  have hdef1 : aaccDeferred s1 (leadOf s p) = false := by simpa only [aaccDeferred, hsame.arr] using hdef
  obtain ⟨s2, hsame2, hrun⟩ := aaccRun_eq (hsame.calm hc) p w (decide (leadOf s p = .twin ∧ s1.arr.mode = .twin))
  simp only [arrEffect, hdef1, Bool.false_eq_true, if_false, hrun, hsame.aaccAt] at hafter
  exact filled_effect (hsame.trans hsame2) hafter

/-! ### The statement -/

/-- Settles O13: each product is `filled_effect` of what its run leaves in the block, `productAt`; the AMMT on an unmarked
region fills its block with NaN and reports. -/
theorem arrayProducts : Obligations.ArrayProducts := by
  unfold Obligations.ArrayProducts
  intro s p w hc e r n start block stores
  exact ⟨fun h => ⟨_, rfl, pushWord_amm hc h⟩, fun h hmark => ⟨_, rfl, pushWord_ammt hc h hmark⟩,
    fun h hcolr hmark => ⟨_, rfl, pushWord_ammt_unmarked h hcolr hmark⟩, fun h hdef => ⟨_, rfl, pushWord_aacc hc h hdef⟩⟩

end Sys2Proof.Machine
end

section
/-! PROOFS. Rows of elements laid into device memory: what they leave at each element and elsewhere, and when a write goes
there at once (R68, R121, R131). -/

namespace Sys2Proof.Machine

/-! ### Byte strings written at places that lie apart -/

/-- A memory after `n` byte strings have been written. -/
def stringWrites (m : Memory) (n : Nat) (off : Nat → Nat) (f : Nat → List Byte) : Memory :=
  (List.range n).foldl (fun m i => m.write (off i) (f i)) m

theorem stringWrites_succ (m : Memory) (n : Nat) (off : Nat → Nat) (f : Nat → List Byte) :
    stringWrites m (n + 1) off f = (stringWrites m n off f).write (off n) (f n) := by
  rw [stringWrites, List.range_succ, List.foldl_append, List.foldl_cons, List.foldl_nil, stringWrites]

theorem get_stringWrites_outside (m : Memory) (n a : Nat) (off : Nat → Nat) (f : Nat → List Byte)
    (h : ∀ i, i < n → a < off i ∨ off i + (f i).length ≤ a) : (stringWrites m n off f).get a = m.get a := by
  induction n with
  | zero => rfl
  | succ n ih =>
    rw [stringWrites_succ, Memory.get_write_outside _ _ _ _ (h n (by omega)), ih fun i hi => h i (by omega)]

theorem read_stringWrites (m : Memory) (n : Nat) (off : Nat → Nat) (f : Nat → List Byte)
    (h : ∀ i j, i < j → j < n → off i + (f i).length ≤ off j) (i : Nat) (hi : i < n) :
    (stringWrites m n off f).read (off i) (f i).length = f i := by
  induction n with
  | zero => omega
  | succ n ih =>
    rw [stringWrites_succ]
    by_cases e : i = n
    · rw [e, Memory.read_write]
    · rw [Memory.read_write_outside _ _ _ _ _ (.inl (h i n (by omega) (by omega)))]
      exact ih (fun i j hij hj => h i j hij (by omega)) (by omega)

/-! ### Rows of an entry -/

/-- The bytes of row `i` of an entry's elements, `f` giving the raw bits of each. -/
def elemRowBytes (e : TEntry) (cols : Nat) (f : Nat → Nat → Nat) (i : Nat) : List Byte :=
  ((List.range cols).map (f i)).flatMap (bytesOf (fmtWidth e.fmt))

theorem length_flatMap_bytesOf (vs : List Nat) (w : Nat) : (vs.flatMap (bytesOf w)).length = vs.length * w := by
  simp [List.length_flatMap, List.map_const']

theorem length_elemRowBytes (e : TEntry) (cols : Nat) (f : Nat → Nat → Nat) (i : Nat) :
    (elemRowBytes e cols f i).length = cols * fmtWidth e.fmt := by
  rw [elemRowBytes, length_flatMap_bytesOf, List.length_map, List.length_range]

/-- A memory after the first `cols` elements of `rows` rows of an entry have been written. -/
def rowWrites (m : Memory) (e : TEntry) (rows cols : Nat) (f : Nat → Nat → Nat) : Memory :=
  stringWrites m rows (fun i => e.addr i 0) (elemRowBytes e cols f)

theorem fmtWidth_pos (c : Nat) : 0 < fmtWidth c := by unfold fmtWidth; split <;> decide

theorem addr_eq_add (e : TEntry) (i j : Nat) : e.addr i j = e.addr i 0 + j * fmtWidth e.fmt := by
  simp only [TEntry.addr, Nat.zero_mul, Nat.add_zero]

section Rows

variable {e : TEntry} {cols : Nat} (f : Nat → Nat → Nat) (m : Memory) (rows : Nat)

/-- Rows that fit their pitch: each element reads back. -/
theorem readNat_rowWrites (hfit : cols * fmtWidth e.fmt ≤ e.pitch) {i j : Nat} (hi : i < rows) (hj : j < cols) :
    (rowWrites m e rows cols f).readNat (e.addr i j) (fmtWidth e.fmt) = f i j % 2 ^ (8 * fmtWidth e.fmt) := by
  have hrow := read_stringWrites m rows (fun i => e.addr i 0) (elemRowBytes e cols f) (fun i k hik _ => ?_) i hi
  · rw [length_elemRowBytes] at hrow
    have hinside : j * fmtWidth e.fmt + fmtWidth e.fmt ≤ cols * fmtWidth e.fmt := by
      rw [← Nat.succ_mul]; exact Nat.mul_le_mul_right _ hj
    rw [Memory.readNat, addr_eq_add, Memory.read_part _ _ (cols * fmtWidth e.fmt) _ _ hinside, rowWrites, hrow, elemRowBytes,
      slice_flatMap _ _ _ _ (fun _ _ => length_bytesOf _ _) (by simpa using hj), natOf_bytesOf]
    simp
  · have hpitch : (i + 1) * e.pitch ≤ k * e.pitch := Nat.mul_le_mul_right _ hik
    rw [Nat.succ_mul] at hpitch
    simp only [length_elemRowBytes, TEntry.addr]
    omega

/-- A byte that belongs to none of the elements is as it was. -/
theorem get_rowWrites_outside {a : Nat}
    (ha : ∀ i j, i < rows → j < cols → a < e.addr i j ∨ e.addr i j + fmtWidth e.fmt ≤ a) :
    (rowWrites m e rows cols f).get a = m.get a := by
  refine get_stringWrites_outside m rows a _ _ fun i hi => ?_
  rw [length_elemRowBytes]
  by_contra hin
  have hpos := fmtWidth_pos e.fmt
  have hcol : (a - e.addr i 0) / fmtWidth e.fmt < cols := (Nat.div_lt_iff_lt_mul hpos).2 (by omega)
  have hout := ha i _ hi hcol
  have hdiv := Nat.div_add_mod (a - e.addr i 0) (fmtWidth e.fmt)
  have hmod := Nat.mod_lt (a - e.addr i 0) hpos
  rw [Nat.mul_comm] at hdiv
  rw [addr_eq_add] at hout
  omega

end Rows

/-! ### What a dump leaves as it finds it -/

/-- A job without its streams and its reports. -/
def Job.unreported (j : Job) : Job := { j.unstreamed with rep := {}, repNext := {} }

/-- The state without what reaching operands, writing device memory and reporting may change. -/
def fixedOf (s : State) : State := { operandsOf s with mem := {}, poison := [], spdErr := [] }

/-- Two states that differ in device memory, reports, counts and streams, and in domains that have woken. -/
structure sameFixed (s t : State) : Prop where
  rest : fixedOf t = fixedOf s
  off : ∀ d, dom t d = .off ↔ dom s d = .off
  jobs : ∀ q, (getJob t q).map Job.unreported = (getJob s q).map Job.unreported

/-- Device memory may be written at once: no write is held, no bank group of the scratchpad is off. -/
def writable (s : State) : Prop := s.parked = [] ∧ ∀ d, 36 ≤ d → d ≤ 43 → dom s d ≠ .off

namespace sameFixed

theorem refl (s : State) : sameFixed s s := ⟨rfl, fun _ => Iff.rfl, fun _ => rfl⟩

theorem trans {s t u : State} (h : sameFixed s t) (k : sameFixed t u) : sameFixed s u :=
  ⟨k.rest.trans h.rest, fun d => (k.off d).trans (h.off d), fun q => (k.jobs q).trans (h.jobs q)⟩

theorem of_sameOperands {s t : State} (h : sameOperands s t) : sameFixed s t :=
  ⟨(congrArg (fun s : State => { s with mem := {}, poison := [], spdErr := [] }) h.rest :), h.off,
    h.job_field Job.unreported fun _ => rfl⟩

/-- A change of nothing but device memory. -/
theorem of_mem {s t : State} (h : t = { s with mem := t.mem, poison := t.poison, spdErr := t.spdErr }) : sameFixed s t := by
  rw [h]; exact ⟨rfl, fun _ => Iff.rfl, fun _ => rfl⟩

/-- A change of a job's reports. -/
theorem of_modJob (s : State) (p : Part) {f : Job → Job} (hf : ∀ j, (f j).unreported = j.unreported) :
    sameFixed s (modJob s p f) := by
  refine ⟨congrArg (fun s : State => { s with mem := {}, poison := [], spdErr := [] }) (operandsOf_modJob s p f),
    fun d => by rw [dom_congr (modJob_pwr ..)], fun q => ?_⟩
  rw [getJob_modJob]
  split
  · next e =>
    subst e
    rw [Option.map_map]
    exact congrArg (fun g => (getJob s q).map g) (funext hf)
  · rfl

section Fields

variable {s t : State} (h : sameFixed s t)
include h

theorem arr : t.arr = s.arr := (congrArg State.arr h.rest :)
theorem vec : t.vec = s.vec := (congrArg State.vec h.rest :)
theorem parked : t.parked = s.parked := (congrArg State.parked h.rest :)

theorem writable (hw : writable s) : writable t :=
  ⟨h.parked.trans hw.1, fun d hlo hhi => mt (h.off d).1 (hw.2 d hlo hhi)⟩

/-- What is read of a job beside its streams and its reports. -/
theorem job_field {α : Type} (f : Job → α) (hf : ∀ j, f j.unreported = f j) (q : Part) :
    (getJob t q).map f = (getJob s q).map f := by
  have hcomp : f = f ∘ Job.unreported := funext fun j => (hf j).symm
  rw [hcomp, ← Option.map_map, h.jobs q, Option.map_map]

theorem entry (p : Part) (i : Nat) : entry t p i = entry s p i := by
  have hj := h.job_field Job.plan (fun _ => rfl) p
  unfold Machine.entry
  cases hs : getJob s p <;> cases ht : getJob t p <;> simp_all

theorem tens (p : Part) (i : Nat) : tens t p i = tens s p i := by
  have hj := h.job_field (fun j => (j.plan, j.step)) (fun _ => rfl) p
  unfold Machine.tens
  rw [h.entry p i]
  cases hs : getJob s p <;> cases ht : getJob t p <;> simp_all

theorem rndAt (p : Part) (stoch : Bool) (e : TEntry) (i j : Nat) : rndAt t p stoch e i j = rndAt s p stoch e i j := by
  have hj := h.job_field (fun j => (j.plan, j.kind, j.step)) (fun _ => rfl) p
  simp only [Machine.rndAt, seedOf, galeStep]
  cases hs : getJob s p <;> cases ht : getJob t p <;> simp_all

theorem hitsDeferred (a n : Nat) : hitsDeferred t a n = hitsDeferred s a n := by
  simp only [Machine.hitsDeferred, defSpans, h.arr, h.tens]

end Fields

end sameFixed

/-! ### A write that goes to memory at once -/

theorem anyOff_of_writable {s : State} (h : writable s) (a n : Nat) : anyOff s a n = false := by
  have hgroup (g : Nat) : spdOff s g = false := by
    have := bankOf_lt g
    rw [spdOff, decide_eq_false (h.2 _ (by omega) (by omega)), Bool.and_false]
  rw [anyOff, List.any_eq_false.2 fun g _ => by rw [hgroup]; decide, Bool.and_false]

theorem wr_of_writable {s : State} (h : writable s) {a : Nat} {bs : List Byte} (hd : hitsDeferred s a bs.length = false) :
    wr s a bs = unpoison { s with mem := s.mem.write a bs } a bs.length := by
  have hheld : hitsParked s a bs.length = false := by rw [hitsParked, h.1]; rfl
  rw [wr, hd, hheld, if_neg (by simp), wrNow, anyOff_of_writable h, if_neg (by decide)]

theorem sameFixed_wr {s : State} (h : writable s) {a : Nat} {bs : List Byte} (hd : hitsDeferred s a bs.length = false) :
    sameFixed s (wr s a bs) ∧ (wr s a bs).mem = s.mem.write a bs := by
  rw [wr_of_writable h hd]
  exact ⟨.of_mem rfl, rfl⟩

/-- The rows that a dump writes are free: memory may be written at once, and no queued entry reads them (R68). -/
structure rowsFree (s : State) (e : TEntry) (rows cols : Nat) : Prop where
  memory : writable s
  queue : ∀ i, i < rows → hitsDeferred s (e.addr i 0) (cols * fmtWidth e.fmt) = false

theorem rowsFree.of_sameFixed {s t : State} (h : sameFixed s t) {e : TEntry} {rows cols : Nat} (hf : rowsFree s e rows cols) :
    rowsFree t e rows cols :=
  ⟨h.writable hf.memory, fun i hi => (h.hitsDeferred ..).trans (hf.queue i hi)⟩

/-- A free row is written at once. -/
theorem putRow_of_free {s : State} {e : TEntry} {rows cols i : Nat} (hf : rowsFree s e rows cols) (hi : i < rows)
    (f : Nat → Nat → Nat) :
    sameFixed s (putRow s e i ((List.range cols).map (f i)))
      ∧ (putRow s e i ((List.range cols).map (f i))).mem = s.mem.write (e.addr i 0) (elemRowBytes e cols f i) :=
  sameFixed_wr hf.memory (by
    change hitsDeferred s _ (elemRowBytes e cols f i).length = false
    rw [length_elemRowBytes, hf.queue i hi])

/-- A run over rows each of which is written as `f` says, in states read off by `st`. -/
theorem foldl_rowWrites {γ : Type} (st : γ → State) (step : γ → Nat → γ) {s : State} {e : TEntry} {rows cols : Nat}
    (f : Nat → Nat → Nat)
    (h : ∀ g i, i < rows → sameFixed s (st g) →
      sameFixed (st g) (st (step g i)) ∧ (st (step g i)).mem = (st g).mem.write (e.addr i 0) (elemRowBytes e cols f i))
    (g : γ) (hg : sameFixed s (st g)) :
    sameFixed s (st ((List.range rows).foldl step g))
      ∧ (st ((List.range rows).foldl step g)).mem = rowWrites (st g).mem e rows cols f := by
  induction rows with
  | zero => exact ⟨hg, rfl⟩
  | succ n ih =>
    obtain ⟨hsame, hmem⟩ := ih fun g i hi => h g i (by omega)
    obtain ⟨hstep, hwrite⟩ := h _ n (by omega) hsame
    rw [List.range_succ, List.foldl_append, List.foldl_cons, List.foldl_nil]
    exact ⟨hsame.trans hstep, by rw [hwrite, hmem, rowWrites, rowWrites, stringWrites_succ]⟩

end Sys2Proof.Machine
end

section
/-! PROOFS. Array dumps and moves (R54, R56, R68, R78, R82, R280). -/

namespace Sys2Proof.Machine

/-! ### A dump that issues writes no row that a queued entry reads -/

theorem clear_of_readyOf {clear free on : Bool} (h : readyOf clear free on = .go) : clear = true := by
  cases clear with
  | true => rfl
  | false => simp [readyOf] at h

/-- A word of the array that may issue and is not skipped is ready for its own sake. -/
theorem arrReady_of_wordReady {s : State} {p : Part} {j : Job} {op : AOp} {w : AWord}
    (hskip : (j.arrS.gated && j.vetoed && (SWord.arr op w).skips) = false) (h : wordReady s p j .arr (.arr op w) = .go) :
    arrReady s p j.arrS.lead (j.arrS.held.drop 1) op w = .go := by
  simp only [wordReady, Job.stream, hskip] at h
  split at h
  · cases h
  · split at h
    · cases h
    · rw [if_neg (by decide)] at h
      split at h
      · cases h
      · exact h

/-- A dump or a move that issues at once waits for no queued entry (R68). -/
theorem waitsQueue_of_issuesNow {s : State} {p : Part} {op : AOp} {w : AWord}
    (hop : op = .admp ∨ op = .aldmp ∨ op = .amov) (h : issuesNow s p .arr (.arr op w) = true) :
    waitsQueue (queued s p .arr (.arr op w)) p op w = false := by
  obtain ⟨j, hj⟩ := getJob_of_issuesNow h
  have hskip := not_skipped_of_issuesNow h hj
  have hqueued := queued_job s p .arr (.arr op w) j hj p
  rw [if_pos rfl] at hqueued
  simp only [issuesNow, hj, hqueued, Bool.and_eq_true, beq_iff_eq] at h
  have hready := arrReady_of_wordReady (by exact hskip) h.2
  have hclear : arrClear (queued s p .arr (.arr op w)) p op w = true := by
    rcases hop with rfl | rfl | rfl <;> exact clear_of_readyOf hready
  simp only [arrClear, Bool.and_eq_true, Bool.not_eq_true'] at hclear
  exact hclear.2

theorem row_mem_dumpSpans (s : State) (p : Part) {op : AOp} {w : AWord}
    (hop : op = .admp ∨ op = .aldmp ∨ op = .amov ∧ w.two = false) {i : Nat} (hi : i < w.cnt.toNat) :
    ((tens s p w.dst.toNat).addr i 0,
      Nat.min (tens s p w.dst.toNat).cols w.rowLen * fmtWidth (tens s p w.dst.toNat).fmt) ∈ dumpSpans s p op w := by
  rcases hop with rfl | rfl | ⟨rfl, htwo⟩
  · exact List.mem_flatMap.2 ⟨i, List.mem_range.2 hi, List.mem_cons_self⟩
  · exact List.mem_flatMap.2 ⟨i, List.mem_range.2 hi, List.mem_cons_self⟩
  · simp only [dumpSpans, htwo, Bool.false_eq_true, if_false]
    exact List.mem_flatMap.2 ⟨i, List.mem_range.2 hi, List.mem_cons_self⟩

/-- The rows that a dump or a move that issues at once writes are free. -/
theorem rowsFree_of_issuesNow {s : State} {p : Part} {op : AOp} {w : AWord} (hc : calm s) (hparked : s.parked = [])
    (hop : op = .admp ∨ op = .aldmp ∨ op = .amov ∧ w.two = false) (h : issuesNow s p .arr (.arr op w) = true) :
    rowsFree s (tens s p w.dst.toNat) w.cnt.toNat (Nat.min (tens s p w.dst.toNat).cols w.rowLen) := by
  have hqueued : sameFixed s (queued s p .arr (.arr op w)) := .of_sameOperands (sameOperands_modStream ..)
  have hwaits := waitsQueue_of_issuesNow (hop.imp_right (Or.imp_right And.left)) h
  rw [waitsQueue, Bool.or_eq_false_iff, writesQueued, List.any_eq_false] at hwaits
  refine ⟨⟨hparked, hc.1⟩, fun i hi => ?_⟩
  have hrow := hwaits.2 _ (row_mem_dumpSpans _ p hop hi)
  rw [Bool.not_eq_true, hqueued.hitsDeferred, hqueued.tens] at hrow
  exact hrow

/-! ### The rows of a block -/

/-- Column `c` of row `i` of the block that a dump moves. -/
def dumpAcc (s : State) (w : AWord) (i c : Nat) : W32 := accGet s (w.src.toNat + i * w.rowLen + c)

theorem dumpAcc_congr {s t : State} (h : t.arr = s.arr) (w : AWord) : dumpAcc t w = dumpAcc s w :=
  funext fun _ => funext fun _ => accGet_congr (congrArg ArrayUnit.acc h) _

theorem dumpRow_eq (s : State) (e : TEntry) (w : AWord) (i : Nat) :
    dumpRow s e w w.src.toNat i = (List.range (Nat.min e.cols w.rowLen)).map (dumpAcc s w i) := rfl

theorem sameOperands_dumpMeet {s : State} (hc : calm s) (p : Part) (e : TEntry) (w : AWord) :
    sameOperands s (dumpMeet s p e w) := by
  have hmeet : (List.range w.cnt.toNat).foldl
      (fun s r => accMeet s p (w.src.toNat + r * w.rowLen) (Nat.min e.cols w.rowLen)) s = s :=
    List.foldlRecOn (motive := (· = s)) _ _ rfl fun t ht r _ => by
      rw [ht, accMeet, hc.2.2, List.filter_nil, List.foldl_nil]
  simp only [dumpMeet, hmeet]
  exact sameOperands_touchBlock s e 0 _ 0 _ true hc

/-- The rows that a dump or a move lays into its entry. -/
def dumpWrites (m : Memory) (e : TEntry) (w : AWord) (f : Nat → Nat → Nat) : Memory :=
  rowWrites m e w.cnt.toNat (Nat.min e.cols w.rowLen) f

/-- A dump's run over its rows: each row is written as `f` says, in states read off by `st`. -/
theorem foldl_dumpWrites {γ : Type} (st : γ → State) (step : γ → Nat → γ) {s : State} {p : Part} {e : TEntry} {w : AWord}
    (hc : calm s) (hf : rowsFree s e w.cnt.toNat (Nat.min e.cols w.rowLen)) (f : Nat → Nat → Nat)
    (h : ∀ g i, sameFixed s (st g) → ∃ t, sameFixed t (st (step g i)) ∧ (st (step g i)).mem = t.mem
      ∧ t = putRow (st g) e i ((List.range (Nat.min e.cols w.rowLen)).map (f i)))
    (g : γ) (hg : st g = dumpMeet s p e w) :
    sameFixed s (st ((List.range w.cnt.toNat).foldl step g))
      ∧ (st ((List.range w.cnt.toNat).foldl step g)).mem = dumpWrites s.mem e w f := by
  have hmeet := sameOperands_dumpMeet hc p e w
  rw [← hmeet.mem, ← hg]
  refine foldl_rowWrites st step f (fun g i hi hs => ?_) g (by rw [hg]; exact .of_sameOperands hmeet)
  obtain ⟨t, hsame, hmem, ht⟩ := h g i hs
  obtain ⟨hput, hwrite⟩ := putRow_of_free (hf.of_sameFixed hs) hi f
  rw [← ht] at hput hwrite
  exact ⟨hput.trans hsame, hmem.trans hwrite⟩

/-! ### ADMP -/

/-- What an ADMP into a float format stores of each accumulator (R56). -/
def admpRaw (s : State) (p : Part) (e : TEntry) (w : AWord) (i c : Nat) : Nat :=
  if w.fmt = 1 then (dumpAcc s w i c).toNat
  else (toRaw w.fmt (rndAt s p w.scl e i c) (ofOpal (dumpAcc s w i c)).toRes).1

theorem admpRaw_congr {s t : State} (h : sameFixed s t) (p : Part) (e : TEntry) (w : AWord) :
    admpRaw t p e w = admpRaw s p e w :=
  funext fun i => funext fun c => by simp only [admpRaw, h.rndAt, dumpAcc_congr h.arr]

theorem admpRow_float (p : Part) (e : TEntry) (w : AWord) (acc : State × Counts) (i : Nat) (hfmt : w.fmt ≠ 3) :
    (admpRow p e w acc i).1
      = putRow acc.1 e i ((List.range (Nat.min e.cols w.rowLen)).map (admpRaw acc.1 p e w i)) := by
  simp only [admpRow, if_neg hfmt, dumpFloat, dumpRow_eq]
  congr 1
  refine List.ext_getElem (by simp) fun k hk _ => ?_
  simp only [List.getElem_map, List.getElem_zipIdx, List.getElem_range, Nat.zero_add, dumpElem, admpRaw]
  split <;> rfl

/-- The rows of an ADMP into a float format. -/
theorem admpRows_float {s : State} {p : Part} {e : TEntry} {w : AWord} (hc : calm s)
    (hf : rowsFree s e w.cnt.toNat (Nat.min e.cols w.rowLen)) (hfmt : w.fmt ≠ 3) :
    let o := (List.range w.cnt.toNat).foldl (admpRow p e w) (dumpMeet s p e w, {})
    sameFixed s o.1 ∧ o.1.mem = dumpWrites s.mem e w (admpRaw s p e w) :=
  foldl_dumpWrites Prod.fst (admpRow p e w) hc hf _
    (fun g i hs => ⟨_, .refl _, rfl, by rw [admpRow_float p e w g i hfmt, admpRaw_congr hs]⟩) _ rfl

/-- The array and the vector engine. -/
def enginesOf (s : State) : ArrayUnit × VectorUnit := (s.arr, s.vec)

theorem enginesOf_wr (s : State) (a : Nat) (bs : List Byte) : enginesOf (wr s a bs) = enginesOf s := by
  have hraise (s : State) (e : Event) : enginesOf (raiseE s e) = enginesOf s :=
    (congrArg enginesOf (eventFrame_raiseE s e).eventless_eq :)
  unfold wr wrNow
  split
  · rfl
  · split
    · exact hraise _ _
    · rfl

theorem enginesOf_dumpBlock (s : State) (p : Part) (e : TEntry) (w : AWord) (r k : Nat) (xs : List W32) :
    enginesOf (dumpBlock s p e w r k xs).1 = enginesOf s := by
  simp only [dumpBlock, enginesOf_wr]
  split
  · rfl
  · exact enginesOf_wr ..

/-- A row of a dump in any format writes neither engine. -/
theorem enginesOf_admpRow (p : Part) (e : TEntry) (w : AWord) (acc : State × Counts) (r : Nat) :
    enginesOf (admpRow p e w acc r).1 = enginesOf acc.1 := by
  by_cases hfmt : w.fmt = 3
  · simp only [admpRow, if_pos hfmt]
    refine List.foldlRecOn (motive := fun o : State × Counts => enginesOf o.1 = enginesOf acc.1) _ _ rfl fun o ho k _ => ?_
    exact (enginesOf_dumpBlock ..).trans ho
  · rw [admpRow_float p e w acc r hfmt]
    exact enginesOf_wr ..

theorem enginesOf_admpRows {s : State} (hc : calm s) (p : Part) (e : TEntry) (w : AWord) :
    enginesOf ((List.range w.cnt.toNat).foldl (admpRow p e w) (dumpMeet s p e w, {})).1 = enginesOf s := by
  have hmeet := sameOperands_dumpMeet hc p e w
  refine List.foldlRecOn (motive := fun o : State × Counts => enginesOf o.1 = enginesOf s) _ _ ?_ fun o ho r _ => ?_
  · rw [enginesOf, hmeet.arr, hmeet.vec, enginesOf]
  · exact (enginesOf_admpRow ..).trans ho

/-! ### The end of a dump -/

/-- The end of a dump: the block cleared, the counts and the report made, the entry noted (R82, R244). -/
def dumpEnd (s : State) (p : Part) (w : AWord) (clear nf : Bool) (c : Counts) : State :=
  noteDump (arrReport (if clear then accClear s w.src.toNat (w.cnt.toNat * w.rowLen) else s) p w.grad nf c) p w.dst.toNat

theorem admpRun_eq (s : State) (p : Part) (w : AWord) :
    admpRun s p w =
      let e := tens s p w.dst.toNat
      let o := (List.range w.cnt.toNat).foldl (admpRow p e w) (dumpMeet s p e w, {})
      dumpEnd o.1 p w w.cont (dumpNonfinite (dumpMeet s p e w) e w || decide (0 < o.2.ovf)) o.2 := rfl

theorem arrReport_arr (s : State) (p : Part) (g n : Bool) (c : Counts) : (arrReport s p g n c).arr = s.arr := by
  simp only [arrReport]; split <;> simp
theorem arrReport_vec (s : State) (p : Part) (g n : Bool) (c : Counts) : (arrReport s p g n c).vec = s.vec := by
  simp only [arrReport]; split <;> simp
theorem arrReport_mem (s : State) (p : Part) (g n : Bool) (c : Counts) : (arrReport s p g n c).mem = s.mem := by
  simp only [arrReport]; split <;> simp

theorem dumpEnd_arr (s : State) (p : Part) (w : AWord) (clear nf : Bool) (c : Counts) :
    (dumpEnd s p w clear nf c).arr = (if clear then accClear s w.src.toNat (w.cnt.toNat * w.rowLen) else s).arr := by
  rw [dumpEnd, noteDump, modJob_arr, arrReport_arr]

theorem dumpEnd_vec (s : State) (p : Part) (w : AWord) (clear nf : Bool) (c : Counts) :
    (dumpEnd s p w clear nf c).vec = s.vec := by
  rw [dumpEnd, noteDump, modJob_vec, arrReport_vec]; split <;> rfl

theorem dumpEnd_mem (s : State) (p : Part) (w : AWord) (clear nf : Bool) (c : Counts) :
    (dumpEnd s p w clear nf c).mem = s.mem := by
  rw [dumpEnd, noteDump, modJob_mem, arrReport_mem]; split <;> rfl

/-- The accumulators after a dump that clears its block: those of the block are 0, the others as they were (R78). -/
theorem block_of_cleared {s u t : State} {i n : Nat} (hu : u.arr = (accClear s i n).arr) (h : afterIssue u t) :
    blockHolds s t i n fun _ => 0 := by
  have hacc (k : Nat) : accGet t k = accGet (accClear s i n) k := accGet_congr (h.acc.trans (congrArg ArrayUnit.acc hu)) k
  refine ⟨fun x hx => ?_, fun k hk => ?_⟩
  · rw [hacc, accGet_accClear, if_pos (by omega)]
  · rw [hacc, accFrame_accClear s i n k hk]

/-- A report does not depend on the tensor entries that dumps have written. -/
theorem reported_noteDump {s : State} {p : Part} {v : W32} (h : reported s p v) (d : Nat) : reported (noteDump s p d) p v := by
  obtain ⟨j, hj, hbits⟩ := h
  refine ⟨_, by rw [noteDump, getJob_modJob, if_pos rfl, hj, Option.map_some], ?_⟩
  split <;> exact hbits

/-- A dump under GRAD that met a value that is not finite reports it (R82). -/
theorem reported_dumpEnd {s : State} {p : Part} {j : Job} (hj : getJob s p = some j) (w : AWord) (clear : Bool) {nf : Bool}
    (c : Counts) (hgrad : w.grad = true) (hnf : nf = true) : reported (dumpEnd s p w clear nf c) p (vNonfin ||| srcArray) := by
  refine reported_noteDump ?_ _
  rw [arrReport, hgrad, hnf, if_pos (by decide)]
  refine reported_report (j := j) ?_ _
  split <;> exact hj

theorem dumpNonfinite_of_mem {s : State} {e : TEntry} {w : AWord} {i c : Nat} (hi : i < w.cnt.toNat)
    (hc : c < Nat.min e.cols w.rowLen) (h : (ofOpal (dumpAcc s w i c)).isFinite = false) : dumpNonfinite s e w = true := by
  refine List.any_eq_true.2 ⟨i, List.mem_range.2 hi, List.any_eq_true.2 ⟨dumpAcc s w i c, ?_, by rw [h]; rfl⟩⟩
  exact List.mem_map.2 ⟨c, List.mem_range.2 hc, rfl⟩

/-! ### ALDMP -/

/-- The grid index and the grid exponent that an ALDMP finds for its tensor entry (R280, R282). -/
def aldmpGrid (s : State) (p : Part) (w : AWord) : Option Nat × Int :=
  let ki := match getJob s p with | none => none | some j => gridOfTensor j.plan w.dst.toNat
  (ki, match getJob s p, ki with | some j, some k => gridExp j k | _, _ => 0)

/-- One row of an ALDMP under a grid index and exponent. -/
def aldmpRow (p : Part) (e : TEntry) (w : AWord) (g : Option Nat × Int) (acc : State × Counts) (r : Nat) : State × Counts :=
  let os := (dumpRow acc.1 e w w.src.toNat r).map fun x => (toGrid 16 g.2 (ofOpal x), emaxOf (ofOpal x))
  let s := putRow acc.1 e r (os.map fun o => pat 16 o.1.code)
  let s := match g.1 with
    | some k => os.foldl (fun s o => reportGrid s p k o.1.nf o.1.sat o.2) s
    | none => s
  (s, os.foldl (fun c o => c.add o.1.counts) acc.2)

theorem aldmpRun_eq (s : State) (p : Part) (w : AWord) :
    aldmpRun s p w =
      let e := tens s p w.dst.toNat
      let t := dumpMeet s p e w
      let o := (List.range w.cnt.toNat).foldl (aldmpRow p e w (aldmpGrid t p w)) (t, {})
      dumpEnd o.1 p w true (dumpNonfinite t e w) o.2 := rfl

/-- The grid code that an ALDMP stores of each accumulator under a grid exponent (R280). -/
def aldmpRaw (s : State) (w : AWord) (g : Int) (i c : Nat) : Nat := pat 16 (toGrid 16 g (ofOpal (dumpAcc s w i c))).code

/-- The reports of grid values change neither memory nor what a dump reads. -/
theorem sameFixed_reportGrids {α : Type} (p : Part) (k : Nat) (nf sat : α → Bool) (emax : α → Int) (l : List α) (s : State) :
    let t := l.foldl (fun s o => reportGrid s p k (nf o) (sat o) (emax o)) s
    sameFixed s t ∧ t.mem = s.mem := by
  refine List.foldlRecOn (motive := fun t => sameFixed s t ∧ t.mem = s.mem) _ _ ⟨.refl s, rfl⟩ fun t ht o _ => ?_
  obtain ⟨hsame, hmem⟩ := ht
  refine ⟨hsame.trans (.of_modJob t p fun j => ?_), (modJob_mem ..).trans hmem⟩
  split <;> rfl

theorem aldmpRow_state (p : Part) (e : TEntry) (w : AWord) (g : Option Nat × Int) (acc : State × Counts) (i : Nat) :
    ∃ t, sameFixed t (aldmpRow p e w g acc i).1 ∧ (aldmpRow p e w g acc i).1.mem = t.mem
      ∧ t = putRow acc.1 e i ((List.range (Nat.min e.cols w.rowLen)).map (aldmpRaw acc.1 w g.2 i)) := by
  refine ⟨_, ?_, ?_, rfl⟩ <;> simp only [aldmpRow, dumpRow_eq, List.map_map]
  · split
    · exact (sameFixed_reportGrids ..).1
    · exact .refl _
  · split
    · exact (sameFixed_reportGrids ..).2
    · rfl

/-- The rows of an ALDMP. -/
theorem aldmpRows {s : State} {p : Part} {e : TEntry} {w : AWord} (hc : calm s)
    (hf : rowsFree s e w.cnt.toNat (Nat.min e.cols w.rowLen)) (g : Option Nat × Int) :
    let o := (List.range w.cnt.toNat).foldl (aldmpRow p e w g) (dumpMeet s p e w, {})
    sameFixed s o.1 ∧ o.1.mem = dumpWrites s.mem e w (aldmpRaw s w g.2) :=
  foldl_dumpWrites Prod.fst (aldmpRow p e w g) hc hf _ (fun acc i hs => by
    have hrow := aldmpRow_state p e w g acc i
    rwa [show aldmpRaw acc.1 w g.2 = aldmpRaw s w g.2 by unfold aldmpRaw; rw [dumpAcc_congr hs.arr]] at hrow) _ rfl

/-- The grid exponent of an entry that a grid index names (R280, R282). -/
theorem aldmpGrid_of_grid {s t : State} (h : sameOperands s t) {p : Part} {w : AWord} {j : Job} {k : Nat}
    (hj : getJob s p = some j) (hk : gridOfTensor j.plan w.dst.toNat = some k) : (aldmpGrid t p w).2 = gridExp j k := by
  obtain ⟨j', hj', hsame⟩ := h.getJob_isSome hj
  have hplan : j'.plan = j.plan := (congrArg Job.plan hsame :)
  have hexp : gridExp j' k = gridExp j k := (congrArg (gridExp · k) hsame :)
  simp only [aldmpGrid, hj', hplan, hk, hexp]

/-! ### AMOV -/

/-- AMOV to the scratchpad: its rows (R82). -/
theorem amovOut_rows {s : State} {p : Part} {w : AWord} (hc : calm s)
    (hf : rowsFree s (tens s p w.dst.toNat) w.cnt.toNat (Nat.min (tens s p w.dst.toNat).cols w.rowLen)) :
    sameFixed s (amovOut s p w)
      ∧ (amovOut s p w).mem = dumpWrites s.mem (tens s p w.dst.toNat) w fun i c => (dumpAcc s w i c).toNat :=
  foldl_dumpWrites id _ hc hf _ (fun t i hs => ⟨_, .refl _, rfl, by
    rw [← dumpAcc_congr hs.arr, dumpRow_eq, List.map_map]; rfl⟩) _ rfl

/-- The state after the first `cols` accumulators of each of `rows` rows of a block have been written. -/
def accRows (s : State) (base rowLen cols rows : Nat) (v : Nat → Nat → W32) : State :=
  (List.range rows).foldl (fun t r => accFill t (base + r * rowLen) cols (v r)) s

theorem accRows_succ (s : State) (base rowLen cols rows : Nat) (v : Nat → Nat → W32) :
    accRows s base rowLen cols (rows + 1) v
      = accFill (accRows s base rowLen cols rows v) (base + rows * rowLen) cols (v rows) := by
  rw [accRows, List.range_succ, List.foldl_append, List.foldl_cons, List.foldl_nil, accRows]

theorem accRows_eq (s : State) (base rowLen cols rows : Nat) (v : Nat → Nat → W32) :
    ∃ m, accRows s base rowLen cols rows v = { s with arr := { s.arr with acc := m } } := by
  induction rows with
  | zero => exact ⟨s.arr.acc, rfl⟩
  | succ n ih =>
    obtain ⟨m, hm⟩ := ih
    exact ⟨accWrites m (base + n * rowLen) cols (v n), by rw [accRows_succ, hm]; rfl⟩

theorem accGet_accRows (s : State) {base rowLen cols rows : Nat} (v : Nat → Nat → W32) (hcols : cols ≤ rowLen) (k : Nat) :
    accGet (accRows s base rowLen cols rows v) k =
      if base ≤ k ∧ k - base < rows * rowLen ∧ (k - base) % rowLen < cols
      then v ((k - base) / rowLen) ((k - base) % rowLen) else accGet s k := by
  induction rows with
  | zero => rw [if_neg (by omega)]; rfl
  | succ n ih =>
    rw [accRows_succ, accGet_accFill, ih, Nat.succ_mul]
    by_cases hrow : base + n * rowLen ≤ k ∧ k < base + n * rowLen + cols
    · obtain ⟨c, hk⟩ := Nat.exists_eq_add_of_le hrow.1
      have hx : k - base = c + n * rowLen := by omega
      have hc : c < rowLen := by omega
      have hdiv : (k - base) / rowLen = n := by
        rw [hx, Nat.add_mul_div_right _ _ (by omega), Nat.div_eq_of_lt hc, Nat.zero_add]
      have hmod : (k - base) % rowLen = c := by rw [hx, Nat.add_mul_mod_self_right, Nat.mod_eq_of_lt hc]
      rw [if_pos hrow, if_pos (by omega), hdiv, hmod, hk, Nat.add_sub_cancel_left]
    · have hiff : (base ≤ k ∧ k - base < n * rowLen ∧ (k - base) % rowLen < cols)
          ↔ base ≤ k ∧ k - base < n * rowLen + rowLen ∧ (k - base) % rowLen < cols := by
        refine ⟨by omega, fun ⟨hbase, hlt, hcol⟩ => ⟨hbase, ?_, hcol⟩⟩
        by_contra hge
        obtain ⟨c, hk⟩ := Nat.exists_eq_add_of_le (not_lt.1 hge)
        rw [hk, Nat.add_comm, Nat.add_mul_mod_self_right, Nat.mod_eq_of_lt (by omega)] at hcol
        omega
      rw [if_neg hrow]
      simp only [hiff]

/-- The rows of raw bits that an AMOV writes into the accumulator store, where no bit error waits. -/
theorem foldl_amovRow {s : State} (hnone : s.arr.errs = []) (e : TEntry) (base rowLen cols rows : Nat) :
    (List.range rows).foldl (fun t r => (List.range cols).foldl
        (fun t c => accSet t (base + r * rowLen + c) (BitVec.ofNat 32 (rawSafe t e r c)))
        (errClear t 0 (4 * (base + r * rowLen)) (4 * cols))) s
      = accRows s base rowLen cols rows fun r c => BitVec.ofNat 32 (rawSafe s e r c) := by
  induction rows with
  | zero => rfl
  | succ n ih =>
    obtain ⟨m, hm⟩ := accRows_eq s base rowLen cols n fun r c => BitVec.ofNat 32 (rawSafe s e r c)
    rw [List.range_succ, List.foldl_append, List.foldl_cons, List.foldl_nil, ih, accRows_succ, hm,
      errClear_of_none (s := { s with arr := { s.arr with acc := m } }) hnone,
      foldl_accSet (fun t c => BitVec.ofNat 32 (rawSafe t e n c)) _ _ fun _ _ _ _ _ => rfl]
    rfl

/-- AMOV into the accumulator store in a calm state (R82). -/
theorem amovIn_eq {s : State} (hc : calm s) (p : Part) (w : AWord) :
    ∃ s', sameOperands s s' ∧ amovIn s p w =
      let e := tens s p w.src.toNat
      accRows s' w.dst.toNat w.rowLen (Nat.min e.cols w.rowLen) w.cnt.toNat fun r c => BitVec.ofNat 32 (rawSafe s e r c) := by
  let e := tens s p w.src.toNat
  have hread : sameOperands s (touchBlock s e 0 w.cnt.toNat 0 (Nat.min e.cols w.rowLen) false) :=
    sameOperands_touchBlock s e 0 _ 0 _ false hc
  refine ⟨_, hread, ?_⟩
  simp only [← hread.rawSafe]
  exact foldl_amovRow (hread.calm hc).2.2 e _ _ _ _

end Sys2Proof.Machine
end

section
/-! PROOFS. What the dumps and moves of the array leave where they issue at once (R54, R56, R78, R82). -/

namespace Sys2Proof.Machine

/-! ### The runs in a calm state -/

section Runs

variable {s : State} (hc : calm s) {p : Part} {w : AWord}
include hc

/-- An ADMP of any format changes of the two engines its block under CLR. -/
theorem admpRun_engines : (admpRun s p w).vec = s.vec
    ∧ (admpRun s p w).arr = (if w.cont then accClear s w.src.toNat (w.cnt.toNat * w.rowLen) else s).arr := by
  have hrows := enginesOf_admpRows hc p (tens s p w.dst.toNat) w
  have harr := congrArg Prod.fst hrows
  have hvec := congrArg Prod.snd hrows
  simp only [enginesOf] at harr hvec
  rw [admpRun_eq, dumpEnd_vec, dumpEnd_arr]
  refine ⟨hvec, ?_⟩
  cases w.cont
  · exact harr
  · simp only [accClear, if_true, harr]

/-- The rows that an ADMP into a float format stores, and its report (R56, R82). -/
theorem admpRun_float (hf : rowsFree s (tens s p w.dst.toNat) w.cnt.toNat (Nat.min (tens s p w.dst.toNat).cols w.rowLen))
    (hfmt : w.fmt ≠ 3) : (admpRun s p w).mem = dumpWrites s.mem (tens s p w.dst.toNat) w (admpRaw s p (tens s p w.dst.toNat) w)
    ∧ ∀ j, getJob s p = some j → w.grad = true → (∃ i c, i < w.cnt.toNat ∧ c < Nat.min (tens s p w.dst.toNat).cols w.rowLen
        ∧ (ofOpal (dumpAcc s w i c)).isFinite = false) → reported (admpRun s p w) p (vNonfin ||| srcArray) := by
  obtain ⟨hfixed, hmem⟩ := admpRows_float hc hf hfmt
  refine ⟨by rw [admpRun_eq, dumpEnd_mem, hmem], fun j hj hgrad ⟨i, c, hi, hcol, hinf⟩ => ?_⟩
  have hjob := hfixed.jobs p
  rw [hj, Option.map_some, Option.map_eq_some_iff] at hjob
  obtain ⟨k, hk, -⟩ := hjob
  have hnf := dumpNonfinite_of_mem (s := dumpMeet s p (tens s p w.dst.toNat) w) hi hcol
    (by rw [dumpAcc_congr (sameOperands_dumpMeet hc ..).arr, hinf])
  rw [admpRun_eq]
  exact reported_dumpEnd hk w w.cont _ hgrad (by rw [hnf, Bool.true_or])

/-- An ALDMP stores the grid codes of its rows and clears its block (R54, R78, R280). -/
theorem aldmpRun_effect
    (hf : rowsFree s (tens s p w.dst.toNat) w.cnt.toNat (Nat.min (tens s p w.dst.toNat).cols w.rowLen)) :
    ∃ s', sameOperands s s' ∧ (aldmpRun s p w).vec = s.vec
      ∧ (aldmpRun s p w).arr = (accClear s w.src.toNat (w.cnt.toNat * w.rowLen)).arr
      ∧ (aldmpRun s p w).mem = dumpWrites s.mem (tens s p w.dst.toNat) w (aldmpRaw s w (aldmpGrid s' p w).2) := by
  obtain ⟨hfixed, hmem⟩ := aldmpRows (p := p) hc hf (aldmpGrid (dumpMeet s p (tens s p w.dst.toNat) w) p w)
  refine ⟨_, sameOperands_dumpMeet hc p (tens s p w.dst.toNat) w, ?_⟩
  rw [aldmpRun_eq, dumpEnd_vec, dumpEnd_arr, dumpEnd_mem]
  exact ⟨hfixed.vec, by simp only [accClear, if_true, hfixed.arr], hmem⟩

end Runs

/-! ### The commands -/

theorem rowsFree.of_sameOperands {s t : State} (h : sameOperands s t) {p : Part} {i rows rowLen : Nat}
    (hf : rowsFree s (tens s p i) rows (Nat.min (tens s p i).cols rowLen)) :
    rowsFree t (tens t p i) rows (Nat.min (tens t p i).cols rowLen) := by
  rw [h.tens]
  exact hf.of_sameFixed (.of_sameOperands h)

theorem accClear_arr_of_sameOperands {s s' : State} (h : sameOperands s s') (i n : Nat) :
    (accClear s' i n).arr = (accClear s i n).arr := by simp only [accClear, h.arr]

section Commands

variable {s : State} (hc : calm s) {p : Part} {w : AWord}
include hc

/-- ADMP of any format where it issues at once: the block is cleared under CLR. -/
theorem pushWord_admp (h : issuesNow s p .arr (.arr .admp w) = true) :
    let t := pushWord s p .arr (.arr .admp w)
    t.vec = s.vec ∧ (w.cont = false → t.arr.acc = s.arr.acc)
      ∧ (w.cont = true → blockHolds s t w.src.toNat (w.cnt.toNat * w.rowLen) fun _ => 0) := by
  obtain ⟨s1, idx, hsame, hafter⟩ := pushWord_arr_effect (by decide) h
  obtain ⟨hvec, harr⟩ := admpRun_engines (p := p) (w := w) (hsame.calm hc)
  refine ⟨hafter.vec.trans (hvec.trans hsame.vec), fun hclr => ?_, fun hclr => ?_⟩ <;> rw [hclr] at harr
  · exact hafter.acc.trans (congrArg ArrayUnit.acc (harr.trans hsame.arr))
  · exact block_of_cleared (harr.trans (accClear_arr_of_sameOperands hsame ..)) hafter

variable (hparked : s.parked = [])
include hparked

/-- ADMP into a float format where it issues at once: its rows, and its report. -/
theorem pushWord_admp_float (h : issuesNow s p .arr (.arr .admp w) = true) (hfmt : w.fmt ≠ 3) :
    let t := pushWord s p .arr (.arr .admp w)
    let d := tens s p w.dst.toNat
    t.mem = dumpWrites s.mem d w (admpRaw s p d w)
      ∧ (w.grad = true → (∃ i c, i < w.cnt.toNat ∧ c < Nat.min d.cols w.rowLen
          ∧ (ofOpal (dumpAcc s w i c)).isFinite = false) → reported t p (vNonfin ||| srcArray)) := by
  have hfree := rowsFree_of_issuesNow hc hparked (.inl rfl) h
  obtain ⟨s1, idx, hsame, hafter⟩ := pushWord_arr_effect (by decide) h
  obtain ⟨hmem, hreport⟩ := admpRun_float (hsame.calm hc) (hfree.of_sameOperands hsame) hfmt
  rw [hsame.mem, hsame.tens, admpRaw_congr (.of_sameOperands hsame)] at hmem
  rw [hsame.tens, dumpAcc_congr hsame.arr] at hreport
  obtain ⟨j, hj⟩ := getJob_of_issuesNow h
  obtain ⟨j1, hj1, -⟩ := hsame.getJob_isSome hj
  exact ⟨hafter.mem.trans hmem, fun hgrad hinf => reported_congr (hafter.jobs p) (hreport j1 hj1 hgrad hinf)⟩

/-- ALDMP where it issues at once. -/
theorem pushWord_aldmp (h : issuesNow s p .arr (.arr .aldmp w) = true) :
    let t := pushWord s p .arr (.arr .aldmp w)
    t.vec = s.vec ∧ blockHolds s t w.src.toNat (w.cnt.toNat * w.rowLen) (fun _ => 0)
      ∧ ∀ j k, getJob s p = some j → gridOfTensor j.plan w.dst.toNat = some k →
        t.mem = dumpWrites s.mem (tens s p w.dst.toNat) w (aldmpRaw s w (gridExp j k)) := by
  have hfree := rowsFree_of_issuesNow hc hparked (.inr (.inl rfl)) h
  obtain ⟨s1, idx, hsame, hafter⟩ := pushWord_arr_effect (by decide) h
  obtain ⟨s2, hsame2, hvec, harr, hmem⟩ := aldmpRun_effect (hsame.calm hc) (hfree.of_sameOperands hsame)
  refine ⟨hafter.vec.trans (hvec.trans hsame.vec),
    block_of_cleared (harr.trans (accClear_arr_of_sameOperands hsame ..)) hafter, fun j k hj hk => ?_⟩
  have hraw : aldmpRaw s1 w = aldmpRaw s w := by unfold aldmpRaw; rw [dumpAcc_congr hsame.arr]
  rw [aldmpGrid_of_grid (hsame.trans hsame2) hj hk, hsame.mem, hsame.tens, hraw] at hmem
  exact hafter.mem.trans hmem

/-- AMOV to the scratchpad where it issues at once. -/
theorem pushWord_amovOut (h : issuesNow s p .arr (.arr .amov w) = true) (htwo : w.two = false) :
    let t := pushWord s p .arr (.arr .amov w)
    t.vec = s.vec ∧ t.arr.acc = s.arr.acc
      ∧ t.mem = dumpWrites s.mem (tens s p w.dst.toNat) w fun i c => (dumpAcc s w i c).toNat := by
  have hfree := rowsFree_of_issuesNow hc hparked (.inr (.inr ⟨rfl, htwo⟩)) h
  obtain ⟨s1, idx, hsame, hafter⟩ := pushWord_arr_effect (by decide) h
  obtain ⟨hfixed, hmem⟩ := amovOut_rows (hsame.calm hc) (hfree.of_sameOperands hsame)
  rw [hsame.mem, hsame.tens, dumpAcc_congr hsame.arr] at hmem
  simp only [arrEffect, amovRun, htwo, Bool.false_eq_true, if_false] at hafter
  exact ⟨hafter.vec.trans (hfixed.vec.trans hsame.vec),
    hafter.acc.trans (congrArg ArrayUnit.acc (hfixed.arr.trans hsame.arr)), hafter.mem.trans hmem⟩

omit hparked

/-- AMOV into the accumulator store where it issues at once. -/
theorem pushWord_amovIn (h : issuesNow s p .arr (.arr .amov w) = true) (htwo : w.two = true) :
    let t := pushWord s p .arr (.arr .amov w)
    let e := tens s p w.src.toNat
    arrFrame s t ∧ ∀ k, accGet t k = accGet (accRows s w.dst.toNat w.rowLen (Nat.min e.cols w.rowLen) w.cnt.toNat
      fun r c => BitVec.ofNat 32 (rawSafe s e r c)) k := by
  obtain ⟨s1, idx, hsame, hafter⟩ := pushWord_arr_effect (by decide) h
  obtain ⟨s2, hsame2, hrun⟩ := amovIn_eq (hsame.calm hc) p w
  simp only [arrEffect, amovRun, htwo, if_true, hrun, hsame.tens, hsame.rawSafe] at hafter
  have hall := hsame.trans hsame2
  refine ⟨?_, fun k => ?_⟩
  · obtain ⟨m, hm⟩ := accRows_eq s2 w.dst.toNat w.rowLen (Nat.min (tens s p w.src.toNat).cols w.rowLen) w.cnt.toNat
      fun r c => BitVec.ofNat 32 (rawSafe s (tens s p w.src.toNat) r c)
    rw [hm] at hafter
    exact arrFrame_of_effect hall hafter
  · rw [accGet_congr hafter.acc, accGet_accRows _ _ (Nat.min_le_right ..), accGet_accRows _ _ (Nat.min_le_right ..),
      accGet_congr (congrArg ArrayUnit.acc hall.arr)]

end Commands

/-! ### The statement -/

theorem bit_toNat {n : Nat} (i : Nat) (x : BitVec n) : bit i x.toNat = x.getLsbD i := by
  rw [← BitVec.testBit_toNat, Nat.testBit_eq_decide_div_mod_eq, bit]

theorem two_cleared (w : AWord) : AWord.two { w with flg := w.flg &&& 0x7F#8 } = false := by
  simp only [AWord.two, AWord.flag, bit_toNat, BitVec.getLsbD_and]
  exact Bool.and_false _

theorem two_set (w : AWord) : AWord.two { w with flg := w.flg ||| 0x80#8 } = true := by
  simp only [AWord.two, AWord.flag, bit_toNat, BitVec.getLsbD_or]
  exact Bool.or_true _

/-- What rows laid into an entry leave at each element and elsewhere. -/
theorem elements_of_dumpWrites {s t : State} {d : TEntry} {w : AWord} {f : Nat → Nat → Nat}
    (hfit : d.cols * fmtWidth d.fmt ≤ d.pitch) (hmem : t.mem = dumpWrites s.mem d w f) :
    (∀ i c, (i < w.cnt.toNat ∧ c < w.rowLen ∧ c < d.cols) →
      t.mem.readNat (d.addr i c) (fmtWidth d.fmt) = f i c % 2 ^ (8 * fmtWidth d.fmt))
    ∧ ∀ a, (∀ i c, (i < w.cnt.toNat ∧ c < w.rowLen ∧ c < d.cols) → a < d.addr i c ∨ d.addr i c + fmtWidth d.fmt ≤ a) →
      t.mem.get a = s.mem.get a := by
  have hrow : Nat.min d.cols w.rowLen * fmtWidth d.fmt ≤ d.pitch :=
    (Nat.mul_le_mul_right _ (Nat.min_le_left ..)).trans hfit
  rw [hmem]
  refine ⟨fun i c ⟨hi, hlen, hcol⟩ => readNat_rowWrites f s.mem _ hrow hi (Nat.lt_min.2 ⟨hcol, hlen⟩),
    fun a ha => get_rowWrites_outside f s.mem _ fun i c hi hcol => ?_⟩
  obtain ⟨hcols, hlen⟩ := Nat.lt_min.1 hcol
  exact ha i c ⟨hi, hlen, hcols⟩

/-- Settles O16: the rows of each dump and move by `elements_of_dumpWrites`, the accumulators by `block_of_cleared` and
`accGet_accRows`. -/
theorem arrayDumps : Obligations.ArrayDumps := by
  unfold Obligations.ArrayDumps
  intro s p w hc hparked d n acc inBlock stored cleared hfit
  refine ⟨fun h hfmt _ => ?_, fun h _ hclr => ?_, fun h _ => ?_, fun h _ => ?_, fun h => ?_⟩
  · obtain ⟨hvec, hkept, hcleared⟩ := pushWord_admp hc h
    obtain ⟨hmem, hreport⟩ := pushWord_admp_float hc hparked h hfmt
    refine ⟨_, rfl, hvec, elements_of_dumpWrites hfit hmem, hkept, hcleared, fun hgrad ⟨i, c, hin, hinf⟩ => ?_⟩
    obtain ⟨hi, hlen, hcol⟩ := hin
    exact hreport hgrad ⟨i, c, hi, Nat.lt_min.2 ⟨hcol, hlen⟩, hinf⟩
  · obtain ⟨hvec, -, hcleared⟩ := pushWord_admp hc h
    exact ⟨_, rfl, hvec, hcleared hclr⟩
  · obtain ⟨hvec, hcleared, hmem⟩ := pushWord_aldmp hc hparked h
    exact ⟨_, rfl, hvec, hcleared, fun j k hj hk => elements_of_dumpWrites hfit (hmem j k hj hk)⟩
  · obtain ⟨hvec, hacc, hmem⟩ := pushWord_amovOut hc hparked h (two_cleared w)
    exact ⟨_, rfl, hvec, hacc, elements_of_dumpWrites hfit hmem⟩
  · obtain ⟨hframe, hacc⟩ := pushWord_amovIn hc h (two_set w)
    refine ⟨_, rfl, hframe, fun k => ?_⟩
    rw [hacc, accGet_accRows _ _ (Nat.min_le_right ..)]
    refine if_congr (and_congr_right fun _ => and_congr_right fun hx => ?_) rfl rfl
    have hmod := Nat.mod_lt (k - w.dst.toNat) (Nat.pos_of_lt_mul_left hx)
    exact Nat.lt_min.trans (and_iff_left hmod)

end Sys2Proof.Machine
end

section
/-! PROOFS. Array and vector instructions in flight that complete (R84, R99). -/

namespace Sys2Proof.Machine

/-- Where no gate waits, none takes effect. -/
theorem settleGates_of_none {s : State} (h : s.pwr.gates = []) : settleGates s = s := by
  rw [settleGates, h, List.foldl_nil]

/-- An instruction that leaves its unit lets nothing else run where no stream holds a word and no gate waits. -/
theorem pump_settleGates {s t : State} (hjobs : t.jobs = s.jobs) (hpwr : t.pwr = s.pwr) (hheld : heldWords s = 0)
    (hgates : s.pwr.gates = []) : pump (settleGates t) = t := by
  rw [settleGates_of_none (hpwr ▸ hgates), pump_of_heldWords_zero _ ((heldWords_congr hjobs).trans hheld)]

/-- Settles O17: an instruction has had its effect when it issued (log entry 12), so that its end only takes it out of
flight, by `pump_settleGates` for each of the two units. -/
theorem instructionsComplete : Obligations.InstructionsComplete := by
  unfold Obligations.InstructionsComplete
  intro s i hheld hgates
  exact ⟨fun hi => congrArg Host.Outcome.next ((if_pos hi).trans (pump_settleGates rfl rfl hheld hgates)),
    fun hi => congrArg Host.Outcome.next ((if_pos hi).trans (pump_settleGates rfl rfl hheld hgates))⟩

end Sys2Proof.Machine
end

section
/-! PROOFS. The pump where one stream alone has work, and what a word that its stream takes leaves of the streams. -/

namespace Sys2Proof.Machine

/-! ### One stream changes -/

/-- Of the jobs nothing but one stream changes, and that by `f`. -/
structure restreamed (s t : State) (p : Part) (u : SUnit) (f : Stream → Stream) : Prop where
  jobs : ∀ q, getJob t q = if q = p then (getJob s p).map fun j => j.modStream u f else getJob s q

theorem modStream_id (j : Job) (u : SUnit) : (j.modStream u fun st => st) = j := by cases u <;> rfl

theorem modStream_modStream (j : Job) (u : SUnit) (f g : Stream → Stream) :
    (j.modStream u f).modStream u g = j.modStream u fun st => g (f st) := by
  cases u <;> rfl

theorem restreamed_modStream (s : State) (p : Part) (u : SUnit) (f : Stream → Stream) :
    restreamed s (modJob s p fun j => j.modStream u f) p u f := ⟨fun q => getJob_modJob s p q _⟩

theorem restreamed_of_jobs {s t : State} (h : t.jobs = s.jobs) (p : Part) (u : SUnit) : restreamed s t p u fun st => st := by
  refine ⟨fun q => ?_⟩
  rw [getJob_congr h]
  split
  · next e =>
    subst e
    simp only [modStream_id, Option.map_id']
  · rfl

theorem restreamed.trans {s t v : State} {p : Part} {u : SUnit} {f g : Stream → Stream} (h : restreamed s t p u f)
    (k : restreamed t v p u g) : restreamed s v p u fun st => g (f st) := by
  refine ⟨fun q => ?_⟩
  rw [k.jobs q]
  split
  · rw [h.jobs p, if_pos rfl, Option.map_map]
    exact congrArg (fun m => (getJob s p).map m) (funext fun j => modStream_modStream j u f g)
  · next hne => rw [h.jobs q, if_neg hne]

theorem restreamed.job {s t : State} {p : Part} {u : SUnit} {f : Stream → Stream} (h : restreamed s t p u f) {j : Job}
    (hj : getJob s p = some j) : getJob t p = some (j.modStream u f) := by
  rw [h.jobs p, if_pos rfl, hj, Option.map_some]

/-! ### One stream alone has work -/

/-- No stream but one holds a word or has entries to run. -/
def alone (s : State) (p : Part) (u : SUnit) : Prop :=
  ∀ q v j, (q, v) ≠ (p, u) → getJob s q = some j → (j.stream v).held = [] ∧ (j.stream v).drain = 0

theorem alone_of_heldWords_zero {s : State} (h : heldWords s = 0) (p : Part) (u : SUnit) : alone s p u :=
  fun q v j _ hj => heldWords_zero h q v j hj

theorem alone.restreamed {s t : State} {p : Part} {u : SUnit} {f : Stream → Stream} (h : alone s p u)
    (ht : restreamed s t p u f) : alone t p u := by
  intro q v j hne hj
  rw [ht.jobs q] at hj
  split at hj
  · next e =>
    subst e
    obtain ⟨i, hi, rfl⟩ := Option.map_eq_some_iff.1 hj
    have hv : v ≠ u := fun e => hne (by rw [e])
    rw [stream_modStream, if_neg hv]
    exact h q v i hne hi
  · exact h q v j hne hj

theorem alone.pumpOne_none {s : State} {p : Part} {u : SUnit} (h : alone s p u) {x : Part × SUnit} (hx : x ≠ (p, u)) :
    pumpOne s x.1 x.2 = none :=
  Machine.pumpOne_none s x.1 x.2 fun j hj => h x.1 x.2 j hx hj

/-- The turns of the pump are those of the one stream that has work. -/
theorem heldWords_of_alone {s : State} {p : Part} {u : SUnit} (h : alone s p u) {j : Job} (hj : getJob s p = some j) :
    heldWords s = (j.stream u).waiting := by
  unfold heldWords
  rw [foldl_add_single _ allStreams (p, u) 0 (by decide) (mem_allStreams p u) ?_]
  · simp only [hj, Nat.zero_add]
  · intro x _ hx
    split
    · next k hk => exact (waiting_zero _).2 (h x.1 x.2 k hx hk)
    · rfl

/-- A turn of the pump goes to the one stream that has work. -/
theorem pumpN_of_alone {s t : State} {p : Part} {u : SUnit} (h : alone s p u) (ht : pumpOne s p u = some t) (n : Nat) :
    pumpN (n + 1) s = pumpN n t := by
  rw [pumpN, findSome_only _ allStreams (p, u) t (mem_allStreams p u) ht fun x _ hx => h.pumpOne_none hx]

/-- Where the one stream that has work must wait, nothing runs. -/
theorem pumpN_of_waiting {s : State} {p : Part} {u : SUnit} (h : alone s p u) (hwait : pumpOne s p u = none) (n : Nat) :
    pumpN n s = s := by
  cases n with
  | zero => rfl
  | succ n =>
    have hnone : allStreams.findSome? (fun x => pumpOne s x.1 x.2) = none := by
      refine List.findSome?_eq_none_iff.2 fun x _ => ?_
      by_cases hx : x = (p, u)
      · rw [hx, hwait]
      · exact h.pumpOne_none hx
    rw [pumpN, hnone]

/-! ### The notes of held words -/

/-- A stream without the notes of how long its oldest word has been held. -/
def Stream.unnoted (st : Stream) : Stream := { st with heldAt := none, heldWake := false, heldCyc := 0, wakeCyc := 0 }

theorem unnoted_noteHold (s : State) (p : Part) (u : SUnit) (q : Part) (v : SUnit) :
    ((getJob (noteHold s p u) q).map fun j => (j.stream v).unnoted) = (getJob s q).map fun j => (j.stream v).unnoted := by
  have hturn (now : Nat) (c : Option Bool) :
      ((getJob (modJob s p fun j => j.modStream u fun st => st.turnHold now c) q).map fun j => (j.stream v).unnoted)
        = (getJob s q).map fun j => (j.stream v).unnoted := by
    rw [getJob_modJob]
    split
    · next e =>
      subst e
      rw [Option.map_map]
      refine congrArg (fun m => (getJob s q).map m) (funext fun j => ?_)
      simp only [Function.comp, stream_modStream]
      split
      · next e => subst e; rfl
      · rfl
    · rfl
  unfold noteHold
  split
  · rfl
  · split
    · rfl
    · dsimp only
      split
      · rfl
      · exact hturn _ _

/-- The notes leave of each stream all but themselves. -/
theorem unnoted_noted (s : State) {q : Part} {j : Job} (hj : getJob s q = some j) (v : SUnit) :
    ∃ k, getJob (noted s) q = some k ∧ (k.stream v).unnoted = (j.stream v).unnoted := by
  have h : ((getJob (noted s) q).map fun k => (k.stream v).unnoted) = (getJob s q).map fun k => (k.stream v).unnoted :=
    List.foldlRecOn (motive := fun t : State =>
        ((getJob t q).map fun k => (k.stream v).unnoted) = (getJob s q).map fun k => (k.stream v).unnoted)
      allStreams _ rfl fun t ht x _ => (unnoted_noteHold t x.1 x.2 q v).trans ht
  rwa [hj, Option.map_some, Option.map_eq_some_iff] at h

/-- Where every word that is held stands under its cause already, nothing is noted. -/
theorem noted_of_cause {s : State}
    (h : ∀ q v j x rest, getJob s q = some j → (j.stream v).held = x :: rest →
      (j.stream v).cause = (wordReady s q j v x).cause) :
    noted s = s := by
  have hone (x : Part × SUnit) : noteHold s x.1 x.2 = s := by
    unfold noteHold
    split
    · rfl
    · next j hj =>
      split
      · rfl
      · next y rest hheld => exact if_pos (h x.1 x.2 j y rest hj hheld)
  exact List.foldlRecOn (motive := (· = s)) allStreams _ rfl fun t ht x _ => by rw [ht, hone]

/-! ### A word that comes -/

theorem pushWord_of_streaming {s : State} {p : Part} {u : SUnit} {j : Job} (hj : getJob s p = some j)
    (hstreams : j.streaming = true) (hended : (j.stream u).ended = false) (x : SWord) :
    pushWord s p u x = noted (pumpN (heldWords (queued s p u x)) (queued s p u x)) := by
  simp only [pushWord, hj, hstreams, hended, Bool.not_false, Bool.and_self, if_true]
  rfl

/-- A stream to which a word has come. -/
def Stream.given (x : SWord) (st : Stream) : Stream := { st with held := st.held ++ [x] }

theorem restreamed_queued (s : State) (p : Part) (u : SUnit) (x : SWord) :
    restreamed s (queued s p u x) p u (Stream.given x) := restreamed_modStream s p u _

/-! ### A word that an array stream takes -/

/-- The state in which the oldest word of an array stream, once taken, has its effect. -/
def atIssue (s : State) (p : Part) (j : Job) (rest : List SWord) : State :=
  sampleTick (count (wordTaken s p j rest) blkArr 0 2 1 (atPart p)) p 0

theorem sameOperands_atIssue (s : State) (p : Part) (j : Job) (rest : List SWord) : sameOperands s (atIssue s p j rest) :=
  (sameOperands_wordTaken ..).trans ((sameOperands_count ..).trans (sameOperands_sampleTick ..))

theorem countHold_pwr (s : State) (p : Part) (u : SUnit) (st : Stream) : (countHold s p u st).pwr = s.pwr := by
  have hadd (t : State) (e n : Nat) : (if n = 0 then t else count t (unitBlk u) 1 e n (atPart p)).pwr = t.pwr := by
    split <;> rfl
  exact (hadd _ _ _).trans (hadd _ _ _)

theorem atIssue_pwr (s : State) (p : Part) (j : Job) (rest : List SWord) : (atIssue s p j rest).pwr = s.pwr := by
  rw [atIssue, sampleTick_pwr, count_pwr, wordTaken, modJob_pwr, countHold_pwr]

theorem nowCyc_countHold (s : State) (p : Part) (u : SUnit) (st : Stream) : nowCyc (countHold s p u st) = nowCyc s := by
  have hadd (t : State) (e n : Nat) : nowCyc (if n = 0 then t else count t (unitBlk u) 1 e n (atPart p)) = nowCyc t := by
    split <;> rfl
  exact (hadd _ _ _).trans (hadd _ _ _)

theorem nowCyc_sampleTick (s : State) (p : Part) (k : Nat) : nowCyc (sampleTick s p k) = nowCyc s := by
  unfold sampleTick
  dsimp only
  split
  · rfl
  · split <;> rfl

theorem nowCyc_modJob (s : State) (p : Part) (f : Job → Job) : nowCyc (modJob s p f) = nowCyc s := by
  rw [nowCyc, modJob_isl, nowCyc]

theorem nowCyc_atIssue (s : State) (p : Part) (j : Job) (rest : List SWord) : nowCyc (atIssue s p j rest) = nowCyc s :=
  (nowCyc_sampleTick ..).trans ((nowCyc_modJob ..).trans (nowCyc_countHold ..))

theorem restreamed_atIssue (s : State) (p : Part) (j : Job) (rest : List SWord) :
    restreamed s (atIssue s p j rest) p .arr (Stream.taken rest) := by
  have hcounts : (atIssue s p j rest).jobs = (wordTaken s p j rest).jobs := by rw [atIssue, sampleTick_jobs, count_jobs]
  have htaken : restreamed (countHold s p .arr j.arrS) (wordTaken s p j rest) p .arr (Stream.taken rest) :=
    restreamed_modStream ..
  exact ((restreamed_of_jobs (countHold_jobs ..) p .arr).trans htaken).trans (restreamed_of_jobs hcounts p .arr)

/-- The state once an array word has had its effect, its lead word is in force and it is in flight. -/
def launched (s : State) (p : Part) (lead : Lead) (area : Option Area) (op : AOp) (w : AWord) : State :=
  launchArr (modJob s p fun j => j.modStream .arr fun st => { st with lead := nextLead st.lead op }) p lead area op w

/-- A word that an array stream takes and does not skip: its effect, its flight, and the stream goes on. -/
theorem takeWord_arr {s : State} {p : Part} {j : Job} {op : AOp} {w : AWord} (rest : List SWord) (hj : getJob s p = some j)
    (hskip : (j.arrS.gated && j.vetoed && (SWord.arr op w).skips) = false) :
    takeWord s p .arr j (.arr op w) rest
      = modJob (launched (arrEffect (atIssue s p j rest) p j.arrS.lead j.arrS.index op w) p j.arrS.lead
          (productArea s j.arrS.lead op) op w) p fun k => k.modStream .arr fun st => { st with index := st.index + 1 } := by
  have hjob : getJob (wordTaken s p j rest) p = some (j.modStream .arr (Stream.taken rest)) := by
    rw [wordTaken, getJob_modJob, if_pos rfl, getJob_congr (countHold_jobs ..), hj, Option.map_some]
  have harea : productArea (wordTaken s p j rest) j.arrS.lead op = productArea s j.arrS.lead op := by
    unfold productArea aaccDeferred
    rw [(sameOperands_wordTaken s p j rest).arr]
  have htake : takeWord s p .arr j (.arr op w) rest
      = modJob (issueArr (wordTaken s p j rest) p op w) p
          fun k => k.modStream .arr fun st => { st with index := st.index + 1 } := by
    simp only [takeWord, Job.stream, hskip, Bool.false_eq_true, if_false, runWord]
    rfl
  rw [htake, ← harea]
  simp only [issueArr, hjob]
  rfl

/-- The cycle before which a stream's next word may not issue, once an array word has issued at cycle `now` (R65, R89). -/
def earliestAfter (op : AOp) (w : AWord) (now : Nat) (st : Stream) : Nat :=
  match op with
  | .anop => now + w.cnt.toNat
  | .amode => now + 16
  | _ => st.earliest

/-- A stream once an array word that it took has issued. -/
def Stream.issued (op : AOp) (w : AWord) (now : Nat) (st : Stream) : Stream :=
  { st with lead := nextLead st.lead op, earliest := earliestAfter op w now st, index := st.index + 1 }

theorem launchArr_jobs (s : State) (p : Part) (lead : Lead) (area : Option Area) {op : AOp} (w : AWord) (hanop : op ≠ .anop)
    (hamode : op ≠ .amode) : (launchArr s p lead area op w).jobs = s.jobs := by
  cases op with
  | anop => exact absurd rfl hanop
  | amode => exact absurd rfl hamode
  | aacc =>
    cases area with
    | none => rfl
    | some a =>
      simp only [launchArr]
      split <;> rfl
  | _ => rfl

theorem restreamed_launchArr (s : State) (p : Part) (lead : Lead) (area : Option Area) (op : AOp) (w : AWord) :
    restreamed s (launchArr s p lead area op w) p .arr fun st => { st with earliest := earliestAfter op w (nowCyc s) st } := by
  cases op with
  | anop => exact restreamed_modStream ..
  | amode => exact restreamed_modStream ..
  | _ => exact restreamed_of_jobs (launchArr_jobs _ _ _ _ _ (by decide) (by decide)) p .arr

/-- What a word that an array stream takes leaves of the streams, where its effect changes its own stream by `f`. -/
theorem restreamed_takeWord {s : State} {p : Part} {j : Job} {op : AOp} {w : AWord} {rest : List SWord} {f : Stream → Stream}
    (hj : getJob s p = some j) (hskip : (j.arrS.gated && j.vetoed && (SWord.arr op w).skips) = false)
    (heffect : restreamed (atIssue s p j rest) (arrEffect (atIssue s p j rest) p j.arrS.lead j.arrS.index op w) p .arr f) :
    restreamed s (takeWord s p .arr j (.arr op w) rest) p .arr fun st =>
      (f (st.taken rest)).issued op w (nowCyc (arrEffect (atIssue s p j rest) p j.arrS.lead j.arrS.index op w)) := by
  rw [takeWord_arr rest hj hskip,
    ← nowCyc_modJob _ p fun k => k.modStream .arr fun st => { st with lead := nextLead st.lead op }]
  exact ((((restreamed_atIssue s p j rest).trans heffect).trans (restreamed_modStream ..)).trans
    (restreamed_launchArr ..)).trans (restreamed_modStream ..)

end Sys2Proof.Machine
end

section
/-! PROOFS. The array words that lead another one, wait, set the mode or enter the deferred queue (R62, R65, R66, R73, R89). -/

namespace Sys2Proof.Machine

theorem turns_of_ne_adrn {op : AOp} (hop : op ≠ .adrn) (w : AWord) : (SWord.arr op w).turns = 1 := by
  cases op with
  | adrn => exact absurd rfl hop
  | _ => rfl

/-- An array word, an ADRN aside, that issues at once is the one that its stream takes. -/
theorem pushWord_takes {s : State} {p : Part} {op : AOp} {w : AWord} {j : Job} (hop : op ≠ .adrn)
    (h : issuesNow s p .arr (.arr op w) = true) (hj : getJob s p = some j) :
    let k := j.modStream .arr (Stream.given (.arr op w))
    getJob (queued s p .arr (.arr op w)) p = some k ∧ (k.arrS.gated && k.vetoed && (SWord.arr op w).skips) = false
      ∧ pushWord s p .arr (.arr op w) = noted (takeWord (queued s p .arr (.arr op w)) p .arr k (.arr op w) []) := by
  obtain ⟨j', hj', hpush⟩ := pushWord_issues s p .arr (.arr op w) h (turns_of_ne_adrn hop w)
  obtain rfl : j' = j := Option.some.inj (hj'.symm.trans hj)
  have hskip := not_skipped_of_issuesNow h hj
  exact ⟨(restreamed_queued ..).job hj, hskip, hpush⟩

/-- The stream of an array word that issues at once, where its effect changes no job and takes no cycle. -/
theorem pushWord_arr_stream {s : State} {p : Part} {op : AOp} {w : AWord} {j : Job} (hop : op ≠ .adrn)
    (h : issuesNow s p .arr (.arr op w) = true) (hj : getJob s p = some j)
    (hquiet : ∀ u lead idx, (arrEffect u p lead idx op w).jobs = u.jobs ∧ nowCyc (arrEffect u p lead idx op w) = nowCyc u) :
    ∃ k, getJob (pushWord s p .arr (.arr op w)) p = some k ∧ k.arrS.lead = nextLead j.arrS.lead op
      ∧ k.arrS.earliest = earliestAfter op w (nowCyc s) j.arrS := by
  obtain ⟨hqueued, hskip, hpush⟩ := pushWord_takes hop h hj
  obtain ⟨hjobs, hnow⟩ := hquiet (atIssue (queued s p .arr (.arr op w)) p _ []) j.arrS.lead j.arrS.index
  have htake := restreamed_takeWord hqueued hskip (restreamed_of_jobs hjobs p .arr)
  obtain ⟨k, hk, hstream⟩ := unnoted_noted _ (htake.job hqueued) .arr
  have hearliest := congrArg Stream.earliest hstream
  have hcycle : nowCyc (arrEffect (atIssue (queued s p .arr (.arr op w)) p
      (j.modStream .arr (Stream.given (.arr op w))) []) p j.arrS.lead j.arrS.index op w) = nowCyc s :=
    hnow.trans ((nowCyc_atIssue ..).trans (nowCyc_modJob ..))
  rw [hpush]
  refine ⟨k, hk, (congrArg Stream.lead hstream :), hearliest.trans ?_⟩
  rw [← hcycle]
  cases op <;> rfl

/-! ### Words without an effect of their own -/

/-- ATWIN, AQUE and ANOP where they issue at once: the array and its frame are as they were. -/
theorem pushWord_without_effect {s : State} {p : Part} {op : AOp} {w : AWord} {j : Job}
    (hop : op = .atwin ∨ op = .aque ∨ op = .anop) (h : issuesNow s p .arr (.arr op w) = true) (hj : getJob s p = some j) :
    let t := pushWord s p .arr (.arr op w)
    t.arr = s.arr ∧ arrFrame s t ∧ ∃ k, getJob t p = some k ∧ k.arrS.lead = nextLead j.arrS.lead op
      ∧ k.arrS.earliest = earliestAfter op w (nowCyc s) j.arrS := by
  have hne : op ≠ .adrn := by rcases hop with rfl | rfl | rfl <;> decide
  have heffect (u : State) (lead : Lead) (idx : Nat) : arrEffect u p lead idx op w = u := by
    rcases hop with rfl | rfl | rfl <;> rfl
  have hflight (u : State) (lead : Lead) (area : Option Area) : (launched u p lead area op w).arr = u.arr := by
    rcases hop with rfl | rfl | rfl
    · exact modJob_arr ..
    · exact modJob_arr ..
    · exact (modJob_arr ..).trans (modJob_arr ..)
  refine ⟨?_, ?_, pushWord_arr_stream hne h hj fun u lead idx => by rw [heffect]; exact ⟨rfl, rfl⟩⟩
  · obtain ⟨hqueued, hskip, hpush⟩ := pushWord_takes hne h hj
    rw [hpush, noted_arr, takeWord_arr [] hqueued hskip, modJob_arr, hflight, heffect,
      (sameOperands_atIssue ..).arr]
    exact modJob_arr ..
  · obtain ⟨s', idx, hsame, hafter⟩ := pushWord_arr_effect hne h
    rw [heffect] at hafter
    exact arrFrame_of_effect hsame hafter

/-! ### AMODE -/

theorem raise_vec (s : State) (p : Part) (code : Nat) (detail : List Nat) : (raise s p code detail).vec = s.vec :=
  (congrArg State.vec (eventFrame_raiseE s _).eventless_eq :)

theorem nowCyc_raiseE (s : State) (e : Event) : nowCyc (raiseE s e) = nowCyc s :=
  (congrArg nowCyc (eventFrame_raiseE s e).eventless_eq :)

/-- Whether a partition's plan is a COMPAT plan, which keeps COLR = 1 (R73). -/
def compatPlan (s : State) (p : Part) : Bool := match getJob s p with | none => false | some j => bit 0 j.plan.compat

/-- The event of an AMODE that clears COLR under a COMPAT plan (R73). -/
def amodeEvent (s : State) (p : Part) (w : AWord) (idx : Nat) : State :=
  if compatPlan s p && !w.cont then raise s p evProgError [idx] else s

theorem amodeEvent_frame (s : State) (p : Part) (w : AWord) (idx : Nat) :
    (amodeEvent s p w idx).arr = s.arr ∧ (amodeEvent s p w idx).vec = s.vec ∧ (amodeEvent s p w idx).jobs = s.jobs
      ∧ nowCyc (amodeEvent s p w idx) = nowCyc s := by
  unfold amodeEvent
  split
  · exact ⟨raise_arr .., raise_vec .., raise_jobs .., nowCyc_raiseE ..⟩
  · exact ⟨rfl, rfl, rfl, rfl⟩

/-- AMODE sets the mode and COLR of the array (R65, R73). -/
theorem amodeRun_eq (s : State) (p : Part) (w : AWord) (idx : Nat) :
    amodeRun s p w idx = { amodeEvent s p w idx with arr := { (amodeEvent s p w idx).arr with
      mode := arrMode w, colr := w.cont || compatPlan s p } } := rfl

/-- AMODE where it issues at once. -/
theorem pushWord_amode {s : State} {p : Part} {w : AWord} {j : Job} (h : issuesNow s p .arr (.arr .amode w) = true)
    (hj : getJob s p = some j) :
    let t := pushWord s p .arr (.arr .amode w)
    { t.arr with flying := [] } = { s.arr with mode := arrMode w, colr := w.cont || bit 0 j.plan.compat, flying := [] }
      ∧ t.vec = s.vec ∧ ∃ k, getJob t p = some k ∧ k.arrS.earliest = nowCyc s + 16 := by
  obtain ⟨s1, idx, hsame, hafter⟩ := pushWord_arr_effect (by decide) h
  obtain ⟨harr, hvec, -, -⟩ := amodeEvent_frame s1 p w idx
  simp only [arrEffect, amodeRun_eq] at hafter
  obtain ⟨j1, hj1, hplan⟩ := hsame.getJob_isSome hj
  have hcompat : compatPlan s1 p = bit 0 j.plan.compat := by
    simp only [compatPlan, hj1]
    exact (congrArg (fun j : Job => bit 0 j.plan.compat) hplan :)
  refine ⟨?_, hafter.vec.trans (hvec.trans hsame.vec), ?_⟩
  · rw [hafter.arr_but_flying, hcompat, harr, hsame.arr]
  · obtain ⟨k, hk, -, hearliest⟩ := pushWord_arr_stream (by decide) h hj fun u lead idx => by
      obtain ⟨-, -, hjobs, hnow⟩ := amodeEvent_frame u p w idx
      exact ⟨hjobs, hnow⟩
    exact ⟨k, hk, hearliest⟩

/-! ### AACC into the queue -/

/-- An AACC that is deferred, where it issues at once, enters the queue and does nothing else (R62, R66). -/
theorem pushWord_aacc_deferred {s : State} {p : Part} {w : AWord} (h : issuesNow s p .arr (.arr .aacc w) = true)
    (hdef : aaccDeferred s (leadOf s p) = true) :
    let t := pushWord s p .arr (.arr .aacc w)
    { t.arr with flying := [] } = { s.arr with defq := s.arr.defq ++ [{ part := p, w := w }], flying := [] }
      ∧ arrFrame s t := by
  obtain ⟨s1, idx, hsame, hafter⟩ := pushWord_arr_effect (by decide) h
  have hdef1 : aaccDeferred s1 (leadOf s p) = true := by simpa only [aaccDeferred, hsame.arr] using hdef
  simp only [arrEffect, hdef1, if_true, enqueue] at hafter
  exact ⟨by rw [hafter.arr_but_flying, hsame.arr], arrFrame_of_effect hsame hafter⟩

end Sys2Proof.Machine
end

section
/-! PROOFS. What a deferred entry that runs leaves as it was, in every state (R62, R66 to R68, R130, R131). -/

namespace Sys2Proof.Machine

/-- The jobs, the vector engine, and the array but for its accumulators and their bit errors. -/
def besideRun (s : State) : Tab Job × VectorUnit × ArrayUnit := (s.jobs, s.vec, { s.arr with acc := {}, errs := [] })

theorem besideRun_raiseE (s : State) (e : Event) : besideRun (raiseE s e) = besideRun s :=
  (congrArg besideRun (eventFrame_raiseE s e).eventless_eq :)

theorem besideRun_setDom (s : State) (d : Nat) (v : DomState) : besideRun (setDom s d v) = besideRun s := by
  simp only [setDom]
  split <;> rfl

/-! ### Accesses to the scratchpad -/

theorem besideRun_meetError (s : State) (e : Nat × Bool) : besideRun (meetError s e) = besideRun s := by
  unfold meetError
  dsimp only
  split <;> exact besideRun_raiseE _ _

theorem besideRun_spdAccess (s : State) (a n : Nat) (write : Bool) : besideRun (spdAccess s a n write) = besideRun s := by
  have hmeet : besideRun (if write then s else meetErrors s a n) = besideRun s := by
    split
    · rfl
    · exact foldl_field besideRun meetError besideRun_meetError _ s
  unfold spdAccess
  split
  · rfl
  · refine (foldl_field besideRun _ (fun t g => ?_) _ _).trans hmeet
    split
    · exact besideRun_setDom ..
    · split
      · rfl
      · exact besideRun_raiseE _ _
    · rfl

theorem besideRun_touchBlock (s : State) (e : TEntry) (r0 nr c0 nc : Nat) (write : Bool) :
    besideRun (touchBlock s e r0 nr c0 nc write) = besideRun s := by
  simp only [touchBlock]
  split
  · rfl
  · refine foldl_field besideRun _ (fun t r => ?_) _ _
    split
    · exact (foldl_field besideRun _ (fun u k => besideRun_spdAccess u _ _ _) _ _).trans (besideRun_spdAccess ..)
    · exact besideRun_spdAccess ..

/-! ### The block of accumulators -/

theorem besideRun_arrError (s : State) (p : Part) (e : Nat × Nat × Bool) : besideRun (arrError s p e) = besideRun s :=
  besideRun_raiseE _ _

theorem besideRun_accMeet (s : State) (p : Part) (lo n : Nat) : besideRun (accMeet s p lo n) = besideRun s := by
  refine foldl_field besideRun _ (fun t e => ?_) _ _
  dsimp only
  split
  · exact besideRun_arrError ..
  · refine (foldl_field besideRun _ (fun u i => ?_) _ _).trans (besideRun_arrError t p e)
    split <;> rfl

theorem besideRun_blockMeet (s : State) (p : Part) (w : AWord) : besideRun (blockMeet s p w) = besideRun s := by
  simp only [blockMeet]
  split
  · exact besideRun_accMeet ..
  · rfl

theorem besideRun_productBlock (s : State) (w : AWord) (klen : Nat) (f g : Nat → Nat → Num) :
    besideRun (productBlock s w klen f g).1 = besideRun s := by
  rw [productBlock_state]
  rfl

theorem besideRun_aaccRun (s : State) (p : Part) (w : AWord) (tileRead : Bool) :
    besideRun (aaccRun s p w tileRead) = besideRun s := by
  have htile (e : TEntry) (n : Nat) : besideRun (if tileRead then s else touchSlab s e w e.lrows n) = besideRun s := by
    split
    · rfl
    · exact besideRun_touchBlock ..
  exact (besideRun_productBlock ..).trans ((besideRun_blockMeet ..).trans ((besideRun_touchBlock ..).trans (htile _ _)))

/-! ### Held writes -/

theorem besideRun_wrNow (s : State) (a : Nat) (bs : List Byte) : besideRun (wrNow s a bs) = besideRun s := by
  unfold wrNow
  split
  · exact besideRun_raiseE _ _
  · rfl

theorem besideRun_unpark (s : State) : besideRun (unpark s) = besideRun s := by
  refine List.foldlRecOn (motive := fun r : State × List (Nat × List Byte) => besideRun r.1 = besideRun s) s.parked _ rfl
    fun r hr w _ => ?_
  split
  · exact hr
  · exact (besideRun_wrNow ..).trans hr

theorem unpark_of_none {s : State} (h : s.parked = []) : unpark s = s := by
  simp only [unpark, h, List.foldl_nil]
  rw [← h]

/-! ### The oldest entry runs -/

/-- The state without the oldest entry of the deferred queue. -/
def dequeued (s : State) (q : List DefEntry) : State := { s with arr := { s.arr with defq := q } }

/-- The oldest entry of the deferred queue, once it has run, is in flight. -/
theorem runEntry_of_cons {s : State} {d : DefEntry} {q : List DefEntry} (h : s.arr.defq = d :: q) (drained : Bool) :
    ∃ t, t = unpark (aaccRun (dequeued (count s blkArr 0 2 1 (atPart d.part)) q) d.part d.w false)
      ∧ runEntry s drained = { t with arr := { t.arr with flying := t.arr.flying ++
          [{ part := d.part, op := .aacc, w := d.w, area := some (drainArea s), drained := drained }] } } := by
  refine ⟨_, rfl, ?_⟩
  simp only [runEntry, h, runOldest, count_arr]
  rfl

/-- An entry that runs leaves the jobs, the vector engine and the shelf as they were, and the queue without itself. -/
theorem runEntry_frame {s : State} {d : DefEntry} {q : List DefEntry} (h : s.arr.defq = d :: q) (drained : Bool) :
    (runEntry s drained).jobs = s.jobs ∧ (runEntry s drained).vec = s.vec ∧ (runEntry s drained).arr.plain = s.arr.plain
      ∧ (runEntry s drained).arr.defq = q := by
  obtain ⟨t, ht, hrun⟩ := runEntry_of_cons h drained
  have hbeside : besideRun t = besideRun (dequeued s q) := by
    rw [ht]
    exact (besideRun_unpark ..).trans (besideRun_aaccRun ..)
  rw [hrun]
  exact ⟨(congrArg (fun b => b.1) hbeside :), (congrArg (fun b => b.2.1) hbeside :),
    (congrArg (fun b => b.2.2.plain) hbeside :), (congrArg (fun b => b.2.2.defq) hbeside :)⟩

/-- An entry that runs in a calm state: its block of accumulators takes its product (R47, R62). -/
theorem runEntry_of_calm {s : State} {d : DefEntry} {q : List DefEntry} (hc : calm s) (hparked : s.parked = [])
    (h : s.arr.defq = d :: q) (drained : Bool) :
    arrFrame s (runEntry s drained)
      ∧ blockHolds s (runEntry s drained) d.w.dst.toNat (d.w.cnt.toNat * d.w.rowLen) (aaccAt s d.part d.w) := by
  obtain ⟨t, ht, hrun⟩ := runEntry_of_cons h drained
  have hcount := sameOperands_count (dequeued s q) blkArr 0 2 1 (atPart d.part)
  obtain ⟨s', hsame, hfill⟩ := aaccRun_eq (hcount.calm hc) d.part d.w false
  have hall := hcount.trans hsame
  have hparked' : s'.parked = [] := (congrArg State.parked hall.rest :).trans hparked
  have hdone : t = accFill s' d.w.dst.toNat (d.w.cnt.toNat * d.w.rowLen) (aaccAt s d.part d.w) := by
    have hvalues : aaccAt (count (dequeued s q) blkArr 0 2 1 (atPart d.part)) d.part d.w = aaccAt s d.part d.w := rfl
    rw [← hvalues, ← hfill, ht, unpark_of_none]
    · rfl
    · exact (congrArg State.parked hfill).trans hparked'
  rw [hrun, hdone]
  refine ⟨⟨hall.mem, hall.vec, hall.tables, hall.rings⟩, fun x hx => ?_, fun k hk => ?_⟩
  · exact accGet_accFill_inside s' _ hx
  · exact (accFrame_accFill s' _ _ _ k hk).trans (accGet_congr (congrArg ArrayUnit.acc hall.arr :) k)

end Sys2Proof.Machine
end

section
/-! PROOFS. The deferred queue: the words that enter it, and the entries that ADRN and the idle slots run (R62, R66, R67). -/

namespace Sys2Proof.Machine

/-! ### Readiness does not depend on the streams -/

section Readiness

variable {s t : State} (h : sameOperands s t) (hpwr : t.pwr = s.pwr)

include hpwr in
theorem groupsUp_congr (us : List Use) : groupsUp t us = groupsUp s us := by
  simp only [groupsUp, spanWaking, dom_congr hpwr]

include h

theorem sameOperands.arrUses (p : Part) (op : AOp) (w : AWord) : arrUses t p op w = arrUses s p op w := by
  simp only [Machine.arrUses, tensUses, h.tens, h.entry]

theorem sameOperands.flyHazard (us : List Use) : flyHazard t us = flyHazard s us := by
  simp only [Machine.flyHazard, flightUses, h.arrUses, h.arr]

theorem sameOperands.arrClear (p : Part) (op : AOp) (w : AWord) : arrClear t p op w = arrClear s p op w := by
  simp only [Machine.arrClear, waitsQueue, queueHazard, writesQueued, dumpSpans, Machine.hitsDeferred, defSpans,
    h.flyHazard, h.arrUses, h.tens, h.arr]

include hpwr

theorem sameOperands.drainReady : drainReady t = drainReady s := by
  simp only [Machine.drainReady, h.arr, h.flyHazard, h.arrUses, areaFree, drainArea, allOn, dom_congr hpwr, groupsUp_congr hpwr]

theorem sameOperands.pairReady (p : Part) (a b : AWord) : pairReady t p a b = pairReady s p a b := by
  simp only [Machine.pairReady, h.arrClear, h.arrUses, areaFree, h.arr, allOn, dom_congr hpwr, groupsUp_congr hpwr]

end Readiness

/-! ### ADRN -/

/-- The entries that an ADRN makes its stream run: CNT of the queue, all for 0 (R67). -/
def drainCount (s : State) (w : AWord) : Nat :=
  if w.cnt = 0 then s.arr.defq.length else Nat.min w.cnt.toNat s.arr.defq.length

theorem restreamed_adrnRun (s : State) (p : Part) (w : AWord) :
    restreamed s (adrnRun s p w) p .arr fun st => { st with drain := drainCount s w } :=
  restreamed_modStream s p .arr fun st => { st with drain := drainCount s w }

theorem sameOperands_adrnRun (s : State) (p : Part) (w : AWord) : sameOperands s (adrnRun s p w) :=
  sameOperands_modStream s p .arr fun st => { st with drain := drainCount s w }

theorem launched_adrn (s : State) (p : Part) (lead : Lead) (area : Option Area) (w : AWord) :
    launched s p lead area .adrn w
      = modJob s p fun j => j.modStream .arr fun st => { st with lead := nextLead st.lead .adrn } := rfl

/-- The state once an array stream has started the oldest entry for its ADRN. -/
def entryStarted (s : State) (p : Part) : State :=
  runEntry (modJob s p fun j => j.modStream .arr fun st => { st with drain := st.drain - 1 }) true

/-- A stream that holds no word runs the oldest entry where its ADRN has one left to run and the entry may run. -/
theorem pumpOne_of_drained {s : State} {p : Part} {j : Job} (hj : getJob s p = some j) (hheld : j.arrS.held = []) :
    pumpOne s p .arr =
      if 0 < j.arrS.drain ∧ s.arr.defq ≠ [] ∧ drainReady s = .go then some (entryStarted s p) else none := by
  have hfull : queueFull s p j = false := queueFull_nil s p j hheld
  have hdrain : pumpDrain s p =
      if 0 < j.arrS.drain ∧ s.arr.defq ≠ [] ∧ drainReady s = .go then some (entryStarted s p) else none := by
    simp only [pumpDrain, entryStarted, hj, hfull, Bool.or_false, Bool.and_eq_true, decide_eq_true_eq, Bool.not_eq_true',
      List.isEmpty_eq_false_iff, beq_iff_eq, and_assoc]
  have hnone : (j.stream .arr).held = [] := hheld
  simp only [pumpOne, hj, if_true, hdrain]
  split
  · next t ht => exact ht.symm
  · next ht => rw [hnone, ht]

/-- What a word that issues at once finds: its stream runs, no word waits, and its unit is ready for it. -/
theorem ready_of_issuesNow {s : State} {p : Part} {u : SUnit} {x : SWord} {j : Job} (h : issuesNow s p u x = true)
    (hj : getJob s p = some j) : j.streaming = true ∧ (j.stream u).ended = false ∧ heldWords s = 0
      ∧ wordReady (queued s p u x) p (j.modStream u (Stream.given x)) u x = .go := by
  have hqueued := (restreamed_queued s p u x).job hj
  simp only [issuesNow, hj, hqueued, Bool.and_eq_true, beq_iff_eq, Bool.not_eq_true'] at h
  obtain ⟨⟨⟨⟨⟨hstreams, hended⟩, -⟩, hheld⟩, -⟩, hready⟩ := h
  exact ⟨hstreams, hended, hheld, hready⟩

/-- A word that issues at once is taken in the first turn of the pump. -/
theorem pumpOne_of_issuesNow {s : State} {p : Part} {x : SWord} {j : Job} (h : issuesNow s p .arr x = true)
    (hj : getJob s p = some j) : pumpOne (queued s p .arr x) p .arr
      = some (takeWord (queued s p .arr x) p .arr (j.modStream .arr (Stream.given x)) x []) := by
  obtain ⟨-, -, hwords, hready⟩ := ready_of_issuesNow h hj
  obtain ⟨hheld, hdrain⟩ := heldWords_zero hwords p .arr j hj
  have hqueued := (restreamed_queued s p .arr x).job hj
  have hone : ((j.modStream .arr (Stream.given x)).stream .arr).held = [x] := by
    rw [stream_modStream, if_pos rfl, Stream.given, hheld, List.nil_append]
  have hnone : pumpDrain (queued s p .arr x) p = none := pumpDrain_none _ _ fun k hk => by
    obtain rfl := Option.some.inj (hqueued.symm.trans hk)
    exact ⟨hdrain, queueFull_go _ _ _ x hone hready⟩
  simp only [pumpOne, hqueued, if_true, hnone, hone, hready]
  rfl

/-- The state in which an ADRN that issues at once leaves its stream, before an entry runs. -/
def adrnTaken (s : State) (p : Part) (w : AWord) (j : Job) : State :=
  takeWord (queued s p .arr (.arr .adrn w)) p .arr (j.modStream .arr (Stream.given (.arr .adrn w))) (.arr .adrn w) []

/-- An ADRN that issues at once takes one turn of the pump, and leaves one more (R67). -/
theorem pushWord_adrn_turns {s : State} {p : Part} {w : AWord} {j : Job} (h : issuesNow s p .arr (.arr .adrn w) = true)
    (hj : getJob s p = some j) : pushWord s p .arr (.arr .adrn w) = noted (pumpN 1 (adrnTaken s p w j)) := by
  obtain ⟨hstreams, hended, hwords, -⟩ := ready_of_issuesNow h hj
  obtain ⟨hheld, hdrain⟩ := heldWords_zero hwords p .arr j hj
  have hqueued := restreamed_queued s p .arr (.arr .adrn w)
  have halone := (alone_of_heldWords_zero hwords p .arr).restreamed hqueued
  have hturns : heldWords (queued s p .arr (.arr .adrn w)) = 2 := by
    rw [heldWords_of_alone halone (hqueued.job hj), stream_modStream, if_pos rfl]
    simp [Stream.given, Stream.waiting, hheld, hdrain, SWord.turns]
  rw [pushWord_of_streaming hj hstreams hended, hturns, pumpN_of_alone halone (pumpOne_of_issuesNow h hj), adrnTaken]

/-- A stream once an ADRN that it took has issued: it has `n` entries to run. -/
def Stream.drains (w : AWord) (now n : Nat) (st : Stream) : Stream :=
  Stream.issued .adrn w now { st.taken [] with drain := n }

/-- An ADRN that its stream takes changes its stream, and of the rest only counts. -/
theorem takeWord_adrn {s : State} {p : Part} {w : AWord} {j : Job} (hj : getJob s p = some j)
    (hskip : (j.arrS.gated && j.vetoed && (SWord.arr .adrn w).skips) = false) :
    (∃ now, restreamed s (takeWord s p .arr j (.arr .adrn w) []) p .arr (Stream.drains w now (drainCount s w)))
      ∧ sameOperands s (takeWord s p .arr j (.arr .adrn w) []) ∧ (takeWord s p .arr j (.arr .adrn w) []).pwr = s.pwr := by
  have hissue := sameOperands_atIssue s p j []
  have heffect : restreamed (atIssue s p j []) (arrEffect (atIssue s p j []) p j.arrS.lead j.arrS.index .adrn w) p .arr
      fun st => { st with drain := drainCount s w } := by
    have hcount : drainCount (atIssue s p j []) w = drainCount s w := by simp only [drainCount, hissue.arr]
    exact hcount ▸ restreamed_adrnRun (atIssue s p j []) p w
  refine ⟨⟨_, restreamed_takeWord hj hskip heffect⟩, ?_, ?_⟩ <;> rw [takeWord_arr [] hj hskip, launched_adrn]
  · exact hissue.trans ((sameOperands_adrnRun ..).trans ((sameOperands_modStream ..).trans (sameOperands_modStream ..)))
  · rw [modJob_pwr, modJob_pwr, arrEffect, adrnRun, modJob_pwr, atIssue_pwr]

/-- What an ADRN leaves before an entry runs: its stream with the entries to run, and the array as it was. -/
theorem adrnTaken_effect {s : State} {p : Part} {w : AWord} {j : Job} (h : issuesNow s p .arr (.arr .adrn w) = true)
    (hj : getJob s p = some j) :
    alone (adrnTaken s p w j) p .arr ∧ sameOperands s (adrnTaken s p w j) ∧ (adrnTaken s p w j).pwr = s.pwr
      ∧ ∃ k, getJob (adrnTaken s p w j) p = some k ∧ k.arrS.held = [] ∧ k.arrS.drain = drainCount s w := by
  obtain ⟨-, -, hwords, -⟩ := ready_of_issuesNow h hj
  have hqueued := restreamed_queued s p .arr (.arr .adrn w)
  have hskip := not_skipped_of_issuesNow h hj
  have hcount : drainCount (queued s p .arr (.arr .adrn w)) w = drainCount s w := by
    simp only [drainCount, queued, modJob_arr]
  obtain ⟨⟨now, htake⟩, hsame, hpwr⟩ := takeWord_adrn (hqueued.job hj) hskip
  have hstream := hqueued.trans htake
  exact ⟨(alone_of_heldWords_zero hwords p .arr).restreamed hstream, (sameOperands_modStream ..).trans hsame,
    hpwr.trans (modJob_pwr ..), _, hstream.job hj, rfl, hcount⟩

/-- ADRN where it issues at once: its stream runs the entries, the oldest one at once where it may (R67). -/
theorem pushWord_adrn {s : State} {p : Part} {w : AWord} (h : issuesNow s p .arr (.arr .adrn w) = true) :
    let t := pushWord s p .arr (.arr .adrn w)
    let k := if 0 < drainCount s w ∧ drainReady s = .go then 1 else 0
    t.vec = s.vec ∧ t.arr.plain = s.arr.plain ∧ t.arr.defq = s.arr.defq.drop k
      ∧ ∃ j, getJob t p = some j ∧ j.arrS.drain = drainCount s w - k := by
  obtain ⟨j, hj⟩ := getJob_of_issuesNow h
  obtain ⟨halone, hsame, hpwr, i, hi, hheld, hdrain⟩ := adrnTaken_effect h hj
  have hone := pumpOne_of_drained hi hheld
  simp only [hdrain, hsame.arr, hsame.drainReady hpwr] at hone
  intro t k
  have ht : t = noted (pumpN 1 (adrnTaken s p w j)) := pushWord_adrn_turns h hj
  by_cases hrun : 0 < drainCount s w ∧ drainReady s = .go
  · obtain ⟨hpos, hready⟩ := id hrun
    have hqueue : s.arr.defq ≠ [] := fun hnil => by simp [drainCount, hnil] at hpos
    obtain ⟨d, q, hq⟩ := List.exists_cons_of_ne_nil hqueue
    rw [if_pos ⟨hpos, hqueue, hready⟩] at hone
    rw [pumpN_of_alone halone hone, pumpN, entryStarted] at ht
    have hdefq : (modJob (adrnTaken s p w j) p fun j => j.modStream .arr fun st => { st with drain := st.drain - 1 }).arr.defq
        = d :: q := by rw [modJob_arr, hsame.arr, hq]
    obtain ⟨hjobs, hvec, hplain, hrest⟩ := runEntry_frame hdefq true
    have hjob := ((restreamed_modStream ..).trans (restreamed_of_jobs hjobs p .arr)).job hi
    obtain ⟨m, hm, hstream⟩ := unnoted_noted _ hjob .arr
    have hk : k = 1 := if_pos hrun
    rw [ht, hk, noted_vec, noted_arr, hvec, hplain, hrest, hq, modJob_vec, modJob_arr, hsame.vec, hsame.arr]
    refine ⟨rfl, rfl, rfl, m, hm, ?_⟩
    exact (congrArg Stream.drain hstream).trans (congrArg (· - 1) hdrain)
  · rw [if_neg fun ⟨hpos, _, hready⟩ => hrun ⟨hpos, hready⟩] at hone
    rw [pumpN_of_waiting halone hone] at ht
    obtain ⟨m, hm, hstream⟩ := unnoted_noted _ hi .arr
    have hk : k = 0 := if_neg hrun
    rw [ht, hk, noted_vec, noted_arr, hsame.vec, hsame.arr]
    exact ⟨rfl, rfl, rfl, m, hm, (congrArg Stream.drain hstream).trans hdrain⟩

/-! ### DEFERRED_ENTRY_DRAIN -/

/-- Where no stream holds a word, every array stream leaves the array idle (R67). -/
theorem allIdle_of_heldWords_zero {s : State} (h : heldWords s = 0) : allIdle s = true := by
  refine List.all_eq_true.2 fun i _ => ?_
  split
  · rfl
  · next j hj =>
    have hheld : j.arrS.held = [] := (heldWords_zero h _ .arr j hj).1
    simp only [arrIdle, hheld]

/-- An idle slot runs the oldest entry where it may run (R67). -/
theorem drainEntry_of_ready {s : State} {d : DefEntry} {q : List DefEntry} (hq : s.arr.defq = d :: q)
    (hwords : heldWords s = 0) (hready : drainReady s = .go) : drainEntry s = runEntry s false := by
  have hrun : (!s.arr.defq.isEmpty && allIdle s && drainReady s == .go) = true := by
    rw [hq, allIdle_of_heldWords_zero hwords, hready]
    rfl
  obtain ⟨hjobs, -, -, -⟩ := runEntry_frame hq false
  rw [drainEntry, if_pos hrun, pump_of_heldWords_zero _ ((heldWords_congr hjobs).trans hwords)]

end Sys2Proof.Machine
end

section
/-! PROOFS. The twin pair: an AMMT that waits for its AACC, and the two products that start as one (R64). -/

namespace Sys2Proof.Machine

/-! ### The products of a pair -/

theorem besideRun_shelfMeet (s : State) (p : Part) (op : AOp) (r : TEntry) (w : AWord) (klen : Nat) :
    besideRun (shelfMeet s p op r w klen) = besideRun s := by
  refine foldl_field besideRun _ (fun t e => ?_) _ _
  dsimp only
  split
  · rfl
  · split
    · exact besideRun_arrError ..
    · refine (foldl_field besideRun _ (fun u row => ?_) _ _).trans (besideRun_arrError t p e)
      exact foldl_field besideRun (fun s x => accSet s (w.dst.toNat + row * w.rowLen + x) 0x7FC00000) (fun _ _ => rfl) _ _

theorem besideRun_ammtRun {s : State} {p : Part} {w : AWord} (hmark : (s.arr.colr || markSet s p w.aux.toNat) = true)
    (idx : Nat) : besideRun (ammtRun s p w idx) = besideRun s := by
  rw [ammtRun, if_neg (by rw [← Bool.not_or, hmark]; decide)]
  exact (besideRun_shelfMeet ..).trans ((besideRun_productBlock ..).trans ((besideRun_blockMeet ..).trans
    (besideRun_touchBlock ..)))

theorem calm_of_filled {s s' t : State} {i n : Nat} {v : Nat → W32} (hc : calm s) (hs : sameOperands s s')
    (h : afterIssue (accFill s' i n v) t) : calm t := by
  obtain ⟨hoff, hspd, harr⟩ := hs.calm hc
  have hpwr : t.pwr = s'.pwr := (congrArg State.pwr h.rest :)
  have hspd' : t.spdErr = s'.spdErr := (congrArg State.spdErr h.rest :)
  have harr' : t.arr.errs = s'.arr.errs := (congrArg (fun s : State => s.arr.errs) h.rest :)
  exact ⟨fun d hlo hhi => by rw [dom_congr hpwr]; exact hoff d hlo hhi, hspd'.trans hspd, harr'.trans harr⟩

/-- The AMMT of a twin pair that is taken: in flight on the west half, its lead word in force (R64). -/
theorem takeWord_ammt_twin {s : State} {p : Part} {j : Job} {a : AWord} {rest : List SWord} (hj : getJob s p = some j)
    (hgated : j.arrS.gated = false) (hlead : j.arrS.lead = .twin) (hmode : s.arr.mode = .twin) (hc : calm s)
    (hmark : (s.arr.colr || markSet s p a.aux.toNat) = true) :
    let t := takeWord s p .arr j (.arr .ammt a) rest
    (∃ now, restreamed s t p .arr fun st => (st.taken rest).issued .ammt a now) ∧ t.arr.mode = .twin
      ∧ t.arr.flying = s.arr.flying ++ [{ part := p, op := .ammt, w := a, area := some .west }] ∧ arrFrame s t ∧ calm t := by
  have hskip : (j.arrS.gated && j.vetoed && (SWord.arr .ammt a).skips) = false := by rw [hgated]; rfl
  have hissue := sameOperands_atIssue s p j rest
  have hbeside := besideRun_ammtRun ((hissue.marked ..).trans hmark) j.arrS.index
  have hjobs := congrArg (fun b => b.1) hbeside
  have harea : productArea s j.arrS.lead .ammt = some .west := by simp only [productArea, hmode]
  have harr : (takeWord s p .arr j (.arr .ammt a) rest).arr
      = (launched (ammtRun (atIssue s p j rest) p a j.arrS.index) p .twin (some .west) .ammt a).arr := by
    rw [takeWord_arr rest hj hskip, harea, hlead, modJob_arr, arrEffect]
  have hlaunch (u : State) : (launched u p .twin (some .west) .ammt a).arr
      = { u.arr with flying := u.arr.flying ++ [{ part := p, op := .ammt, w := a, area := some .west }] } := by
    simp only [launched, launchArr, modJob_arr]
  obtain ⟨s1, idx, hsame, hafter⟩ := takeWord_arr_effect s p j .ammt a rest hj hskip
  obtain ⟨s2, hsame2, hrun⟩ := ammtRun_eq (hsame.calm hc) ((hsame.marked ..).trans hmark) idx
  simp only [arrEffect, hrun] at hafter
  have hall := hsame.trans hsame2
  obtain ⟨hframe, -, -⟩ := filled_effect hall hafter
  refine ⟨⟨_, restreamed_takeWord hj hskip (restreamed_of_jobs hjobs p .arr)⟩, ?_, ?_, hframe, calm_of_filled hc hall hafter⟩
  · rw [harr, hlaunch]
    exact (congrArg (fun b => b.2.2.mode) hbeside).trans ((congrArg ArrayUnit.mode hissue.arr).trans hmode)
  · rw [harr, hlaunch]
    exact congrArg (· ++ _) ((congrArg (fun b => b.2.2.flying) hbeside).trans (congrArg ArrayUnit.flying hissue.arr))

/-- The AACC of a twin pair that is taken joins the AMMT before it (R64). -/
theorem takeWord_aacc_twin {s : State} {p : Part} {j : Job} {b : AWord} (hj : getJob s p = some j)
    (hgated : j.arrS.gated = false) (hlead : j.arrS.lead = .twin) (hmode : s.arr.mode = .twin) (hc : calm s) :
    let t := takeWord s p .arr j (.arr .aacc b) []
    (∃ now, restreamed s t p .arr fun st => (st.taken []).issued .aacc b now)
      ∧ t.arr.flying = joinPair s.arr.flying b ∧ arrFrame s t := by
  have hskip : (j.arrS.gated && j.vetoed && (SWord.arr .aacc b).skips) = false := by rw [hgated]; rfl
  have hissue := sameOperands_atIssue s p j []
  have heffect {u : State} (hu : sameOperands s u) (idx : Nat) :
      arrEffect u p j.arrS.lead idx .aacc b = aaccRun u p b true := by
    simp [arrEffect, aaccDeferred, hlead, hu.arr, hmode]
  have hbeside := besideRun_aaccRun (atIssue s p j []) p b true
  have hjobs := congrArg (fun b => b.1) hbeside
  rw [← heffect hissue j.arrS.index] at hjobs
  have harea : productArea s j.arrS.lead .aacc = some .east := by simp [productArea, hmode, hlead]
  have harr : (takeWord s p .arr j (.arr .aacc b) []).arr
      = (launched (aaccRun (atIssue s p j []) p b true) p .twin (some .east) .aacc b).arr := by
    rw [takeWord_arr [] hj hskip, harea, heffect hissue, hlead, modJob_arr]
  have hlaunch {u : State} (hu : u.arr.mode = .twin) : (launched u p .twin (some .east) .aacc b).arr.flying
      = joinPair u.arr.flying b := by
    simp only [launched, launchArr, modJob_arr, hu, and_self, if_true]
  obtain ⟨s1, idx, hsame, hafter⟩ := takeWord_arr_effect s p j .aacc b [] hj hskip
  obtain ⟨s2, hsame2, hrun⟩ := aaccRun_eq (hsame.calm hc) p b true
  rw [heffect hsame, hrun] at hafter
  obtain ⟨hframe, -, -⟩ := filled_effect (hsame.trans hsame2) hafter
  refine ⟨⟨_, restreamed_takeWord hj hskip (restreamed_of_jobs hjobs p .arr)⟩, ?_, hframe⟩
  rw [harr, hlaunch]
  · exact congrArg (joinPair · b) ((congrArg (fun b => b.2.2.flying) hbeside).trans (congrArg ArrayUnit.flying hissue.arr))
  · exact (congrArg (fun b => b.2.2.mode) hbeside).trans ((congrArg ArrayUnit.mode hissue.arr).trans hmode)

theorem joinPair_append (l : List ArrFlight) (f : ArrFlight) (w : AWord) :
    joinPair (l ++ [f]) w = l ++ [{ f with area := some .whole, mate := some w }] := by
  induction l with
  | nil => rfl
  | cons g l ih =>
    have hne : l ++ [f] ≠ [] := by simp
    rw [List.cons_append, List.cons_append, ← ih]
    obtain ⟨h, t, ht⟩ := List.exists_cons_of_ne_nil hne
    rw [ht]
    rfl

/-- Behind the word that starts a pair its other word is taken with it. -/
theorem takeWords_of_startsPair {s : State} {p : Part} {j k : Job} {x y : SWord}
    (hk : getJob (takeWord s p .arr j x [y]) p = some k) (h : startsPair s j .arr x = true) :
    takeWords s p .arr j x [y] = takeWord (takeWord s p .arr j x [y]) p .arr k y [] := by
  simp only [takeWords, hk, h, if_true]

/-! ### The stream of a pair -/

/-- The array stream of a job runs in twin mode under ATWIN, and its next word has nothing to wait for but its unit. -/
structure twinLed (s : State) (p : Part) (j : Job) : Prop where
  job : getJob s p = some j
  streaming : j.streaming = true
  ended : j.arrS.ended = false
  unheld : j.arrS.unheld = true
  drain : j.arrS.drain = 0
  draining : draining s j = false
  wait : j.arrS.wait = none
  earliest : j.arrS.earliest ≤ nowCyc s
  gated : j.arrS.gated = false
  lead : j.arrS.lead = .twin
  mode : s.arr.mode = .twin

section Pair

variable {s : State} {p : Part} {j : Job} {a b : AWord} (h : twinLed s p j)
include h

/-- A word that comes changes nothing of that. -/
theorem twinLed.queued (x : SWord) : twinLed (queued s p .arr x) p (j.modStream .arr (Stream.given x)) where
  job := (restreamed_queued s p .arr x).job h.job
  streaming := h.streaming
  ended := h.ended
  unheld := h.unheld
  drain := h.drain
  draining := by
    have harr : (Machine.queued s p .arr x).arr = s.arr := modJob_arr ..
    rw [← h.draining, Machine.draining, harr]
    rfl
  wait := h.wait
  earliest := h.earliest.trans_eq (nowCyc_modJob ..).symm
  gated := h.gated
  lead := h.lead
  mode := (congrArg ArrayUnit.mode (modJob_arr ..)).trans h.mode

theorem twinLed.wordReady_ammt {more : List SWord} (hheld : j.arrS.held = .arr .ammt a :: more) :
    wordReady s p j .arr (.arr .ammt a) = arrReady s p .twin more .ammt a := by
  have hcycle : ¬ nowCyc s < j.arrS.earliest := Nat.not_lt.2 h.earliest
  simp [wordReady, Job.stream, h.wait, hcycle, h.gated, h.draining, h.lead, hheld]

theorem twinLed.pumpDrain_none {more : List SWord} (hheld : j.arrS.held = .arr .ammt a :: more) : pumpDrain s p = none :=
  Machine.pumpDrain_none s p fun k hk => by
    obtain rfl := Option.some.inj (h.job.symm.trans hk)
    exact ⟨h.drain, by simp only [queueFull, hheld]⟩

theorem twinLed.ammt_waits (hheld : j.arrS.held = [.arr .ammt a]) : wordReady s p j .arr (.arr .ammt a) = .wait := by
  rw [h.wordReady_ammt hheld]
  simp only [arrReady, h.mode, and_self, if_true]

/-- The AMMT of a pair whose AACC has not come waits. -/
theorem twinLed.pumpOne_ammt (hheld : j.arrS.held = [.arr .ammt a]) : pumpOne s p .arr = none := by
  have hstream : (j.stream .arr).held = [.arr .ammt a] := hheld
  simp only [pumpOne, h.job, if_true, h.pumpDrain_none hheld, hstream, h.ammt_waits hheld]
  rfl

/-- The two words of a pair are taken in one turn of the pump. -/
theorem twinLed.pumpOne_pair (hheld : j.arrS.held = [.arr .ammt a, .arr .aacc b]) (hready : pairReady s p a b = .go) :
    pumpOne s p .arr = some (takeWords s p .arr j (.arr .ammt a) [.arr .aacc b]) := by
  have hgo : wordReady s p j .arr (.arr .ammt a) = .go := by
    rw [h.wordReady_ammt hheld, ← hready]
    simp only [arrReady, h.mode, and_self, if_true]
  have hstream : (j.stream .arr).held = [.arr .ammt a, .arr .aacc b] := hheld
  simp only [pumpOne, h.job, if_true, h.pumpDrain_none hheld, hstream, hgo]

/-- The two words of a pair, taken together: one flight on both halves, and their stream goes on without a lead word. -/
theorem twinLed.takeWords_pair (hc : calm s) (hmark : (s.arr.colr || markSet s p a.aux.toNat) = true) :
    let t := takeWords s p .arr j (.arr .ammt a) [.arr .aacc b]
    arrFrame s t
      ∧ t.arr.flying = s.arr.flying ++ [{ part := p, op := .ammt, w := a, area := some .whole, mate := some b }]
      ∧ ∃ f, restreamed s t p .arr f ∧ ∀ st, (f st).held = [] ∧ (f st).lead = .none ∧ (f st).drain = st.drain := by
  obtain ⟨⟨now1, hstream1⟩, hmode, hflying, hframe1, hcalm⟩ :=
    takeWord_ammt_twin (rest := [.arr .aacc b]) h.job h.gated h.lead h.mode hc hmark
  have hjob := hstream1.job h.job
  have hstarts : startsPair s j .arr (.arr .ammt a) = true := by
    simp [startsPair, h.lead, h.mode, h.gated]
  obtain ⟨⟨now2, hstream2⟩, hjoin, hframe2⟩ := takeWord_aacc_twin (b := b) hjob h.gated h.lead hmode hcalm
  obtain ⟨hmem1, hvec1, htables1, hrings1⟩ := hframe1
  obtain ⟨hmem2, hvec2, htables2, hrings2⟩ := hframe2
  rw [takeWords_of_startsPair hjob hstarts]
  refine ⟨⟨hmem2.trans hmem1, hvec2.trans hvec1, htables2.trans htables1, hrings2.trans hrings1⟩, ?_,
    _, hstream1.trans hstream2, fun _ => ⟨rfl, rfl, rfl⟩⟩
  rw [hjoin, hflying, joinPair_append]

/-- The pump where a pair alone waits: it takes both words, and nothing else runs. -/
theorem twinLed.pump_pair (halone : alone s p .arr) (hheld : j.arrS.held = [.arr .ammt a, .arr .aacc b])
    (hready : pairReady s p a b = .go) (hc : calm s) (hmark : (s.arr.colr || markSet s p a.aux.toNat) = true) :
    let u := noted (pumpN (heldWords s) s)
    arrFrame s u
      ∧ u.arr.flying = s.arr.flying ++ [{ part := p, op := .ammt, w := a, area := some .whole, mate := some b }]
      ∧ ∃ k, getJob u p = some k ∧ k.arrS.held = [] ∧ k.arrS.lead = .none := by
  obtain ⟨hframe, hflying, f, hstream, hfields⟩ := h.takeWords_pair (b := b) hc hmark
  have hjob := hstream.job h.job
  obtain ⟨hnone, hlead, hdrain⟩ := hfields j.arrS
  have hdone := pumpOne_none _ p .arr fun k hk => by
    obtain rfl := Option.some.inj (hjob.symm.trans hk)
    exact ⟨hnone, hdrain.trans h.drain⟩
  have hturns : heldWords s = 2 := by
    rw [heldWords_of_alone halone h.job]
    simp [Stream.waiting, Job.stream, hheld, h.drain, SWord.turns]
  obtain ⟨k, hk, hkept⟩ := unnoted_noted _ hjob .arr
  rw [hturns, pumpN_of_alone halone (h.pumpOne_pair hheld hready), pumpN_of_waiting (halone.restreamed hstream) hdone]
  obtain ⟨hmem, hvec, htables, hrings⟩ := hframe
  exact ⟨⟨(noted_mem _).trans hmem, (noted_vec _).trans hvec, (noted_tables _).trans htables, (noted_rings _).trans hrings⟩,
    (congrArg ArrayUnit.flying (noted_arr _)).trans hflying, k, hk, (congrArg Stream.held hkept).trans hnone,
    (congrArg Stream.lead hkept).trans hlead⟩

end Pair

/-! ### The commands -/

/-- The AMMT of a twin pair waits in its stream for its AACC, and nothing is noted of it (R64). -/
theorem pushWord_ammt_waits {s : State} {p : Part} {j : Job} (h : twinLed s p j) (hwords : heldWords s = 0) (a : AWord) :
    pushWord s p .arr (.arr .ammt a) = queued s p .arr (.arr .ammt a) := by
  have hqueued := h.queued (.arr .ammt a)
  have halone := (alone_of_heldWords_zero hwords p .arr).restreamed (restreamed_queued s p .arr (.arr .ammt a))
  have hheld : (j.modStream .arr (Stream.given (.arr .ammt a))).arrS.held = [.arr .ammt a] :=
    congrArg (· ++ [SWord.arr .ammt a]) (heldWords_zero hwords p .arr j h.job).1
  rw [pushWord_of_streaming h.job h.streaming (u := .arr) h.ended, pumpN_of_waiting halone (hqueued.pumpOne_ammt hheld)]
  refine noted_of_cause fun q v k x rest hk hx => ?_
  by_cases hqv : (q, v) = (p, .arr)
  · obtain ⟨rfl, rfl⟩ := Prod.mk.inj hqv
    obtain rfl := Option.some.inj (hqueued.job.symm.trans hk)
    obtain ⟨rfl, -⟩ := List.cons.inj (hheld.symm.trans hx)
    have hunheld := hqueued.unheld
    simp only [Stream.unheld, Bool.and_eq_true, Option.isNone_iff_eq_none] at hunheld
    obtain ⟨⟨hnone, -⟩, -⟩ := hunheld
    rw [hqueued.ammt_waits hheld, Stream.cause, Job.stream, hnone]
    rfl
  · rw [(halone q v k hqv hk).1] at hx
    exact absurd hx (by simp)

/-- The AACC of a twin pair that has come and may start: both products start, as one instruction in flight (R64). -/
theorem pushWord_aacc_pair {s : State} {p : Part} {j : Job} {a b : AWord} (h : twinLed s p j) (hwords : heldWords s = 0)
    (hready : pairReady s p a b = .go) (hmark : (s.arr.colr || markSet s p a.aux.toNat) = true) (hc : calm s) :
    let u := pushWord (queued s p .arr (.arr .ammt a)) p .arr (.arr .aacc b)
    arrFrame s u
      ∧ u.arr.flying = s.arr.flying ++ [{ part := p, op := .ammt, w := a, area := some .whole, mate := some b }]
      ∧ ∃ k, getJob u p = some k ∧ k.arrS.held = [] ∧ k.arrS.lead = .none := by
  have hfirst := h.queued (.arr .ammt a)
  have hsecond := hfirst.queued (.arr .aacc b)
  have hstreams := (restreamed_queued s p .arr (.arr .ammt a)).trans (restreamed_queued _ p .arr (.arr .aacc b))
  have halone := (alone_of_heldWords_zero hwords p .arr).restreamed hstreams
  have hheld := congrArg (fun l => l ++ [SWord.arr .ammt a] ++ [SWord.arr .aacc b]) (heldWords_zero hwords p .arr j h.job).1
  have hsame : sameOperands s (queued (queued s p .arr (.arr .ammt a)) p .arr (.arr .aacc b)) :=
    (sameOperands_modStream ..).trans (sameOperands_modStream ..)
  have hpwr : (queued (queued s p .arr (.arr .ammt a)) p .arr (.arr .aacc b)).pwr = s.pwr :=
    (modJob_pwr ..).trans (modJob_pwr ..)
  obtain ⟨⟨hmem, hvec, htables, hrings⟩, hflying, hstream⟩ := hsecond.pump_pair halone hheld
    ((hsame.pairReady hpwr ..).trans hready) (hsame.calm hc) ((hsame.marked ..).trans hmark)
  rw [pushWord_of_streaming hfirst.job hfirst.streaming (u := .arr) hfirst.ended]
  rw [hsame.arr] at hflying
  exact ⟨⟨hmem.trans hsame.mem, hvec.trans hsame.vec, htables.trans hsame.tables, hrings.trans hsame.rings⟩, hflying, hstream⟩

/-! ### The statement -/

theorem arrFrame_queued (s : State) (p : Part) (x : SWord) : arrFrame s (queued s p .arr x) :=
  ⟨modJob_mem .., modJob_vec .., modJob_tables .., modJob_rings ..⟩

theorem leadOf_of_job {s : State} {p : Part} {j : Job} (hj : getJob s p = some j) : leadOf s p = j.arrS.lead := by
  simp only [leadOf, hj]

/-- Settles O14: the words that enter the queue, lead, wait or set the mode by what each leaves of the array and its stream,
the entries that run by `runEntry_frame` and `runEntry_of_calm`, the twin pair by `twinLed`. -/
theorem arrayQueue : Obligations.ArrayQueue := by
  unfold Obligations.ArrayQueue
  refine ⟨fun s p w h hdef _ => ?_, fun s p w h => ?_,
    fun s p j a b hj hstreams hended hunheld hwords hdraining hwait hearliest hgated hlead hmode => ?_,
    fun s d q hq hwords hready hc hparked => ?_, fun s p w h => ?_, fun s p w h => ?_, fun s p w h => ?_,
    fun s p w j hj h => ?_⟩
  · obtain ⟨harr, hframe⟩ := pushWord_aacc_deferred h hdef
    exact ⟨_, rfl, (congrArg ArrayUnit.defq harr :), (congrArg ArrayUnit.acc harr :), hframe⟩
  · exact ⟨_, rfl, pushWord_adrn h⟩
  · have hled : twinLed s p j := ⟨hj, hstreams, hended, hunheld, (heldWords_zero hwords p .arr j hj).2, hdraining, hwait,
      hearliest, hgated, hlead, hmode⟩
    have hwaits := pushWord_ammt_waits hled hwords a
    refine ⟨⟨_, _, congrArg Host.Outcome.next hwaits, (hled.queued (.arr .ammt a)).job, ?_, modJob_arr .., arrFrame_queued ..⟩,
      fun hready hmark hc _ t ht => ?_⟩
    · exact congrArg (· ++ [SWord.arr .ammt a]) (heldWords_zero hwords p .arr j hj).1
    · obtain rfl : pushWord s p .arr (.arr .ammt a) = t := Host.Outcome.next.inj ht
      obtain ⟨hframe, hflying, k, hk, hheld, hnone⟩ := pushWord_aacc_pair hled hwords hready hmark hc
      rw [hwaits]
      exact ⟨_, k, rfl, hframe, hflying, hk, hheld, hnone⟩
  · obtain ⟨-, -, -, hrest⟩ := runEntry_frame hq false
    obtain ⟨hframe, hblock, hothers⟩ := runEntry_of_calm hc hparked hq false
    exact ⟨_, congrArg Host.Outcome.next (drainEntry_of_ready hq hwords hready), hrest, hframe, hblock, hothers⟩
  · obtain ⟨j, hj⟩ := getJob_of_issuesNow h
    obtain ⟨harr, hframe, k, hk, hlead, -⟩ := pushWord_without_effect (.inl rfl) h hj
    exact ⟨_, rfl, (leadOf_of_job hk).trans hlead, harr, hframe⟩
  · obtain ⟨j, hj⟩ := getJob_of_issuesNow h
    obtain ⟨harr, hframe, k, hk, hlead, -⟩ := pushWord_without_effect (.inr (.inl rfl)) h hj
    exact ⟨_, rfl, (leadOf_of_job hk).trans hlead, harr, hframe⟩
  · obtain ⟨j, hj⟩ := getJob_of_issuesNow h
    obtain ⟨harr, hframe, k, hk, -, hearliest⟩ := pushWord_without_effect (.inr (.inr rfl)) h hj
    exact ⟨_, k, rfl, harr, hframe, hk, hearliest⟩
  · obtain ⟨harr, hvec, k, hk, hearliest⟩ := pushWord_amode h hj
    exact ⟨_, k, rfl, (congrArg ArrayUnit.mode harr :), (congrArg ArrayUnit.colr harr :), (congrArg ArrayUnit.acc harr :),
      (congrArg ArrayUnit.defq harr :), hvec, hk, hearliest⟩

end Sys2Proof.Machine
end

section
/-! PROOFS. A vector word that issues at once: what it finds, what it leaves beside its effect, and the operands that it reads
(R90 to R96, R99, R103 to R105, R114). -/

namespace Sys2Proof.Machine

/-! ### A vector word that issues at once -/

/-- The state without what the issue of a vector word notes beside its effect: the jobs and the instructions in flight. -/
def vecFlightless (s : State) : State := { s with jobs := [], vec := { s.vec with flying := [] } }

/-- The state `t` is `u` but for the streams of the jobs and the vector instructions in flight. -/
structure vecIssued (u t : State) : Prop where
  rest : vecFlightless t = vecFlightless u
  jobs : ∀ q, (getJob t q).map Job.unstreamed = (getJob u q).map Job.unstreamed

namespace vecIssued

theorem trans {u t v : State} (h : vecIssued u t) (k : vecIssued t v) : vecIssued u v :=
  ⟨k.rest.trans h.rest, fun q => (k.jobs q).trans (h.jobs q)⟩

section Fields

variable {u t : State} (h : vecIssued u t)
include h

theorem tile : t.vec.tile = u.vec.tile := (congrArg (fun s : State => s.vec.tile) h.rest :)
theorem lane : t.vec.lane = u.vec.lane := (congrArg (fun s : State => s.vec.lane) h.rest :)
theorem mask : t.vec.mask = u.vec.mask := (congrArg (fun s : State => s.vec.mask) h.rest :)
theorem poly : t.vec.poly = u.vec.poly := (congrArg (fun s : State => s.vec.poly) h.rest :)
theorem mem : t.mem = u.mem := (congrArg State.mem h.rest :)
theorem arr : t.arr = u.arr := (congrArg State.arr h.rest :)
theorem tables : t.tables = u.tables := (congrArg State.tables h.rest :)
theorem rings : t.rings = u.rings := (congrArg State.rings h.rest :)
theorem pwr : t.pwr = u.pwr := (congrArg State.pwr h.rest :)
theorem free : t.free = u.free := (congrArg State.free h.rest :)

end Fields

end vecIssued

theorem vecIssued_modStream (s : State) (p : Part) (u : SUnit) (f : Stream → Stream) :
    vecIssued s (modJob s p fun j => j.modStream u f) :=
  ⟨by unfold modJob; split <;> rfl, (sameOperands_modStream s p u f).jobs⟩

theorem vecIssued_noted (s : State) : vecIssued s (noted s) :=
  ⟨noted_field vecFlightless (fun t p u f => (vecIssued_modStream t p u f).rest) s,
   fun q => noted_field (fun t => (getJob t q).map Job.unstreamed) (fun t p u f => (vecIssued_modStream t p u f).jobs q) s⟩

/-- What a vector word finds where it issues: the operands of the state it came to, and the same power domains. -/
structure vecFinds (s t : State) : Prop where
  operands : sameOperands s t
  pwr : t.pwr = s.pwr

/-- The state in which the oldest word of a vector stream, once taken, has its effect. -/
def vecAtIssue (s : State) (p : Part) (j : Job) (rest : List SWord) : State :=
  sampleTick (count (modJob (countHold s p .vec j.vecS) p fun k => k.modStream .vec (Stream.taken rest)) blkVec 0 2 1
    (atPart p)) p 1

theorem vecFinds_vecAtIssue (s : State) (p : Part) (j : Job) (rest : List SWord) : vecFinds s (vecAtIssue s p j rest) :=
  ⟨((sameOperands_countHold ..).trans (sameOperands_modStream ..)).trans
      ((sameOperands_count ..).trans (sameOperands_sampleTick ..)),
    by rw [vecAtIssue, sampleTick_pwr, count_pwr, modJob_pwr, countHold_pwr]⟩

/-- Beside its effect a vector word changes nothing but the streams and the instructions in flight. -/
theorem vecIssued_takeWord (s : State) {p : Part} {j : Job} {op : VOp} {w : VWord} (rest : List SWord)
    (hskip : (j.vecS.gated && j.vetoed && (SWord.vec op w).skips) = false) :
    vecIssued (vecEffect (vecAtIssue s p j rest) p op w) (takeWord s p .vec j (.vec op w) rest) := by
  simp only [takeWord, Job.stream, hskip, Bool.false_eq_true, if_false, runWord, issueVec]
  refine vecIssued.trans ?_ (vecIssued_modStream ..)
  split
  · exact vecIssued_modStream ..
  · exact ⟨rfl, fun _ => rfl⟩

/-- A vector word that issues at once has its effect on the operands that it finds, and leaves the rest. -/
theorem pushWord_vec_effect {s : State} {p : Part} {op : VOp} {w : VWord} (h : issuesNow s p .vec (.vec op w) = true) :
    ∃ s', vecFinds s s' ∧ vecIssued (vecEffect s' p op w) (pushWord s p .vec (.vec op w)) := by
  obtain ⟨j, hj, hpush⟩ := pushWord_issues s p .vec (.vec op w) h rfl
  have hskip := not_skipped_of_issuesNow h hj
  have hfinds := vecFinds_vecAtIssue (queued s p .vec (.vec op w)) p (j.modStream .vec (Stream.given (.vec op w))) []
  have htaken := vecIssued_takeWord (queued s p .vec (.vec op w)) (p := p)
    (j := j.modStream .vec (Stream.given (.vec op w))) [] hskip
  refine ⟨_, ⟨(sameOperands_modStream ..).trans hfinds.operands, hfinds.pwr.trans (modJob_pwr ..)⟩, ?_⟩
  rw [hpush]
  exact htaken.trans (vecIssued_noted _)

/-! ### Reads of the same registers -/

section Reads

variable {s t : State} (h : sameOperands s t)
include h

theorem sameOperands.tileRaw : tileRaw t = tileRaw s := by funext r f i j; simp only [Machine.tileRaw, h.vec]

theorem sameOperands.laneAt : laneAt t = laneAt s := by funext r i; simp only [Machine.laneAt, h.vec]

theorem sameOperands.tileNum : tileNum t = tileNum s := by
  funext r f i j; simp only [Machine.tileNum, h.tileRaw, h.laneAt]

theorem sameOperands.maskBit : maskBit t = maskBit s := by funext k i j; simp only [Machine.maskBit, h.vec]

theorem sameOperands.maskFor : maskFor t = maskFor s := by funext k f i j; simp only [Machine.maskFor, h.maskBit]

theorem sameOperands.active : active t = active s := by funext w f i j; simp only [Machine.active, h.maskFor]

theorem sameOperands.opalAt : opalAt t = opalAt s := by funext r i j; simp only [Machine.opalAt, h.tileNum]

theorem sameOperands.taNum : taNum t = taNum s := by funext w i j; simp only [Machine.taNum, h.tileNum]

theorem sameOperands.tbNum : tbNum t = tbNum s := by funext w o i j; simp only [Machine.tbNum, h.tileNum]

theorem sameOperands.tcNum : tcNum t = tcNum s := by funext w i j; simp only [Machine.tcNum, h.tileNum]

theorem sameOperands.tileElem : tileElem t = tileElem s := by
  funext w fmt f i j; simp only [Machine.tileElem, h.active, h.tileRaw]

theorem sameOperands.redInput : redInput t = redInput s := by
  funext w op i j; simp only [Machine.redInput, h.active, h.tileNum]

/-! ### Reads of the same polynomial table -/

theorem sameOperands.polyOpal : polyOpal t = polyOpal s := by funext k o; simp only [Machine.polyOpal, h.vec]

theorem sameOperands.polySeg : polySeg t = polySeg s := by
  funext k g u; simp only [Machine.polySeg, polyCoef, h.polyOpal]

theorem sameOperands.polyEval : polyEval t = polyEval s := by
  funext k x; simp only [Machine.polyEval, polyTail, h.polyOpal, h.polySeg, h.vec]

theorem sameOperands.polyOp : polyOp t = polyOp s := by funext k x; simp only [Machine.polyOp, h.polyEval]

theorem sameOperands.exp2Num : exp2Num t = exp2Num s := by funext x; simp only [Machine.exp2Num, h.polyOp]

theorem sameOperands.log2Num : log2Num t = log2Num s := by funext x; simp only [Machine.log2Num, h.polyOp]

theorem sameOperands.rsqNum : rsqNum t = rsqNum s := by funext x; simp only [Machine.rsqNum, h.polyOp]

/-! ### Reads of the same job -/

theorem sameOperands.seedOf : seedOf t = seedOf s := by
  funext p
  have hj := h.job_field (fun j => j.plan.seed) (fun _ => rfl) p
  unfold Machine.seedOf
  cases hs : getJob s p <;> cases ht : getJob t p <;> simp_all

theorem sameOperands.galeStep : galeStep t = galeStep s := by
  funext p
  have hj := h.job_field (fun j => (j.kind, j.step)) (fun _ => rfl) p
  unfold Machine.galeStep
  cases hs : getJob s p <;> cases ht : getJob t p <;> simp_all

theorem sameOperands.lsOf : lsOf t = lsOf s := by
  funext p
  have hj := h.job_field Job.ls (fun _ => rfl) p
  unfold Machine.lsOf
  cases hs : getJob s p <;> cases ht : getJob t p <;> simp_all

theorem sameOperands.vsclShift : vsclShift t = vsclShift s := by funext p w; simp only [Machine.vsclShift, h.lsOf]

theorem sameOperands.tileIndex : tileIndex t = tileIndex s := by funext p w f i j; simp only [Machine.tileIndex, h.tens]

theorem sameOperands.tileRnd : tileRnd t = tileRnd s := by
  funext p w f i j; simp only [Machine.tileRnd, rndId, h.tens, h.tileIndex, h.seedOf, h.galeStep]

theorem sameOperands.tileSlice : tileSlice t = tileSlice s := by
  funext p w k f i j; simp only [Machine.tileSlice, h.tens, h.tileIndex, h.seedOf, h.galeStep]

theorem sameOperands.rounded : rounded t = rounded s := by funext p w i j x; simp only [Machine.rounded, h.tileRnd]

theorem sameOperands.roundedC : roundedC t = roundedC s := by funext p w i j x; simp only [Machine.roundedC, h.rounded]

theorem sameOperands.vqntRow : vqntRow t = vqntRow s := by
  funext p w i; simp only [Machine.vqntRow, vqntIn, vqntSrc, h.tens, h.active, h.tileNum, h.tileRnd, h.laneAt]

end Reads

end Sys2Proof.Machine
end

section
/-! PROOFS. What a tile write leaves at each element, what it reports and what it leaves as it was, and from it what the vector
words do that write one tile register (R92, R93, R99, R117). -/

namespace Sys2Proof.Machine

/-! ### Another store of registers -/

/-- The state with another store of tile registers. -/
def withTile (s : State) (m : Memory) : State := { s with vec := { s.vec with tile := m } }

/-- The state with another store of shift lanes. -/
def withLane (s : State) (m : Memory) : State := { s with vec := { s.vec with lane := m } }

/-- The state with another store of mask registers. -/
def withMask (s : State) (m : Memory) : State := { s with vec := { s.vec with mask := m } }

theorem getJob_withTile (s : State) (m : Memory) (p : Part) : getJob (withTile s m) p = getJob s p := rfl
theorem withMask_free (s : State) (m : Memory) : (withMask s m).free = s.free := rfl
theorem withMask_tile (s : State) (m : Memory) : (withMask s m).vec.tile = s.vec.tile := rfl
theorem withMask_lane (s : State) (m : Memory) : (withMask s m).vec.lane = s.vec.lane := rfl
theorem withMask_mask (s : State) (m : Memory) : (withMask s m).vec.mask = m := rfl

theorem vecFrame_withTile {s : State} {r : Nat} {m : Memory}
    (h : ∀ a, a < 2048 * r ∨ 2048 * r + 2048 ≤ a → m.get a = s.vec.tile.get a) : vecFrame s (withTile s m) r :=
  ⟨h, rfl, rfl, rfl, rfl, rfl, rfl⟩

theorem vecFrame_withLane {s u : State} {k : Nat} (h : vecFrame s u k) (m : Memory) : vecFrame s (withLane u m) k := h
theorem vecFrame_withMask {s u : State} {k : Nat} (h : vecFrame s u k) (m : Memory) : vecFrame s (withMask u m) k := h

theorem maskFrame_withMask {s : State} {k : Nat} {m : Memory}
    (h : ∀ a, a < 128 * k ∨ 128 * k + 128 ≤ a → m.get a = s.vec.mask.get a) : maskFrame s (withMask s m) k :=
  ⟨h, rfl, rfl, rfl, rfl, rfl, rfl, rfl, rfl⟩

/-! ### A tile write -/

/-- The columns of a row beside those that a tile write covers are as they were. -/
theorem tileRaw_tileWrite_beside (s : State) (p : Part) (w : VWord) (fmt lo n : Nat) (f : Nat → Nat → Elem)
    (hw : (lo + n) * fmtWidth fmt ≤ 64) {i j : Nat} (hj : (j + 1) * fmtWidth fmt ≤ 64) (hout : j < lo ∨ lo + n ≤ j) :
    tileRaw (tileWrite s p w fmt lo n f) w.td.toNat fmt i j = tileRaw s w.td.toNat fmt i j := by
  have hplace : (j + 1) * fmtWidth fmt ≤ lo * fmtWidth fmt ∨ (lo + n) * fmtWidth fmt ≤ j * fmtWidth fmt :=
    hout.imp (fun h => Nat.mul_le_mul_right _ h) fun h => Nat.mul_le_mul_right _ h
  rw [Nat.succ_mul] at hj hplace
  rw [Nat.add_mul] at hw hplace
  refine Memory.readNat_congr fun a hlo hhi => ?_
  rw [tileWrite_tile]
  refine get_stringWrites_outside s.vec.tile 32 a (fun i => 2048 * w.td.toNat + 64 * i + lo * fmtWidth fmt) _ fun k _ => ?_
  rw [length_tileRow]
  omega

theorem shapeCols_fits (fmt : Nat) (h : fmt < 4) : shapeCols fmt * fmtWidth fmt = 64 := by
  interval_cases fmt <;> rfl

theorem wholeTile_fits (w : VWord) : (0 + shapeCols w.df.toNat) * fmtWidth w.df.toNat ≤ 64 := by
  rw [Nat.zero_add]; exact (shapeCols_fits _ w.df.isLt).le

/-- What TD holds after a tile write (R92, R93). -/
theorem tileHolds_tileWrite (s : State) (p : Part) (w : VWord) {fmt lo n : Nat} (f : Nat → Nat → Elem) (hfmt : fmt < 4)
    (hw : (lo + n) * fmtWidth fmt ≤ 64) : tileHolds s (tileWrite s p w fmt lo n f) w fmt lo n f := by
  intro i j hi hj
  split
  · next hin =>
    have hcovered := tileRaw_tileWrite s p w fmt lo n f hw i (j - lo) hi (by omega)
    rwa [Nat.add_sub_cancel' hin.1] at hcovered
  · next hout =>
    have hrow : (j + 1) * fmtWidth fmt ≤ 64 := (Nat.mul_le_mul_right _ hj).trans_eq (shapeCols_fits fmt hfmt)
    exact tileRaw_tileWrite_beside s p w fmt lo n f hw hrow (by omega)

theorem vec_tileWrite (s : State) (p : Part) (w : VWord) (fmt lo n : Nat) (f : Nat → Nat → Elem) :
    (tileWrite s p w fmt lo n f).vec = { s.vec with tile := (tileWrite s p w fmt lo n f).vec.tile } := by
  simp only [tileWrite, vecReport_vec]

/-- A tile write leaves all but TD and the reports and counts as it was. -/
theorem vecFrame_tileWrite (s : State) (p : Part) (w : VWord) {fmt lo n : Nat} (f : Nat → Nat → Elem)
    (hw : (lo + n) * fmtWidth fmt ≤ 64) : vecFrame s (tileWrite s p w fmt lo n f) w.td.toNat := by
  refine ⟨tile_tileWrite_outside s p w fmt lo n f hw, by rw [vec_tileWrite], ?_⟩
  simp only [tileWrite, vecReport_mem, vecReport_arr, vecReport_tables, vecReport_rings, vecReport_pwr, and_self]

/-- A vector word that sets GRAD reports a non-finite result (R117). -/
theorem reported_vecReport {s : State} {p : Part} {j : Job} (hj : getJob s p = some j) (c : Counts) :
    reported (vecReport s p true true c) p (vNonfin ||| srcVector) :=
  reported_report (s := tally s blkVec c) hj _

theorem tileReports_tileWrite {s : State} {p : Part} {j : Job} (hj : getJob s p = some j) (w : VWord) (fmt lo n : Nat)
    (f : Nat → Nat → Elem) : tileReports s (tileWrite s p w fmt lo n f) p w fmt lo n f := by
  rintro hgrad ⟨i, k, hi, hk, hnf⟩
  have hany : ((((List.range 32).map fun i => (i, tileRow s w fmt lo n f i)).flatMap (·.2)).any (·.nf)) = true := by
    simp only [List.any_eq_true, List.mem_flatMap, List.mem_map, List.mem_range, tileRow]
    exact ⟨_, ⟨_, ⟨i, hi, rfl⟩, List.mem_map.2 ⟨k, List.mem_range.2 hk, rfl⟩⟩, hnf⟩
  simp only [tileWrite, hany, hgrad]
  exact reported_vecReport ((getJob_withTile s _ p).trans hj) _

/-! ### What the issue leaves of it -/

theorem tileHolds.after {s s' u t : State} {w : VWord} {fmt lo n : Nat} {f : Nat → Nat → Elem}
    (h : tileHolds s' u w fmt lo n f) (hs : sameOperands s s') (ht : t.vec.tile = u.vec.tile) :
    tileHolds s t w fmt lo n f := by
  intro i j hi hj
  have hheld := h i j hi hj
  rwa [hs.tileElem, hs.tileRaw, show tileRaw u = tileRaw t by funext r f i j; simp only [tileRaw, ht]] at hheld

/-- Of the elements only their bits stand in TD. -/
theorem tileHolds.raw {s t : State} {w : VWord} {fmt lo n : Nat} {f g : Nat → Nat → Elem} (h : tileHolds s t w fmt lo n f)
    (hraw : ∀ i j, (f i j).raw = (g i j).raw) : tileHolds s t w fmt lo n g := by
  intro i j hi hj
  have helem : (tileElem s w fmt f i j).raw = (tileElem s w fmt g i j).raw := by
    simp only [tileElem]
    split
    · exact hraw i j
    · rfl
  rw [h i j hi hj, helem]

theorem vecFrame.after {s s' u t : State} {k : Nat} (h : vecFrame s' u k) (hs : vecFinds s s') (ht : vecIssued u t) :
    vecFrame s t k := by
  obtain ⟨htile, hpoly, hmem, harr, htables, hrings, hpwr⟩ := h
  have hvec := hs.operands.vec
  refine ⟨fun a ha => ?_, by rw [ht.poly, hpoly, hvec], by rw [ht.mem, hmem, hs.operands.mem],
    by rw [ht.arr, harr, hs.operands.arr], by rw [ht.tables, htables, hs.operands.tables],
    by rw [ht.rings, hrings, hs.operands.rings], by rw [ht.pwr, hpwr, hs.pwr]⟩
  rw [ht.tile, htile a ha, hvec]

/-! ### The commands -/

/-- A vector command whose effect is a tile write of elements that it reads from its operands. -/
theorem vecGives_of_effect {c : Part → VWord → Instr} {op : VOp} {fmt : VWord → Nat} {cols : VWord → Nat × Nat}
    {f : State → Part → VWord → Nat → Nat → Elem}
    (hexec : ∀ s p w, exec (c p w) s = .next (pushWord s p .vec (.vec op w)))
    (hfmt : ∀ w, fmt w < 4) (hcols : ∀ w, ((cols w).1 + (cols w).2) * fmtWidth (fmt w) ≤ 64)
    (hreads : ∀ s t p w, sameOperands s t → f t p w = f s p w)
    (heffect : ∀ s p w, vecEffect s p op w = tileWrite s p w (fmt w) (cols w).1 (cols w).2 (f s p w)) :
    VecGives c op fmt cols f := by
  intro s p w h
  obtain ⟨j, hj⟩ := getJob_of_issuesNow h
  obtain ⟨s', hs, ht⟩ := pushWord_vec_effect h
  rw [heffect, hreads s s' p w hs.operands] at ht
  obtain ⟨k, hk, -⟩ := hs.operands.getJob_isSome hj
  refine ⟨_, hexec s p w, (tileHolds_tileWrite s' p w _ (hfmt w) (hcols w)).after hs.operands ht.tile, ?_,
    (vecFrame_tileWrite s' p w _ (hcols w)).after hs ht, ?_, ?_⟩
  · intro hgrad hnf
    rw [← hs.operands.tileElem] at hnf
    exact reported_congr (ht.jobs p) (tileReports_tileWrite hk w _ _ _ _ hgrad hnf)
  · rw [ht.mask, vec_tileWrite, hs.operands.vec]
  · rw [ht.lane, vec_tileWrite, hs.operands.vec]

/-- The same for a command that writes the whole of TD in the format of DF. -/
theorem vecFills_of_effect {c : Part → VWord → Instr} {op : VOp} {f : State → Part → VWord → Nat → Nat → Elem}
    (hexec : ∀ s p w, exec (c p w) s = .next (pushWord s p .vec (.vec op w)))
    (hreads : ∀ s t p w, sameOperands s t → f t p w = f s p w)
    (heffect : ∀ s p w, vecEffect s p op w = tileFull s p w w.df.toNat (f s p w)) : VecFills c op f :=
  vecGives_of_effect hexec (fun w => w.df.isLt) wholeTile_fits hreads heffect

end Sys2Proof.Machine
end

section
/-! PROOFS. The vector words that write one tile register: arithmetic, moves, functions, conversions and draws (R91, R97, R101,
R104, R105, R108, R109, R111, R113, R116). -/

namespace Sys2Proof.Machine

/-! ### Elementwise arithmetic -/

/-- An elementwise command of function `f`, its shift or other setting read from the job by `g`. -/
theorem vecFills_of_elementwise {c : Part → VWord → Instr} {op : VOp} (f : State → Part → VWord → Num → Num → Num → Res)
    (hexec : ∀ s p w, exec (c p w) s = .next (pushWord s p .vec (.vec op w)))
    (hreads : ∀ s t p w, sameOperands s t → f t p w = f s p w)
    (heffect : ∀ s p w, vecEffect s p op w = elementwise s p w (f s p w)) :
    VecFills c op fun s p w i j =>
      rounded s p w i j (f s p w (taNum s w i j) (tbNum s w (colOff w) i j) (tcNum s w i j)) :=
  vecFills_of_effect hexec
    (fun s t p w h => by simp only [h.rounded, h.taNum, h.tbNum, h.tcNum, hreads s t p w h]) heffect

/-- The same where the function reads nothing but its operands. -/
theorem vecFills_of_numeric {c : Part → VWord → Instr} {op : VOp} (f : Num → Num → Num → Res)
    (hexec : ∀ s p w, exec (c p w) s = .next (pushWord s p .vec (.vec op w)))
    (heffect : ∀ s p w, vecEffect s p op w = elementwise s p w f) :
    VecFills c op fun s p w i j => rounded s p w i j (f (taNum s w i j) (tbNum s w (colOff w) i j) (tcNum s w i j)) :=
  vecFills_of_elementwise (fun _ _ _ => f) hexec (fun _ _ _ _ _ => rfl) heffect

/-- Settles O5: each of the commands is an elementwise one, by `vecFills_of_elementwise`; of them VSCL alone reads its job. -/
theorem vectorArithmetic : Obligations.VectorArithmetic := by
  unfold Obligations.VectorArithmetic
  refine ⟨?vadd, ?vsub, ?vmul, ?vfma, ?vdiv, ?vmax, ?vmin, ?vabs, ?vneg, ?vscl, ?vsqrt⟩
  case vadd => exact vecFills_of_numeric (fun a b _ => (a.add b).toRes) (fun _ _ _ => rfl) fun _ _ _ => rfl
  case vsub => exact vecFills_of_numeric (fun a b _ => (a.sub b).toRes) (fun _ _ _ => rfl) fun _ _ _ => rfl
  case vmul => exact vecFills_of_numeric (fun a b _ => (a.mul b).toRes) (fun _ _ _ => rfl) fun _ _ _ => rfl
  case vfma =>
    exact vecFills_of_numeric (fun a b c => ((a.mul b).add c).toRes) (fun _ _ _ => rfl) fun _ _ _ => rfl
  case vdiv => exact vecFills_of_numeric (fun a b _ => a.div b) (fun _ _ _ => rfl) fun _ _ _ => rfl
  case vmax => exact vecFills_of_numeric (fun a b _ => (a.max b).toRes) (fun _ _ _ => rfl) fun _ _ _ => rfl
  case vmin => exact vecFills_of_numeric (fun a b _ => (a.min b).toRes) (fun _ _ _ => rfl) fun _ _ _ => rfl
  case vabs => exact vecFills_of_numeric (fun a _ _ => a.abs.toRes) (fun _ _ _ => rfl) fun _ _ _ => rfl
  case vneg => exact vecFills_of_numeric (fun a _ _ => a.neg.toRes) (fun _ _ _ => rfl) fun _ _ _ => rfl
  case vscl =>
    exact vecFills_of_elementwise (fun s p w a _ _ => (a.scale (vsclShift s p w)).toRes) (fun _ _ _ => rfl)
      (fun _ _ _ _ h => by simp only [h.vsclShift]) fun _ _ _ => rfl
  case vsqrt => exact vecFills_of_numeric (fun a _ _ => a.sqrt) (fun _ _ _ => rfl) fun _ _ _ => rfl

/-! ### Functions of the polynomial table -/

/-- A command of one source through a function of the polynomial table. -/
theorem vecFills_of_polyRun {c : Part → VWord → Instr} {op : VOp} (f : State → VWord → Num → Cnum)
    (hexec : ∀ s p w, exec (c p w) s = .next (pushWord s p .vec (.vec op w)))
    (hreads : ∀ s t w, sameOperands s t → f t w = f s w)
    (heffect : ∀ s p w, vecEffect s p op w = polyRun s p w (f s w)) :
    VecFills c op fun s p w i j => roundedC s p w i j (f s w (taNum s w i j)) :=
  vecFills_of_effect hexec (fun s t p w h => by simp only [h.roundedC, h.taNum, hreads s t w h]) heffect

/-- Settles O7: the functions of one source by `vecFills_of_polyRun`, the others as tile writes of the steps that their rules
give. -/
theorem vectorFunctions : Obligations.VectorFunctions := by
  unfold Obligations.VectorFunctions
  refine ⟨?vrsq, ?vexp2, ?vlog2, ?vact, ?vactd, ?vnrm, ?vnrmb, ?vsmx, ?vsmxb⟩
  case vrsq => exact vecFills_of_polyRun (fun s _ => rsqNum s) (fun _ _ _ => rfl) (fun _ _ _ h => h.rsqNum) fun _ _ _ => rfl
  case vexp2 => exact vecFills_of_polyRun (fun s _ => exp2Num s) (fun _ _ _ => rfl) (fun _ _ _ h => h.exp2Num) fun _ _ _ => rfl
  case vlog2 => exact vecFills_of_polyRun (fun s _ => log2Num s) (fun _ _ _ => rfl) (fun _ _ _ h => h.log2Num) fun _ _ _ => rfl
  case vact =>
    exact vecFills_of_polyRun (fun s w => polyEval s (bits 3 0 w.imm.toNat)) (fun _ _ _ => rfl)
      (fun _ _ _ h => by rw [h.polyEval]) fun _ _ _ => rfl
  case vactd =>
    exact vecFills_of_effect (fun _ _ _ => rfl) (fun _ _ _ _ h => by simp only [h.roundedC, h.polyOp, h.taNum, h.tbNum])
      fun _ _ _ => rfl
  case vnrm =>
    exact vecFills_of_effect (fun _ _ _ => rfl) (fun _ _ _ _ h => by simp only [h.roundedC, h.taNum, h.opalAt])
      fun _ _ _ => rfl
  case vnrmb =>
    exact vecFills_of_effect (fun _ _ _ => rfl)
      (fun _ _ _ _ h => by simp only [h.roundedC, h.taNum, h.tcNum, h.opalAt]) fun _ _ _ => rfl
  case vsmx =>
    exact vecFills_of_effect (fun _ _ _ => rfl)
      (fun _ _ _ _ h => by simp only [h.roundedC, h.taNum, h.exp2Num, h.opalAt]) fun _ _ _ => rfl
  case vsmxb =>
    exact vecFills_of_effect (fun _ _ _ => rfl)
      (fun _ _ _ _ h => by simp only [h.roundedC, h.taNum, h.tcNum, h.opalAt]) fun _ _ _ => rfl

/-! ### Moves -/

/-- The bytes of a shift lane after those of one register have been written. -/
theorem laneBytes_write (m : Memory) (r : Nat) (f : Nat → Byte) :
    (∀ i, i < 32 → (m.write (32 * r) ((List.range 32).map f)).get (32 * r + i) = f i)
    ∧ ∀ a, a < 32 * r ∨ 32 * r + 32 ≤ a → (m.write (32 * r) ((List.range 32).map f)).get a = m.get a := by
  have hlen : ((List.range 32).map f).length = 32 := by rw [List.length_map, List.length_range]
  refine ⟨fun i hi => ?_, fun a ha => Memory.get_write_outside _ _ _ _ (by rw [hlen]; exact ha)⟩
  rw [Memory.get_write_inside _ _ _ _ (by rw [hlen]; exact hi), nth_eq_getD, List.getD_eq_getElem _ _ (by rw [hlen]; exact hi)]
  simp

/-- Settles O6: the moves are tile writes, by `vecFills_of_effect` and `vecGives_of_effect`; VMOV then writes the lane. -/
theorem vectorMoves : Obligations.VectorMoves := by
  unfold Obligations.VectorMoves
  refine ⟨?vbc, ?vtr, ?vgth, ?vsel, ?vmov⟩
  case vbc =>
    exact vecFills_of_effect (fun _ _ _ => rfl) (fun _ _ _ _ h => by simp only [h.rounded, h.tbNum]) fun _ _ _ => rfl
  case vtr =>
    exact vecGives_of_effect (fun _ _ _ => rfl) (fun _ => by decide) (fun _ => by decide)
      (fun _ _ _ _ h => by simp only [h.tileRaw]) fun _ _ _ => rfl
  case vgth =>
    exact vecFills_of_effect (fun _ _ _ => rfl) (fun _ _ _ _ h => by simp only [h.tileRaw]) fun _ _ _ => rfl
  case vsel =>
    exact vecFills_of_effect (fun _ _ _ => rfl) (fun _ _ _ _ h => by simp only [h.tileRaw, h.maskFor]) fun _ _ _ => rfl
  case vmov =>
    intro s p w h
    obtain ⟨s', hs, ht⟩ := pushWord_vec_effect h
    simp only [vecEffect, vmovRun, hs.operands.tileRaw, hs.operands.vec] at ht
    have hcols := wholeTile_fits w
    have hvec := vec_tileWrite s' p w w.df.toNat 0 (shapeCols w.df.toNat) fun i j => moved (tileRaw s w.ta.toNat w.df.toNat i j)
    have hlane := ht.lane
    rw [tileFull, hvec, hs.operands.vec] at hlane
    obtain ⟨hmoved, hkept⟩ := laneBytes_write s.vec.lane w.td.toNat fun i => s.vec.lane.get (32 * w.ta.toNat + i)
    refine ⟨_, rfl, (tileHolds_tileWrite s' p w _ w.df.isLt hcols).after hs.operands ht.tile, fun i hi => ?_, fun a ha => ?_,
      (vecFrame_withLane (vecFrame_tileWrite s' p w _ hcols) _).after hs ht, ?_⟩
    · rw [laneAt, hlane, hmoved i hi, laneAt]
    · rw [hlane, hkept a ha]
    · rw [ht.mask, tileFull, hvec, hs.operands.vec]

end Sys2Proof.Machine
end

section
/-! PROOFS. The mask registers: rows of bits written, and the words that write one (R92, R93, R97, R101). -/

namespace Sys2Proof.Machine

/-! ### Rows of bits -/

/-- The number whose bits below `n` are those that `b` gives. -/
def rowOfBits (n : Nat) (b : Nat → Bool) : Nat := (List.range n).foldl (fun acc j => acc + b2n (b j) * 2 ^ j) 0

theorem rowOfBits_succ (n : Nat) (b : Nat → Bool) : rowOfBits (n + 1) b = 2 ^ n * (b n).toNat + rowOfBits n b := by
  rw [rowOfBits, List.range_succ, List.foldl_append, List.foldl_cons, List.foldl_nil, Nat.add_comm, Nat.mul_comm, rowOfBits]
  cases b n <;> rfl

theorem rowOfBits_lt (n : Nat) (b : Nat → Bool) : rowOfBits n b < 2 ^ n := by
  induction n with
  | zero => exact Nat.one_pos
  | succ n ih =>
    have hbit : 2 ^ n * (b n).toNat ≤ 2 ^ n * 1 := Nat.mul_le_mul_left _ (Nat.le_of_lt_succ (b n).toNat_lt)
    rw [rowOfBits_succ, Nat.two_pow_succ]
    omega

theorem bit_rowOfBits {n j : Nat} (b : Nat → Bool) (hj : j < n) : bit j (rowOfBits n b) = b j := by
  rw [bit, ← Nat.testBit_eq_decide_div_mod_eq]
  induction n with
  | zero => omega
  | succ n ih =>
    rw [rowOfBits_succ, Nat.testBit_two_pow_mul_add _ (rowOfBits_lt n b)]
    split
    · next hlt => exact ih hlt
    · next hge =>
      obtain rfl : j = n := by omega
      rw [Nat.sub_self, Nat.testBit_bool_toNat, decide_eq_true rfl, Bool.true_and]

/-! ### A mask register written -/

/-- A store of mask registers after the 32 rows of register `k` have been written with the bits that `b` gives. -/
def maskRows (m : Memory) (k : Nat) (b : Nat → Nat → Bool) : Memory :=
  (List.range 32).foldl (fun m i => m.writeNat (128 * k + 4 * i) 4 (rowOfBits 32 (b i))) m

theorem readNat_maskRows (m : Memory) (k : Nat) (b : Nat → Nat → Bool) {i : Nat} (hi : i < 32) :
    (maskRows m k b).readNat (128 * k + 4 * i) 4 = rowOfBits 32 (b i) := by
  have hread := Memory.readNat_writes m 4 32 (fun i => 128 * k + 4 * i) (fun i => rowOfBits 32 (b i))
    (fun x y _ _ hne => by omega) i hi
  rw [maskRows, hread, Nat.mod_eq_of_lt (rowOfBits_lt 32 _)]

theorem get_maskRows_outside (m : Memory) (k : Nat) (b : Nat → Nat → Bool) {a : Nat}
    (ha : a < 128 * k ∨ 128 * k + 128 ≤ a) : (maskRows m k b).get a = m.get a := by
  rw [maskRows]
  exact Memory.get_writes_outside m 4 32 a (fun i => 128 * k + 4 * i) (fun i => rowOfBits 32 (b i)) fun i hi => by omega

/-- The state after a mask register has been written with the bits that `b` gives. -/
def maskFill (s : State) (k : Nat) (b : Nat → Nat → Bool) : State := withMask s (maskRows s.vec.mask k b)

theorem foldl_maskRow (l : List Nat) (s : State) (k : Nat) (v : Nat → Nat) :
    l.foldl (fun st i => maskRow st k i (v i)) s
      = withMask s (l.foldl (fun m i => m.writeNat (128 * k + 4 * i) 4 (v i)) s.vec.mask) :=
  List.foldl_hom (withMask s) fun _ _ => rfl

/-- Rows written one after another, each the number of its bits. -/
theorem foldl_maskRow_bits (l : List Nat) (s : State) (k n : Nat) (b : Nat → Nat → Bool) :
    l.foldl (fun st i => maskRow st k i ((List.range n).foldl (fun acc j => acc + b2n (b i j) * 2 ^ j) 0)) s
      = withMask s (l.foldl (fun m i => m.writeNat (128 * k + 4 * i) 4 (rowOfBits n (b i))) s.vec.mask) :=
  foldl_maskRow l s k fun i => rowOfBits n (b i)

theorem maskBit_maskFill (s : State) (k : Nat) (b : Nat → Nat → Bool) {i j : Nat} (hi : i < 32) (hj : j < 32) :
    maskBit (maskFill s k b) k i j = b i j := by
  rw [maskBit, maskFill, withMask, readNat_maskRows _ _ _ hi, bit_rowOfBits _ hj]

theorem maskFrame_maskFill (s : State) (k : Nat) (b : Nat → Nat → Bool) : maskFrame s (maskFill s k b) k :=
  maskFrame_withMask fun _ => get_maskRows_outside s.vec.mask k b

theorem maskFill_free (s : State) (k : Nat) (b : Nat → Nat → Bool) : (maskFill s k b).free = s.free :=
  withMask_free ..

/-! ### A mask word -/

/-- The bit that a mask word leaves at a place where it would write `v`: MEN and ZM govern it (R93). -/
def governedBit (s : State) (w : VWord) (i j : Nat) (v : Bool) : Bool :=
  if !w.men || maskBit s w.msk.toNat i j then v else if w.zm then false else maskBit s (w.td.toNat % 8) i j

theorem sameOperands.governedBit {s t : State} (h : sameOperands s t) : governedBit t = governedBit s := by
  funext w i j v; simp only [Machine.governedBit, h.maskBit]

/-- The free value that a mask word draws for the bits that stand for no element, where there are such bits. -/
def spareDraw (s : State) (n : Nat) : Nat × State := if n < 32 then takeFree s else (0, s)

/-- Drawing a free value changes nothing that a mask word must leave as it was. -/
theorem maskFrame_of_draw {s t : State} {k : Nat} {c : Prop} [Decidable c]
    (h : maskFrame (if c then takeFree s else (0, s)).2 t k) : maskFrame s t k := by
  split at h
  · exact h
  · exact h

theorem maskWrite_eq (s : State) (w : VWord) (n : Nat) (f : Nat → Nat → Bool) :
    maskWrite s w n f = maskFill (spareDraw s n).2 (w.td.toNat % 8) fun i j =>
      governedBit s w i j (if n ≤ j then maskSpare (Config.freeNat (spareDraw s n).1) i j else f i j) := by
  rw [maskFill, maskRows, ← foldl_maskRow_bits]
  rfl

theorem maskFrame_maskWrite (s : State) (w : VWord) (n : Nat) (f : Nat → Nat → Bool) :
    maskFrame s (maskWrite s w n f) (w.td.toNat % 8) := by
  rw [maskWrite_eq]
  exact maskFrame_of_draw (c := n < 32) (maskFrame_maskFill ..)

theorem maskBit_maskWrite (s : State) (w : VWord) {n i j : Nat} (f : Nat → Nat → Bool) (hi : i < 32) (hj : j < 32)
    (hn : j < n) : maskBit (maskWrite s w n f) (w.td.toNat % 8) i j = governedBit s w i j (f i j) := by
  rw [maskWrite_eq, maskBit_maskFill _ _ _ hi hj, if_neg (by omega)]

theorem maskFrame.after {s s' u t : State} {k : Nat} (h : maskFrame s' u k) (hs : vecFinds s s') (ht : vecIssued u t) :
    maskFrame s t k := by
  obtain ⟨hmask, htile, hlane, hpoly, hmem, harr, htables, hrings, hpwr⟩ := h
  have hvec := hs.operands.vec
  exact ⟨fun a ha => by rw [ht.mask, hmask a ha, hvec], by rw [ht.tile, htile, hvec], by rw [ht.lane, hlane, hvec],
    by rw [ht.poly, hpoly, hvec], by rw [ht.mem, hmem, hs.operands.mem], by rw [ht.arr, harr, hs.operands.arr],
    by rw [ht.tables, htables, hs.operands.tables], by rw [ht.rings, hrings, hs.operands.rings],
    by rw [ht.pwr, hpwr, hs.pwr]⟩

theorem maskBit_congr {s t : State} (h : t.vec.mask = s.vec.mask) (k i j : Nat) : maskBit t k i j = maskBit s k i j := by
  simp only [maskBit, h]

theorem free_maskWrite (s : State) (w : VWord) (f : Nat → Nat → Bool) : (maskWrite s w 32 f).free = s.free := by
  rw [maskWrite_eq, maskFill_free, spareDraw, if_neg (lt_irrefl 32)]

/-- Settles O9: each word is a mask write of what its operands give; the code 7 of VMCMP draws a free value beside. -/
theorem vectorMasks : Obligations.VectorMasks := by
  unfold Obligations.VectorMasks
  intro s p w
  refine ⟨fun h => ?vmsk, fun h => ?vmcmp, fun h => ?vmlog⟩
  all_goals obtain ⟨s', hs, ht⟩ := pushWord_vec_effect h
  case vmsk =>
    simp only [vecEffect, vmskRun] at ht
    refine ⟨_, rfl, (maskFrame_maskWrite ..).after hs ht, ?_, fun i j hi hj => ?_⟩
    · rw [ht.free, free_maskWrite]
      exact (congrArg State.free hs.operands.rest :)
    · rw [maskBit_congr ht.mask, maskBit_maskWrite _ _ _ hi hj hj, hs.operands.governedBit]
      rfl
  case vmcmp =>
    simp only [vecEffect, vmcmpRun] at ht
    refine ⟨_, rfl, (maskFrame_of_draw (maskFrame_maskWrite ..)).after hs ht, fun i j hi hj hcol hcode => ?_⟩
    simp only [if_neg hcode] at ht
    rw [maskBit_congr ht.mask, maskBit_maskWrite _ _ _ hi hj (lt_min hj hcol), hs.operands.governedBit,
      hs.operands.tileNum, hs.operands.tbNum]
    rfl
  case vmlog =>
    simp only [vecEffect, vmlogRun] at ht
    refine ⟨_, rfl, (maskFrame_maskWrite ..).after hs ht, fun i j hi hj => ?_⟩
    rw [maskBit_congr ht.mask, maskBit_maskWrite _ _ _ hi hj hj, hs.operands.governedBit, hs.operands.maskBit]
    rfl

end Sys2Proof.Machine
end

section
/-! PROOFS. Reductions: columns of an Opal32 tile written line by line, and the words that reduce (R106, R107, R110, R117). -/

namespace Sys2Proof.Machine

/-! ### A column written -/

/-- A store of tile registers after `n` rows of column `ci` of the Opal32 tile `r` have been written with what `v` gives. -/
def columnWrites (m : Memory) (r ci n : Nat) (v : Nat → W32) : Memory :=
  (List.range n).foldl (fun m k => m.writeNat (2048 * r + 64 * k + ci * 4) 4 (v k).toNat) m

theorem columnWrites_succ (m : Memory) (r ci n : Nat) (v : Nat → W32) :
    columnWrites m r ci (n + 1) v = (columnWrites m r ci n v).writeNat (2048 * r + 64 * n + ci * 4) 4 (v n).toNat := by
  rw [columnWrites, List.range_succ, List.foldl_append, List.foldl_cons, List.foldl_nil, columnWrites]

theorem get_columnWrites_outside (m : Memory) {r ci n a : Nat} (v : Nat → W32) (hci : ci < 16) (hn : n ≤ 32)
    (ha : a < 2048 * r ∨ 2048 * r + 2048 ≤ a) : (columnWrites m r ci n v).get a = m.get a := by
  rw [columnWrites]
  exact Memory.get_writes_outside m 4 n a (fun k => 2048 * r + 64 * k + ci * 4) (fun k => (v k).toNat) fun k hk => by omega

/-- The elements of the tile once the column has been written. -/
theorem tileRaw_columnWrites (s : State) {r ci n k j : Nat} (v : Nat → W32) (hci : ci < 16) (hj : j < 16) :
    tileRaw (withTile s (columnWrites s.vec.tile r ci n v)) r 1 k j =
      if j = ci ∧ k < n then (v k).toNat else tileRaw s r 1 k j := by
  change (columnWrites s.vec.tile r ci n v).readNat (2048 * r + 64 * k + j * 4) 4
    = if j = ci ∧ k < n then (v k).toNat else s.vec.tile.readNat (2048 * r + 64 * k + j * 4) 4
  split
  · next h =>
    obtain ⟨rfl, hk⟩ := h
    have hread := Memory.readNat_writes s.vec.tile 4 n (fun k => 2048 * r + 64 * k + j * 4) (fun k => (v k).toNat)
      (fun x y _ _ hne => by omega) k hk
    have hlt : (v k).toNat < 2 ^ (8 * 4) := (v k).isLt
    rw [columnWrites, hread, Nat.mod_eq_of_lt hlt]
  · next h =>
    refine Memory.readNat_congr fun a hlo hhi => ?_
    rw [columnWrites]
    exact Memory.get_writes_outside s.vec.tile 4 n a (fun k => 2048 * r + 64 * k + ci * 4) (fun k => (v k).toNat)
      fun x hx => by omega

theorem opalAt_eq (s : State) (r i j : Nat) : opalAt s r i j = ofRaw 1 0 (tileRaw s r 1 i j) := rfl

/-! ### Lines reduced one after another -/

/-- What a reduction leaves in element (k, CI) for the values of line `k` (R106, R107). -/
def redValue (s : State) (r ci : Nat) (op : VOp) (acc : Bool) (k : Nat) (vs : List (Option Num)) : W32 :=
  let v := (treeLevels (combineOf op) (Nat.log2 vs.length) vs).1.getD (absentOf op)
  opal (if acc then (combineOf op (opalAt s r k ci) v).1 else v)

theorem redInto_state (s : State) (r ci : Nat) (op : VOp) (acc : Bool) (k : Nat) (vs : List (Option Num)) :
    (redInto s r ci op acc k vs).1
      = withTile s (s.vec.tile.writeNat (2048 * r + 64 * k + ci * 4) 4 (redValue s r ci op acc k vs).toNat) := by
  cases acc <;> rfl

theorem redInto_nonfinite (s : State) (r ci : Nat) (op : VOp) (acc : Bool) (k : Nat) (vs : List (Option Num)) :
    (redInto s r ci op acc k vs).2.2 = rawNonfinite 1 (redValue s r ci op acc k vs).toNat := by
  cases acc <;> rfl

/-- The next line reduced: the state, the counts, and whether a result so far is not finite. -/
def redLine (r ci : Nat) (op : VOp) (acc : Bool) (line : Nat → List (Option Num × Counts)) (o : State × Counts × Bool)
    (k : Nat) : State × Counts × Bool :=
  let vs := line k
  let x := redInto o.1 r ci op acc k (vs.map (·.1))
  (x.1, (vs.foldl (fun c v => c.add v.2) o.2.1).add x.2.1, o.2.2 || x.2.2)

/-- The first `n` lines reduced. -/
def redLinesRun (s : State) (r ci : Nat) (op : VOp) (acc : Bool) (line : Nat → List (Option Num × Counts)) (n : Nat) :
    State × Counts × Bool := (List.range n).foldl (redLine r ci op acc line) (s, {}, false)

/-- What the lines leave in the column. -/
def redColumn (s : State) (r ci : Nat) (op : VOp) (acc : Bool) (line : Nat → List (Option Num × Counts)) (k : Nat) : W32 :=
  redValue s r ci op acc k ((line k).map (·.1))

section Lines

variable (s : State) (r : Nat) {ci : Nat} (op : VOp) (acc : Bool) (line : Nat → List (Option Num × Counts)) (hci : ci < 16)
include hci

/-- A line is reduced into an element that no earlier line has written. -/
theorem redValue_columnWrites (v : Nat → W32) (n : Nat) (vs : List (Option Num)) :
    redValue (withTile s (columnWrites s.vec.tile r ci n v)) r ci op acc n vs = redValue s r ci op acc n vs := by
  simp only [redValue, opalAt_eq, tileRaw_columnWrites s v hci hci, lt_irrefl, and_false, if_false]

theorem redLinesRun_eq (n : Nat) :
    (redLinesRun s r ci op acc line n).1 = withTile s (columnWrites s.vec.tile r ci n (redColumn s r ci op acc line))
    ∧ (redLinesRun s r ci op acc line n).2.2
        = (List.range n).any fun k => rawNonfinite 1 (redColumn s r ci op acc line k).toNat := by
  unfold redLinesRun
  induction n with
  | zero => exact ⟨rfl, rfl⟩
  | succ n ih =>
    obtain ⟨hstate, hnf⟩ := ih
    rw [List.range_succ, List.foldl_append, List.foldl_cons, List.foldl_nil, List.any_append, ← hnf]
    simp only [redLine, redInto_state, redInto_nonfinite, hstate, redValue_columnWrites s r op acc hci, columnWrites_succ,
      List.any_cons, List.any_nil, Bool.or_false]
    exact ⟨rfl, rfl⟩

end Lines

/-! ### The reductions -/

/-- The lines that a reduction reduces: the columns of TA under RAX, its rows else. -/
def redLines (s : State) (w : VWord) (op : VOp) (k : Nat) : List (Option Num × Counts) :=
  (List.range (if w.rax then 32 else shapeCols w.sf.toNat)).map fun x =>
    if w.rax then redInput s w op x k else redInput s w op k x

theorem sameOperands.redLines {s t : State} (h : sameOperands s t) : redLines t = redLines s := by
  funext w op k; simp only [Machine.redLines, h.redInput]

theorem sameOperands.redColumn {s t : State} (h : sameOperands s t) : redColumn t = redColumn s := by
  funext r ci op acc line k; simp only [Machine.redColumn, redValue, h.opalAt]

theorem redRun_eq (s : State) (p : Part) (w : VWord) (op : VOp) :
    redRun s p w op =
      let o := redLinesRun s w.td.toNat w.ci.toNat op w.acc (redLines s w op) (if w.rax then shapeCols w.sf.toNat else 32)
      vecReport o.1 p w.grad o.2.2 o.2.1 := rfl

theorem vecFrame_vecReport {s u : State} {r : Nat} (h : vecFrame s u r) (p : Part) (g nf : Bool) (c : Counts) :
    vecFrame s (vecReport u p g nf c) r := by
  simpa only [vecFrame, vecReport_vec, vecReport_mem, vecReport_arr, vecReport_tables, vecReport_rings, vecReport_pwr] using h

theorem vec_vecReport_redLinesRun (s : State) (p : Part) {r ci : Nat} (op : VOp) (acc : Bool)
    (line : Nat → List (Option Num × Counts)) (hci : ci < 16) (n : Nat) (g nf : Bool) (c : Counts) :
    (vecReport (redLinesRun s r ci op acc line n).1 p g nf c).vec
      = (withTile s (columnWrites s.vec.tile r ci n (redColumn s r ci op acc line))).vec := by
  rw [vecReport_vec, (redLinesRun_eq s r op acc line hci n).1]

/-- What a reduction leaves: the column of TD, and the rest as it was. -/
theorem redRun_leaves (s : State) (p : Part) (w : VWord) (op : VOp) (hsf : w.sf.toNat < 2) (hci : w.ci.toNat < 16) :
    (redRun s p w op).vec = (withTile s (columnWrites s.vec.tile w.td.toNat w.ci.toNat
        (if w.rax then shapeCols w.sf.toNat else 32)
        (redColumn s w.td.toNat w.ci.toNat op w.acc (redLines s w op)))).vec
    ∧ vecFrame s (redRun s p w op) w.td.toNat := by
  have hn : (if w.rax then shapeCols w.sf.toNat else 32) ≤ 32 := by
    split
    · interval_cases w.sf.toNat <;> decide
    · exact le_rfl
  rw [redRun_eq]
  refine ⟨vec_vecReport_redLinesRun s p op w.acc _ hci _ _ _ _, vecFrame_vecReport ?_ ..⟩
  rw [(redLinesRun_eq s w.td.toNat op w.acc _ hci _).1]
  exact vecFrame_withTile fun a ha => get_columnWrites_outside s.vec.tile _ hci hn ha

/-- A reduction that issues at once. -/
theorem pushWord_reduction {s : State} {p : Part} {w : VWord} {op : VOp} (heffect : ∀ s, vecEffect s p op w = redRun s p w op)
    (h : issuesNow s p .vec (.vec op w) = true) (hsf : w.sf.toNat < 2) (hci : w.ci.toNat < 16) :
    (∀ k j, j < 16 → tileRaw (pushWord s p .vec (.vec op w)) w.td.toNat 1 k j =
      if j = w.ci.toNat ∧ k < (if w.rax then shapeCols w.sf.toNat else 32) then
        (redColumn s w.td.toNat w.ci.toNat op w.acc (redLines s w op) k).toNat
      else tileRaw s w.td.toNat 1 k j)
    ∧ vecFrame s (pushWord s p .vec (.vec op w)) w.td.toNat ∧ (pushWord s p .vec (.vec op w)).vec.mask = s.vec.mask
    ∧ (pushWord s p .vec (.vec op w)).vec.lane = s.vec.lane := by
  obtain ⟨s', hs, ht⟩ := pushWord_vec_effect h
  rw [heffect] at ht
  obtain ⟨hvec, hframe⟩ := redRun_leaves s' p w op hsf hci
  rw [hs.operands.redColumn, hs.operands.redLines] at hvec
  refine ⟨fun k j hj => ?_, hframe.after hs ht, ?_, ?_⟩
  · have htile := ht.tile
    rw [hvec] at htile
    rw [tileRaw, htile, ← hs.operands.tileRaw]
    exact tileRaw_columnWrites s' _ hci hj
  · rw [ht.mask, hvec, ← hs.operands.vec, withTile]
  · rw [ht.lane, hvec, ← hs.operands.vec, withTile]

theorem redLines_values (s : State) (w : VWord) (op : VOp) (k : Nat) :
    (redLines s w op k).map (·.1) =
      if w.rax then (List.range 32).map fun x => (redInput s w op x k).1
      else (List.range (shapeCols w.sf.toNat)).map fun x => (redInput s w op k x).1 := by
  cases h : w.rax <;> simp [redLines, h, List.map_map, Function.comp_def]

/-- Settles O10: each of the five commands is a reduction, by `pushWord_reduction`. -/
theorem vectorReductions : Obligations.VectorReductions := by
  unfold Obligations.VectorReductions
  intro c op hmem s p w h hsf hci
  obtain ⟨hexec, heffect⟩ : exec (c p w) s = .next (pushWord s p .vec (.vec op w))
      ∧ ∀ s, vecEffect s p op w = redRun s p w op := by
    simp only [List.mem_cons, Prod.mk.injEq, List.not_mem_nil, or_false] at hmem
    obtain ⟨rfl, rfl⟩ | ⟨rfl, rfl⟩ | ⟨rfl, rfl⟩ | ⟨rfl, rfl⟩ | ⟨rfl, rfl⟩ := hmem
    all_goals exact ⟨rfl, fun _ => rfl⟩
  obtain ⟨hcolumn, hrest⟩ := pushWord_reduction heffect h hsf hci
  refine ⟨_, hexec, fun k j _ hj => ?_, hrest⟩
  rw [hcolumn k j hj]
  refine ite_congr rfl (fun hin => ?_) fun _ => rfl
  rw [redColumn, redLines_values, redValue, hin.1]

end Sys2Proof.Machine
end

section
/-! PROOFS. The losses: gradients into TD, row sums into a column of TC (R110, R117). -/

namespace Sys2Proof.Machine

/-! ### Rows of losses -/

/-- The losses of a row, absent where masked off. -/
def lossLine (s : State) (w : VWord) (loss : Nat → Nat → Cnum) (i : Nat) : List (Option Num × Counts) :=
  (List.range (shapeCols w.df.toNat)).map fun j =>
    if active s w w.df.toNat i j then (some (loss i j).1, (loss i j).2) else (none, {})

theorem sameOperands.lossLine {s t : State} (h : sameOperands s t) : lossLine t = lossLine s := by
  funext w loss i; simp only [Machine.lossLine, h.active]

theorem lossLine_values (s : State) (w : VWord) (loss : Nat → Nat → Cnum) (i : Nat) :
    (lossLine s w loss i).map (·.1) =
      (List.range (shapeCols w.df.toNat)).map fun j => if active s w w.df.toNat i j then some (loss i j).1 else none := by
  rw [lossLine, List.map_map]
  refine List.map_congr_left fun j _ => ?_
  simp only [Function.comp]
  split
  · rfl
  · rfl

theorem lossSums_eq (s u : State) (p : Part) (w : VWord) (loss : Nat → Nat → Cnum) :
    lossSums s u p w loss =
      let o := redLinesRun u w.tc.toNat w.ci.toNat .rsum w.acc (lossLine s w loss) 32
      vecReport o.1 p w.grad o.2.2 o.2.1 := rfl

/-- Element (k, CI) of TC after a loss. -/
def lossColumn (s : State) (w : VWord) (loss : Nat → Nat → Cnum) : Nat → W32 :=
  redColumn s w.tc.toNat w.ci.toNat .rsum w.acc (lossLine s w loss)

theorem sameOperands.lossColumn {s t : State} (h : sameOperands s t) : lossColumn t = lossColumn s := by
  funext w loss k; simp only [Machine.lossColumn, h.redColumn, h.lossLine]

/-! ### A loss after its gradients -/

/-- An element of a tile register is as it was where the bytes of the register are. -/
theorem tileRaw_of_register {s t : State} {r fmt i j : Nat}
    (h : ∀ a, 2048 * r ≤ a → a < 2048 * r + 2048 → t.vec.tile.get a = s.vec.tile.get a) (hi : i < 32)
    (hj : (j + 1) * fmtWidth fmt ≤ 64) : tileRaw t r fmt i j = tileRaw s r fmt i j := by
  rw [Nat.succ_mul] at hj
  exact Memory.readNat_congr fun a hlo hhi => h a (by omega) (by omega)

theorem redColumn_congr {s u : State} {r ci : Nat} (h : ∀ k, k < 32 → opalAt u r k ci = opalAt s r k ci) (op : VOp) (acc : Bool)
    (line : Nat → List (Option Num × Counts)) {k : Nat} (hk : k < 32) :
    redColumn u r ci op acc line k = redColumn s r ci op acc line k := by
  simp only [redColumn, redValue, h k hk]

theorem getJob_vecReport {s : State} {p : Part} {j : Job} (hj : getJob s p = some j) (g nf : Bool) (c : Counts) :
    ∃ k, getJob (vecReport s p g nf c) p = some k := by
  simp only [vecReport]
  split
  · exact ⟨_, by rw [report, getJob_modJob, if_pos rfl, getJob_congr (tally_jobs ..), hj, Option.map_some]⟩
  · exact ⟨j, hj⟩

theorem getJob_tileWrite {s : State} {p : Part} {j : Job} (hj : getJob s p = some j) (w : VWord) (fmt lo n : Nat)
    (f : Nat → Nat → Elem) : ∃ k, getJob (tileWrite s p w fmt lo n f) p = some k :=
  getJob_vecReport ((getJob_withTile s _ p).trans hj) ..

section Sums

variable (s u : State) (p : Part) (w : VWord) (loss : Nat → Nat → Cnum) (hci : w.ci.toNat < 16)
include hci

theorem vec_lossSums :
    (lossSums s u p w loss).vec = (withTile u (columnWrites u.vec.tile w.tc.toNat w.ci.toNat 32
      (redColumn u w.tc.toNat w.ci.toNat .rsum w.acc (lossLine s w loss)))).vec :=
  vec_vecReport_redLinesRun u p .rsum w.acc (lossLine s w loss) hci 32 ..

theorem tile_lossSums_outside {a : Nat} (ha : a < 2048 * w.tc.toNat ∨ 2048 * w.tc.toNat + 2048 ≤ a) :
    (lossSums s u p w loss).vec.tile.get a = u.vec.tile.get a := by
  rw [vec_lossSums s u p w loss hci]
  exact get_columnWrites_outside u.vec.tile _ hci le_rfl ha

theorem lossSums_rest :
    (lossSums s u p w loss).vec.mask = u.vec.mask ∧ (lossSums s u p w loss).vec.lane = u.vec.lane
    ∧ (lossSums s u p w loss).mem = u.mem ∧ (lossSums s u p w loss).arr = u.arr := by
  have hrun := (redLinesRun_eq u w.tc.toNat .rsum w.acc (lossLine s w loss) hci 32).1
  rw [lossSums_eq]
  simp only [vecReport_vec, vecReport_mem, vecReport_arr, hrun]
  exact ⟨rfl, rfl, rfl, rfl⟩

/-- A sum that is not finite is reported under GRAD (R117). -/
theorem reported_lossSums {j : Job} (hj : getJob u p = some j) (hgrad : w.grad = true)
    (hnf : ∃ k, k < 32 ∧ rawNonfinite 1 (redColumn u w.tc.toNat w.ci.toNat .rsum w.acc (lossLine s w loss) k).toNat = true) :
    reported (lossSums s u p w loss) p (vNonfin ||| srcVector) := by
  obtain ⟨hstate, hflag⟩ := redLinesRun_eq u w.tc.toNat .rsum w.acc (lossLine s w loss) hci 32
  obtain ⟨k, hk, hkf⟩ := hnf
  rw [List.any_eq_true.2 ⟨k, List.mem_range.2 hk, hkf⟩] at hflag
  simp only [lossSums_eq, hgrad, hflag, hstate]
  exact reported_vecReport ((getJob_withTile u _ p).trans hj) _

end Sums

/-- A loss whose gradients `g` fill TD and whose sums go to TC. -/
def lossRun (s : State) (p : Part) (w : VWord) (g : Nat → Nat → Elem) (loss : Nat → Nat → Cnum) : State :=
  lossSums s (tileFull s p w w.df.toNat g) p w loss

section Runs

variable (s : State) (p : Part) (w : VWord) (g : Nat → Nat → Elem) (loss : Nat → Nat → Cnum)

theorem tile_gradients_outside {a : Nat} (ha : a < 2048 * w.td.toNat ∨ 2048 * w.td.toNat + 2048 ≤ a) :
    (tileFull s p w w.df.toNat g).vec.tile.get a = s.vec.tile.get a :=
  tile_tileWrite_outside s p w w.df.toNat 0 _ g (wholeTile_fits w) a ha

variable (hreg : w.tc.toNat ≠ w.td.toNat)
include hreg

/-- The gradients leave TC as it was. -/
theorem tileRaw_gradients {k j : Nat} (hk : k < 32) (hj : j < 16) :
    tileRaw (tileFull s p w w.df.toNat g) w.tc.toNat 1 k j = tileRaw s w.tc.toNat 1 k j :=
  tileRaw_of_register (fun a hlo hhi => tile_gradients_outside s p w g (by omega)) hk
    (show (j + 1) * 4 ≤ 64 by omega)

variable (hci : w.ci.toNat < 16)
include hci

theorem tileHolds_lossRun : tileHolds s (lossRun s p w g loss) w w.df.toNat 0 (shapeCols w.df.toNat) g := by
  have hcols := shapeCols_fits _ w.df.isLt
  intro i j hi hj
  rw [lossRun, tileRaw_of_register (s := tileFull s p w w.df.toNat g)
    (fun a hlo hhi => tile_lossSums_outside s _ p w loss hci (by omega)) hi ((Nat.mul_le_mul_right _ hj).trans_eq hcols)]
  exact tileHolds_tileWrite s p w g w.df.isLt (wholeTile_fits w) i j hi hj

theorem redColumn_gradients {k : Nat} (hk : k < 32) :
    redColumn (tileFull s p w w.df.toNat g) w.tc.toNat w.ci.toNat .rsum w.acc (lossLine s w loss) k = lossColumn s w loss k :=
  redColumn_congr (fun x hx => by rw [opalAt_eq, opalAt_eq, tileRaw_gradients s p w g hreg hx hci]) _ _ _ hk

theorem tileRaw_lossRun {k j : Nat} (hk : k < 32) (hj : j < 16) :
    tileRaw (lossRun s p w g loss) w.tc.toNat 1 k j =
      if j = w.ci.toNat then (lossColumn s w loss k).toNat else tileRaw s w.tc.toNat 1 k j := by
  have hcolumn := tileRaw_columnWrites (tileFull s p w w.df.toNat g) (r := w.tc.toNat) (n := 32) (k := k)
    (redColumn (tileFull s p w w.df.toNat g) w.tc.toNat w.ci.toNat .rsum w.acc (lossLine s w loss)) hci hj
  rw [tileRaw, lossRun, vec_lossSums s _ p w loss hci]
  refine hcolumn.trans ?_
  simp only [hk, and_true, redColumn_gradients s p w g loss hreg hci hk, tileRaw_gradients s p w g hreg hk hj]

theorem reported_lossRun {j : Job} (hj : getJob s p = some j) (hgrad : w.grad = true)
    (hnf : ∃ k, k < 32 ∧ rawNonfinite 1 (lossColumn s w loss k).toNat = true) :
    reported (lossRun s p w g loss) p (vNonfin ||| srcVector) := by
  obtain ⟨k, hk, hkf⟩ := hnf
  obtain ⟨j', hj'⟩ := getJob_tileWrite hj w w.df.toNat 0 (shapeCols w.df.toNat) g
  exact reported_lossSums s _ p w loss hci hj' hgrad ⟨k, hk, by rw [redColumn_gradients s p w g loss hreg hci hk, hkf]⟩

end Runs

/-! ### The commands -/

/-- The sums of a loss stand in column CI of TC. -/
def sumsHeld (s t : State) (w : VWord) (loss : Nat → Nat → Num) : Prop :=
  ∀ k j, k < 32 → j < 16 → tileRaw t w.tc.toNat 1 k j =
    if j = w.ci.toNat then
      (let l := (List.range (shapeCols w.df.toNat)).map fun x => if active s w w.df.toNat k x then some (loss k x) else none
       let v := ((treeLevels (combineOf .rsum) (Nat.log2 l.length) l).1).getD .zero
       (opal (if w.acc then (combineOf .rsum (opalAt s w.tc.toNat k j) v).1 else v)).toNat)
    else tileRaw s w.tc.toNat 1 k j

theorem sumsHeld_of_lossColumn {s t : State} {w : VWord} {loss : Nat → Nat → Cnum}
    (h : ∀ k j, k < 32 → j < 16 → tileRaw t w.tc.toNat 1 k j =
      if j = w.ci.toNat then (lossColumn s w loss k).toNat else tileRaw s w.tc.toNat 1 k j) :
    sumsHeld s t w fun i j => (loss i j).1 := by
  intro k j hk hj
  rw [h k j hk hj]
  refine ite_congr rfl (fun hin => ?_) fun _ => rfl
  rw [lossColumn, redColumn, lossLine_values, redValue, hin]
  rfl

/-- What a loss leaves as it was. -/
def lossFrame (s t : State) (w : VWord) : Prop :=
  (∀ a, (a < 2048 * w.td.toNat ∨ 2048 * w.td.toNat + 2048 ≤ a) → (a < 2048 * w.tc.toNat ∨ 2048 * w.tc.toNat + 2048 ≤ a) →
    t.vec.tile.get a = s.vec.tile.get a)
  ∧ t.vec.mask = s.vec.mask ∧ t.vec.lane = s.vec.lane ∧ t.mem = s.mem ∧ t.arr = s.arr

theorem lossFrame_lossRun (s : State) (p : Part) (w : VWord) (g : Nat → Nat → Elem) (loss : Nat → Nat → Cnum)
    (hci : w.ci.toNat < 16) : lossFrame s (lossRun s p w g loss) w := by
  obtain ⟨hmask, hlane, hmem, harr⟩ := lossSums_rest s (tileFull s p w w.df.toNat g) p w loss hci
  have hvec := vec_tileWrite s p w w.df.toNat 0 (shapeCols w.df.toNat) g
  obtain ⟨-, -, hmem', harr', -⟩ := vecFrame_tileWrite s p w (fmt := w.df.toNat) (lo := 0) (n := shapeCols w.df.toNat) g
    (wholeTile_fits w)
  exact ⟨fun a htd htc => (tile_lossSums_outside s _ p w loss hci htc).trans (tile_gradients_outside s p w g htd),
    hmask.trans (congrArg VectorUnit.mask hvec :), hlane.trans (congrArg VectorUnit.lane hvec :), hmem.trans hmem',
    harr.trans harr'⟩

theorem lossFrame.after {s s' u t : State} {w : VWord} (h : lossFrame s' u w) (hs : sameOperands s s') (ht : vecIssued u t) :
    lossFrame s t w := by
  obtain ⟨htile, hmask, hlane, hmem, harr⟩ := h
  exact ⟨fun a htd htc => by rw [ht.tile, htile a htd htc, hs.vec], by rw [ht.mask, hmask, hs.vec],
    by rw [ht.lane, hlane, hs.vec], by rw [ht.mem, hmem, hs.mem], by rw [ht.arr, harr, hs.arr]⟩

/-- A loss that issues at once, its gradients and losses read from its operands. -/
theorem pushWord_loss {op : VOp} {g : State → Nat → Nat → Elem} {loss : State → Nat → Nat → Cnum} {s : State} {p : Part}
    {w : VWord} (h : issuesNow s p .vec (.vec op w) = true) (hci : w.ci.toNat < 16) (hreg : w.tc ≠ w.td)
    (hgrads : ∀ t, sameOperands s t → g t = g s) (hlosses : ∀ t, sameOperands s t → loss t = loss s)
    (heffect : ∀ t, vecEffect t p op w = lossRun t p w (g t) (loss t)) :
    let t := pushWord s p .vec (.vec op w)
    tileHolds s t w w.df.toNat 0 (shapeCols w.df.toNat) (g s) ∧ sumsHeld s t w (fun i j => (loss s i j).1)
    ∧ (w.grad = true → (∃ k, k < 32 ∧ rawNonfinite 1 (tileRaw t w.tc.toNat 1 k w.ci.toNat) = true) →
        reported t p (vNonfin ||| srcVector))
    ∧ lossFrame s t w := by
  obtain ⟨j, hj⟩ := getJob_of_issuesNow h
  obtain ⟨s', hs, ht⟩ := pushWord_vec_effect h
  have hop := hs.operands
  rw [heffect, hgrads s' hop, hlosses s' hop] at ht
  obtain ⟨j', hj', -⟩ := hop.getJob_isSome hj
  have hne : w.tc.toNat ≠ w.td.toNat := fun e => hreg (BitVec.eq_of_toNat_eq e)
  have hcolumn : ∀ k j, k < 32 → j < 16 → tileRaw (pushWord s p .vec (.vec op w)) w.tc.toNat 1 k j =
      if j = w.ci.toNat then (lossColumn s w (loss s) k).toNat else tileRaw s w.tc.toNat 1 k j := by
    intro k j hk hjc
    rw [← hop.lossColumn, ← hop.tileRaw, ← tileRaw_lossRun s' p w (g s) (loss s) hne hci hk hjc, tileRaw, ht.tile, tileRaw]
  refine ⟨(tileHolds_lossRun s' p w (g s) (loss s) hne hci).after hop ht.tile, sumsHeld_of_lossColumn hcolumn, ?_,
    (lossFrame_lossRun s' p w (g s) (loss s) hci).after hop ht⟩
  rintro hgrad ⟨k, hk, hnf⟩
  rw [hcolumn k _ hk hci, if_pos rfl, ← hop.lossColumn] at hnf
  exact reported_congr (ht.jobs p) (reported_lossRun s' p w (g s) (loss s) hne hci hj' hgrad ⟨k, hk, hnf⟩)

/-- The loss of VBCE before the sum of its row (R110). -/
def bceLoss (s : State) (w : VWord) (i j : Nat) : Cnum :=
  let z := taNum s w i j
  let a := r32 ((z.max .zero).sub (z.mul (tbNum s w (colOff w) i j)))
  let sp := polyOp s 12 z.abs
  let l := r32 (a.1.add sp.1)
  (l.1, (a.2.add sp.2).add l.2)

/-- The loss of VMSE before the sum of its row (R110). -/
def mseLoss (s : State) (w : VWord) (i j : Nat) : Cnum :=
  let d := (taNum s w i j).sub (tbNum s w (colOff w) i j)
  r32 (d.mul d)

/-- Settles O11: both commands are losses, by `pushWord_loss`; a gradient of VBCE carries the counts of its step beside. -/
theorem vectorLosses : Obligations.VectorLosses := by
  unfold Obligations.VectorLosses
  intro s p w hci _ hreg
  refine ⟨fun h => ?vbce, fun h => ?vmse⟩
  case vbce =>
    obtain ⟨htile, hrest⟩ := pushWord_loss
      (g := fun t i j =>
        let x := polyOp t 11 (taNum t w i j)
        roundedC t p w i j (x.1.sub (tbNum t w (colOff w) i j), x.2))
      (loss := fun t => bceLoss t w) h hci hreg (fun t ht => by simp only [ht.roundedC, ht.polyOp, ht.taNum, ht.tbNum])
      (fun t ht => by funext i j; simp only [bceLoss, ht.polyOp, ht.taNum, ht.tbNum]) fun _ => rfl
    exact ⟨_, rfl, htile.raw fun _ _ => rfl, hrest⟩
  case vmse =>
    obtain ⟨htile, hrest⟩ := pushWord_loss
      (g := fun t i j => rounded t p w i j ((taNum t w i j).sub (tbNum t w (colOff w) i j)).toRes)
      (loss := fun t => mseLoss t w) h hci hreg (fun t ht => by simp only [ht.rounded, ht.taNum, ht.tbNum])
      (fun t ht => by funext i j; simp only [mseLoss, ht.taNum, ht.tbNum]) fun _ => rfl
    exact ⟨_, rfl, htile, hrest⟩

end Sys2Proof.Machine
end

section
/-! PROOFS. Conversions and draws (R111 to R113, R115, R116). -/

namespace Sys2Proof.Machine

/-! ### Float conversions -/

/-- The columns that a conversion writes lie in the row. -/
theorem cvtShape_fits (w : VWord) (sf : Nat) {df : Nat} (hdf : df < 4) :
    ((cvtShape w sf df).1.1 + (cvtShape w sf df).1.2) * fmtWidth df ≤ 64 := by
  unfold cvtShape
  dsimp only
  split
  · exact Nat.le_refl 64
  · exact Nat.le_refl 64
  · simp only [fmtWidth]; omega
  · simp only [fmtWidth]; omega
  · exact Nat.le_refl 64
  · exact Nat.le_refl 64
  · rw [Nat.zero_add, shapeCols_fits _ hdf]

/-- A conversion command, `shape` the source format whose columns it selects. -/
theorem vecGives_of_convRun {c : Part → VWord → Instr} {op : VOp} (shape : VWord → Nat)
    (hexec : ∀ s p w, exec (c p w) s = .next (pushWord s p .vec (.vec op w)))
    (heffect : ∀ s p w, vecEffect s p op w = convRun s p w (shape w)) :
    VecGives c op (fun w => w.df.toNat) (fun w => (cvtShape w (shape w) w.df.toNat).1) fun s p w i j =>
      let x := (cvtShape w (shape w) w.df.toNat).2 j
      rounded s p w i j (ofRaw w.sf.toNat (laneAt s w.ta.toNat i) (tileRaw s x.1 w.sf.toNat i x.2)).toRes :=
  vecGives_of_effect hexec (fun w => w.df.isLt) (fun w => cvtShape_fits w _ w.df.isLt)
    (fun _ _ _ _ h => by simp only [h.rounded, h.laneAt, h.tileRaw]) heffect

/-! ### VQNT -/

theorem Memory.nth_read (m : Memory) (a : Nat) {n j : Nat} (hj : j < n) : nth 0 (m.read a n) j = m.get (a + j) := by
  induction n generalizing a j with
  | zero => omega
  | succ n ih =>
    cases j with
    | zero => rfl
    | succ j => rw [Memory.read, nth, ih (a + 1) (by omega), Nat.add_right_comm, Nat.add_assoc]

/-- Byte strings written at places that follow each other: each of their bytes reads back. -/
theorem get_stringWrites (m : Memory) (n : Nat) (off : Nat → Nat) (f : Nat → List Byte)
    (h : ∀ i j, i < j → j < n → off i + (f i).length ≤ off j) {i j : Nat} (hi : i < n) (hj : j < (f i).length) :
    (stringWrites m n off f).get (off i + j) = nth 0 (f i) j := by
  rw [← Memory.nth_read _ _ hj, read_stringWrites m n off f h i hi]

theorem length_vqntRow (s : State) (p : Part) (w : VWord) (i : Nat) : (vqntRow s p w i).2.1.length = 64 :=
  List.foldlRecOn (motive := fun l : List Byte => l.length = 64) _ _ List.length_replicate fun l hl _ _ => by
    rw [length_setNth, hl]

/-- The tile registers after VQNT. -/
def vqntTile (s : State) (p : Part) (w : VWord) : Memory :=
  stringWrites s.vec.tile 32 (fun i => 2048 * w.td.toNat + 64 * i) fun i => (vqntRow s p w i).2.1

/-- The shift lanes after VQNT. -/
def vqntLane (s : State) (p : Part) (w : VWord) : Memory :=
  stringWrites s.vec.lane 32 (fun i => 32 * w.td.toNat + i) fun i => [BitVec.ofInt 8 (vqntRow s p w i).1]

theorem get_vqntTile (s : State) (p : Part) (w : VWord) {i j : Nat} (hi : i < 32) (hj : j < 64) :
    (vqntTile s p w).get (2048 * w.td.toNat + 64 * i + j) = nth 0 (vqntRow s p w i).2.1 j :=
  get_stringWrites s.vec.tile 32 (fun i => 2048 * w.td.toNat + 64 * i) (fun i => (vqntRow s p w i).2.1)
    (fun _ _ _ _ => by rw [length_vqntRow]; omega) hi (by rw [length_vqntRow]; exact hj)

theorem get_vqntTile_outside (s : State) (p : Part) (w : VWord) {a : Nat}
    (ha : a < 2048 * w.td.toNat ∨ 2048 * w.td.toNat + 2048 ≤ a) : (vqntTile s p w).get a = s.vec.tile.get a :=
  get_stringWrites_outside s.vec.tile 32 a _ _ fun _ _ => by rw [length_vqntRow]; omega

theorem get_vqntLane (s : State) (p : Part) (w : VWord) {i : Nat} (hi : i < 32) :
    (vqntLane s p w).get (32 * w.td.toNat + i) = BitVec.ofInt 8 (vqntRow s p w i).1 :=
  get_stringWrites s.vec.lane 32 (fun i => 32 * w.td.toNat + i) (fun i => [BitVec.ofInt 8 (vqntRow s p w i).1])
    (fun _ _ _ _ => by rw [List.length_singleton]; omega) hi (Nat.zero_lt_one)

theorem get_vqntLane_outside (s : State) (p : Part) (w : VWord) {a : Nat}
    (ha : a < 32 * w.td.toNat ∨ 32 * w.td.toNat + 32 ≤ a) : (vqntLane s p w).get a = s.vec.lane.get a :=
  get_stringWrites_outside s.vec.lane 32 a _ _ fun _ _ => by rw [List.length_singleton]; omega

theorem vqntRun_eq (s : State) (p : Part) (w : VWord) :
    ∃ nf c, vqntRun s p w = vecReport (withLane (withTile s (vqntTile s p w)) (vqntLane s p w)) p w.grad nf c := by
  simp only [vqntRun, List.foldl_map]
  exact ⟨_, _, rfl⟩

/-! ### VDRP -/

/-- What VDRP leaves in its destination: the elements that it keeps, scaled, and +0 (R115). -/
def vdrpElem (s : State) (p : Part) (w : VWord) (i j : Nat) : Elem :=
  if w.imm.toNat ≤ tileSlice s p w 1 w.df.toNat i j
  then rounded s p w i j ((taNum s w i j).mul (opalAt s w.tb.toNat 0 w.ci.toNat)).toRes else moved 0

theorem sameOperands.vdrpElem {s t : State} (h : sameOperands s t) : vdrpElem t = vdrpElem s := by
  funext p w i j; simp only [Machine.vdrpElem, h.tileSlice, h.rounded, h.taNum, h.opalAt]

/-- The free value that VDRP draws for the mask bits that stand for no element of an Opal32 tile. -/
def vdrpDraw (s : State) (w : VWord) : Nat × State := if w.df.toNat = 1 then takeFree s else (0, s)

theorem vdrpRun_eq (s : State) (p : Part) (w : VWord) :
    let u := tileFull s p w w.df.toNat (vdrpElem s p w)
    vdrpRun s p w =
      if w.men then u
      else maskFill (vdrpDraw u w).2 w.msk.toNat fun i j =>
        if shapeCols w.df.toNat ≤ j then maskSpare (Config.freeNat (vdrpDraw u w).1) i j
        else decide (w.imm.toNat ≤ tileSlice s p w 1 w.df.toNat i j) := by
  have helem : vdrpElem s p w = fun i j =>
      if decide (w.imm.toNat ≤ tileSlice s p w 1 w.df.toNat i j)
      then rounded s p w i j ((taNum s w i j).mul (opalAt s w.tb.toNat 0 w.ci.toNat)).toRes else moved 0 := by
    funext i j; simp only [vdrpElem, decide_eq_true_eq]
  simp only [maskFill, maskRows, ← foldl_maskRow_bits, helem]
  rfl

/-! ### The commands -/

/-- VQNT where it issues at once. -/
theorem pushWord_vqnt {s : State} {p : Part} {w : VWord} (h : issuesNow s p .vec (.vec .vqnt w) = true) :
    let t := pushWord s p .vec (.vec .vqnt w)
    (∀ i j, i < 32 → j < 64 → t.vec.tile.get (2048 * w.td.toNat + 64 * i + j) = nth 0 (vqntRow s p w i).2.1 j)
    ∧ (∀ i, i < 32 → t.vec.lane.get (32 * w.td.toNat + i) = BitVec.ofInt 8 (vqntRow s p w i).1)
    ∧ (∀ a, a < 32 * w.td.toNat ∨ 32 * w.td.toNat + 32 ≤ a → t.vec.lane.get a = s.vec.lane.get a)
    ∧ vecFrame s t w.td.toNat ∧ t.vec.mask = s.vec.mask := by
  obtain ⟨s', hs, ht⟩ := pushWord_vec_effect h
  obtain ⟨nf, c, hrun⟩ := vqntRun_eq s' p w
  have hvec : (vecEffect s' p .vqnt w).vec = (withLane (withTile s' (vqntTile s' p w)) (vqntLane s' p w)).vec := by
    rw [vecEffect, hrun, vecReport_vec]
  have htile : (pushWord s p .vec (.vec .vqnt w)).vec.tile = vqntTile s' p w := by rw [ht.tile, hvec, withLane, withTile]
  have hlane : (pushWord s p .vec (.vec .vqnt w)).vec.lane = vqntLane s' p w := by rw [ht.lane, hvec, withLane]
  have hframe : vecFrame s' (vecEffect s' p .vqnt w) w.td.toNat := by
    rw [vecEffect, hrun]
    exact vecFrame_vecReport (vecFrame_withLane (vecFrame_withTile fun _ ha => get_vqntTile_outside s' p w ha) _) ..
  refine ⟨fun i j hi hj => ?_, fun i hi => ?_, fun a ha => ?_, hframe.after hs ht, ?_⟩
  · rw [htile, get_vqntTile s' p w hi hj, hs.operands.vqntRow]
  · rw [hlane, get_vqntLane s' p w hi, hs.operands.vqntRow]
  · rw [hlane, get_vqntLane_outside s' p w ha, hs.operands.vec]
  · rw [ht.mask, hvec, ← hs.operands.vec, withLane, withTile]

/-- The draw of VDRP changes no register and nothing that a vector word must leave as it was. -/
theorem vdrpDraw_vec (s : State) (w : VWord) : (vdrpDraw s w).2.vec = s.vec := by
  unfold vdrpDraw
  split
  · rfl
  · rfl

theorem vecFrame_vdrpDraw {s u : State} {k : Nat} (h : vecFrame s u k) (w : VWord) : vecFrame s (vdrpDraw u w).2 k := by
  unfold vdrpDraw
  split
  · exact h
  · exact h

/-- What VDRP leaves: TD, where it takes no mask the one of the elements that it keeps, and the rest as it was. -/
def vdrpLeaves (s t : State) (p : Part) (w : VWord) : Prop :=
  tileHolds s t w w.df.toNat 0 (shapeCols w.df.toNat) (vdrpElem s p w)
  ∧ (w.men = true → t.vec.mask = s.vec.mask)
  ∧ (w.men = false → ∀ i j, i < 32 → j < 32 → j < shapeCols w.df.toNat →
      maskBit t w.msk.toNat i j = decide (w.imm.toNat ≤ tileSlice s p w 1 w.df.toNat i j))
  ∧ (∀ a, a < 128 * w.msk.toNat ∨ 128 * w.msk.toNat + 128 ≤ a → t.vec.mask.get a = s.vec.mask.get a)
  ∧ vecFrame s t w.td.toNat ∧ t.vec.lane = s.vec.lane

theorem vdrpLeaves_vdrpRun (s : State) (p : Part) (w : VWord) : vdrpLeaves s (vdrpRun s p w) p w := by
  have hcols := wholeTile_fits w
  have hholds := tileHolds_tileWrite s p w (vdrpElem s p w) w.df.isLt hcols
  have hframe := vecFrame_tileWrite s p w (vdrpElem s p w) hcols
  have hvec := vec_tileWrite s p w w.df.toNat 0 (shapeCols w.df.toNat) (vdrpElem s p w)
  have hmask : (tileFull s p w w.df.toNat (vdrpElem s p w)).vec.mask = s.vec.mask := (congrArg VectorUnit.mask hvec :)
  have hlane : (tileFull s p w w.df.toNat (vdrpElem s p w)).vec.lane = s.vec.lane := (congrArg VectorUnit.lane hvec :)
  have hrun := vdrpRun_eq s p w
  cases hmen : w.men
  · have hdraw := vdrpDraw_vec (tileFull s p w w.df.toNat (vdrpElem s p w)) w
    simp only [hmen, Bool.false_eq_true, if_false, maskFill] at hrun
    rw [hrun]
    refine ⟨hholds.after (.refl s) ?_, fun e => absurd (hmen.symm.trans e) Bool.false_ne_true, fun _ i j hi hj hcol => ?_, fun a ha => ?_,
      vecFrame_withMask (vecFrame_vdrpDraw hframe w) _, ?_⟩
    · rw [withMask_tile, hdraw]; rfl
    · exact (maskBit_maskFill _ _ _ hi hj).trans (if_neg (by omega))
    · rw [withMask_mask, get_maskRows_outside _ _ _ ha, hdraw, hmask]
    · rw [withMask_lane, hdraw, hlane]
  · simp only [hmen, if_true] at hrun
    rw [hrun]
    exact ⟨hholds, fun _ => hmask, fun e => absurd (e.symm.trans hmen) Bool.false_ne_true, fun a _ => congrArg (Memory.get · a) hmask, hframe, hlane⟩

theorem vdrpLeaves.after {s s' u t : State} {p : Part} {w : VWord} (h : vdrpLeaves s' u p w) (hs : vecFinds s s')
    (ht : vecIssued u t) : vdrpLeaves s t p w := by
  obtain ⟨hholds, hmen, hbits, hmask, hframe, hlane⟩ := h
  have hvec := hs.operands.vec
  rw [hs.operands.vdrpElem] at hholds
  rw [hs.operands.tileSlice] at hbits
  exact ⟨hholds.after hs.operands ht.tile, fun e => by rw [ht.mask, hmen e, hvec],
    fun e i j hi hj hcol => by rw [maskBit_congr ht.mask, hbits e i j hi hj hcol],
    fun a ha => by rw [ht.mask, hmask a ha, hvec], hframe.after hs ht, by rw [ht.lane, hlane, hvec]⟩

/-- VDRP where it issues at once. -/
theorem pushWord_vdrp {s : State} {p : Part} {w : VWord} (h : issuesNow s p .vec (.vec .vdrp w) = true) :
    vdrpLeaves s (pushWord s p .vec (.vec .vdrp w)) p w := by
  obtain ⟨s', hs, ht⟩ := pushWord_vec_effect h
  exact (vdrpLeaves_vdrpRun s' p w).after hs ht

/-- Settles O8: VCVT and VDQ are conversions of the columns that `cvtShape` selects, VRND a tile write; VQNT and VDRP by
`pushWord_vqnt` and `pushWord_vdrp`. -/
theorem vectorConversions : Obligations.VectorConversions := by
  unfold Obligations.VectorConversions
  refine ⟨?vcvt, ?vdq, ?vrnd, ?vqnt, ?vdrp⟩
  case vcvt => exact vecGives_of_convRun (fun w => w.sf.toNat) (fun _ _ _ => rfl) fun _ _ _ => rfl
  case vdq => exact vecGives_of_convRun (fun _ => 2) (fun _ _ _ => rfl) fun _ _ _ => rfl
  case vrnd =>
    exact vecGives_of_effect (fun _ _ _ => rfl) (fun _ => by decide) (fun _ => by decide)
      (fun _ _ _ _ h => by simp only [h.tileSlice]) fun _ _ _ => rfl
  case vqnt => exact fun s p w h => ⟨_, rfl, pushWord_vqnt h⟩
  case vdrp => exact fun s p w h => ⟨_, rfl, pushWord_vdrp h⟩

end Sys2Proof.Machine
end

section
/-! PROOFS. The form that every step keeps (R118, R334, R365, R432, R486): how states are put together, events,
accesses to the scratchpad, and the array. -/

namespace Sys2Proof.Machine

/-- The form of a state that every step keeps (R118, R334, R365, R432, R486): canonical memory, ring numbers that
rise, and the lengths of the lists of domains, links, stacks, shadow sets and trace rings. -/
def Formed (s : State) : Prop :=
  s.mem.wf = true ∧ keysRise s.rings ∧ s.pwr.pd.length = 64 ∧ s.fabr.links.length = 24 ∧ s.dramStacks.length = 28
    ∧ s.isl.frost.length = 5 ∧ s.isl.trace.length = 4

/-! ### How states are put together -/

protected theorem Formed.ite {c : Prop} [Decidable c] {s t : State} (hs : Formed s) (ht : Formed t) : Formed (if c then s else t) := by
  split
  · exact hs
  · exact ht

protected theorem Formed.iteBy {β : Type} (st : β → State) {c : Prop} [Decidable c] {a b : β} (ha : Formed (st a)) (hb : Formed (st b)) :
    Formed (st (if c then a else b)) := by
  split
  · exact ha
  · exact hb

/-- A fold over any accumulator in which a state stands. -/
protected theorem Formed.foldlBy {α β : Type} (st : β → State) {f : β → α → β} {l : List α} {b : β}
    (hf : ∀ b a, Formed (st b) → Formed (st (f b a))) (h : Formed (st b)) : Formed (st (l.foldl f b)) := by
  induction l generalizing b with
  | nil => exact h
  | cons a l ih => exact ih (hf b a h)

protected theorem Formed.foldl {α : Type} {f : State → α → State} {l : List α} {s : State} (hf : ∀ s a, Formed s → Formed (f s a))
    (h : Formed s) : Formed (l.foldl f s) :=
  .foldlBy id hf h

/-- A state that an operation may have left, in an answer that may be none, has the form. -/
def FormedOpt {β : Type} (st : β → State) (o : Option β) : Prop := ∀ r ∈ o, Formed (st r)

protected theorem FormedOpt.none {β : Type} {st : β → State} : FormedOpt st none := nofun

protected theorem FormedOpt.some {β : Type} {st : β → State} {b : β} (h : Formed (st b)) : FormedOpt st (some b) := by
  rintro _ ⟨⟩
  exact h

protected theorem FormedOpt.ite {β : Type} {st : β → State} {c : Prop} [Decidable c] {a b : Option β} (ha : FormedOpt st a)
    (hb : FormedOpt st b) : FormedOpt st (if c then a else b) := by
  split
  · exact ha
  · exact hb

/-! ### The fields that the form speaks of -/

theorem mem_keys_tabSet {α : Type} {t : Tab α} {k l : Nat} {v : α} (h : l ∈ (tabSet t k v).map (·.1)) :
    l = k ∨ l ∈ t.map (·.1) := by
  induction t with
  | nil => exact .inl (List.mem_singleton.1 h)
  | cons x t ih =>
    rw [tabSet] at h
    split at h
    · exact List.mem_cons.1 h
    · split at h
      · exact (List.mem_cons.1 h).imp_right (List.mem_cons_of_mem _)
      · rcases List.mem_cons.1 h with rfl | h
        · exact .inr List.mem_cons_self
        · exact (ih h).imp_right (List.mem_cons_of_mem _)

theorem keysRise_tabSet {α : Type} {t : Tab α} (h : keysRise t) (k : Nat) (v : α) : keysRise (tabSet t k v) := by
  induction t with
  | nil => exact List.pairwise_singleton _ k
  | cons x t ih =>
    obtain ⟨hlt, ht⟩ := List.pairwise_cons.1 h
    rw [tabSet]
    split
    · next hk =>
      refine List.pairwise_cons.2 ⟨fun l hl => ?_, h⟩
      rcases List.mem_cons.1 hl with rfl | hl
      · exact hk
      · exact hk.trans (hlt l hl)
    · split
      · next hk => exact List.pairwise_cons.2 ⟨fun l hl => hk ▸ hlt l hl, ht⟩
      · refine List.pairwise_cons.2 ⟨fun l hl => ?_, ih ht⟩
        rcases mem_keys_tabSet hl with rfl | hl
        · exact Nat.lt_of_le_of_ne (Nat.not_lt.1 ‹_›) (Ne.symm ‹_›)
        · exact hlt l hl

protected theorem Formed.withMem {s : State} {m : Memory} (h : Formed s) (hm : m.wf = true) : Formed { s with mem := m } := ⟨hm, h.2⟩

protected theorem Formed.memWrite {s : State} {a : Nat} {bs : List Byte} (h : Formed s) : Formed { s with mem := s.mem.write a bs } :=
  .withMem h (Memory.wf_write _ _ _ h.1)

protected theorem Formed.memZero {s : State} {a n : Nat} (h : Formed s) : Formed { s with mem := s.mem.zero a n } :=
  .withMem h (Memory.wf_zero _ _ _ h.1)

/-! ### Updates of other fields -/

protected theorem Formed.setAlm {s : State} {v : Almanac} (h : Formed s) : Formed { s with alm := v } := h
protected theorem Formed.setAlmLenAlmDone {s : State} {v1 : Nat} {v2 : Bool}
    (h : Formed s) : Formed { s with almLen := v1, almDone := v2 } := h
protected theorem Formed.setArr {s : State} {v : ArrayUnit} (h : Formed s) : Formed { s with arr := v } := h
protected theorem Formed.setDetours {s : State} {v : Nat} (h : Formed s) : Formed { s with fabr := { s.fabr with detours := v } } := h
protected theorem Formed.setFixed {s : State} {v : Bool} (h : Formed s) : Formed { s with fabr := { s.fabr with fixed := v } } := h
protected theorem Formed.setGiven {s : State} {v : List LinkMsg}
    (h : Formed s) : Formed { s with fabr := { s.fabr with given := v } } := h
protected theorem Formed.setLoop {s : State} {v : Nat} (h : Formed s) : Formed { s with fabr := { s.fabr with loop := v } } := h
protected theorem Formed.setNojob {s : State} {v : Nat} (h : Formed s) : Formed { s with fabr := { s.fabr with nojob := v } } := h
protected theorem Formed.setPlaneN {s : State} {v : Tab Nat} (h : Formed s) : Formed { s with fabr := { s.fabr with planeN := v } } := h
protected theorem Formed.setFlash {s : State} {v : Flash} (h : Formed s) : Formed { s with flash := v } := h
protected theorem Formed.setDue {s : State} {v : Tab Nat} (h : Formed s) : Formed { s with isl := { s.isl with due := v } } := h
protected theorem Formed.setVfrd {s : State} {v : List Nat} (h : Formed s) : Formed { s with isl := { s.isl with vfrd := v } } := h
protected theorem Formed.setJobs {s : State} {v : Tab Job} (h : Formed s) : Formed { s with jobs := v } := h
protected theorem Formed.setJobsChans {s : State} {v1 : Tab Job} {v2 : Tab Chan}
    (h : Formed s) : Formed { s with jobs := v1, chans := v2 } := h
protected theorem Formed.setMsixTab {s : State} {v : Memory} (h : Formed s) : Formed { s with msixTab := v } := h
protected theorem Formed.setParked {s : State} {v : List (Nat × List Byte)} (h : Formed s) : Formed { s with parked := v } := h
protected theorem Formed.setPctl {s : State} {v : List Nat} (h : Formed s) : Formed { s with pctl := v } := h
protected theorem Formed.setPending {s : State} {v : List Instr} (h : Formed s) : Formed { s with pending := v } := h
protected theorem Formed.setPoison {s : State} {v : List Nat} (h : Formed s) : Formed { s with poison := v } := h
protected theorem Formed.setBootFailed {s : State} {v : Bool}
    (h : Formed s) : Formed { s with pwr := { s.pwr with bootFailed := v } } := h
protected theorem Formed.setDpartDtidWhy {s : State} {v1 v2 v3 : Nat}
    (h : Formed s) : Formed { s with pwr := { s.pwr with dpart := v1, dtid := v2, why := v3 } } := h
protected theorem Formed.setMst {s : State} {v : ModState} (h : Formed s) : Formed { s with pwr := { s.pwr with mst := v } } := h
protected theorem Formed.setPendingRstat {s : State} {v1 : Option PwrReq} {v2 : Nat}
    (h : Formed s) : Formed { s with pwr := { s.pwr with pending := v1, rstat := v2 } } := h
protected theorem Formed.setPendingWhyRstat {s : State} {v1 : Option PwrReq} {v2 v3 : Nat}
    (h : Formed s) : Formed { s with pwr := { s.pwr with pending := v1, why := v2, rstat := v3 } } := h
protected theorem Formed.setRefclkRefOff {s : State} {v1 v2 : Bool}
    (h : Formed s) : Formed { s with pwr := { s.pwr with refclk := v1, refOff := v2 } } := h
protected theorem Formed.setRstatTripTripCause {s : State} {v1 : Nat} {v2 : Bool} {v3 : Nat}
    (h : Formed s) : Formed { s with pwr := { s.pwr with rstat := v1, trip := v2, tripCause := v3 } } := h
protected theorem Formed.setTripTripCauseTripNew {s : State} {v1 : Bool} {v2 : Nat} {v3 : Bool}
    (h : Formed s) : Formed { s with pwr := { s.pwr with trip := v1, tripCause := v2, tripNew := v3 } } := h
protected theorem Formed.setWhy {s : State} {v : Nat} (h : Formed s) : Formed { s with pwr := { s.pwr with why := v } } := h
protected theorem Formed.setRsp {s : State} {v : BusRsp} (h : Formed s) : Formed { s with rsp := v } := h
protected theorem Formed.setSec {s : State} {v : Sec} (h : Formed s) : Formed { s with sec := v } := h
protected theorem Formed.setSortOrder {s : State} {v : List (Nat × Nat)} (h : Formed s) : Formed { s with sortOrder := v } := h
protected theorem Formed.setSorts {s : State} {v : Tab SortJob} (h : Formed s) : Formed { s with sorts := v } := h
protected theorem Formed.setSortsShortEndMstWaking {s : State} {v1 : Tab SortJob} {v2 : Option Nat} {v3 : ModState} {v4 : Bool}
    (h : Formed s) : Formed { s with sorts := v1, isl := { s.isl with shortEnd := v2 }, pwr := { s.pwr with mst := v3, waking := v4 } } := h
protected theorem Formed.setStreaksGranted {s : State} {v1 : Tab Nat} {v2 : Option (Nat × Nat)}
    (h : Formed s) : Formed { s with streaks := v1, granted := v2 } := h
protected theorem Formed.setTierLock {s : State} {v : List Bool} (h : Formed s) : Formed { s with tierLock := v } := h
protected theorem Formed.setTim {s : State} {v : Time} (h : Formed s) : Formed { s with tim := v } := h
protected theorem Formed.setVec {s : State} {v : VectorUnit} (h : Formed s) : Formed { s with vec := v } := h
protected theorem Formed.setWear {s : State} {v : Wear} (h : Formed s) : Formed { s with wear := v } := h
protected theorem Formed.setWinA {s : State} {v : WinBuf} (h : Formed s) : Formed { s with winA := v } := h
protected theorem Formed.setWinB {s : State} {v : WinBuf} (h : Formed s) : Formed { s with winB := v } := h

variable {s : State} {p : Part} {k blk n t i b code status a klen r idx : Nat} {c : Cmd} {src : W32}
variable {e : TEntry} {bs : List Byte} {detail : List Nat} {inPlan : Bool} {w : AWord}

protected theorem Formed.whileActive {f : State → State} (h : Formed s) (hf : ∀ t, Formed t → Formed (f t)) :
    Formed (whileActive s f) :=
  .ite (hf _ h) h

protected theorem Formed.modJob {f : Job → Job} (h : Formed s) : Formed (modJob s p f) := by
  unfold modJob
  split
  · exact h
  · exact h

protected theorem Formed.report {bitsToSet : W32} (h : Formed s) : Formed (report s p bitsToSet) := .modJob h

protected theorem Formed.reportGrid {nf sat : Bool} {emax : ℤ} (h : Formed s) : Formed (reportGrid s p k nf sat emax) := .modJob h

protected theorem Formed.modLive {f : CtrSet → CtrSet} (h : Formed s) : Formed (modLive s f) := h

protected theorem Formed.count {c q : Nat} {at' : EvAt} (h : Formed s) : Formed (count s blk c n q at') := .modLive h

protected theorem Formed.sampleTick {src : Nat} (h : Formed s) : Formed (sampleTick s p src) := .ite h (.ite h h)

protected theorem Formed.countRec {e : Nat} (h : Formed s) : Formed (countRec s p e) := .sampleTick (.count h)

protected theorem Formed.tally {c : Counts} (h : Formed s) : Formed (tally s blk c) := .modLive h

protected theorem Formed.tblCount {q : Nat} (h : Formed s) : Formed (tblCount s p t i q) := .modLive h

protected theorem Formed.putRing {r : Ring} (h : Formed s) : Formed (putRing s n r) := by
  obtain ⟨hmem, hrings, hrest⟩ := h
  exact ⟨Memory.wf_write _ _ _ hmem, keysRise_tabSet hrings n r, hrest⟩

protected theorem Formed.putFn {f : Nat} {v : Fn} (h : Formed s) : Formed (putFn s f v) := h

protected theorem Formed.putPort {b : Bool} {q : Port} (h : Formed s) : Formed (putPort s b q) := .ite h h

protected theorem Formed.hostWrite {portB : Bool} {addr : Nat} {relaxed : Bool} (h : Formed s) :
    Formed (hostWrite s portB addr bs relaxed) :=
  .ite h h

protected theorem Formed.ringWrite (h : Formed s) : Formed (ringWrite s n bs) := .putRing (.hostWrite h)

protected theorem Formed.evPut {e : Event} (h : Formed s) : Formed (evPut s n e) :=
  .ite (.putRing h) (.ite (.ringWrite h) (.ite (.putRing (.ringWrite (.putRing h))) (.ringWrite (.ringWrite (.putRing h)))))

protected theorem Formed.evKeep {portB : Bool} {e : Event} (h : Formed s) : Formed (evKeep s portB e) :=
  .ite (.ite (.putPort h) (.putPort h)) h

protected theorem Formed.raiseE {e : Event} (h : Formed s) : Formed (raiseE s e) :=
  .ite (.putFn (.foldl (fun _ _ ht => .evPut ht) (.evKeep (.evKeep h)))) (.foldl (fun _ _ ht => .evPut ht) (.evKeep (.evKeep h)))

protected theorem Formed.raise (h : Formed s) : Formed (raise s p code detail) := .raiseE h

protected theorem Formed.raiseM (h : Formed s) : Formed (raiseM s code detail) := .raiseE h

protected theorem Formed.raiseF {fn : Nat} {p : Option Part} (h : Formed s) : Formed (raiseF s code status fn p detail) := .raiseE h

protected theorem Formed.retire (h : Formed s) : Formed (retire s c) := .ite (.putRing h) (.ite (.putRing h) h)

protected theorem Formed.completeAt {head cc : Nat} (h : Formed s) : Formed (completeAt s c head status a b cc) :=
  .ite (.putPort (.retire h)) (.ite (.retire h) (.ite (.ringWrite (.retire h)) (.retire h)))

protected theorem Formed.complete {cc : Nat} (h : Formed s) : Formed (complete s c status a b cc) := .completeAt h

protected theorem Formed.rejectCmd (h : Formed s) : Formed (rejectCmd s c code status detail) := .complete (.raiseF h)

protected theorem Formed.putTbl {v : Table} (h : Formed s) : Formed (putTbl s p t v) := h

protected theorem Formed.modTbl {f : Table → Table} (h : Formed s) : Formed (modTbl s p t f) := by
  unfold modTbl
  split
  · exact h
  · exact .putTbl h

protected theorem Formed.setDom {d : Nat} {v : DomState} (h : Formed s) : Formed (setDom s d v) := by
  obtain ⟨hmem, hrings, hpd, hrest⟩ := h
  unfold setDom
  split
  · exact ⟨hmem, hrings, (length_setNth _ _ _).trans hpd, hrest⟩
  · exact ⟨hmem, hrings, (length_setNth _ _ _).trans hpd, hrest⟩

protected theorem Formed.history {kind : Nat} (h : Formed s) : Formed (history s kind a b) := h

protected theorem Formed.takeFree (h : Formed s) : Formed (takeFree s).2 := h

protected theorem Formed.unpoison (h : Formed s) : Formed (unpoison s a n) := h

protected theorem Formed.meetError {e : Nat × Bool} (h : Formed s) : Formed (meetError s e) :=
  .ite (.history (.raiseM (.count h))) (.setPoison (.history (.raiseM (.count h))))

protected theorem Formed.meetErrors (h : Formed s) : Formed (meetErrors s a n) := .foldl (fun _ _ ht => .meetError ht) h

/-- A write to banks that are on and off stores the bytes of those that are on. -/
theorem wf_foldl_set {α : Type} {c : α → Bool} {a : α → Nat} {b : α → Byte} {l : List α} {m : Memory} (h : m.wf = true) :
    (l.foldl (fun m x => if c x then m else m.set (a x) (b x)) m).wf = true := by
  induction l generalizing m with
  | nil => exact h
  | cons x l ih =>
    refine ih ?_
    dsimp only
    split
    · exact h
    · exact Memory.wf_set _ _ _ h

protected theorem Formed.wrNow (h : Formed s) : Formed (wrNow s a bs) :=
  .ite (.raiseM (.withMem h (wf_foldl_set h.1))) (.memWrite h)

protected theorem Formed.wr (h : Formed s) : Formed (wr s a bs) := .ite h (.wrNow h)

protected theorem Formed.unpark (h : Formed s) : Formed (unpark s) :=
  .setParked (.foldlBy Prod.fst (fun _ _ ht => .iteBy Prod.fst ht (.wrNow ht)) h)

protected theorem Formed.spdAccess {write : Bool} (h : Formed s) : Formed (spdAccess s a n write) := by
  unfold spdAccess
  refine .ite h (.foldl (fun _ _ ht => ?_) (.ite h (.meetErrors h)))
  split
  · exact .count (.setDom ht)
  · exact .ite ht (.raiseM ht)
  · exact ht

protected theorem Formed.cksumFault (h : Formed s) : Formed (cksumFault s p inPlan src blk b) :=
  .ite (.report (.history (.raise (.count h)))) (.history (.raise (.count h)))

protected theorem Formed.rdChecked (h : Formed s) : Formed (rdChecked s p inPlan src blk a n).2.1 :=
  .iteBy (Prod.fst ∘ Prod.snd) h (.foldl (fun _ _ ht => .cksumFault ht) h)

protected theorem Formed.wrBlock (h : Formed s) : Formed (wrBlock s p inPlan src blk b a bs).1 :=
  .iteBy Prod.fst (.wrNow (.wrNow (.ite (.ite h (.count h)) (.cksumFault (.ite h (.count h))))))
      (.wrNow (.ite (.ite h (.count h)) (.cksumFault (.ite h (.count h)))))

protected theorem Formed.wrChecked (h : Formed s) : Formed (wrChecked s p inPlan src blk a bs).1 :=
  .iteBy Prod.fst (.wr h) (.foldlBy Prod.fst (fun _ _ ht => .wrBlock ht) h)

protected theorem Formed.touchBlock {r0 nr c0 nc : Nat} {write : Bool} (h : Formed s) : Formed (touchBlock s e r0 nr c0 nc write) :=
  .ite h (.foldl (fun _ _ ht => .ite (.foldl (fun _ _ ht1 => .spdAccess ht1) (.spdAccess ht)) (.spdAccess ht)) h)

protected theorem Formed.accSet {v : W32} (h : Formed s) : Formed (accSet s i v) := h

protected theorem Formed.accClear (h : Formed s) : Formed (accClear s i n) := h

protected theorem Formed.tileSet {fmt j v : Nat} (h : Formed s) : Formed (tileSet s t fmt i j v) := h

protected theorem Formed.laneSet {v : ℤ} (h : Formed s) : Formed (laneSet s t i v) := h

protected theorem Formed.maskRow {v : Nat} (h : Formed s) : Formed (maskRow s k i v) := h

protected theorem Formed.arrReport {grad nonfinite : Bool} {c : Counts} (h : Formed s) : Formed (arrReport s p grad nonfinite c) :=
  .ite (.report (.tally h)) (.tally h)

protected theorem Formed.vecReport {grad nonfinite : Bool} {c : Counts} (h : Formed s) : Formed (vecReport s p grad nonfinite c) :=
  .ite (.report (.tally h)) (.tally h)

protected theorem Formed.productBlock {f g : Nat → Nat → Num} (h : Formed s) : Formed (productBlock s w klen f g).1 :=
  .foldlBy Prod.fst (fun _ _ ht => .accSet ht) h

protected theorem Formed.arrError {e : Nat × Nat × Bool} (h : Formed s) : Formed (arrError s p e) := .history (.raise (.count h))

protected theorem Formed.accMeet {lo : Nat} (h : Formed s) : Formed (accMeet s p lo n) :=
  .foldl (fun _ _ ht => .ite (.arrError ht) (.foldl (fun _ _ ht1 => .ite (.accSet ht1) ht1) (.arrError ht))) h

protected theorem Formed.errClear {store lo : Nat} (h : Formed s) : Formed (errClear s store lo n) := h

protected theorem Formed.shelfMeet {op : AOp} {r : TEntry} (h : Formed s) : Formed (shelfMeet s p op r w klen) :=
  .foldl (fun _ _ ht => .ite ht
      (.ite (.arrError ht) (.foldl (fun _ _ ht1 => .foldl (fun _ _ ht2 => .accSet ht2) ht1) (.arrError ht)))) h

protected theorem Formed.blockMeet (h : Formed s) : Formed (blockMeet s p w) := .ite (.accMeet h) (.errClear h)

protected theorem Formed.touchRows (h : Formed s) : Formed (touchRows s e w) := .touchBlock h

protected theorem Formed.ammRun (h : Formed s) : Formed (ammRun s p w) :=
  .shelfMeet (.tally (.productBlock (.blockMeet (.touchRows h))))

protected theorem Formed.ammtVoid (h : Formed s) : Formed (ammtVoid s p w idx) := .report (.raise (.foldl (fun _ _ ht => .accSet ht) h))

protected theorem Formed.ammtRun (h : Formed s) : Formed (ammtRun s p w idx) :=
  .ite (.ammtVoid h) (.shelfMeet (.tally (.productBlock (.blockMeet (.touchRows h)))))

protected theorem Formed.touchSlab (h : Formed s) : Formed (touchSlab s e w klen n) := .touchBlock h

protected theorem Formed.aaccRun {tileRead : Bool} (h : Formed s) : Formed (aaccRun s p w tileRead) :=
  .tally (.productBlock (.blockMeet (.touchSlab (.ite h (.touchSlab h)))))

protected theorem Formed.runOldest (h : Formed s) : Formed (runOldest s) := by
  unfold runOldest
  split
  · exact h
  · exact .unpark (.aaccRun h)

protected theorem Formed.enqueue (h : Formed s) : Formed (enqueue s p w) := h

protected theorem Formed.adrnRun (h : Formed s) : Formed (adrnRun s p w) := .modJob h

protected theorem Formed.dropDeferred (h : Formed s) : Formed (dropDeferred s) := .unpark h

protected theorem Formed.touchLoad {src : Nat} {r : TEntry} (h : Formed s) : Formed (touchLoad s p src r) :=
  .ite (.spdAccess (.touchBlock h)) (.touchBlock h)

protected theorem Formed.awldRun (h : Formed s) : Formed (awldRun s p w) :=
  .setArr (.tally (.ite (.errClear (.errClear (.touchLoad h))) (.errClear (.touchLoad h))))

protected theorem Formed.asldRun (h : Formed s) : Formed (asldRun s p w) := .setArr (.errClear (.touchBlock h))

protected theorem Formed.putRow {vs : List Nat} (h : Formed s) : Formed (putRow s e i vs) := .wr h

protected theorem Formed.dumpBlock {xs : List W32} (h : Formed s) : Formed (dumpBlock s p e w r k xs).1 := .wr (.ite h (.wr h))

protected theorem Formed.dumpFloat {xs : List W32} (h : Formed s) : Formed (dumpFloat s p e w r xs).1 := .putRow h

protected theorem Formed.admpRow {acc : State × Counts} (h : Formed acc.1) : Formed (admpRow p e w acc r).1 :=
  .iteBy Prod.fst (.foldlBy Prod.fst (fun _ _ ht => .dumpBlock ht) h) (.dumpFloat h)

protected theorem Formed.dumpMeet (h : Formed s) : Formed (dumpMeet s p e w) := .touchBlock (.foldl (fun _ _ ht => .accMeet ht) h)

protected theorem Formed.noteDump {d : Nat} (h : Formed s) : Formed (noteDump s p d) := .modJob h

protected theorem Formed.admpRun (h : Formed s) : Formed (admpRun s p w) :=
  .noteDump (.arrReport
      (.ite (.accClear (.foldlBy Prod.fst (fun _ _ ht => .admpRow ht) (.dumpMeet h)))
      (.foldlBy Prod.fst (fun _ _ ht => .admpRow ht) (.dumpMeet h))))

protected theorem Formed.aldmpRun (h : Formed s) : Formed (aldmpRun s p w) := by
  unfold aldmpRun
  refine .noteDump (.arrReport (.accClear (.foldlBy Prod.fst (fun _ _ ht => ?_) (.dumpMeet h))))
  dsimp only
  split
  · exact .foldl (fun _ _ ht1 => .reportGrid ht1) (.putRow ht)
  · exact .putRow ht

protected theorem Formed.amovOut (h : Formed s) : Formed (amovOut s p w) := .foldl (fun _ _ ht => .putRow ht) (.dumpMeet h)

protected theorem Formed.amovIn (h : Formed s) : Formed (amovIn s p w) :=
  .foldl (fun _ _ ht => .foldl (fun _ _ ht1 => .accSet ht1) (.errClear ht)) (.touchBlock h)

protected theorem Formed.amovRun (h : Formed s) : Formed (amovRun s p w) := .ite (.amovIn h) (.amovOut h)

protected theorem Formed.aclrRun (h : Formed s) : Formed (aclrRun s w) := .accClear (.errClear h)

protected theorem Formed.amodeRun (h : Formed s) : Formed (amodeRun s p w idx) := .setArr (.ite (.raise h) h)

protected theorem Formed.arrEffect {lead : Lead} {op : AOp} (h : Formed s) : Formed (arrEffect s p lead idx op w) := by
  unfold arrEffect
  split
  · exact h
  · exact .awldRun h
  · exact .asldRun h
  · exact .ammRun h
  · exact .ammtRun h
  · exact h
  · exact .ite (.enqueue h) (.aaccRun h)
  · exact .admpRun h
  · exact .aldmpRun h
  · exact h
  · exact .adrnRun h
  · exact .amovRun h
  · exact .aclrRun h
  · exact .amodeRun h

end Sys2Proof.Machine
end

section
/-! PROOFS. The form through links and messages, the tables of rows, and the tiers of memory. -/

namespace Sys2Proof.Machine

variable {s : State} {k n blk a g i r tid row : Nat} {m : LinkMsg} {p : Part} {t : Table} {write : Bool}

protected theorem Formed.putLink {l : LinkSt} (h : Formed s) : Formed (putLink s k l) := by
  obtain ⟨hmem, hrings, hpd, hlinks, hrest⟩ := h
  exact ⟨hmem, hrings, hpd, (length_setNth _ _ _).trans hlinks, hrest⟩

protected theorem Formed.pickLink {dir : Nat} {dst : NodeAddr} {vc : VC} (h : Formed s) : Formed (pickLink s dir dst vc).2 := h

protected theorem Formed.takeDir {dir : Nat} {dst : NodeAddr} {vc : VC} (h : Formed s) :
    FormedOpt Prod.snd (takeDir s dir dst vc) := by
  refine .ite (.some (.pickLink h)) fun r hr => ?_
  obtain ⟨k, -, rfl⟩ := Option.mem_map.1 hr
  exact h

protected theorem Formed.takeDetour {dir : Nat} {dst : NodeAddr} {vc : VC} (h : Formed s) :
    FormedOpt Prod.snd (takeDetour s dir dst vc) := by
  intro r hr
  obtain ⟨e, -, he⟩ := List.exists_of_findSome?_eq_some hr
  exact h.takeDir _ he

/-- A link along a dimension, or a detour of it: what `route` does with each. -/
protected theorem Formed.along {dir : Nat} {dst : NodeAddr} {vc : VC} (h : Formed s) :
    FormedOpt (fun r : Nat × Bool × State => r.2.2) (match takeDir s dir dst vc with
      | some r => some (r.1, false, r.2)
      | none => (takeDetour s dir dst vc).map fun r => (r.1, true, r.2)) := by
  split
  · next ht => exact .some (h.takeDir _ ht)
  · intro r hr
    obtain ⟨q, hq, rfl⟩ := Option.mem_map.1 hr
    exact h.takeDetour _ hq

protected theorem Formed.route {from' : Option Nat} (h : Formed s) :
    FormedOpt (fun r => r.2.2) (route s m from') := by
  unfold route
  extract_lets me vc samePod along dims
  refine .ite ?_ ?_
  · split
    · exact .none
    · exact .along h
  · split
    · exact .some (.setPlaneN h)
    · split
      · exact .none
      · intro r hr
        obtain ⟨dir, -, hdir⟩ := Option.bind_eq_some_iff.1 hr
        exact Formed.along (.takeFree h) r hdir

protected theorem Formed.enqueueMsg (h : Formed s) : Formed (enqueueMsg s k m) := .putLink h

protected theorem Formed.forward {from' : Option Nat} (h : Formed s) : Formed (forward s m from') := by
  unfold forward
  split
  · next ht =>
    have hr := h.route _ ht
    exact .enqueueMsg (.ite (.setDetours (.count (.count hr))) (.count hr))
  · exact .raiseM h

protected theorem Formed.retryStuck (h : Formed s) : Formed (retryStuck s) := .foldl (fun _ _ ht => .forward ht) h

protected theorem Formed.sendNode {dst : NodeAddr} {mtype : Nat} {body : List Byte} (h : Formed s) :
    Formed (sendNode s p dst mtype body) :=
  .ite h (.forward h)

protected theorem Formed.sendTo {l mtype : Nat} {body : List Byte} (h : Formed s) : Formed (sendTo s p l mtype body) := .sendNode h

protected theorem Formed.transmit (h : Formed s) : Formed (transmit s k) := by
  unfold transmit
  refine .ite h (.ite (.putLink h) ?_)
  split
  · exact .putLink (.count h)
  · exact .ite (.putLink h) (.ite (.putLink h) (.putLink (.modLive (.count h))))

protected theorem Formed.retrain (h : Formed s) : Formed (retrain s k) := .raiseM (.count (.setAlm (.putLink h)))

protected theorem Formed.replayRequest {seq : Nat} (h : Formed s) : Formed (replayRequest s k seq) :=
  .ite h (.ite (.retrain (.putLink h)) (.putLink h))

protected theorem Formed.takeFrame {f : Frame} {good : Bool} (h : Formed s) : Formed (takeFrame s k f good) :=
  .ite h (.ite (.putLink h) (.ite h (.ite (.replayRequest (.putLink h)) (.ite (.putLink (.modLive (.count h))) (.putLink h)))))

protected theorem Formed.receiveFrame {bs : List Byte} {codes : Bool} (h : Formed s) : Formed (receiveFrame s k bs codes) :=
  .takeFrame h

protected theorem Formed.drainInbox (h : Formed s) : Formed (drainInbox s k m) := .ite (.putLink h) h

protected theorem Formed.badType (h : Formed s) : Formed (badType s k m) := .raiseM h

protected theorem Formed.deliver (h : Formed s) : Formed (deliver s k m) := by
  unfold deliver
  extract_lets
  split
  · exact .badType (.drainInbox h)
  · exact .ite (.setGiven (.drainInbox h)) (.raise (.setNojob (.drainInbox h)))

protected theorem Formed.relay (h : Formed s) : Formed (relay s k m) := .ite (.badType (.drainInbox h)) (.forward (.drainInbox h))

protected theorem Formed.sendAgain {l : List (VC × LinkMsg)} (h : Formed s) : Formed (sendAgain s l) :=
  .foldl (fun _ _ ht => .forward ht) h

protected theorem Formed.firstLink (h : Formed s) : Formed (firstLink s) := .ite h h

protected theorem Formed.trained {partner : NodeAddr} {plink : Nat} (h : Formed s) : Formed (trained s k partner plink) :=
  .ite h (.ite (.sendAgain (.putLink h)) (.ite (.raiseM (.putLink h)) (.sendAgain (.retryStuck (.setFixed (.putLink (.firstLink h)))))))

protected theorem Formed.reroute (h : Formed s) : Formed (reroute s k) := .sendAgain (.putLink h)

protected theorem Formed.retrainDone {lanes : Nat} (h : Formed s) : Formed (retrainDone s k lanes) :=
  .ite h (.ite (.retryStuck (.putLink h))
      (.ite (.retryStuck (.raiseM (.setAlm (.putLink h)))) (.reroute (.raiseM (.setAlm (.putLink h))))))

protected theorem Formed.backgroundTrain {lanes : Nat} (h : Formed s) : Formed (backgroundTrain s k lanes) :=
  .ite (.ite (.putLink h) (.raiseM h)) h

protected theorem Formed.rejoinLinks (h : Formed s) : Formed (rejoinLinks s) :=
  .sendAgain (.retryStuck (.foldl (fun _ _ ht => .putLink ht) h))

protected theorem Formed.retrainIf {c : Bool} (h : Formed s) : Formed (retrainIf s k c) := .ite (.retrain h) h

protected theorem Formed.chainEdge {low : Nat} (h : Formed s) : Formed (chainEdge s low) := .ite h (.ite h (.ite (.raiseM h) h))

protected theorem Formed.chainLow (h : Formed s) : Formed (chainLow s) := .ite h (.ite h (.raiseM h))

protected theorem Formed.announceSlot (h : Formed s) : Formed (announceSlot s) := .ite h h

protected theorem Formed.closeWindow {t : Nat} {short : Bool} (h : Formed s) : Formed (closeWindow s t short) := h

protected theorem Formed.stepTime {t : Nat} (h : Formed s) : Formed (stepTime s t) := .ite (.closeWindow h) h

protected theorem Formed.follow {th : ℤ} (h : Formed s) : Formed (follow s th) := .ite (.stepTime h) h

protected theorem Formed.timeRequest (h : Formed s) : Formed (timeRequest s) := by
  unfold timeRequest
  split
  · exact h
  · exact .ite (.enqueueMsg h) h

protected theorem Formed.timeReplyTo {src : NodeAddr} {t1 cf : Nat} (h : Formed s) : Formed (timeReplyTo s src t1 cf) :=
  .ite (.enqueueMsg h) h

protected theorem Formed.timeReply {t1 t2 t3 cf cb : Nat} (h : Formed s) : Formed (timeReply s t1 t2 t3 cf cb) :=
  .ite (.raiseM (.setTim (.ite (.follow h) h))) (.ite (.follow h) h)

protected theorem Formed.timeLost (h : Formed s) : Formed (timeLost s) := .ite h (.raiseM h)

protected theorem Formed.recWrite {addr : Nat} {b : List Byte} (h : Formed s) : Formed (recWrite s addr b) := .wrNow h

protected theorem Formed.charge {b : Nat} (h : Formed s) : Formed (charge s p b n blk) := .ite h (.count h)

protected theorem Formed.putStack {k : Stack} (h : Formed s) : Formed (putStack s i k) := by
  obtain ⟨hmem, hrings, hpd, hlinks, hstacks, hrest⟩ := h
  exact ⟨hmem, hrings, hpd, hlinks, (length_setNth _ _ _).trans hstacks, hrest⟩

/-- A tick of the caps of the first 20 stacks. -/
protected theorem Formed.dramTick (h : Formed s) :
    Formed { s with dramStacks := (s.dramStacks.take 20).map dramTick ++ s.dramStacks.drop 20 } := by
  obtain ⟨hmem, hrings, hpd, hlinks, hstacks, hrest⟩ := h
  exact ⟨hmem, hrings, hpd, hlinks, by simp [hstacks], hrest⟩

protected theorem Formed.noteWait (h : Formed s) : Formed (noteWait s a n write) := .foldl (fun _ _ ht => .ite ht (.putStack ht)) h

protected theorem Formed.whenOpen {l : List (Nat × Nat × Bool)} {f : State → State} (h : Formed s) (hf : ∀ t, Formed t → Formed (f t)) :
    Formed (whenOpen s p l f) :=
  .ite (hf _ h) (.foldl (fun _ _ ht => .noteWait ht) h)

protected theorem Formed.winAdd {c : Nat} (h : Formed s) : Formed (winAdd s c n) := .modLive h

protected theorem Formed.countMem (h : Formed s) : Formed (countMem s p a n blk write) := by
  unfold countMem
  extract_lets
  split
  · exact .count h
  · exact .count (.count h)
  · refine .foldl (fun _ _ ht => ?_) (.count h)
    split
    · exact ht
    · exact .count ht

protected theorem Formed.meetFlash (h : Formed s) : Formed (meetFlash s a n) := by
  unfold meetFlash
  refine .foldl (fun _ _ ht => .history (.raiseM ?_)) h
  split
  · exact ht
  · exact .count ht

protected theorem Formed.chargeMem (h : Formed s) : Formed (chargeMem s p a n blk write) := by
  unfold chargeMem
  extract_lets
  split
  · exact .spdAccess (.countMem h)
  · exact .winAdd (.charge (.countMem h))
  · exact .winAdd (.charge (.countMem h))
  · exact .ite (.countMem h) (.winAdd (.charge (.meetFlash (.countMem h))))
  · exact .countMem h

protected theorem Formed.chargeRead (h : Formed s) : Formed (chargeRead s p a n blk) := .chargeMem h

protected theorem Formed.chargeWrite (h : Formed s) : Formed (chargeWrite s p a n blk) := .chargeMem h

protected theorem Formed.dirPut {e : Place} {v : Nat} (h : Formed s) : Formed (dirPut s e g i v) := .wrNow h

protected theorem Formed.dirInsert {v : Nat} (h : Formed s) : Formed (dirInsert s t r v) := .dirPut h

protected theorem Formed.dirMod {f : Nat → Nat} (h : Formed s) : Formed (dirMod s t r f) := by
  unfold dirMod
  split
  · exact h
  · exact .dirPut h

protected theorem Formed.dirShift {hole f : Nat} (h : Formed s) : Formed (dirShift s t g hole f i) := by
  induction f generalizing s hole i with
  | zero => exact .dirPut h
  | succ f ih =>
    unfold dirShift
    exact .ite (.dirPut h) (.ite (ih h) (ih (.dirPut h)))

protected theorem Formed.dirRemove (h : Formed s) : Formed (dirRemove s p tid r) := by
  unfold dirRemove
  split
  · exact h
  · split
    · exact h
    · exact .putTbl (.dirShift h)

protected theorem Formed.promoteInto {slot : Nat} {mark : Option Nat} (h : Formed s) : Formed (promoteInto s p tid r slot mark) := by
  unfold promoteInto
  split
  · exact h
  · exact .dirInsert (.putTbl h)

protected theorem Formed.writeSlot (h : Formed s) : Formed (writeSlot s p tid t) := .wrNow (.wrNow h)

protected theorem Formed.keepTbl (h : Formed s) : Formed (keepTbl s p tid t) := .writeSlot (.putTbl h)

protected theorem Formed.xorDigest {y : Nat} (h : Formed s) : Formed (xorDigest s p tid k y) := by
  unfold xorDigest
  split
  · exact h
  · exact .wrNow (.wrNow (.putTbl h))

protected theorem Formed.clearDigests (h : Formed s) : Formed (clearDigests s p tid) := by
  unfold clearDigests
  split
  · exact h
  · exact .memZero (.putTbl h)

protected theorem Formed.spendPage {urgentTid : Option Nat} (h : Formed s) : Formed (spendPage s urgentTid) := by
  unfold spendPage
  dsimp only
  split
  · exact .ite (.raiseM h) h
  · exact h

protected theorem Formed.programPages {urgentTid : Option Nat} {lps : List Nat} (h : Formed s) :
    Formed (programPages s urgentTid lps) :=
  .foldl (fun _ _ ht => .spendPage ht) h

protected theorem Formed.trimRange (h : Formed s) : Formed (trimRange s a n) := .foldl (fun _ _ ht => .memZero ht) h

protected theorem Formed.healPages {lps : List Nat} (h : Formed s) : Formed (healPages s lps) := h

protected theorem Formed.moveBand {b : Nat} (h : Formed s) : Formed (moveBand s b) := .setFlash (.programPages h)

protected theorem Formed.collectGarbage (h : Formed s) : Formed (collectGarbage s) := by
  unfold collectGarbage
  refine .ite ?_ h
  split
  · exact h
  · exact .moveBand h

protected theorem Formed.levelWear (h : Formed s) : Formed (levelWear s) := by
  unfold levelWear
  refine .ite ?_ h
  split
  · exact h
  · exact .moveBand h

protected theorem Formed.retireBlock (h : Formed s) : Formed (retireBlock s blk) := .ite h (.programPages h)

protected theorem Formed.checkpointMap (h : Formed s) : Formed (checkpointMap s) := .ite h h

protected theorem Formed.mountT3 (h : Formed s) : Formed (mountT3 s) := by
  unfold mountT3
  split
  · exact h
  · exact .ite h h

protected theorem Formed.rebuildMap (h : Formed s) : Formed (rebuildMap s) := by
  unfold rebuildMap
  split
  · exact .ite h (.raiseM h)
  · exact h

protected theorem Formed.setAllowance (h : Formed s) : Formed (setAllowance s) := .ite (.raiseM h) h

protected theorem Formed.wearBoot (h : Formed s) : Formed (wearBoot s) := .ite (.setAllowance h) (.setWear (.setAllowance h))

protected theorem Formed.writeAlmanac (h : Formed s) : Formed (writeAlmanac s) := .ite h h

protected theorem Formed.hourly (h : Formed s) : Formed (hourly s) := .writeAlmanac (.setWear (.setAllowance h))

protected theorem Formed.writebackRow {urgent : Bool} (h : Formed s) : Formed (writebackRow s p tid row urgent) := by
  unfold writebackRow
  split
  · exact h
  · exact .modTbl (.tblCount
        (.foldl (fun _ _ ht => .recWrite (.chargeWrite ht))
        (.foldl (fun _ _ ht => .chargeRead ht) (.foldl (fun _ _ ht => .chargeRead ht) (.countRec h)))))

protected theorem Formed.finishEvictions {rows : List Nat} (h : Formed s) : Formed (finishEvictions s p tid rows) := by
  unfold finishEvictions
  refine .foldl (fun _ _ ht => ?_) h
  split
  · exact ht
  · split
    · exact .ite (.tblCount (.dirRemove ht)) ht
    · exact ht

protected theorem Formed.flushProgress {rows : List Nat} (h : Formed s) : Formed (flushProgress s p tid rows) := by
  unfold flushProgress
  split
  · exact h
  · exact .foldl (fun _ _ ht => .ite ht (.complete ht)) (.putTbl h)

protected theorem Formed.durable (h : Formed s) : Formed (durable s p tid) := by
  unfold durable
  split
  · exact h
  · split
    · exact h
    · exact .flushProgress (.finishEvictions
          (.healPages (.programPages (.foldl (fun _ _ ht => .memWrite ht) (.winAdd (.charge (.putTbl h)))))))

protected theorem Formed.dirState {x : Nat} (h : Formed s) : Formed (dirState s t r x) := .dirMod h

protected theorem Formed.evictClean (h : Formed s) : Formed (evictClean s p tid r) := .tblCount (.dirRemove h)

protected theorem Formed.evictDirty (h : Formed s) : Formed (evictDirty s p tid r) := by
  unfold evictDirty
  split
  · exact h
  · exact .ite (.putTbl (.dirState h)) (.writebackRow (.putTbl (.dirState h)))

protected theorem Formed.drizzleEvict (h : Formed s) : Formed (drizzleEvict s p tid g) := by
  unfold drizzleEvict
  split
  · exact h
  · refine .ite h ?_
    extract_lets
    split
    · exact .evictClean (.putTbl h)
    · split
      · exact .ite (.whenOpen (.putTbl h) (fun _ ht => .writebackRow ht)) (.putTbl h)
      · exact .putTbl h

/-- The state that a search for a slot leaves, where it leaves one, has the form. -/
def SlotGet.formed : SlotGet → Prop
  | .got s _ => Formed s
  | .wait s => Formed s
  | .full => True

protected theorem Formed.demandSlot (h : Formed s) : (demandSlot s p tid g).formed := by
  unfold demandSlot
  split
  · trivial
  · split
    · exact h
    · dsimp only
      split
      · exact (.evictClean h : Formed _)
      · split
        · exact (.tblCount (.evictClean h) : Formed _)
        · split
          · exact h
          · split
            · exact (.evictDirty h : Formed _)
            · split
              · exact h
              · split
                · trivial
                · exact h

protected theorem Formed.promoteStore (h : Formed s) : Formed (promoteStore s p tid row).1 := by
  unfold promoteStore
  split
  · exact h
  · split
    · exact h
    · split
      · exact .dirRemove (.tblCount h)
      · exact .tblCount (.modTbl (.dirState (.recWrite (.chargeWrite h))))

protected theorem Formed.promoteFinish (h : Formed s) : Formed (promoteFinish s p tid row).1 := by
  unfold promoteFinish
  split
  · exact h
  · exact .promoteStore (.chargeRead (.countRec h))

protected theorem Formed.setMark {step : Nat} (h : Formed s) : Formed (setMark s t r step) := .dirMod h

protected theorem Formed.askDrizzle (h : Formed s) : Formed (askDrizzle s p tid g n) := by
  induction n generalizing s with
  | zero => exact h
  | succ n ih =>
    unfold askDrizzle
    split
    · exact h
    · exact .ite h (ih (.drizzleEvict h))

protected theorem Formed.serveHint {y : Hint} (h : Formed s) : Formed (serveHint s p y).1 := by
  unfold serveHint
  split
  · exact h
  · split
    · exact .iteBy Prod.fst (.modTbl (.setMark (.dirState h))) (.setMark h)
    · dsimp only
      split
      · exact .promoteInto h
      · split
        · exact .askDrizzle h
        · split
          · exact .promoteInto (.askDrizzle h)
          · exact .askDrizzle h

protected theorem Formed.warmOne (h : Formed s) : Formed (warmOne s p tid g r) := by
  unfold warmOne
  split
  · exact h
  · refine .ite ?_ h
    split
    · exact .promoteStore (.promoteInto h)
    · exact h

protected theorem Formed.warmPromote (h : Formed s) : Formed (warmPromote s p tid g) := by
  unfold warmPromote
  split
  · exact h
  · extract_lets
    split
    · exact .putTbl h
    · exact .ite h (.modTbl (.foldl (fun _ _ ht => .warmOne ht) (.foldl (fun _ _ ht => .chargeRead ht) h)))

protected theorem Formed.reserveMove (h : Formed s) : Formed (reserveMove s p tid) := by
  unfold reserveMove
  split
  · exact h
  · refine .foldl (fun _ _ ht => ?_) h
    split
    · exact ht
    · extract_lets
      split
      · exact ht
      · extract_lets
        split
        · exact ht
        · exact .ite (.putTbl (.dirMod (.recWrite ht))) ht

protected theorem Formed.sweepSlot {slot sh : Nat} (h : Formed s) : Formed (sweepSlot s p t slot sh) := by
  unfold sweepSlot
  extract_lets
  split
  · exact .chargeRead h
  · exact .ite (.ite (.ite (.chargeRead h) (.wrNow (.chargeWrite (.chargeRead h))))
        (.dirMod (.ite (.chargeRead h) (.wrNow (.chargeWrite (.chargeRead h)))))) (.chargeRead h)

protected theorem Formed.runSweep (h : Formed s) : Formed (runSweep s p tid g) := by
  unfold runSweep
  split
  · exact h
  · split
    · exact h
    · exact .modTbl (.foldl (fun _ _ ht => .sweepSlot ht) h)

protected theorem Formed.mergeRange (h : Formed s) : Formed (mergeRange s p tid) := by
  unfold mergeRange
  split
  · exact h
  · split
    · exact h
    · exact h
    · extract_lets
      split
      · exact h
      · exact .ite (.trimRange
            (.putTbl (.programPages (.winAdd (.charge (.foldl (fun _ _ ht => .memWrite (.chargeRead (.countRec ht))) h))))))
            (.putTbl (.programPages (.winAdd (.charge (.foldl (fun _ _ ht => .memWrite (.chargeRead (.countRec ht))) h)))))

protected theorem Formed.refillAll (h : Formed s) : Formed (refillAll s) := .foldl (fun _ _ ht => ht) h

protected theorem Formed.capStack {k : Stack} (h : Formed s) : Formed (capStack s i k) := by
  unfold capStack
  split
  · exact .ite (.putStack h) (.count (.putStack h))
  · exact .putStack h

protected theorem Formed.dramReport {t : ℤ} (h : Formed s) : Formed (dramReport s i t) := by
  unfold dramReport
  refine .ite (.capStack h) ?_
  split
  · exact .ite (.raiseM (.capStack h)) (.capStack h)
  · exact .ite (.capStack h) (.raiseM (.capStack h))
  · exact .raiseM (.capStack h)
  · exact .capStack h

protected theorem Formed.flashReport {t : ℤ} (h : Formed s) : Formed (flashReport s i t) := .capStack h

end Sys2Proof.Machine
end

section
/-! PROOFS. The form through the vector engine, row updates, lookups and the DMA channels. -/

namespace Sys2Proof.Machine

variable {s s0 : State} {p : Part} {w : VWord} {n i k tid row addr g c step round src blk a o : Nat}
variable {e : TEntry} {t : Table} {op : VOp} {b bs : List Byte} {m : RMsg} {j : Job} {r : DescRun}
variable {plan raw : Bool}

protected theorem Formed.tileWrite {fmt lo : Nat} {f : Nat → Nat → Elem} (h : Formed s) : Formed (tileWrite s p w fmt lo n f) :=
  .vecReport h

protected theorem Formed.tileFull {fmt : Nat} {f : Nat → Nat → Elem} (h : Formed s) : Formed (tileFull s p w fmt f) := .tileWrite h

protected theorem Formed.touchTile {write : Bool} (h : Formed s) : Formed (touchTile s e w write) := .touchBlock h

protected theorem Formed.vldLane (h : Formed s) : Formed (vldLane s e w) :=
  .foldl (fun _ _ ht => .ite (.laneSet ht) (.laneSet (.takeFree ht))) h

protected theorem Formed.vldRun (h : Formed s) : Formed (vldRun s p w) :=
  .ite (.foldl (fun _ _ ht => .maskRow ht)
      (.iteBy Prod.snd (.takeFree (.ite (.vldLane (.setVec (.touchTile h))) (.setVec (.touchTile h))))
      (.ite (.vldLane (.setVec (.touchTile h))) (.setVec (.touchTile h)))))
      (.ite (.vldLane (.setVec (.touchTile h))) (.setVec (.touchTile h)))

protected theorem Formed.vstRow (h : Formed s) : Formed (vstRow s e w i) :=
  .ite (.wr (.ite (.foldl (fun _ _ ht => .ite (.wr ht) ht) h) (.wr h))) (.ite (.foldl (fun _ _ ht => .ite (.wr ht) ht) h) (.wr h))

protected theorem Formed.vstRun (h : Formed s) : Formed (vstRun s p w) := .foldl (fun _ _ ht => .ite (.vstRow ht) ht) (.touchTile h)

protected theorem Formed.vmovRun (h : Formed s) : Formed (vmovRun s p w) := .setVec (.tileFull h)

protected theorem Formed.vbcRun (h : Formed s) : Formed (vbcRun s p w) := .tileFull h

protected theorem Formed.vtrRun (h : Formed s) : Formed (vtrRun s p w) := .tileFull h

protected theorem Formed.vgthRun (h : Formed s) : Formed (vgthRun s p w) := .tileFull h

protected theorem Formed.vselRun (h : Formed s) : Formed (vselRun s p w) := .tileFull h

protected theorem Formed.maskWrite {f : Nat → Nat → Bool} (h : Formed s0) : Formed (maskWrite s0 w n f) :=
  .foldl (fun _ _ ht => .maskRow ht) (.iteBy Prod.snd (.takeFree h) h)

protected theorem Formed.vmskRun (h : Formed s) : Formed (vmskRun s w) := .maskWrite h

protected theorem Formed.vmcmpRun (h : Formed s) : Formed (vmcmpRun s w) := by
  unfold vmcmpRun
  extract_lets
  exact .maskWrite (.iteBy Prod.snd (.takeFree h) h)

protected theorem Formed.vmlogRun (h : Formed s) : Formed (vmlogRun s w) := .maskWrite h

protected theorem Formed.elementwise {f : Num → Num → Num → Res} (h : Formed s) : Formed (elementwise s p w f) := .tileFull h

protected theorem Formed.polyRun {f : Num → Cnum} (h : Formed s) : Formed (polyRun s p w f) := .tileFull h

protected theorem Formed.vactRun (h : Formed s) : Formed (vactRun s p w) := .polyRun h

protected theorem Formed.vactdRun (h : Formed s) : Formed (vactdRun s p w) := .tileFull h

protected theorem Formed.vnrmRun (h : Formed s) : Formed (vnrmRun s p w) := .tileFull h

protected theorem Formed.vnrmbRun (h : Formed s) : Formed (vnrmbRun s p w) := .tileFull h

protected theorem Formed.vsmxRun (h : Formed s) : Formed (vsmxRun s p w) := .tileFull h

protected theorem Formed.vsmxbRun (h : Formed s) : Formed (vsmxbRun s p w) := .tileFull h

protected theorem Formed.redInto {t ci : Nat} {acc : Bool} {vs : List (Option Num)} (h : Formed s) :
    Formed (redInto s t ci op acc k vs).1 :=
  .tileSet h

protected theorem Formed.redRun (h : Formed s0) : Formed (redRun s0 p w op) :=
  .vecReport (.foldlBy Prod.fst (fun _ _ ht => .redInto ht) h)

protected theorem Formed.lossSums {loss : Nat → Nat → Cnum} (h1 : Formed s) : Formed (lossSums s0 s p w loss) :=
  .vecReport (.foldlBy Prod.fst (fun _ _ ht1 => .redInto ht1) h1)

protected theorem Formed.vbceRun (h : Formed s) : Formed (vbceRun s p w) := .lossSums (.tileFull h)

protected theorem Formed.vmseRun (h : Formed s) : Formed (vmseRun s p w) := .lossSums (.tileFull h)

protected theorem Formed.convRun {shape : Nat} (h : Formed s) : Formed (convRun s p w shape) := .tileWrite h

protected theorem Formed.vcvtRun (h : Formed s) : Formed (vcvtRun s p w) := .convRun h

protected theorem Formed.vdqRun (h : Formed s) : Formed (vdqRun s p w) := .convRun h

protected theorem Formed.vqntRun (h : Formed s) : Formed (vqntRun s p w) := .vecReport h

protected theorem Formed.vrndRun (h : Formed s) : Formed (vrndRun s p w) := .tileFull h

protected theorem Formed.vdrpRun (h : Formed s) : Formed (vdrpRun s p w) :=
  .ite (.tileFull h) (.foldl (fun _ _ ht => .maskRow ht) (.iteBy Prod.snd (.takeFree (.tileFull h)) (.tileFull h)))

protected theorem Formed.vecEffect (h : Formed s) : Formed (vecEffect s p op w) := by
  unfold vecEffect
  split
  · exact h
  · exact .vldRun h
  · exact .vstRun h
  · exact .vmovRun h
  · exact .vbcRun h
  · exact .vtrRun h
  · exact .vgthRun h
  · exact .vselRun h
  · exact .vmskRun h
  · exact .vmcmpRun h
  · exact .vmlogRun h
  · exact .elementwise h
  · exact .elementwise h
  · exact .elementwise h
  · exact .elementwise h
  · exact .elementwise h
  · exact .elementwise h
  · exact .elementwise h
  · exact .elementwise h
  · exact .elementwise h
  · exact .elementwise h
  · exact .elementwise h
  · exact .polyRun h
  · exact .polyRun h
  · exact .polyRun h
  · exact .vactRun h
  · exact .vactdRun h
  · exact .vnrmRun h
  · exact .vnrmbRun h
  · exact .vsmxRun h
  · exact .vsmxbRun h
  · exact .vbceRun h
  · exact .vmseRun h
  · exact .vcvtRun h
  · exact .vqntRun h
  · exact .vdqRun h
  · exact .vrndRun h
  · exact .vdrpRun h
  · exact .redRun h
  · exact .redRun h
  · exact .redRun h
  · exact .redRun h
  · exact .redRun h

protected theorem Formed.shadowCopy (h : Formed s) : Formed (shadowCopy s p tid row t b).1 := by
  unfold shadowCopy
  split
  · exact h
  · exact .iteBy Prod.fst (.wrNow (.putTbl h)) (.putTbl h)

protected theorem Formed.applyUpdate {g : List Num} (h : Formed s) : Formed (applyUpdate s p tid row addr t g b) :=
  .ite (.raise (.tally (.ite (.recWrite (.shadowCopy h)) (.xorDigest (.recWrite (.shadowCopy h))))))
      (.tally (.ite (.recWrite (.shadowCopy h)) (.xorDigest (.recWrite (.shadowCopy h)))))

protected theorem Formed.lostUpdate (h : Formed s) : Formed (lostUpdate s p tid row addr) := .tblCount (.history (.raise h))

protected theorem Formed.rowUpdate {g : List Num} (h : Formed s) : Formed (rowUpdate s p tid row g) := by
  unfold rowUpdate
  split
  · exact h
  · split
    · exact h
    · refine .ite (.tblCount h) ?_
      extract_lets
      split
      · exact .lostUpdate (.count (.chargeWrite (.chargeRead (.countRec h))))
      · exact .applyUpdate (.chargeWrite (.chargeRead (.countRec h)))

protected theorem Formed.batchEnd {c : Cmd} {code : Nat} (h : Formed s) : Formed (batchEnd s c p code step) := .complete (.raiseF h)

protected theorem Formed.batchStart {c : Cmd} {len : Nat} {chan : ChanNum} (h : Formed s) : Formed (batchStart s c len step chan) := by
  unfold batchStart
  extract_lets
  split
  · exact .batchEnd h
  · exact .ite (.batchEnd (.modJob h)) (.ite (.rejectCmd (.modJob h)) (.ite (.batchEnd (.modJob h)) (.modJob (.putPort (.modJob h)))))

protected theorem Formed.batchDone {status : Nat} {data : List Byte} (h : Formed s) : Formed (batchDone s p step status data) := by
  unfold batchDone
  split
  · exact h
  · split
    · exact h
    · exact .ite (.complete (.modJob (.putPort h)))
          (.ite (.batchEnd (.wr (.countMem (.winAdd (.count (.modJob (.putPort h)))))))
          (.ite (.batchEnd (.wr (.countMem (.winAdd (.count (.modJob (.putPort h)))))))
          (.complete (.modJob (.setSortOrder (.wr (.countMem (.winAdd (.count (.modJob (.putPort h)))))))))))

protected theorem Formed.sortBegin {su : Nat} (h : Formed s) : Formed (sortBegin s su p step g tid) :=
  .ite (.setSorts (.ite (.count h) (.count h))) h

protected theorem Formed.sendRound {dst left : Nat} {body : List Byte} (h : Formed s) :
    Formed (sendRound s p dst g round n left body) := by
  unfold sendRound
  split
  · exact h
  · exact .sendTo h

protected theorem Formed.staleMsg {kind : Nat} (h : Formed s) : Formed (staleMsg s p src kind) := .raise h

protected theorem Formed.badFormat {what : Nat} (h : Formed s) : Formed (badFormat s p src what) := .report (.raise h)

protected theorem Formed.modRunS {f : LkpRun → LkpRun} (h : Formed s) : Formed (modRunS s p g f) := .modJob h

protected theorem Formed.sendIndex (h : Formed s) : Formed (sendIndex s p g) := by
  unfold sendIndex
  split
  · exact h
  · exact .foldl (fun _ _ ht => .sendRound (.sendRound ht)) h

protected theorem Formed.lkgIndex (h : Formed s) : Formed (lkgIndex s p g) := by
  unfold lkgIndex
  split
  · exact h
  · exact .sendIndex (.modJob (.foldl (fun _ _ ht => .count ht) h))

protected theorem Formed.indexArrive (h : Formed s) : Formed (indexArrive s p m) := by
  unfold indexArrive
  split
  · exact h
  · exact .ite (.staleMsg h) (.ite h (.ite (.badFormat h) (.modRunS h)))

protected theorem Formed.pinRow {frz bad : Bool} (h : Formed s) : Formed (pinRow s p tid row addr frz bad) := .modTbl h

protected theorem Formed.failedRecord {e : Nat} (h : Formed s) : Formed (failedRecord s p tid row addr e) :=
  .report (.modJob (.history (.raise (.count h))))

protected theorem Formed.fetchAt {train : Bool} (h : Formed s) : Formed (fetchAt s p t row addr train).2 := by
  unfold fetchAt
  extract_lets
  split
  · exact .ite (.pinRow (.failedRecord (.chargeRead (.countRec h)))) (.failedRecord (.chargeRead (.countRec h)))
  · exact .ite (.wrNow (.ite (.pinRow (.chargeRead (.countRec h))) (.chargeRead (.countRec h))))
        (.ite (.pinRow (.chargeRead (.countRec h))) (.chargeRead (.countRec h)))

/-- The state that a fetch leaves has the form. -/
def Fetch.formed : Fetch → Prop
  | .got _ s => Formed s
  | .wait s => Formed s
  | .shut s => Formed s

protected theorem Formed.fetchAbsent (h : Formed s) : (fetchAbsent s p t row).formed := by
  have hd := Formed.demandSlot (p := p) (tid := t.desc.tid) (g := t.desc.eng row) h
  unfold fetchAbsent
  dsimp only
  revert hd
  cases demandSlot s p t.desc.tid (t.desc.eng row) with
  | got s x => exact fun hd => (.promoteInto hd : Formed _)
  | wait s => exact id
  | full => exact fun _ => (.report (.raise h) : Formed _)

protected theorem Formed.fetchRow {train : Bool} (h : Formed s) :
    (fetchRow s p t row train).formed := by
  unfold fetchRow
  extract_lets home read
  have hread {u : State} (hu : Formed u) (v : Table) (a : Nat) (train : Bool) : (read u v a train).formed := by
    unfold read
    split
    · exact (.fetchAt hu : Formed _)
    · exact (.noteWait hu : Formed _)
  split
  · exact h
  · split
    · exact h
    · split
      · exact hread h ..
      · split
        · extract_lets slot
          split
          · exact hread h ..
          · split
            · exact h
            · exact hread h ..
          · split
            · exact hread (.modTbl (.dirState h)) ..
            · exact hread h ..
        · split
          · exact h.fetchAbsent
          · exact hread h ..

protected theorem Formed.returnPay (h : Formed s) : Formed (returnPay s p g src round) := by
  unfold returnPay
  split
  · exact h
  · split
    · exact h
    · exact .ite h (.ite (.modRunS (.modRunS h)) (.sendRound (.modRunS h)))

protected theorem Formed.setPay {b : Option (List Byte)} (h : Formed s) : Formed (setPay s p g src round k b) := .modRunS h

protected theorem Formed.ownerFetch (h : Formed s) : Formed (ownerFetch s p g src round k) := by
  unfold ownerFetch
  split
  · exact h
  · split
    · exact h
    · split
      · split
        · exact h
        · split
          · next hf => exact .returnPay (.setPay (hf ▸ Formed.fetchRow h :))
          · next hf => exact (hf ▸ Formed.fetchRow h :)
          · next hf =>
            have ht : Formed _ := (hf ▸ Formed.fetchRow h :)
            exact .setPay (.ite ht (.tblCount ht))
      · exact h

protected theorem Formed.failWaits (h : Formed s) : Formed (failWaits s p tid row) := by
  unfold failWaits
  split
  · exact .foldl (fun _ _ ht => .returnPay (.setPay (.failedRecord ht))) h
  · exact h

protected theorem Formed.rerunWaits (h : Formed s) : Formed (rerunWaits s p tid row) := by
  unfold rerunWaits
  split
  · exact h
  · exact .foldl (fun _ _ ht => .ownerFetch ht) h

protected theorem Formed.promotionEnd (h : Formed s) : Formed (promotionEnd s p tid row) := by
  unfold promotionEnd
  split
  · exact h
  · split
    · exact .whenOpen h (fun _ ht => .ite (.rerunWaits (.promoteFinish ht)) (.failWaits (.promoteFinish ht)))
    · exact h

protected theorem Formed.spillPull (h : Formed s) : Formed (spillPull s p g src) := by
  unfold spillPull
  split
  · exact h
  · exact .ite h (.ite (.sendRound (.modRunS (.raise (.foldl (fun _ _ ht => .tblCount ht) h))))
        (.ite (.sendRound (.modRunS (.report h))) (.ite (.sendRound (.modRunS (.raise (.foldl (fun _ _ ht => .tblCount ht) h)))) h)))

protected theorem Formed.payloadArrive (h : Formed s) : Formed (payloadArrive s p m) := by
  unfold payloadArrive
  split
  · exact h
  · exact .ite (.staleMsg h) (.ite (.badFormat h) (.modRunS h))

protected theorem Formed.readBags {k : Lk} (h : Formed s) : Formed (readBags s j k) := by
  unfold readBags
  split
  · exact h
  · exact .ite (.spdAccess (.spdAccess h)) (.spdAccess h)

protected theorem Formed.readRow (h : Formed s) : Formed (readRow s p blk e i n) := .rdChecked (.chargeMem h)

protected theorem Formed.writeRow (h : Formed s) : Formed (writeRow s p blk a b) := .wrChecked (.chargeMem h)

protected theorem Formed.outRow {k : Lk} {xs : List Res} (h : Formed s) : Formed (outRow s p k e blk i xs) :=
  .ite (.foldl (fun _ _ ht => .tally (.writeRow (.writeRow ht))) h) (.tally (.writeRow h))

protected theorem Formed.poolFeature {pays : List (Nat × Nat × List Byte)} {k : Lk} (h : Formed s) :
    Formed (poolFeature s p j pays k) := by
  unfold poolFeature
  split
  · exact h
  · exact .foldlBy Prod.fst
        (fun _ _ ht => .ite (.foldl (fun _ _ ht1 => .outRow ht1) (.ite ht (.tblCount ht))) (.tally (.outRow (.ite ht (.tblCount ht)))))
        (.readBags h)

protected theorem Formed.poolGroup (h : Formed s) : Formed (poolGroup s p g) := by
  unfold poolGroup
  split
  · exact h
  · exact .ite (.modRunS (.foldl (fun _ _ ht => .poolFeature ht) h)) h

protected theorem Formed.partialOf {xs : List RowPos} (h : Formed s) : Formed (partialOf s p j tid row xs).2 := by
  unfold partialOf
  split
  · exact h
  · exact .iteBy Prod.snd (.reportGrid (.tally (.foldl (fun _ _ ht => .readRow ht) h)))
        (.ite (.report (.tally (.foldl (fun _ _ ht => .readRow ht) h))) (.tally (.foldl (fun _ _ ht => .readRow ht) h)))

protected theorem Formed.partialsFor {pos : List (Nat × List (Nat × RowPos))} {ents : List SplitEnt} (h : Formed s) :
    Formed (partialsFor s p j pos ents).2.2 :=
  .foldlBy (Prod.snd ∘ Prod.snd) (fun _ _ ht => .partialOf ht) h

protected theorem Formed.sendPartials {dst : Nat} (h : Formed s) : Formed (sendPartials s p g dst round) := by
  unfold sendPartials
  split
  · exact h
  · exact .ite (.modRunS (.partialsFor h)) (.sendRound (.partialsFor h))

protected theorem Formed.lkgPartials (h : Formed s) : Formed (lkgPartials s p g) := by
  unfold lkgPartials
  split
  · exact h
  · exact .foldl (fun _ _ ht => .sendPartials (.sendPartials ht)) (.sendPartials (.modRunS h))

protected theorem Formed.ownerSum {r : LkpRun} (h : Formed s) : Formed (ownerSum s p j tid row r).2 := by
  unfold ownerSum
  split
  · exact h
  · exact .iteBy Prod.snd (.ite (.report (.reportGrid (.tally h))) (.reportGrid (.tally h))) (.ite (.report (.tally h)) (.tally h))

protected theorem Formed.sumGroup (h : Formed s) : Formed (sumGroup s p g) := by
  unfold sumGroup
  split
  · exact h
  · exact .ite (.modRunS (.foldlBy Prod.snd (fun _ _ ht => .ownerSum ht) h)) h

protected theorem Formed.lkgSums (h : Formed s) : Formed (lkgSums s p g) := .sumGroup (.modRunS h)

protected theorem Formed.gradArrive (h : Formed s) : Formed (gradArrive s p m) := by
  unfold gradArrive
  split
  · exact h
  · refine .ite (.staleMsg h) ?_
    split
    · exact .badFormat h
    · exact .ite (.badFormat h) (.sumGroup (.modRunS h))

protected theorem Formed.spillArrive {kind : RKind} (h : Formed s) : Formed (spillArrive s p kind m) := by
  unfold spillArrive
  split
  · exact h
  · refine .ite (.staleMsg h) (.ite ?_ ?_)
    · extract_lets
      split
      · exact .sendPartials h
      · exact .sendRound h
    · split
      · exact .indexArrive h
      · exact .payloadArrive h
      · exact .gradArrive h

protected theorem Formed.lkgUpdates (h : Formed s) : Formed (lkgUpdates s p g) := by
  unfold lkgUpdates
  split
  · exact h
  · exact .ite h (.foldl (fun _ _ ht => .ite (.modTbl ht) ht) (.modRunS h))

protected theorem Formed.updateRow (h : Formed s) : Formed (updateRow s p g tid row) := by
  unfold updateRow
  split
  · exact h
  · refine .ite ?_ h
    split
    · exact h
    · exact .whenOpen h (fun _ ht => .modRunS (.rowUpdate ht))

protected theorem Formed.hintArrive (h : Formed s) : Formed (hintArrive s p m) := by
  unfold hintArrive
  split
  · exact h
  · refine .foldl (fun _ _ ht => ?_) h
    split
    · exact ht
    · exact .ite (.modJob ht) (.tblCount ht)

protected theorem Formed.sendHints (h : Formed s) : Formed (sendHints s p step g) := by
  unfold sendHints
  split
  · exact h
  · exact .foldl (fun _ _ ht => .ite ht (.ite (.hintArrive ht) (.sendTo ht))) h

protected theorem Formed.readLists {w : SortJob} (h : Formed s) : Formed (readLists s j w) := by
  unfold readLists
  refine .foldl (fun _ _ ht => ?_) h
  split
  · exact ht
  · exact .spdAccess ht

protected theorem Formed.sortEnd {su : Nat} (h : Formed s) : Formed (sortEnd s su) := by
  unfold sortEnd
  split
  · exact h
  · refine .ite h ?_
    extract_lets
    split
    · exact h
    · refine .ite h ?_
      extract_lets
      split
      · exact .modJob (.readLists h)
      · exact .ite (.foldl (fun _ _ ht => .sendHints ht) (.modJob (.readLists h))) (.modJob (.readLists h))

protected theorem Formed.hintServe (h : Formed s) : Formed (hintServe s p) := by
  unfold hintServe
  split
  · exact h
  · split
    · exact h
    · exact .ite (.modJob (.serveHint h)) (.serveHint h)

protected theorem Formed.putChan {v : Chan} (h : Formed s) : Formed (putChan s c v) := h

protected theorem Formed.scramble (h : Formed s) : Formed (scramble s a n) := .wr (.takeFree h)

protected theorem Formed.readPiece (h : Formed s) : Formed (readPiece s p plan raw blk a n o).2 :=
  .iteBy Prod.snd (.chargeMem h) (.rdChecked (.chargeMem h))

protected theorem Formed.writeT3 (h : Formed s) : Formed (writeT3 s p a bs o).1 := by
  unfold writeT3
  refine .foldlBy Prod.fst (fun _ _ ht => ?_) h
  split
  · exact ht
  · exact .iteBy Prod.fst (.raiseM ht) (.healPages (.programPages (.memWrite (.winAdd (.charge ht)))))

protected theorem Formed.writePiece (h : Formed s) : Formed (writePiece s p plan raw blk a bs o).1 := by
  unfold writePiece
  extract_lets
  split
  · exact .writeT3 (.chargeMem h)
  · exact .iteBy Prod.fst (.wr (.chargeMem h)) (.wrChecked (.chargeMem h))

protected theorem Formed.readRange {w len : Nat} (h : Formed s) : Formed (readRange s p plan raw blk a w len).2 :=
  .foldlBy Prod.snd (fun _ _ ht => .readPiece ht) h

protected theorem Formed.writeRange {w : Nat} (h : Formed s) : Formed (writeRange s p plan raw blk a w bs).1 :=
  .foldlBy (Prod.fst ∘ Prod.fst) (fun _ _ ht => .writePiece ht) h

protected theorem Formed.portBytes {pb write : Bool} (h : Formed s) : Formed (portBytes s p pb n write) := .winAdd (.count h)

protected theorem Formed.hostRange {pb : Bool} {w : Nat} (h : Formed s) : Formed (hostRange s p pb a w bs) :=
  .portBytes (.foldlBy Prod.fst (fun _ _ ht => .hostWrite ht) h)

protected theorem Formed.setRun {r' : DescRun} (h : Formed s) : Formed (setRun s c r r') := .putChan h

protected theorem Formed.startRun {opc : Nat} {f : State → DescRun → State × Option Nat × Nat} (h : Formed s)
    (hf : ∀ t x0, Formed t → Formed (f t x0).1) :
    Formed (startRun s c opc f) := by
  unfold startRun
  refine .ite h ?_
  split
  · exact h
  · refine .ite h (.ite h (.whenOpen h (fun _ ht => ?_)))
    extract_lets
    split
    · exact .setRun (.ite (.raise (.count ht)) (.count ht))
    · exact .setRun (hf _ _ (.count ht))

protected theorem Formed.dmaCopy {data : List Byte} {fail : Option Nat} (h : Formed s) : Formed (dmaCopy s c data fail) := by
  unfold dmaCopy
  refine .startRun h (fun _ _ ht => .iteBy Prod.fst ?_ (.hostRange (.iteBy Prod.snd (.readRange ht) (.portBytes ht))))
  dsimp only
  split
  · exact .foldl (fun _ _ ht1 => .scramble ht1) (.writeRange (.iteBy Prod.snd (.readRange ht) (.portBytes ht)))
  · exact .writeRange (.iteBy Prod.snd (.readRange ht) (.portBytes ht))

protected theorem Formed.dmaFill (h : Formed s) : Formed (dmaFill s c) := by
  unfold dmaFill
  refine .startRun h (fun _ _ ht => .iteBy Prod.fst ?_ (.hostRange ht))
  dsimp only
  split
  · exact .ite (.writeRange ht) (.foldl (fun _ _ ht1 => .scramble ht1) (.writeRange ht))
  · exact .writeRange ht

protected theorem Formed.dmaNone {opc : Nat} (h : Formed s) : Formed (dmaNone s c opc) := .startRun h (fun _ _ ht => ht)

protected theorem Formed.dmaExpdst (h : Formed s) : Formed (dmaExpdst s c) := .startRun h (fun _ _ ht => ht)

protected theorem Formed.descFetch {d : BitVec 512} (h : Formed s) : Formed (descFetch s c d) := by
  unfold descFetch
  extract_lets
  split
  · exact h
  · exact .ite h (.ite (.putChan (.putRing h)) (.raiseF (.putChan (.putRing h))))

protected theorem Formed.descFetchFail (h : Formed s) : Formed (descFetchFail s c) := by
  unfold descFetchFail
  split
  · exact h
  · exact .ite (.raiseF (.putRing h)) h

protected theorem Formed.transferComplete (h : Formed s) : Formed (transferComplete s c) := by
  unfold transferComplete
  extract_lets
  split
  · exact h
  · extract_lets
    split
    · exact .ite (.putChan (.ite (.raiseF (.ite h (.count h)))
          (.ite (.raiseF (.ite h (.count h))) (.ite (.raiseF (.ite h (.count h))) (.ite h (.count h))))))
          (.raise (.report (.putChan
          (.ite (.raiseF (.ite h (.count h)))
          (.ite (.raiseF (.ite h (.count h))) (.ite (.raiseF (.ite h (.count h))) (.ite h (.count h))))))))
    · exact .setRun (.ite (.raiseF (.ite h (.count h)))
          (.ite (.raiseF (.ite h (.count h))) (.ite (.raiseF (.ite h (.count h))) (.ite h (.count h)))))

protected theorem Formed.flushWindows (h : Formed s) : Formed (flushWindows s) := h

protected theorem Formed.claspFlush {ok : Bool} (h : Formed s) : Formed (claspFlush s c ok) := by
  unfold claspFlush
  extract_lets
  split
  · exact h
  · exact .ite (.raiseF (.setRun (.ite h (.flushWindows h)))) (.setRun (.ite h (.flushWindows h)))

protected theorem Formed.dcqEntry {v : Chan} {rn st : Nat} (h : Formed s) : Formed (dcqEntry s v rn r st) := .ite (.ringWrite h) h

protected theorem Formed.writeStatus {rn : Nat} (h : Formed s) : Formed (writeStatus s c rn r) := .dcqEntry (.hostWrite (.hostWrite h))

protected theorem Formed.statusWrite (h : Formed s) : Formed (statusWrite s c) := by
  unfold statusWrite
  extract_lets
  split
  · exact h
  · split
    · exact h
    · exact .ite (.putChan (.writeStatus h)) h

protected theorem Formed.endRuns {status : Nat} (h : Formed s) : Formed (endRuns s c status) := by
  unfold endRuns
  refine .foldl (fun _ _ ht => ?_) (.putChan h)
  split
  · exact ht
  · exact .ite (.putPort ht) (.writeStatus ht)

protected theorem Formed.cutRuns (h : Formed s) : Formed (cutRuns s c) :=
  .foldl (fun _ _ ht => .ite (.foldl (fun _ _ ht1 => .scramble ht1) ht) ht) h

protected theorem Formed.queueDesc (h : Formed s) : Formed (queueDesc s p k c) := by
  unfold queueDesc
  split
  · exact h
  · exact .ite (.putChan h) h

end Sys2Proof.Machine
end

section
/-! PROOFS. The form through the gradient exchange, table commands and streams. -/

namespace Sys2Proof.Machine

variable {s : State} {p : Part} {e blk first n d u len lo tid a : Nat} {t : Table} {x : XEntry} {j : Job}
variable {c : Cmd} {m : DMsg} {v : DomReq}

protected theorem Formed.modXrun {f : XRun → XRun} (h : Formed s) : Formed (modXrun s p e f) := .modJob h

protected theorem Formed.readFlat {t : TEntry} (h : Formed s) : Formed (readFlat s p blk t first n).2 :=
  .foldl (fun _ _ ht => .rdChecked (.chargeMem ht)) h

protected theorem Formed.writeFlat {t : TEntry} {vs : List Nat} (h : Formed s) : Formed (writeFlat s p blk t first vs) :=
  .foldl (fun _ _ ht => .wrChecked (.chargeMem ht)) h

protected theorem Formed.readSpans {inPlan : Bool} {l : List (Nat × Nat)} (h : Formed s) : Formed (readSpans s p inPlan blk l) :=
  .foldl (fun _ _ ht => .rdChecked (.chargeMem ht)) h

protected theorem Formed.writeSpans {inPlan : Bool} {l : List (Nat × Nat)} {bs : List Byte} (h : Formed s) :
    Formed (writeSpans s p inPlan blk l bs) := by
  induction l generalizing s bs with
  | nil => exact h
  | cons r l ih => exact ih (.wrChecked (.chargeMem h))

protected theorem Formed.sendDense {dst kind entry units : Nat} {body : List Byte} (h : Formed s) :
    Formed (sendDense s p dst kind entry first units body) := by
  unfold sendDense
  split
  · exact h
  · exact .sendTo h

protected theorem Formed.keepDense {d : DenseIn} (h : Formed s) : Formed (keepDense s p d) := .modJob h

protected theorem Formed.quantUnit {ident : Nat} {rt : TEntry} {off : Nat} {vs : List Num} (h : Formed s) :
    Formed (quantUnit s p x u ident rt off vs).2 :=
  .ite (.report (.tally (.writeFlat h))) (.tally (.writeFlat h))

protected theorem Formed.rqUnit (h : Formed s) : Formed (rqUnit s p j e x u).2 := .quantUnit (.readFlat (.readFlat h))

protected theorem Formed.rqCodes (h : Formed s) : Formed (rqCodes s p j x u).2 :=
  .ite (.reportGrid (.foldlBy Prod.snd (fun _ _ ht => .readFlat ht) h)) (.foldlBy Prod.snd (fun _ _ ht => .readFlat ht) h)

protected theorem Formed.rqBody (h : Formed s) : Formed (rqBody s p j e x first len).2 :=
  .iteBy Prod.snd (.foldlBy Prod.snd (fun _ _ ht => .rqCodes ht) h) (.foldlBy Prod.snd (fun _ _ ht => .rqUnit ht) h)

protected theorem Formed.podUnit {c : Nat × Nat} (h : Formed s) : Formed (podUnit s p j e x c u).2 := .quantUnit (.readFlat h)

protected theorem Formed.podCodes (h : Formed s) : Formed (podCodes s p j e x u).2 := .ite (.reportGrid h) h

protected theorem Formed.podBuffer {c : Nat × Nat} (h : Formed s) : Formed (podBuffer s p j e x c).2 :=
  .iteBy Prod.snd (.foldlBy Prod.snd (fun _ _ ht => .podCodes ht) h)
      (.iteBy Prod.snd (.foldlBy Prod.snd (fun _ _ ht => .podUnit ht) h) h)

protected theorem Formed.readUnits {c : Nat × Nat} {off : Nat} (h : Formed s) : Formed (readUnits s p j x c off first len) :=
  .foldl (fun _ _ ht => .readSpans ht) h

protected theorem Formed.xbufBody {c : Nat × Nat} (h : Formed s) : Formed (xbufBody s p j x c first len).2 :=
  .iteBy Prod.snd (.readUnits h) (.readUnits h)

protected theorem Formed.xbufMembers {c : Nat × Nat} (h : Formed s) : Formed (xbufMembers s p j e x c) :=
  .foldl (fun _ _ ht => .keepDense (.readUnits ht)) h

protected theorem Formed.noteChunks (h : Formed s) : Formed (noteChunks s p e) := .modJob h

protected theorem Formed.rfSend (h : Formed s) : Formed (rfSend s p e) := by
  unfold rfSend
  split
  · exact h
  · exact .ite h (.ite (.noteChunks (.xbufMembers h))
        (.foldl (fun _ _ ht => .ite ht (.ite (.noteChunks (.keepDense (.xbufBody ht))) (.sendDense (.xbufBody ht)))) h))

protected theorem Formed.rfFinish (h : Formed s) : Formed (rfFinish s p e) := by
  unfold rfFinish
  split
  · exact h
  · extract_lets
    split
    · exact h
    · exact .ite h (.modJob (.modXrun h))

protected theorem Formed.writeXbuf {c : Nat × Nat} {b : List Byte} (h : Formed s) : Formed (writeXbuf s p j x c b) :=
  .foldlBy Prod.snd (fun _ _ ht => .wrChecked ht)
      (.foldl (fun _ _ ht => .foldl (fun _ _ ht1 => .foldl (fun _ _ ht2 => .chargeMem ht2) ht1) ht) h)

protected theorem Formed.podReduce (h : Formed s) : Formed (podReduce s p e) := by
  unfold podReduce
  split
  · exact h
  · exact .ite h (.foldl (fun _ _ ht => .ite (.rfFinish (.rfSend ht)) ht) (.modXrun (.ite h (.writeXbuf (.podBuffer h)))))

protected theorem Formed.xchRq (h : Formed s) : Formed (xchRq s p e) := by
  unfold xchRq
  split
  · exact h
  · exact .ite h (.podReduce (.foldl (fun _ _ ht => .ite ht (.ite (.keepDense (.rqBody ht)) (.sendDense (.rqBody ht)))) (.modXrun h)))

protected theorem Formed.denseOk {kind xkind : Nat} {ok : Bool} (h : Formed s) :
    FormedOpt id (denseOk s p j m kind xkind ok) :=
  .ite (.some (.staleMsg h)) (.ite (.some h) (.ite (.some (.badFormat h)) .none))

protected theorem Formed.firstHop (h : Formed s) : Formed (firstHop s p m) := by
  unfold firstHop
  split
  · exact h
  · extract_lets
    split
    · next ht =>
        exact (.denseOk h _ ht)
    · exact .ite h (.podReduce (.keepDense (.ite (.report h) h)))

protected theorem Formed.spineHop (h : Formed s) : Formed (spineHop s p m) := by
  unfold spineHop
  split
  · exact h
  · extract_lets
    split
    · next ht =>
        exact (.denseOk h _ ht)
    · exact .ite h (.noteChunks (.keepDense (.ite (.report h) h)))

protected theorem Formed.unitGrads {hi : Nat} (h : Formed s) : Formed (unitGrads s p j e x lo hi u).2 := by
  unfold unitGrads
  refine .ite (.reportGrid (.tally ?_)) (.tally ?_)
  · split
    · exact .readFlat h
    · exact h
  · split
    · exact .readFlat h
    · exact h

protected theorem Formed.releaseChunk {c : Nat} (h : Formed s) : Formed (releaseChunk s p e c) := by
  unfold releaseChunk
  split
  · exact h
  · exact .ite h (.modXrun (.foldlBy Prod.snd (fun _ _ ht => .unitGrads ht) h))

protected theorem Formed.readVecs {lay : List Bool} {l : List (List (Nat × Nat))} (h : Formed s) : Formed (readVecs s p blk lay l).2 :=
  .readSpans h

protected theorem Formed.writeVecs {t : TEntry} {rnd : Bool} {own : Nat → Bool} {v : Nat}
    {l : List (Bool × List (Nat × Nat) × List Num)} (h : Formed s) : Formed (writeVecs s p blk t n lo rnd own v l) := by
  induction l generalizing s v with
  | nil => exact h
  | cons x l ih => exact ih (.ite (.writeSpans h) h)

protected theorem Formed.putCopy {ct : TEntry} {shift : Byte} {raws : List Nat} (h : Formed s) :
    Formed (putCopy s p blk x ct u shift raws) :=
  .ite (.wrChecked (.spdAccess (.writeFlat h))) (.writeFlat h)

protected theorem Formed.formCopy (h : Formed s) : Formed (formCopy s p j x blk u) := .tally (.putCopy (.readFlat h))

protected theorem Formed.readCopies (h : Formed s) : Formed (readCopies s p x first len) := .foldl (fun _ _ ht => .readSpans ht) h

protected theorem Formed.agSend {us : List Nat} (h : Formed s) : Formed (agSend s p j e us) :=
  .foldl (fun _ _ ht => .foldl (fun _ _ ht1 => .sendDense ht1) (.foldl (fun _ _ ht1 => .sendDense ht1) (.readCopies ht))) h

protected theorem Formed.lostChunk {c addr : Nat} (h : Formed s) : Formed (lostChunk s p e c addr) := .history (.raise h)

protected theorem Formed.applyChunk {c : Nat} {g : List W32} (h : Formed s) : Formed (applyChunk s p j e c g) :=
  .ite (.lostChunk (.readVecs (.readFlat h)))
      (.ite (.foldl (fun _ _ ht => .raise ht)
      (.tally (.writeVecs (.ite (.writeFlat (.readVecs (.readFlat h))) (.readVecs (.readFlat h))))))
      (.report (.foldl (fun _ _ ht => .raise ht)
      (.tally (.writeVecs (.ite (.writeFlat (.readVecs (.readFlat h))) (.readVecs (.readFlat h))))))))

protected theorem Formed.chunkUpdate {c : Nat} (h : Formed s) : Formed (chunkUpdate s p e c) := by
  unfold chunkUpdate
  split
  · exact h
  · extract_lets
    split
    · exact h
    · refine .ite h ?_
      extract_lets
      split
      · exact .modXrun (.applyChunk (.count h))
      · refine .rfFinish ?_
        split
        · exact .ite (.agSend (.foldl (fun _ _ ht => .formCopy ht) (.modXrun (.applyChunk (.count h)))))
              (.foldl (fun _ _ ht => .formCopy ht) (.modXrun (.applyChunk (.count h))))
        · exact .foldl (fun _ _ ht => .formCopy ht) (.modXrun (.applyChunk (.count h)))

protected theorem Formed.chunkStep {c : Nat} (h : Formed s) : Formed (chunkStep s p e c) := by
  unfold chunkStep
  split
  · exact h
  · exact .whenOpen h (fun _ ht => .chunkUpdate ht)

protected theorem Formed.xchRf (h : Formed s) : Formed (xchRf s p e) := by
  unfold xchRf
  split
  · exact h
  · exact .ite h (.rfFinish (.rfSend (.modXrun (.modJob h))))

protected theorem Formed.keepRfProducts {vetoed : Bool} (h : Formed s) : Formed (keepRfProducts s p vetoed) := by
  unfold keepRfProducts
  split
  · exact h
  · refine .foldl (fun _ _ ht => ?_) h
    split
    · exact ht
    · exact .ite (.modJob ht) (.wrNow (.modJob ht))

protected theorem Formed.xchAg (h : Formed s) : Formed (xchAg s p e) := by
  unfold xchAg
  split
  · exact h
  · exact .ite h (.agSend (.modXrun h))

protected theorem Formed.sendHash (h : Formed s) : Formed (sendHash s p e) := by
  unfold sendHash
  split
  · exact h
  · extract_lets
    split
    · exact h
    · exact .ite h (.foldl (fun _ _ ht => .sendDense ht) (.foldl (fun _ _ ht => .sendDense ht) (.modXrun (.readCopies h))))

protected theorem Formed.putShard {y : ShardIn} (h : Formed s) : Formed (putShard s p y) := .modJob h

protected theorem Formed.requestShard {dst units : Nat} (h : Formed s) : Formed (requestShard s p dst e first units) := by
  unfold requestShard
  split
  · exact h
  · exact .sendTo h

protected theorem Formed.dropShard {q : Nat} (h : Formed s) : Formed (dropShard s p e q) := .modJob h

protected theorem Formed.checkShard {q : Nat} (h : Formed s) : Formed (checkShard s p e q) := by
  unfold checkShard
  split
  · exact h
  · extract_lets
    split
    · exact h
    · exact .ite h (.ite (.ite (.dropShard h) (.putShard h))
          (.ite (.putShard (.history (.raise h)))
          (.ite (.requestShard (.putShard (.history (.count h)))) (.modJob (.report (.history (.raise (.putShard h))))))))

protected theorem Formed.gatherArrive {kind : Nat} (h : Formed s) : Formed (gatherArrive s p m kind) := by
  unfold gatherArrive
  split
  · exact h
  · extract_lets
    split
    · next ht =>
        exact (.denseOk h _ ht)
    · exact .checkShard (.ite (.foldl (fun _ _ ht => .sendDense ht) (.putShard (.foldl (fun _ _ ht => .putCopy ht) h)))
          (.putShard (.foldl (fun _ _ ht => .putCopy ht) h)))

protected theorem Formed.digestArrive (h : Formed s) : Formed (digestArrive s p m) := by
  unfold digestArrive
  split
  · exact h
  · extract_lets
    split
    · next ht =>
        exact (.denseOk h _ ht)
    · exact .checkShard (.ite (.foldl (fun _ _ ht => .sendDense ht) (.putShard h)) (.putShard h))

protected theorem Formed.rerequestArrive (h : Formed s) : Formed (rerequestArrive s p m) := by
  unfold rerequestArrive
  split
  · exact h
  · exact .ite (.staleMsg h) (.ite (.badFormat h) (.sendDense (.sendDense (.ite (.readCopies h) h))))

protected theorem Formed.refreshSuspects (h : Formed s) : Formed (refreshSuspects s p) := by
  unfold refreshSuspects
  split
  · exact h
  · exact .foldl (fun _ _ ht => .requestShard (.putShard ht)) h

protected theorem Formed.chainFill (h : Formed s) : Formed (chainFill s p e) := by
  unfold chainFill
  split
  · exact h
  · extract_lets
    split
    · exact h
    · exact .ite h (.modXrun (.foldl (fun _ _ ht => .writeFlat ht) h))

protected theorem Formed.xchCh (h : Formed s) : Formed (xchCh s p e) := by
  unfold xchCh
  split
  · exact h
  · exact .ite h (.ite (.chainFill (.modXrun h)) (.modXrun (.sendDense (.foldlBy Prod.snd (fun _ _ ht => .readFlat ht) h))))

protected theorem Formed.chainArrive (h : Formed s) : Formed (chainArrive s p m) := by
  unfold chainArrive
  split
  · exact h
  · extract_lets
    split
    · next ht =>
        exact (.denseOk h _ ht)
    · exact .chainFill (.keepDense h)

protected theorem Formed.xchStart (h : Formed s) : Formed (xchStart s p e) := by
  unfold xchStart
  split
  · exact h
  · extract_lets
    split
    · exact .xchRq (.ite (.count (.count h)) (.count h))
    · exact .xchRf (.ite (.count (.count h)) (.count h))
    · exact .xchAg (.ite (.count (.count h)) (.count h))
    · exact .xchCh (.ite (.count (.count h)) (.count h))

protected theorem Formed.denseDigests (h : Formed s) : Formed (denseDigests s p) := by
  unfold denseDigests
  split
  · exact h
  · exact .foldl (fun _ _ ht => .wrNow (.modJob (.readSpans ht))) h

protected theorem Formed.tblReject (h : Formed s) : Formed (tblReject s c tid) := .rejectCmd h

protected theorem Formed.updLock (h : Formed s) : Formed (updLock s p) := h

protected theorem Formed.startBuild (h : Formed s) : Formed (startBuild s p tid) := .modTbl h

protected theorem Formed.buildRow (h : Formed s) : Formed (buildRow s p tid e) := by
  unfold buildRow
  split
  · exact h
  · split
    · exact h
    · split
      · exact h
      · exact .whenOpen h (fun _ ht => .xorDigest (.modTbl (.chargeRead (.countRec ht))))

protected theorem Formed.buildSeal (h : Formed s) : Formed (buildSeal s p tid) := by
  unfold buildSeal
  split
  · exact h
  · split
    · exact .ite (.keepTbl h) h
    · exact h

protected theorem Formed.defineNow {d : Desc} (h : Formed s) : Formed (defineNow s p d) := by
  unfold defineNow
  refine .updLock (.ite (.startBuild ?_) ?_)
  · split
    · exact .memZero (.clearDigests (.keepTbl h))
    · exact .clearDigests (.keepTbl h)
  · split
    · exact .memZero (.clearDigests (.keepTbl h))
    · exact .clearDigests (.keepTbl h)

protected theorem Formed.stageTable {whole : Bool} {b area rows : Nat} (h : Formed s) :
    Formed (stageTable s c tid whole a b area rows) := by
  unfold stageTable
  extract_lets
  split
  · exact .rejectCmd h
  · exact .ite (.rejectCmd h) (.complete (.putTbl h))

protected theorem Formed.commitTable {target : Nat} (h : Formed s) : Formed (commitTable s c tid target) := by
  unfold commitTable
  extract_lets
  split
  · exact .rejectCmd h
  · split
    · exact .rejectCmd h
    · exact .ite (.rejectCmd h) (.putTbl h)

protected theorem Formed.checkStaged (h : Formed s) : Formed (checkStaged s p tid) := by
  unfold checkStaged
  split
  · split
    · exact h
    · refine .ite h (.whenOpen h (fun _ ht => ?_))
      extract_lets
      split
      · exact .complete (.raise (.putTbl (.foldl (fun _ _ ht1 => .chargeRead ht1) ht)))
      · exact .putTbl (.foldl (fun _ _ ht1 => .chargeRead ht1) ht)
  · exact h

protected theorem Formed.xorRows {d : Desc} {rows : List Nat} {addr : Nat → Nat} (h : Formed s) :
    Formed (xorRows s p tid d rows addr) :=
  .foldl (fun _ _ ht => .xorDigest ht) h

protected theorem Formed.dropResident {hi : Nat} (h : Formed s) : Formed (dropResident s p tid t lo hi).1 :=
  .foldl (fun _ _ ht => .dirRemove ht) h

protected theorem Formed.mergeAll (h : Formed s) : Formed (mergeAll s p tid n) := by
  induction n generalizing s with
  | zero => exact h
  | succ n ih =>
    unfold mergeAll
    split
    · exact h
    · exact ih (.mergeRange h)

protected theorem Formed.drainWbs (h : Formed s) : Formed (drainWbs s p tid n) := by
  induction n generalizing s with
  | zero => exact h
  | succ n ih => exact ih (.durable h)

protected theorem Formed.swapGen {g : Staged} (h : Formed s) : Formed (swapGen s p tid n t g c) := by
  unfold swapGen
  refine .complete (.raise
      (.foldl (fun _ _ ht => ?_)
      (.ite (.trimRange
      (.ite (.modTbl (.xorRows
      (.ite (.clearDigests (.keepTbl (.iteBy Prod.fst (.dropResident (.ite ?_ (.xorRows ?_))) (.ite ?_ (.xorRows ?_)))))
      (.keepTbl (.iteBy Prod.fst (.dropResident (.ite ?_ (.xorRows ?_))) (.ite ?_ (.xorRows ?_)))))))
      (.xorRows (.ite (.clearDigests (.keepTbl (.iteBy Prod.fst (.dropResident (.ite ?_ (.xorRows ?_))) (.ite ?_ (.xorRows ?_)))))
      (.keepTbl (.iteBy Prod.fst (.dropResident (.ite ?_ (.xorRows ?_))) (.ite ?_ (.xorRows ?_))))))))
      (.ite (.modTbl (.xorRows
      (.ite (.clearDigests (.keepTbl (.iteBy Prod.fst (.dropResident (.ite ?_ (.xorRows ?_))) (.ite ?_ (.xorRows ?_)))))
      (.keepTbl (.iteBy Prod.fst (.dropResident (.ite ?_ (.xorRows ?_))) (.ite ?_ (.xorRows ?_)))))))
      (.xorRows (.ite (.clearDigests (.keepTbl (.iteBy Prod.fst (.dropResident (.ite ?_ (.xorRows ?_))) (.ite ?_ (.xorRows ?_)))))
      (.keepTbl (.iteBy Prod.fst (.dropResident (.ite ?_ (.xorRows ?_))) (.ite ?_ (.xorRows ?_))))))))))
  · split
    · exact ht
    · split
      · exact .ite (.promoteInto ht) ht
      · exact ht
  · split
    · exact .mergeAll (.ite (.drainWbs h) h)
    · exact .ite (.drainWbs h) h
  · split
    · exact .mergeAll (.ite (.drainWbs h) h)
    · exact .ite (.drainWbs h) h
  · split
    · exact .mergeAll (.ite (.drainWbs h) h)
    · exact .ite (.drainWbs h) h
  · split
    · exact .mergeAll (.ite (.drainWbs h) h)
    · exact .ite (.drainWbs h) h
  · split
    · exact .mergeAll (.ite (.drainWbs h) h)
    · exact .ite (.drainWbs h) h
  · split
    · exact .mergeAll (.ite (.drainWbs h) h)
    · exact .ite (.drainWbs h) h
  · split
    · exact .mergeAll (.ite (.drainWbs h) h)
    · exact .ite (.drainWbs h) h
  · split
    · exact .mergeAll (.ite (.drainWbs h) h)
    · exact .ite (.drainWbs h) h
  · split
    · exact .mergeAll (.ite (.drainWbs h) h)
    · exact .ite (.drainWbs h) h
  · split
    · exact .mergeAll (.ite (.drainWbs h) h)
    · exact .ite (.drainWbs h) h
  · split
    · exact .mergeAll (.ite (.drainWbs h) h)
    · exact .ite (.drainWbs h) h
  · split
    · exact .mergeAll (.ite (.drainWbs h) h)
    · exact .ite (.drainWbs h) h
  · split
    · exact .mergeAll (.ite (.drainWbs h) h)
    · exact .ite (.drainWbs h) h
  · split
    · exact .mergeAll (.ite (.drainWbs h) h)
    · exact .ite (.drainWbs h) h
  · split
    · exact .mergeAll (.ite (.drainWbs h) h)
    · exact .ite (.drainWbs h) h
  · split
    · exact .mergeAll (.ite (.drainWbs h) h)
    · exact .ite (.drainWbs h) h
  · split
    · exact .mergeAll (.ite (.drainWbs h) h)
    · exact .ite (.drainWbs h) h
  · split
    · exact .mergeAll (.ite (.drainWbs h) h)
    · exact .ite (.drainWbs h) h
  · split
    · exact .mergeAll (.ite (.drainWbs h) h)
    · exact .ite (.drainWbs h) h
  · split
    · exact .mergeAll (.ite (.drainWbs h) h)
    · exact .ite (.drainWbs h) h
  · split
    · exact .mergeAll (.ite (.drainWbs h) h)
    · exact .ite (.drainWbs h) h
  · split
    · exact .mergeAll (.ite (.drainWbs h) h)
    · exact .ite (.drainWbs h) h
  · split
    · exact .mergeAll (.ite (.drainWbs h) h)
    · exact .ite (.drainWbs h) h
  · split
    · exact .mergeAll (.ite (.drainWbs h) h)
    · exact .ite (.drainWbs h) h
  · split
    · exact .mergeAll (.ite (.drainWbs h) h)
    · exact .ite (.drainWbs h) h
  · split
    · exact .mergeAll (.ite (.drainWbs h) h)
    · exact .ite (.drainWbs h) h
  · split
    · exact .mergeAll (.ite (.drainWbs h) h)
    · exact .ite (.drainWbs h) h
  · split
    · exact .mergeAll (.ite (.drainWbs h) h)
    · exact .ite (.drainWbs h) h
  · split
    · exact .mergeAll (.ite (.drainWbs h) h)
    · exact .ite (.drainWbs h) h
  · split
    · exact .mergeAll (.ite (.drainWbs h) h)
    · exact .ite (.drainWbs h) h
  · split
    · exact .mergeAll (.ite (.drainWbs h) h)
    · exact .ite (.drainWbs h) h
  · split
    · exact .mergeAll (.ite (.drainWbs h) h)
    · exact .ite (.drainWbs h) h

protected theorem Formed.swapsAt (h : Formed s) : Formed (swapsAt s p n) := by
  unfold swapsAt
  refine .foldl (fun _ _ ht => ?_) h
  split
  · exact ht
  · split
    · split
      · exact .ite (.swapGen ht) ht
      · exact ht
    · exact ht

protected theorem Formed.dropCommit {status : Nat} (h : Formed s) : Formed (dropCommit s p tid status) := by
  unfold dropCommit
  split
  · exact h
  · split
    · split
      · exact .complete (.putTbl h)
      · exact h
    · exact h

protected theorem Formed.flushTable {sl : Nat} (h : Formed s) : Formed (flushTable s p c sl tid) := by
  unfold flushTable
  split
  · exact h
  · refine .foldl (fun _ _ ht => ?_) (.putTbl h)
    split
    · exact ht
    · exact .ite (.writebackRow ht) ht

protected theorem Formed.tierFlush (h : Formed s) : Formed (tierFlush s c tid) :=
  .ite (.rejectCmd h) (.ite (.foldl (fun _ _ ht => .flushTable ht) h) (.complete (.foldl (fun _ _ ht => .flushTable ht) h)))

protected theorem Formed.exportStart {state : Bool} {chan : ChanNum} {c0 cc b x shadow size : Nat} (h : Formed s) :
    Formed (exportStart s c tid state chan c0 cc a b x shadow size) := by
  unfold exportStart
  extract_lets
  split
  · exact .rejectCmd h
  · exact .ite (.rejectCmd h) (.updLock (.putTbl h))

protected theorem Formed.exportsAt (h : Formed s) : Formed (exportsAt s p n) := .foldl (fun _ _ ht => .modTbl ht) h

protected theorem Formed.emitRecords (h : Formed s) : Formed (emitRecords p tid n s) := by
  induction n generalizing s with
  | zero => exact h
  | succ n ih =>
    unfold emitRecords
    split
    · exact h
    · split
      · exact h
      · split
        · exact h
        · exact ih (.putTbl h)
        · split
          · exact h
          · extract_lets
            exact .ite (ih (.setRun h)) (.ite h (ih (.putTbl (.setRun (.iteBy Prod.fst (.hostRange h) (.writeRange h))))))

protected theorem Formed.clearExsAt {row : Nat} (h : Formed s) : Formed (clearExsAt s t a row) :=
  .ite h (.ite (.recWrite h) (.ite (.programPages (.memWrite h)) (.recWrite h)))

protected theorem Formed.exportRow (h : Formed s) : Formed (exportRow s p tid e) := by
  unfold exportRow
  split
  · exact h
  · split
    · exact h
    · split
      · exact .emitRecords h
      · refine .ite h (.whenOpen h (fun _ ht => ?_))
        extract_lets
        split
        · exact .putTbl (.count (.chargeRead (.countRec ht)))
        · exact .emitRecords (.putTbl (.ite (.clearExsAt (.chargeRead (.countRec ht))) (.chargeRead (.countRec ht))))

protected theorem Formed.clearExs {me : Nat} {x : Export} (h : Formed s) : Formed (clearExs s t me x) :=
  .foldl (fun _ _ ht => .clearExsAt ht) h

protected theorem Formed.exportEnd {status : Nat} (h : Formed s) : Formed (exportEnd s p tid status) := by
  unfold exportEnd
  split
  · exact h
  · split
    · exact h
    · refine .complete (.updLock (.putTbl ?_))
      split
      · exact .ite (.setRun (.ite h (.clearExs h))) (.ite h (.clearExs h))
      · exact .ite h (.clearExs h)

protected theorem Formed.exportDone (h : Formed s) : Formed (exportDone s p tid) := by
  unfold exportDone
  split
  · exact h
  · split
    · exact h
    · split
      · exact .exportEnd h
      · exact .ite (.exportEnd h) h

protected theorem Formed.endTable (h : Formed s) : Formed (endTable s p tid) := by
  unfold endTable
  split
  · exact h
  · exact .exportEnd (.dropCommit (.drainWbs h))

protected theorem Formed.releaseNow (h : Formed s) : Formed (releaseNow s p tid) := .updLock (.memZero (.endTable h))

protected theorem Formed.placeNow {e : Place} (h : Formed s) : Formed (placeNow s p e) := .setTierLock (.modTbl (.wrNow h))

protected theorem Formed.keepRf {q : Params} (h : Formed s) : Formed (keepRf s p e q) := .wrNow (.modJob h)

protected theorem Formed.paramNow {xentry reset : Bool} {ps : List W32} (h : Formed s) : Formed (paramNow s p xentry n reset ps) := by
  unfold paramNow
  refine .ite ?_ ?_
  · split
    · exact h
    · exact .keepRf h
  · split
    · exact h
    · exact .keepTbl h

protected theorem Formed.applyOp {o : TblOp} {n : Option Nat} (h : Formed s) : Formed (applyOp s p o n) := by
  unfold applyOp
  extract_lets
  split
  · exact .ite (.complete (.defineNow h)) (.tblReject h)
  · exact .ite (.tblReject h) (.complete (.releaseNow h))
  · exact .complete (.placeNow h)
  · exact .complete (.paramNow h)

protected theorem Formed.tblOp {o : TblOp} (h : Formed s) : Formed (tblOp s p o) := .ite h (.applyOp h)

protected theorem Formed.applyOps (h : Formed s) : Formed (applyOps s p n) := .foldl (fun _ _ ht => .applyOp ht) h

protected theorem Formed.afterOps (h : Formed s) : Formed (afterOps s p) := by
  unfold afterOps
  refine .foldl (fun _ _ ht => .ite ?_ ht) h
  split
  · exact ht
  · exact ht
  · exact ht

protected theorem Formed.tableDefine {bits512 : BitVec 512} (h : Formed s) : Formed (tableDefine s c bits512) :=
  .ite (.tblReject h) (.tblOp h)

protected theorem Formed.tableRelease (h : Formed s) : Formed (tableRelease s c tid) := .ite (.tblReject h) (.tblOp h)

protected theorem Formed.tablePlace {x : BitVec 512} (h : Formed s) : Formed (tablePlace s c x) := .ite (.rejectCmd h) (.tblOp h)

protected theorem Formed.tableParam {flags : Byte} {ps : List W32} (h : Formed s) : Formed (tableParam s c n flags ps) :=
  .ite (.rejectCmd h) (.tblOp h)

protected theorem Formed.releasePins (h : Formed s) : Formed (releasePins s p) := .foldl (fun _ _ ht => .reserveMove (.modTbl ht)) h

protected theorem Formed.sweepsAt (h : Formed s) : Formed (sweepsAt s p n) := .foldl (fun _ _ ht => .ite (.modTbl ht) ht) h

protected theorem Formed.keepProducts {vetoed : Bool} (h : Formed s) : Formed (keepProducts s p vetoed) := by
  unfold keepProducts
  refine .foldl (fun _ _ ht => ?_) h
  split
  · exact ht
  · split
    · exact ht
    · exact .ite (.putTbl ht) (.keepTbl ht)

protected theorem Formed.latchCounters (h : Formed s) : Formed (latchCounters s p) := .modLive h

/-- The cells left lie outside the group, where no unlisted address reads as something else than before. -/
theorem Memory.wf_loseGroup {m : Memory} (h : m.wf = true) (k g : Nat) : (m.loseGroup k g).wf = true := by
  simp only [Memory.wf, Bool.and_eq_true, List.all_eq_true, decide_eq_true_eq] at h ⊢
  refine ⟨cellsRise_filter _ _ _ h.1, fun x hx => ?_⟩
  obtain ⟨hx, hout⟩ := List.mem_filter.1 hx
  have hd : (m.loseGroup k g).dflt x.1 = m.dflt x.1 := by
    simp only [Memory.dflt, Memory.lossOf, Memory.loseGroup, tabFind_tabSet, decide_eq_true_eq] at hout ⊢
    by_cases ha : x.1 < t0End
    · rw [if_pos ha, if_pos ha, if_neg (by omega)]
    · rw [if_neg ha, if_neg ha]
  rw [hd]
  exact h.2 x hx

protected theorem Formed.loseGroup {g : Nat} (h : Formed s) : Formed (loseGroup s g) :=
  .withMem h (Memory.wf_loseGroup h.1 _ _)

protected theorem Formed.gateNow (h : Formed s) : Formed (gateNow s d v) := by
  unfold gateNow
  extract_lets
  split
  · exact h
  · exact .setDom h
  · exact .setDom (.ite (.loseGroup h) h)

protected theorem Formed.seekDom (h : Formed s) : Formed (seekDom s d v) := by
  unfold seekDom
  split
  · exact .ite h (.setDom h)
  · exact .ite h (.gateNow h)

protected theorem Formed.settleGates (h : Formed s) : Formed (settleGates s) := .foldl (fun _ _ ht => .ite ht (.gateNow ht)) h

protected theorem Formed.request {mask : W64} (h : Formed s) : Formed (request s p mask lo v) := by
  unfold request
  refine .foldl (fun _ _ ht => ?_) h
  extract_lets
  split
  · exact .seekDom ht
  · exact ht

protected theorem Formed.parkDomains (h : Formed s) : Formed (parkDomains s) :=
  .ite (.foldl (fun _ _ ht => .seekDom ht) (.foldl (fun _ _ ht => .seekDom ht) h)) h

protected theorem Formed.dropRequests (h : Formed s) : Formed (dropRequests s p) := by
  unfold dropRequests
  refine .parkDomains (.foldl (fun _ _ ht => ?_) h)
  split
  · exact .seekDom ht
  · exact ht

protected theorem Formed.launchArr {lead : Lead} {area : Option Area} {op : AOp} {w : AWord} (h : Formed s) :
    Formed (launchArr s p lead area op w) := by
  unfold launchArr
  extract_lets
  split
  · exact .modJob h
  · exact .modJob h
  · exact h
  · exact h
  · exact h
  · split
    · exact .ite h h
    · exact h
  · exact h

protected theorem Formed.issueArr {op : AOp} {w : AWord} (h : Formed s) : Formed (issueArr s p op w) := by
  unfold issueArr
  split
  · exact h
  · exact .launchArr (.modJob (.arrEffect (.sampleTick (.count h))))

protected theorem Formed.issueVec {op : VOp} {w : VWord} (h : Formed s) : Formed (issueVec s p op w) :=
  .ite (.modJob (.vecEffect (.sampleTick (.count h)))) (.setVec (.vecEffect (.sampleTick (.count h))))

protected theorem Formed.lkgFetch {g : Nat} (h : Formed s) : Formed (lkgFetch s p g) := .poolGroup (.modRunS h)

protected theorem Formed.startPhase {g ph : Nat} (h : Formed s) : Formed (startPhase s p g ph) := by
  unfold startPhase
  split
  · exact .lkgIndex h
  · exact .lkgFetch h
  · exact .lkgPartials h
  · exact .lkgSums h
  · exact .lkgUpdates h

protected theorem Formed.countIntakeWait {pl : Plan} (h : Formed s) : Formed (countIntakeWait s p pl) :=
  .foldl (fun _ _ ht => .tblCount ht) h

protected theorem Formed.arrive {u : SUnit} {c : Nat} {wait : Bool} (h : Formed s) : Formed (arrive s p u c wait) := by
  unfold arrive
  split
  · exact h
  · exact .modJob (.ite (.countIntakeWait h) h)

protected theorem Formed.runWord {u : SUnit} {x : SWord} (h : Formed s) : Formed (runWord s p u x) := by
  unfold runWord
  split
  · exact .issueArr h
  · exact .issueVec h
  · exact .modJob h
  · exact .arrive h
  · exact .arrive h
  · exact .modJob h
  · exact .request (.count h)
  · exact .request (.count h)
  · exact .request (.count h)
  · exact .queueDesc (.count h)
  · exact .startPhase (.count h)
  · exact .xchStart (.count h)

protected theorem Formed.countHold {u : SUnit} {st : Stream} (h : Formed s) : Formed (countHold s p u st) :=
  .ite (.ite h (.count h)) (.count (.ite h (.count h)))

protected theorem Formed.noteSkip {x : SWord} (h : Formed s) : Formed (noteSkip s p x) := by
  unfold noteSkip
  split
  · exact .modJob h
  · exact .modJob h
  · exact h

protected theorem Formed.takeWord {u : SUnit} {x : SWord} {rest : List SWord} (h : Formed s) : Formed (takeWord s p u j x rest) :=
  .modJob (.ite (.noteSkip (.modJob (.countHold h))) (.runWord (.modJob (.countHold h))))

protected theorem Formed.takeWords {u : SUnit} {x : SWord} {rest : List SWord} (h : Formed s) : Formed (takeWords s p u j x rest) := by
  unfold takeWords
  extract_lets
  split
  · exact .ite (.takeWord (.takeWord h)) (.takeWord h)
  · exact .takeWord h

protected theorem Formed.runEntry {drained : Bool} (h : Formed s) : Formed (runEntry s drained) := by
  unfold runEntry
  split
  · exact h
  · exact .setArr (.runOldest (.count h))

protected theorem Formed.pumpDrain (h : Formed s) : FormedOpt id (pumpDrain s p) := by
  unfold pumpDrain
  split
  · exact .none
  · exact .ite (.some (.runEntry (.modJob h))) .none

protected theorem Formed.pumpOne {u : SUnit} (h : Formed s) : FormedOpt id (pumpOne s p u) := by
  unfold pumpOne
  split
  · exact .none
  · have hdrain : FormedOpt id (if u = .arr then pumpDrain s p else none) := .ite h.pumpDrain .none
    split
    · next ht => exact .some (hdrain _ ht)
    · split
      · exact .none
      · exact .ite (.some (.takeWords h)) .none

protected theorem Formed.pumpN (h : Formed s) : Formed (pumpN n s) := by
  induction n generalizing s with
  | zero => exact h
  | succ n ih =>
    rw [pumpN]
    split
    · next ht =>
      obtain ⟨x, -, hx⟩ := List.exists_of_findSome?_eq_some ht
      exact ih (h.pumpOne _ hx)
    · exact h

protected theorem Formed.noteHold {u : SUnit} (h : Formed s) : Formed (noteHold s p u) := by
  unfold noteHold
  split
  · exact h
  · split
    · exact h
    · exact .ite h (.modJob h)

protected theorem Formed.pump (h : Formed s) : Formed (pump s) := .foldl (fun _ _ ht => .noteHold ht) (.pumpN h)

protected theorem Formed.pushWord {u : SUnit} {x : SWord} (h : Formed s) : Formed (pushWord s p u x) := by
  unfold pushWord
  split
  · exact h
  · exact .ite (.pump (.modJob h)) h

protected theorem Formed.drainEntry (h : Formed s) : Formed (drainEntry s) := .ite (.pump (.runEntry h)) h

protected theorem Formed.arrDone {i : Nat} (h : Formed s) : Formed (arrDone s i) := .ite (.pump (.settleGates h)) h

protected theorem Formed.vecDone {i : Nat} (h : Formed s) : Formed (vecDone s i) := .ite (.pump (.settleGates h)) h

protected theorem Formed.domWoken (h : Formed s) : Formed (domWoken s d) := .ite (.pump (.setSorts (.setDom h))) h

protected theorem Formed.dropDeferredOf (h : Formed s) : Formed (dropDeferredOf s p) := .unpark h

end Sys2Proof.Machine
end

section
/-! PROOFS. The form through rights, the counter island, the training step, plan loads, twins, re-shards and sequences. -/

namespace Sys2Proof.Machine

variable {s : State} {w : Who} {off i n mtype src dig step addr len row me g : Nat} {c : Cmd}
variable {v grown resume : Bool} {p : Part} {t : Table} {pl : Plan} {j : Job} {k : BisKind}
variable {x : Nat × Nat × Nat × Nat} {b : List Byte} {r : Reshard} {ts : List ExpTok}

protected theorem Formed.noAuth (h : Formed s) : Formed (noAuth s w off) := .raiseF h

protected theorem Formed.progError (h : Formed s) : Formed (progError s w off) := .raiseF h

protected theorem Formed.withAuth {ok : Bool} {f : State → State} (h : Formed s) (hf : ∀ t, Formed t → Formed (f t)) :
    Formed (withAuth s ok w off f) :=
  .ite h (.ite (hf _ h) (.noAuth h))

protected theorem Formed.command {opc : Nat} {f : State → State} (h : Formed s) (hf : ∀ t, Formed t → Formed (f t)) :
    Formed (command s c opc f) :=
  .ite h (.ite (hf _ h) (.rejectCmd h))

protected theorem Formed.xselWrite {v : Nat} (h : Formed s) : Formed (xselWrite s w v) :=
  .withAuth h (fun _ ht => .ite (.progError ht) (.ite (.ite (.modLive ht) (.modLive ht)) ht))

protected theorem Formed.cueLate {c late : Nat} (h : Formed s) : Formed (cueLate s p c late) := .modLive h

protected theorem Formed.clearCues (h : Formed s) : Formed (clearCues s p) := .modLive h

protected theorem Formed.startSampling (h : Formed s) : Formed (startSampling s p) := h

protected theorem Formed.putTrace {k : Nat} {c : TraceCfg} (h : Formed s) :
    Formed (modIsl s fun i => { i with trace := setNth i.trace k c }) := by
  obtain ⟨hmem, hrings, hpd, hlinks, hstacks, hfrost, htrace⟩ := h
  exact ⟨hmem, hrings, hpd, hlinks, hstacks, hfrost, (length_setNth _ _ _).trans htrace⟩

protected theorem Formed.sampleRecord {r : Sample} (h : Formed s) : Formed (sampleRecord s p src r) :=
  .ite h (.ite (.putTrace (.setDue h)) (.putTrace (.wrNow (.winAdd (.charge (.setDue h))))))

protected theorem Formed.windowClose (h : Formed s) : Formed (windowClose s) := .ite (.closeWindow h) h

protected theorem Formed.bwlenWrite {v : Nat} (h : Formed s) : Formed (bwlenWrite s w v) :=
  .withAuth h (fun _ ht => .ite (.progError ht) ht)

protected theorem Formed.putFrost {f : Frost} (h : Formed s) : Formed (putFrost s i f) := by
  obtain ⟨hmem, hrings, hpd, hlinks, hstacks, hfrost, htrace⟩ := h
  exact ⟨hmem, hrings, hpd, hlinks, hstacks, (length_setNth _ _ _).trans hfrost, htrace⟩

protected theorem Formed.capture {sl : Nat} (h : Formed s) : Formed (capture s i sl) := .putFrost h

protected theorem Formed.endFrost {res : Nat} (h : Formed s) : Formed (endFrost s i res) := .putFrost h

protected theorem Formed.frostCancel (h : Formed s) : Formed (frostCancel s w i) :=
  .withAuth h (fun _ ht => .ite (.endFrost (.putFrost ht)) (.putFrost ht))

protected theorem Formed.frostArmTime {t : Nat} (h : Formed s) : Formed (frostArmTime s w i t) :=
  .withAuth h (fun _ ht => .ite (.endFrost (.putFrost ht)) (.putFrost ht))

protected theorem Formed.frostArmSeal (h : Formed s) : Formed (frostArmSeal s w i n) := by
  unfold frostArmSeal
  refine .withAuth h (fun _ ht => ?_)
  extract_lets
  split
  · exact .endFrost (.putFrost ht)
  · split
    · exact .ite (.endFrost (.putFrost ht)) (.putFrost ht)
    · exact .putFrost ht

protected theorem Formed.frostNow (h : Formed s) : Formed (frostNow s w i) := .withAuth h (fun _ ht => .capture (.putFrost ht))

protected theorem Formed.frostTime (h : Formed s) : Formed (frostTime s i) := .ite (.capture h) h

protected theorem Formed.captureSeal (h : Formed s) : Formed (captureSeal s p n) := .ite (.capture h) h

protected theorem Formed.dropSealFrost (h : Formed s) : Formed (dropSealFrost s p) := .ite (.endFrost h) h

protected theorem Formed.toKids {body : List Byte} (h : Formed s) : Formed (toKids s p pl mtype body) :=
  .foldl (fun _ _ ht => .sendTo ht) h

protected theorem Formed.tokenUp (h : Formed s) : Formed (tokenUp s p) := by
  unfold tokenUp
  split
  · exact h
  · split
    · exact .ite (.toKids (.modJob h)) (.sendTo h)
    · exact h

protected theorem Formed.contribute (h : Formed s) : Formed (contribute s p) := by
  unfold contribute
  split
  · exact h
  · exact .ite h (.tokenUp (.modJob (.wrNow h)))

protected theorem Formed.tokenMsg {down : Bool} {t : Token} (h : Formed s) : Formed (tokenMsg s p src down t) := by
  unfold tokenMsg
  split
  · exact h
  · exact .ite h (.ite (.ite (.toKids (.modJob h)) h) (.ite (.tokenUp (.modJob h)) h))

protected theorem Formed.toTwin {body : List Byte} (h : Formed s) : Formed (toTwin s p mtype body) := .sendNode h

protected theorem Formed.modTwin {f : Twin → Twin} (h : Formed s) : Formed (modTwin s p f) := .modJob h

protected theorem Formed.tokenComplete (h : Formed s) : Formed (tokenComplete s p) := by
  unfold tokenComplete
  split
  · exact h
  · split
    · exact .ite h (.ite (.modTwin (.toTwin (.modJob (.wrNow (.wrNow (.ite (.raise h) h))))))
          (.modJob (.wrNow (.wrNow (.ite (.raise h) h)))))
    · exact h

protected theorem Formed.countWait {c : Nat} (h : Formed s) : Formed (countWait s p j c) :=
  .ite (.foldl (fun _ _ ht => .ite (.count ht) ht) h) (.ite h (.ite (.count (.count h)) (.ite (.count h) h)))

protected theorem Formed.cueEffect {ty : Nat} (h : Formed s) : Formed (cueEffect s p ty) := by
  unfold cueEffect
  split
  · exact .contribute h
  · exact .modJob h
  · exact h

protected theorem Formed.cueFire {c : Nat} (h : Formed s) : Formed (cueFire s p c) := by
  unfold cueFire
  split
  · exact h
  · exact .ite h (.pump (.modJob (.ite (.ite h (.cueLate (.countWait h))) (.cueEffect (.ite h (.cueLate (.countWait h)))))))

protected theorem Formed.lossGrowth (h : Formed s) : Formed (lossGrowth s p) := by
  unfold lossGrowth
  split
  · exact h
  · exact .ite (.modJob h) h

protected theorem Formed.waveUp (h : Formed s) : Formed (waveUp s p) := by
  unfold waveUp
  split
  · exact h
  · exact .ite h (.ite (.toKids (.modJob h)) (.sendTo h))

protected theorem Formed.sendTwin (h : Formed s) : Formed (sendTwin s p n dig) := by
  unfold sendTwin
  split
  · exact h
  · exact .modTwin (.toTwin h)

protected theorem Formed.twinCompare (h : Formed s) : Formed (twinCompare s p) := by
  unfold twinCompare
  split
  · exact h
  · split
    · exact .ite h (.ite (.modTwin h) (.ite (.modTwin h) (.modJob (.raise h))))
    · exact h

protected theorem Formed.waveOwn (h : Formed s) : Formed (waveOwn s p) := by
  unfold waveOwn
  split
  · exact h
  · exact .waveUp (.modJob h)

protected theorem Formed.sealContribute (h : Formed s) : Formed (sealContribute s p) := by
  unfold sealContribute
  split
  · exact h
  · refine .ite h (.ite (.waveOwn (.ite (.modJob h) (.denseDigests (.modJob h)))) ?_)
    dsimp only
    split
    · refine .waveOwn (.twinCompare ?_)
      split
      · exact .sendTwin (.ite (.modJob h) (.denseDigests (.modJob h)))
      · exact .ite (.modJob h) (.denseDigests (.modJob h))
    · split
      · exact .sendTwin (.ite (.modJob h) (.denseDigests (.modJob h)))
      · exact .ite (.modJob h) (.denseDigests (.modJob h))

protected theorem Formed.sealMsg {hold : Bool} (h : Formed s) : Formed (sealMsg s p src step hold) := by
  unfold sealMsg
  split
  · exact h
  · exact .ite (.waveUp (.modJob h)) h

protected theorem Formed.beaconMsg {hold : Bool} {start : Option Nat} (h : Formed s) : Formed (beaconMsg s p step hold start) := by
  unfold beaconMsg
  split
  · exact h
  · exact .ite h (.toKids (.modJob (.ite (.count h) h)))

protected theorem Formed.holdCmds (h : Formed s) : Formed (holdCmds s p n) := by
  unfold holdCmds
  split
  · exact h
  · exact .foldl (fun _ _ ht => .complete ht) (.foldl (fun _ _ ht => .complete ht) (.modJob h))

protected theorem Formed.pollDown (h : Formed s) : Formed (pollDown s p grown) := by
  unfold pollDown
  split
  · exact h
  · exact .toTwin (.toKids (.modTwin h))

protected theorem Formed.pollUp (h : Formed s) : Formed (pollUp s p) := by
  unfold pollUp
  split
  · exact h
  · exact .ite h (.ite (.pollDown h) (.sendTo h))

protected theorem Formed.pollOwn (h : Formed s) : Formed (pollOwn s p) := by
  unfold pollOwn
  split
  · exact h
  · exact .ite h (.pollUp (.modJob h))

protected theorem Formed.pollMsg {src : Option Nat} (h : Formed s) : Formed (pollMsg s p src grown) := by
  unfold pollMsg
  split
  · exact h
  · split
    · exact .ite (.modTwin h) h
    · exact .ite (.ite (.pollDown h) h) (.ite (.pollUp (.modJob h)) h)

protected theorem Formed.sealEnd (h : Formed s) : Formed (sealEnd s p) := by
  unfold sealEnd
  split
  · exact h
  · exact .ite h (.ite (.pollOwn (.holdCmds (.modJob (.foldl (fun _ _ ht => .buildSeal ht) (.sweepsAt (.exportsAt h))))))
        (.modJob (.foldl (fun _ _ ht => .buildSeal ht) (.sweepsAt (.exportsAt h)))))

protected theorem Formed.sealReach (h : Formed s) : Formed (sealReach s p) := by
  unfold sealReach
  split
  · exact h
  · exact .ite h (.ite (.ite
        (.raiseF (.rejoinLinks
        (.modJob (.wrNow (.swapsAt
        (.applyOps (.modJob (.releasePins (.keepRfProducts (.keepProducts (.captureSeal (.latchCounters h))))))))))))
        (.raise (.rejoinLinks
        (.modJob (.wrNow (.swapsAt
        (.applyOps (.modJob (.releasePins (.keepRfProducts (.keepProducts (.captureSeal (.latchCounters h)))))))))))))
        (.sealEnd (.ite (.raiseF
        (.rejoinLinks (.modJob
        (.wrNow (.swapsAt (.applyOps (.modJob (.releasePins (.keepRfProducts (.keepProducts (.captureSeal (.latchCounters h))))))))))))
        (.raise (.rejoinLinks
        (.modJob (.wrNow (.swapsAt
        (.applyOps (.modJob (.releasePins (.keepRfProducts (.keepProducts (.captureSeal (.latchCounters h)))))))))))))))

protected theorem Formed.stepStart (h : Formed s) : Formed (stepStart s p) := by
  unfold stepStart
  split
  · exact h
  · refine .ite h ?_
    extract_lets
    split
    · exact .complete (.modJob (.startSampling h))
    · exact .modJob (.startSampling h)

protected theorem Formed.readyUp (h : Formed s) : Formed (readyUp s p resume) := by
  unfold readyUp
  split
  · exact h
  · exact .ite h (.ite (.toKids (.modJob h)) (.sendTo h))

protected theorem Formed.readyOwn (h : Formed s) : Formed (readyOwn s p resume) := .readyUp (.modJob h)

protected theorem Formed.keepReady (h : Formed s) : Formed (keepReady s p src resume) := .ite h h

protected theorem Formed.readyMsg (h : Formed s) : Formed (readyMsg s p src resume) := by
  unfold readyMsg
  split
  · exact .keepReady h
  · exact .ite (.keepReady h) (.ite (.readyUp (.modJob h)) h)

protected theorem Formed.takeReady (h : Formed s) : Formed (takeReady s p) := .foldl (fun _ _ ht => .readyMsg ht) h

protected theorem Formed.resumeReady (h : Formed s) : Formed (resumeReady s p) := by
  unfold resumeReady
  split
  · exact h
  · exact .ite (.readyOwn h) h

protected theorem Formed.abandonCause (h : Formed s) : Formed (abandonCause s p) := .modJob h

protected theorem Formed.unitFault (h : Formed s) : Formed (unitFault s p src) := by
  unfold unitFault
  split
  · exact h
  · exact .ite (.abandonCause (.ite (.report h) h)) h

protected theorem Formed.stopStreams (h : Formed s) : Formed (stopStreams s p) := .modJob h

protected theorem Formed.stepAbandon (h : Formed s) : Formed (stepAbandon s p) := by
  unfold stepAbandon
  split
  · exact h
  · exact .ite h (.ite (.modJob (.raise h)) (.contribute (.report (.modJob (.dropDeferredOf (.stopStreams (.raise h)))))))

protected theorem Formed.twinToken {t : Token} (h : Formed s) : Formed (twinToken s p t) := by
  unfold twinToken
  split
  · exact h
  · exact .ite (.modTwin h) h

protected theorem Formed.tryPair (h : Formed s) : Formed (tryPair s p) := by
  unfold tryPair
  split
  · exact h
  · split
    · exact .ite (.resumeReady (.complete (.modTwin h))) h
    · exact h

protected theorem Formed.twinMsg {bad : Bool} (h : Formed s) : Formed (twinMsg s p step dig grown bad) := by
  unfold twinMsg
  split
  · exact h
  · exact .ite (.ite (.waveOwn (.twinCompare (.modTwin h))) (.modTwin h)) (.ite (.tryPair (.modTwin h)) h)

protected theorem Formed.twinLost (h : Formed s) : Formed (twinLost s p) := by
  unfold twinLost
  split
  · exact h
  · exact .ite (.ite (.waveOwn (.modTwin (.raise h))) (.modTwin (.raise h))) h

protected theorem Formed.markChans (h : Formed s) : Formed (markChans s p pl) := h

protected theorem Formed.loadConsts (h : Formed s) : Formed (loadConsts s p pl) := .foldl (fun _ _ ht => .writeSpans ht) h

protected theorem Formed.readMaps (h : Formed s) : Formed (readMaps s p) := .foldl (fun _ _ ht => .modTbl ht) h

protected theorem Formed.setPlan (h : Formed s) : Formed (setPlan s p pl) :=
  .request (.markChans (.clearCues (.loadConsts (.setVec (.dropDeferred h)))))

protected theorem Formed.extend {k : Nat} {data : List Byte} (h : Formed s) : Formed (extend s k data) := h

protected theorem Formed.measurePlan (h : Formed s) : Formed (measurePlan s p addr len) := .extend h

protected theorem Formed.startBuilds (h : Formed s) : Formed (startBuilds s p) := .foldl (fun _ _ ht => .startBuild ht) h

protected theorem Formed.dropJob (h : Formed s) : Formed (dropJob s p) := .updLock (.dropRequests (.setJobsChans (.dropSealFrost h)))

protected theorem Formed.pairSend (h : Formed s) : Formed (pairSend s p) := by
  unfold pairSend
  split
  · exact h
  · exact .ite (.tryPair (.sendTwin (.foldl (fun _ _ ht => .buildSeal ht) h))) h

protected theorem Formed.adoptPlan (h : Formed s) : Formed (adoptPlan s p pl) := by
  unfold adoptPlan
  split
  · exact h
  · exact .denseDigests (.setPlan (.foldl (fun _ _ ht => .keepRf ht) (.modJob h)))

protected theorem Formed.keepPlan (h : Formed s) : Formed (keepPlan s p pl) := .markChans (.loadConsts h)

protected theorem Formed.runTest (h : Formed s) : Formed (runTest s p) := .modJob h

protected theorem Formed.resumeOnto (h : Formed s) : Formed (resumeOnto s p pl) := by
  unfold resumeOnto
  split
  · exact h
  · exact .ite h (.ite (.runTest (.modJob (.adoptPlan h))) (.resumeReady (.pairSend (.modJob (.adoptPlan h)))))

protected theorem Formed.testDone {ok : Bool} (h : Formed s) : Formed (testDone s p ok) := by
  unfold testDone
  split
  · exact h
  · dsimp only
    split
    · refine .ite (.resumeOnto ?_) (.resumeReady (.keepPlan ?_))
      · split
        · exact .complete (.modJob (.modJob (.ite h (.raiseF h))))
        · exact .modJob (.modJob (.ite h (.raiseF h)))
      · split
        · exact .complete (.modJob (.modJob (.ite h (.raiseF h))))
        · exact .modJob (.modJob (.ite h (.raiseF h)))
    · refine .ite (.ite (.resumeReady (.pairSend (.modJob (.modJob (.ite h (.raiseF h)))))) ?_)
          (.ite (.takeReady (.readyOwn (.startBuilds ?_))) ?_)
      · split
        · exact .complete (.modJob (.modJob (.modJob (.ite h (.raiseF h)))))
        · exact .modJob (.modJob (.modJob (.ite h (.raiseF h))))
      · split
        · exact .complete (.modJob (.modJob (.ite h (.raiseF h))))
        · exact .modJob (.modJob (.ite h (.raiseF h)))
      · split
        · exact .complete (.dropJob (.modJob (.ite h (.raiseF h))))
        · exact .dropJob (.modJob (.ite h (.raiseF h)))

protected theorem Formed.startTest (h : Formed s) : Formed (startTest s p) := by
  unfold startTest
  split
  · exact h
  · split
    · exact .testDone h
    · exact .runTest h

protected theorem Formed.selftestComplete (h : Formed s) : Formed (selftestComplete s p) := by
  unfold selftestComplete
  split
  · exact h
  · exact .ite (.testDone h) h

protected theorem Formed.rejectOffset {off : Option Nat} (h : Formed s) : Formed (rejectOffset s off).2 := by
  unfold rejectOffset
  split
  · exact h
  · exact .takeFree h

protected theorem Formed.planReject {code : Nat} {off : Option Nat} (h : Formed s) : Formed (planReject s c code off) :=
  .complete (.raiseF (.rejectOffset h))

protected theorem Formed.planAccept (h : Formed s) : Formed (planAccept s c addr len pl) := by
  unfold planAccept
  extract_lets
  split
  · exact .ite (.planReject h) (.ite (.planReject h) (.startTest (.setPlan (.readMaps (.modJob (.measurePlan h))))))
  · exact .ite (.planReject h)
        (.startTest (.setPlan (.readMaps (.foldl (fun _ _ ht => .keepRf ht) (.updLock (.setJobs (.measurePlan h)))))))

protected theorem Formed.planLoad {fill : Plan} (h : Formed s) : Formed (planLoad s c addr len fill) :=
  .ite (.planReject h) (.ite (.planReject h) (.ite (.planReject h) (.ite (.complete h) (.planAccept h))))

protected theorem Formed.pauseJob (h : Formed s) : Formed (pauseJob s c) := by
  unfold pauseJob
  extract_lets
  split
  · exact .rejectCmd h
  · exact .ite (.complete h) (.modJob h)

protected theorem Formed.reload (h : Formed s) : Formed (reload s p) := by
  unfold reload
  split
  · exact h
  · exact .ite (.loadConsts (.setVec (.modJob h))) h

protected theorem Formed.resumeJob (h : Formed s) : Formed (resumeJob s c) := by
  unfold resumeJob
  extract_lets
  split
  · exact .rejectCmd h
  · refine .ite (.rejectCmd h) (.startTest (.refreshSuspects (.modJob (.reload ?_))))
    split
    · exact .adoptPlan h
    · exact h

protected theorem Formed.pairJob {base size : Nat} (h : Formed s) : Formed (pairJob s c base size) := by
  unfold pairJob
  extract_lets
  split
  · exact .rejectCmd h
  · exact .ite (.rejectCmd h) (.modTwin h)

protected theorem Formed.sendList {l : List BisEnt} (h : Formed s) : Formed (sendList s p k l) := .ite h (.toTwin h)

protected theorem Formed.readLine {x : BisEnt} (h : Formed s) : Formed (readLine s p k x) := by
  unfold readLine
  split
  · exact h
  · exact h
  · exact h
  · exact .readSpans h
  · split
    · exact h
    · exact .foldl (fun _ _ ht => .chargeRead ht) h

protected theorem Formed.startRound (h : Formed s) : Formed (startRound s p) := by
  unfold startRound
  split
  · exact h
  · exact .sendList (.sendList (.modTwin h))

protected theorem Formed.tryRound (h : Formed s) : Formed (tryRound s p) := by
  unfold tryRound
  split
  · exact h
  · exact .ite (.startRound h) h

protected theorem Formed.logRepair {own : Bool} {reason : Nat} {mine other : List Byte} (h : Formed s) :
    Formed (logRepair s p own reason x mine other) := by
  unfold logRepair
  split
  · exact h
  · exact .ite h (.raise (.modTwin (.wrNow h)))

protected theorem Formed.readItem (h : Formed s) : Formed (readItem s p x) := .ite (.readLine h) (.readLine h)

protected theorem Formed.sendItem (h : Formed s) : Formed (sendItem s p x) := .toTwin (.readItem h)

protected theorem Formed.putInPlace {a : Nat} (h : Formed s) : Formed (putInPlace s p t a row b) :=
  .ite (.healPages (.programPages (.memWrite (.chargeWrite h)))) (.recWrite (.chargeWrite h))

protected theorem Formed.repairRow {tid : Nat} (h : Formed s) : Formed (repairRow s p tid row b) := by
  unfold repairRow
  split
  · exact h
  · extract_lets
    split
    · exact .xorDigest (.putInPlace h)
    · exact .putInPlace h

protected theorem Formed.putBlock {e role b : Nat} {bs : List Byte} (h : Formed s) : Formed (putBlock s p e role b bs) := .writeSpans h

protected theorem Formed.repairOne {m : RepairItem} (h : Formed s) : Formed (repairOne s p m) := by
  unfold repairOne
  split
  · exact h
  · exact .logRepair (.ite (.modTwin h) (.ite (.repairRow (.modTwin h)) (.putBlock (.modTwin h))))

protected theorem Formed.outOfState (h : Formed s) : Formed (outOfState s p mtype) := .raise h

protected theorem Formed.stopRepair (h : Formed s) : Formed (stopRepair s p) := .modTwin h

protected theorem Formed.foundItems {xs : List (Nat × Nat × Nat × Nat)} (h : Formed s) : Formed (foundItems s p xs) := by
  unfold foundItems
  split
  · exact h
  · exact .ite (.stopRepair (.raise h)) (.foldl (fun _ _ ht => .repairOne ht) (.foldl (fun _ _ ht => .sendItem ht) (.modTwin h)))

protected theorem Formed.bisectList {l : List BisEnt} (h : Formed s) : Formed (bisectList s p k l) := by
  unfold bisectList
  split
  · exact h
  · refine .ite h (.foldl (fun _ _ ht => ?_) (.foldl (fun _ _ ht => .readLine ht) h))
    split
    · exact .sendList (.foldl (fun _ _ ht1 => .readLine ht1) ht)
    · exact .ite (.foundItems ht) ht

protected theorem Formed.repairData {m : RepairItem} (h : Formed s) : Formed (repairData s p m) := by
  unfold repairData
  split
  · exact h
  · exact .ite (.outOfState h) (.ite (.repairOne h) (.modTwin h))

protected theorem Formed.repairRound (h : Formed s) : Formed (repairRound s p dig) := by
  unfold repairRound
  split
  · exact h
  · refine .ite h ?_
    extract_lets
    split
    · exact .denseDigests h
    · exact .ite (.modTwin (.stopRepair (.raise (.toTwin (.denseDigests h)))))
          (.ite (.stopRepair (.raise (.toTwin (.denseDigests h)))) (.startRound (.modTwin (.toTwin (.denseDigests h)))))

protected theorem Formed.failedRepair {tid : Nat} {m : RecRepair} (h : Formed s) : Formed (failedRepair s p tid row m) := by
  unfold failedRepair
  split
  · refine .ite h ?_
    extract_lets
    split
    · exact .ite (.toTwin h) h
    · exact .ite (.sendItem h) h
    · exact .ite h (.ite (.rerunWaits (.logRepair (.putInPlace (.modTwin h)))) (.rerunWaits (.modTwin h)))
  · exact h

protected theorem Formed.modReshard {f : Reshard → Reshard} (h : Formed s) : Formed (modReshard s p f) := .modJob h

protected theorem Formed.withPlan (h : Formed s) : Formed (withPlan s p pl) := .modJob h

protected theorem Formed.withRefs (h : Formed s) : Formed (withRefs s p pl) := .foldl (fun _ _ ht => .modTbl ht) h

protected theorem Formed.reshardCmd {target epoch : Nat} (h : Formed s) : Formed (reshardCmd s c addr target epoch pl) := by
  unfold reshardCmd
  extract_lets
  split
  · exact .rejectCmd h
  · exact .ite (.rejectCmd h) (.modJob h)

protected theorem Formed.discardNew (h : Formed s) : Formed (discardNew s p pl me) := .foldl (fun _ _ ht => .ite (.trimRange ht) ht) h

protected theorem Formed.reshardEnd (h : Formed s) : Formed (reshardEnd s p) := .resumeReady (.sealEnd h)

protected theorem Formed.reshardFail (h : Formed s) : Formed (reshardFail s p) := by
  unfold reshardFail
  split
  · exact h
  · split
    · exact h
    · exact .reshardEnd (.complete (.modJob (.ite (.discardNew (.raise h)) (.raise h))))

protected theorem Formed.putElems {t : TEntry} {first : Nat} (h : Formed s) : Formed (putElems s p t first b) := .writeSpans h

protected theorem Formed.putRecord (h : Formed s) : Formed (putRecord s p t me row b) :=
  .ite (.programPages (.chargeWrite (.memWrite h))) (.chargeWrite (.recWrite h))

protected theorem Formed.storeMove {m : MoveMsg} (h : Formed s) : Formed (storeMove s p m) := by
  unfold storeMove
  split
  · exact h
  · split
    · exact h
    · split
      · split
        · exact .ite h (.modReshard (.putRecord h))
        · exact h
      · split
        · exact h
        · refine .modReshard ?_
          split
          · split
            · exact .putElems h
            · exact h
          · exact .writeSpans h
          · exact .putElems h
          · exact .putElems h
          · exact h
      · exact .modReshard h

protected theorem Formed.commitTable' {rowsIn : List (Nat × Nat × List Byte)} {n : Table} (h : Formed s) :
    Formed (commitTable' s p me rowsIn t n) := by
  unfold commitTable'
  extract_lets
  split
  · exact .foldl (fun _ _ ht => .clearExsAt ht)
        (.foldl (fun _ _ ht => .xorDigest ht)
        (.foldl (fun _ _ ht => .ite (.dirRemove (.ite ht (.xorDigest ht))) (.ite ht (.xorDigest ht))) h))
  · exact .ite (.trimRange
        (.finishEvictions
        (.keepTbl (.foldl (fun _ _ ht => .clearExsAt ht)
        (.foldl (fun _ _ ht => .xorDigest ht)
        (.foldl (fun _ _ ht => .ite (.dirRemove (.ite ht (.xorDigest ht))) (.ite ht (.xorDigest ht))) h))))))
        (.finishEvictions
        (.keepTbl (.foldl (fun _ _ ht => .clearExsAt ht)
        (.foldl (fun _ _ ht => .xorDigest ht)
        (.foldl (fun _ _ ht => .ite (.dirRemove (.ite ht (.xorDigest ht))) (.ite ht (.xorDigest ht))) h)))))

protected theorem Formed.rebaseTable {r : TableRef} (h : Formed s) : Formed (rebaseTable s p r) := by
  unfold rebaseTable
  split
  · exact h
  · exact .ite (.keepTbl h) h

protected theorem Formed.rebuildCopy {k : DenseKey} (h : Formed s) : Formed (rebuildCopy s p r k) :=
  .foldl (fun _ _ ht => .putCopy ht) h

protected theorem Formed.flushKey {k : DenseKey} (h : Formed s) : Formed (flushKey s p me r k) :=
  .ite (.putElems (.putElems (.putElems h))) (.putElems (.putElems h))

protected theorem Formed.resendHints (h : Formed s) : Formed (resendHints s p) := by
  unfold resendHints
  split
  · exact h
  · exact .foldl (fun _ _ ht => .foldl (fun _ _ ht1 => .sendHints ht1) ht) h

protected theorem Formed.reshardCommit (h : Formed s) : Formed (reshardCommit s p j r) :=
  .reshardEnd (.resendHints
      (.complete (.raise
      (.extend (.setSec
      (.takeFree (.denseDigests
      (.modJob (.foldl (fun _ _ ht => .flushKey ht)
      (.foldl (fun _ _ ht => .rebuildCopy ht)
      (.adoptPlan (.modJob
      (.foldl (fun _ _ ht => .exportEnd (.dropCommit ht))
      (.foldl (fun _ _ ht => .rebaseTable ht) (.foldl (fun _ _ ht => .commitTable' ht) h)))))))))))))))

protected theorem Formed.commitResult {result : Bool} (h : Formed s) : Formed (commitResult s p result) := by
  unfold commitResult
  split
  · exact h
  · split
    · exact h
    · exact .ite h (.ite (.reshardCommit (.toKids h)) (.reshardFail (.toKids h)))

protected theorem Formed.commitUp (h : Formed s) : Formed (commitUp s p) := by
  unfold commitUp
  split
  · exact h
  · exact .ite h (.ite (.commitResult h) (.sendTo h))

protected theorem Formed.commitOwn (h : Formed s) : Formed (commitOwn s p v) := .commitUp (.modJob h)

protected theorem Formed.commitVoteOwn (h : Formed s) : Formed (commitVoteOwn s p) := by
  unfold commitVoteOwn
  split
  · exact h
  · split
    · exact h
    · exact .ite h (.ite (.commitOwn h) (.ite (.commitOwn h) h))

protected theorem Formed.commitMsg (h : Formed s) : Formed (commitMsg s p src v) := by
  unfold commitMsg
  split
  · exact h
  · exact .ite (.commitResult h) (.ite (.commitUp (.modJob h)) h)

protected theorem Formed.startMoves (h : Formed s) : Formed (startMoves s p) := by
  unfold startMoves
  split
  · exact h
  · split
    · exact h
    · exact .ite h (.commitVoteOwn
          (.foldl (fun _ _ ht => .ite (.storeMove ht) (.sendTo ht)) (.modReshard (.foldl (fun _ _ ht => .readSpans ht) h))))

protected theorem Formed.readyResult {result : Bool} (h : Formed s) : Formed (readyResult s p result) := by
  unfold readyResult
  split
  · exact h
  · split
    · exact h
    · exact .ite h (.ite (.startMoves (.modReshard (.raise (.toKids h)))) (.reshardFail (.toKids h)))

protected theorem Formed.readyVoteUp (h : Formed s) : Formed (readyVoteUp s p) := by
  unfold readyVoteUp
  split
  · exact h
  · exact .ite h (.ite (.readyResult h) (.sendTo h))

protected theorem Formed.readyContribute (h : Formed s) : Formed (readyContribute s p v) := .readyVoteUp (.modJob h)

protected theorem Formed.readyVote (h : Formed s) : Formed (readyVote s p) := by
  unfold readyVote
  split
  · exact h
  · split
    · exact h
    · exact .ite h (.readyContribute h)

protected theorem Formed.readyVoteMsg (h : Formed s) : Formed (readyVoteMsg s p src v) := by
  unfold readyVoteMsg
  split
  · exact h
  · exact .ite (.readyResult h) (.ite (.readyVoteUp (.modJob h)) h)

protected theorem Formed.reshardCheck (h : Formed s) : Formed (reshardCheck s p) := by
  unfold reshardCheck
  split
  · exact h
  · split
    · exact h
    · exact .ite h (.readyVote (.modReshard (.ite (.raiseF (.rejectOffset h)) h)))

protected theorem Formed.moveArrive {m : MoveMsg} (h : Formed s) : Formed (moveArrive s p src m) := by
  unfold moveArrive
  split
  · exact h
  · split
    · exact .outOfState h
    · exact .ite (.commitVoteOwn (.ite (.storeMove h) (.sendTo (.storeMove h)))) (.outOfState h)

protected theorem Formed.reshardMissed (h : Formed s) : Formed (reshardMissed s p) := by
  unfold reshardMissed
  split
  · exact h
  · split
    · exact h
    · exact .ite (.reshardFail h) h

protected theorem Formed.reshardAbort (h : Formed s) : Formed (reshardAbort s p) := .commitVoteOwn (.readyVote (.modReshard h))

protected theorem Formed.takeTokens (h : Formed s) : Formed (takeTokens s p g ts) := .modJob h

protected theorem Formed.sendTokens {t : ExpertTab} {k round left : Nat} (h : Formed s) :
    Formed (sendTokens s p j t g k round left ts) :=
  .sendTo h

protected theorem Formed.dealTokens (h : Formed s) : Formed (dealTokens s p j g ts) :=
  .foldl (fun _ _ ht => .ite (.ite ht (.takeTokens ht)) (.foldl (fun _ _ ht1 => .sendTokens ht1) (.sendTokens (.sendTokens ht)))) h

protected theorem Formed.expertArrive {m : RMsg} (h : Formed s) : Formed (expertArrive s p m ts) := by
  unfold expertArrive
  split
  · exact h
  · exact .ite (.staleMsg h) (.ite h (.ite (.badFormat h) (.ite (.dealTokens h) (.ite (.report (.takeTokens h)) (.takeTokens h)))))

protected theorem Formed.rowBlock {seq : Nat} {b : SeqBlock} {r : SeqRow} (h : Formed s) : Formed (rowBlock s p seq b r) := by
  unfold rowBlock
  split
  · exact h
  · exact .ite h (.ite (.modJob (.tally (.tally h))) (.modJob (.tally (.tally (.tally h)))))

protected theorem Formed.sequenceArrive {m : RMsg} {b : SeqBlock} (h : Formed s) : Formed (sequenceArrive s p m b) := by
  unfold sequenceArrive
  split
  · exact h
  · exact .ite (.staleMsg h)
        (.ite h (.ite (.badFormat h)
        (.ite (.foldl (fun _ _ ht => .rowBlock ht) (.modJob h)) (.sendTo (.foldl (fun _ _ ht => .rowBlock ht) (.modJob h))))))

protected theorem Formed.refreshEnd {t : State} (h1 : Formed t) : Formed (refreshEnd s t p) := by
  unfold refreshEnd
  split
  · exact .ite (.resumeReady h1) h1
  · exact h1

end Sys2Proof.Machine
end

section
/-! PROOFS. The form through rings, hosts, windows, power, clocks, security and registers. -/

namespace Sys2Proof.Machine

variable {s : State} {n v f size o bank k code tid : Nat} {w : Who} {pb force : Bool} {p : Part} {c by' : Cmd}
variable {a : RegWr} {bs : List Byte} {i : BitVec 12} {m : FwImage} {r : SReq}

protected theorem Formed.enableRing (h : Formed s) : Formed (enableRing s n) :=
  .ite h (.ite (.raiseF (.putRing h)) (.ite (.putChan (.putRing h)) (.putRing h)))

protected theorem Formed.rngCtl (h : Formed s) : Formed (rngCtl s w n v) :=
  .withAuth h (fun _ ht => .ite
      (.ite (.putRing (.ite (.progError ht) ht))
      (.ite (.putRing (.putRing (.ite (.progError ht) ht))) (.enableRing (.putRing (.ite (.progError ht) ht)))))
      (.ite (.putRing (.ite (.progError ht) ht)) (.putRing (.ite (.progError ht) ht))))

protected theorem Formed.ringEnable (h : Formed s) : Formed (ringEnable s w n v) := .ite (.rngCtl h) h

protected theorem Formed.ringDisable (h : Formed s) : Formed (ringDisable s w n v) := .ite h (.rngCtl h)

protected theorem Formed.wakeEvent (h : Formed s) : Formed (wakeEvent s) := .ite h h

protected theorem Formed.readDoorbells {rings : List Nat} (h : Formed s) : Formed (readDoorbells s f rings) :=
  .foldl (fun _ _ ht => .ite ht (.putFn ht)) h

protected theorem Formed.wakeReads (h : Formed s) : Formed (wakeReads s f) := .readDoorbells (.putFn h)

protected theorem Formed.fnWake (h : Formed s) : Formed (fnWake s w f v) :=
  .withAuth h (fun _ ht => .ite (.progError ht) (.ite (.wakeReads (.putFn (.wakeEvent ht))) (.putFn (.wakeEvent ht))))

protected theorem Formed.pollTick (h : Formed s) : Formed (pollTick s f) := .ite (.readDoorbells h) h

protected theorem Formed.doorbellRead (h : Formed s) : Formed (doorbellRead s n v) :=
  .ite h (.ite (.putFn h) (.ite (.raiseF (.putRing (.putFn h))) (.putRing (.putFn h))))

protected theorem Formed.serveRing (h : Formed s) : Formed (serveRing s n) := .putRing h

protected theorem Formed.ageRing {q : Port} (h : Formed s) : Formed (ageRing s q n) := .ite (.putRing h) (.putRing h)

protected theorem Formed.arbitrate (h : Formed s) : Formed (arbitrate s pb) :=
  .foldl (fun _ _ ht => .ageRing ht) (.foldl (fun _ _ ht => .serveRing ht) (.putPort h))

protected theorem Formed.consume {e : BitVec 512} (h : Formed s) : Formed (consume s n e) :=
  .ite h (.ite (.putRing h) (.ite (.putRing (.ite (.modJob h) h)) (.rejectCmd (.putRing (.ite (.modJob h) h)))))

protected theorem Formed.interruptRaise (h : Formed s) : Formed (interruptRaise s n) := .ite (.foldl (fun _ _ ht => .putRing ht) h) h

protected theorem Formed.partitionAssign (h : Formed s) : Formed (partitionAssign s w f v) :=
  .withAuth h (fun _ ht => .ite (.ite (.progError (.putFn ht)) (.putFn ht))
      (.ite (.progError (.putFn ht)) (.ite (.setPctl (.putFn ht)) (.putFn ht))))

protected theorem Formed.fnRelease (h : Formed s) : Formed (fnRelease s w v) :=
  .withAuth h (fun _ ht => .ite ht (.ite (.putFn ht) (.ite (.putFn ht) (.progError ht))))

protected theorem Formed.undoWork (h : Formed s) : Formed (undoWork s p c) := by
  unfold undoWork
  extract_lets
  split
  · exact .modJob h
  · refine .foldl (fun _ _ ht => ?_) h
    split
    · split
      · exact .ite (.dropCommit ht) ht
      · exact ht
    · exact ht
  · refine .foldl (fun _ _ ht => ?_) h
    split
    · split
      · exact .ite (.exportEnd ht) ht
      · exact ht
    · exact ht
  · exact .foldl (fun _ _ ht => .modTbl ht) h
  · split
    · refine .ite ?_ h
      split
      · exact .keepPlan (.modJob h)
      · exact .dropJob h
    · exact h
  · exact .modJob h
  · exact .modJob h
  · exact .modTwin h
  · exact .modJob h
  · exact h

protected theorem Formed.abortCmd (h : Formed s) : Formed (abortCmd s c) :=
  .ite (.reshardAbort h) (.ite (.complete (.undoWork h)) (.undoWork h))

protected theorem Formed.abortEntries (h : Formed s) : Formed (abortEntries s n by').1 :=
  .iteBy Prod.fst (.endRuns h) (.foldl (fun _ _ ht => .abortCmd ht) h)

protected theorem Formed.stopRing (h : Formed s) : Formed (stopRing s n by').1 := .putRing (.abortEntries h)

protected theorem Formed.abortRefused (h : Formed s) : Formed (abortRefused s c) := .rejectCmd h

protected theorem Formed.abortOne {tag : Nat} (h : Formed s) : Formed (abortOne s c n tag) := by
  unfold abortOne
  refine .ite (.abortRefused h) ?_
  split
  · exact .complete (.abortCmd h)
  · exact .complete h

protected theorem Formed.abortRingCmd (h : Formed s) : Formed (abortRingCmd s c n) := .ite (.abortRefused h) (.completeAt (.stopRing h))

protected theorem Formed.discardReads (h : Formed s) : Formed (discardReads s f) := .putPort (.putFn h)

protected theorem Formed.abortFn (h : Formed s) : Formed (abortFn s f by').1 := by
  unfold abortFn
  refine .foldl (fun _ _ ht => ?_)
      (.discardReads (.foldl (fun _ _ ht => .abortCmd ht) (.foldlBy Prod.fst (fun _ _ ht => .stopRing ht) h)))
  extract_lets
  split
  · exact .ite (.abandonCause ht) ht
  · exact ht

protected theorem Formed.abortFnCmd (h : Formed s) : Formed (abortFnCmd s c f) := .ite (.abortRefused h) (.complete (.abortFn h))

protected theorem Formed.abortJobCmd (h : Formed s) : Formed (abortJobCmd s c) := by
  unfold abortJobCmd
  refine .ite (.abortRefused h) ?_
  split
  · exact .complete h
  · exact .ite (.complete h) (.modJob (.abandonCause h))

protected theorem Formed.resetRings (h : Formed s) : Formed (resetRings s f) := .foldl (fun _ _ ht => .putRing ht) h

protected theorem Formed.resetFn (h : Formed s) : Formed (resetFn s f) := .putFn (.resetRings (.abortFn h))

protected theorem Formed.functionReset (h : Formed s) : Formed (functionReset s f) :=
  .ite (.foldl (fun _ _ ht => .resetFn ht) h) (.resetFn h)

protected theorem Formed.cutIntakes (h : Formed s) : Formed (cutIntakes s pb) := by
  unfold cutIntakes
  refine .foldl (fun _ _ ht => ?_) h
  extract_lets
  split
  · exact ht
  · exact .foldl (fun _ _ ht1 => .complete (.modJob (.scramble ht1))) ht

protected theorem Formed.hostLoss (h : Formed s) : Formed (hostLoss s pb) :=
  .ite (.putPort h) (.raiseM
      (.foldl (fun _ _ ht => .putRing ht)
      (.cutIntakes (.foldl (fun _ _ ht => .endRuns (.cutRuns ht))
      (.foldl (fun _ _ ht => .ite (.putFn (.discardReads ht)) (.discardReads ht)) (.putPort h))))))

protected theorem Formed.hostLossCause {cause : LossCause} (h : Formed s) : Formed (hostLossCause s pb cause) := by
  unfold hostLossCause
  split
  · exact .hostLoss (.putPort h)
  · exact .hostLoss h

protected theorem Formed.portTrained {rate width : Nat} (h : Formed s) : Formed (portTrained s pb rate width) :=
  .ite h (.ite (.raiseM
      (.ite (.setWinB (.putPort (.ite (.foldl (fun _ _ ht => .putFn (.resetRings ht)) h) h)))
      (.setWinA (.putPort (.ite (.foldl (fun _ _ ht => .putFn (.resetRings ht)) h) h)))))
      (.ite (.setWinB (.putPort (.ite (.foldl (fun _ _ ht => .putFn (.resetRings ht)) h) h)))
      (.setWinA (.putPort (.ite (.foldl (fun _ _ ht => .putFn (.resetRings ht)) h) h)))))

protected theorem Formed.portRetrain (h : Formed s) : Formed (portRetrain s pb) := .ite (.putPort h) h

protected theorem Formed.readCompletion {f : FnNum} (h : Formed s) : Formed (readCompletion s pb f) := .ite (.putPort h) h

protected theorem Formed.unsupported (h : Formed s) : Formed (unsupported s) := h

protected theorem Formed.deliverSummary {addr : Nat} (h : Formed s) :
    FormedOpt id (deliverSummary s c pb p addr size) :=
  .ite .none (.some (.putPort (.hostWrite h)))

protected theorem Formed.attachCmd {addr : Nat} (h : Formed s) : Formed (attachCmd s c p addr size) := by
  unfold attachCmd
  refine .ite (.rejectCmd h) ?_
  split
  · exact .complete (.raiseF h)
  · next ht =>
      exact .complete (.foldl (fun _ _ ht1 => .putFn ht1) (.deliverSummary h _ ht))

protected theorem Formed.adoptCmd {addr : Nat} (h : Formed s) : Formed (adoptCmd s c p addr size) := by
  unfold adoptCmd
  refine .ite (.rejectCmd h) ?_
  split
  · exact .complete (.raiseF h)
  · next ht => exact .complete (.foldl (fun _ _ ht => .putFn ht) (.setPctl (h.deliverSummary _ ht)))

protected theorem Formed.putWin {b : WinBuf} (h : Formed s) : Formed (putWin s pb b) := .ite h h

protected theorem Formed.dropBuffer {a : Nat} (h : Formed s) : Formed (dropBuffer s pb a n) := .putWin h

protected theorem Formed.windowFail {a : Nat} (h : Formed s) : Formed (windowFail s f a) := .raiseF h

protected theorem Formed.windowWrite (h : Formed s) : Formed (windowWrite s f o bs) :=
  .ite h (.ite (.windowFail h) (.wr (.portBytes (.dropBuffer (.spdAccess h)))))

protected theorem Formed.fetchGranule {g : Nat} (h : Formed s) : Formed (fetchGranule s pb g) :=
  .ite h (.ite (.spdAccess h) (.putWin (.spdAccess h)))

protected theorem Formed.windowRead (h : Formed s) : Formed (windowRead s f o n) :=
  .ite h (.ite (.setRsp (.windowFail h))
      (.setRsp (.ite (.foldl (fun _ _ ht => .spdAccess ht) (.portBytes h))
      (.foldl (fun _ _ ht => .fetchGranule ht) (.foldl (fun _ _ ht => .spdAccess ht) (.portBytes h))))))

protected theorem Formed.semPut (h : Formed s) : Formed (semPut s i v) := .wrNow h

protected theorem Formed.semOp (h : Formed s) : Formed (semOp s i) := .setRsp (.spdAccess h)

protected theorem Formed.semSwap (h : Formed s) : Formed (semSwap s i v) := .ite (.semOp h) (.semPut (.semOp h))

protected theorem Formed.semRead (h : Formed s) : Formed (semRead s i) := .semOp h

protected theorem Formed.semWrite {v : W64} (h : Formed s) : Formed (semWrite s i v) := .semPut (.spdAccess h)

protected theorem Formed.semAdd {v : W32} (h : Formed s) : Formed (semAdd s i v) := .semSwap h

protected theorem Formed.semCas {old new : W64} (h : Formed s) : Formed (semCas s i old new) := .ite (.semSwap h) (.semOp h)

protected theorem Formed.loseBank {cls : Nat} (h : Formed s) : Formed (loseBank s bank cls) :=
  .ite (.count (.count h)) (.ite (.count (.count h)) (.count h))

protected theorem Formed.bankCycle {req : BitVec 7} (h : Formed s) : Formed (bankCycle s bank req) := by
  unfold bankCycle
  split
  · exact h
  · exact .setStreaksGranted (.foldl (fun _ _ ht => .loseBank ht) h)

protected theorem Formed.streakGrant {reqs : List (BitVec 7)} (h : Formed s) : Formed (streakGrant s bank reqs) :=
  .foldl (fun _ _ ht => .bankCycle ht) h

/-- A loss does not reach the flash: an unlisted address of it reads as zero. -/
theorem Memory.dflt_flash {m : Memory} {a : Nat} (h : 0x100000000000 ≤ a) : m.dflt a = 0 := by
  unfold Memory.dflt
  split
  · rfl
  · exact if_neg (by omega)

/-- The cells left lie in the flash, which keeps what it holds. -/
theorem Memory.wf_lose {m : Memory} (h : m.wf = true) (g : Nat) : (m.lose g).wf = true := by
  simp only [Memory.wf, Bool.and_eq_true, List.all_eq_true, decide_eq_true_eq] at h ⊢
  refine ⟨cellsRise_filter _ _ _ h.1, fun x hx => ?_⟩
  obtain ⟨hx, hflash⟩ := List.mem_filter.1 hx
  rw [Memory.dflt_flash (of_decide_eq_true hflash), ← Memory.dflt_flash (m := m) (of_decide_eq_true hflash)]
  exact h.2 x hx

protected theorem Formed.dark {st : ModState} (h : Formed s) : Formed (dark s st) :=
  ⟨Memory.wf_lose h.1 _, .nil, rfl, rfl, rfl, rfl, rfl⟩

protected theorem Formed.bootStart {offBoot : Bool} (h : Formed s) : Formed (bootStart s offBoot) := h

protected theorem Formed.trip {cause : Nat} (h : Formed s) : Formed (trip s cause) :=
  .ite h (.setTripTripCauseTripNew (.dark (st := .off) h))

protected theorem Formed.voltsIn (h : Formed s) : Formed (voltsIn s) := .ite (.bootStart h) h

protected theorem Formed.voltsOut (h : Formed s) : Formed (voltsOut s) := by
  obtain ⟨hmem, hrings, hrest⟩ : Formed (dark s .unpowered) := .dark h
  exact .ite h ⟨hmem, hrings, rfl, rfl, rfl, rfl, rfl⟩

protected theorem Formed.mgmtBoot (h : Formed s) : Formed (mgmtBoot s) :=
  .ite (.bootStart h) (.ite (.bootStart (.dark (st := .boot) h)) h)

protected theorem Formed.refLoss (h : Formed s) : Formed (refLoss s) := by
  unfold refLoss
  extract_lets
  split
  · exact .setRefclkRefOff (.dark (st := .off) h)
  · exact .setRefclkRefOff (.dark (st := .off) h)
  · exact .setRefclkRefOff (.dark (st := .boot) h)
  · exact h

protected theorem Formed.refReturn (h : Formed s) : Formed (refReturn s) := .ite (.bootStart h) h

protected theorem Formed.perstLow (h : Formed s) : Formed (perstLow s pb) := by
  unfold perstLow
  extract_lets
  split
  · exact .hostLossCause h
  · exact .wakeEvent (.hostLossCause h)
  · exact .putPort (.foldl (fun _ _ ht => .putFn (.resetRings ht)) (.putPort h))
  · exact .putPort h

protected theorem Formed.perstHigh (h : Formed s) : Formed (perstHigh s pb) := .ite h (.ite (.bootStart (.putPort h)) (.putPort h))

protected theorem Formed.dramTrained {ok : Bool} (h : Formed s) : Formed (dramTrained s k ok) := .ite h (.ite (.ite h h) (.raiseM h))

protected theorem Formed.setDoms {ds : List Nat} {v : DomState} (h : Formed s) : Formed (setDoms s ds v) :=
  .foldl (fun _ _ ht => .setDom ht) h

protected theorem Formed.bootEvents (h : Formed s) : Formed (bootEvents s) :=
  .ite (.raiseM (.setSec
      (.ite (.raiseM (.ite (.raiseM (.ite (.raiseM h) h)) (.ite (.raiseM h) h)))
      (.ite (.raiseM (.ite (.raiseM h) h)) (.ite (.raiseM h) h)))))
      (.ite (.raiseM (.ite (.raiseM (.ite (.raiseM h) h)) (.ite (.raiseM h) h)))
      (.ite (.raiseM (.ite (.raiseM h) h)) (.ite (.raiseM h) h)))

protected theorem Formed.enableHeld (h : Formed s) : Formed (enableHeld s) :=
  .foldl (fun _ _ ht => .enableRing ht) (.foldl (fun _ _ ht => .enableRing ht) h)

protected theorem Formed.wakeAllReads (h : Formed s) : Formed (wakeAllReads s) := .foldl (fun _ _ ht => .ite ht (.wakeReads ht)) h

protected theorem Formed.moduleReady (h : Formed s) : Formed (moduleReady s) :=
  .ite h (.wakeAllReads
      (.bootEvents (.enableHeld
      (.writeAlmanac (.setMst (.ite (.setAlm (.setDoms (.setDoms (.setDom h)))) (.setDoms (.setDoms (.setDom h)))))))))

protected theorem Formed.refuse {why : Nat} (h : Formed s) : Formed (refuse s w why) := .raiseF h

protected theorem Formed.storeReq {req : Nat} (h : Formed s) : Formed (storeReq s req force) := .ite h h

protected theorem Formed.powerRequest {off : Bool} (h : Formed s) : Formed (powerRequest s w off force) := by
  unfold powerRequest
  refine .withAuth h (fun _ ht => .ite (.storeReq ht) (.ite (.refuse (.setWhy (.storeReq ht))) ?_))
  split
  · exact .refuse (.setDpartDtidWhy (.storeReq ht))
  · exact .setPendingWhyRstat (.storeReq ht)

protected theorem Formed.requestSleep (h : Formed s) : Formed (requestSleep s w force) := .powerRequest h

protected theorem Formed.requestOff (h : Formed s) : Formed (requestOff s w force) := .powerRequest h

protected theorem Formed.requestWake (h : Formed s) : Formed (requestWake s w force) :=
  .withAuth h (fun _ ht => .ite (.setPendingRstat (.storeReq ht)) (.wakeEvent (.storeReq ht)))

protected theorem Formed.waitTimeout (h : Formed s) : Formed (waitTimeout s) := .ite (.refuse h) h

protected theorem Formed.losePd63 (h : Formed s) : Formed (losePd63 s) := .unpark h

/-- Every link in a state that keeps their number. -/
protected theorem Formed.mapLinks {f : LinkSt → LinkSt} (h : Formed s) :
    Formed { s with fabr := { s.fabr with links := s.fabr.links.map f } } := by
  obtain ⟨hmem, hrings, hpd, hlinks, hrest⟩ := h
  exact ⟨hmem, hrings, hpd, (List.length_map _).trans hlinks, hrest⟩

protected theorem Formed.enterSleep (h : Formed s) : Formed (enterSleep s) :=
  .ite h (.mapLinks (.ite (.setDoms (.setDoms (.setDoms (.losePd63 (.writeAlmanac h)))))
    (.setDom (.setDoms (.setDoms (.setDoms (.losePd63 (.writeAlmanac h))))))))

protected theorem Formed.wakeDone (h : Formed s) : Formed (wakeDone s) :=
  .ite h (.wakeAllReads (.setSortsShortEndMstWaking (.setDoms (.setDoms (.setDom h)))))

protected theorem Formed.enterOff (h : Formed s) : Formed (enterOff s) :=
  .ite h (.setRstatTripTripCause (.dark (st := .off) (.writeAlmanac (.checkpointMap h))))

protected theorem Formed.setDuty {d : Nat} (h : Formed s) : Formed (setDuty s d) := h

protected theorem Formed.powerSample {w : Nat} (h : Formed s) : Formed (powerSample s w) := .ite h (.ite (.setDuty h) h)

protected theorem Formed.dutyTick (h : Formed s) : Formed (dutyTick s) := .ite (.setDuty h) (.ite (.setDuty h) h)

protected theorem Formed.brakeOn (h : Formed s) : Formed (brakeOn s) := .setDuty h

protected theorem Formed.brakeOff (h : Formed s) : Formed (brakeOff s) := h

protected theorem Formed.dieReport {d : Nat} {t : ℤ} (h : Formed s) : Formed (dieReport s d t) :=
  .ite h (.ite (.trip h) (.ite (.raiseM h) h))

protected theorem Formed.dramTemp {t : ℤ} (h : Formed s) : Formed (dramTemp s k t) :=
  .ite h (.ite (.trip (.dramReport h)) (.dramReport h))

protected theorem Formed.criticalHold (h : Formed s) : Formed (criticalHold s k) := by
  unfold criticalHold
  refine .ite h (.raiseM (.foldl (fun _ _ ht => ?_) h))
  extract_lets
  split
  · exact .ite ht (.abandonCause ht)
  · exact ht

protected theorem Formed.criticalTrip (h : Formed s) : Formed (criticalTrip s k) := .ite (.trip h) h

protected theorem Formed.watchdog (h : Formed s) : Formed (watchdog s) := .ite h h

protected theorem Formed.hkRestarted (h : Formed s) : Formed (hkRestarted s) := .ite (.raiseM h) h

protected theorem Formed.lifeSecond (h : Formed s) : Formed (lifeSecond s) := h

protected theorem Formed.powerOn (h : Formed s) : Formed (powerOn s n) := .ite h (.foldl (fun _ _ ht => .lifeSecond ht) h)

protected theorem Formed.tick (h : Formed s) : Formed (tick s) := .ite h (.powerOn (.whileActive h (fun _ ht => .modLive ht)))

protected theorem Formed.idle (h : Formed s) : Formed (idle s) := .pump (.tick h)

protected theorem Formed.crystalTick (h : Formed s) : Formed (crystalTick s) := .ite h (.powerOn h)

protected theorem Formed.calendarTick (h : Formed s) : Formed (calendarTick s) := .ite h h

protected theorem Formed.timSet (h : Formed s) : Formed (timSet s w v) := .withAuth h (fun _ ht => .ite (.progError ht) (.stepTime ht))

protected theorem Formed.utcWrite (h : Formed s) : Formed (utcWrite s w v) := .withAuth h (fun _ ht => ht)

protected theorem Formed.ptmDialog {t1 t2 t3 t4 delay : Nat} (h : Formed s) : Formed (ptmDialog s pb t1 t2 t3 t4 delay) :=
  .ite h (.ite (.follow h) h)

protected theorem Formed.putFlushed {a : Nat} (h : Formed s) : Formed (putFlushed s a bs) := .dropBuffer (.dropBuffer (.wrNow h))

protected theorem Formed.almanacRead (h : Formed s) : Formed (almanacRead s w) :=
  .withAuth h (fun _ ht => .ite ht (.ite (.progError ht) (.setAlmLenAlmDone (.putFlushed ht))))

protected theorem Formed.lkBlow (h : Formed s) : Formed (lkBlow s o bs) := h

protected theorem Formed.lkBlowBit (h : Formed s) : Formed (lkBlowBit s o k) := .lkBlow h

protected theorem Formed.bootSigning (h : Formed s) : Formed (bootSigning s) := .ite h (.ite (.setSec (.lkBlowBit h)) h)

protected theorem Formed.policyAddress (h : Formed s) : Formed (policyAddress s) := .ite h h

protected theorem Formed.bootSettings (h : Formed s) : Formed (bootSettings s) := by
  unfold bootSettings
  refine .policyAddress ?_
  split
  · exact .ite (.setAlm (.wearBoot h)) (.wearBoot h)
  · exact .wearBoot h

protected theorem Formed.runImage {b : Bool} (h : Formed s) : Formed (runImage s b m) := by
  unfold runImage
  refine .bootSigning (.bootSettings ?_)
  split
  · exact .extend (.foldl (fun _ _ ht => .extend ht) (.extend h))
  · exact .foldl (fun _ _ ht => .extend ht) (.extend h)

protected theorem Formed.bootVerify (h : Formed s) : Formed (bootVerify s) := by
  unfold bootVerify
  refine .ite h ?_
  extract_lets
  split
  · exact .ite (.runImage (.setDoms h)) (.setBootFailed (.setDoms h))
  · exact .setBootFailed (.setDoms h)

protected theorem Formed.takeIndex (h : Formed s) : FormedOpt Prod.snd (takeIndex s) := by
  unfold takeIndex
  extract_lets i k s1 sec1 s2 sec2 s3
  have h1 : Formed s1 := .ite (.lkBlowBit h) h
  have h2 : Formed s2 := .ite (.writeAlmanac (.setSec h1)) h1
  have h3 : Formed s3 := .setSec h2
  clear_value s3
  exact .ite .none (.ite (.some (.raiseM (.setSec h3))) (.some h3))

protected theorem Formed.attEnd {status len : Nat} (h : Formed s) : Formed (attEnd s status len) := h

protected theorem Formed.attest {nonce : Option (List Byte)} (h : Formed s) : Formed (attest s w nonce) := by
  unfold attest
  refine .withAuth h (fun _ ht => .ite (.attEnd ht) ?_)
  split
  · exact .attEnd ht
  · next ht1 =>
      exact .attEnd (.putFlushed (.takeIndex ht _ ht1))

protected theorem Formed.answer {status reason result : Nat} (h : Formed s) : Formed (answer s r code status reason result) := h

protected theorem Formed.refuseReq {reason : Nat} (h : Formed s) : Formed (refuseReq s r code reason) := .answer h

protected theorem Formed.steward {f : State → State} (h : Formed s) (hf : ∀ t, Formed t → Formed (f t)) : Formed (steward s r code f) :=
  .ite h (.ite (.setRsp (.noAuth h)) (.ite (.refuseReq h) (.ite (.refuseReq h) (hf _ h))))

protected theorem Formed.fwUpdate (h : Formed s) : Formed (fwUpdate s r m) := by
  unfold fwUpdate
  refine .steward h (fun _ ht => ?_)
  extract_lets
  split
  · exact .answer ht
  · exact .refuseReq ht
  · exact .refuseReq ht
  · exact .refuseReq ht
  · exact .answer ht

protected theorem Formed.svCommit (h : Formed s) : Formed (svCommit s r) :=
  .steward h (fun _ ht => .answer (.foldl (fun _ _ ht1 => .lkBlowBit ht1) ht))

protected theorem Formed.rkRevoke {st : Signed} (h : Formed s) : Formed (rkRevoke s r st) :=
  .steward h (fun _ ht => .ite (.refuseReq ht) (.ite (.answer ht) (.answer (.lkBlowBit ht))))

protected theorem Formed.lkProg {rec' : Signed} (h : Formed s) : Formed (lkProg s r rec') := by
  unfold lkProg
  refine .steward h (fun _ ht => ?_)
  extract_lets
  split
  · exact .refuseReq ht
  · exact .ite (.refuseReq ht) (.ite (.answer ht) (.answer (.lkBlow ht)))

protected theorem Formed.dbgUnlock (h : Formed s) : Formed (dbgUnlock s r) :=
  .steward h (fun _ ht => .ite (.refuseReq ht) (.answer (.raiseM (.setSec (.extend ht)))))

protected theorem Formed.idCsr (h : Formed s) : Formed (idCsr s r) := by
  unfold idCsr
  refine .steward h (fun _ ht => .ite (.refuseReq ht) ?_)
  split
  · exact .refuseReq ht
  · next ht1 =>
      exact .ite (.answer (.putFlushed (.takeIndex ht _ ht1))) (.setRsp (.answer (.takeIndex ht _ ht1)))

protected theorem Formed.idInstall {c : Cert} (h : Formed s) : Formed (idInstall s r c) :=
  .steward h (fun _ ht => .ite (.answer ht) (.refuseReq ht))

protected theorem Formed.recoverBank (h : Formed s) : Formed (recoverBank s r m) :=
  .ite h (.ite (.setRsp (.noAuth h)) (.ite (.refuseReq h) (.ite (.refuseReq h) (.answer h))))

protected theorem Formed.rollRestart (h : Formed s) : Formed (rollRestart s w) :=
  .withAuth h fun _ ht => .policyAddress (.mapLinks ht)

protected theorem Formed.nodeWrite (h : Formed s) : Formed (nodeWrite s w v) := .withAuth h (fun _ ht => .ite (.raiseM ht) (.ite ht ht))

protected theorem Formed.podTimeout (h : Formed s) : Formed (podTimeout s) := .ite h h

protected theorem Formed.readClears (h : Formed s) : Formed (readClears s o) := .ite h (.ite h (.ite h (.ite (.putFrost h) h)))

protected theorem Formed.regRead {off : Nat} (h : Formed s) : Formed (regRead s w off size) :=
  .ite h (.ite (.setRsp (.progError h)) (.ite (.setRsp (.noAuth h)) (.ite (.readClears h) h)))

protected theorem Formed.ranged {right range : Bool} {f : State → State} (h : Formed s) (hf : ∀ t, Formed t → Formed (f t)) :
    Formed (ranged s a right range f) :=
  .withAuth h (fun _ ht => .ite (hf _ ht) (.progError ht))

protected theorem Formed.fnWr (h : Formed s) : Formed (fnWr s a) := by
  unfold fnWr
  refine .ite ?_ (.ite (.fnRelease h) h)
  split
  · exact .ite (.fnWake h) h
  · exact .ranged h (fun _ ht => .putFn ht)
  · exact .ite (.partitionAssign h) h
  · exact .withAuth h (fun _ ht => .putFn ht)
  · exact h

protected theorem Formed.prtWr (h : Formed s) : Formed (prtWr s a) := by
  unfold prtWr
  extract_lets
  split
  · exact .ranged h (fun _ ht => .putPort ht)
  · exact .ranged h (fun _ ht => .putPort ht)
  · exact h

protected theorem Formed.dmaWr (h : Formed s) : Formed (dmaWr s a) := .ite h (.ranged h (fun _ ht => .putChan ht))

protected theorem Formed.pwrWr (h : Formed s) : Formed (pwrWr s a) := by
  unfold pwrWr
  split
  · refine .ite h ?_
    split
    · exact .requestWake h
    · exact .requestSleep h
    · exact .requestOff h
    · exact .ranged h (fun _ ht => ht)
  · exact .ranged h (fun _ ht => ht)
  · exact .ranged h (fun _ ht => ht)
  · exact h

protected theorem Formed.timWr (h : Formed s) : Formed (timWr s a) := by
  unfold timWr
  split
  · exact .withAuth h (fun _ ht => ht)
  · exact .timSet h
  · exact .utcWrite h
  · exact .ranged h (fun _ ht => ht)
  · exact .ranged h (fun _ ht => ht)
  · exact h

protected theorem Formed.loopWrite (h : Formed s) : Formed (loopWrite s w v) :=
  .withAuth h (fun _ ht => .setLoop (.foldl (fun _ _ ht1 => .putLink ht1) ht))

protected theorem Formed.lnkWr (h : Formed s) : Formed (lnkWr s a) := by
  unfold lnkWr
  split
  · exact .ranged h (fun _ ht => ht)
  · exact .ite (.loopWrite h) h
  · exact h

protected theorem Formed.tierWr (h : Formed s) : Formed (tierWr s a) :=
  .ite h (.ite (.ite h (.ranged h (fun _ ht => ht))) (.ite (.ranged h (fun _ ht => ht)) h))

protected theorem Formed.rowWr (h : Formed s) : Formed (rowWr s a) := .ite h (.ranged h (fun _ ht => ht))

protected theorem Formed.mboxGo (h : Formed s) : Formed (mboxGo s w) := by
  unfold mboxGo
  refine .withAuth h (fun _ ht => ?_)
  extract_lets
  split
  · exact .svCommit ht
  · exact .dbgUnlock ht
  · exact .idCsr ht
  · exact .ite (.refuseReq ht) ht

protected theorem Formed.secWr (h : Formed s) : Formed (secWr s a) := by
  unfold secWr
  refine .ite (.withAuth h (fun _ ht => .setSec ht)) ?_
  split
  · exact .ite (.mboxGo h) h
  · exact .withAuth h (fun _ ht => .setSec ht)
  · exact .ite (.attest h) h
  · exact h

protected theorem Formed.aonWr (h : Formed s) : Formed (aonWr s a) := by
  unfold aonWr
  split
  · exact .ite (.nodeWrite h) h
  · exact .ite (.rollRestart h) h
  · exact .withAuth h (fun _ ht => ht)
  · exact .ite (.almanacRead h) h
  · exact h

protected theorem Formed.rngWr (h : Formed s) : Formed (rngWr s a) := .ite (.rngCtl h) (.ite (.ranged h (fun _ ht => .putRing ht)) h)

protected theorem Formed.blkWr (h : Formed s) : Formed (blkWr s a) := by
  unfold blkWr
  extract_lets o b r c put
  have hput (c : CtrBlk) {t : State} (ht : Formed t) : Formed (put t c) := .modLive ht
  refine .ite ?_ (.ite ?_ (.ite ?_ (.ite ?_ (.ite ?_ h))))
  · exact .withAuth h fun _ => hput _
  · exact .ranged h fun _ => hput _
  · exact .withAuth h fun _ => hput _
  · exact .withAuth h fun _ => hput _
  · exact .withAuth h fun _ => hput _

protected theorem Formed.frostWr (h : Formed s) : Formed (frostWr s a) := by
  unfold frostWr
  extract_lets
  split
  · refine .ite h ?_
    split
    · exact .frostCancel h
    · exact .frostArmTime h
    · exact .frostArmSeal h
    · exact .frostNow h
  · exact .withAuth h (fun _ ht => .putFrost ht)
  · exact h

protected theorem Formed.traceWr (h : Formed s) : Formed (traceWr s a) := by
  unfold traceWr
  dsimp only
  split
  · exact .withAuth h fun _ ht => .putTrace (.ite (.progError ht) ht)
  · exact .ranged h fun _ ht => .putTrace ht
  · exact .withAuth h fun _ ht => .putTrace ht
  · exact h

protected theorem Formed.ctrWr (h : Formed s) : Formed (ctrWr s a) := by
  unfold ctrWr
  extract_lets
  exact .ite (.blkWr h)
      (.ite (.frostWr h) (.ite (.bwlenWrite h) (.ite (.withAuth h (fun _ ht => .setVfrd ht)) (.ite (.xselWrite h) h))))

protected theorem Formed.blockWrite (h : Formed s) : Formed (blockWrite s a) := by
  unfold blockWrite
  extract_lets
  exact .ite h (.ite (.fnWr h)
      (.ite (.prtWr h) (.ite (.dmaWr h)
      (.ite (.pwrWr h) (.ite h
      (.ite (.timWr h) (.ite (.lnkWr h)
      (.ite h (.ite (.tierWr h)
      (.ite (.rowWr h) (.ite (.secWr h)
      (.ite (.aonWr h) (.ite h (.ite (.rngWr h) (.ite (.traceWr h) (.ite (.ctrWr h) (.ite (.setMsixTab h) h)))))))))))))))))

protected theorem Formed.regWrite {off : Nat} (h : Formed s) : Formed (regWrite s w off size v) :=
  .ite h (.ite (.progError h) (.blockWrite h))

protected theorem Formed.background {f : State → State} (h : Formed s) (hf : ∀ t, Formed t → Formed (f t)) :
    Formed (background s p tid f) :=
  .ite (hf _ h) h

protected theorem Formed.drizzle {f : State → State} (h : Formed s) (hf : ∀ t, Formed t → Formed (f t)) :
    Formed (drizzle s p tid f) := by
  unfold drizzle
  split
  · exact h
  · exact .ite h (.background h (fun _ ht => hf _ ht))

protected theorem Formed.flashWork {f : State → State} (h : Formed s) (hf : ∀ t, Formed t → Formed (f t)) : Formed (flashWork s f) :=
  .whileActive h (fun _ ht => .ite ht (.ite (hf _ ht) (.noteWait ht)))

protected theorem Formed.writebackDue {row : Nat} (h : Formed s) : Formed (writebackDue s p tid row) := by
  unfold writebackDue
  split
  · exact h
  · exact .ite (.whenOpen h (fun _ ht => .writebackRow ht)) h

end Sys2Proof.Machine
end

section
/-! PROOFS. Every step keeps the form of the state: the commands one by one, and the idle tick. -/

namespace Sys2Proof.Machine

/-- A next state that is answered has the form. -/
def FormedNext (o : Host.Outcome State Fault Refusal) : Prop := ∀ t, o = .next t → Formed t

variable {s : State}

protected theorem FormedNext.next (h : Formed s) : FormedNext (.next s) := by
  rintro _ ⟨⟩
  exact h

protected theorem FormedNext.jtagAccess {inst : JtagInst} (h : Formed s) : FormedNext (execJtagAccess inst s) := by
  unfold execJtagAccess
  split
  · intro _ ht
    cases ht
  · exact .next h

/-- What each command leaves has the form, by what its operation leaves. -/
theorem formedNext_exec (h : Formed s) (i : Instr) : FormedNext (exec i s) := by
  cases i
  case anop | awld | asld | amm | ammt | atwin | aacc | aque | adrn | admp | aldmp | amovToScratchpad | amovToStore | aclr | amode |
      vnop | vld | vst | vmov | vbc | vtr | vgth | vsel | vmsk | vmcmp | vmlog | vadd | vsub | vmul | vfma | vdiv | vmax | vmin |
      vabs | vneg | vscl | vsqrt | vrsq | vexp2 | vlog2 | vact | vactd | vnrm | vnrmb | vsmx | vsmxb | vbce | vmse | vcvt | vqnt |
      vdq | vrnd | vdrp | rsum | rmax | rmin | rssq | rdot | sat | scue | sarr | send | pwake | pgateOff | pgateRetain | dmaq |
      lkgIndexExchange | lkgFetchPool | lkgBackwardPartials | lkgOwnerSums | lkgRowUpdates =>
    exact .next (.pushWord h)
  case deferredEntryDrain => exact .next (.drainEntry h)
  case domainWakeComplete => exact .next (.whileActive h (fun _ ht => .domWoken ht))
  case xchRq | xchRf | xchAg | xchCh => exact .next (.ite (.pushWord h) h)
  case cuePointFire => exact .next (.cueFire h)
  case tokenTreeMessage => exact .next (.tokenMsg h)
  case vetoTokenComplete => exact .next (.tokenComplete h)
  case sealContribution => exact .next (.sealContribute h)
  case sealTreeMessage => exact .next (.sealMsg h)
  case stepBeacon => exact .next (.beaconMsg h)
  case sealReached => exact .next (.tryRound (.reshardMissed (.readyVote (.sealReach h))))
  case lossScaleGrowth => exact .next (.lossGrowth h)
  case stepStart => exact .next (.stepStart h)
  case startReadiness | resumeReadiness => exact .next (.readyMsg h)
  case stepAbandon => exact .next (.stepAbandon h)
  case unitFault => exact .next (.unitFault h)
  case selftestComplete => exact .next (.selftestComplete h)
  case batch => exact .next (.command h (fun _ ht => .batchStart ht))
  case batchDmaComplete => exact .next (.batchDone h)
  case sortStart => exact .next (.whileActive h (fun _ ht => .sortBegin ht))
  case sortComplete => exact .next (.sortEnd h)
  case indexRoundMessage => exact .next (.indexArrive h)
  case ownerFetch => exact .next (.ownerFetch h)
  case payloadRoundMessage => exact .next (.payloadArrive h)
  case spillRound => exact .next (.spillPull h)
  case spillRoundMessage => exact .next (.spillArrive h)
  case poolingStart => exact .next (.poolGroup h)
  case gradientRoundMessage => exact .next (.gradArrive h)
  case rowUpdate => exact .next (.updateRow h)
  case forecastHintMessage => exact .next (.hintArrive h)
  case hintService => exact .next (.whileActive h (fun _ ht => .hintServe ht))
  case promotionReadComplete => exact .next (.whileActive h (fun _ ht => .promotionEnd ht))
  case drizzleEvict => exact .next (.drizzle h (fun _ ht => .drizzleEvict ht))
  case drizzleWarmPromote => exact .next (.drizzle h (fun _ ht => .whenOpen ht (fun _ ht1 => .warmPromote ht1)))
  case writeback => exact .next (.background h (fun _ ht => .writebackDue ht))
  case writebackDurable => exact .next (.whileActive h (fun _ ht => .whenOpen ht (fun _ ht1 => .startMoves (.durable ht1))))
  case decaySweep => exact .next (.drizzle h (fun _ ht => .whenOpen ht (fun _ ht1 => .runSweep ht1)))
  case rangeMerge => exact .next (.drizzle h (fun _ ht => .whenOpen ht (fun _ ht1 => .mergeRange ht1)))
  case garbageCollection => exact .next (.flashWork h (fun _ ht => .collectGarbage ht))
  case wearLevelMove => exact .next (.flashWork h (fun _ ht => .levelWear ht))
  case blockFailure => exact .next (.flashWork h (fun _ ht => .retireBlock ht))
  case mapCheckpoint => exact .next (.flashWork h (fun _ ht => .checkpointMap ht))
  case t3Mount => exact .next (.whileActive h (fun _ ht => .mountT3 ht))
  case ftlRebuild => exact .next (.whileActive h (fun _ ht => .rebuildMap ht))
  case hourlyTick => exact .next (.ite (.hourly h) h)
  case regulatorRefill => exact .next (.refillAll h)
  case dramTempReport => exact .next (.dramTemp h)
  case dramCapTick => exact .next h.dramTick
  case flashTempReport => exact .next (.flashReport h)
  case dramCriticalHold => exact .next (.criticalHold h)
  case dramCriticalTrip => exact .next (.criticalTrip h)
  case dieTempReport => exact .next (.dieReport h)
  case tdef => exact .next (.command h (fun _ ht => .tableDefine ht))
  case trel => exact .next (.command h (fun _ ht => .tableRelease ht))
  case place => exact .next (.command h (fun _ ht => .tablePlace ht))
  case param => exact .next (.command h (fun _ ht => .tableParam ht))
  case stage => exact .next (.command h (fun _ ht => .stageTable ht))
  case commit => exact .next (.command h (fun _ ht => .commitTable ht))
  case stagedCheckComplete => exact .next (.checkStaged h)
  case exportTable => exact .next (.command h (fun _ ht => .exportStart ht))
  case exportWalkRow => exact .next (.whileActive h (fun _ ht => .exportRow ht))
  case exportComplete => exact .next (.whileActive h (fun _ ht => .exportDone ht))
  case tflush => exact .next (.command h (fun _ ht => .tierFlush ht))
  case digestBuild => exact .next (.whileActive h (fun _ ht => .buildRow ht))
  case pload => exact .next (.command h (fun _ ht => .planLoad ht))
  case reshard => exact .next (.command h (fun _ ht => .reshardCmd ht))
  case reshardCheckComplete => exact .next (.reshardCheck h)
  case readyVote => exact .next (.readyVoteMsg h)
  case reshardMoveMessage => exact .next (.moveArrive h)
  case commitVote => exact .next (.commitMsg h)
  case pause => exact .next (.command h (fun _ ht => .pauseJob ht))
  case resume => exact .next (.command h (fun _ ht => .resumeJob ht))
  case pair => exact .next (.command h (fun _ ht => .pairJob ht))
  case abortCommand => exact .next (.command h (fun _ ht => .abortOne ht))
  case abortRing => exact .next (.command h (fun _ ht => .abortRingCmd ht))
  case abortFunction => exact .next (.command h (fun _ ht => .abortFnCmd ht))
  case abortJob => exact .next (.command h (fun _ ht => .abortJobCmd ht))
  case attach => exact .next (.command h (fun _ ht => .attachCmd ht))
  case adopt => exact .next (.command h (fun _ ht => .adoptCmd ht))
  case firstHopMessage => exact .next (.firstHop h)
  case spineHopMessage => exact .next (.spineHop h)
  case releaseChunk => exact .next (.releaseChunk h)
  case chunkUpdate => exact .next (.chunkStep h)
  case copyHash => exact .next (.sendHash h)
  case allgatherSpineMessage | allgatherPodMessage => exact .next (.refreshEnd (.gatherArrive h))
  case copyDigestMessage => exact .next (.refreshEnd (.digestArrive h))
  case shardRerequestMessage => exact .next (.rerequestArrive h)
  case chainHopMessage => exact .next (.chainArrive h)
  case expertTokenMessage => exact .next (.expertArrive h)
  case sequenceBlockMessage => exact .next (.sequenceArrive h)
  case twinTokenMessage => exact .next (.twinToken h)
  case twinMessage => exact .next (.twinMsg h)
  case twinLost => exact .next (.twinLost h)
  case historyPoll => exact .next (.tryRound (.pollMsg h))
  case bisectionListMessage => exact .next (.bisectList h)
  case repairDataMessage => exact .next (.repairData h)
  case repairRoundComplete => exact .next (.repairRound h)
  case failedRecordRepair => exact .next (.failedRepair h)
  case frameReceive => exact .next (.receiveFrame h)
  case replayRequestReceive => exact .next (.replayRequest h)
  case linkMessageReceive => exact .next (.deliver h)
  case messageRelay => exact .next (.relay h)
  case linkRetrain | ackProgressTimeout | codewordLockLoss => exact .next (.retrainIf h)
  case retrainComplete => exact .next (.retrainDone h)
  case linkBackgroundTrain => exact .next (.backgroundTrain h)
  case linkTrained => exact .next (.trained h)
  case chainInEdge => exact .next (.chainEdge h)
  case chainInLowTimeout => exact .next (.chainLow h)
  case rollCallAnnounce => exact .next (.announceSlot h)
  case podControllerTimeout => exact .next (.podTimeout h)
  case timeExchangeTick => exact .next (.timeRequest h)
  case timeRequestMessage => exact .next (.timeReplyTo h)
  case timeReplyMessage => exact .next (.timeReply h)
  case timeSyncLost => exact .next (.timeLost h)
  case ptmDialog => exact .next (.ptmDialog h)
  case crystalTick => exact .next (.crystalTick h)
  case calendarTick => exact .next (.calendarTick h)
  case fnWake => exact .next (.fnWake h)
  case doorbellPollTick => exact .next (.pollTick h)
  case doorbellRead => exact .next (.doorbellRead h)
  case arbitrationRound => exact .next (.arbitrate h)
  case commandConsume => exact .next (.consume h)
  case interruptRaise => exact .next (.interruptRaise h)
  case functionLevelReset => exact .next (.functionReset h)
  case hostLossHold => exact .next (.hostLossCause h)
  case pcieLinkTrained => exact .next (.portTrained h)
  case pcieRetrain => exact .next (.portRetrain h)
  case descriptorFetch => exact .next (.descFetch h)
  case descriptorFetchFail => exact .next (.descFetchFail h)
  case dmaNop | dmaClasp => exact .next (.dmaNone h)
  case dmaCopy => exact .next (.dmaCopy h)
  case dmaFill => exact .next (.dmaFill h)
  case dmaExpdst => exact .next (.dmaExpdst h)
  case dmaTransferComplete => exact .next (.transferComplete h)
  case claspFlushComplete => exact .next (.claspFlush h)
  case dmaStatusWrite => exact .next (.statusWrite h)
  case semaphoreRead => exact .next (.semRead h)
  case semaphoreWrite => exact .next (.semWrite h)
  case semaphoreFetchAdd => exact .next (.semAdd h)
  case semaphoreCompareSwap => exact .next (.semCas h)
  case stallStreakGrant => exact .next (.streakGrant h)
  case power54vInRange => exact .next (.voltsIn h)
  case power54vLoss => exact .next (.voltsOut h)
  case mgmtBoot => exact .next (.mgmtBoot h)
  case bootVerifyDone => exact .next (.bootVerify h)
  case dramTrainingDone => exact .next (.dramTrained h)
  case moduleReady => exact .next (.moduleReady h)
  case refclkLoss => exact .next (.refLoss h)
  case refclkReturn => exact .next (.refReturn h)
  case perstAssert => exact .next (.perstLow h)
  case perstRelease => exact .next (.perstHigh h)
  case pwrBrakeAssert => exact .next (.brakeOn h)
  case pwrBrakeRelease => exact .next (.brakeOff h)
  case powerSample => exact .next (.powerSample h)
  case dutyAdjustTick => exact .next (.dutyTick h)
  case watchdogExpiry => exact .next (.watchdog h)
  case hkRestartComplete => exact .next (.hkRestarted h)
  case pwrReqSleep => exact .next (.requestSleep h)
  case pwrReqOff => exact .next (.requestOff h)
  case pwrReqWake => exact .next (.requestWake h)
  case sleepWaitTimeout => exact .next (.waitTimeout h)
  case sleepEntry => exact .next (.enterSleep h)
  case offEntry => exact .next (.enterOff h)
  case mgmtWake => exact .next (.wakeEvent h)
  case wakeComplete => exact .next (.wakeDone h)
  case timSet => exact .next (.timSet h)
  case timUtcWrite => exact .next (.utcWrite h)
  case almanacRead => exact .next (.almanacRead h)
  case attestationRequest => exact .next (.attest h)
  case fwupdate => exact .next (.fwUpdate h)
  case svcommit => exact .next (.svCommit h)
  case rkrevoke => exact .next (.rkRevoke h)
  case lkprog => exact .next (.lkProg h)
  case dbgunlock => exact .next (.dbgUnlock h)
  case idcsr => exact .next (.idCsr h)
  case idinstall => exact .next (.idInstall h)
  case recover => exact .next (.recoverBank h)
  case rollCallRestart => exact .next (.rollRestart h)
  case aonNodeWrite => exact .next (.nodeWrite h)
  case partitionAssign => exact .next (.partitionAssign h)
  case fnRelease => exact .next (.fnRelease h)
  case ringEnable => exact .next (.ringEnable h)
  case ringDisable => exact .next (.ringDisable h)
  case linkLoopWrite => exact .next (.loopWrite h)
  case bwlenWrite => exact .next (.bwlenWrite h)
  case bandwidthWindowClose => exact .next (.windowClose h)
  case frostCancel => exact .next (.frostCancel h)
  case frostArmTime => exact .next (.frostArmTime h)
  case frostArmSeal => exact .next (.frostArmSeal h)
  case frostAtOnce => exact .next (.frostNow h)
  case frostCaptureTime => exact .next (.frostTime h)
  case ctrXselClear => exact .next (.xselWrite h)
  case sampleRecord => exact .next (.sampleRecord h)
  case registerWrite => exact .next (.regWrite h)
  case registerReadClear | registerRead => exact .next (.regRead h)
  case arrayInstructionComplete => exact .next (.arrDone h)
  case vectorInstructionComplete => exact .next (.vecDone h)
  case frameTransmit => exact .next (.transmit h)
  case hostWindowWrite => exact .next (.windowWrite h)
  case hostWindowRead => exact .next (.windowRead h)
  case hostReadCompletion => exact .next (.readCompletion h)
  case unsupportedRequest => exact .next (.unsupported h)
  case jtagAccess => exact .jtagAccess h

/-- A step is the idle tick, or the front command on the queue's rest. -/
theorem formedNext_step (h : Formed s) : FormedNext (step s) := by
  unfold step
  split
  · exact .next (.idle h)
  · exact formedNext_exec (.setPending h) _

/-- Settles O58: `Formed` is what the statement says every step keeps. -/
theorem invariantKept : Obligations.InvariantKept := by
  unfold Obligations.InvariantKept StepKeeps
  exact fun _ t h hstep => formedNext_step h t hstep

end Sys2Proof.Machine
end

section
/-! PROOFS. The control words of a stream: SAT, SCUE, SARR and SEND (R245, R247). -/

namespace Sys2Proof.Machine

/-! ### A word that issues as it comes -/

/-- A stream past the word that it has issued. -/
def Stream.passed (st : Stream) : Stream := { st with index := st.index + 1 }

/-- The state in which a word that has come to a stream, and that the stream has taken, has its effect. -/
def atWord (s : State) (p : Part) (u : SUnit) (x : SWord) : State :=
  modJob (queued s p u x) p fun k => k.modStream u (Stream.taken [])

theorem restreamed_atWord (s : State) (p : Part) (u : SUnit) (x : SWord) :
    restreamed s (atWord s p u x) p u fun st => (st.given x).taken [] :=
  (restreamed_queued s p u x).trans (restreamed_modStream ..)

/-- The state without the jobs and the counters. -/
def unworked (s : State) : State := { s with jobs := [], isl := {} }

/-- Two states that differ only in jobs and counters are the same without them. -/
theorem eq_but_work_iff {s t : State} : t = { s with jobs := t.jobs, isl := t.isl } ↔ unworked t = unworked s := by
  constructor
  · intro h; rw [h]; rfl
  · intro h
    exact congrArg (fun v : State => { v with jobs := t.jobs, isl := t.isl }) h

theorem unworked_modJob (s : State) (p : Part) (f : Job → Job) : unworked (modJob s p f) = unworked s := by
  unfold modJob
  split <;> rfl

theorem unworked_atWord (s : State) (p : Part) (u : SUnit) (x : SWord) : unworked (atWord s p u x) = unworked s :=
  (unworked_modJob ..).trans (unworked_modJob ..)

theorem unworked_noted (s : State) : unworked (noted s) = unworked s :=
  noted_field unworked (fun t p _ _ => unworked_modJob t p _) s

theorem atWord_isl (s : State) (p : Part) (u : SUnit) (x : SWord) : (atWord s p u x).isl = s.isl :=
  (modJob_isl ..).trans (modJob_isl ..)

/-- A stream without notes has counted nothing for its oldest word. -/
theorem countHold_of_unheld (s : State) (p : Part) (u : SUnit) {st : Stream} (h : st.unheld = true) :
    countHold s p u st = s := by
  simp only [Stream.unheld, Bool.and_eq_true, Option.isNone_iff_eq_none, beq_iff_eq] at h
  obtain ⟨⟨hat, hcyc⟩, hwake⟩ := h
  simp [countHold, Stream.heldFor, hat, hcyc, hwake]

theorem unheld_of_issuesNow {s : State} {p : Part} {u : SUnit} {x : SWord} {j : Job} (h : issuesNow s p u x = true)
    (hj : getJob s p = some j) : (j.stream u).unheld = true ∧ (j.stream u).held = [] := by
  simp only [issuesNow, hj, Bool.and_eq_true, beq_iff_eq] at h
  obtain ⟨⟨⟨⟨-, hunheld⟩, hwords⟩, -⟩, -⟩ := h
  exact ⟨hunheld, (heldWords_zero hwords p u j hj).1⟩

theorem heldWords_of_issuesNow {s : State} {p : Part} {u : SUnit} {x : SWord} (h : issuesNow s p u x = true) :
    heldWords s = 0 := by
  obtain ⟨j, hj⟩ := getJob_of_issuesNow h
  simp only [issuesNow, hj, Bool.and_eq_true, beq_iff_eq] at h
  obtain ⟨⟨⟨-, hwords⟩, -⟩, -⟩ := h
  exact hwords

/-- A word that issues at once runs in `atWord`, and the stream goes on to the next one. -/
theorem pushWord_runs {s : State} {p : Part} {u : SUnit} {x : SWord} (h : issuesNow s p u x = true) (ht : x.turns = 1) :
    pushWord s p u x = noted (modJob (runWord (atWord s p u x) p u x) p fun k => k.modStream u Stream.passed) := by
  obtain ⟨j, hj, hpush⟩ := pushWord_issues s p u x h ht
  obtain ⟨hunheld, -⟩ := unheld_of_issuesNow h hj
  have hskip := not_skipped_of_issuesNow h hj
  have hstream : (j.modStream u (Stream.given x)).stream u = (j.stream u).given x := by rw [stream_modStream, if_pos rfl]
  have hcount : countHold (queued s p u x) p u ((j.modStream u (Stream.given x)).stream u) = queued s p u x :=
    countHold_of_unheld _ _ _ (by rw [hstream]; exact hunheld)
  have htake : takeWord (queued s p u x) p u (j.modStream u (Stream.given x)) x []
      = modJob (runWord (atWord s p u x) p u x) p fun k => k.modStream u Stream.passed := by
    unfold takeWord
    extract_lets st s1 s2 s3
    have hgo : (st.gated && (j.modStream u (Stream.given x)).vetoed && x.skips) = false := by
      rw [vetoed_modStream, show st = (j.stream u).given x from hstream]
      exact hskip
    have hs3 : s3 = runWord s2 p u x := if_neg (by rw [hgo]; exact Bool.false_ne_true)
    have hs2 : s2 = atWord s p u x := by rw [show s2 = modJob s1 p _ from rfl, show s1 = queued s p u x from hcount]; rfl
    rw [hs3, hs2]
    rfl
  rw [hpush]
  exact congrArg noted htake

/-! ### A word that changes its job alone -/

theorem modStream_congr {j : Job} {u : SUnit} {f g : Stream → Stream} (h : f (j.stream u) = g (j.stream u)) :
    j.modStream u f = j.modStream u g := by
  cases u <;> simp only [Job.stream] at h <;> simp only [Job.modStream, h]

/-- A stream whose one word has been taken. -/
def Stream.cleared (st : Stream) : Stream := { st with held := [], heldAt := none, heldWake := false }

theorem taken_given_of_unheld {st : Stream} {x : SWord} (h : st.unheld = true) : (st.given x).taken [] = st.cleared := by
  simp only [Stream.unheld, Bool.and_eq_true, beq_iff_eq] at h
  obtain ⟨⟨-, hcyc⟩, hwake⟩ := h
  simp only [Stream.taken, Stream.given, Stream.cleared, hcyc, hwake]

theorem getJob_atWord {s : State} {p : Part} {u : SUnit} {x : SWord} {j : Job} (h : issuesNow s p u x = true)
    (hj : getJob s p = some j) : getJob (atWord s p u x) p = some (j.modStream u Stream.cleared) := by
  rw [(restreamed_atWord s p u x).job hj, modStream_congr (taken_given_of_unheld (unheld_of_issuesNow h hj).1)]

/-- A word that changes its job by `g`, beside counts: what stands of the state once it has issued. -/
theorem pushWord_job {s a : State} {p : Part} {u : SUnit} {x : SWord} {j : Job} {g : Job → Job}
    (h : issuesNow s p u x = true) (hj : getJob s p = some j) (ht : x.turns = 1)
    (hrun : runWord (atWord s p u x) p u x = modJob a p g) (hjobs : a.jobs = (atWord s p u x).jobs)
    (ha : unworked a = unworked s)
    (hother : ∀ k v, v ≠ u → (g k).stream v = k.stream v)
    (hheld : ∀ k, (k.stream u).held = [] → ((g k).stream u).held = []) :
    onlyJobCtr s (pushWord s p u x) p ∧ (pushWord s p u x).isl = a.isl
      ∧ getJob (pushWord s p u x) p = some ((g (j.modStream u Stream.cleared)).modStream u Stream.passed) := by
  have hat := getJob_atWord h hj
  rw [pushWord_runs h ht, hrun]
  generalize hb : (modJob (modJob a p g) p fun k => k.modStream u Stream.passed) = b
  have hjob : getJob b p = some ((g (j.modStream u Stream.cleared)).modStream u Stream.passed) := by
    rw [← hb, getJob_modJob, if_pos rfl, getJob_modJob, if_pos rfl, getJob_congr hjobs, hat]
    rfl
  have hbeside : ∀ q, q ≠ p → getJob b q = getJob s q := fun q hq => by
    rw [← hb, getJob_modJob, if_neg hq, getJob_modJob, if_neg hq, getJob_congr hjobs, (restreamed_atWord s p u x).jobs q,
      if_neg hq]
  have hisl : b.isl = a.isl := by rw [← hb, modJob_isl, modJob_isl]
  have hframe : unworked b = unworked s := by rw [← hb, unworked_modJob, unworked_modJob, ha]
  have hwords := heldWords_of_issuesNow h
  have hnone : noneHeld b := by
    intro q v k hk
    by_cases hq : q = p
    · subst hq
      obtain rfl := Option.some.inj (hjob.symm.trans hk)
      rw [stream_modStream]
      split
      · next e => subst e; exact hheld _ (by simp [Stream.cleared])
      · next hv =>
        rw [hother _ v hv, stream_modStream, if_neg hv]
        exact (heldWords_zero hwords q v j hj).1
    · exact (heldWords_zero hwords q v k ((hbeside q hq).symm.trans hk)).1
  rw [noted, noteHold_all b hnone]
  exact ⟨⟨eq_but_work_iff.2 hframe, hbeside⟩, hisl, hjob⟩

theorem onlyJob_of_isl {s t : State} {p : Part} (h : onlyJobCtr s t p) (hisl : t.isl = s.isl) : onlyJob s t p := by
  obtain ⟨hframe, hbeside⟩ := h
  exact ⟨by rw [hisl] at hframe; exact hframe, hbeside⟩

/-! ### The four words -/

section Words

variable {s : State} {p : Part} {u : SUnit} {j : Job} (hj : getJob s p = some j)
include hj

theorem pushWord_sat {n : Nat} (h : issuesNow s p u (.sat n) = true) :
    onlyJob s (pushWord s p u (.sat n)) p ∧ getJob (pushWord s p u (.sat n)) p = some (j.modStream u fun st => { st with
      held := [], heldAt := none, heldWake := false, index := st.index + 1
      earliest := Nat.max st.earliest (st.anchor + n) }) := by
  obtain ⟨hctr, hisl, hjob⟩ := pushWord_job h hj rfl (a := atWord s p u (.sat n)) rfl rfl (unworked_atWord ..)
    (fun k v hv => by rw [stream_modStream, if_neg hv]) (fun k hk => by rw [stream_modStream, if_pos rfl]; exact hk)
  refine ⟨onlyJob_of_isl hctr (hisl.trans (atWord_isl ..)), hjob.trans ?_⟩
  rw [modStream_modStream, modStream_modStream]
  rfl

theorem pushWord_send (h : issuesNow s p u .send = true) :
    onlyJob s (pushWord s p u .send) p ∧ getJob (pushWord s p u .send) p = some (j.modStream u fun st => { st with
      held := [], heldAt := none, heldWake := false, index := st.index + 1, ended := true }) := by
  obtain ⟨hctr, hisl, hjob⟩ := pushWord_job h hj rfl (a := atWord s p u .send) rfl rfl (unworked_atWord ..)
    (fun k v hv => by rw [stream_modStream, if_neg hv]) (fun k _ => by rw [stream_modStream, if_pos rfl])
  refine ⟨onlyJob_of_isl hctr (hisl.trans (atWord_isl ..)), hjob.trans ?_⟩
  rw [modStream_modStream, modStream_modStream]
  rfl

end Words

/-- What arriving at cue point `c` makes of a job, `gates` where it starts the update segment. -/
def Job.arrives (k : Job) (u : SUnit) (c now : Nat) (wait gates : Bool) : Job :=
  { (k.modStream u fun st => { st with
      gated := st.gated || gates, wait := if wait then some c else st.wait, waitAt := now }) with
    arrived := k.arrived ++ [(c, SUnitNum u)] }

theorem stream_arrives (k : Job) (u v : SUnit) (c now : Nat) (wait gates : Bool) :
    (k.arrives u c now wait gates).stream v = if v = u then { k.stream u with
      gated := (k.stream u).gated || gates, wait := if wait then some c else (k.stream u).wait, waitAt := now }
    else k.stream v := by
  cases u <;> cases v <;> rfl

/-- An intake that comes late changes nothing but the counters, and no time. -/
theorem countIntakeWait_eq (s : State) (p : Part) (pl : Plan) :
    unworked (countIntakeWait s p pl) = unworked s ∧ (countIntakeWait s p pl).jobs = s.jobs
      ∧ nowCyc (countIntakeWait s p pl) = nowCyc s := by
  have hkept {β : Type} (g : State → β) (hg : ∀ t n, g (tblCount t p n 2 1) = g t) : g (countIntakeWait s p pl) = g s :=
    foldl_field g (fun t n => tblCount t p n 2 1) hg _ s
  exact ⟨hkept unworked fun _ _ => rfl, hkept State.jobs fun _ _ => rfl, hkept nowCyc fun _ _ => rfl⟩

/-- The state with the counts of an intake that job `k` finds late at cue point `c` (R141). -/
def lateCounted (s : State) (p : Part) (k : Job) (c : Nat) : State :=
  if cueType (nth 0 k.plan.cues c) == 5 && k.phase == .running && !(k.accepted.contains k.step && batchSorted k k.step)
      && !(k.arrived.any fun a => a.1 == c) then countIntakeWait s p k.plan else s

theorem lateCounted_eq (s : State) (p : Part) (k : Job) (c : Nat) :
    unworked (lateCounted s p k c) = unworked s ∧ (lateCounted s p k c).jobs = s.jobs
      ∧ nowCyc (lateCounted s p k c) = nowCyc s := by
  unfold lateCounted
  split
  · exact countIntakeWait_eq s p k.plan
  · exact ⟨rfl, rfl, rfl⟩

/-- An arrival at a cue point is a change of the job, beside the counts of a late intake. -/
theorem arrive_eq {s : State} {p : Part} {k : Job} (hk : getJob s p = some k) (u : SUnit) (c : Nat) (wait : Bool) :
    arrive s p u c wait = modJob (lateCounted s p k c) p
      fun i => i.arrives u c (nowCyc s) wait (cueType (nth 0 k.plan.cues c) == 4) := by
  obtain ⟨-, -, hnow⟩ := lateCounted_eq s p k c
  rw [← hnow]
  unfold arrive
  split
  · next hnone => rw [hk] at hnone; cases hnone
  · next j hj =>
    obtain rfl := Option.some.inj (hk.symm.trans hj)
    rfl

/-- What a stream and its job hold once the stream has arrived at cue point `c`. -/
structure arrivedAt (s : State) (p : Part) (u : SUnit) (j k : Job) (c : Nat) (wait : Bool) : Prop where
  arrived : k.arrived = j.arrived ++ [(c, SUnitNum u)]
  wait : (k.stream u).wait = if wait then some c else (j.stream u).wait
  waitAt : (k.stream u).waitAt = nowCyc s
  index : (k.stream u).index = (j.stream u).index + 1
  gated : (k.stream u).gated = true ↔ (j.stream u).gated = true ∨ cueType (nth 0 j.plan.cues c) = 4
  others : ∀ v, v ≠ u → k.stream v = j.stream v

theorem arrived_modStream (j : Job) (u : SUnit) (f : Stream → Stream) : (j.modStream u f).arrived = j.arrived := by
  cases u <;> rfl

theorem plan_modStream (j : Job) (u : SUnit) (f : Stream → Stream) : (j.modStream u f).plan = j.plan := by
  cases u <;> rfl

/-- A word that brings its stream to a cue point. -/
theorem pushWord_arrives {s : State} {p : Part} {u : SUnit} {j : Job} {x : SWord} {c : Nat} {wait : Bool}
    (h : issuesNow s p u x = true) (hj : getJob s p = some j) (ht : x.turns = 1)
    (hx : ∀ t, runWord t p u x = arrive t p u c wait) :
    onlyJobCtr s (pushWord s p u x) p ∧ ∃ k, getJob (pushWord s p u x) p = some k ∧ arrivedAt s p u j k c wait := by
  have harrive := arrive_eq (getJob_atWord h hj) u c wait
  obtain ⟨hwork, hjobs, -⟩ := lateCounted_eq (atWord s p u x) p (j.modStream u Stream.cleared) c
  have hnow : nowCyc (atWord s p u x) = nowCyc s := by rw [nowCyc, atWord_isl, nowCyc]
  obtain ⟨hctr, -, hjob⟩ := pushWord_job h hj ht ((hx _).trans harrive) hjobs (hwork.trans (unworked_atWord ..))
    (fun k v hv => by rw [stream_arrives, if_neg hv]) (fun k hk => by rw [stream_arrives, if_pos rfl]; exact hk)
  refine ⟨hctr, _, hjob, ?_⟩
  rw [hnow]
  constructor
  · rw [arrived_modStream, Job.arrives, arrived_modStream]
  · simp [stream_arrives, Stream.passed, Stream.cleared]
  · simp [stream_arrives, Stream.passed]
  · simp [stream_arrives, Stream.passed, Stream.cleared]
  · simp [stream_arrives, Stream.passed, Stream.cleared, plan_modStream]
  · intro v hv
    rw [stream_modStream, if_neg hv, stream_arrives, if_neg hv, stream_modStream, if_neg hv]

end Sys2Proof.Machine
end

section
/-! PROOFS. The power words: PWAKE, PGATE_OFF and PGATE_RETAIN (R131, R252, R431). -/

namespace Sys2Proof.Machine

/-! ### Sparse tables and lost bank groups -/

theorem tabFind_tabErase {α : Type} (t : Tab α) (k l : Nat) :
    tabFind (tabErase t k) l = if l = k then none else tabFind t l := by
  induction t with
  | nil => simp [tabErase, tabFind]
  | cons x t ih =>
    obtain ⟨i, v⟩ := x
    simp only [tabErase, tabFind]
    by_cases hik : i = k
    · subst hik
      rw [if_pos rfl, ih]
      by_cases hl : l = i
      · rw [if_pos hl, if_pos hl]
      · rw [if_neg hl, if_neg hl, if_neg (Ne.symm hl)]
    · rw [if_neg hik, tabFind, ih]
      by_cases hil : i = l
      · rw [if_pos hil, if_neg (fun e => hik (hil.trans e)), if_pos hil]
      · rw [if_neg hil, if_neg hil]

/-- A loss of one bank group leaves every byte outside it. -/
theorem Memory.get_loseGroup_outside (m : Memory) {k a : Nat} (g : Nat) (h : t0End ≤ a ∨ bankOf a / 32 ≠ k) :
    (m.loseGroup k g).get a = m.get a := by
  have hlost : (m.loseGroup k g).lossOf a = m.lossOf a := by
    simp only [Memory.lossOf, Memory.loseGroup, tabFind_tabSet]
    by_cases ha : a < t0End
    · rw [if_pos ha, if_pos ha, if_neg (by omega)]
    · rw [if_neg ha, if_neg ha]
  have hcells : cellFind (m.loseGroup k g).cells a = cellFind m.cells a := by
    have hfilter := cellFind_filter m.cells (fun b => decide (t0End ≤ b ∨ bankOf b / 32 ≠ k)) a
    rwa [if_pos (decide_eq_true h)] at hfilter
  simp only [Memory.get, Memory.dflt, hlost, hcells]

/-! ### What a request leaves -/

/-- The state without what a request for domains may change, and without the jobs and the counters. -/
def unpowered (s : State) : State :=
  { unworked s with pwr := { s.pwr with req := [], gates := [], pd := [] }, mem := {}, poison := [], spdErr := [], free := 0 }

/-- Of the domains none but those of `D` is in another state, or has another gate or request of partition `p`; the bytes of
the other bank groups are as they were. -/
structure requested (p : Part) (D : Nat → Prop) (s t : State) : Prop where
  rest : unpowered t = unpowered s
  req : ∀ k, (∀ d, D d → k ≠ reqKey p.toNat d) → tabFind t.pwr.req k = tabFind s.pwr.req k
  dom : ∀ d, ¬ D d → dom t d = dom s d
  gates : ∀ d, ¬ D d → tabFind t.pwr.gates d = tabFind s.pwr.gates d
  len : t.pwr.pd.length = s.pwr.pd.length
  mem : ∀ a, t0End ≤ a ∨ ¬ D (36 + bankOf a / 32) → t.mem.get a = s.mem.get a

namespace requested

variable {p : Part} {D E : Nat → Prop} {s t v : State}

theorem of_unworked (h : unworked t = unworked s) : requested p D s t := by
  have hpwr : t.pwr = s.pwr := (congrArg State.pwr h :)
  have hmem : t.mem = s.mem := (congrArg State.mem h :)
  refine ⟨?_, fun k _ => by rw [hpwr], fun d _ => dom_congr hpwr d, fun d _ => by rw [hpwr],
    by rw [hpwr], fun a _ => by rw [hmem]⟩
  have hpd : ({ t.pwr with req := [], gates := [], pd := [] } : Power) = { s.pwr with req := [], gates := [], pd := [] } := by
    rw [hpwr]
  unfold unpowered
  rw [h, hpd]

theorem refl (s : State) : requested p D s s := of_unworked rfl

theorem trans (h : requested p D s t) (k : requested p D t v) : requested p D s v where
  rest := k.rest.trans h.rest
  req i hi := (k.req i hi).trans (h.req i hi)
  dom d hd := (k.dom d hd).trans (h.dom d hd)
  gates d hd := (k.gates d hd).trans (h.gates d hd)
  len := k.len.trans h.len
  mem a ha := (k.mem a ha).trans (h.mem a ha)

theorem mono (h : requested p D s t) (hDE : ∀ d, D d → E d) : requested p E s t where
  rest := h.rest
  req i hi := h.req i fun d hd => hi d (hDE d hd)
  dom d hd := h.dom d fun hD => hd (hDE d hD)
  gates d hd := h.gates d fun hD => hd (hDE d hD)
  len := h.len
  mem a ha := h.mem a (ha.imp_right fun hE hD => hE (hDE _ hD))

theorem arr (h : requested p D s t) : t.arr = s.arr := (congrArg State.arr h.rest :)
theorem vec (h : requested p D s t) : t.vec = s.vec := (congrArg State.vec h.rest :)
theorem sorts (h : requested p D s t) : t.sorts = s.sorts := (congrArg State.sorts h.rest :)
theorem tables (h : requested p D s t) : t.tables = s.tables := (congrArg State.tables h.rest :)
theorem rings (h : requested p D s t) : t.rings = s.rings := (congrArg State.rings h.rest :)

theorem pwr (h : requested p D s t) : t.pwr = { s.pwr with req := t.pwr.req, gates := t.pwr.gates, pd := t.pwr.pd } :=
  (congrArg (fun u : State => { u.pwr with req := t.pwr.req, gates := t.pwr.gates, pd := t.pwr.pd }) h.rest :)

theorem inUse (h : requested p D s t) (d : Nat) : inUse t d = inUse s d := by
  unfold Machine.inUse
  rw [h.arr, h.vec, h.sorts]

end requested

/-! ### One domain sought -/

section One

variable {p : Part}

theorem setDom_eq {s : State} {v : DomState} (hv : v ≠ .on) (d : Nat) :
    setDom s d v = { s with pwr := { s.pwr with pd := setNth s.pwr.pd d v } } := by
  unfold setDom
  rw [if_neg (fun h => hv h.1)]

theorem dom_setDom {s : State} {v : DomState} (hv : v ≠ .on) {d : Nat} (hd : d < s.pwr.pd.length) :
    dom (setDom s d v) d = v := by
  rw [setDom_eq hv]
  exact nth_setNth_same _ _ _ _ hd

theorem requested_setDom (s : State) {v : DomState} (hv : v ≠ .on) (d : Nat) : requested p (· = d) s (setDom s d v) := by
  rw [setDom_eq hv]
  exact ⟨rfl, fun _ _ => rfl, fun e he => nth_setNth_other _ _ _ _ _ he, fun _ _ => rfl, length_setNth .., fun _ _ => rfl⟩

/-- The state without a gate of a domain. -/
def ungated (s : State) (d : Nat) : State := { s with pwr := { s.pwr with gates := tabErase s.pwr.gates d } }

theorem requested_ungated (s : State) (d : Nat) : requested p (· = d) s (ungated s d) :=
  ⟨rfl, fun _ _ => rfl, fun _ _ => rfl, fun _ he => (tabFind_tabErase ..).trans (if_neg he), rfl, fun _ _ => rfl⟩

theorem gates_ungated (s : State) (d : Nat) : tabFind (ungated s d).pwr.gates d = none :=
  (tabFind_tabErase ..).trans (if_pos rfl)

/-- The state with a gate that waits for the end of a domain's use. -/
def gateWaits (s : State) (d : Nat) (w : DomReq) : State := { s with pwr := { s.pwr with gates := tabSet s.pwr.gates d w } }

theorem requested_gateWaits (s : State) (d : Nat) (w : DomReq) : requested p (· = d) s (gateWaits s d w) :=
  ⟨rfl, fun _ _ => rfl, fun _ _ => rfl, fun _ he => (tabFind_tabSet ..).trans (if_neg he), rfl, fun _ _ => rfl⟩

/-- The state with a partition's request for a domain. -/
def asked (p : Part) (v : DomReq) (s : State) (d : Nat) : State :=
  { s with pwr := { s.pwr with req := tabSet s.pwr.req (reqKey p.toNat d) v } }

theorem requested_asked (s : State) (v : DomReq) (d : Nat) : requested p (· = d) s (asked p v s d) :=
  ⟨rfl, fun _ hk => (tabFind_tabSet ..).trans (if_neg (hk d rfl)), fun _ _ => rfl, fun _ _ => rfl, rfl, fun _ _ => rfl⟩

theorem requested_loseGroup (s : State) {d : Nat} (hd : 36 ≤ d) : requested p (· = d) s (loseGroup s (d - 36)) :=
  ⟨rfl, fun _ _ => rfl, fun _ _ => rfl, fun _ _ => rfl, rfl,
    fun _ ha => Memory.get_loseGroup_outside _ _ (ha.imp_right fun h => by omega)⟩

/-- The state of a domain that its request names. -/
def DomReq.state (w : DomReq) : DomState :=
  match w with
  | .off => .off
  | .retain => .retain
  | .on => .on

/-- The state in which a domain that turns off does so: a bank group has lost its contents. -/
def emptied (s : State) (d : Nat) : State := if 36 ≤ d ∧ d ≤ 42 ∧ dom s d ≠ .off then loseGroup s (d - 36) else s

theorem requested_emptied (s : State) (d : Nat) : requested p (· = d) s (emptied s d) := by
  unfold emptied
  split
  · next h => exact requested_loseGroup s h.1
  · exact .refl s

theorem gateNow_off (s : State) (d : Nat) : gateNow s d .off = setDom (emptied (ungated s d) d) d .off := rfl
theorem gateNow_retain (s : State) (d : Nat) : gateNow s d .retain = setDom (ungated s d) d .retain := rfl

theorem requested_gateNow (s : State) (d : Nat) (w : DomReq) : requested p (· = d) s (gateNow s d w) := by
  cases w with
  | on => exact requested_ungated s d
  | retain =>
    rw [gateNow_retain]
    exact (requested_ungated s d).trans (requested_setDom _ (by decide) d)
  | off =>
    rw [gateNow_off]
    exact (requested_ungated s d).trans ((requested_emptied _ d).trans (requested_setDom _ (by decide) d))

theorem dom_gateNow {s : State} {d : Nat} (hd : d < s.pwr.pd.length) {w : DomReq} (hw : w ≠ .on) :
    dom (gateNow s d w) d = w.state := by
  cases w with
  | on => exact absurd rfl hw
  | retain =>
    rw [gateNow_retain]
    exact dom_setDom (by decide) hd
  | off =>
    have hkept := (requested_ungated (p := 0) s d).trans (requested_emptied _ d)
    rw [gateNow_off]
    exact dom_setDom (by decide) (by rw [hkept.len]; exact hd)

theorem seekDom_on (s : State) (d : Nat) :
    seekDom s d .on = if dom s d = .on then ungated s d else setDom (ungated s d) d .waking := rfl

theorem seekDom_busy {s : State} {d : Nat} {w : DomReq} (hw : w ≠ .on) (h : inUse s d = true) :
    seekDom s d w = gateWaits s d w := by
  cases w with
  | on => exact absurd rfl hw
  | _ => exact if_pos h

theorem seekDom_idle {s : State} {d : Nat} {w : DomReq} (hw : w ≠ .on) (h : inUse s d = false) :
    seekDom s d w = gateNow s d w := by
  have hidle : ¬ inUse s d = true := by rw [h]; exact Bool.false_ne_true
  cases w with
  | on => exact absurd rfl hw
  | _ => exact if_neg hidle

theorem requested_seekDom (s : State) (d : Nat) (w : DomReq) : requested p (· = d) s (seekDom s d w) := by
  by_cases hw : w = .on
  · subst hw
    rw [seekDom_on]
    split
    · exact requested_ungated s d
    · exact (requested_ungated s d).trans (requested_setDom _ (by decide) d)
  · cases huse : inUse s d
    · rw [seekDom_idle hw huse]
      exact requested_gateNow s d w
    · rw [seekDom_busy hw huse]
      exact requested_gateWaits s d w

end One

/-! ### The state that current requests name -/

theorem effReq_congr {s t : State} {d : Nat}
    (h : ∀ q, q < 4 → tabFind t.pwr.req (reqKey q d) = tabFind s.pwr.req (reqKey q d)) : effReq t d = effReq s d := by
  have hlist : (List.range 4).filterMap (fun q => tabFind t.pwr.req (reqKey q d))
      = (List.range 4).filterMap fun q => tabFind s.pwr.req (reqKey q d) :=
    List.filterMap_congr fun q hq => h q (List.mem_range.1 hq)
  unfold effReq
  rw [hlist]

/-- The highest state requested of a domain where partition `p` requests `v`: none below it. -/
theorem effReq_of_request {s : State} {p : Part} {d : Nat} {v : DomReq} (h : tabFind s.pwr.req (reqKey p.toNat d) = some v) :
    ∃ w, effReq s d = some w ∧ (v = .on → w = .on) ∧ (v = .retain → w ≠ .off) := by
  have hmem : v ∈ (List.range 4).filterMap fun q => tabFind s.pwr.req (reqKey q d) :=
    List.mem_filterMap.2 ⟨p.toNat, List.mem_range.2 p.isLt, h⟩
  unfold effReq
  generalize (List.range 4).filterMap (fun q => tabFind s.pwr.req (reqKey q d)) = l at hmem ⊢
  dsimp only
  split
  · exact ⟨.on, rfl, fun _ => rfl, fun _ => by decide⟩
  · next hon =>
    have hv : v ≠ .on := fun e => hon (List.contains_iff_mem.2 (e ▸ hmem))
    split
    · exact ⟨.retain, rfl, fun e => absurd e hv, fun _ => by decide⟩
    · next hret =>
      have hv' : v ≠ .retain := fun e => hret (List.contains_iff_mem.2 (e ▸ hmem))
      cases l with
      | nil => cases hmem
      | cons w l => exact ⟨w, rfl, fun e => absurd e hv, fun e => absurd e hv'⟩

/-- A partition requests a state of one domain, and the domain takes the highest that is requested. -/
def requestOne (p : Part) (v : DomReq) (s : State) (d : Nat) : State :=
  match effReq (asked p v s d) d with
  | some w => seekDom (asked p v s d) d w
  | none => asked p v s d

theorem asked_req (p : Part) (v : DomReq) (s : State) (d : Nat) :
    tabFind (asked p v s d).pwr.req (reqKey p.toNat d) = some v := tabFind_tabSet_same _ _ _

theorem requestOne_eq {p : Part} {v : DomReq} {s : State} {d : Nat} {w : DomReq} (h : effReq (asked p v s d) d = some w) :
    requestOne p v s d = seekDom (asked p v s d) d w := by
  unfold requestOne
  rw [h]

theorem requested_requestOne (p : Part) (v : DomReq) (s : State) (d : Nat) : requested p (· = d) s (requestOne p v s d) := by
  unfold requestOne
  split
  · exact (requested_asked s v d).trans (requested_seekDom _ d _)
  · exact requested_asked s v d

theorem gateNow_req (s : State) (d : Nat) (w : DomReq) : (gateNow s d w).pwr.req = s.pwr.req := by
  cases w with
  | on => rfl
  | retain => rw [gateNow_retain, setDom_eq (by decide)]; rfl
  | off =>
    rw [gateNow_off, setDom_eq (by decide)]
    unfold emptied
    split <;> rfl

theorem seekDom_req (s : State) (d : Nat) (w : DomReq) : (seekDom s d w).pwr.req = s.pwr.req := by
  by_cases hw : w = .on
  · subst hw
    rw [seekDom_on]
    split
    · rfl
    · rw [setDom_eq (by decide)]; rfl
  · cases huse : inUse s d
    · rw [seekDom_idle hw huse, gateNow_req]
    · rw [seekDom_busy hw huse]; rfl

/-- Where nothing uses a domain that turns off, its bank group is what a loss takes; no other request takes any byte. -/
theorem seekDom_mem {s : State} {d : Nat} (hd : d < s.pwr.pd.length) (w : DomReq) (h : dom (seekDom s d w) d ≠ .off) :
    (seekDom s d w).mem = s.mem := by
  by_cases hw : w = .on
  · subst hw
    rw [seekDom_on]
    split
    · rfl
    · exact setDom_mem ..
  · cases huse : inUse s d
    · rw [seekDom_idle hw huse] at h ⊢
      rw [dom_gateNow hd hw] at h
      cases w with
      | on => exact absurd rfl hw
      | off => exact absurd rfl h
      | retain => rw [gateNow_retain, setDom_mem]; rfl
    · rw [seekDom_busy hw huse]; rfl

/-- What stands of a domain once partition `p` has requested `v` of it: from the state `s` before to the state `t`. -/
structure sought (p : Part) (v : DomReq) (s t : State) (d : Nat) (w : DomReq) : Prop where
  req : tabFind t.pwr.req (reqKey p.toNat d) = some v
  eff : effReq t d = some w
  on : w = .on → tabFind t.pwr.gates d = none ∧ dom t d = if dom s d = .on then .on else .waking
  busy : w ≠ .on → inUse s d = true → dom t d = dom s d ∧ tabFind t.pwr.gates d = some w
  idle : w ≠ .on → inUse s d = false → dom t d = w.state
  mem : dom t d ≠ .off → ∀ a, 36 + bankOf a / 32 = d → t.mem.get a = s.mem.get a

theorem sought_requestOne (p : Part) (v : DomReq) {s : State} {d : Nat} (hd : d < s.pwr.pd.length) {w : DomReq}
    (h : effReq (asked p v s d) d = some w) : sought p v s (requestOne p v s d) d w := by
  have huse : inUse (asked p v s d) d = inUse s d := (requested_asked (p := p) s v d).inUse d
  have hlen : d < (asked p v s d).pwr.pd.length := hd
  have hreq : (requestOne p v s d).pwr.req = (asked p v s d).pwr.req := by rw [requestOne_eq h, seekDom_req]
  constructor
  · rw [hreq, asked_req]
  · rw [effReq_congr (t := requestOne p v s d) (s := asked p v s d) fun q _ => by rw [hreq], h]
  · rintro rfl
    rw [requestOne_eq h, seekDom_on]
    split
    · next hon =>
      have hs : dom s d = .on := hon
      exact ⟨gates_ungated _ d, hon.trans (if_pos hs).symm⟩
    · next hon =>
      have hs : ¬ dom s d = .on := hon
      refine ⟨?_, ?_⟩
      · rw [setDom_eq (by decide)]
        exact gates_ungated _ d
      · rw [if_neg hs]
        exact dom_setDom (by decide) hd
  · intro hw hbusy
    rw [requestOne_eq h, seekDom_busy hw (huse.trans hbusy)]
    exact ⟨rfl, tabFind_tabSet_same _ _ _⟩
  · intro hw hidle
    rw [requestOne_eq h, seekDom_idle hw (huse.trans hidle)]
    exact dom_gateNow hlen hw
  · intro hoff a _
    rw [requestOne_eq h] at hoff ⊢
    rw [seekDom_mem hlen w hoff]
    rfl

/-- What is done to other domains before and after leaves what was sought of one. -/
theorem sought.between {p : Part} {v w : DomReq} {s s1 t1 t : State} {d : Nat} {E : Nat → Prop} (h : sought p v s1 t1 d w)
    (hd : d < 64) (hE : ∀ e, E e → e ≠ d ∧ e < 64) (hs : requested p E s s1) (ht : requested p E t1 t) :
    sought p v s t d w := by
  have hnot : ¬ E d := fun he => (hE d he).1 rfl
  have hkeys : ∀ q, tabFind t.pwr.req (reqKey q d) = tabFind t1.pwr.req (reqKey q d) := fun q => ht.req _ fun e he => by
    obtain ⟨hne, hlt⟩ := hE e he
    unfold reqKey
    omega
  have hdom := ht.dom d hnot
  constructor
  · rw [hkeys, h.req]
  · rw [effReq_congr fun q _ => hkeys q, h.eff]
  · intro hw
    obtain ⟨hgate, hstate⟩ := h.on hw
    rw [ht.gates d hnot, hdom, hstate, hs.dom d hnot]
    exact ⟨hgate, rfl⟩
  · intro hw huse
    obtain ⟨hstate, hgate⟩ := h.busy hw ((hs.inUse d).trans huse)
    rw [ht.gates d hnot, hdom, hstate, hs.dom d hnot]
    exact ⟨rfl, hgate⟩
  · intro hw huse
    rw [hdom, h.idle hw ((hs.inUse d).trans huse)]
  · intro hoff a ha
    have hout : ¬ E (36 + bankOf a / 32) := fun he => (hE _ he).1 ha
    rw [ht.mem a (.inr hout), h.mem (hdom ▸ hoff) a ha, hs.mem a (.inr hout)]

/-! ### The domains of a mask -/

/-- The domains that a mask names from `lo` on. -/
def maskDoms (m : W64) (lo : Nat) : List Nat := (setBitsOf 43 m.toNat).filter fun d => decide (lo ≤ d)

theorem mem_maskDoms {m : W64} {lo d : Nat} : d ∈ maskDoms m lo ↔ lo ≤ d ∧ d < 43 ∧ m.getLsbD d = true := by
  simp only [maskDoms, setBitsOf, List.mem_filter, List.mem_range, decide_eq_true_eq, bit_toNat]
  tauto

theorem nodup_maskDoms (m : W64) (lo : Nat) : (maskDoms m lo).Nodup := (List.nodup_range.filter _).filter _

theorem request_eq (s : State) (p : Part) (m : W64) (lo : Nat) (v : DomReq) :
    request s p m lo v = (maskDoms m lo).foldl (requestOne p v) s := rfl

theorem requested_foldl (p : Part) (v : DomReq) (l : List Nat) (s : State) :
    requested p (· ∈ l) s (l.foldl (requestOne p v) s) := by
  induction l generalizing s with
  | nil => exact .refl s
  | cons d l ih =>
    exact ((requested_requestOne p v s d).mono fun e he => he ▸ List.mem_cons_self).trans
      ((ih _).mono fun _ => List.mem_cons_of_mem _)

/-- Among the domains of a list each is sought once. -/
theorem requested_around (p : Part) (v : DomReq) {l : List Nat} (hl : l.Nodup) {d : Nat} (hd : d ∈ l) (s : State) :
    ∃ s1, requested p (fun e => e ∈ l ∧ e ≠ d) s s1
      ∧ requested p (fun e => e ∈ l ∧ e ≠ d) (requestOne p v s1 d) (l.foldl (requestOne p v) s) := by
  obtain ⟨l1, l2, rfl⟩ := List.append_of_mem hd
  obtain ⟨-, hl2, hdisj⟩ := List.nodup_append.1 hl
  refine ⟨l1.foldl (requestOne p v) s, (requested_foldl p v l1 s).mono fun e he => ?_, ?_⟩
  · exact ⟨List.mem_append_left _ he, hdisj e he d List.mem_cons_self⟩
  · rw [List.foldl_append, List.foldl_cons]
    refine (requested_foldl p v l2 _).mono fun e he => ?_
    exact ⟨List.mem_append_right _ (List.mem_cons_of_mem _ he), fun h => (List.nodup_cons.1 hl2).1 (h ▸ he)⟩

/-! ### The three words -/

/-- A power word: it requests `v` of the domains that `m` names from `lo` on. -/
structure powerWord (x : SWord) (m : W64) (lo : Nat) (v : DomReq) : Prop where
  turns : x.turns = 1
  run : ∀ (t : State) (p : Part), runWord t p .seq x = request (count t blkSeq 0 2 1 (atPart p)) p m lo v

theorem powerWord_pwake (m : W64) : powerWord (.pwake m) m 0 .on := ⟨rfl, fun _ _ => rfl⟩
theorem powerWord_pgateOff (m : W64) : powerWord (.pgateOff m) m 0 .off := ⟨rfl, fun _ _ => rfl⟩
theorem powerWord_pgateRetain (m : W64) : powerWord (.pgateRetain m) m 36 .retain := ⟨rfl, fun _ _ => rfl⟩

/-- The state in which a power word makes its requests. -/
def atRequest (s : State) (p : Part) (x : SWord) : State := count (atWord s p .seq x) blkSeq 0 2 1 (atPart p)

theorem unworked_atRequest (s : State) (p : Part) (x : SWord) : unworked (atRequest s p x) = unworked s :=
  unworked_atWord s p .seq x

section PowerWords

variable {s : State} {p : Part} {x : SWord} {m : W64} {lo : Nat} {v : DomReq}

/-- Beside jobs, a power word leaves what its requests do. -/
theorem unworked_pushWord_power (h : issuesNow s p .seq x = true) (hx : powerWord x m lo v) :
    unworked (pushWord s p .seq x) = unworked ((maskDoms m lo).foldl (requestOne p v) (atRequest s p x)) := by
  rw [pushWord_runs h hx.turns, unworked_noted, unworked_modJob, hx.run, request_eq]
  rfl

theorem requested_pushWord (h : issuesNow s p .seq x = true) (hx : powerWord x m lo v) :
    requested p (· ∈ maskDoms m lo) s (pushWord s p .seq x) :=
  (requested.of_unworked (unworked_atRequest s p x)).trans
    ((requested_foldl p v _ _).trans (.of_unworked (unworked_pushWord_power h hx)))

/-- Each domain that a power word names is sought. -/
theorem sought_pushWord (hlen : s.pwr.pd.length = 64) (h : issuesNow s p .seq x = true) (hx : powerWord x m lo v) {d : Nat}
    (hd : d ∈ maskDoms m lo) :
    ∃ w, sought p v s (pushWord s p .seq x) d w ∧ (v = .on → w = .on) ∧ (v = .retain → w ≠ .off) := by
  have hlt : ∀ e, e ∈ maskDoms m lo → e < 64 := fun e he => by have := (mem_maskDoms.1 he).2.1; omega
  obtain ⟨s1, hbefore, hafter⟩ := requested_around p v (nodup_maskDoms m lo) hd (atRequest s p x)
  have hs1 := (requested.of_unworked (unworked_atRequest s p x)).trans hbefore
  obtain ⟨w, heff, hon, hretain⟩ := effReq_of_request (asked_req p v s1 d)
  have hone := sought_requestOne p v (s := s1) (by rw [hs1.len, hlen]; exact hlt d hd) heff
  exact ⟨w, hone.between (hlt d hd) (fun e he => ⟨he.2, hlt e he.1⟩) hs1
    (hafter.trans (.of_unworked (unworked_pushWord_power h hx))), hon, hretain⟩

/-- A power word takes no byte of a bank group that is not off after it. -/
theorem mem_pushWord_power (hlen : s.pwr.pd.length = 64) (h : issuesNow s p .seq x = true) (hx : powerWord x m lo v) {a : Nat}
    (ha : dom (pushWord s p .seq x) (36 + bankOf a / 32) ≠ .off) : (pushWord s p .seq x).mem.get a = s.mem.get a := by
  by_cases hd : 36 + bankOf a / 32 ∈ maskDoms m lo
  · obtain ⟨w, hw, -, -⟩ := sought_pushWord hlen h hx hd
    exact hw.mem ha a rfl
  · exact (requested_pushWord h hx).mem a (.inr hd)

/-- The state without the power domains, the jobs and the counters. -/
def domless (s : State) : State := { unworked s with pwr := {} }

theorem domless_seekDom (s : State) (d : Nat) {w : DomReq} (hw : w ≠ .off) : domless (seekDom s d w) = domless s := by
  have hset (t : State) {u : DomState} (hu : u ≠ .on) : domless (setDom t d u) = domless t := by rw [setDom_eq hu]; rfl
  cases w with
  | off => exact absurd rfl hw
  | on =>
    rw [seekDom_on]
    split
    · rfl
    · exact hset (ungated s d) (by decide)
  | retain =>
    cases huse : inUse s d
    · rw [seekDom_idle (by decide) huse, gateNow_retain]
      exact hset (ungated s d) (by decide)
    · rw [seekDom_busy (by decide) huse]
      rfl

theorem domless_requestOne (hv : v ≠ .off) (s : State) (d : Nat) : domless (requestOne p v s d) = domless s := by
  obtain ⟨w, heff, hon, hretain⟩ := effReq_of_request (asked_req p v s d)
  have hw : w ≠ .off := by
    cases v with
    | off => exact absurd rfl hv
    | on => rw [hon rfl]; decide
    | retain => exact hretain rfl
  rw [requestOne_eq heff, domless_seekDom _ d hw]
  rfl

/-- A request for on or retain changes nothing but the domains. -/
theorem pushWord_power_eq (h : issuesNow s p .seq x = true) (hx : powerWord x m lo v) (hv : v ≠ .off) :
    pushWord s p .seq x = { s with jobs := (pushWord s p .seq x).jobs, isl := (pushWord s p .seq x).isl
                                   pwr := (pushWord s p .seq x).pwr } := by
  have hpush : domless (pushWord s p .seq x) = domless ((maskDoms m lo).foldl (requestOne p v) (atRequest s p x)) :=
    congrArg (fun u : State => { u with pwr := {} }) (unworked_pushWord_power h hx)
  have hstart : domless (atRequest s p x) = domless s :=
    congrArg (fun u : State => { u with pwr := {} }) (unworked_atRequest s p x)
  have hall : domless (pushWord s p .seq x) = domless s :=
    hpush.trans ((foldl_field domless _ (fun t d => domless_requestOne hv t d) _ _).trans hstart)
  exact congrArg (fun u : State => { u with jobs := (pushWord s p .seq x).jobs, isl := (pushWord s p .seq x).isl
                                            pwr := (pushWord s p .seq x).pwr }) hall

end PowerWords

end Sys2Proof.Machine
end

section
/-! PROOFS. What the control words and the power words leave, a domain that has woken, and DMAQ (R245 to R247, R252, R429,
R431, R432). -/

namespace Sys2Proof.Machine

/-! ### A domain that has woken (R429, R432) -/

/-- The sort jobs where the units of a domain serve. -/
def sortsServed (t : Tab SortJob) (d : Nat) : Tab SortJob :=
  t.map fun kv => if sortUnitDom kv.1 = d then (kv.1, { kv.2 with waiting := false }) else kv

theorem tabFind_sortsServed {t : Tab SortJob} {d u : Nat} {w : SortJob} (h : tabFind (sortsServed t d) u = some w)
    (hu : sortUnitDom u = d) : w.waiting = false := by
  induction t with
  | nil => cases h
  | cons kv t ih =>
    simp only [sortsServed, List.map_cons] at h
    by_cases hd : sortUnitDom kv.1 = d
    · rw [if_pos hd, tabFind] at h
      split at h
      · obtain rfl := Option.some.inj h; rfl
      · exact ih h
    · rw [if_neg hd, tabFind] at h
      split at h
      · next hk => exact absurd (hk ▸ hu) hd
      · exact ih h

theorem setDom_on {s : State} {d : Nat} (h : dom s d ≠ .on) :
    setDom s d .on = { s with
      alm := { s.alm with switches := tabMod 0 s.alm.switches d (· + 1) }
      pwr := { s.pwr with pd := setNth s.pwr.pd d .on } } := by
  unfold setDom
  rw [if_pos ⟨rfl, h⟩]

/-- A waking domain that has woken, where no word waits in a stream. -/
theorem domWoken_eq {s : State} {d : Nat} (hdom : dom s d = .waking) (hwords : heldWords s = 0) :
    domWoken s d = { setDom s d .on with sorts := sortsServed s.sorts d } := by
  have hwords' : heldWords { setDom s d .on with sorts := sortsServed s.sorts d } = 0 :=
    (heldWords_congr (setDom_jobs s d .on)).trans hwords
  have hsorts := setDom_sorts s d .on
  unfold domWoken
  rw [if_pos hdom, ← pump_of_heldWords_zero _ hwords', ← hsorts]
  rfl

theorem exec_domainWakeComplete {s : State} {d : BitVec 6} (hactive : s.pwr.mst = .active) :
    exec (.domainWakeComplete d) s = .next (domWoken s d.toNat) :=
  congrArg Host.Outcome.next (if_pos hactive)

/-! ### DMAQ (R246) -/

theorem queueDesc_eq {s : State} {p : Part} {k c : Nat} {j : Job} (hj : getJob s p = some j) (hpart : (getChan s c).part = p)
    (huse : (getChan s c).use = 1) :
    queueDesc s p k c = putChan s c { getChan s c with
      prog := (getChan s c).prog ++ [{ d := nth 0 j.plan.descs k, idx := k, pdesc := some k }] } := by
  unfold queueDesc
  rw [hj]
  exact if_pos ⟨hpart, huse⟩

theorem getChan_putChan (s : State) (c x : Nat) (v : Chan) : getChan (putChan s c v) x = if x = c then v else getChan s x :=
  tabGet_tabSet ..

theorem getChan_congr {s t : State} (h : t.chans = s.chans) (x : Nat) : getChan t x = getChan s x := by simp only [getChan, h]

theorem unworked_putChan {s t : State} (h : unworked t = unworked s) (c : Nat) (v : Chan) :
    unworked (putChan t c v) = unworked (putChan s c v) := by
  have hchans : t.chans = s.chans := (congrArg State.chans h :)
  unfold putChan
  rw [hchans]
  exact congrArg (fun u : State => { u with chans := tabSet s.chans c v }) h

/-- A DMAQ beside jobs and counters: its descriptor stands at the end of its channel. -/
theorem pushWord_dmaq {s : State} {p : Part} {k c : Nat} {n : ChanNum} {j : Job} (hc : n.toNat = c)
    (h : issuesNow s p .seq (.dmaq k n) = true) (hj : getJob s p = some j) (hpart : (getChan s c).part = p)
    (huse : (getChan s c).use = 1) :
    unworked (pushWord s p .seq (.dmaq k n)) = unworked (putChan s c { getChan s c with
      prog := (getChan s c).prog ++ [{ d := nth 0 j.plan.descs k, idx := k, pdesc := some k }] }) := by
  have hwork := unworked_atRequest s p (.dmaq k n)
  have hchan : getChan (atRequest s p (.dmaq k n)) c = getChan s c := getChan_congr (congrArg State.chans hwork :) c
  have hjob : getJob (atRequest s p (.dmaq k n)) p = some (j.modStream .seq Stream.cleared) := getJob_atWord h hj
  have hrun : runWord (atWord s p .seq (.dmaq k n)) p .seq (.dmaq k n) = queueDesc (atRequest s p (.dmaq k n)) p k c := by
    rw [← hc]; rfl
  rw [pushWord_runs h rfl, unworked_noted, unworked_modJob, hrun,
    queueDesc_eq hjob (hchan ▸ hpart) (hchan ▸ huse), hchan, plan_modStream]
  exact unworked_putChan hwork c _

/-! ### The statement -/

/-- Settles O18: the control words by `pushWord_sat`, `pushWord_send` and `pushWord_arrives`; the power words by what is
`sought` of each domain that they name and `requested` beside it; the woken domain and DMAQ by their equations. -/
theorem sequencerWords : Obligations.SequencerWords := by
  unfold Obligations.SequencerWords
  refine ⟨fun s p u j hj => ⟨fun cyc h => ?sat, fun cue h => ?scue, fun cue h => ?sarr, fun h => ?send⟩,
    fun s p hlen => ?power⟩
  case sat => exact ⟨_, rfl, pushWord_sat hj h⟩
  case send => exact ⟨_, rfl, pushWord_send hj h⟩
  case scue =>
    obtain ⟨hctr, k, hk, ⟨harrived, hwait, hat, hindex, hgated, hothers⟩⟩ :=
      pushWord_arrives (wait := true) h hj rfl fun _ => rfl
    exact ⟨_, k, rfl, hctr, hk, harrived, hwait, hat, hindex, hgated, hothers⟩
  case sarr =>
    obtain ⟨hctr, k, hk, ⟨harrived, hwait, -, hindex, hgated, hothers⟩⟩ :=
      pushWord_arrives (wait := false) h hj rfl fun _ => rfl
    exact ⟨_, k, rfl, hctr, hk, harrived, hwait, hindex, hgated, hothers⟩
  case power =>
    intro named only
    have honly {x : SWord} {m : W64} {lo : Nat} {v : DomReq} (h : issuesNow s p .seq x = true) (hx : powerWord x m lo v) :
        only (pushWord s p .seq x) m lo := by
      have hr := requested_pushWord h hx
      refine ⟨hr.pwr, fun k hk => hr.req k fun d hd => hk d (mem_maskDoms.1 hd), fun d hd => ?_⟩
      have hout : d ∉ maskDoms m lo := fun hmem => hd (mem_maskDoms.1 hmem)
      exact ⟨hr.dom d hout, hr.gates d hout⟩
    refine ⟨fun m h => ?pwake, fun m h => ?pgateOff, fun m h => ?pgateRetain, fun d hactive hdom hwords => ?woken,
      fun k c j h hj hpart huse => ?dmaq⟩
    case pwake =>
      have hx := powerWord_pwake m
      refine ⟨_, rfl, pushWord_power_eq h hx (by decide), honly h hx, fun d hd => ?_⟩
      obtain ⟨w, hsought, hw, -⟩ := sought_pushWord hlen h hx (mem_maskDoms.2 hd)
      obtain ⟨hgate, hstate⟩ := hsought.on (hw rfl)
      exact ⟨hsought.req, hgate, hstate⟩
    case pgateOff =>
      have hx := powerWord_pgateOff m
      have hr := requested_pushWord h hx
      refine ⟨_, rfl, honly h hx, fun d hd => ?_, fun a ha => hr.mem a (.inl ha),
        fun a _ hon => mem_pushWord_power hlen h hx hon,
        hr.arr, hr.vec, hr.tables, hr.rings⟩
      obtain ⟨w, hsought, -, -⟩ := sought_pushWord hlen h hx (mem_maskDoms.2 hd)
      have hw {o : DomReq} (ho : effReq (pushWord s p .seq (.pgateOff m)) d = some o) : w = o :=
        Option.some.inj (hsought.eff.symm.trans ho)
      refine ⟨hsought.req, fun hoff hidle => ?_, fun hoff hbusy => ?_⟩
      · obtain rfl := hw hoff
        exact hsought.idle (by decide) hidle
      · obtain rfl := hw hoff
        exact hsought.busy (by decide) hbusy
    case pgateRetain =>
      have hx := powerWord_pgateRetain m
      refine ⟨_, rfl, pushWord_power_eq h hx (by decide), honly h hx, fun d hd => ?_⟩
      obtain ⟨w, hsought, -, -⟩ := sought_pushWord hlen h hx (mem_maskDoms.2 hd)
      refine ⟨hsought.req, fun hret hidle => ?_⟩
      obtain rfl := Option.some.inj (hsought.eff.symm.trans hret)
      exact hsought.idle (by decide) hidle
    case woken =>
      refine ⟨_, exec_domainWakeComplete hactive, ?_⟩
      rw [domWoken_eq hdom hwords, setDom_on (by rw [hdom]; decide)]
      refine ⟨rfl, nth_setNth_same _ _ _ _ (by rw [hlen]; exact d.isLt), fun e he => nth_setNth_other _ _ _ _ _ he, rfl, ?_,
        fun u w hw hu => tabFind_sortsServed hw hu⟩
      exact (tabGet_tabSet ..).trans (if_pos rfl)
    case dmaq =>
      have hpush := pushWord_dmaq rfl h hj hpart huse
      have hchans x := (getChan_congr (congrArg State.chans hpush :) x).trans (getChan_putChan ..)
      refine ⟨_, rfl, ?_, (hchans _).trans (if_pos rfl), fun x hx => (hchans x).trans (if_neg hx)⟩
      exact congrArg (fun u : State => { u with jobs := (pushWord s p .seq (.dmaq k.toNat c)).jobs
                                                isl := (pushWord s p .seq (.dmaq k.toNat c)).isl
                                                chans := (pushWord s p .seq (.dmaq k.toNat c)).chans }) hpush

end Sys2Proof.Machine
end

section
/-! PROOFS. A write through a host window clears a bit error noted beyond the scratchpad (R130, R418). -/

namespace Sys2Proof.Machine

/-- An active module whose function 0 has a window onto T1, with a bit error noted at the window's first granule: one that the
scratchpad does not have. No command brings such a state about (`State.spdErr`), and the statement does not exclude it. -/
def strayError : State :=
  { State.reset with
    fns := [(0, { pv := true, winbase := t1Base })]
    wins := [(0, (t1Base, 1))]
    pwr := { mst := .active }
    spdErr := [(t1Base / 64, true)] }

/-- The write of a whole granule takes the noted error away, where a frame without `State.spdErr` has it stay. -/
theorem spdErr_windowWrite_strayError : (windowWrite strayError 0 0 (List.replicate 64 0)).spdErr ≠ strayError.spdErr := by
  decide +kernel

/-- Refutes O51: its clause on HOST_WINDOW_WRITE leaves `State.spdErr` as it was, and `unpoison` clears the errors of every
granule that a write covers, of T1 as of the scratchpad; `strayError` has one there. -/
theorem not_windows : ¬ Obligations.Windows := by
  unfold Obligations.Windows
  rintro ⟨hwrite, -⟩
  obtain ⟨-, -, hserved⟩ := hwrite strayError 0 0 (List.replicate 64 0)
  obtain ⟨t, hexec, hframe, -⟩ := hserved (by decide +kernel) (by decide +kernel) (by decide +kernel)
  obtain rfl : windowWrite strayError 0 0 (List.replicate 64 0) = t := by injection hexec
  exact spdErr_windowWrite_strayError (congrArg State.spdErr hframe :)

end Sys2Proof.Machine
end

section
/-! PROOFS. A batch whose step an ended job has left in the order of acceptance (R139, R144). -/

namespace Sys2Proof.Machine

/-- A job that takes in the batch of step 0. -/
def landingJob : Job :=
  { plan := {}, intakes := [{ cmd := { fn := 0, ring := 0, idx := 0, tag := 0, opc := 0x01 }, step := 0, len := 64, chan := 0 }] }

/-- The module while that batch lands, and the order of acceptance still lists the step: an ended job of the partition had
accepted it, and the order is cleared of such entries only where the next batch is accepted. -/
def staleOrder : State := { State.reset with jobs := [(0, landingJob)], sortOrder := [(0, 0)] }

/-- The module drops the stale entry, so that the step stands in the order once; the statement filters by the accepted steps
after the batch has joined them, which keeps the entry. -/
theorem sortOrder_batchDone_staleOrder :
    let t := batchDone staleOrder 0 0 0 []
    t.sortOrder = [(0, 0)] ∧ staleOrder.sortOrder.filter (liveBatch t) = [(0, 0)] := by decide +kernel

/-- Refutes O24: its clause on the order of acceptance, at the state `staleOrder`. -/
theorem not_batches : ¬ Obligations.Batches := by
  unfold Obligations.Batches
  rintro ⟨-, hlands, -⟩
  obtain ⟨t, k, hexec, -, -, -, -, -, -, haccepts, -⟩ := hlands staleOrder 0 0 0 [] landingJob _ rfl rfl
  obtain rfl : batchDone staleOrder 0 0 0 [] = t := by injection hexec
  obtain ⟨-, horder⟩ := (haccepts rfl (by decide +kernel) (by decide +kernel) (by decide +kernel)).1 (by decide +kernel)
  obtain ⟨hmodel, hlive⟩ := sortOrder_batchDone_staleOrder
  rw [hmodel, hlive] at horder
  exact absurd horder (by decide)

end Sys2Proof.Machine
end

section
/-! PROOFS. What charging the read of a record leaves where the module is calm (R130, R131, R233, R489), and
commands that start. -/

namespace Sys2Proof.Machine

/-! ### Counts -/

/-- Nothing but the counters is another. -/
def counted (s t : State) : Prop := t = { s with isl := t.isl }

namespace counted

theorem refl (s : State) : counted s s := rfl

theorem trans {s t u : State} (h : counted s t) (k : counted t u) : counted s u := by
  unfold counted at *
  rw [h] at k
  exact k

theorem foldl {α : Type} {f : State → α → State} (hf : ∀ s a, counted s (f s a)) (l : List α) (s : State) :
    counted s (l.foldl f s) := by
  induction l generalizing s with
  | nil => exact refl s
  | cons a l ih => exact (hf s a).trans (ih _)

end counted

theorem counted_count (s : State) (blk c n q : Nat) (a : EvAt) : counted s (count s blk c n q a) := rfl
theorem counted_tally (s : State) (blk : Nat) (c : Counts) : counted s (tally s blk c) := rfl
theorem counted_tblCount (s : State) (p : Part) (t i q : Nat) : counted s (tblCount s p t i q) := rfl
theorem counted_winAdd (s : State) (c n : Nat) : counted s (winAdd s c n) := rfl

theorem counted_sampleTick (s : State) (p : Part) (src : Nat) : counted s (sampleTick s p src) := by
  unfold sampleTick
  dsimp only
  split
  · rfl
  · split <;> rfl

theorem counted_countRec (s : State) (p : Part) (e : Nat) : counted s (countRec s p e) :=
  (counted_count ..).trans (counted_sampleTick ..)

theorem counted_countMem (s : State) (p : Part) (a n blk : Nat) (write : Bool) : counted s (countMem s p a n blk write) := by
  unfold countMem
  extract_lets k at' s1
  have h1 : counted s s1 := counted_count ..
  split
  · exact h1
  · exact h1.trans (counted_count ..)
  · refine h1.trans (.foldl (fun t x => ?_) _ _)
    split
    · exact .refl t
    · exact counted_count ..

/-! ### Charges -/

/-- The state without what charging a read may change: counters, tokens of the regulators, the domains' states and the
Almanac. -/
def uncharged (s : State) : State := { s with isl := {}, bucket := [], pwr := { s.pwr with pd := [] }, alm := {} }

/-- Two states that differ in counts, tokens, and domains that have woken. -/
structure charged (s t : State) : Prop where
  rest : uncharged t = uncharged s
  off : ∀ d, dom t d = .off ↔ dom s d = .off

namespace charged

theorem refl (s : State) : charged s s := ⟨rfl, fun _ => Iff.rfl⟩

theorem trans {s t u : State} (h : charged s t) (k : charged t u) : charged s u :=
  ⟨k.rest.trans h.rest, fun d => (k.off d).trans (h.off d)⟩

theorem of_counted {s t : State} (h : counted s t) : charged s t := by
  unfold counted at h
  rw [h]
  exact ⟨rfl, fun _ => Iff.rfl⟩

theorem of_sameOperands {s t : State} (h : sameOperands s t) (hj : t.jobs = s.jobs) : charged s t := by
  refine ⟨?_, h.off⟩
  have := congrArg (fun u : State => { u with jobs := t.jobs, bucket := [] }) h.rest
  simp only [operandsOf] at this
  unfold uncharged
  rw [← hj]
  exact this

section Fields

variable {s t : State} (h : charged s t)
include h

theorem arr : t.arr = s.arr := (congrArg State.arr h.rest :)
theorem mem : t.mem = s.mem := (congrArg State.mem h.rest :)
theorem jobs : t.jobs = s.jobs := (congrArg State.jobs h.rest :)
theorem tables : t.tables = s.tables := (congrArg State.tables h.rest :)
theorem poison : t.poison = s.poison := (congrArg State.poison h.rest :)
theorem spdErr : t.spdErr = s.spdErr := (congrArg State.spdErr h.rest :)
theorem flash : t.flash = s.flash := (congrArg State.flash h.rest :)

theorem calm (hc : calm s) : calm t := by
  obtain ⟨hoff, hspd, harr⟩ := hc
  exact ⟨fun d hlo hhi => mt (h.off d).1 (hoff d hlo hhi), by rw [h.spdErr, hspd], by rw [h.arr, harr]⟩

theorem badRange (a n : Nat) : badRange t a n = badRange s a n := by
  have hspd : spdOff t = spdOff s := funext fun a => by simp only [spdOff, h.off]
  simp only [Machine.badRange, poisoned, anyOff, hspd, h.poison, h.flash]

/-- A record reads as before. -/
theorem recRead (v : Table) (a row : Nat) : recRead t v a row = recRead s v a row := by
  simp only [Machine.recRead, h.mem, h.badRange]

end Fields

end charged

theorem charged_charge (s : State) (p : Part) (b n blk : Nat) : charged s (charge s p b n blk) := by
  unfold charge
  dsimp only
  split
  · exact ⟨rfl, fun _ => Iff.rfl⟩
  · exact ⟨rfl, fun _ => Iff.rfl⟩

/-- No flash unit is uncorrectable: a read meets none. -/
theorem meetFlash_of_none {s : State} (h : s.flash.bad = []) (a n : Nat) : meetFlash s a n = s := by
  simp [meetFlash, h]

@[simp] theorem raiseE_jobs (s : State) (e : Event) : (raiseE s e).jobs = s.jobs :=
  (congrArg State.jobs (eventFrame_raiseE s e).eventless_eq :)

theorem meetError_jobs (s : State) (e : Nat × Bool) : (meetError s e).jobs = s.jobs := by
  unfold meetError
  dsimp only
  split <;> simp [raiseM]

theorem spdAccess_jobs (s : State) (a n : Nat) (write : Bool) : (spdAccess s a n write).jobs = s.jobs := by
  unfold spdAccess
  split
  · rfl
  · refine (foldl_field State.jobs _ (fun t g => ?_) _ _).trans ?_
    · split <;> try split
      all_goals simp [raiseM]
    · split
      · rfl
      · exact foldl_field State.jobs _ meetError_jobs _ _

/-- Charging a read of a calm state whose flash is whole. -/
theorem charged_chargeRead {s : State} (hc : calm s) (hf : s.flash.bad = []) (p : Part) (a n blk : Nat) :
    charged s (chargeRead s p a n blk) := by
  unfold chargeRead chargeMem
  extract_lets s1
  have h1 : charged s s1 := .of_counted (counted_countMem ..)
  refine h1.trans ?_
  split
  · exact .of_sameOperands (sameOperands_spdAccess _ _ _ _ (h1.calm hc)) (spdAccess_jobs ..)
  · exact (charged_charge ..).trans (.of_counted (counted_winAdd ..))
  · exact (charged_charge ..).trans (.of_counted (counted_winAdd ..))
  · rw [meetFlash_of_none (by rw [h1.flash, hf])]
    exact (charged_charge ..).trans (.of_counted (counted_winAdd ..))
  · exact .refl _

theorem charged_chargeReads {s : State} (hc : calm s) (hf : s.flash.bad = []) (p : Part) (l : List Nat) (a n blk : Nat → Nat) :
    charged s (l.foldl (fun s r => chargeRead s p (a r) (n r) (blk r)) s) := by
  induction l generalizing s with
  | nil => exact .refl s
  | cons r l ih =>
    have h1 := charged_chargeRead hc hf p (a r) (n r) (blk r)
    exact h1.trans (ih (h1.calm hc) (by rw [h1.flash, hf]))

/-! ### Commands -/

/-- A command that starts and has its right does its work (R364, R374). -/
theorem command_of_runs {s : State} {c : Cmd} {opc : Nat} (h : runs s c opc) (f : State → State) : command s c opc f = f s := by
  obtain ⟨hstarts, hright⟩ := h
  simp [command, hstarts, hright]

/-- A read of a table that a write has put. -/
theorem getTbl_putTbl_same (s : State) (p : Part) (tid : Nat) (v : Table) : getTbl (putTbl s p tid v) p tid = some v := by
  rw [getTbl_putTbl, if_pos rfl]

end Sys2Proof.Machine
end

section
/-! PROOFS. Staged generations (R158, R159, R161). -/

namespace Sys2Proof.Machine

/-- Where the check has run: every staged record read and charged, the verdict by the first record that fails (R159, R161). -/
theorem checkStaged_eq {s : State} {p : Part} {tid : Nat} {t : Table} {g : Staged} {c : Cmd} {j : Job}
    (ht : getTbl s p tid = some t) (hj : getJob s p = some j) (hg : t.staged = some g) (hcommit : g.commit = some c)
    (hchk : g.chk = .running) (hcalm : calm s) (hflash : s.flash.bad = [])
    (hopen : allOpen s p ((stagedRows t g j.plan.lidx).map fun r => (stagedAddr t g j.plan.lidx r, t.desc.size, false)) = true) :
    ∃ u, charged s u ∧ checkStaged s p tid =
      match (stagedRows t g j.plan.lidx).find? fun r => (recRead s t (stagedAddr t g j.plan.lidx r) r).isNone with
      | some r => complete (raise (putTbl u p tid { t with staged := some { g with commit := none, chk := .failed } })
          p evGenFail [tid, r]) c stCksum 0 0 r
      | none => putTbl u p tid { t with staged := some { g with chk := .passed } } := by
  have hl : lidxOf s p = j.plan.lidx := by simp [lidxOf, hj]
  have hu := charged_chargeReads hcalm hflash p (stagedRows t g j.plan.lidx) (stagedAddr t g j.plan.lidx) (fun _ => t.desc.size)
    fun r => blkRow (t.desc.eng r)
  refine ⟨_, hu, ?_⟩
  have hread := fun r => hu.recRead t (stagedAddr t g j.plan.lidx r) r
  simp only [checkStaged, ht, hj, hg, hchk, hl, ne_eq, not_true, if_false, whenOpen, hopen, if_true, hread, hcommit]
  cases List.find? (fun r => (recRead s t (stagedAddr t g j.plan.lidx r) r).isNone) (stagedRows t g j.plan.lidx) <;> rfl

/-- Settles O33: STAGE and COMMIT by their checks, the check of a commit by `checkStaged_eq`. -/
theorem generations : Obligations.Generations := by
  unfold Obligations.Generations
  refine ⟨fun s c tid t ht => ⟨fun whole lo hi area rows hruns => ⟨fun hstaged hrange hn harea hin => ?_, fun hbad => ?_⟩,
    fun target hruns => ⟨fun g hg hcommit => ?_, fun hnone => ?_⟩⟩, fun s p tid t g c j ht hj hg hcommit hchk hflash hcalm hopen => ?_⟩
  · have hzero : rows.toNat = 0 ↔ rows = 0 := ⟨fun h => BitVec.eq_of_toNat_eq h, fun h => by rw [h]; rfl⟩
    refine congrArg Host.Outcome.next ((command_of_runs hruns _).trans ?_)
    simp only [stageTable, ht, hzero]
    refine if_neg ?_
    rintro (h | ⟨hw, h⟩ | h | h | h)
    · simp [hstaged] at h
    · rcases hrange with rfl | ⟨hrows, hlo, hhi⟩
      · exact absurd hw (by decide)
      · rcases h with h | h | h
        · exact h (hzero.2 hrows)
        · omega
        · omega
    · omega
    · exact h harea
    · rw [hin] at h
      exact absurd h (by decide)
  · refine congrArg Host.Outcome.next ((command_of_runs hruns _).trans ?_)
    simp only [stageTable, ht]
    exact if_pos (by tauto)
  · refine congrArg Host.Outcome.next ((command_of_runs hruns _).trans ?_)
    simp [commitTable, ht, hg, hcommit]
  · refine congrArg Host.Outcome.next ((command_of_runs hruns _).trans ?_)
    simp [commitTable, ht, hnone]
  · obtain ⟨u, hu, heq⟩ := checkStaged_eq ht hj hg hcommit hchk hcalm hflash hopen
    have hexec : exec (.stagedCheckComplete p tid) s = .next (checkStaged s p tid.toNat) := rfl
    refine ⟨fun hgood => ?_, fun r hr => ?_⟩
    · have hnone : ((stagedRows t g j.plan.lidx).find? fun r => (recRead s t (stagedAddr t g j.plan.lidx r) r).isNone) = none := by
        simpa [List.find?_eq_none, Option.isSome_iff_ne_none] using hgood
      rw [hnone] at heq
      exact ⟨_, _, hexec.trans (congrArg _ heq), getTbl_putTbl_same .., rfl, hu.mem, hu.jobs⟩
    · simp only [Option.not_isSome] at hr
      rw [hr] at heq
      exact ⟨_, _, hexec.trans (congrArg _ heq), getTbl_putTbl_same .., rfl, hu.mem, hu.jobs⟩

end Sys2Proof.Machine
end

section
/-! PROOFS. What the work of a table command writes: the table, its slot of the directory, its placement (R133, R170, R200, R513,
R514). -/

namespace Sys2Proof.Machine

/-! ### Writes beyond the scratchpad -/

theorem anyOff_of_device {a : Nat} (h : t0End ≤ a) (s : State) (n : Nat) : anyOff s a n = false := by
  simp [anyOff, Nat.not_lt.2 h]

/-- A write beyond the scratchpad goes to memory. -/
theorem wrNow_of_device {a : Nat} (h : t0End ≤ a) (s : State) (bs : List Byte) :
    wrNow s a bs = unpoison { s with mem := s.mem.write a bs } a bs.length := by
  simp [wrNow, anyOff_of_device h]

theorem wrNow_mem_of_device {a : Nat} (h : t0End ≤ a) (s : State) (bs : List Byte) :
    (wrNow s a bs).mem = s.mem.write a bs := by
  rw [wrNow_of_device h]
  rfl

theorem wrNow_places_of_device {a : Nat} (h : t0End ≤ a) (s : State) (bs : List Byte) : (wrNow s a bs).places = s.places := by
  rw [wrNow_of_device h]
  rfl

theorem wrNow_tables_of_device {a : Nat} (h : t0End ≤ a) (s : State) (bs : List Byte) : (wrNow s a bs).tables = s.tables := by
  rw [wrNow_of_device h]
  rfl

/-! ### The work on one table -/

/-- The state without what work on tables writes: the tables, the placements, memory and what a write of it clears. -/
def tableless (s : State) : State := { s with tables := [], places := [], mem := {}, poison := [], spdErr := [] }

/-- Nothing but the table at key `k`, placements and memory is another. -/
structure tableWork (k : Nat) (s t : State) : Prop where
  rest : tableless t = tableless s
  tables : ∀ l, l ≠ k → tabFind t.tables l = tabFind s.tables l

namespace tableWork

variable {k : Nat} {s t u : State}

theorem refl (s : State) : tableWork k s s := ⟨rfl, fun _ _ => rfl⟩

theorem trans (h : tableWork k s t) (g : tableWork k t u) : tableWork k s u :=
  ⟨g.rest.trans h.rest, fun l hl => (g.tables l hl).trans (h.tables l hl)⟩

/-- Work that leaves the tables alone. -/
theorem of_rest (h : tableless t = tableless s) (ht : t.tables = s.tables) : tableWork k s t := ⟨h, fun _ _ => by rw [ht]⟩

theorem jobs (h : tableWork k s t) : t.jobs = s.jobs := (congrArg State.jobs h.rest :)
theorem rings (h : tableWork k s t) : t.rings = s.rings := (congrArg State.rings h.rest :)
theorem arr (h : tableWork k s t) : t.arr = s.arr := (congrArg State.arr h.rest :)
theorem vec (h : tableWork k s t) : t.vec = s.vec := (congrArg State.vec h.rest :)
theorem tx (h : tableWork k s t) : t.tx = s.tx := (congrArg State.tx h.rest :)
theorem tierLock (h : tableWork k s t) : t.tierLock = s.tierLock := (congrArg State.tierLock h.rest :)
theorem tdir (h : tableWork k s t) : t.tdir = s.tdir := (congrArg State.tdir h.rest :)

theorem dirSlot (h : tableWork k s t) (p : Part) (tid : Nat) : dirSlot t p tid = dirSlot s p tid := by
  simp only [Machine.dirSlot, h.tdir]

end tableWork

theorem tableWork_wrNow {k a : Nat} (h : t0End ≤ a) (s : State) (bs : List Byte) : tableWork k s (wrNow s a bs) := by
  rw [wrNow_of_device h]
  exact .of_rest rfl rfl

theorem tableWork_putTbl (s : State) (p : Part) (tid : Nat) (v : Table) : tableWork (tkey p tid) s (putTbl s p tid v) :=
  ⟨rfl, fun _ hl => tabFind_tabSet_other _ _ _ _ hl⟩

theorem tableWork_modTbl (s : State) (p : Part) (tid : Nat) (f : Table → Table) :
    tableWork (tkey p tid) s (modTbl s p tid f) := by
  unfold modTbl
  split
  · exact .refl s
  · exact tableWork_putTbl ..

theorem tableWork_writeSlot {k : Nat} {s : State} {p : Part} {tid : Nat} (h : t0End ≤ dirSlot s p tid) (t : Table) :
    tableWork k s (writeSlot s p tid t) :=
  (tableWork_wrNow h s _).trans (tableWork_wrNow (by omega) _ _)

theorem tableWork_keepTbl {s : State} {p : Part} {tid : Nat} (h : t0End ≤ dirSlot s p tid) (t : Table) :
    tableWork (tkey p tid) s (keepTbl s p tid t) :=
  (tableWork_putTbl s p tid t).trans (tableWork_writeSlot (s := putTbl s p tid t) h t)

theorem tableWork_clearDigests (s : State) (p : Part) (tid : Nat) : tableWork (tkey p tid) s (clearDigests s p tid) := by
  unfold clearDigests
  split
  · exact .refl s
  · exact (tableWork_putTbl ..).trans (.of_rest rfl rfl)

/-! ### Reads of the table -/

theorem getTbl_modTbl_same (s : State) (p : Part) (tid : Nat) (f : Table → Table) :
    getTbl (modTbl s p tid f) p tid = (getTbl s p tid).map f := by
  unfold modTbl
  split
  · next h => rw [h]; rfl
  · next v h => rw [getTbl_putTbl_same, h]; rfl

theorem getTbl_keepTbl_same {s : State} {p : Part} {tid : Nat} (h : t0End ≤ dirSlot s p tid) (t : Table) :
    getTbl (keepTbl s p tid t) p tid = some t := by
  have hslot : t0End ≤ dirSlot (putTbl s p tid t) p tid + 0xC0 := by
    have : dirSlot (putTbl s p tid t) p tid = dirSlot s p tid := rfl
    omega
  refine (getTbl_congr ?_ p tid).trans (getTbl_putTbl_same s p tid t)
  rw [keepTbl, writeSlot, wrNow_tables_of_device hslot]
  exact wrNow_tables_of_device h _ _

/-- A table whose digests are zero and not valid. -/
def Table.undigested (t : Table) : Table := { t with set := 0, ranges := [], digOk := false }

theorem getTbl_clearDigests_same (s : State) (p : Part) (tid : Nat) :
    getTbl (clearDigests s p tid) p tid = (getTbl s p tid).map Table.undigested := by
  unfold clearDigests
  split
  · next h => rw [h]; rfl
  · next v h => rw [h]; exact getTbl_putTbl_same s p tid v.undigested

theorem clearDigests_mem {s : State} {p : Part} {tid : Nat} {t : Table} (h : getTbl s p tid = some t) :
    (clearDigests s p tid).mem = s.mem.zero (dirSlot s p tid + 0x100) 65552 := by
  unfold clearDigests
  split
  · next hn => rw [h] at hn; cases hn
  · rfl

/-- The rows that the engines of a table hash in a build, in walk order. -/
def buildOf (s : State) (p : Part) (t : Table) : Build := { todo := (List.range 16).map fun e => engineRows t (lidxOf s p) e }

theorem getTbl_startBuild_same (s : State) (p : Part) (tid : Nat) :
    getTbl (startBuild s p tid) p tid = (getTbl s p tid).map fun t => { t with build := some (buildOf s p t) } :=
  getTbl_modTbl_same ..

theorem startBuild_mem (s : State) (p : Part) (tid : Nat) : (startBuild s p tid).mem = s.mem := modTbl_mem ..

/-- A byte string read back at the start of what was written. -/
theorem Memory.read_write_prefix (m : Memory) (a : Nat) (xs ys : List Byte) : (m.write a (xs ++ ys)).read a xs.length = xs := by
  have h := Memory.read_write m a (xs ++ ys)
  rw [List.length_append, Memory.read_add] at h
  exact (List.append_inj h (Memory.length_read ..)).1

/-- A slot that has been written begins with the table's descriptor. -/
theorem read_keepTbl_desc {s : State} {p : Part} {tid : Nat} (h : t0End ≤ dirSlot s p tid) (t : Table) :
    (keepTbl s p tid t).mem.read (dirSlot s p tid) 64 = bytesOf 64 t.desc.num := by
  have hslot : dirSlot (putTbl s p tid t) p tid = dirSlot s p tid := rfl
  rw [keepTbl, writeSlot, wrNow_mem_of_device (by omega), hslot, Memory.read_write_outside _ _ _ _ _ (.inl (by omega)),
    wrNow_mem_of_device h, padTo]
  simp only [List.append_assoc]
  have hlen : (bytesOf 64 t.desc.num).length = 64 := length_bytesOf ..
  conv_lhs => rw [← hlen]
  exact Memory.read_write_prefix ..

/-! ### Definition -/

/-- The table that a definition makes, before its digests are cleared. -/
def definedTable (s : State) (p : Part) (d : Desc) : Table :=
  { desc := d, place := tabFind s.places (tkey p d.tid), map := if (getJob s p).isSome then readMap s d else [] }

/-- The module with the table of a definition in its directory and its digests cleared. -/
def definedState (s : State) (p : Part) (d : Desc) : State := clearDigests (keepTbl s p d.tid (definedTable s p d)) p d.tid

theorem defineNow_eq {s : State} {p : Part} {d : Desc} (htier : d.tier ≠ 2) :
    defineNow s p d =
      updLock (if (getJob (definedState s p d) p).isSome then startBuild (definedState s p d) p d.tid else definedState s p d) p := by
  unfold defineNow
  extract_lets pl t s1 s2 s3
  have h2 : s2 = s1 := by
    simp only [s2]
    split
    · next h _ => exact absurd h htier
    · rfl
  have h1 : s1 = definedState s p d := rfl
  simp only [s3, h2, h1]

section Define

variable {s : State} {p : Part} {d : Desc} (hslot : t0End ≤ dirSlot s p d.tid)
include hslot

theorem tableWork_definedState : tableWork (tkey p d.tid) s (definedState s p d) :=
  (tableWork_keepTbl hslot _).trans (tableWork_clearDigests ..)

theorem getTbl_definedState : getTbl (definedState s p d) p d.tid = some (definedTable s p d).undigested := by
  rw [definedState, getTbl_clearDigests_same, getTbl_keepTbl_same hslot]
  rfl

theorem read_definedState : (definedState s p d).mem.read (dirSlot s p d.tid) 64 = bytesOf 64 d.num := by
  have hdir := (tableWork_keepTbl hslot (definedTable s p d)).dirSlot p d.tid
  have hread := read_keepTbl_desc hslot (definedTable s p d)
  rw [show (definedTable s p d).desc = d from rfl] at hread
  rw [← hread, definedState, clearDigests_mem (getTbl_keepTbl_same hslot _), hdir]
  refine Memory.read_congr fun x _ hx => ?_
  rw [Memory.get_zero, if_neg (by omega)]

/-- What a definition leaves of the table and of its slot in the directory (R133, R170, R514). -/
theorem defineNow_effect (htier : d.tier ≠ 2) :
    ∃ v b, defineNow s p d = updLock v p ∧ tableWork (tkey p d.tid) s v ∧ v.mem.read (dirSlot s p d.tid) 64 = bytesOf 64 d.num
      ∧ getTbl v p d.tid = some { (definedTable s p d).undigested with build := b } := by
  rw [defineNow_eq htier]
  have hwork := tableWork_definedState hslot
  have hget := getTbl_definedState hslot
  have hread := read_definedState hslot
  split
  · refine ⟨_, some (buildOf (definedState s p d) p (definedTable s p d).undigested), rfl, hwork.trans (tableWork_modTbl ..),
      by rw [startBuild_mem, hread], ?_⟩
    rw [getTbl_startBuild_same, hget]
    rfl
  · exact ⟨_, none, rfl, hwork, hread, hget⟩

end Define

theorem mem_of_tabFind {α : Type} {t : Tab α} {k : Nat} {v : α} (h : tabFind t k = some v) : (k, v) ∈ t := by
  induction t with
  | nil => cases h
  | cons x t ih =>
    rw [tabFind] at h
    split at h
    · next e => cases h; exact e ▸ List.mem_cons_self
    · exact List.mem_cons_of_mem _ (ih h)

/-- A partition with a table has its set-up locked (R512). -/
theorem tierLock_updLock {s : State} {p : Part} {tid : Nat} {t : Table} (hid : tid < 4096) (ht : getTbl s p tid = some t) :
    (updLock s p).tierLock = setNth s.tierLock p.toNat true := by
  have hmem : t ∈ tblsOf s p :=
    List.mem_map.2 ⟨_, List.mem_filter.2 ⟨mem_of_tabFind ht, decide_eq_true (by unfold tkey; omega)⟩, rfl⟩
  have hbusy : (tblsOf s p).isEmpty = false := List.isEmpty_eq_false_iff.2 (List.ne_nil_of_mem hmem)
  simp [updLock, hbusy]

end Sys2Proof.Machine
end

section
/-! PROOFS. The table commands (R133, R170, R200, R374, R536). -/

namespace Sys2Proof.Machine

/-! ### The base of the table directory -/

section Directory

variable (s : State) (p : Part) (tid : Nat)

theorem raiseE_tdir (e : Event) : (raiseE s e).tdir = s.tdir := (congrArg State.tdir (eventFrame_raiseE s e).eventless_eq :)

theorem hostWrite_tdir (b : Bool) (a : Nat) (bs : List Byte) (rel : Bool) : (hostWrite s b a bs rel).tdir = s.tdir := by
  unfold hostWrite
  split <;> rfl

theorem ringWrite_tdir (n : Nat) (bs : List Byte) : (ringWrite s n bs).tdir = s.tdir := hostWrite_tdir ..

theorem retire_tdir (c : Cmd) : (retire s c).tdir = s.tdir := by
  unfold retire
  dsimp only
  split_ifs <;> rfl

theorem complete_tdir (c : Cmd) (st a b cc : Nat) : (complete s c st a b cc).tdir = s.tdir := by
  unfold complete completeAt
  dsimp only
  split_ifs
  · rw [putPort_tdir, retire_tdir]
  · exact retire_tdir ..
  · rw [ringWrite_tdir, retire_tdir]
  · exact retire_tdir ..

theorem wrNow_tdir (a : Nat) (bs : List Byte) : (wrNow s a bs).tdir = s.tdir := by
  unfold wrNow
  split
  · exact raiseE_tdir ..
  · rfl

theorem dirShift_tdir (t : Table) (g hole n i : Nat) : (dirShift s t g hole n i).tdir = s.tdir := by
  induction n generalizing s hole i with
  | zero => exact wrNow_tdir ..
  | succ n ih =>
    rw [dirShift]
    dsimp only
    split_ifs
    · exact wrNow_tdir ..
    · exact ih ..
    · exact (ih ..).trans (wrNow_tdir ..)

theorem dirRemove_tdir (r : Nat) : (dirRemove s p tid r).tdir = s.tdir := by
  unfold dirRemove
  split
  · rfl
  · split
    · rfl
    · exact dirShift_tdir ..

theorem finishEvictions_tdir (rows : List Nat) : (finishEvictions s p tid rows).tdir = s.tdir := by
  refine foldl_field State.tdir _ (fun t r => ?_) rows s
  split
  · rfl
  · split
    · split
      · exact dirRemove_tdir ..
      · rfl
    · rfl

theorem flushProgress_tdir (rows : List Nat) : (flushProgress s p tid rows).tdir = s.tdir := by
  unfold flushProgress
  split
  · rfl
  · refine foldl_field State.tdir _ (fun t f => ?_) _ _
    split
    · rfl
    · exact complete_tdir ..

theorem spendPage_tdir (u : Option Nat) : (spendPage s u).tdir = s.tdir := by
  unfold spendPage
  dsimp only
  split
  · split
    · exact raiseE_tdir ..
    · rfl
  · rfl

theorem programPages_tdir (u : Option Nat) (lps : List Nat) : (programPages s u lps).tdir = s.tdir := by
  refine foldl_field State.tdir _ (fun t lp => ?_) lps s
  exact spendPage_tdir _ u

theorem charge_tdir (b n blk : Nat) : (charge s p b n blk).tdir = s.tdir :=
  (congrArg State.tdir (charged_charge s p b n blk).rest :)

theorem durable_tdir : (durable s p tid).tdir = s.tdir := by
  unfold durable
  split
  · rfl
  · split
    · rfl
    · rw [flushProgress_tdir, finishEvictions_tdir]
      refine (programPages_tdir ..).trans (Eq.trans (foldl_field State.tdir _ (fun t x => ?_) _ _) ?_)
      · rfl
      · exact charge_tdir ..

theorem drainWbs_tdir (n : Nat) : (drainWbs s p tid n).tdir = s.tdir := by
  induction n generalizing s with
  | zero => rfl
  | succ n ih => exact (ih _).trans (durable_tdir ..)

theorem dropCommit_tdir (st : Nat) : (dropCommit s p tid st).tdir = s.tdir := by
  unfold dropCommit
  split
  · rfl
  · split
    · split
      · exact complete_tdir ..
      · rfl
    · rfl

theorem clearExsAt_tdir (t : Table) (a row : Nat) : (clearExsAt s t a row).tdir = s.tdir := by
  unfold clearExsAt
  dsimp only
  split_ifs
  · rfl
  · exact wrNow_tdir ..
  · exact programPages_tdir ..
  · exact wrNow_tdir ..

theorem exportEnd_tdir (st : Nat) : (exportEnd s p tid st).tdir = s.tdir := by
  unfold exportEnd
  split
  · rfl
  · split
    · rfl
    · next x _ =>
      extract_lets s1 s2 s3
      have h1 : s1.tdir = s.tdir := by
        simp only [s1]
        split
        · rfl
        · exact foldl_field State.tdir _ (fun t y => clearExsAt_tdir ..) x.ents s
      have h2 : s2.tdir = s1.tdir := by
        simp only [s2]
        split
        · split <;> rfl
        · rfl
      exact (complete_tdir ..).trans (h2.trans h1)

theorem endTable_tdir : (endTable s p tid).tdir = s.tdir := by
  unfold endTable
  split
  · rfl
  · rw [exportEnd_tdir, dropCommit_tdir, drainWbs_tdir]

end Directory

/-! ### Release, placement, parameters -/

/-- Nothing is in progress on the table: ending its work changes nothing. -/
theorem endTable_of_idle {s : State} {p : Part} {tid : Nat}
    (h : ∀ t, getTbl s p tid = some t → t.wbs = [] ∧ t.exp = none ∧ t.staged = none) : endTable s p tid = s := by
  unfold endTable
  split
  · rfl
  · next t ht =>
    obtain ⟨hwbs, hexp, hstaged⟩ := h t ht
    simp [hwbs, drainWbs, dropCommit, ht, hstaged, exportEnd, hexp]

/-- What a release leaves of the table, its placement and its slot of the directory (R133, R514). -/
theorem releaseNow_effect (s : State) (p : Part) (tid : Nat) :
    ∃ v, releaseNow s p tid = updLock v p ∧ tableWork (tkey p tid) (endTable s p tid) v ∧ getTbl v p tid = none
      ∧ tabFind v.places (tkey p tid) = none ∧ ∀ i, i < 0x100 + 65552 → v.mem.get (dirSlot s p tid + i) = 0 := by
  refine ⟨_, rfl, ⟨rfl, fun l hl => ?_⟩, ?_, ?_, fun i hi => ?_⟩
  · exact (tabFind_tabErase ..).trans (if_neg hl)
  · exact (tabFind_tabErase ..).trans (if_pos rfl)
  · exact (tabFind_tabErase ..).trans (if_pos rfl)
  · have hdir : dirSlot (endTable s p tid) p tid = dirSlot s p tid := by simp only [dirSlot, endTable_tdir]
    refine (Memory.get_zero ..).trans (if_pos ?_)
    rw [show dirSlot { endTable s p tid with
      tables := tabErase (endTable s p tid).tables (tkey p tid), places := tabErase (endTable s p tid).places (tkey p tid) } p tid
      = dirSlot (endTable s p tid) p tid from rfl, hdir]
    omega

/-- The placement entry in force, and behind it in its table's slot of the directory. -/
def placeListed (s : State) (p : Part) (e : Place) : State := { s with places := tabSet s.places (tkey p e.tid) e }
def placeWritten (s : State) (p : Part) (e : Place) : State :=
  wrNow (placeListed s p e) (dirSlot s p e.tid + 0xC0) (bytesOf 64 e.num)

/-- The state with a placement entry in its table too. -/
def placed (s : State) (p : Part) (e : Place) : State := modTbl (placeWritten s p e) p e.tid fun t => { t with place := some e }

theorem placeNow_eq (s : State) (p : Part) (e : Place) :
    placeNow s p e = { placed s p e with tierLock := setNth (placed s p e).tierLock p.toNat true } := rfl

theorem placeListed_mem (s : State) (p : Part) (e : Place) : (placeListed s p e).mem = s.mem := rfl

section Placed

variable {s : State} {p : Part} {e : Place} (hslot : t0End ≤ dirSlot s p e.tid)
include hslot

theorem placeWritten_outside : t0End ≤ dirSlot s p e.tid + 0xC0 := Nat.le_add_right_of_le hslot

theorem tableWork_placed : tableWork (tkey p e.tid) s (placed s p e) := by
  have h : tableWork (tkey p e.tid) s (placeListed s p e) := .of_rest rfl rfl
  exact h.trans ((tableWork_wrNow (placeWritten_outside hslot) _ _).trans (tableWork_modTbl ..))

theorem places_placed : tabFind (placed s p e).places (tkey p e.tid) = some e := by
  rw [placed, modTbl_places, placeWritten, wrNow_places_of_device (placeWritten_outside hslot)]
  exact tabFind_tabSet_same ..

theorem getTbl_placed : getTbl (placed s p e) p e.tid = (getTbl s p e.tid).map (fun t => { t with place := some e }) := by
  rw [placed, getTbl_modTbl_same, placeWritten, getTbl_congr (wrNow_tables_of_device (placeWritten_outside hslot) ..)]
  rfl

theorem read_placed : (placed s p e).mem.read (dirSlot s p e.tid + 0xC0) 64 = bytesOf 64 e.num := by
  have h := Memory.read_write s.mem (dirSlot s p e.tid + 0xC0) (bytesOf 64 e.num)
  rw [length_bytesOf] at h
  rw [placed, modTbl_mem, placeWritten, wrNow_mem_of_device (placeWritten_outside hslot), placeListed_mem, h]

/-- What a placement leaves of the table, its placement and its slot of the directory (R200, R514). -/
theorem placeNow_effect :
    ∃ v, placeNow s p e = { v with tierLock := setNth v.tierLock p.toNat true } ∧ tableWork (tkey p e.tid) s v
      ∧ tabFind v.places (tkey p e.tid) = some e
      ∧ getTbl v p e.tid = (getTbl s p e.tid).map (fun t => { t with place := some e })
      ∧ v.mem.read (dirSlot s p e.tid + 0xC0) 64 = bytesOf 64 e.num :=
  ⟨placed s p e, placeNow_eq s p e, tableWork_placed hslot, places_placed hslot, getTbl_placed hslot, read_placed hslot⟩

end Placed

/-! ### Parameters -/

/-- A parameter set writes P0 to P10 of the block (R170). -/
theorem setParams_p {q : Params} {reset : Bool} {ps : List W32} (hps : ps.length = 11) :
    (setParams q reset ps).p = ps ++ q.p.drop 11 := by
  have htake : (ps ++ List.replicate 11 0).take 11 = ps := by rw [← hps, List.take_left' rfl]
  unfold setParams
  dsimp only
  split <;> rw [htake]

theorem setParams_kept {q : Params} {reset : Bool} (h : reset = false) (ps : List W32) :
    (setParams q reset ps).p1 = q.p1 ∧ (setParams q reset ps).p2 = q.p2 := by
  subst h
  exact ⟨rfl, rfl⟩

theorem setParams_reset {reset : Bool} (h : reset = true) (q : Params) (ps : List W32) :
    (setParams q reset ps).p1 = 0x3F800000 ∧ (setParams q reset ps).p2 = 0x3F800000 := by
  subst h
  exact ⟨rfl, rfl⟩

/-- A parameter set of a table writes its block (R170). -/
theorem paramNow_table {s : State} {p : Part} {tid : Nat} {t : Table} (ht : getTbl s p tid = some t) (reset : Bool)
    (ps : List W32) : paramNow s p false tid reset ps = keepTbl s p tid { t with par := setParams t.par reset ps } := by
  simp [paramNow, ht]

/-- A parameter set of an RF entry writes the block of its job. -/
theorem paramNow_entry {s : State} {p : Part} {j : Job} (hj : getJob s p = some j) (e : Nat) (reset : Bool) (ps : List W32) :
    paramNow s p true e reset ps = keepRf s p e (setParams (tabGet {} j.rfPar e) reset ps) := by
  simp [paramNow, hj]

theorem t0End_le_rfSlot (s : State) (p : Part) (e : Nat) : t0End ≤ rfSlot s p e := by
  unfold rfSlot t0End
  omega

theorem keepRf_tables (s : State) (p : Part) (e : Nat) (q : Params) : (keepRf s p e q).tables = s.tables :=
  (wrNow_tables_of_device (t0End_le_rfSlot ..) _ _).trans (modJob_tables ..)

theorem getJob_keepRf {s : State} {p : Part} {j : Job} (hj : getJob s p = some j) (e : Nat) (q : Params) :
    getJob (keepRf s p e q) p = some { j with rfPar := tabSet j.rfPar e q } := by
  have h : (keepRf s p e q).jobs = (modJob s p fun j => { j with rfPar := tabSet j.rfPar e q }).jobs :=
    (tableWork_wrNow (k := 0) (t0End_le_rfSlot ..) _ _).jobs
  rw [getJob_congr h, getJob_modJob, if_pos rfl, hj]
  rfl

/-! ### The commands -/

theorem tblOp_of_steps {s : State} {p : Part} (h : runsSteps s p = true) (o : TblOp) :
    tblOp s p o = { s with tblOps := s.tblOps ++ [(p, o)] } := if_pos h

theorem tblOp_of_idle {s : State} {p : Part} (h : runsSteps s p = false) (o : TblOp) :
    tblOp s p o = applyOp s p o (lastSealOf s p) := if_neg (by simp [h])

theorem pendingDef_of_nil {s : State} (h : s.tblOps = []) (p : Part) (tid : Nat) : pendingDef s p tid = false := by
  simp [pendingDef, h]

theorem afterOps_of_nil {s : State} (h : s.tblOps = []) (p : Part) : afterOps s p = s := by simp [afterOps, h]

/-- What work on one table leaves alone, as a table command states it. -/
theorem tableWork.others {k : Nat} {s u : State} (h : tableWork k s u) :
    (∀ l, l ≠ k → tabFind u.tables l = tabFind s.tables l) ∧ u.jobs = s.jobs ∧ u.rings = s.rings ∧ u.arr = s.arr
      ∧ u.vec = s.vec ∧ u.tx = s.tx := ⟨h.tables, h.jobs, h.rings, h.arr, h.vec, h.tx⟩

section Commands

variable {s : State} {c : Cmd}

/-- A TDEF that passes its checks (R133). -/
theorem tableDefine_of_ok {x : BitVec 512} (hdir : nth 0 s.tdir (partOf s c.fn).toNat ≠ 0) (hops : s.tblOps = [])
    (hok : defineOk s (partOf s c.fn) (descOf x) = true) :
    tableDefine s c x = tblOp s (partOf s c.fn) (.define (descOf x) c) := by
  have hdir : ¬ nth 0 s.tdir (partOf s c.fn).toNat = 0 := hdir
  simp [tableDefine, hdir, pendingDef_of_nil hops, afterOps_of_nil hops, hok]

theorem tableDefine_of_bad {x : BitVec 512}
    (h : nth 0 s.tdir (partOf s c.fn).toNat = 0 ∨ (s.tblOps = [] ∧ defineOk s (partOf s c.fn) (descOf x) = false)) :
    tableDefine s c x = rejectCmd s c evTblReject stInvalid [(descOf x).tid] := by
  refine if_pos ?_
  rcases h with h | ⟨hops, hbad⟩
  · exact .inl h
  · rw [afterOps_of_nil hops, hbad]
    exact .inr (.inr rfl)

/-- A TREL that passes its checks. -/
theorem tableRelease_of_ok {tid : Nat} (hplan : planUses s (partOf s c.fn) tid = false)
    (ht : (getTbl s (partOf s c.fn) tid).isSome = true) :
    tableRelease s c tid = tblOp s (partOf s c.fn) (.release tid c) := by
  refine if_neg ?_
  rw [Option.isNone_eq_false_iff.2 ht, hplan]
  simp

theorem tableRelease_of_bad {tid : Nat}
    (h : planUses s (partOf s c.fn) tid = true ∨ (getTbl s (partOf s c.fn) tid = none ∧ s.tblOps = [])) :
    tableRelease s c tid = rejectCmd s c evTblReject stInvalid [tid] := by
  refine if_pos ?_
  rcases h with h | ⟨hnone, hops⟩
  · exact .inr h
  · rw [hnone, pendingDef_of_nil hops]
    exact .inl ⟨rfl, rfl⟩

/-- Whether a placement entry may take effect (R200). -/
def placeable (s : State) (p : Part) (e : Place) : Bool :=
  placeOk e && (match getTbl s p e.tid with
    | none => placeIn s p e 64
    | some t => (match t.place with | none => true | some o => placeChange o e))

theorem tablePlace_eq (x : BitVec 512) :
    tablePlace s c x = if placeable s (partOf s c.fn) (placeOf x) then tblOp s (partOf s c.fn) (.place (placeOf x) c)
      else rejectCmd s c evProgError stInvalid [(placeOf x).tid] := by
  have hnot : ∀ (b : Bool) (x y : State), (if !b then x else y) = if b then y else x := fun b x y => by cases b <;> rfl
  rcases ht : getTbl s (partOf s c.fn) (placeOf x).tid with _ | t
  · simp only [tablePlace, placeable, ht, hnot]
  · rcases hp : t.place with _ | o <;> simp only [tablePlace, placeable, ht, hp, hnot]

/-- A PARAM of a table that stands, and of an RF entry. -/
theorem tableParam_table {n : Nat} {f : Byte} {t : Table} (hf : bit 1 f.toNat = false)
    (ht : getTbl s (partOf s c.fn) (n % 4096) = some t) (ps : List W32) :
    tableParam s c n f ps = tblOp s (partOf s c.fn) (.param false (n % 4096) (bit 0 f.toNat) ps c) := by
  simp [tableParam, hf, ht]

theorem tableParam_entry {n : Nat} {f : Byte} (hf : bit 1 f.toNat = true) (hrf : isRf s (partOf s c.fn) n = true)
    (ps : List W32) : tableParam s c n f ps = tblOp s (partOf s c.fn) (.param true n (bit 0 f.toNat) ps c) := by
  simp [tableParam, hf, hrf]

theorem tableParam_unknown {n : Nat} {f : Byte} (hops : s.tblOps = [])
    (h : (if bit 1 f.toNat then isRf s (partOf s c.fn) n else (getTbl s (partOf s c.fn) (n % 4096)).isSome) = false)
    (ps : List W32) :
    tableParam s c n f ps = rejectCmd s c evProgError stInvalid [if bit 1 f.toNat then n else n % 4096] := by
  cases hf : bit 1 f.toNat with
  | false =>
    have h : (getTbl s (partOf s c.fn) (n % 4096)).isSome = false := by simpa [hf] using h
    simp only [tableParam, hf, Bool.false_eq_true, if_false, h, pendingDef_of_nil hops]
    rfl
  | true =>
    have h : isRf s (partOf s c.fn) n = false := by simpa [hf] using h
    simp only [tableParam, hf, if_true, h]
    rfl

theorem isSome_getJob_of_isRf {p : Part} {e : Nat} (h : isRf s p e = true) : ∃ j, getJob s p = some j := by
  unfold isRf at h
  split at h
  · cases h
  · next j hj => exact ⟨j, hj⟩

end Commands

/-- Settles O32: each command by its checks and, while no step runs, by what its operation writes. -/
theorem tableCommands : Obligations.TableCommands := by
  unfold Obligations.TableCommands
  intro s c p a slotFree others waits
  refine ⟨fun x hruns => ⟨fun hdir hops hok => ?_, fun hbad => ?_⟩, fun tid hruns => ⟨fun hplan ht => ?_, fun hbad => ?_⟩,
    fun x hruns => ?_, fun n f ps hruns hps => ⟨fun hf t ht => ?_, fun hf hrf hidle => ?_, fun hun hops => ?_⟩⟩
  · have heq := (command_of_runs hruns (tableDefine · c x)).trans (tableDefine_of_ok hdir hops hok)
    refine ⟨fun hsteps => congrArg _ (heq.trans (tblOp_of_steps hsteps _)), fun hidle htier hslot => ?_⟩
    obtain ⟨v, b, hnow, hwork, hread, hget⟩ := defineNow_effect hslot htier
    have hop : applyOp s p (.define (descOf x) c) (lastSealOf s p) = complete (updLock v p) c stDone a 0 0 := by
      rw [← hnow]
      exact if_pos hok
    refine ⟨_, _, congrArg _ (heq.trans ((tblOp_of_idle hidle _).trans hop)), hwork.others, hget, rfl, rfl, rfl, rfl, rfl, rfl,
      hread, ?_⟩
    rw [tierLock_updLock (Nat.mod_lt _ (by decide)) hget, hwork.tierLock]
  · exact congrArg _ ((command_of_runs hruns _).trans (tableDefine_of_bad hbad))
  · have heq := (command_of_runs hruns (tableRelease · c tid.toNat)).trans (tableRelease_of_ok hplan ht)
    refine ⟨fun hsteps => congrArg _ (heq.trans (tblOp_of_steps hsteps _)), fun hidle => ?_⟩
    obtain ⟨v, hnow, hwork, hgone, hplace, hzero⟩ := releaseNow_effect s p tid.toNat
    have hop : applyOp s p (.release tid.toNat c) (lastSealOf s p) = complete (updLock v p) c stDone a 0 0 := by
      rw [← hnow]
      refine if_neg ?_
      rw [Option.isNone_eq_false_iff.2 ht, hplan]
      simp
    refine ⟨_, congrArg _ (heq.trans ((tblOp_of_idle hidle _).trans hop)), fun hnothing => ?_, hgone, hplace, hzero⟩
    rw [endTable_of_idle hnothing] at hwork
    exact hwork.others
  · exact congrArg _ ((command_of_runs hruns _).trans (tableRelease_of_bad hbad))
  · have heq := (command_of_runs hruns (tablePlace · c x)).trans (tablePlace_eq (s := s) (c := c) x)
    refine ⟨fun hok hsteps => congrArg _ (heq.trans ((if_pos hok).trans (tblOp_of_steps hsteps _))), fun hok hidle hslot => ?_,
      fun hbad => congrArg _ (heq.trans (if_neg (Bool.eq_false_iff.1 hbad)))⟩
    obtain ⟨v, hnow, hwork, hplace, hget, hread⟩ := placeNow_effect hslot
    have hop : applyOp s p (.place (placeOf x) c) (lastSealOf s p)
        = complete { v with tierLock := setNth v.tierLock p.toNat true } c stDone a 0 0 := by
      rw [← hnow]
      rfl
    exact ⟨_, congrArg _ (heq.trans ((if_pos hok).trans ((tblOp_of_idle hidle _).trans hop))), hwork.others, hplace, hget,
      hread⟩
  · have heq := (command_of_runs hruns (tableParam · c n.toNat f ps)).trans (tableParam_table hf ht ps)
    refine ⟨fun hsteps => congrArg _ (heq.trans (tblOp_of_steps hsteps _)), fun hidle hslot => ?_⟩
    have hop : applyOp s p (.param false (n.toNat % 4096) (bit 0 f.toNat) ps c) (lastSealOf s p)
        = complete (keepTbl s p (n.toNat % 4096) { t with par := setParams t.par (bit 0 f.toNat) ps }) c stDone a 0 0 := by
      rw [← paramNow_table ht]
      rfl
    exact ⟨_, _, congrArg _ (heq.trans ((tblOp_of_idle hidle _).trans hop)), (tableWork_keepTbl hslot _).others,
      getTbl_keepTbl_same hslot _, rfl, setParams_p hps, fun h => setParams_kept h ps, fun h => setParams_reset h t.par ps⟩
  · have heq := (command_of_runs hruns (tableParam · c n.toNat f ps)).trans (tableParam_entry hf hrf ps)
    obtain ⟨j, hj⟩ := isSome_getJob_of_isRf hrf
    have hop : applyOp s p (.param true n.toNat (bit 0 f.toNat) ps c) (lastSealOf s p)
        = complete (keepRf s p n.toNat (setParams (tabGet {} j.rfPar n.toNat) (bit 0 f.toNat) ps)) c stDone a 0 0 := by
      rw [← paramNow_entry hj]
      rfl
    refine ⟨_, _, j, hj, congrArg _ (heq.trans ((tblOp_of_idle hidle _).trans hop)), keepRf_tables .., getJob_keepRf hj .., ?_⟩
    rw [tabGet_tabSet, if_pos rfl]
    exact setParams_p hps
  · exact congrArg _ ((command_of_runs hruns _).trans (tableParam_unknown hops hun ps))

end Sys2Proof.Machine
end

section
/-! PROOFS. Arbitration, consumption, interrupts and ENABLE of rings (R365, R366, R373, R381, R386, R387, R504). -/

namespace Sys2Proof.Machine

/-! ### Sorting and sparse tables -/

theorem perm_insertBy {α : Type} (key : α → Nat) (x : α) (l : List α) : (insertBy key x l).Perm (x :: l) := by
  induction l with
  | nil => exact .refl _
  | cons y l ih =>
    rw [insertBy]
    split
    · exact .refl _
    · exact (ih.cons y).trans (.swap ..)

theorem perm_foldl_insertBy {α : Type} (key : α → Nat) (l acc : List α) :
    (l.foldl (fun acc x => insertBy key x acc) acc).Perm (l ++ acc) := by
  induction l generalizing acc with
  | nil => exact .refl _
  | cons x l ih => exact (ih _).trans (((perm_insertBy key x acc).append_left l).trans List.perm_middle)

/-- Sorting keeps the entries. -/
theorem perm_sortBy {α : Type} (key : α → Nat) (l : List α) : (sortBy key l).Perm l := by
  exact (perm_foldl_insertBy key l []).trans (.of_eq (List.append_nil l))

theorem mem_keys_iff {α : Type} (t : Tab α) (k : Nat) : k ∈ t.map (·.1) ↔ ∃ v, tabFind t k = some v := by
  induction t with
  | nil => exact ⟨fun h => absurd h List.not_mem_nil, fun ⟨_, h⟩ => by cases h⟩
  | cons x t ih =>
    rw [List.map_cons, List.mem_cons, ih, tabFind]
    split
    · next e => exact ⟨fun _ => ⟨_, rfl⟩, fun _ => .inl e.symm⟩
    · next e => exact ⟨fun h => h.resolve_left (Ne.symm e), .inr⟩

theorem mem_keys_tabSet_iff {α : Type} (t : Tab α) (k l : Nat) (v : α) :
    l ∈ (tabSet t k v).map (·.1) ↔ l = k ∨ l ∈ t.map (·.1) := by
  refine ⟨mem_keys_tabSet, fun h => ?_⟩
  rw [mem_keys_iff, tabFind_tabSet]
  by_cases e : l = k
  · exact ⟨v, if_pos e⟩
  · rw [if_neg e]
    exact (mem_keys_iff ..).1 (h.resolve_left e)

/-- Where no key stands twice, an entry is what a read of its key gives. -/
theorem tabFind_of_mem {α : Type} {t : Tab α} (h : keysRise t) {k : Nat} {v : α} (hm : (k, v) ∈ t) : tabFind t k = some v := by
  induction t with
  | nil => cases hm
  | cons x t ih =>
    obtain ⟨hlt, ht⟩ := List.pairwise_cons.1 h
    rw [tabFind]
    rcases List.mem_cons.1 hm with rfl | hm
    · exact if_pos rfl
    · rw [if_neg (Nat.ne_of_lt (hlt k (List.mem_map_of_mem hm))), ih ht hm]

theorem getRing_of_mem {s : State} (h : keysRise s.rings) {n : Nat} {r : Ring} (hm : (n, r) ∈ s.rings) : getRing s n = r := by
  rw [getRing, tabGet_eq_find, tabFind_of_mem h hm]
  rfl

/-! ### Several rings -/

/-- Nothing but rings is another, and memory in the shadows of the rings that the module has. -/
def ringWork (s t : State) : Prop :=
  t = { s with rings := t.rings, mem := t.mem } ∧ ∀ a, shadowed s a = false → t.mem.get a = s.mem.get a

theorem ringWork_refl (s : State) : ringWork s s := ⟨rfl, fun _ _ => rfl⟩

theorem ringWork_putRing {s t : State} (h : ringWork s t) {n : Nat} (hn : n ∈ s.rings.map Prod.fst) (r : Ring) :
    ringWork s (putRing t n r) := by
  obtain ⟨hrest, hmem⟩ := h
  refine ⟨by unfold putRing; rw [hrest], fun a ha => ?_⟩
  rw [← hmem a ha]
  exact Memory.get_write_outside _ _ _ _ (by rw [length_shadowBytes]; exact shadow_outside hn ha)

/-- Rings updated one by one, each from what it is. -/
def updRings (g : Ring → Ring) (l : List Nat) (s : State) : State := l.foldl (fun s n => putRing s n (g (getRing s n))) s

theorem ringWork_updRings {s t : State} (h : ringWork s t) (g : Ring → Ring) {l : List Nat} (hl : ∀ n ∈ l, n ∈ s.rings.map Prod.fst) :
    ringWork s (updRings g l t) := by
  unfold updRings
  induction l generalizing t with
  | nil => exact h
  | cons n l ih => exact ih (ringWork_putRing h (hl n List.mem_cons_self) _) fun m hm => hl m (List.mem_cons_of_mem _ hm)

theorem getRing_updRings (g : Ring → Ring) (l : List Nat) (s : State) (n : Nat) :
    getRing (updRings g l s) n = g^[l.count n] (getRing s n) := by
  unfold updRings
  induction l generalizing s with
  | nil => rfl
  | cons m l ih =>
    rw [List.foldl_cons, ih, getRing_putRing, List.count_cons]
    by_cases e : n = m
    · subst e; simp
    · simp [e, Ne.symm e]

theorem getRing_updRings_of_not_mem (g : Ring → Ring) {l : List Nat} {n : Nat} (h : n ∉ l) (s : State) :
    getRing (updRings g l s) n = getRing s n := by
  rw [getRing_updRings, List.count_eq_zero_of_not_mem h]
  rfl

theorem getRing_updRings_of_nodup (g : Ring → Ring) {l : List Nat} {n : Nat} (hl : l.Nodup) (h : n ∈ l) (s : State) :
    getRing (updRings g l s) n = g (getRing s n) := by
  rw [getRing_updRings, List.count_eq_one_of_mem hl h]
  rfl

/-- An update that a second one does not change may come more than once. -/
theorem getRing_updRings_of_idem {g : Ring → Ring} (hg : ∀ r, g (g r) = g r) {l : List Nat} {n : Nat} (h : n ∈ l) (s : State) :
    getRing (updRings g l s) n = g (getRing s n) := by
  rw [getRing_updRings]
  obtain ⟨k, hk⟩ : ∃ k, l.count n = k + 1 := Nat.exists_eq_succ_of_ne_zero (Nat.ne_of_gt (List.count_pos_iff.2 h))
  rw [hk]
  clear hk
  induction k generalizing s with
  | zero => rfl
  | succ k ih => rw [Function.iterate_succ_apply', ih, hg]

/-! ### Arbitration (R386, R387) -/

/-- A ring that has been served, and one that has aged at a port. -/
def Ring.served (r : Ring) : Ring := { r with cur := r.cls, promoted := false, age := 0, grant := if r.kind = 3 then 1 else 8 }
def Ring.aged (q : Port) (r : Ring) : Ring :=
  if 0 < r.cur ∧ nth 0 q.limits (r.cur - 1) ≤ Nat.min 65535 (r.age + 1) then { r with cur := r.cur - 1, promoted := true, age := 0 }
  else { r with age := Nat.min 65535 (r.age + 1) }

theorem served_served (r : Ring) : r.served.served = r.served := rfl

theorem ageRing_eq (q : Port) (s : State) (n : Nat) : ageRing s q n = putRing s n ((getRing s n).aged q) := by
  unfold ageRing Ring.aged
  dsimp only
  split <;> rfl

theorem mem_serviceOrder {rr n : Nat} {l : List (Nat × Ring)} (h : n ∈ serviceOrder rr l) : n ∈ l.map (·.1) := by
  obtain ⟨kr, hk, rfl⟩ := List.mem_map.1 h
  refine List.mem_map_of_mem ?_
  rcases List.mem_append.1 hk with h | h
  · rcases List.mem_append.1 h with h | h
    · exact List.mem_of_mem_filter ((perm_sortBy ..).mem_iff.1 h)
    · exact List.mem_of_mem_filter (List.mem_of_mem_filter h)
  · exact List.mem_of_mem_filter (List.mem_of_mem_filter h)

section Round

variable (s : State) (b : Bool)

/-- The ready rings of a port, and those of a class that a round serves. -/
def readyRings : List (Nat × Ring) := s.rings.filter fun kr => portOf kr.2.fn == b && ringReady s kr.2
def picksOf (c : Nat) : List Nat :=
  (serviceOrder (nth 0 (getPort s b).rr c) ((readyRings s b).filter fun kr => kr.2.cur == c)).take (nth 0 (getPort s b).weights c)
def servedRings : List Nat := ((List.range 4).map (picksOf s b)).flatten
def passedOver : List Nat := ((readyRings s b).map (·.1)).filter fun n => !(servedRings s b).contains n

theorem mem_servedRings {n : Nat} : n ∈ servedRings s b ↔ ∃ c, c < 4 ∧ n ∈ picksOf s b c := by
  simp [servedRings, List.mem_flatten]

theorem mem_passedOver {n : Nat} : n ∈ passedOver s b ↔ n ∈ (readyRings s b).map (·.1) ∧ n ∉ servedRings s b := by
  rw [passedOver, List.mem_filter]
  simp

theorem mem_keys_of_ready {n : Nat} (h : n ∈ (readyRings s b).map (·.1)) : n ∈ s.rings.map Prod.fst := by
  obtain ⟨kr, hk, rfl⟩ := List.mem_map.1 h
  exact List.mem_map_of_mem (List.mem_of_mem_filter hk)

theorem ready_of_served {n : Nat} (h : n ∈ servedRings s b) : n ∈ (readyRings s b).map (·.1) := by
  obtain ⟨c, -, hc⟩ := (mem_servedRings s b).1 h
  obtain ⟨kr, hk, rfl⟩ := List.mem_map.1 (mem_serviceOrder (List.mem_of_mem_take hc))
  exact List.mem_map_of_mem (List.mem_of_mem_filter hk)

/-- Where the round-robin of each class goes on behind a round. -/
def nextService : List Nat := (List.range 4).map fun c =>
  match (nth [] ((List.range 4).map (picksOf s b)) c).reverse.find? fun n => !(getRing s n).promoted with
  | some n => n + 1
  | none => nth 0 (getPort s b).rr c

/-- The state with the round-robin of a port's classes moved on. -/
def roundMoved : State := putPort s b { getPort s b with rr := nextService s b }

/-- A round serves the rings that it picks and ages the ready ones that it passes over. -/
theorem arbitrate_eq : arbitrate s b
    = updRings (Ring.aged (getPort s b)) (passedOver s b) (updRings Ring.served (servedRings s b) (roundMoved s b)) := by
  have hage : (fun t n => ageRing t (getPort s b) n) = fun t n => putRing t n (Ring.aged (getPort s b) (getRing t n)) :=
    funext fun t => funext fun n => ageRing_eq ..
  unfold arbitrate updRings
  rw [← hage]
  rfl

end Round

/-! ### What a command's completion and its events write (R378, R382, R390) -/

/-- What the completion of a command may change, with the rings that it writes among the keys of the result. -/
structure commandWork (s t : State) : Prop where
  rest : eventless t = eventless s
  keys : ∀ n ∈ s.rings.map Prod.fst, n ∈ t.rings.map Prod.fst
  mem : ∀ a, shadowed t a = false → t.mem.get a = s.mem.get a
  fns : ∀ f, getFn t f = { getFn s f with noring := (getFn t f).noring }
  ports : ∀ b, getPort t b = { getPort s b with
    evBuf := (getPort t b).evBuf, evDropped := (getPort t b).evDropped, evDropCount := (getPort t b).evDropCount
    kept := (getPort t b).kept }

theorem shadowed_of_keys {s t : State} (h : ∀ n ∈ s.rings.map Prod.fst, n ∈ t.rings.map Prod.fst) {a : Nat}
    (ha : shadowed t a = false) : shadowed s a = false := by
  refine List.any_eq_false.2 fun kr hk hin => ?_
  have hout := shadow_outside (h kr.1 (List.mem_map_of_mem hk)) ha
  have := of_decide_eq_true hin
  omega

namespace commandWork

variable {s t u : State}

theorem refl (s : State) : commandWork s s := ⟨rfl, fun _ h => h, fun _ _ => rfl, fun _ => rfl, fun _ => rfl⟩

theorem trans (h : commandWork s t) (k : commandWork t u) : commandWork s u := by
  refine ⟨k.rest.trans h.rest, fun n hn => k.keys n (h.keys n hn), fun a ha => ?_, fun f => ?_, fun b => ?_⟩
  · rw [k.mem a ha, h.mem a (shadowed_of_keys k.keys ha)]
  · rw [k.fns f, h.fns f]
  · rw [k.ports b, h.ports b]

theorem of_eventFrame (h : eventFrame s t) (hk : ∀ n ∈ s.rings.map Prod.fst, n ∈ t.rings.map Prod.fst) : commandWork s t := by
  have hrest := h.eventless_eq
  obtain ⟨-, hmem, -, hfns, hports⟩ := h
  exact ⟨hrest, hk, fun a ha => hmem a (shadowed_of_keys hk ha), hfns, fun b => by rw [hports b]⟩

/-- The frame of a command, beside rings that are as they are. -/
theorem frame (h : commandWork s t) : commandFrame { s with rings := t.rings } t :=
  ⟨eq_but_events_iff.2 h.rest, h.mem, fun _ => rfl, h.fns, h.ports⟩

end commandWork

theorem mem_keys_putRing {s : State} {n m : Nat} {r : Ring} : m ∈ (putRing s n r).rings.map Prod.fst ↔ m = n ∨ m ∈ s.rings.map Prod.fst :=
  mem_keys_tabSet_iff ..

theorem commandWork_putRing (s : State) (n : Nat) (r : Ring) : commandWork s (putRing s n r) := by
  refine ⟨rfl, fun m hm => mem_keys_putRing.2 (.inr hm), fun a ha => ?_, fun _ => rfl, fun _ => rfl⟩
  exact Memory.get_write_outside _ _ _ _ (by rw [length_shadowBytes]; exact shadow_outside (mem_keys_putRing.2 (.inl rfl)) ha)

theorem commandWork_hostWrite (s : State) (b : Bool) (a : Nat) (bs : List Byte) (rel : Bool) : commandWork s (hostWrite s b a bs rel) :=
  .of_eventFrame (eventFrame_hostWrite (eventFrame_refl s) b a bs rel) (by rw [hostWrite_rings]; exact fun _ h => h)

theorem commandWork_ringWrite (s : State) (n : Nat) (bs : List Byte) : commandWork s (ringWrite s n bs) :=
  (commandWork_hostWrite ..).trans (commandWork_putRing ..)

theorem commandWork_evPut (s : State) (n : Nat) (e : Event) : commandWork s (evPut s n e) := by
  unfold evPut
  extract_lets r o s1 r1
  split
  · exact commandWork_putRing ..
  · split
    · exact commandWork_ringWrite ..
    · have h1 : commandWork s s1 := (commandWork_putRing ..).trans (commandWork_ringWrite ..)
      split
      · exact h1.trans (commandWork_putRing ..)
      · exact h1.trans (commandWork_ringWrite ..)

theorem commandWork_foldl {α : Type} {f : State → α → State} (hf : ∀ s x, commandWork s (f s x)) (l : List α) (s : State) :
    commandWork s (l.foldl f s) := by
  induction l generalizing s with
  | nil => exact .refl s
  | cons x l ih => exact (hf s x).trans (ih _)

theorem raiseE_keys (s : State) (e : Event) : ∀ n ∈ s.rings.map Prod.fst, n ∈ (raiseE s e).rings.map Prod.fst := by
  intro n hn
  unfold raiseE
  extract_lets s1 s2 wanted s3
  have h2 : s2.rings = s.rings := (evKeep_rings ..).trans (evKeep_rings ..)
  have h3 : n ∈ s3.rings.map Prod.fst :=
    (commandWork_foldl (fun t kr => commandWork_evPut t kr.1 e) wanted s2).keys n (by rw [h2]; exact hn)
  split <;> exact h3

theorem commandWork_raiseE (s : State) (e : Event) : commandWork s (raiseE s e) := .of_eventFrame (eventFrame_raiseE s e) (raiseE_keys s e)

theorem commandWork_retire (s : State) (c : Cmd) : commandWork s (retire s c) := by
  unfold retire
  dsimp only
  split_ifs
  · exact commandWork_putRing ..
  · exact commandWork_putRing ..
  · exact .refl s

theorem commandWork_kept (s : State) (b : Bool) (l : List Kept) : commandWork s (putPort s b { getPort s b with kept := l }) := by
  refine ⟨by cases b <;> rfl, by simp, by simp, fun f => by rw [getFn_congr (putPort_fns ..)], fun c => ?_⟩
  rw [getPort_putPort]
  split
  · next e => rw [e]
  · rfl

theorem commandWork_completeAt (s : State) (c : Cmd) (head st a b cc : Nat) : commandWork s (completeAt s c head st a b cc) := by
  unfold completeAt
  dsimp only
  split_ifs
  · exact (commandWork_retire ..).trans (commandWork_kept ..)
  · exact commandWork_retire ..
  · exact (commandWork_retire ..).trans (commandWork_ringWrite ..)
  · exact commandWork_retire ..

theorem commandWork_rejectCmd (s : State) (c : Cmd) (code st : Nat) (detail : List Nat) :
    commandWork s (rejectCmd s c code st detail) :=
  (commandWork_raiseE ..).trans (commandWork_completeAt ..)

theorem retire_evLog (s : State) (c : Cmd) : (retire s c).evLog = s.evLog := by
  unfold retire
  dsimp only
  split_ifs <;> rfl

theorem completeAt_evLog (s : State) (c : Cmd) (head st a b cc : Nat) : (completeAt s c head st a b cc).evLog = s.evLog := by
  unfold completeAt
  dsimp only
  split_ifs
  · rw [putPort_evLog, retire_evLog]
  · exact retire_evLog ..
  · rw [ringWrite_evLog, retire_evLog]
  · exact retire_evLog ..

theorem raises_rejectCmd (s : State) (c : Cmd) (code st : Nat) (detail : List Nat) :
    raises s (rejectCmd s c code st detail) code detail :=
  ⟨[_], (completeAt_evLog ..).trans (raiseE_evLog ..), _, List.mem_singleton_self _, rfl, rfl⟩

/-! ### A submission ring under its own command -/

theorem getRing_ringWrite_other {s : State} {n m : Nat} (h : m ≠ n) (bs : List Byte) : getRing (ringWrite s n bs) m = getRing s m := by
  rw [ringWrite, getRing_putRing, if_neg h, getRing_congr (hostWrite_rings ..)]

theorem getRing_evPut_other {s : State} {n m : Nat} (h : m ≠ n) (e : Event) : getRing (evPut s n e) m = getRing s m := by
  unfold evPut
  dsimp only
  split_ifs <;> simp only [getRing_putRing, getRing_ringWrite_other h, if_neg h]

/-- An event goes to event rings alone. -/
theorem getRing_raiseE_of_kind {s : State} (hs : keysRise s.rings) {n : Nat} (h : (getRing s n).kind ≠ 2) (e : Event) :
    getRing (raiseE s e) n = getRing s n := by
  unfold raiseE
  extract_lets s1 s2 wanted s3
  have h2 : s2.rings = s.rings := (evKeep_rings ..).trans (evKeep_rings ..)
  have h3 : getRing s3 n = getRing s n := by
    have hne : ∀ kr ∈ wanted, n ≠ kr.1 := by
      rintro ⟨m, q⟩ hk rfl
      obtain ⟨hmem, hwant⟩ := List.mem_filter.1 hk
      rw [h2] at hmem
      rw [getRing_of_mem hs hmem] at h
      simp [evWanted, h] at hwant
    have hfold : ∀ (l : List (Nat × Ring)) (t : State), (∀ kr ∈ l, n ≠ kr.1) →
        getRing (l.foldl (fun s kr => evPut s kr.1 e) t) n = getRing t n := fun l => by
      induction l with
      | nil => exact fun _ _ => rfl
      | cons kr l ih =>
        intro t hl
        rw [List.foldl_cons, ih _ fun x hx => hl x (List.mem_cons_of_mem _ hx), getRing_evPut_other (hl kr List.mem_cons_self)]
    exact (hfold wanted s2 hne).trans (getRing_congr h2 n)
  split <;> exact h3

/-- A retired command leaves the indices and the link of every ring. -/
theorem getRing_retire (s : State) (c : Cmd) (n : Nat) :
    (getRing (retire s c) n).dev = (getRing s n).dev ∧ (getRing (retire s c) n).link = (getRing s n).link := by
  unfold retire
  dsimp only
  split_ifs
  · rw [getRing_putRing]; split <;> simp_all
  · rw [getRing_putRing]; split <;> simp_all
  · exact ⟨rfl, rfl⟩

theorem dev_completeAt {s : State} {c : Cmd} {n : Nat} (hc : c.ring.toNat = n) (hlink : (getRing s n).link ≠ n) (head st a b cc : Nat) :
    (getRing (completeAt s c head st a b cc) n).dev = (getRing s n).dev := by
  obtain ⟨hdev, hl⟩ := getRing_retire s c n
  unfold completeAt
  dsimp only
  rw [hc]
  split_ifs
  · rw [getRing_congr (putPort_rings ..), hdev]
  · exact hdev
  · rw [getRing_ringWrite_other (by rw [hl]; exact Ne.symm hlink), hdev]
  · exact hdev

theorem dev_rejectCmd {s : State} (hs : keysRise s.rings) {c : Cmd} {n : Nat} (hc : c.ring.toNat = n) (hkind : (getRing s n).kind = 0)
    (hlink : (getRing s n).link ≠ n) (code st : Nat) (detail : List Nat) :
    (getRing (rejectCmd s c code st detail) n).dev = (getRing s n).dev := by
  have h : getRing (raiseF s code st c.fn.toNat (some (partOf s c.fn)) detail) n = getRing s n :=
    getRing_raiseE_of_kind hs (by rw [hkind]; decide) _
  exact (dev_completeAt hc (by rw [h]; exact hlink) ..).trans (by rw [h])

end Sys2Proof.Machine
end

section
/-! PROOFS. The commands of the rings: ARBITRATION_ROUND, COMMAND_CONSUME, INTERRUPT_RAISE, RING_ENABLE and RING_DISABLE. -/

namespace Sys2Proof.Machine

/-! ### ARBITRATION_ROUND -/

section Round

variable {s : State} {b : Bool}

theorem ringWork_arbitrate : ringWork (roundMoved s b) (arbitrate s b) := by
  have hkeys : ∀ n ∈ (readyRings s b).map (·.1), n ∈ (roundMoved s b).rings.map Prod.fst := fun n hn => by
    rw [roundMoved, putPort_rings]
    exact mem_keys_of_ready s b hn
  rw [arbitrate_eq]
  refine ringWork_updRings (ringWork_updRings (ringWork_refl _) _ fun n hn => hkeys n (ready_of_served s b hn)) _ fun n hn => ?_
  exact hkeys n ((mem_passedOver s b).1 hn).1

/-- A ready ring that is served, and one that is passed over (R386, R387). -/
theorem getRing_arbitrate_served {n : Nat} (h : n ∈ servedRings s b) : getRing (arbitrate s b) n = (getRing s n).served := by
  have hout : n ∉ passedOver s b := fun hn => ((mem_passedOver s b).1 hn).2 h
  rw [arbitrate_eq, getRing_updRings_of_not_mem _ hout, getRing_updRings_of_idem served_served h, roundMoved,
    getRing_congr (putPort_rings ..)]

theorem nodup_passedOver (hs : keysRise s.rings) : (passedOver s b).Nodup := by
  have hkeys : (s.rings.map Prod.fst).Nodup := hs.imp Nat.ne_of_lt
  exact (hkeys.sublist (List.filter_sublist.map _)).filter _

theorem getRing_arbitrate_passed (hs : keysRise s.rings) {n : Nat} (hready : n ∈ (readyRings s b).map (·.1))
    (h : n ∉ servedRings s b) : getRing (arbitrate s b) n = (getRing s n).aged (getPort s b) := by
  rw [arbitrate_eq, getRing_updRings_of_nodup _ (nodup_passedOver hs) ((mem_passedOver s b).2 ⟨hready, h⟩),
    getRing_updRings_of_not_mem _ h, roundMoved, getRing_congr (putPort_rings ..)]

theorem getRing_arbitrate_other {n : Nat} (h : n ∉ (readyRings s b).map (·.1)) : getRing (arbitrate s b) n = getRing s n := by
  rw [arbitrate_eq, getRing_updRings_of_not_mem _ fun hn => h ((mem_passedOver s b).1 hn).1,
    getRing_updRings_of_not_mem _ fun hn => h (ready_of_served s b hn), roundMoved, getRing_congr (putPort_rings ..)]

theorem getPort_arbitrate (c : Bool) :
    getPort (arbitrate s b) c = if c = b then { getPort s b with rr := nextService s b } else getPort s c := by
  have h : getPort (arbitrate s b) c = getPort (roundMoved s b) c := by rw [ringWork_arbitrate.1]; rfl
  rw [h, roundMoved, getPort_putPort]

theorem arbitrate_frame :
    arbitrate s b = { s with rings := (arbitrate s b).rings, portA := (arbitrate s b).portA, portB := (arbitrate s b).portB
                             mem := (arbitrate s b).mem } := by
  have h := (ringWork_arbitrate (s := s) (b := b)).1
  conv_lhs => rw [h]
  have hA : (arbitrate s b).portA = (roundMoved s b).portA := by rw [h]
  have hB : (arbitrate s b).portB = (roundMoved s b).portB := by rw [h]
  rw [hA, hB]
  cases b <;> rfl

theorem arbitrate_mem {a : Nat} (h : shadowed s a = false) : (arbitrate s b).mem.get a = s.mem.get a := by
  rw [(ringWork_arbitrate (s := s) (b := b)).2 a (by rw [← h, roundMoved]; simp only [shadowed, putPort_rings]), roundMoved, putPort_mem]

end Round

/-! ### One ring -/

/-- A ring put in its place is another with its shadow, nothing else (R368). -/
theorem onlyRing_putRing (s : State) (n : Nat) (r : Ring) : onlyRing s (putRing s n r) n := by
  refine ⟨rfl, fun m hm => by rw [getRing_putRing, if_neg hm], fun a ha => ?_, ?_⟩
  · exact Memory.get_write_outside _ _ _ _ (by rw [length_shadowBytes]; exact ha)
  · rw [getRing_putRing, if_pos rfl]
    have h := Memory.read_write s.mem (dualBase + 16 * n) (shadowBytes s r)
    rwa [length_shadowBytes] at h

theorem getRing_putRing_same (s : State) (n : Nat) (r : Ring) : getRing (putRing s n r) n = r := by
  rw [getRing_putRing, if_pos rfl]

theorem onlyRing.after {s t u : State} {n : Nat} (h : onlyRing s t n) (k : onlyRing t u n) : onlyRing s u n := by
  obtain ⟨ht, hrings, hmem, -⟩ := h
  obtain ⟨hu, krings, kmem, kshadow⟩ := k
  refine ⟨by rw [hu, ht], fun m hm => (krings m hm).trans (hrings m hm), fun a ha => (kmem a ha).trans (hmem a ha), kshadow⟩

/-! ### COMMAND_CONSUME (R373, R374, R538) -/

theorem ofNat_toNat_ring (n : RingNum) : BitVec.ofNat 14 n.toNat = n := BitVec.eq_of_toNat_eq (by simp)

section Consume

variable (s : State) (n : RingNum) (e : BitVec 512)

/-- Whether an entry of a ring may be consumed, and the command that it is. -/
def mayConsume : Prop :=
  serves s (getRing s n.toNat) = true ∧ (getRing s n.toNat).kind = 0 ∧ (getRing s n.toNat).fill ≠ 0 ∧ (getRing s n.toNat).grant ≠ 0
    ∧ slotFree s (getRing s n.toNat) = true
    ∧ ((getFn s (getRing s n.toNat).fn).det = true → bits 7 0 e.toNat = 0x18 ∨ bits 7 0 e.toNat = 0x19)
def entryCmd : Cmd :=
  { fn := BitVec.ofNat 6 (getRing s n.toNat).fn, ring := n, idx := (getRing s n.toNat).dev, tag := bits 31 16 e.toNat
    opc := bits 7 0 e.toNat, nocq := bit 9 e.toNat, fence := bit 8 e.toNat }

/-- The state with a BATCH entry noted at its job. -/
def batchTaken : State :=
  if bits 7 0 e.toNat = 0x01 ∧ (getFn s (getRing s n.toNat).fn).pv = true then
    modJob s (getFn s (getRing s n.toNat).fn).part fun j =>
      { j with taken := j.batchesTaken s ++ [(entryCmd s n e, bits 223 160 e.toNat)] }
  else s

/-- A ring with a command in progress. -/
def Ring.taking (r : Ring) (c : Cmd) : Ring :=
  { r with dev := (r.dev + 1) % 2 ^ 32, slots := r.slots + 1, prog := r.prog ++ [c], grant := r.grant - 1, batchAt := none }

/-- The state with an entry in progress. -/
def entryTaken : State := putRing (batchTaken s n e) n.toNat ((getRing s n.toNat).taking (entryCmd s n e))

theorem bit_of_bits (i : Nat) (hi : i < 8) (x : Nat) : bit i (bits 15 8 x) = bit (8 + i) x := by
  rw [bit, bit, bits, ← Nat.testBit_eq_decide_div_mod_eq, ← Nat.testBit_eq_decide_div_mod_eq, Nat.testBit_mod_two_pow,
    Nat.testBit_div_two_pow, decide_eq_true hi, Bool.true_and, Nat.add_comm]

variable {s n e}

theorem consume_of_not_may (h : ¬ mayConsume s n e) : consume s n.toNat e = s := by
  refine if_pos ?_
  by_contra hc
  simp only [Bool.or_eq_true, not_or, Bool.not_eq_true, Bool.not_eq_false', bne_eq_false_iff_eq,
    Bool.and_eq_false_iff, beq_iff_eq] at hc
  obtain ⟨⟨⟨⟨⟨hserves, hkind⟩, hfill⟩, hgrant⟩, hslot⟩, hdet⟩ := hc
  refine h ⟨hserves, hkind, hfill, hgrant, hslot, fun hd => ?_⟩
  rw [hd] at hdet
  exact hdet.resolve_left (by decide)

theorem consume_of_may (h : mayConsume s n e) :
    consume s n.toNat e = if bits 7 0 e.toNat = 0x01 ∧ (getFn s (getRing s n.toNat).fn).pv = true
        ∧ batchWaits s (getFn s (getRing s n.toNat).fn).part (bits 223 160 e.toNat) = true then
      putRing s n.toNat { getRing s n.toNat with batchAt := some (bits 223 160 e.toNat), grant := 0 }
    else if knownOpc (bits 7 0 e.toNat) then entryTaken s n e
    else rejectCmd (entryTaken s n e) (entryCmd s n e) evProgError stInvalid [n.toNat, bits 7 0 e.toNat] := by
  obtain ⟨hserves, hkind, hfill, hgrant, hslot, hdet⟩ := h
  have hcmd : entryCmd s n e = { fn := BitVec.ofNat 6 (getRing s n.toNat).fn, ring := BitVec.ofNat 14 n.toNat, idx := (getRing s n.toNat).dev
                                 tag := bits 31 16 e.toNat, opc := bits 7 0 e.toNat, nocq := bit 1 (bits 15 8 e.toNat)
                                 fence := bit 0 (bits 15 8 e.toNat) } := by
    rw [bit_of_bits 1 (by decide), bit_of_bits 0 (by decide), ofNat_toNat_ring]
    rfl
  unfold entryTaken batchTaken
  rw [hcmd]
  refine if_neg ?_
  simp only [hserves, hkind, hslot, Bool.or_eq_true, not_or, Bool.not_true, Bool.and_eq_true]
  refine ⟨⟨⟨⟨⟨by decide, by decide⟩, by simpa using hfill⟩, by simpa using hgrant⟩, by decide⟩, ?_⟩
  rintro ⟨hd, hbad⟩
  rcases hdet hd with ho | ho <;> simp [ho] at hbad

/-! The job of a BATCH that is taken. -/

theorem batchTaken_frame : batchTaken s n e = { s with jobs := (batchTaken s n e).jobs } := by
  unfold batchTaken
  split
  · unfold modJob
    split <;> rfl
  · rfl

theorem getJob_batchTaken_other {q : Part}
    (h : q ≠ (getFn s (getRing s n.toNat).fn).part ∨ bits 7 0 e.toNat ≠ 0x01 ∨ (getFn s (getRing s n.toNat).fn).pv = false) :
    getJob (batchTaken s n e) q = getJob s q := by
  unfold batchTaken
  split
  · next hb =>
    rw [getJob_modJob, if_neg]
    rcases h with h | h | h
    · exact h
    · exact absurd hb.1 h
    · rw [h] at hb; exact absurd hb.2 (by decide)
  · rfl

theorem getJob_batchTaken_same {j : Job} (hopc : bits 7 0 e.toNat = 0x01) (hpv : (getFn s (getRing s n.toNat).fn).pv = true)
    (hj : getJob s (getFn s (getRing s n.toNat).fn).part = some j) :
    getJob (batchTaken s n e) (getFn s (getRing s n.toNat).fn).part
      = some { j with taken := j.batchesTaken s ++ [(entryCmd s n e, bits 223 160 e.toNat)] } := by
  rw [batchTaken, if_pos ⟨hopc, hpv⟩, getJob_modJob, if_pos rfl, hj]
  rfl

theorem onlyRing_entryTaken : onlyRing { s with jobs := (entryTaken s n e).jobs } (entryTaken s n e) n.toNat := by
  have h := onlyRing_putRing (batchTaken s n e) n.toNat ((getRing s n.toNat).taking (entryCmd s n e))
  have hj : (entryTaken s n e).jobs = (batchTaken s n e).jobs := rfl
  rw [hj, ← batchTaken_frame]
  exact h

theorem fns_entryTaken : (entryTaken s n e).fns = s.fns := (congrArg State.fns (batchTaken_frame (s := s) (n := n) (e := e)) :)
theorem chans_entryTaken : (entryTaken s n e).chans = s.chans := (congrArg State.chans (batchTaken_frame (s := s) (n := n) (e := e)) :)

/-- An entry whose opcode names no command is no BATCH. -/
theorem batchTaken_of_unknown (h : knownOpc (bits 7 0 e.toNat) = false) : batchTaken s n e = s := by
  refine if_neg ?_
  rintro ⟨hopc, -⟩
  rw [hopc] at h
  exact absurd h (by decide)

/-- The state behind an entry whose opcode names no command (R373). -/
def entryRejected (s : State) (n : RingNum) (e : BitVec 512) : State :=
  rejectCmd (entryTaken s n e) (entryCmd s n e) evProgError stInvalid [n.toNat, bits 7 0 e.toNat]

theorem rejected_effect (h : mayConsume s n e) (hk : knownOpc (bits 7 0 e.toNat) = false)
    (hlink : (getRing s n.toNat).link ≠ n.toNat) (hs : keysRise s.rings) :
    commandFrame { s with rings := (entryRejected s n e).rings } (entryRejected s n e)
      ∧ (getRing (entryRejected s n e) n.toNat).dev = ((getRing s n.toNat).dev + 1) % 2 ^ 32
      ∧ raises s (entryRejected s n e) evProgError [n.toNat, bits 7 0 e.toNat] := by
  obtain ⟨-, hkind, -⟩ := h
  have hput : entryTaken s n e = putRing s n.toNat ((getRing s n.toNat).taking (entryCmd s n e)) := by
    rw [entryTaken, batchTaken_of_unknown hk]
  have hring : getRing (entryTaken s n e) n.toNat = (getRing s n.toNat).taking (entryCmd s n e) := getRing_putRing_same ..
  have hwork : commandWork s (entryTaken s n e) := hput ▸ commandWork_putRing ..
  have hkeys : keysRise (entryTaken s n e).rings := hput ▸ keysRise_tabSet hs _ _
  have hlog : (entryTaken s n e).evLog = s.evLog := by rw [hput, putRing_evLog]
  refine ⟨(hwork.trans (commandWork_rejectCmd ..)).frame, ?_, ?_⟩
  · refine (dev_rejectCmd hkeys (n := n.toNat) rfl (by rw [hring]; exact hkind) (by rw [hring]; exact hlink) ..).trans ?_
    rw [hring]
    rfl
  · rw [raises, ← hlog]
    exact raises_rejectCmd ..

end Consume

/-! ### INTERRUPT_RAISE (R381) -/

/-- The rings that report by the vector of a ring. -/
def vectorRings (s : State) (r : Ring) : List Nat :=
  (s.rings.filter fun kr => kr.2.fn == r.fn && kr.2.vec == r.vec && (kr.2.kind == 1 || kr.2.kind == 2)).map (·.1)

/-- A ring whose entries are reported. -/
def Ring.reported (r : Ring) : Ring := { r with unrep := 0 }

theorem reported_reported (r : Ring) : r.reported.reported = r.reported := rfl

/-- The state with the vector of a ring raised. -/
def vectorRaised (s : State) (r : Ring) : State := { s with irqs := (r.fn, r.vec) :: s.irqs }

theorem interruptRaise_due {s : State} {n : Nat} (h : interruptDue s (getRing s n) = true)
    (hold : (getPort s (portOf (getRing s n).fn)).hold = false) :
    interruptRaise s n = updRings Ring.reported (vectorRings s (getRing s n)) (vectorRaised s (getRing s n)) := by
  unfold interruptRaise updRings vectorRings
  rw [List.foldl_map]
  refine if_pos ?_
  rw [h, hold]
  rfl

theorem interruptRaise_undue {s : State} {n : Nat}
    (h : ¬ (interruptDue s (getRing s n) = true ∧ (getPort s (portOf (getRing s n).fn)).hold = false)) : interruptRaise s n = s := by
  refine if_neg fun hc => h ?_
  simpa using hc

theorem mem_vectorRings {s : State} (hs : keysRise s.rings) {r q : Ring} {m : Nat} (hm : (m, q) ∈ s.rings) :
    m ∈ vectorRings s r ↔ q.fn = r.fn ∧ q.vec = r.vec ∧ (q.kind = 1 ∨ q.kind = 2) := by
  have hcond : ∀ x : Ring, (x.fn == r.fn && x.vec == r.vec && (x.kind == 1 || x.kind == 2)) = true
      ↔ x.fn = r.fn ∧ x.vec = r.vec ∧ (x.kind = 1 ∨ x.kind = 2) := fun x => by simp [and_assoc]
  rw [← hcond q]
  constructor
  · intro h
    obtain ⟨⟨m', q'⟩, hk, rfl⟩ := List.mem_map.1 h
    obtain ⟨hmem, hc⟩ := List.mem_filter.1 hk
    rwa [← getRing_of_mem hs hm, getRing_of_mem hs hmem]
  · exact fun h => List.mem_map.2 ⟨(m, q), List.mem_filter.2 ⟨hm, h⟩, rfl⟩

theorem getRing_vectorReported {s : State} (hs : keysRise s.rings) {r q : Ring} {m : Nat} (hm : (m, q) ∈ s.rings) :
    getRing (updRings Ring.reported (vectorRings s r) (vectorRaised s r)) m
      = if q.fn = r.fn ∧ q.vec = r.vec ∧ (q.kind = 1 ∨ q.kind = 2) then { q with unrep := 0 } else q := by
  have hq : getRing (vectorRaised s r) m = q := getRing_of_mem hs hm
  split
  · next h =>
    rw [getRing_updRings_of_idem reported_reported ((mem_vectorRings hs hm).2 h), hq]
    rfl
  · next h => rw [getRing_updRings_of_not_mem _ (mt (mem_vectorRings hs hm).1 h), hq]

/-! ### RING_ENABLE and RING_DISABLE (R365, R366, R504) -/

section Ctl

variable (s : State) (n : Nat)

/-- What a ring is says only whether it still holds a channel itself. -/
theorem chanBound_putRing (r : Ring) (c : Nat) :
    chanBound (putRing s n r) c = chanBound s c
      ∨ ∃ m : RingNum, m.toNat = n ∧ (chanBound (putRing s n r) c = none ∨ chanBound (putRing s n r) c = some m)
        ∧ (chanBound s c = none ∨ chanBound s c = some m) := by
  have hchan : getChan (putRing s n r) c = getChan s c := getChan_congr rfl c
  unfold chanBound
  rw [hchan]
  cases (getChan s c).bound with
  | none => exact .inl rfl
  | some m =>
    by_cases hm : m.toNat = n
    · have hmay : ∀ b : Bool, (if b then some m else none) = none ∨ (if b then some m else none) = some m :=
        fun b => by cases b <;> simp
      exact .inr ⟨m, hm, hmay _, hmay _⟩
    · refine .inl ?_
      simp only [getRing_putRing, if_neg hm]

/-- The rules of a ring's fields (R365) do not hang on what the ring itself is. -/
theorem ringOk_putRing (r a : Ring) : ringOk (putRing s n r) n a = ringOk s n a := by
  have hchan : getChan (putRing s n r) a.link = getChan s a.link := getChan_congr rfl _
  have hfn : getFn (putRing s n r) a.fn = getFn s a.fn := rfl
  have hcq : ∀ f : Ring → Bool, (f (getRing (putRing s n r) a.link) && a.link != n) = (f (getRing s a.link) && a.link != n) := by
    intro f
    by_cases h : a.link = n
    · simp [h]
    · rw [getRing_putRing, if_neg h]
  have h0 := hcq fun q => q.enable && q.kind == 1 && q.fn == a.fn
  unfold ringOk
  simp only [hchan, hfn, h0]
  rcases chanBound_putRing s n r a.link with h | ⟨m, hm, h | h, k | k⟩
  · rw [h]
  all_goals simp only [h, k, hm, beq_self_eq_true]

/-- A ring with the fields that a write of +0x10 names. -/
def Ring.withClass (r : Ring) (x : Nat) : Ring := { r with cls := bits 33 32 x, cur := if r.promoted then r.cur else bits 33 32 x }
def Ring.offered (r : Ring) (x : Nat) : Ring := { (r.withClass x).withCtl x with enHeld := false }

/-- A ring that is enabled. -/
def Ring.enabled (a : Ring) : Ring :=
  { a with enable := true, host := 0, dev := 0, age := 0, cur := a.cls, promoted := false, err := false, slots := 0
           old := a.old ++ a.prog, prog := [], unrep := 0, drop := 0, dropNew := 0, grant := 0, batchAt := none }

/-- The state with a ring enabled, its channel bound. -/
def ringEnabled (a : Ring) : State :=
  if a.kind = 3 then putChan (putRing s n a.enabled) a.link { getChan s a.link with bound := some (BitVec.ofNat 14 n) }
  else putRing s n a.enabled

theorem getChan_ringEnabled {s : State} {n : RingNum} {a : Ring} (h : a.kind = 3) :
    (getChan (ringEnabled s n.toNat a) a.link).bound = some n := by
  rw [ringEnabled, if_pos h, getChan_putChan, if_pos rfl]
  exact congrArg some (ofNat_toNat_ring n)

theorem chans_ringEnabled {s : State} {n : Nat} {a : Ring} (h : a.kind ≠ 3) : (ringEnabled s n a).chans = s.chans := by
  rw [ringEnabled, if_neg h]
  rfl

/-- Nothing but one ring is another, and it is `y`. -/
def ringBecomes (s t : State) (n : Nat) (y : Ring) : Prop := onlyRing s t n ∧ t.fns = s.fns ∧ getRing t n = y

theorem ringBecomes_putRing (y : Ring) : ringBecomes s (putRing s n y) n y :=
  ⟨onlyRing_putRing .., rfl, getRing_putRing_same ..⟩

theorem ringBecomes.after {s t u : State} {n : Nat} {y z : Ring} (h : ringBecomes s t n y) (k : ringBecomes t u n z) :
    ringBecomes s u n z := by
  obtain ⟨ht, htf, -⟩ := h
  obtain ⟨hu, huf, hz⟩ := k
  exact ⟨ht.after hu, huf.trans htf, hz⟩

theorem ringBecomes_ringEnabled (a : Ring) : ringBecomes s (ringEnabled s n a) n a.enabled := by
  unfold ringEnabled
  split
  · obtain ⟨⟨-, hrings, hmem, hshadow⟩, hfns, hring⟩ := ringBecomes_putRing s n a.enabled
    exact ⟨⟨rfl, hrings, hmem, hshadow⟩, hfns, hring⟩
  · exact ringBecomes_putRing ..

/-- What enabling a disabled ring does (R366). -/
theorem enableRing_eq {s : State} {n : Nat} (h : (getRing s n).enable = false) :
    enableRing s n = if ringOk s n { getRing s n with enHeld := false } then ringEnabled s n { getRing s n with enHeld := false }
      else raiseF (putRing s n { getRing s n with enHeld := false }) evRngSetup 0 (getRing s n).fn
        (some (getFn s (getRing s n).fn).part) [n] := by
  unfold enableRing
  dsimp only
  rw [if_neg (by rw [h]; decide)]
  cases ringOk s n { getRing s n with enHeld := false } <;> rfl

/-- The state behind a write of +0x10, beside what a change of a locked field raises. -/
def ctlWritten (x : Nat) : State :=
  let r := getRing s n
  if bit 63 x then
    if r.enable then putRing s n (r.withClass x)
    else
      let t := putRing s n ((r.withClass x).withCtl x)
      if t.pwr.mst = .boot then putRing t n { (r.withClass x).withCtl x with enHeld := true } else enableRing t n
  else if r.enable then putRing s n { r.withClass x with enable := false, grant := 0 }
  else putRing s n (r.offered x)

theorem rngCtl_eq (w : Who) (x : Nat) :
    rngCtl s w n x = withAuth s (if bits 45 40 x = (getRing s n).fn then ringRight s w (getRing s n) else fnRight s w (bits 45 40 x))
      w (rngOff n + 0x10) fun s =>
        ctlWritten (if (getRing s n).enable && ctlChanges (getRing s n) x then progError s w (rngOff n + 0x10) else s) n x := rfl

section Written

variable {s n} {x : Nat}

theorem ctlWritten_on (hx : bit 63 x = true) (h : (getRing s n).enable = true) :
    ctlWritten s n x = putRing s n ((getRing s n).withClass x) := by
  simp [ctlWritten, hx, h]

theorem ctlWritten_boot (hx : bit 63 x = true) (h : (getRing s n).enable = false) (hboot : s.pwr.mst = .boot) :
    ringBecomes s (ctlWritten s n x) n { ((getRing s n).withClass x).withCtl x with enHeld := true } := by
  have heq : ctlWritten s n x = putRing (putRing s n (((getRing s n).withClass x).withCtl x)) n
      { ((getRing s n).withClass x).withCtl x with enHeld := true } := by simp [ctlWritten, hx, h, hboot]
  rw [heq]
  exact (ringBecomes_putRing ..).after (ringBecomes_putRing ..)

/-- A ring that is enabled while the module runs goes by the rules of its fields. -/
theorem ctlWritten_enable (hx : bit 63 x = true) (h : (getRing s n).enable = false) (hboot : s.pwr.mst ≠ .boot) :
    ∃ t, ringBecomes s t n (((getRing s n).withClass x).withCtl x) ∧ t.chans = s.chans
      ∧ ctlWritten s n x = if ringOk s n ((getRing s n).offered x) then ringEnabled t n ((getRing s n).offered x)
        else raiseF (putRing t n ((getRing s n).offered x)) evRngSetup 0 ((getRing s n).offered x).fn
          (some (getFn t ((getRing s n).offered x).fn).part) [n] := by
  refine ⟨putRing s n (((getRing s n).withClass x).withCtl x), ringBecomes_putRing .., rfl, ?_⟩
  have heq : ctlWritten s n x = enableRing (putRing s n (((getRing s n).withClass x).withCtl x)) n := by
    simp [ctlWritten, hx, h, hboot]
  rw [heq, enableRing_eq (by rw [getRing_putRing_same]; exact h), getRing_putRing_same, ringOk_putRing]
  rfl

theorem ctlWritten_off (hx : bit 63 x = false) (h : (getRing s n).enable = true) :
    ctlWritten s n x = putRing s n { (getRing s n).withClass x with enable := false, grant := 0 } := by
  simp [ctlWritten, hx, h]

theorem ctlWritten_disabled (hx : bit 63 x = false) (h : (getRing s n).enable = false) :
    ctlWritten s n x = putRing s n ((getRing s n).offered x) := by
  simp [ctlWritten, hx, h]

end Written

/-- A ring whose locked fields a write would change: it keeps them, and the write is reported (R504). -/
def ctlLocked (t : State) (off : Nat) (y : Ring) : Prop :=
  raises s t evProgError [off] ∧ (getRing t n).enable = y.enable ∧ (getRing t n).cls = y.cls
    ∧ (getRing t n).fn = (getRing s n).fn ∧ (getRing t n).kind = (getRing s n).kind ∧ (getRing t n).size = (getRing s n).size
    ∧ (getRing t n).link = (getRing s n).link

/-- The ring behind the error of a locked field stands as before, but for what events change. -/
theorem getRing_progError (w : Who) (off : Nat) :
    ∃ d : Ring, getRing (progError s w off) n = { getRing s n with
      dev := d.dev, drop := d.drop, dropNew := d.dropNew, unrep := d.unrep, unrepAt := d.unrepAt } := by
  obtain ⟨⟨-, -, hring, -, -⟩, -⟩ := progError_effect s w off
  exact ⟨_, hring n⟩

theorem ctlLocked_on {x : Nat} (w : Who) (off : Nat) (hx : bit 63 x = true) (h : (getRing s n).enable = true) :
    ctlLocked s n (ctlWritten (progError s w off) n x) off ((getRing s n).withClass x) := by
  obtain ⟨d, hd⟩ := getRing_progError s n w off
  obtain ⟨l, hl⟩ := (progError_effect s w off).2
  rw [ctlWritten_on hx (by rw [hd]; exact h)]
  unfold ctlLocked
  rw [getRing_putRing_same, hd]
  exact ⟨⟨l, hl⟩, rfl, rfl, rfl, rfl, rfl, rfl⟩

theorem ctlLocked_off {x : Nat} (w : Who) (off : Nat) (hx : bit 63 x = false) (h : (getRing s n).enable = true) :
    ctlLocked s n (ctlWritten (progError s w off) n x) off { (getRing s n).withClass x with enable := false } := by
  obtain ⟨d, hd⟩ := getRing_progError s n w off
  obtain ⟨l, hl⟩ := (progError_effect s w off).2
  rw [ctlWritten_off hx (by rw [hd]; exact h)]
  unfold ctlLocked
  rw [getRing_putRing_same, hd]
  exact ⟨⟨l, hl⟩, rfl, rfl, rfl, rfl, rfl, rfl⟩

/-- A write that sets ENABLE, by right. -/
theorem ringEnable_effect (w : Who) {n : RingNum} {x : Nat} (hx : bit 63 x = true) :
    let t := ctlWritten (if (getRing s n.toNat).enable && ctlChanges (getRing s n.toNat) x
      then progError s w (rngOff n.toNat + 0x10) else s) n.toNat x
    let r := getRing s n.toNat
    let a := r.offered x
    (r.enable = true → ctlChanges r x = false → ringBecomes s t n.toNat (r.withClass x))
    ∧ (r.enable = true → ctlChanges r x = true → ctlLocked s n.toNat t (rngOff n.toNat + 0x10) (r.withClass x))
    ∧ (r.enable = false → s.pwr.mst = .boot → ringBecomes s t n.toNat { (r.withClass x).withCtl x with enHeld := true })
    ∧ (r.enable = false → s.pwr.mst ≠ .boot → ringOk s n.toNat a = true → ringBecomes s t n.toNat a.enabled
      ∧ (a.kind = 3 → (getChan t a.link).bound = some n) ∧ (a.kind ≠ 3 → t.chans = s.chans))
    ∧ (r.enable = false → s.pwr.mst ≠ .boot → ringOk s n.toNat a = false →
      (getRing t n.toNat).enable = false ∧ raises s t evRngSetup [n.toNat]) := by
  intro t r a
  refine ⟨fun hen hch => ?_, fun hen hch => ?_, fun hen hboot => ?_, fun hen hboot hok => ?_, fun hen hboot hok => ?_⟩
  · have ht : t = ctlWritten s n.toNat x := by simp only [t]; rw [hch, Bool.and_false]; rfl
    rw [ht, ctlWritten_on hx hen]
    exact ringBecomes_putRing ..
  · have ht : t = ctlWritten (progError s w (rngOff n.toNat + 0x10)) n.toNat x := by simp only [t]; rw [hch, hen]; rfl
    rw [ht]
    exact ctlLocked_on s n.toNat w _ hx hen
  all_goals have ht : t = ctlWritten s n.toNat x := by simp only [t]; rw [hen, Bool.false_and]; rfl
  · rw [ht]
    exact ctlWritten_boot hx hen hboot
  · obtain ⟨u, hu, hchans, heq⟩ := ctlWritten_enable (n := n.toNat) hx hen hboot
    rw [ht, heq, if_pos hok]
    exact ⟨hu.after (ringBecomes_ringEnabled ..), getChan_ringEnabled, fun h => (chans_ringEnabled h).trans hchans⟩
  · obtain ⟨u, ⟨hu, -⟩, -, heq⟩ := ctlWritten_enable (n := n.toNat) hx hen hboot
    rw [ht, heq, if_neg (by rw [hok]; decide)]
    obtain ⟨-, -, hring, -, -⟩ := eventFrame_raiseE (putRing u n.toNat a) _
    refine ⟨?_, ?_⟩
    · rw [raiseF, hring, getRing_putRing_same]
      exact hen
    · have hlog : u.evLog = s.evLog := by rw [hu.1]
      rw [raises, ← hlog]
      exact raises_raiseE (putRing u n.toNat a) _

/-- A write that clears ENABLE, by right. -/
theorem ringDisable_effect (w : Who) {n x : Nat} (hx : bit 63 x = false) :
    let t := ctlWritten (if (getRing s n).enable && ctlChanges (getRing s n) x then progError s w (rngOff n + 0x10) else s) n x
    let r := getRing s n
    (r.enable = true → ctlChanges r x = false → ringBecomes s t n { r.withClass x with enable := false, grant := 0 })
    ∧ (r.enable = true → ctlChanges r x = true → ctlLocked s n t (rngOff n + 0x10) { r.withClass x with enable := false })
    ∧ (r.enable = false → ringBecomes s t n (r.offered x)) := by
  intro t r
  refine ⟨fun hen hch => ?_, fun hen hch => ?_, fun hen => ?_⟩
  · have ht : t = ctlWritten s n x := by simp only [t]; rw [hch, Bool.and_false]; rfl
    rw [ht, ctlWritten_off hx hen]
    exact ringBecomes_putRing ..
  · have ht : t = ctlWritten (progError s w (rngOff n + 0x10)) n x := by simp only [t]; rw [hch, hen]; rfl
    rw [ht]
    exact ctlLocked_off s n w _ hx hen
  · have ht : t = ctlWritten s n x := by simp only [t]; rw [hen, Bool.false_and]; rfl
    rw [ht, ctlWritten_disabled hx hen]
    exact ringBecomes_putRing ..

end Ctl

/-! ### The statement -/

/-- Settles O48: a round by the rings that it serves and passes over, consumption, interrupts and ENABLE by their cases. -/
theorem rings : Obligations.Rings := by
  unfold Obligations.Rings
  refine ⟨fun s b hs => ?_, fun s n e => ?_, fun s n => ?_, fun s w n v => ?_⟩
  · refine ⟨_, rfl, arbitrate_frame, (getPort_arbitrate _).trans (if_neg (by cases b <;> decide)), ?_, fun a ha => arbitrate_mem ha,
      fun n => ⟨fun hn => ?_, fun hready hn hcur hlimit => ?_, fun hready hn hkeep => ?_, getRing_arbitrate_other⟩⟩
    · rw [getPort_arbitrate, if_pos rfl]
    · exact getRing_arbitrate_served ((mem_servedRings s b).2 hn)
    all_goals
      have hout : n ∉ servedRings s b := fun h => by
        obtain ⟨c, hc, hp⟩ := (mem_servedRings s b).1 h
        exact hn c hc hp
      refine (getRing_arbitrate_passed hs hready hout).trans ?_
    · exact if_pos ⟨hcur, hlimit⟩
    · exact if_neg (by omega)
  · refine ⟨fun h => congrArg _ (consume_of_not_may h), fun h hw => ?_, fun h hw hk => ?_, fun h hw hk hlink hs => ?_⟩
    · have heq := (consume_of_may h).trans (if_pos hw)
      refine ⟨_, congrArg Host.Outcome.next heq, onlyRing_putRing .., rfl, rfl, getRing_putRing_same ..⟩
    · have heq := (consume_of_may h).trans ((if_neg hw).trans (if_pos hk))
      exact ⟨_, congrArg Host.Outcome.next heq, onlyRing_entryTaken, fns_entryTaken, chans_entryTaken,
        fun q hq => getJob_batchTaken_other hq, fun j hopc hpv hj => getJob_batchTaken_same hopc hpv hj, getRing_putRing_same ..⟩
    · have heq := (consume_of_may h).trans ((if_neg hw).trans (if_neg (by rw [hk]; decide)))
      obtain ⟨hframe, hdev, hraises⟩ := rejected_effect h hk hlink hs
      exact ⟨_, congrArg Host.Outcome.next heq, hframe, hdev, hraises⟩
  · refine ⟨fun ⟨hdue, hold⟩ hs => ?_, fun h => ?_⟩
    · have heq := interruptRaise_due hdue hold
      have hwork := ringWork_updRings (ringWork_refl _) Ring.reported (l := vectorRings s (getRing s n.toNat))
        (s := vectorRaised s (getRing s n.toNat)) fun m hm => by
          obtain ⟨kr, hk, rfl⟩ := List.mem_map.1 hm
          exact List.mem_map_of_mem (List.mem_of_mem_filter hk)
      exact ⟨_, congrArg Host.Outcome.next heq, hwork.1, hwork.2, fun m q hm => getRing_vectorReported hs hm⟩
    · exact congrArg Host.Outcome.next (interruptRaise_undue h)
  · refine ⟨fun hx => ?_, fun hx => ?_, fun hx => ?_, fun hx => ?_⟩
    · exact congrArg Host.Outcome.next (if_neg (by rw [hx]; decide))
    · exact congrArg Host.Outcome.next (if_pos hx)
    · refine byRight_of_withAuth (congrArg Host.Outcome.next ((if_pos hx).trans (rngCtl_eq ..))) fun _ _ => ?_
      exact ringEnable_effect s w hx
    · refine byRight_of_withAuth (congrArg Host.Outcome.next ((if_neg (by rw [hx]; decide)).trans (rngCtl_eq ..))) fun _ _ => ?_
      exact ringDisable_effect s w hx

end Sys2Proof.Machine
end

section
/-! PROOFS. What the work of one job's plan leaves: charges, checked accesses, events, reports and messages
(R130, R131, R233, R237, R238, R280, R340 to R350). -/

namespace Sys2Proof.Machine

/-! ### Around one job -/

/-- The state without what the work of a plan writes beside its tables: the jobs, device memory with its errors, counts and
history, the regulators' tokens, the fabric, and what events write. -/
def planless (s : State) : State :=
  { eventless s with
    jobs := [], poison := [], spdErr := [], parked := [], isl := {}, pwr := {}, alm := {}, hist := [], bucket := [], fabr := {}, free := 0 }

/-- Nothing but the job of a partition and what the work of its plan writes is another. -/
structure aroundJob (p : Part) (s t : State) : Prop where
  rest : planless t = planless s
  log : ∃ l, t.evLog = l ++ s.evLog
  others : ∀ q, q ≠ p → getJob t q = getJob s q

/-- A job without its reports, its streams as they are. -/
def Job.bare (j : Job) : Job := { j with rep := {}, repNext := {} }

/-- The same where the job of the partition differs in its reports alone. -/
structure planWork (p : Part) (s t : State) : Prop extends aroundJob p s t where
  own : (getJob t p).map Job.bare = (getJob s p).map Job.bare

namespace aroundJob

variable {p : Part} {s t u : State}

theorem refl (s : State) : aroundJob p s s := ⟨rfl, ⟨[], rfl⟩, fun _ _ => rfl⟩

theorem trans (h : aroundJob p s t) (k : aroundJob p t u) : aroundJob p s u := by
  obtain ⟨l, hl⟩ := h.log
  obtain ⟨m, hm⟩ := k.log
  exact ⟨k.rest.trans h.rest, ⟨m ++ l, by rw [hm, hl, List.append_assoc]⟩, fun q hq => (k.others q hq).trans (h.others q hq)⟩

theorem tables (h : aroundJob p s t) : t.tables = s.tables := (congrArg State.tables h.rest :)
theorem arr (h : aroundJob p s t) : t.arr = s.arr := (congrArg State.arr h.rest :)
theorem vec (h : aroundJob p s t) : t.vec = s.vec := (congrArg State.vec h.rest :)

theorem getTbl (h : aroundJob p s t) (q : Part) (tid : Nat) : getTbl t q tid = getTbl s q tid := getTbl_congr h.tables q tid

theorem frame (h : aroundJob p s t) : planFrame s t p :=
  ⟨h.arr, h.vec, (congrArg State.tim h.rest :), (congrArg State.sec h.rest :), (congrArg State.chans h.rest :),
    (congrArg State.flash h.rest :), (congrArg State.wins h.rest :), (congrArg State.pctl h.rest :),
    (congrArg State.pending h.rest :), h.others⟩

/-- What is raised on the way stays in the log. -/
theorem raises_after (h : aroundJob p t u) {code : Nat} {detail : List Nat} (hr : raises s t code detail) : raises s u code detail := by
  obtain ⟨l, hl, e, he, hcode⟩ := hr
  obtain ⟨m, hm⟩ := h.log
  exact ⟨m ++ l, by rw [hm, hl, List.append_assoc], e, List.mem_append_right m he, hcode⟩

theorem raises_before (h : aroundJob p s t) {code : Nat} {detail : List Nat} (hr : raises t u code detail) : raises s u code detail := by
  obtain ⟨l, hl, e, he, hcode⟩ := hr
  obtain ⟨m, hm⟩ := h.log
  exact ⟨l ++ m, by rw [hl, hm, List.append_assoc], e, List.mem_append_left m he, hcode⟩

end aroundJob

theorem aroundJob_modJob (s : State) (p : Part) (f : Job → Job) : aroundJob p s (modJob s p f) := by
  refine ⟨?_, ⟨[], modJob_evLog ..⟩, fun q hq => by rw [getJob_modJob, if_neg hq]⟩
  unfold modJob
  split <;> rfl

namespace planWork

variable {p : Part} {s t u : State}

theorem refl (s : State) : planWork p s s := ⟨.refl s, rfl⟩

theorem trans (h : planWork p s t) (k : planWork p t u) : planWork p s u :=
  ⟨h.toaroundJob.trans k.toaroundJob, k.own.trans h.own⟩

/-- Work that leaves the jobs alone. -/
theorem of_jobs (hrest : planless t = planless s) (hlog : ∃ l, t.evLog = l ++ s.evLog) (hjobs : t.jobs = s.jobs) : planWork p s t :=
  ⟨⟨hrest, hlog, fun q _ => getJob_congr hjobs q⟩, by rw [getJob_congr hjobs]⟩

/-- Work that raises nothing either. -/
theorem of_rest (hrest : planless t = planless s) (hlog : t.evLog = s.evLog) (hjobs : t.jobs = s.jobs) : planWork p s t :=
  .of_jobs hrest ⟨[], hlog⟩ hjobs

theorem of_counted (h : counted s t) : planWork p s t := by
  unfold counted at h
  rw [h]
  exact .of_rest rfl rfl rfl

/-- Work done step by step, whatever the steps carry along. -/
theorem foldl_of {α γ : Type} (st : γ → State) (f : γ → α → γ) (hf : ∀ c a, planWork p (st c) (st (f c a))) (l : List α) (c : γ) :
    planWork p (st c) (st (l.foldl f c)) := by
  induction l generalizing c with
  | nil => exact .refl _
  | cons a l ih => exact (hf c a).trans (ih _)

theorem foldl {α : Type} {f : State → α → State} (hf : ∀ s a, planWork p s (f s a)) (l : List α) (s : State) :
    planWork p s (l.foldl f s) := foldl_of id f hf l s

/-- The job behind the work is the job before it, beside its reports. -/
theorem job (h : planWork p s t) {j : Job} (hj : getJob s p = some j) : ∃ k, getJob t p = some k ∧ k.bare = j.bare := by
  have hown := h.own
  rw [hj] at hown
  obtain ⟨k, hk, he⟩ := Option.map_eq_some_iff.1 hown
  exact ⟨k, hk, he⟩

end planWork

section Work

variable (s : State) (p : Part)

/-! ### Events, reports, charges -/

theorem planWork_raiseE (e : Event) : planWork p s (raiseE s e) :=
  .of_jobs (congrArg planless (eventFrame_raiseE s e).eventless_eq :) ⟨[e], raiseE_evLog ..⟩ (raiseE_jobs ..)

theorem planWork_raise (code : Nat) (detail : List Nat) : planWork p s (raise s p code detail) := planWork_raiseE ..
theorem planWork_raiseM (code : Nat) (detail : List Nat) : planWork p s (raiseM s code detail) := planWork_raiseE ..

theorem planWork_modJob {f : Job → Job} (hf : ∀ j, (f j).bare = j.bare) : planWork p s (modJob s p f) := by
  refine ⟨aroundJob_modJob s p f, ?_⟩
  rw [getJob_modJob, if_pos rfl, Option.map_map]
  exact congrArg (fun g => Option.map g (getJob s p)) (funext hf)

theorem planWork_report (b : W32) : planWork p s (report s p b) := planWork_modJob s p fun j => by split <;> rfl

theorem planWork_reportGrid (k : Nat) (nf sat : Bool) (emax : Int) : planWork p s (reportGrid s p k nf sat emax) :=
  planWork_modJob s p fun j => by split <;> rfl

theorem planWork_history (k a b : Nat) : planWork p s (history s k a b) := .of_rest rfl rfl rfl

theorem planWork_count (blk c n q : Nat) (a : EvAt) : planWork p s (count s blk c n q a) := .of_counted (counted_count ..)
theorem planWork_tally (blk : Nat) (c : Counts) : planWork p s (tally s blk c) := .of_counted (counted_tally ..)
theorem planWork_tblCount (q : Part) (t i n : Nat) : planWork p s (tblCount s q t i n) := .of_counted (counted_tblCount ..)

theorem planWork_charge (q : Part) (b n blk : Nat) : planWork p s (charge s q b n blk) := by
  unfold charge
  extract_lets k old t per
  have ht : planWork p s t := .of_rest rfl rfl rfl
  split
  · exact ht
  · exact ht.trans (planWork_count ..)

theorem planWork_setDom (d : Nat) (v : DomState) : planWork p s (setDom s d v) := by
  unfold setDom
  dsimp only
  split <;> exact .of_rest rfl rfl rfl

theorem planWork_meetFlash (a n : Nat) : planWork p s (meetFlash s a n) := by
  refine .foldl (fun t u => ?_) _ _
  refine .trans ?_ ((planWork_raiseM ..).trans (planWork_history ..))
  split
  · exact .refl _
  · exact planWork_count ..

theorem planWork_meetError (e : Nat × Bool) : planWork p s (meetError s e) := by
  unfold meetError
  extract_lets t a u
  have ht : planWork p s t := .of_rest rfl rfl rfl
  have hmet : ∀ c n k b : Nat, planWork p s (history (raiseM (count t 31 c n 1 { addr := some a }) k [a]) b a 0) := fun c n k b =>
    ht.trans ((planWork_count ..).trans ((planWork_raiseM ..).trans (planWork_history ..)))
  split
  · exact hmet ..
  · exact (hmet 3 2 evSpdEccUncorr 6).trans (.of_rest rfl rfl rfl)

theorem planWork_spdAccess (a n : Nat) (write : Bool) : planWork p s (spdAccess s a n write) := by
  unfold spdAccess
  split
  · exact .refl s
  · refine .trans ?_ (.foldl (fun t g => ?_) _ _)
    · split
      · exact .refl s
      · exact .foldl (fun t e => planWork_meetError t p e) _ _
    · split
      · exact (planWork_setDom ..).trans (planWork_count ..)
      · split
        · exact .refl t
        · exact planWork_raiseM ..
      · exact .refl t

theorem planWork_chargeMem (q : Part) (a n blk : Nat) (write : Bool) : planWork p s (chargeMem s q a n blk write) := by
  unfold chargeMem
  refine .trans (.of_counted (counted_countMem s q a n blk write)) ?_
  have hwin : ∀ (t u : State) (c m : Nat), planWork p t u → planWork p t (winAdd u c m) := fun t u c m h =>
    h.trans (.of_counted (counted_winAdd ..))
  split
  · exact planWork_spdAccess ..
  · exact hwin _ _ _ _ (planWork_charge ..)
  · exact hwin _ _ _ _ (planWork_charge ..)
  · split
    · exact .refl _
    · exact hwin _ _ _ _ ((planWork_meetFlash ..).trans (planWork_charge ..))
  · exact .refl _

/-! ### Writes and checked accesses -/

theorem planWork_mem (m : Memory) : planWork p s { s with mem := m } := .of_rest rfl rfl rfl

theorem planWork_wrNow (a : Nat) (bs : List Byte) : planWork p s (wrNow s a bs) := by
  unfold wrNow
  split
  · exact (planWork_mem ..).trans (planWork_raiseM ..)
  · exact .of_rest rfl rfl rfl

theorem planWork_wr (a : Nat) (bs : List Byte) : planWork p s (wr s a bs) := by
  unfold wr
  split
  · exact .of_rest rfl rfl rfl
  · exact planWork_wrNow ..

theorem planWork_cksumFault (inPlan : Bool) (src : W32) (blk b : Nat) : planWork p s (cksumFault s p inPlan src blk b) := by
  unfold cksumFault
  extract_lets at' t
  have ht : planWork p s t := (planWork_count ..).trans ((planWork_raise ..).trans (planWork_history ..))
  split
  · exact ht.trans (planWork_report ..)
  · exact ht

theorem planWork_rdChecked (inPlan : Bool) (src : W32) (blk a n : Nat) : planWork p s (rdChecked s p inPlan src blk a n).2.1 := by
  unfold rdChecked
  dsimp only
  split
  · exact .refl s
  · exact .foldl (fun t b => planWork_cksumFault t p inPlan src blk b) _ _

theorem planWork_wrBlock (inPlan : Bool) (src : W32) (blk b a : Nat) (bs : List Byte) :
    planWork p s (wrBlock s p inPlan src blk b a bs).1 := by
  unfold wrBlock
  extract_lets lo hi part whole ok s1 s2 s3
  have h1 : planWork p s s1 := by
    simp only [s1]
    split
    · exact .refl s
    · exact planWork_count ..
  have h2 : planWork p s1 s2 := by
    simp only [s2]
    split
    · exact .refl s1
    · exact planWork_cksumFault ..
  have h3 : planWork p s s3 := h1.trans (h2.trans (planWork_wrNow ..))
  split
  · exact h3.trans (planWork_wrNow ..)
  · exact h3

theorem planWork_wrChecked (inPlan : Bool) (src : W32) (blk a : Nat) (bs : List Byte) :
    planWork p s (wrChecked s p inPlan src blk a bs).1 := by
  unfold wrChecked
  split
  · exact planWork_wr ..
  · refine .foldl_of (fun acc : State × Option Nat => acc.1) _ (fun acc b => ?_) _ (s, none)
    exact planWork_wrBlock ..

end Work

/-! ### Messages -/

/-- The keys of the rings and memory outside their shadows stay. -/
structure shadowsKept (s t : State) : Prop where
  keys : ∀ n ∈ t.rings.map Prod.fst, n ∈ s.rings.map Prod.fst
  mem : ∀ a, shadowed s a = false → t.mem.get a = s.mem.get a

namespace shadowsKept

variable {s t u : State}

theorem refl (s : State) : shadowsKept s s := ⟨fun _ h => h, fun _ _ => rfl⟩

theorem trans (h : shadowsKept s t) (k : shadowsKept t u) : shadowsKept s u :=
  ⟨fun n hn => h.keys n (k.keys n hn), fun a ha => by rw [k.mem a (shadowed_of_keys h.keys ha), h.mem a ha]⟩

theorem of_eq (hr : t.rings = s.rings) (hm : t.mem = s.mem) : shadowsKept s t := ⟨by rw [hr]; exact fun _ h => h, by rw [hm]; exact fun _ _ => rfl⟩

theorem foldl {α : Type} {f : State → α → State} (hf : ∀ s a, shadowsKept s (f s a)) (l : List α) (s : State) :
    shadowsKept s (l.foldl f s) := by
  induction l generalizing s with
  | nil => exact .refl s
  | cons a l ih => exact (hf s a).trans (ih _)

end shadowsKept

theorem mem_keys_ringWrite {s : State} {n m : Nat} {bs : List Byte} :
    m ∈ (ringWrite s n bs).rings.map Prod.fst ↔ m = n ∨ m ∈ s.rings.map Prod.fst := by
  rw [ringWrite, mem_keys_putRing, hostWrite_rings]

theorem mem_keys_evPut {s : State} {n m : Nat} {e : Event} (h : m ∈ (evPut s n e).rings.map Prod.fst) :
    m = n ∨ m ∈ s.rings.map Prod.fst := by
  unfold evPut at h
  extract_lets r o s1 r1 at h
  split at h
  · exact mem_keys_putRing.1 h
  · split at h
    · exact mem_keys_ringWrite.1 h
    · have h1 : m ∈ s1.rings.map Prod.fst → m = n ∨ m ∈ s.rings.map Prod.fst := fun h =>
        (mem_keys_ringWrite.1 h).elim .inl fun h => mem_keys_putRing.1 h
      split at h
      · exact (mem_keys_putRing.1 h).elim .inl h1
      · exact (mem_keys_ringWrite.1 h).elim .inl h1

/-- An event adds no ring. -/
theorem mem_keys_raiseE {s : State} {e : Event} {n : Nat} (h : n ∈ (raiseE s e).rings.map Prod.fst) : n ∈ s.rings.map Prod.fst := by
  unfold raiseE at h
  extract_lets s1 s2 wanted s3 at h
  have h2 : s2.rings = s.rings := (evKeep_rings ..).trans (evKeep_rings ..)
  have hfold : ∀ (l : List (Nat × Ring)) (t : State), (∀ kr ∈ l, kr.1 ∈ s.rings.map Prod.fst) →
      n ∈ (l.foldl (fun s kr => evPut s kr.1 e) t).rings.map Prod.fst → n ∈ s.rings.map Prod.fst ∨ n ∈ t.rings.map Prod.fst := fun l => by
    induction l with
    | nil => exact fun _ _ h => .inr h
    | cons kr l ih =>
      intro t hl h
      rcases ih _ (fun x hx => hl x (List.mem_cons_of_mem _ hx)) h with h | h
      · exact .inl h
      · exact (mem_keys_evPut h).imp_left fun he => by rw [he]; exact hl kr List.mem_cons_self
  have hwanted : ∀ kr ∈ wanted, kr.1 ∈ s.rings.map Prod.fst := fun kr hk =>
    h2 ▸ List.mem_map_of_mem (List.mem_of_mem_filter hk)
  have h3 : n ∈ s3.rings.map Prod.fst → n ∈ s.rings.map Prod.fst := fun h => by
    rcases hfold wanted s2 hwanted h with h | h
    · exact h
    · exact h2 ▸ h
  split at h <;> exact h3 h

theorem shadowsKept_raiseE (s : State) (e : Event) : shadowsKept s (raiseE s e) := by
  obtain ⟨-, hmem, -⟩ := eventFrame_raiseE s e
  exact ⟨fun _ => mem_keys_raiseE, hmem⟩

/-- The state without what sending a message writes. -/
def sendless (s : State) : State := { eventless s with fabr := {}, isl := {}, free := 0 }

/-- What sending messages leaves. -/
structure sendWork (s t : State) : Prop where
  rest : sendless t = sendless s
  log : ∃ l, t.evLog = l ++ s.evLog
  shadows : shadowsKept s t

namespace sendWork

variable {s t u : State}

theorem refl (s : State) : sendWork s s := ⟨rfl, ⟨[], rfl⟩, .refl s⟩

theorem trans (h : sendWork s t) (k : sendWork t u) : sendWork s u := by
  obtain ⟨l, hl⟩ := h.log
  obtain ⟨m, hm⟩ := k.log
  exact ⟨k.rest.trans h.rest, ⟨m ++ l, by rw [hm, hl, List.append_assoc]⟩, h.shadows.trans k.shadows⟩

/-- Work on the fabric, the counters and the free values. -/
theorem of_fabr {f : Fab} {i : Island} {n : Nat} : sendWork s { s with fabr := f, isl := i, free := n } := ⟨rfl, ⟨[], rfl⟩, .of_eq rfl rfl⟩

theorem foldl {α : Type} {f : State → α → State} (hf : ∀ s a, sendWork s (f s a)) (l : List α) (s : State) :
    sendWork s (l.foldl f s) := by
  induction l generalizing s with
  | nil => exact .refl s
  | cons a l ih => exact (hf s a).trans (ih _)

theorem jobs (h : sendWork s t) : t.jobs = s.jobs := (congrArg State.jobs h.rest :)
theorem tables (h : sendWork s t) : t.tables = s.tables := (congrArg State.tables h.rest :)
theorem arr (h : sendWork s t) : t.arr = s.arr := (congrArg State.arr h.rest :)
theorem vec (h : sendWork s t) : t.vec = s.vec := (congrArg State.vec h.rest :)

theorem planWork (h : sendWork s t) (p : Part) : planWork p s t := .of_jobs (congrArg planless h.rest :) h.log h.jobs

end sendWork

theorem sendWork_raiseE (s : State) (e : Event) : sendWork s (raiseE s e) :=
  ⟨(congrArg sendless (eventFrame_raiseE s e).eventless_eq :), ⟨[e], raiseE_evLog ..⟩, shadowsKept_raiseE s e⟩

theorem sendWork_takeDir {s t : State} {dir k : Nat} {dst : NodeAddr} {vc : VC} (h : takeDir s dir dst vc = some (k, t)) : sendWork s t := by
  unfold takeDir at h
  split at h
  · cases h
    exact .of_fabr
  · obtain ⟨_, -, hx⟩ := Option.map_eq_some_iff.1 h
    cases hx
    exact .refl s

theorem sendWork_takeDetour {s t : State} {dir k : Nat} {dst : NodeAddr} {vc : VC} (h : takeDetour s dir dst vc = some (k, t)) :
    sendWork s t := by
  obtain ⟨e, -, he⟩ := List.exists_of_findSome?_eq_some h
  exact sendWork_takeDir he

theorem sendWork_route {s t : State} {m : LinkMsg} {f : Option Nat} {k : Nat} {det : Bool} (h : route s m f = some (k, det, t)) :
    sendWork s t := by
  unfold route at h
  extract_lets me vc samePod along dims n g at h
  have halong : ∀ (u : State) (dir : Nat), along u dir = some (k, det, t) → sendWork u t := by
    intro u dir h
    simp only [along] at h
    split at h
    · next r hr => cases h; exact sendWork_takeDir (k := r.1) hr
    · obtain ⟨x, hx, he⟩ := Option.map_eq_some_iff.1 h
      cases he
      exact sendWork_takeDetour (k := x.1) hx
  split at h
  · split at h
    · cases h
    · exact halong s _ h
  · split at h
    · cases h
      exact .of_fabr
    · split at h
      · cases h
      · obtain ⟨dir, -, hdir⟩ := Option.bind_eq_some_iff.1 h
        exact .trans .of_fabr (halong _ dir hdir)

theorem sendWork_forward (s : State) (m : LinkMsg) (f : Option Nat) : sendWork s (forward s m f) := by
  unfold forward
  split
  · next k det u hr =>
    refine (sendWork_route hr).trans ?_
    dsimp only
    split <;> exact .of_fabr
  · exact .trans .of_fabr (sendWork_raiseE ..)

theorem sendWork_sendTo (s : State) (p : Part) (l mtype : Nat) (body : List Byte) : sendWork s (sendTo s p l mtype body) := by
  unfold sendTo sendNode
  split
  · exact .refl s
  · exact sendWork_forward ..

theorem sendWork_sendRound (s : State) (p : Part) (dst g round n left : Nat) (body : List Byte) :
    sendWork s (sendRound s p dst g round n left body) := by
  unfold sendRound
  split
  · exact .refl s
  · exact sendWork_sendTo ..

end Sys2Proof.Machine
end

section
/-! PROOFS. What the row engines do of a lookup group: tensors read and written, pooling, partials, sums (R156, R157, R165 to R168). -/

namespace Sys2Proof.Machine

/-! ### The run of a group -/

/-- The run of one group has changed by `f`; the other runs and the streams stand. -/
structure runChanged (j k : Job) (g : Nat) (f : LkpRun → LkpRun) : Prop where
  streams : ∀ v, k.stream v = j.stream v
  run : runOf k g = f (runOf j g)
  others : ∀ h, h ≠ g → runOf k h = runOf j h

namespace runChanged

variable {j k l : Job} {g : Nat} {f e : LkpRun → LkpRun}

theorem trans (h : runChanged j k g f) (i : runChanged k l g e) : runChanged j l g (e ∘ f) :=
  ⟨fun v => (i.streams v).trans (h.streams v), i.run.trans (congrArg e h.run), fun q hq => (i.others q hq).trans (h.others q hq)⟩

theorem congr (h : runChanged j k g f) (he : f (runOf j g) = e (runOf j g)) : runChanged j k g e := ⟨h.streams, h.run.trans he, h.others⟩

/-- A change of reports alone. -/
theorem of_bare (h : k.bare = j.bare) : runChanged j k g id := by
  have hruns : k.runs = j.runs := (congrArg Job.runs h :)
  have hrun : ∀ h, runOf k h = runOf j h := fun h => by simp only [runOf, hruns]
  refine ⟨fun v => ?_, hrun g, fun h _ => hrun h⟩
  cases v
  · exact (congrArg Job.seqS h :)
  · exact (congrArg Job.arrS h :)
  · exact (congrArg Job.vecS h :)

end runChanged

theorem find?_map_run {F : LkpRun → LkpRun} {h : Nat} (hF : ∀ r, (F r).group = r.group) (l : List LkpRun) :
    (l.map F).find? (fun r => r.group == h) = (l.find? fun r => r.group == h).map F := by
  rw [List.find?_map]
  exact congrArg (fun q => Option.map F (l.find? q)) (funext fun r => by simp [hF])

/-- A run that is changed is found changed, the others as they were. -/
theorem runOf_modRun (j : Job) (g h : Nat) {f : LkpRun → LkpRun} (hf : ∀ r, (f r).group = r.group) :
    runOf (modRun j g f) h = if h = g then f (runOf j g) else runOf j h := by
  unfold modRun
  split
  · next hany =>
    have hF : ∀ r : LkpRun, (if r.group == g then f r else r).group = r.group := fun r => by split <;> simp [hf]
    simp only [runOf, find?_map_run hF]
    cases hfind : j.runs.find? (fun r => r.group == h) with
    | some r =>
      have hr : r.group = h := by simpa using List.find?_some hfind
      by_cases e : h = g
      · subst e; simp [hfind, hr]
      · simp [hr, e]
    | none =>
      have hne : h ≠ g := by
        rintro rfl
        obtain ⟨r, hr, hg⟩ := List.any_eq_true.1 hany
        exact List.find?_eq_none.1 hfind r hr hg
      simp [hne]
  · next hany =>
    have hnone : j.runs.find? (fun r => r.group == g) = none :=
      List.find?_eq_none.2 fun r hr hg => hany (List.any_eq_true.2 ⟨r, hr, hg⟩)
    by_cases e : h = g
    · subst e
      simp [runOf, List.find?_append, hnone, hf]
    · have hlast : [f { group := g }].find? (fun r => r.group == h) = none := by simp [hf, Ne.symm e]
      simp [runOf, List.find?_append, hlast, e]

theorem stream_modRun (j : Job) (g : Nat) (f : LkpRun → LkpRun) (v : SUnit) : (modRun j g f).stream v = j.stream v := by
  unfold modRun
  split <;> cases v <;> rfl

theorem runChanged_modRun (j : Job) (g : Nat) {f : LkpRun → LkpRun} (hf : ∀ r, (f r).group = r.group) :
    runChanged j (modRun j g f) g f :=
  ⟨stream_modRun j g f, by rw [runOf_modRun j g g hf, if_pos rfl], fun h hh => by rw [runOf_modRun j g h hf, if_neg hh]⟩

/-! ### Steps of the work on a run -/

/-- Work of a plan in which the run of a group changes by `f`. -/
structure runStep (p : Part) (g : Nat) (f : LkpRun → LkpRun) (s t : State) : Prop extends aroundJob p s t where
  own : ∀ j, getJob s p = some j → ∃ k, getJob t p = some k ∧ runChanged j k g f

namespace runStep

variable {p : Part} {g : Nat} {f e : LkpRun → LkpRun} {s t u : State}

theorem trans (h : runStep p g f s t) (i : runStep p g e t u) : runStep p g (e ∘ f) s u := by
  refine ⟨h.toaroundJob.trans i.toaroundJob, fun j hj => ?_⟩
  obtain ⟨k, hk, hf⟩ := h.own j hj
  obtain ⟨l, hl, he⟩ := i.own k hk
  exact ⟨l, hl, hf.trans he⟩

theorem of_planWork (h : planWork p s t) : runStep p g id s t :=
  ⟨h.toaroundJob, fun _ hj => (h.job hj).imp fun _ hk => ⟨hk.1, .of_bare hk.2⟩⟩

end runStep

theorem getJob_modRunS {s : State} {p : Part} {j : Job} (hj : getJob s p = some j) (g : Nat) (f : LkpRun → LkpRun) :
    getJob (modRunS s p g f) p = some (modRun j g f) := by
  rw [modRunS, getJob_modJob, if_pos rfl, hj]
  rfl

theorem runStep_modRunS (s : State) (p : Part) (g : Nat) {f : LkpRun → LkpRun} (hf : ∀ r, (f r).group = r.group) :
    runStep p g f s (modRunS s p g f) :=
  ⟨aroundJob_modJob .., fun _ hj => ⟨_, getJob_modRunS hj g f, runChanged_modRun _ g hf⟩⟩

/-! ### Tensors -/

section Work

variable (s : State) (p : Part)

theorem planWork_readRow (blk : Nat) (e : TEntry) (i n : Nat) : planWork p s (readRow s p blk e i n) :=
  (planWork_chargeMem ..).trans (planWork_rdChecked ..)

theorem planWork_writeRow (blk a : Nat) (b : List Byte) : planWork p s (writeRow s p blk a b) :=
  (planWork_chargeMem ..).trans (planWork_wrChecked ..)

theorem planWork_outRow (k : Lk) (e : TEntry) (blk i : Nat) (xs : List Res) : planWork p s (outRow s p k e blk i xs) := by
  unfold outRow
  dsimp only
  split
  · refine .foldl (fun t b => ?_) _ _
    exact (planWork_writeRow ..).trans ((planWork_writeRow ..).trans (planWork_tally ..))
  · exact (planWork_writeRow ..).trans (planWork_tally ..)

/-! ### Pooling (R156, R157) -/

theorem planWork_readBags (j : Job) (k : Lk) : planWork p s (readBags s j k) := by
  unfold readBags
  split
  · exact .refl s
  · dsimp only
    split
    · exact (planWork_spdAccess ..).trans (planWork_spdAccess ..)
    · exact planWork_spdAccess ..

theorem planWork_poolFeature (j : Job) (pays : List (Nat × Nat × List Byte)) (k : Lk) : planWork p s (poolFeature s p j pays k) := by
  unfold poolFeature
  split
  · exact .refl s
  · refine (planWork_readBags s p j k).trans ?_
    refine .foldl_of (fun acc : State × Nat => acc.1) _ (fun acc x => ?_) _ (_, 0)
    extract_lets blk bag miss s1 s2 os
    have h1 : planWork p acc.1 s1 := by
      simp only [s1]
      split
      · exact .refl _
      · exact planWork_tblCount ..
    refine h1.trans ?_
    show planWork p s1 (if k.pool = 3 then _ else _)
    split
    · exact .foldl (fun t y => planWork_outRow t p k _ blk _ _) _ _
    · exact (planWork_outRow ..).trans (planWork_tally ..)

/-! ### Partials and sums (R165 to R168) -/

theorem planWork_partialOf (j : Job) (tid row : Nat) (xs : List RowPos) : planWork p s (partialOf s p j tid row xs).2 := by
  unfold partialOf
  split
  · exact .refl s
  · extract_lets blk s1 k o
    have h1 : planWork p s s1 := .foldl (fun t x => planWork_readRow t p blk _ _ _) _ _
    refine h1.trans ?_
    split
    · exact (planWork_tally ..).trans (planWork_reportGrid ..)
    · dsimp only
      split
      · exact (planWork_tally ..).trans (planWork_report ..)
      · exact planWork_tally ..

theorem planWork_partialsFor (j : Job) (pos : List (Nat × List (Nat × RowPos))) (ents : List SplitEnt) :
    planWork p s (partialsFor s p j pos ents).2.2 := by
  refine .foldl_of (fun acc : List Byte × Nat × State => acc.2.2) _ (fun acc e => ?_) ents ([], 0, s)
  exact planWork_partialOf ..

theorem planWork_ownerSum (j : Job) (tid row : Nat) (r : LkpRun) : planWork p s (ownerSum s p j tid row r).2 := by
  unfold ownerSum
  split
  · exact .refl s
  · dsimp only
    split
    · dsimp only
      split
      · exact (planWork_tally ..).trans ((planWork_reportGrid ..).trans (planWork_report ..))
      · exact (planWork_tally ..).trans (planWork_reportGrid ..)
    · dsimp only
      split
      · exact (planWork_tally ..).trans (planWork_report ..)
      · exact planWork_tally ..

end Work

/-! ### The engines of a group -/

/-- Where every payload has come to a group that fetches, it is pooled (R156). -/
def LkpRun.pooling (r : LkpRun) : LkpRun := { r with pooled := r.pooled || (r.started.contains 1 && paysIn r) }

theorem runStep_poolGroup (s : State) (p : Part) (g : Nat) : runStep p g LkpRun.pooling s (poolGroup s p g) := by
  unfold poolGroup
  split
  · next hj => exact ⟨.refl s, fun j h => by rw [hj] at h; cases h⟩
  · next j hj =>
    extract_lets r pays s1
    split
    · next hc =>
      have h1 : planWork p s s1 := .foldl (fun t k => planWork_poolFeature t p j pays k) _ _
      have h := (runStep.of_planWork (g := g) h1).trans (runStep_modRunS s1 p g (f := fun r => { r with pooled := true }) fun _ => rfl)
      refine ⟨h.toaroundJob, fun i hi => ?_⟩
      obtain ⟨k, hk, hrun⟩ := h.own i hi
      obtain rfl := Option.some.inj (hj.symm.trans hi)
      refine ⟨k, hk, hrun.congr ?_⟩
      simp only [Bool.and_eq_true] at hc
      obtain ⟨⟨hstarted, -⟩, hpays⟩ := hc
      simp only [Function.comp, id, LkpRun.pooling]
      rw [show (runOf j g).started.contains 1 = true from hstarted, show paysIn (runOf j g) = true from hpays]
      simp
    · next hc =>
      refine ⟨.refl s, fun i hi => ⟨i, hi, ?_⟩⟩
      obtain rfl := Option.some.inj (hj.symm.trans hi)
      refine (runChanged.of_bare rfl).congr ?_
      have hsame : (r.pooled || (r.started.contains 1 && paysIn r)) = r.pooled := by
        revert hc
        cases r.pooled <;> cases r.started.contains 1 <;> cases paysIn r <;> decide
      show r = { r with pooled := r.pooled || (r.started.contains 1 && paysIn r) }
      rw [hsame]

/-- A group's run with gradients that have come. -/
def LkpRun.graded (l : List BodyMsg) (r : LkpRun) : LkpRun := { r with gradIn := r.gradIn ++ l }

theorem runStep_sendPartials (s : State) (p : Part) (g dst round : Nat) :
    ∃ l, runStep p g (LkpRun.graded l) s (sendPartials s p g dst round) := by
  unfold sendPartials
  split
  · next hj => exact ⟨[], .refl s, fun j h => by rw [hj] at h; cases h⟩
  · next j hj =>
    extract_lets pos ents ev o body
    have ho : runStep p g id s o.2.2 := .of_planWork (planWork_partialsFor ..)
    split
    · exact ⟨_, ho.trans (runStep_modRunS _ p g (f := LkpRun.graded [_]) fun _ => rfl)⟩
    · have hsend := ho.trans (.of_planWork ((sendWork_sendRound o.2.2 p dst g round o.2.1 0 body).planWork p))
      refine ⟨[], hsend.toaroundJob, fun i hi => ?_⟩
      obtain ⟨k, hk, hrun⟩ := hsend.own i hi
      exact ⟨k, hk, hrun.congr (by simp [LkpRun.graded])⟩

theorem graded_graded (l m : List BodyMsg) : LkpRun.graded m ∘ LkpRun.graded l = LkpRun.graded (l ++ m) := by
  funext r
  simp [LkpRun.graded]

theorem runStep_foldl_graded {α : Type} {p : Part} {g : Nat} {f : State → α → State}
    (hf : ∀ s a, ∃ l, runStep p g (LkpRun.graded l) s (f s a)) (l : List α) (s : State) :
    ∃ m, runStep p g (LkpRun.graded m) s (l.foldl f s) := by
  induction l generalizing s with
  | nil =>
    have h : runStep p g id s s := .of_planWork (.refl s)
    exact ⟨[], h.toaroundJob, fun j hj => (h.own j hj).imp fun k hk => ⟨hk.1, hk.2.congr (by simp [LkpRun.graded])⟩⟩
  | cons a l ih =>
    obtain ⟨m, hm⟩ := hf s a
    obtain ⟨n, hn⟩ := ih (f s a)
    exact ⟨m ++ n, graded_graded m n ▸ hm.trans hn⟩

/-- Whether the sums of a group are due: phase 3 has started, and every partial has come (R167). -/
def sumsDue (s : State) (p : Part) (j : Job) (g : Nat) : Bool :=
  (runOf j g).started.contains 3 && !(runOf j g).done.contains 3 && gradsIn (runOf j g) && squallIn s p j g

/-- A run with its sums, and what is done and due with them. -/
def LkpRun.summed (o : List ((Nat × Nat) × List W32)) (d : List Nat) (td : List (Nat × Nat)) (r : LkpRun) : LkpRun :=
  { r with grads := o, done := d, todo := td }

/-- The sums of a group's rows, and the state behind their reports. -/
def rowSums (s : State) (p : Part) (j : Job) (r : LkpRun) : List ((Nat × Nat) × List W32) × State :=
  (ownerRows s p j.plan r).foldl (fun acc e => (acc.1 ++ [(e, (ownerSum acc.2 p j e.1 e.2 r).1)], (ownerSum acc.2 p j e.1 e.2 r).2)) ([], s)

theorem planWork_rowSums (s : State) (p : Part) (j : Job) (r : LkpRun) : planWork p s (rowSums s p j r).2 := by
  refine .foldl_of (fun acc : List ((Nat × Nat) × List W32) × State => acc.2) _ (fun acc e => ?_) _ ([], s)
  exact planWork_ownerSum ..

/-- A run whose sums have been formed; their updates are due where phase 4 has been issued already (R162). -/
def LkpRun.summing (o : List ((Nat × Nat) × List W32)) (r : LkpRun) : LkpRun :=
  { r with grads := o, done := r.done ++ [3], todo := if r.started.contains 4 then o.map (·.1) else r.todo }

theorem sumGroup_eq {s : State} {p : Part} {j : Job} (hj : getJob s p = some j) (g : Nat) :
    sumGroup s p g = if sumsDue s p j g then
      modRunS (rowSums s p j (runOf j g)).2 p g (LkpRun.summing (rowSums s p j (runOf j g)).1) else s := by
  simp only [sumGroup, hj]
  rfl

/-- Sums change gradients, what is done and what is due, and nothing else of the run. -/
theorem runStep_sumGroup {s : State} {p : Part} {j : Job} (hj : getJob s p = some j) (g : Nat) :
    ∃ o d td, runStep p g (LkpRun.summed o d td) s (sumGroup s p g) ∧ (sumsDue s p j g = true → 3 ∈ d)
      ∧ ∀ n ∈ (runOf j g).done, n ∈ d := by
  have hsame : ∀ {t : State} {f : LkpRun → LkpRun}, runStep p g f s t →
      ∀ o d td, f (runOf j g) = (runOf j g).summed o d td → runStep p g (LkpRun.summed o d td) s t := by
    intro t f h o d td he
    refine ⟨h.toaroundJob, fun i hi => ?_⟩
    obtain ⟨k, hk, hrun⟩ := h.own i hi
    obtain rfl := Option.some.inj (hj.symm.trans hi)
    exact ⟨k, hk, hrun.congr he⟩
  rw [sumGroup_eq hj]
  split
  · have hsum := (runStep.of_planWork (g := g) (planWork_rowSums s p j (runOf j g))).trans
      (runStep_modRunS _ p g (f := LkpRun.summing (rowSums s p j (runOf j g)).1) fun _ => rfl)
    exact ⟨_, (runOf j g).done ++ [3], _, hsame hsum _ _ _ rfl, fun _ => by simp, fun n hn => by simp [hn]⟩
  · next hc =>
    exact ⟨_, (runOf j g).done, _, hsame (.of_planWork (.refl s)) (runOf j g).grads _ (runOf j g).todo rfl, fun h => absurd h hc, fun _ h => h⟩

end Sys2Proof.Machine
end

section
/-! PROOFS. The phases of a lookup group (R145, R156, R162, R165, R167, R246). -/

namespace Sys2Proof.Machine

/-! ### LKG issues -/

/-- The state in which the phase of a group starts, and its job. -/
def lkgState (s : State) (p : Part) (g : Group) (ph : Nat) : State :=
  count (atWord s p .seq (.lkg g ph)) blkSeq 0 2 1 (atPart p)

section Issued

variable {s : State} {p : Part} {g : Group} {ph : Nat} {j : Job}

theorem unworked_lkgState : unworked (lkgState s p g ph) = unworked s := unworked_atWord s p .seq (.lkg g ph)

theorem aroundJob_lkgState : aroundJob p s (lkgState s p g ph) := by
  refine ⟨(congrArg planless unworked_lkgState :), ⟨[], (congrArg State.evLog unworked_lkgState :)⟩, fun q hq => ?_⟩
  exact ((restreamed_atWord s p .seq (.lkg g ph)).jobs q).trans (if_neg hq)

theorem lkgState_tables : (lkgState s p g ph).tables = s.tables := (congrArg State.tables (unworked_lkgState (s := s) (p := p) (g := g) (ph := ph)) :)
theorem lkgState_mem : (lkgState s p g ph).mem = s.mem := (congrArg State.mem (unworked_lkgState (s := s) (p := p) (g := g) (ph := ph)) :)

theorem getJob_lkgState (h : issuesNow s p .seq (.lkg g ph) = true) (hj : getJob s p = some j) :
    getJob (lkgState s p g ph) p = some (j.modStream .seq Stream.cleared) := getJob_atWord h hj

theorem shadowsKept_lkgState : shadowsKept s (lkgState s p g ph) :=
  .of_eq (congrArg State.rings (unworked_lkgState (s := s) (p := p) (g := g) (ph := ph)) :) lkgState_mem

/-- A phase that issues runs in `lkgState`, and the sequencer goes on to its next word. -/
theorem pushWord_lkg (h : issuesNow s p .seq (.lkg g ph) = true) (hj : getJob s p = some j) {u : State}
    (hu : startPhase (lkgState s p g ph) p g.toNat ph = u) (hothers : ∀ q, q ≠ p → getJob u q = getJob s q) {k : Job}
    (hk : getJob u p = some k) (hstreams : ∀ v, k.stream v = (j.modStream .seq Stream.cleared).stream v) :
    pushWord s p .seq (.lkg g ph) = modJob u p fun k => k.modStream .seq Stream.passed := by
  have hrun : runWord (atWord s p .seq (.lkg g ph)) p .seq (.lkg g ph) = u := hu
  have hwords := heldWords_of_issuesNow h
  rw [pushWord_runs h rfl, hrun, noted]
  refine noteHold_all _ fun q v i hi => ?_
  by_cases hq : q = p
  · subst hq
    rw [getJob_modJob, if_pos rfl, hk] at hi
    obtain rfl := Option.some.inj hi
    rw [stream_modStream]
    split
    · next e =>
      subst e
      show (k.stream .seq).held = []
      rw [hstreams, stream_modStream, if_pos rfl]
      rfl
    · next hv =>
      rw [hstreams, stream_modStream, if_neg hv]
      exact (heldWords_zero hwords q v j hj).1
  · rw [getJob_modJob, if_neg hq, hothers q hq] at hi
    exact (heldWords_zero hwords q v i hi).1

/-- What an issued phase leaves whose work changes the run of its group by `f`. -/
theorem pushWord_of_runStep (h : issuesNow s p .seq (.lkg g ph) = true) (hj : getJob s p = some j) {f : LkpRun → LkpRun} {u : State}
    (hu : startPhase (lkgState s p g ph) p g.toNat ph = u) (hstep : runStep p g.toNat f (lkgState s p g ph) u) :
    ∃ t k, pushWord s p .seq (.lkg g ph) = t ∧ getJob t p = some k ∧ aroundJob p s t ∧ runOf k g.toNat = f (runOf j g.toNat)
      ∧ (∀ i, i ≠ g.toNat → runOf k i = runOf j i) ∧ (shadowsKept (lkgState s p g ph) u → shadowsKept s t) := by
  have hjob := getJob_lkgState h hj
  obtain ⟨k, hk, hstreams, hrun, hothers⟩ := hstep.own _ hjob
  have haround := (aroundJob_lkgState (s := s) (p := p) (g := g) (ph := ph)).trans hstep.toaroundJob
  refine ⟨_, k.modStream .seq Stream.passed, pushWord_lkg h hj hu haround.others hk hstreams, ?_, haround.trans (aroundJob_modJob ..),
    hrun, hothers, fun hsh => ?_⟩
  · rw [getJob_modJob, if_pos rfl, hk]
    rfl
  · exact shadowsKept_lkgState.trans (hsh.trans (.of_eq (modJob_rings ..) (modJob_mem ..)))

end Issued

/-! ### Phase 0 -/

/-- A run split among its rounds, with the module's own message. -/
def LkpRun.exchanged (split : List SplitEnt) (own : IdxMsg) (r : LkpRun) : LkpRun :=
  { r with split := split, idxIn := r.idxIn ++ [own], started := r.started ++ [0] }

/-- The module's own index message of a split. -/
def ownIndex (pl : Plan) (split : List SplitEnt) : IdxMsg :=
  { src := pl.lidx, round := 0, left := 0, ents := (split.filter fun x => x.dst == pl.lidx).map fun x => (x.tid, x.row) }

theorem sendWork_sendIndex (s : State) (p : Part) (g : Nat) : sendWork s (sendIndex s p g) := by
  unfold sendIndex
  split
  · exact .refl s
  · exact .foldl (fun t d => (sendWork_sendRound ..).trans (sendWork_sendRound ..)) _ _

theorem walkRows_congr {s t : State} (h : t.tables = s.tables) (p : Part) {j k : Job} (hplan : k.plan = j.plan)
    (hsorted : k.sorted = j.sorted) (hstep : k.step = j.step) (g : Nat) : walkRows t p k g = walkRows s p j g := by
  simp only [walkRows, getTbl_congr h, hplan, hsorted, hstep]

theorem lkgIndex_effect {s : State} {p : Part} {j : Job} (hj : getJob s p = some j) (g : Nat) :
    runStep p g (LkpRun.exchanged (splitRows j.plan g (walkRows s p j g)) (ownIndex j.plan (splitRows j.plan g (walkRows s p j g))))
      s (lkgIndex s p g) ∧ shadowsKept s (lkgIndex s p g) := by
  unfold lkgIndex
  split
  · next hnone => rw [hj] at hnone; cases hnone
  next i hi =>
  obtain rfl := Option.some.inj (hj.symm.trans hi)
  extract_lets rows split own s1 s2
  have h1 : counted s s1 := .foldl (fun t x => counted_count ..) _ _
  have hj1 : getJob s1 p = some j := by rw [← hj]; exact getJob_congr (by rw [h1]) p
  have h2 : runStep p g (LkpRun.exchanged split own) s1 s2 := by
    refine ⟨aroundJob_modJob .., fun i hi => ⟨_, by rw [getJob_modJob, if_pos rfl, hi]; rfl, ?_⟩⟩
    obtain ⟨hstreams, hrun, hothers⟩ := runChanged_modRun i g (f := LkpRun.exchanged split own) fun _ => rfl
    exact ⟨fun v => (by cases v <;> rfl : _ = (modRun i g (LkpRun.exchanged split own)).stream v).trans (hstreams v), hrun, hothers⟩
  have h3 := sendWork_sendIndex s2 p g
  have hall := ((runStep.of_planWork (g := g) (.of_counted h1)).trans h2).trans (.of_planWork (h3.planWork p))
  refine ⟨⟨hall.toaroundJob, hall.own⟩, ?_⟩
  have hs1 : shadowsKept s s1 := .of_eq (by rw [h1]) (by rw [h1])
  have hs2 : shadowsKept s1 s2 := .of_eq (modJob_rings ..) (modJob_mem ..)
  exact hs1.trans (hs2.trans h3.shadows)

/-! ### Phases 1 to 3 -/

/-- A run in which a phase has started. -/
def LkpRun.starting (ph : Nat) (r : LkpRun) : LkpRun := { r with started := r.started ++ [ph] }

theorem runStep_starting (s : State) (p : Part) (g ph : Nat) :
    runStep p g (LkpRun.starting ph) s (modRunS s p g (LkpRun.starting ph)) := runStep_modRunS s p g fun _ => rfl

theorem runStep_lkgFetch (s : State) (p : Part) (g : Nat) :
    runStep p g (LkpRun.pooling ∘ LkpRun.starting 1) s (lkgFetch s p g) :=
  (runStep_starting s p g 1).trans (runStep_poolGroup ..)

theorem pooled_pooling_starting (r : LkpRun) : (r.starting 1).pooling.pooled = (r.pooled || paysIn r) := by
  simp [LkpRun.pooling, LkpRun.starting, paysIn]

theorem runStep_lkgPartials {s : State} {p : Part} {j : Job} (hj : getJob s p = some j) (g : Nat) :
    ∃ l, runStep p g (LkpRun.graded l ∘ LkpRun.starting 2) s (lkgPartials s p g) := by
  unfold lkgPartials
  rw [hj]
  dsimp only
  obtain ⟨l, hl⟩ := runStep_sendPartials (modRunS s p g (LkpRun.starting 2)) p g j.plan.lidx 0
  obtain ⟨m, hm⟩ := runStep_foldl_graded (p := p) (g := g) (f := fun s d => sendPartials (sendPartials s p g d 0) p g d 1)
    (fun t d => by
      obtain ⟨a, ha⟩ := runStep_sendPartials t p g d 0
      obtain ⟨b, hb⟩ := runStep_sendPartials (sendPartials t p g d 0) p g d 1
      exact ⟨a ++ b, graded_graded a b ▸ ha.trans hb⟩)
    (groupDsts (sendPartials (modRunS s p g (LkpRun.starting 2)) p g j.plan.lidx 0) p j.plan g)
    (sendPartials (modRunS s p g (LkpRun.starting 2)) p g j.plan.lidx 0)
  exact ⟨l ++ m, graded_graded l m ▸ ((runStep_starting s p g 2).trans hl).trans hm⟩

theorem ownsGroup_congr {s t : State} (h : t.tables = s.tables) (p : Part) (pl : Plan) (g l : Nat) :
    ownsGroup t p pl g l = ownsGroup s p pl g l := by
  simp only [ownsGroup, getTbl_congr h]

theorem squallIn_congr {s t : State} (h : t.tables = s.tables) (p : Part) {j k : Job} (hplan : k.plan = j.plan) {g : Nat}
    (hin : (runOf k g).idxIn = (runOf j g).idxIn) : squallIn t p k g = squallIn s p j g := by
  rw [squallIn, squallIn, groupSrcs, groupSrcs, hplan, hin, ownsGroup_congr h]

theorem runStep_lkgSums {s : State} {p : Part} {j : Job} (hj : getJob s p = some j) (g : Nat) :
    ∃ o d td, runStep p g (LkpRun.summed o d td ∘ LkpRun.starting 3) s (lkgSums s p g)
      ∧ (gradsIn (runOf j g) = true → squallIn s p j g = true → 3 ∈ d) := by
  have hj1 := getJob_modRunS hj g (LkpRun.starting 3)
  have hrun : runOf (modRun j g (LkpRun.starting 3)) g = (runOf j g).starting 3 := (runOf_modRun j g g (f := LkpRun.starting 3) fun _ => rfl).trans (if_pos rfl)
  obtain ⟨o, d, td, hstep, hdue, hdone⟩ := runStep_sumGroup hj1 g
  refine ⟨o, d, td, (runStep_starting s p g 3).trans hstep, fun hgrads hsquall => ?_⟩
  by_cases hd : 3 ∈ (runOf j g).done
  · exact hdone 3 (by rw [hrun]; exact hd)
  · refine hdue ?_
    have hplan : (modRun j g (LkpRun.starting 3)).plan = j.plan := by unfold modRun; split <;> rfl
    have hs : squallIn (modRunS s p g (LkpRun.starting 3)) p (modRun j g (LkpRun.starting 3)) g = true :=
      (squallIn_congr (modJob_tables ..) p hplan (by rw [hrun]; rfl)).trans hsquall
    have hg : gradsIn (runOf (modRun j g (LkpRun.starting 3)) g) = true := by rw [hrun]; exact hgrads
    have hstarted : (runOf (modRun j g (LkpRun.starting 3)) g).started.contains 3 = true := by
      rw [hrun]
      simp [LkpRun.starting]
    have hnot : (runOf (modRun j g (LkpRun.starting 3)) g).done.contains 3 = false := by
      rw [hrun]
      simpa [LkpRun.starting] using hd
    rw [sumsDue, hs, hg, hstarted, hnot]
    rfl

/-! ### Phase 4 -/

theorem pairwise_insertBy {α : Type} {key : α → Nat} {l : List α} (h : l.Pairwise fun a b => key a ≤ key b) (x : α) :
    (insertBy key x l).Pairwise fun a b => key a ≤ key b := by
  induction l with
  | nil => exact List.pairwise_singleton ..
  | cons y l ih =>
    obtain ⟨hy, hl⟩ := List.pairwise_cons.1 h
    rw [insertBy]
    split
    · next hlt =>
      refine List.pairwise_cons.2 ⟨fun z hz => ?_, h⟩
      rcases List.mem_cons.1 hz with rfl | hz
      · exact hlt.le
      · exact hlt.le.trans (hy z hz)
    · next hle =>
      refine List.pairwise_cons.2 ⟨fun z hz => ?_, ih hl⟩
      rcases List.mem_cons.1 ((perm_insertBy key x l).mem_iff.1 hz) with rfl | hz
      · exact Nat.not_lt.1 hle
      · exact hy z hz

theorem pairwise_sortBy {α : Type} (key : α → Nat) (l : List α) : (sortBy key l).Pairwise fun a b => key a ≤ key b :=
  List.foldlRecOn (motive := fun acc : List α => acc.Pairwise fun a b => key a ≤ key b) l _ .nil fun _ h x _ => pairwise_insertBy h x

/-- A strictly ascending list takes a value at its end that none of it exceeds. -/
theorem pairwise_appendOnce {acc : List Nat} (h : acc.Pairwise (· < ·)) {x : Nat} (hx : ∀ a ∈ acc, a ≤ x) :
    (if acc.getLast? == some x then acc else acc ++ [x]).Pairwise (· < ·) := by
  split
  · exact h
  · next hne =>
    refine List.pairwise_append.2 ⟨h, List.pairwise_singleton .., fun a ha b hb => ?_⟩
    obtain rfl := List.mem_singleton.1 hb
    rcases List.eq_nil_or_concat acc with rfl | ⟨init, y, rfl⟩
    · cases ha
    · have hy : y ≠ b := by simpa using hne
      have hyb : y < b := Nat.lt_of_le_of_ne (hx y (by simp)) hy
      rw [List.concat_eq_append] at h ha
      rcases List.mem_append.1 ha with ha | ha
      · exact (((List.pairwise_append.1 h).2.2 a ha y (List.mem_singleton_self y)).trans hyb)
      · rw [List.mem_singleton.1 ha]; exact hyb

theorem pairwise_foldl_appendOnce {l acc : List Nat} (hl : l.Pairwise (· ≤ ·)) (h : acc.Pairwise (· < ·))
    (hx : ∀ a ∈ acc, ∀ x ∈ l, a ≤ x) :
    (l.foldl (fun acc x => if acc.getLast? == some x then acc else acc ++ [x]) acc).Pairwise (· < ·) := by
  induction l generalizing acc with
  | nil => exact h
  | cons x l ih =>
    obtain ⟨hle, hl⟩ := List.pairwise_cons.1 hl
    refine ih hl (pairwise_appendOnce h fun a ha => hx a ha x List.mem_cons_self) fun a ha y hy => ?_
    dsimp only at ha
    split at ha
    · exact hx a ha y (List.mem_cons_of_mem _ hy)
    · rcases List.mem_append.1 ha with ha | ha
      · exact hx a ha y (List.mem_cons_of_mem _ hy)
      · rw [List.mem_singleton.1 ha]; exact hle y hy

/-- A list sorted, each value once, ascends. -/
theorem pairwise_sortedOnce (l : List Nat) : (sortedOnce l).Pairwise (· < ·) :=
  pairwise_foldl_appendOnce (pairwise_sortBy id l) .nil fun _ h => by cases h

theorem nodup_groupTids (pl : Plan) (g : Nat) : (groupTids pl g).Nodup := (pairwise_sortedOnce _).imp Nat.ne_of_lt

theorem getTbl_modTbl (s : State) (p : Part) (tid x : Nat) (f : Table → Table) :
    getTbl (modTbl s p tid f) p x = if x = tid then (getTbl s p tid).map f else getTbl s p x := by
  split
  · next e => rw [e, getTbl_modTbl_same]
  · next e =>
    refine (tableWork_modTbl s p tid f).tables (tkey p x) fun hk => e ?_
    unfold tkey at hk
    omega

/-- A table whose parameters of the step have been formed (R170). -/
def Table.stepped (ls : Int) (t : Table) : Table := { t with par := deviceParams t.par t.desc.dim ls }

/-- The parameters of a group's trained tables formed, one table after another. -/
def formParams (p : Part) (pl : Plan) (g : Nat) (l : List Nat) (s : State) : State :=
  l.foldl (fun s tid => if trainTid pl g tid then modTbl s p tid (Table.stepped (lsOf s p)) else s) s

theorem formParams_frame (p : Part) (pl : Plan) (g : Nat) (l : List Nat) (s : State) :
    formParams p pl g l s = { s with tables := (formParams p pl g l s).tables } := by
  unfold formParams
  induction l generalizing s with
  | nil => rfl
  | cons tid l ih =>
    rw [List.foldl_cons, ih]
    split
    · unfold modTbl
      split <;> rfl
    · rfl

theorem getTbl_formParams_kept {p : Part} {pl : Plan} {g : Nat} {l : List Nat} {tid : Nat}
    (h : tid ∉ l ∨ trainTid pl g tid = false) (s : State) : getTbl (formParams p pl g l s) p tid = getTbl s p tid := by
  unfold formParams
  induction l generalizing s with
  | nil => rfl
  | cons x l ih =>
    rw [List.foldl_cons, ih (h.imp_left fun h => fun hm => h (List.mem_cons_of_mem _ hm))]
    split
    · next hx =>
      rw [getTbl_modTbl, if_neg]
      rintro rfl
      rcases h with h | h
      · exact h List.mem_cons_self
      · rw [h] at hx; exact absurd hx (by decide)
    · rfl

theorem getTbl_formParams {p : Part} {pl : Plan} {g : Nat} {l : List Nat} (hl : l.Nodup) {tid : Nat} (hm : tid ∈ l)
    (ht : trainTid pl g tid = true) (s : State) :
    getTbl (formParams p pl g l s) p tid = (getTbl s p tid).map (Table.stepped (lsOf s p)) := by
  induction l generalizing s with
  | nil => cases hm
  | cons x l ih =>
    obtain ⟨hx, hl⟩ := List.nodup_cons.1 hl
    by_cases e : x = tid
    · subst e
      have hstep : formParams p pl g (x :: l) s = formParams p pl g l (modTbl s p x (Table.stepped (lsOf s p))) :=
        congrArg (formParams p pl g l) (if_pos ht)
      rw [hstep, getTbl_formParams_kept (.inl hx), getTbl_modTbl_same]
    · have hrest : ∀ t, getTbl t p tid = getTbl s p tid → lsOf t p = lsOf s p →
          getTbl (formParams p pl g l t) p tid = (getTbl s p tid).map (Table.stepped (lsOf s p)) := fun t htbl hls => by
        rw [ih hl ((List.mem_cons.1 hm).resolve_left (Ne.symm e)), htbl, hls]
      show getTbl (formParams p pl g l (if trainTid pl g x then modTbl s p x (Table.stepped (lsOf s p)) else s)) p tid = _
      split
      · refine hrest _ (by rw [getTbl_modTbl, if_neg (Ne.symm e)]) ?_
        simp only [lsOf, getJob_congr (modTbl_jobs ..)]
      · exact hrest s rfl rfl

/-- A run whose updates are due. -/
def LkpRun.updating (r : LkpRun) : LkpRun := { r with started := r.started ++ [4], todo := r.grads.map (·.1) }

theorem lkgUpdates_eq {s : State} {p : Part} {j : Job} (hj : getJob s p = some j) (hv : j.vetoed = false) (g : Nat) :
    lkgUpdates s p g = formParams p j.plan g (groupTids j.plan g) (modRunS s p g LkpRun.updating) := by
  simp only [lkgUpdates, hj, hv]
  rfl

/-- The state of an issued phase 4 with the group's updates due, before the parameters of its tables. -/
def updatesDue (s : State) (p : Part) (g : Group) : State := modRunS (lkgState s p g 4) p g.toNat LkpRun.updating

/-- What an issued phase 4 leaves (R162, R170). -/
theorem pushWord_updates {s : State} {p : Part} {g : Group} {j : Job} (h : issuesNow s p .seq (.lkg g 4) = true)
    (hj : getJob s p = some j) (hv : j.vetoed = false) :
    ∃ t k, pushWord s p .seq (.lkg g 4) = t ∧ getJob t p = some k ∧ planFrame s t p ∧ t.mem = s.mem
      ∧ runOf k g.toNat = (runOf j g.toNat).updating ∧ (∀ i, i ≠ g.toNat → runOf k i = runOf j i)
      ∧ ∀ tid, getTbl t p tid = getTbl (formParams p j.plan g.toNat (groupTids j.plan g.toNat) (updatesDue s p g)) p tid := by
  have hjob := getJob_lkgState h hj
  have hu : startPhase (lkgState s p g 4) p g.toNat 4
      = formParams p j.plan g.toNat (groupTids j.plan g.toNat) (updatesDue s p g) := lkgUpdates_eq hjob hv g.toNat
  have hframe := formParams_frame p j.plan g.toNat (groupTids j.plan g.toNat) (updatesDue s p g)
  have hdue := runStep_modRunS (lkgState s p g 4) p g.toNat (f := LkpRun.updating) fun _ => rfl
  obtain ⟨k, hk, hstreams, hrun, hothers⟩ := hdue.own _ hjob
  have haround : aroundJob p s (updatesDue s p g) := aroundJob_lkgState.trans hdue.toaroundJob
  have hjobs : ∀ q, getJob (formParams p j.plan g.toNat (groupTids j.plan g.toNat) (updatesDue s p g)) q = getJob (updatesDue s p g) q :=
    fun q => getJob_congr (by rw [hframe]) q
  have hmem : (updatesDue s p g).mem = s.mem := (modJob_mem ..).trans lkgState_mem
  refine ⟨_, k.modStream .seq Stream.passed, pushWord_lkg h hj hu (fun q hq => (hjobs q).trans (haround.others q hq)) ((hjobs p).trans hk)
    hstreams, ?_, ?_, ?_, hrun, hothers, fun tid => getTbl_congr (modJob_tables ..) p tid⟩
  · rw [getJob_modJob, if_pos rfl, hjobs, updatesDue, hk]
    rfl
  · obtain ⟨harr, hvec, htim, hsec, hchans, hflash, hwins, hpctl, hpend, hjob'⟩ := haround.frame
    refine ⟨?_, ?_, ?_, ?_, ?_, ?_, ?_, ?_, ?_, fun q hq => ?_⟩
    case refine_10 => rw [getJob_modJob, if_neg hq, hjobs, hjob' q hq]
    all_goals
      rw [hframe]
      simp only [modJob_arr, modJob_vec, modJob_tim, modJob_sec, modJob_chans, modJob_flash, modJob_wins, modJob_pctl, modJob_pending]
      assumption
  · rw [modJob_mem, hframe]
    exact hmem

/-! ### The statement -/

/-- Settles O19: each phase by what its engines do to the run of the group. -/
theorem lookupPhases : Obligations.LookupPhases := by
  unfold Obligations.LookupPhases
  intro s p g j hj
  refine ⟨fun h => ?_, fun h => ?_, fun h => ?_, fun h => ?_, fun hv h => ?_⟩
  · obtain ⟨hstep, hshadows⟩ := lkgIndex_effect (getJob_lkgState h hj) g.toNat
    obtain ⟨t, k, ht, hk, haround, hrun, hothers, hsh⟩ := pushWord_of_runStep h hj rfl hstep
    have hwalk : walkRows (lkgState s p g 0) p (j.modStream .seq Stream.cleared) g.toNat = walkRows s p j g.toNat :=
      walkRows_congr lkgState_tables p rfl rfl rfl g.toNat
    refine ⟨t, k, congrArg _ ht, hk, haround.frame, by rw [hrun]; rfl, ⟨?_, haround.tables, (hsh hshadows).mem⟩, hothers⟩
    rw [hrun, ← hwalk]
    rfl
  · obtain ⟨t, k, ht, hk, haround, hrun, hothers, -⟩ := pushWord_of_runStep h hj rfl (runStep_lkgFetch ..)
    exact ⟨t, k, congrArg _ ht, hk, haround.frame, by rw [hrun]; rfl, ⟨by rw [hrun]; exact pooled_pooling_starting _, haround.tables⟩,
      hothers⟩
  · obtain ⟨l, hstep⟩ := runStep_lkgPartials (getJob_lkgState h hj) g.toNat
    obtain ⟨t, k, ht, hk, haround, hrun, hothers, -⟩ := pushWord_of_runStep h hj rfl hstep
    exact ⟨t, k, congrArg _ ht, hk, haround.frame, by rw [hrun]; rfl, ⟨by rw [hrun]; rfl, haround.tables⟩, hothers⟩
  · obtain ⟨o, d, td, hstep, hdue⟩ := runStep_lkgSums (getJob_lkgState h hj) g.toNat
    obtain ⟨t, k, ht, hk, haround, hrun, hothers, -⟩ := pushWord_of_runStep h hj rfl hstep
    refine ⟨t, k, congrArg _ ht, hk, haround.frame, by rw [hrun]; rfl, ⟨haround.tables, fun hgrads hsquall => ?_⟩, hothers⟩
    rw [hrun]
    exact hdue hgrads ((squallIn_congr lkgState_tables p rfl rfl).trans hsquall)
  · obtain ⟨t, k, ht, hk, hframe, hmem, hrun, hothers, htbl⟩ := pushWord_updates h hj hv
    have hkept : ∀ tid, getTbl (updatesDue s p g) p tid = getTbl s p tid := fun tid =>
      getTbl_congr ((modJob_tables ..).trans lkgState_tables) p tid
    have hls : lsOf (updatesDue s p g) p = j.ls := by
      have hjob := getJob_lkgState h hj
      rw [lsOf, updatesDue, getJob_modRunS hjob]
      show (modRun _ _ _).ls = j.ls
      unfold modRun
      split <;> rfl
    refine ⟨t, k, congrArg _ ht, hk, hframe, by rw [hrun]; rfl, ⟨by rw [hrun]; rfl, hmem, fun tid hout => ?_, fun tid v hin htrain hget => ?_⟩,
      hothers⟩
    · rw [htbl, getTbl_formParams_kept hout, hkept]
    · rw [htbl, getTbl_formParams (nodup_groupTids ..) hin htrain, hkept, hget, hls]
      rfl

end Sys2Proof.Machine
end

section
/-! PROOFS. The messages of the lookup, its fetches, spills and pooling (R147 to R156, R165, R180, R286, R299, R330). -/

namespace Sys2Proof.Machine

/-! ### Messages that are not taken -/

/-- A stale message is counted and reported, nothing else (R330). -/
theorem staleMsg_effect (s : State) (p : Part) (src kind : Nat) :
    eventFrame { s with fabr := (staleMsg s p src kind).fabr } (staleMsg s p src kind)
      ∧ (staleMsg s p src kind).fabr = { s.fabr with stale := s.fabr.stale + 1 }
      ∧ raises s (staleMsg s p src kind) evXchStale [src, kind] := by
  have hframe : eventFrame { s with fabr := { s.fabr with stale := s.fabr.stale + 1 } } (staleMsg s p src kind) := by
    unfold staleMsg raise
    exact eventFrame_raiseE ..
  have hfabr : (staleMsg s p src kind).fabr = { s.fabr with stale := s.fabr.stale + 1 } := (congrArg State.fabr hframe.eventless_eq :)
  exact ⟨by rw [hfabr]; exact hframe, hfabr, raises_raiseE ..⟩

/-- A message of the wrong shape raises EV_XCH_FORMAT and a report (R286). -/
theorem badFormat_effect {s : State} {p : Part} {j : Job} (hj : getJob s p = some j) (src what : Nat) :
    planWork p s (badFormat s p src what) ∧ raises s (badFormat s p src what) evXchFormat [src, what]
      ∧ reported (badFormat s p src what) p (vCksum ||| srcXch) := by
  have hraise := planWork_raise s p evXchFormat [src, what]
  have hreport := planWork_report (raise s p evXchFormat [src, what]) p (vCksum ||| srcXch)
  have hjob : getJob (raise s p evXchFormat [src, what]) p = some j := (getJob_congr (raiseE_jobs ..) p).trans hj
  exact ⟨hraise.trans hreport, hreport.toaroundJob.raises_after (raises_raiseE ..), reported_report hjob _⟩

section Stale

variable {s : State} {p : Part} {j : Job} {m : RMsg}

theorem indexArrive_stale (hj : getJob s p = some j) (h : epochOk j m.epoch = false) : indexArrive s p m = staleMsg s p m.src.toNat m.round := by
  simp [indexArrive, hj, h]

theorem payloadArrive_stale (hj : getJob s p = some j) (h : epochOk j m.epoch = false) :
    payloadArrive s p m = staleMsg s p m.src.toNat m.round := by
  simp [payloadArrive, hj, h]

theorem gradArrive_stale (hj : getJob s p = some j) (h : epochOk j m.epoch = false) : gradArrive s p m = staleMsg s p m.src.toNat m.round := by
  simp [gradArrive, hj, h]

end Stale

/-! ### Index and payload messages (R147) -/

theorem onlyJob_modJob (s : State) (p : Part) (f : Job → Job) : onlyJob s (modJob s p f) p := by
  refine ⟨?_, fun q hq => by rw [getJob_modJob, if_neg hq]⟩
  unfold modJob
  split <;> rfl

/-- An index message that has been received, and a run with it: the first of its source and round stands. -/
def receivedIndex (m : RMsg) : IdxMsg := { src := m.src.toNat, round := m.round, left := m.left, ents := idxEntries m.body m.n }
def LkpRun.indexed (x : IdxMsg) (r : LkpRun) : LkpRun :=
  if r.idxIn.any (fun y => y.src == x.src && y.round == x.round) then r else { r with idxIn := r.idxIn ++ [x] }

theorem indexed_group (x : IdxMsg) (r : LkpRun) : (r.indexed x).group = r.group := by
  unfold LkpRun.indexed
  split <;> rfl

theorem indexed_idxIn (x : IdxMsg) (r : LkpRun) :
    (r.indexed x).idxIn = if r.idxIn.any (fun y => y.src == x.src && y.round == x.round) then r.idxIn else r.idxIn ++ [x] := by
  unfold LkpRun.indexed
  split <;> rfl

/-- A run with a payload message. -/
def LkpRun.paid (m : RMsg) (r : LkpRun) : LkpRun :=
  { r with payIn := r.payIn ++ [{ src := m.src.toNat, round := m.round, body := m.body }] }

/-- The module's own step is no later one. -/
theorem laterStep_of_now {s : State} {p : Part} {n : Nat} (h : n % 65536 = nextStep s p % 65536) : laterStep s p n = false := by
  have hd : (n % 65536 + 65536 - nextStep s p % 65536) % 65536 = 0 := by omega
  simp [laterStep, hd]

section Arrive

variable {s : State} {p : Part} {j : Job} {m : RMsg}

theorem indexArrive_good (hj : getJob s p = some j) (hepoch : epochOk j m.epoch = true) (hlen : m.body.length = 8 * m.n)
    (hstep : m.step % 65536 = nextStep s p % 65536) :
    indexArrive s p m = modRunS s p m.group.toNat (LkpRun.indexed (receivedIndex m)) := by
  have hok : ¬ (m.body.length ≠ 8 * m.n ∨ m.step % 65536 ≠ nextStep s p % 65536) := by tauto
  simp only [indexArrive, hj, hepoch, laterStep_of_now hstep, if_neg hok]
  rfl

theorem indexArrive_bad (hj : getJob s p = some j) (hepoch : epochOk j m.epoch = true) (hlater : laterStep s p m.step = false)
    (hbad : ¬ (m.body.length = 8 * m.n ∧ m.step % 65536 = nextStep s p % 65536)) :
    indexArrive s p m = badFormat s p m.src.toNat m.round := by
  have hor : m.body.length ≠ 8 * m.n ∨ m.step % 65536 ≠ nextStep s p % 65536 := not_and_or.1 hbad
  simp only [indexArrive, hj, hepoch, hlater, if_pos hor]
  rfl

theorem payloadArrive_good (hj : getJob s p = some j) (hepoch : epochOk j m.epoch = true)
    (hn : (answered (runOf j m.group.toNat) m.src.toNat m.round).length = m.n)
    (hlen : m.round ≠ 18 → m.body.length = total (payLens s p ((answered (runOf j m.group.toNat) m.src.toNat m.round).map (·.tid)))) :
    payloadArrive s p m = modRunS s p m.group.toNat (LkpRun.paid m) := by
  have hand : ¬ ((answered (runOf j m.group.toNat) m.src.toNat m.round).length ≠ m.n ∨ (m.round ≠ 18
      ∧ m.body.length ≠ total (payLens s p ((answered (runOf j m.group.toNat) m.src.toNat m.round).map (·.tid))))) := by tauto
  simp only [payloadArrive, hj, hepoch, if_neg hand]
  rfl

end Arrive

/-! ### Owner fetches (R151 to R154, R180) -/

theorem planFrame.trans {s t u : State} {p : Part} (h : planFrame s t p) (k : planFrame t u p) : planFrame s u p := by
  obtain ⟨h1, h2, h3, h4, h5, h6, h7, h8, h9, h10⟩ := h
  obtain ⟨k1, k2, k3, k4, k5, k6, k7, k8, k9, k10⟩ := k
  exact ⟨k1.trans h1, k2.trans h2, k3.trans h3, k4.trans h4, k5.trans h5, k6.trans h6, k7.trans h7, k8.trans h8, k9.trans h9,
    fun q hq => (k10 q hq).trans (h10 q hq)⟩

theorem planFrame_modTbl (s : State) (p q : Part) (tid : Nat) (f : Table → Table) : planFrame s (modTbl s q tid f) p := by
  unfold modTbl
  split
  · exact ⟨rfl, rfl, rfl, rfl, rfl, rfl, rfl, rfl, rfl, fun _ _ => rfl⟩
  · exact ⟨rfl, rfl, rfl, rfl, rfl, rfl, rfl, rfl, rfl, fun _ _ => rfl⟩

/-- Charging the read of a record in T1 changes no more than counts and tokens. -/
theorem charged_fetch {s : State} {p : Part} {a : Nat} (h : tierOf a = some 1) (n e : Nat) :
    charged s (chargeRead (countRec s p e) p a n (blkRow e)) := by
  refine .trans (.of_counted (counted_countRec s p e)) ?_
  unfold chargeRead chargeMem
  rw [h]
  exact (charged.of_counted (counted_countMem ..)).trans ((charged_charge ..).trans (.of_counted (counted_winAdd ..)))

theorem planWork_fetch (s : State) (p : Part) (a n e : Nat) : planWork p s (chargeRead (countRec s p e) p a n (blkRow e)) :=
  (planWork.of_counted (counted_countRec s p e)).trans (planWork_chargeMem ..)

section Fetch

variable {s : State} {p : Part} {j : Job} {v : Table} {row : Nat} {train : Bool}

/-- The fetch of a row of a table that has no tiers reads its home, once its access may issue. -/
theorem fetchRow_home (hj : getJob s p = some j) (htier : v.desc.tier ≠ 2) (hrep : waitsRepair s p v row = false) :
    fetchRow s p v row train = if memOpen s p (homeAddr v j.plan.lidx row) v.desc.size false then
        .got (fetchAt s p v row (homeAddr v j.plan.lidx row) train).1 (fetchAt s p v row (homeAddr v j.plan.lidx row) train).2
      else .shut (noteWait s (homeAddr v j.plan.lidx row) v.desc.size false) := by
  have hl : lidxOf s p = j.plan.lidx := by simp [lidxOf, hj]
  simp [fetchRow, hrep, htier, hl]

/-- The state behind a good read of a record: charged, the row pinned where it is trained (R180). -/
def fetched (s : State) (p : Part) (v : Table) (row addr : Nat) (train : Bool) (b : List Byte) : State :=
  let t := chargeRead (countRec s p (v.desc.eng row)) p addr v.desc.size (blkRow (v.desc.eng row))
  if train then pinRow t p v.desc.tid row addr (hFrz b) false else t

theorem fetchAt_good {addr : Nat} {b : List Byte} (htier : v.desc.tier ≠ 2) (haddr : tierOf addr = some 1)
    (hrec : recRead s v addr row = some b) : fetchAt s p v row addr train = (payEntry v.desc b, fetched s p v row addr train b) := by
  have hread := (charged_fetch (s := s) (p := p) haddr v.desc.size (v.desc.eng row)).recRead v addr row
  rw [hrec] at hread
  have hnt : (v.desc.tier == 2) = false := by simpa using htier
  simp only [fetchAt, hread, hnt, Bool.and_false]
  rfl

variable {addr : Nat} {b : List Byte}

theorem planFrame_fetched : planFrame s (fetched s p v row addr train b) p := by
  have h := (planWork_fetch s p addr v.desc.size (v.desc.eng row)).frame
  unfold fetched
  dsimp only
  split
  · exact h.trans (planFrame_modTbl ..)
  · exact h

theorem jobs_fetched (haddr : tierOf addr = some 1) : (fetched s p v row addr train b).jobs = s.jobs := by
  have h := (charged_fetch (s := s) (p := p) haddr v.desc.size (v.desc.eng row)).jobs
  unfold fetched
  dsimp only
  split
  · exact (modTbl_jobs ..).trans h
  · exact h

theorem tables_fetched (haddr : tierOf addr = some 1) : (fetched s p v row addr false b).tables = s.tables :=
  (charged_fetch haddr v.desc.size (v.desc.eng row)).tables

/-- A row fetched by a training lookup is pinned (R180). -/
theorem pinned_fetched (haddr : tierOf addr = some 1) (hv : getTbl s p v.desc.tid = some v) :
    ∃ u, getTbl (fetched s p v row addr true b) p v.desc.tid = some u ∧ u.pinned row = true := by
  have h := getTbl_congr (charged_fetch (s := s) (p := p) haddr v.desc.size (v.desc.eng row)).tables p v.desc.tid
  refine ⟨_, (getTbl_modTbl_same ..).trans (by rw [h, hv]; rfl), ?_⟩
  dsimp only
  split
  · assumption
  · simp [Table.pinned]

end Fetch

/-! ### Payload entries kept and returned -/

/-- A message with the payload entry of its index entry `k`. -/
def IdxMsg.answered (k : Nat) (b : List Byte) (x : IdxMsg) : IdxMsg :=
  { x with pay := tabSet x.pay k b, waits := x.waits.filter (· != k) }

/-- A run with the payload entry of an index entry of one message. -/
def LkpRun.answered (src round k : Nat) (b : List Byte) (r : LkpRun) : LkpRun :=
  { r with idxIn := r.idxIn.map fun x => if x.src == src && x.round == round then x.answered k b else x }

theorem setPay_eq (s : State) (p : Part) (g src round k : Nat) (b : List Byte) :
    setPay s p g src round k (some b) = modRunS s p g (LkpRun.answered src round k b) := rfl

/-- A run in which the messages change as `e` says, which leaves their payload entries. -/
structure paysKept (f : LkpRun → LkpRun) (e : IdxMsg → IdxMsg) : Prop where
  idxIn : ∀ r, (f r).idxIn = r.idxIn.map e
  msg : ∀ x, (e x).src = x.src ∧ (e x).round = x.round ∧ (e x).pay = x.pay

theorem paysKept_id : paysKept id id := ⟨fun r => by simp, fun _ => ⟨rfl, rfl, rfl⟩⟩

/-- A message marked as sent. -/
def IdxMsg.returned (src round : Nat) (x : IdxMsg) : IdxMsg := if x.src == src && x.round == round then { x with sent := true } else x
def LkpRun.returned (src round : Nat) (r : LkpRun) : LkpRun := { r with idxIn := r.idxIn.map (IdxMsg.returned src round) }

/-- Returning a message leaves its payload entries. -/
theorem runStep_returnPay (s : State) (p : Part) (g src round : Nat) :
    ∃ f e, runStep p g f s (returnPay s p g src round) ∧ paysKept f e := by
  have hnone : ∃ f e, runStep p g f s s ∧ paysKept f e := ⟨id, id, .of_planWork (.refl s), paysKept_id⟩
  have hkept : ∀ f : LkpRun → LkpRun, (∀ r, (f r).idxIn = r.idxIn) → paysKept (f ∘ LkpRun.returned src round) (IdxMsg.returned src round) :=
    fun f hf => ⟨fun r => hf _, fun x => by unfold IdxMsg.returned; split <;> exact ⟨rfl, rfl, rfl⟩⟩
  have hsent := runStep_modRunS s p g (f := LkpRun.returned src round) fun _ => rfl
  unfold returnPay
  split
  · exact hnone
  · split
    · exact hnone
    · next m _ =>
      split
      · exact hnone
      · dsimp only
        split
        · exact ⟨_, _, hsent.trans (runStep_modRunS _ p g (f := fun r => { r with payIn := r.payIn ++ [_] }) fun _ => rfl),
            hkept _ fun _ => rfl⟩
        · exact ⟨_, _, hsent.trans (.of_planWork ((sendWork_sendRound ..).planWork p)), hkept id fun _ => rfl⟩

/-- A message answered and returned keeps the entry. -/
theorem mem_answered {r : LkpRun} {src round k : Nat} {m : IdxMsg} (b : List Byte)
    (hm : r.idxIn.find? (fun m => m.src == src && m.round == round) = some m) {f : LkpRun → LkpRun} {e : IdxMsg → IdxMsg}
    (hf : paysKept f e) :
    ∃ x ∈ (f (r.answered src round k b)).idxIn, x.src = src ∧ x.round = round ∧ tabFind x.pay k = some b := by
  have hmem := List.mem_of_find?_eq_some hm
  have hkey := List.find?_some hm
  obtain ⟨hsrc, hround⟩ : m.src = src ∧ m.round = round := by simpa using hkey
  obtain ⟨hs, hr, hp⟩ := hf.msg (m.answered k b)
  refine ⟨e (m.answered k b), ?_, hs.trans hsrc, hr.trans hround, ?_⟩
  · rw [hf.idxIn]
    exact List.mem_map_of_mem (List.mem_map.2 ⟨m, hmem, if_pos hkey⟩)
  · rw [hp]
    exact tabFind_tabSet_same ..

/-! ### OWNER_FETCH -/

section OwnerFetch

variable {s : State} {p : Part} {j : Job} {g src round n tid row : Nat} {m : IdxMsg} {v : Table}
  (hj : getJob s p = some j) (hm : (runOf j g).idxIn.find? (fun m => m.src == src && m.round == round) = some m)
  (hent : m.ents[n]? = some (tid, row)) (hpay : tabFind m.pay n = none) (hv : getTbl s p tid = some v)
  (htier : v.desc.tier ≠ 2) (hrep : waitsRepair s p v row = false)
include hj hm hent hpay hv htier hrep

/-- A fetch whose access may not issue waits (R233). -/
theorem ownerFetch_shut (h : memOpen s p (homeAddr v j.plan.lidx row) v.desc.size false = false) :
    ownerFetch s p g src round n = noteWait s (homeAddr v j.plan.lidx row) v.desc.size false := by
  simp only [ownerFetch, hj, hm, hent, hpay, hv, fetchRow_home hj htier hrep, h]
  rfl

variable {b : List Byte} (htid : v.desc.tid = tid) (haddr : tierOf (homeAddr v j.plan.lidx row) = some 1)
  (hopen : memOpen s p (homeAddr v j.plan.lidx row) v.desc.size false = true)
  (hrec : recRead s v (homeAddr v j.plan.lidx row) row = some b)
include haddr hopen hrec

theorem ownerFetch_good :
    ownerFetch s p g src round n = returnPay (modRunS (fetched s p v row (homeAddr v j.plan.lidx row) (trainTid j.plan g tid) b) p g
      (LkpRun.answered src round n (payEntry v.desc b))) p g src round := by
  simp only [ownerFetch, hj, hm, hent, hpay, hv, fetchRow_home hj htier hrep, hopen, if_true, fetchAt_good htier haddr hrec,
    setPay_eq]

include htid

/-- A fetch that reads a good record keeps its payload entry; a training one pins the row (R151, R180). -/
theorem ownerFetch_effect :
    ∃ t k, ownerFetch s p g src round n = t ∧ getJob t p = some k ∧ planFrame s t p
      ∧ (∃ x ∈ (runOf k g).idxIn, x.src = src ∧ x.round = round ∧ tabFind x.pay n = some (payEntry v.desc b))
      ∧ (trainTid j.plan g tid = true → ∃ u, getTbl t p tid = some u ∧ u.pinned row = true)
      ∧ (trainTid j.plan g tid = false → t.tables = s.tables) := by
  have heq := ownerFetch_good hj hm hent hpay hv htier hrep haddr hopen hrec
  generalize hfet : fetched s p v row (homeAddr v j.plan.lidx row) (trainTid j.plan g tid) b = f at heq
  have hf : planFrame s f p := hfet ▸ planFrame_fetched
  have hfj : getJob f p = some j := (getJob_congr (hfet ▸ jobs_fetched haddr) p).trans hj
  have hset := runStep_modRunS f p g (f := LkpRun.answered src round n (payEntry v.desc b)) fun _ => rfl
  obtain ⟨F, e, hret, hkept⟩ := runStep_returnPay (modRunS f p g (LkpRun.answered src round n (payEntry v.desc b))) p g src round
  have hall := hset.trans hret
  obtain ⟨k, hk, hrun⟩ := hall.own j hfj
  refine ⟨_, k, heq, hk, hf.trans hall.frame, ?_, fun ht => ?_, fun ht => ?_⟩
  · rw [hrun.run]
    exact mem_answered (payEntry v.desc b) hm hkept
  · rw [hall.getTbl, ← hfet, ht]
    subst htid
    exact pinned_fetched haddr hv
  · rw [hall.tables, ← hfet, ht]
    exact tables_fetched haddr

end OwnerFetch

/-! ### SPILL_ROUND (R148, R150) -/

/-- A run with one more spill round pulled from a source. -/
def LkpRun.pull (src k : Nat) (r : LkpRun) : LkpRun := { r with pulled := tabSet r.pulled src (k + 1) }

/-- The state with the pull of a spill round counted and reported. -/
def spillNoted (s : State) (p : Part) (pl : Plan) (g src : Nat) : State :=
  raise ((groupTids pl g).foldl (fun s t => tblCount s p t 1 1) s) p evLkpSpill [g, src]

theorem spillNoted_effect (s : State) (p : Part) (pl : Plan) (g src : Nat) :
    planWork p s (spillNoted s p pl g src) ∧ raises s (spillNoted s p pl g src) evLkpSpill [g, src] := by
  have hcount : planWork p s ((groupTids pl g).foldl (fun s t => tblCount s p t 1 1) s) :=
    .of_counted (.foldl (fun t x => counted_tblCount ..) _ _)
  exact ⟨hcount.trans (planWork_raise ..), hcount.toaroundJob.raises_before (raises_raiseE ..)⟩

/-- The first pull that is due: forward, once the round before it has been answered. -/
theorem spillPull_forward {s : State} {p : Part} {j : Job} (hj : getJob s p = some j) {g src : Nat} (hin : squallIn s p j g = true)
    (hmore : spillMore (runOf j g) src = true)
    (hans : tabGet 0 (runOf j g).pulled src = 0 ∨ (runOf j g).idxIn.any (fun m =>
      m.src == src && m.round == tabGet 0 (runOf j g).pulled src + 1 && m.sent) = true) :
    spillPull s p g src = sendRound (modRunS (spillNoted s p j.plan g src) p g (LkpRun.pull src (tabGet 0 (runOf j g).pulled src)))
      p src g (tabGet 0 (runOf j g).pulled src + 2) 0 (spillCap j.plan g) [] := by
  have hgo : spillMore (runOf j g) src = true ∧ (tabGet 0 (runOf j g).pulled src == 0 || (runOf j g).idxIn.any fun m =>
      m.src == src && m.round == tabGet 0 (runOf j g).pulled src + 1 && m.sent) = true :=
    ⟨hmore, by rw [Bool.or_eq_true, beq_iff_eq]; exact hans⟩
  simp only [spillPull, hj, hin, Bool.not_true, Bool.false_eq_true, if_false, if_pos hgo]
  rfl

/-! ### GRADIENT_ROUND_MESSAGE (R286, R299) -/

/-- A backward message that has been received. -/
def receivedGrad (m : RMsg) : BodyMsg := { src := m.src.toNat, round := m.round, body := m.body, evals := m.evals }

/-- A run with a backward message: the first of its source and round stands. -/
def LkpRun.gradTaken (y : BodyMsg) (r : LkpRun) : LkpRun :=
  if r.gradIn.any (fun x => x.src == y.src && x.round == y.round) then r else { r with gradIn := r.gradIn ++ [y] }

theorem gradTaken_group (y : BodyMsg) (r : LkpRun) : (r.gradTaken y).group = r.group := by
  unfold LkpRun.gradTaken
  split <;> rfl

theorem gradArrive_good {s : State} {p : Part} {j : Job} {m : RMsg} {x : IdxMsg} (hj : getJob s p = some j)
    (hepoch : epochOk j m.epoch = true)
    (hx : (runOf j m.group.toNat).idxIn.find? (fun x => x.src == m.src.toNat && x.round == m.round) = some x)
    (hn : (dropAt (backEnts s p j.plan m.group.toNat x) m.evals).length = m.n)
    (hlen : m.body.length = roundUp (total (gradLens s p j.plan (dropAt (backEnts s p j.plan m.group.toNat x) m.evals))) 8) :
    gradArrive s p m = sumGroup (modRunS s p m.group.toNat (LkpRun.gradTaken (receivedGrad m))) p m.group.toNat := by
  have hok : ¬ ((dropAt (backEnts s p j.plan m.group.toNat x) m.evals).length ≠ m.n
      ∨ m.body.length ≠ roundUp (total (gradLens s p j.plan (dropAt (backEnts s p j.plan m.group.toNat x) m.evals))) 8) := by tauto
  simp only [gradArrive, hj, hepoch, hx, if_neg hok]
  rfl

/-! ### The statement -/

/-- Settles O25: each message and each engine by what it does to the run of its group. -/
theorem lookupMessages : Obligations.LookupMessages := by
  unfold Obligations.LookupMessages
  intro s p j hj good
  refine ⟨fun m hm c hc => ?_, fun m hm hlater => ?_, fun m hm hlater hbad => ?_, fun m ⟨hepoch, hlen, hstep⟩ => ?_,
    fun m hleft hepoch => ?_, fun m hepoch hn hlen => ?_, fun g src round n m tid row v b hm hent hpay hv htier hrep => ?_,
    fun g src hin hmore hans => ?_, fun g hstarted hpooled hpays => ?_, fun m x hepoch hx hn hlen hnew => ?_⟩
  · obtain ⟨hframe, hfabr, hraises⟩ := staleMsg_effect s p m.src.toNat m.round
    have hexec : exec c s = .next (staleMsg s p m.src.toNat m.round) := by
      rcases List.mem_cons.1 hc with rfl | hc
      · exact congrArg _ (indexArrive_stale hj hm)
      · rcases List.mem_cons.1 hc with rfl | hc
        · exact congrArg _ (payloadArrive_stale hj hm)
        · obtain rfl := List.mem_singleton.1 hc
          exact congrArg _ (gradArrive_stale hj hm)
    exact ⟨_, hexec, hframe, hfabr, hraises⟩
  · refine congrArg Host.Outcome.next ?_
    simp [indexArrive, hj, hm, hlater]
  · obtain ⟨hwork, hraises, hrep⟩ := badFormat_effect hj m.src.toNat m.round
    exact ⟨_, congrArg Host.Outcome.next (indexArrive_bad hj hm hlater fun h => hbad ⟨hm, h⟩), hwork.frame, hwork.tables, hraises, hrep⟩
  · refine ⟨_, _, congrArg Host.Outcome.next (indexArrive_good hj hepoch hlen hstep), onlyJob_modJob .., getJob_modRunS hj .., ?_, ?_⟩
    · refine congrArg Host.Outcome.next ?_
      simp [spillArrive, hj, hepoch]
    · rw [runOf_modRun _ _ _ (indexed_group _), if_pos rfl, indexed_idxIn]
      rfl
  · have hsend := sendWork_sendRound s p m.src.toNat m.group.toNat m.round
      (splitFor (runOf j m.group.toNat) m.src.toNat m.round).length 0
      ((splitFor (runOf j m.group.toNat) m.src.toNat m.round).flatMap fun e => idxBytes e.tid e.row)
    refine ⟨_, congrArg Host.Outcome.next ?_, hsend.jobs, hsend.tables, hsend.arr, hsend.vec⟩
    simp only [spillArrive, hj, hepoch, if_pos hleft]
    rfl
  · refine ⟨_, _, congrArg Host.Outcome.next (payloadArrive_good hj hepoch hn hlen), onlyJob_modJob .., getJob_modRunS hj .., ?_⟩
    rw [runOf_modRun _ _ _ (f := LkpRun.paid m) (fun _ => rfl), if_pos rfl]
    rfl
  · refine ⟨fun hshut => congrArg Host.Outcome.next (ownerFetch_shut hj hm hent hpay hv htier hrep hshut),
      fun htid haddr hopen hrec => ?_⟩
    obtain ⟨t, k, ht, heff⟩ := ownerFetch_effect hj hm hent hpay hv htier hrep htid haddr hopen hrec
    exact ⟨t, k, congrArg Host.Outcome.next ht, heff⟩
  · obtain ⟨hnote, hraises⟩ := spillNoted_effect s p j.plan g.toNat src.toNat
    have hrest := (runStep_modRunS (spillNoted s p j.plan g.toNat src.toNat) p g.toNat
      (f := LkpRun.pull src.toNat (tabGet 0 (runOf j g.toNat).pulled src.toNat)) fun _ => rfl).trans
      (.of_planWork ((sendWork_sendRound _ p src.toNat g.toNat (tabGet 0 (runOf j g.toNat).pulled src.toNat + 2) 0 (spillCap j.plan g.toNat) []).planWork p))
    have hall := (runStep.of_planWork hnote).trans hrest
    obtain ⟨k, hk, hrun⟩ := hall.own j hj
    refine ⟨_, k, congrArg Host.Outcome.next (spillPull_forward hj hin hmore hans), hk, hall.frame, hall.tables, ?_,
      hrest.raises_after hraises⟩
    rw [hrun.run]
    exact (tabGet_tabSet ..).trans (if_pos rfl)
  · have hstep := runStep_poolGroup s p g.toNat
    obtain ⟨k, hk, hrun⟩ := hstep.own j hj
    refine ⟨_, k, rfl, hk, hstep.frame, hstep.tables, ?_, hrun.others⟩
    rw [hrun.run]
    simp [LkpRun.pooling, hstarted, hpays]
  · have hj1 := getJob_modRunS hj m.group.toNat (LkpRun.gradTaken (receivedGrad m))
    obtain ⟨o, d, td, hsum, -⟩ := runStep_sumGroup hj1 m.group.toNat
    have hall := (runStep_modRunS s p m.group.toNat (gradTaken_group (receivedGrad m))).trans hsum
    obtain ⟨k, hk, hrun⟩ := hall.own j hj
    refine ⟨_, k, congrArg Host.Outcome.next (gradArrive_good hj hepoch hx hn hlen), hk, hall.frame, hall.tables, ?_⟩
    rw [hrun.run]
    have htaken : (runOf j m.group.toNat).gradTaken (receivedGrad m)
        = { runOf j m.group.toNat with gradIn := (runOf j m.group.toNat).gradIn ++ [receivedGrad m] } := if_neg (by rw [Bool.not_eq_true]; exact hnew)
    simp only [Function.comp, htaken]
    rfl

end Sys2Proof.Machine
end

section
/-! PROOFS. How Cameo exports start, walk and end (R189 to R194). -/

namespace Sys2Proof.Machine

/-! ### The start -/

/-- An EXPORT that passes its checks is recorded on its table (R189). -/
theorem exportStart_accept {s : State} {c : Cmd} {tid : Nat} {t : Table} {st : Bool} {chan : ChanNum} {c0 cc a b x area size : Nat}
    (ht : getTbl s (partOf s c.fn) tid = some t) (hexp : t.exp = none)
    (hlate : ¬ ∃ n, lastSealOf s (partOf s c.fn) = some n ∧ x ≤ n) (hab : a < b) (hrows : b ≤ t.desc.rows) (hfmt : t.desc.pfmt ≠ 3)
    (hcc : 1 ≤ cc) (hdim : c0 + cc ≤ t.desc.dim) (hc0 : c0 % 8 = 0) (hccm : cc % 8 = 0) (harea : area % 64 = 0)
    (hsize : size % 64 = 0) (hmin : 8192 ≤ size) (htier : inTier s (partOf s c.fn) 1 area size = true)
    (hpart : (getChan s chan.toNat).part = partOf s c.fn) (huse : (getChan s chan.toNat).use = 0) :
    exportStart s c tid st chan c0 cc a b x area size = updLock (putTbl s (partOf s c.fn) tid { t with
      exp := some { cmd := c, state := st, chan := chan, c0 := c0, cc := cc, a := a, b := b, x := x, shadow := area, size := size } })
      (partOf s c.fn) := by
  have hseal : (match lastSealOf s (partOf s c.fn) with | some n => decide (x ≤ n) | none => false) = false := by
    split
    · next n hn => exact decide_eq_false fun h => hlate ⟨n, hn, h⟩
    · rfl
  simp only [exportStart, ht]
  refine if_neg ?_
  rintro (h | h | h | h | h | h | h | h)
  · simp [hexp] at h
  · exact absurd (hseal.symm.trans h) (by decide)
  · omega
  · omega
  · simp [hfmt, hcc, hdim, hc0, hccm] at h
  · simp [harea, hsize, hmin, htier] at h
  · exact h hpart
  · exact h huse

/-- An EXPORT is refused for a table that exports already, for a seal that is past, without rows, and on a channel of another
partition (R189). -/
theorem exportStart_reject {s : State} {c : Cmd} {tid : Nat} {t : Table} {st : Bool} {chan : ChanNum} {c0 cc a b x area size : Nat}
    (ht : getTbl s (partOf s c.fn) tid = some t)
    (hbad : t.exp.isSome = true ∨ (∃ n, lastSealOf s (partOf s c.fn) = some n ∧ x ≤ n) ∨ b ≤ a
      ∨ (getChan s chan.toNat).part ≠ partOf s c.fn) :
    exportStart s c tid st chan c0 cc a b x area size = rejectCmd s c evProgError stInvalid [tid] := by
  simp only [exportStart, ht]
  refine if_pos ?_
  rcases hbad with hexp | ⟨n, hseal, hle⟩ | hrange | hpart
  · exact .inl hexp
  · exact .inr (.inl (by simp [hseal, hle]))
  · exact .inr (.inr (.inl hrange))
  · exact .inr (.inr (.inr (.inr (.inr (.inr (.inl hpart))))))

/-! ### Writing Cameo records -/

/-- `f` is `e` after some of its Cameo records have been written: walk and failure are as they were, and the entry `y` of the
record in progress stands there still, or rows have been written. -/
structure Export.advanced (y : Nat × List Byte) (e f : Export) : Prop where
  cmd : f.cmd = e.cmd
  todo : f.todo = e.todo
  fail : f.fail = e.fail
  written : e.written ≤ f.written
  entry : y ∈ e.cur → y ∈ f.cur ∨ e.written < f.written

namespace Export.advanced

variable {y : Nat × List Byte} {e f g : Export}

theorem refl (y : Nat × List Byte) (e : Export) : Export.advanced y e e := ⟨rfl, rfl, rfl, le_rfl, .inl⟩

theorem trans (h : Export.advanced y e f) (k : Export.advanced y f g) : Export.advanced y e g := by
  refine ⟨k.cmd.trans h.cmd, k.todo.trans h.todo, k.fail.trans h.fail, h.written.trans k.written, fun hy => ?_⟩
  rcases h.entry hy with hf | hf
  · exact (k.entry hf).imp_right h.written.trans_lt
  · exact .inr (hf.trans_le k.written)

/-- The step that writes the record of the first `k` rows of a chunk. -/
theorem of_record (y : Nat × List Byte) (e : Export) (rows : List Nat) (k : Nat) (chunks : List (List Nat)) :
    Export.advanced y e { e with
      chunks := chunks, written := e.written + k, cur := e.cur.filter fun x => !(rows.take k).contains x.1 } := by
  refine ⟨rfl, rfl, rfl, Nat.le_add_right .., fun hy => ?_⟩
  by_cases hrow : y.1 ∈ rows.take k
  · have hk : k ≠ 0 := fun h => by simp [h] at hrow
    exact .inr (Nat.lt_add_of_pos_right (Nat.pos_of_ne_zero hk))
  · exact .inl (List.mem_filter.2 ⟨hy, by simp [hrow]⟩)

end Export.advanced

/-- Writing the records that are whole leaves the rest of the table (R194). -/
theorem emitRecords_advanced (y : Nat × List Byte) {p : Part} {tid n : Nat} {s : State} {t : Table} {e : Export}
    (ht : getTbl s p tid = some t) (he : t.exp = some e) :
    ∃ f, getTbl (emitRecords p tid n s) p tid = some { t with exp := some f } ∧ e.advanced y f := by
  induction n generalizing s t e with
  | zero => exact ⟨e, by rw [← he]; exact ht, .refl y e⟩
  | succ n ih =>
    have hstay : ∃ f, getTbl s p tid = some { t with exp := some f } ∧ e.advanced y f := ⟨e, by rw [← he]; exact ht, .refl y e⟩
    have hgo : ∀ (u : State) (f : Export), e.advanced y f →
        ∃ g, getTbl (emitRecords p tid n (putTbl u p tid { t with exp := some f })) p tid = some { t with exp := some g }
          ∧ e.advanced y g := fun u f hf => by
      obtain ⟨g, hg, hadv⟩ := ih (getTbl_putTbl_same u p tid { t with exp := some f }) rfl
      exact ⟨g, hg, hf.trans hadv⟩
    simp only [emitRecords, ht, he]
    split
    · exact hstay
    · exact hgo s _ ⟨rfl, rfl, rfl, le_rfl, .inl⟩
    · split
      · exact hstay
      · split
        · exact ih ht he
        · split
          · exact hstay
          · exact hgo _ _ (.of_record ..)

/-! ### The walk -/

/-- Where an engine reads its next row: the shadowed copy where one stands, else the live record (R190, R191). -/
def Export.source (s : State) (p : Part) (t : Table) (x : Export) (r : Nat) : Nat :=
  match x.ents.find? fun y => y.row == r with
  | some y => y.addr
  | none => recAddr s t (lidxOf s p) r

/-- Row `r` with record `b` is walked: off the list of engine `e`, its entry in the record in progress (R190, R194). -/
def Export.walked (x : Export) (d : Desc) (e r : Nat) (rest : List Nat) (b : List Byte) : Export :=
  { x with todo := setNth x.todo e rest, cur := x.cur ++ [(r, cameoEntry d x b)] }

/-- A read of a row engine in a calm state changes counts, tokens and woken domains alone (R130, R233, R483). -/
theorem charged_rowRead {s : State} (hcalm : calm s) (hflash : s.flash.bad = []) (p : Part) (a n e : Nat) :
    charged s (chargeRead (countRec s p e) p a n (blkRow e)) := by
  have hcount : charged s (countRec s p e) := .of_counted (counted_countRec s p e)
  exact hcount.trans (charged_chargeRead (hcount.calm hcalm) (by rw [hcount.flash, hflash]) p a n (blkRow e))

/-- One access that may issue lets its work run. -/
theorem whenOpen_one {s : State} {p : Part} {a n : Nat} {write : Bool} (h : memOpen s p a n write = true) (f : State → State) :
    whenOpen s p [(a, n, write)] f = f s := by
  simp [whenOpen, allOpen, h]

/-- The record of row `r` has failed its check, which stops the walk (R190). -/
def Export.stopped (x : Export) (r : Nat) : Export := { x with fail := some stCksum, failRow := r }

/-- In a calm state an engine reads its next row once the access may issue: a record that fails stops the walk, a good one takes
it on and lets the records that are whole be written. The split is by that check, then by whether a shadowed copy stands. -/
theorem exportRow_eq {s : State} {p : Part} {tid e : Nat} {t : Table} {x : Export} {r : Nat} {rest : List Nat} (hcalm : calm s)
    (hflash : s.flash.bad = []) (ht : getTbl s p tid = some t) (hx : t.exp = some x) (hactive : x.active = true)
    (hfail : x.fail = none) (hrow : nth [] x.todo e = r :: rest) (hrun : (expRun s x.chan.toNat).isSome = true)
    (hopen : memOpen s p (x.source s p t r) t.desc.size false = true) :
    ∃ u v n, exportRow s p tid e = (recRead s t (x.source s p t r) r).elim (putTbl u p tid { t with exp := some (x.stopped r) })
      fun b => emitRecords p tid n (putTbl v p tid { t with exp := some (x.walked t.desc e r rest b) }) := by
  have hread := (charged_rowRead hcalm hflash p (x.source s p t r) t.desc.size e).recRead t (x.source s p t r) r
  have hgo : (!x.active || x.fail.isSome || (expRun s x.chan.toNat).isNone) = false := by
    simp [hactive, hfail, Option.isNone_eq_false_iff.2 hrun]
  simp only [exportRow, ht, hx, hrow, hgo, Bool.false_eq_true, if_false]
  cases hrec : recRead s t (x.source s p t r) r <;> unfold Export.source at hopen hread hrec <;>
    cases hfind : x.ents.find? fun y => y.row == r <;> simp only [hfind] at hopen hread hrec <;>
    simp only [whenOpen_one hopen, hread, hrec, Option.elim, Export.walked]
  case none.none | none.some => exact ⟨_, s, 0, rfl⟩
  case some.none | some.some => exact ⟨s, _, _, rfl⟩

/-! ### The end -/

/-- At its end the table lists it no more, and its command completes with the rows written and the row that failed its check
(R192, R193). -/
theorem exportEnd_eq {s : State} {p : Part} {tid : Nat} {t : Table} {x : Export} (ht : getTbl s p tid = some t)
    (hx : t.exp = some x) (st : Nat) :
    ∃ u, exportEnd s p tid st = complete u x.cmd st x.written 0 (if st = stCksum then x.failRow else 0)
      ∧ getTbl u p tid = some { t with exp := none } ∧ (st = stDone → u.mem = s.mem) := by
  simp only [exportEnd, ht, hx]
  refine ⟨_, rfl, getTbl_putTbl_same .., fun hdone => ?_⟩
  rw [if_pos hdone]
  unfold updLock
  dsimp only
  rw [putTbl_mem]
  split
  · split <;> rfl
  · rfl

/-- A failure ends it with its status (R193). -/
theorem exportDone_of_fail {s : State} {p : Part} {tid : Nat} {t : Table} {x : Export} {st : Nat} (ht : getTbl s p tid = some t)
    (hx : t.exp = some x) (hfail : x.fail = some st) : exportDone s p tid = exportEnd s p tid st := by
  simp [exportDone, ht, hx, hfail]

/-- Without a failure it ends once every row is walked and written (R193). -/
theorem exportDone_of_sound {s : State} {p : Part} {tid : Nat} {t : Table} {x : Export} (ht : getTbl s p tid = some t)
    (hx : t.exp = some x) (hfail : x.fail = none) : exportDone s p tid
      = if x.active ∧ x.todo.all List.isEmpty ∧ x.chunks.all List.isEmpty then exportEnd s p tid stDone else s := by
  simp only [exportDone, ht, hx, hfail]

end Sys2Proof.Machine
end

section
/-! PROOFS. Tier flushes (R217, R218, R220). -/

namespace Sys2Proof.Machine

/-! ### Tables of a partition -/

theorem mem_tabSet {α : Type} {t : Tab α} {k : Nat} {v : α} {x : Nat × α} (h : x ∈ tabSet t k v) : x = (k, v) ∨ x ∈ t := by
  induction t with
  | nil => exact .inl (List.mem_singleton.1 h)
  | cons y t ih =>
    rw [tabSet] at h
    split_ifs at h
    · exact List.mem_cons.1 h
    · exact (List.mem_cons.1 h).imp_right (List.mem_cons_of_mem y)
    · rcases List.mem_cons.1 h with h | h
      · exact .inr (h ▸ List.mem_cons_self)
      · exact (ih h).imp_right (List.mem_cons_of_mem y)

/-- A table is among those of its partition. -/
theorem mem_tblsOf {s : State} {p : Part} {tid : Nat} {t : Table} (hid : tid < 4096) (ht : getTbl s p tid = some t) :
    t ∈ tblsOf s p :=
  List.mem_map.2 ⟨_, List.mem_filter.2 ⟨mem_of_tabFind ht, decide_eq_true (by unfold tkey; omega)⟩, rfl⟩

theorem mem_tblsOf_putTbl {s : State} {p : Part} {tid : Nat} {t v : Table} (h : v ∈ tblsOf (putTbl s p tid t) p) :
    v = t ∨ v ∈ tblsOf s p := by
  obtain ⟨x, hx, rfl⟩ := List.mem_map.1 h
  obtain ⟨hmem, hpart⟩ := List.mem_filter.1 hx
  rcases mem_tabSet hmem with rfl | hold
  · exact .inl rfl
  · exact .inr (List.mem_map.2 ⟨x, List.mem_filter.2 ⟨hold, hpart⟩, rfl⟩)

/-- Storing a table as it stands keeps a command from having rows left to flush. -/
theorem flushing_putTbl_same {s : State} {p : Part} {c : Cmd} {tid : Nat} {t : Table} (hid : tid < 4096)
    (ht : getTbl s p tid = some t) (h : flushing s p c = false) : flushing (putTbl s p tid t) p c = false := by
  refine List.any_eq_false.2 fun v hv => List.any_eq_false.1 h v ?_
  rcases mem_tblsOf_putTbl hv with rfl | hold
  · exact mem_tblsOf hid ht
  · exact hold

/-- A command that a table lists among its flushes has rows left. -/
theorem flushing_of_mem {s : State} {p : Part} {tid : Nat} {t : Table} {f : Cmd × Nat × List Nat} (hid : tid < 4096)
    (ht : getTbl s p tid = some t) (hf : f ∈ t.flushes) : flushing s p f.1 = true :=
  List.any_eq_true.2 ⟨t, mem_tblsOf hid ht, List.any_eq_true.2 ⟨f, hf, beq_self_eq_true f.1⟩⟩

/-! ### Writebacks -/

theorem meetFlash_jobs (s : State) (a n : Nat) : (meetFlash s a n).jobs = s.jobs := by
  refine foldl_field State.jobs _ (fun t u => ?_) _ s
  rw [history_jobs, raiseM, raiseE_jobs]
  split
  · rfl
  · exact count_jobs ..

theorem chargeMem_jobs (s : State) (p : Part) (a n blk : Nat) (write : Bool) : (chargeMem s p a n blk write).jobs = s.jobs := by
  unfold chargeMem
  extract_lets u
  have hu : u.jobs = s.jobs := (charged.of_counted (counted_countMem ..)).jobs
  split
  · exact (spdAccess_jobs ..).trans hu
  · exact (charged_charge ..).jobs.trans hu
  · exact (charged_charge ..).jobs.trans hu
  · split
    · exact hu
    · exact (charged_charge ..).jobs.trans ((meetFlash_jobs ..).trans hu)
  · exact hu

theorem wrNow_jobs (s : State) (a : Nat) (bs : List Byte) : (wrNow s a bs).jobs = s.jobs := by
  unfold wrNow
  split
  · exact raiseE_jobs ..
  · rfl

/-- The jobs and the tables of two states are the same. -/
def tablesKept (s t : State) : Prop := t.jobs = s.jobs ∧ t.tables = s.tables

namespace tablesKept

variable {s t u : State}

theorem trans (h : tablesKept s t) (k : tablesKept t u) : tablesKept s u := ⟨k.1.trans h.1, k.2.trans h.2⟩

theorem foldl {α : Type} {f : State → α → State} (hf : ∀ s a, tablesKept s (f s a)) (l : List α) (s : State) :
    tablesKept s (l.foldl f s) :=
  ⟨foldl_field State.jobs f (fun s a => (hf s a).1) l s, foldl_field State.tables f (fun s a => (hf s a).2) l s⟩

theorem of_counted (h : counted s t) : tablesKept s t := ⟨(charged.of_counted h).jobs, (charged.of_counted h).tables⟩

theorem of_chargeMem (s : State) (p : Part) (a n blk : Nat) (write : Bool) : tablesKept s (chargeMem s p a n blk write) :=
  ⟨chargeMem_jobs .., (planWork_chargeMem s p p a n blk write).tables⟩

theorem of_recWrite (s : State) (a : Nat) (b : List Byte) : tablesKept s (recWrite s a b) :=
  ⟨wrNow_jobs .., (planWork_wrNow s 0 a b).tables⟩

end tablesKept

/-- A writeback joins those that its table has handed to the translation layer (R217). -/
theorem writebackRow_eq {s : State} {p : Part} {tid : Nat} {t : Table} (ht : getTbl s p tid = some t) (row : Nat) (urgent : Bool) :
    ∃ u wb, tablesKept s u ∧ writebackRow s p tid row urgent = modTbl u p tid fun t => { t with wbs := t.wbs ++ [wb] } := by
  refine ⟨_, _, ?_, by rw [writebackRow, ht]⟩
  refine .trans (.of_counted (counted_countRec s p (t.desc.eng row))) (.trans ?_ (.of_counted (counted_tblCount ..)))
  refine ((tablesKept.foldl (fun _ _ => ?_) _ _).trans (.foldl (fun _ _ => ?_) _ _)).trans (.foldl (fun _ _ => ?_) _ _)
  · exact .of_chargeMem ..
  · exact .of_chargeMem ..
  · exact tablesKept.trans (.of_chargeMem ..) (.of_recWrite ..)

/-- The jobs, with the flushes in progress of a table. -/
def flushesOf (p : Part) (tid : Nat) (s : State) : Tab Job × Option (List (Cmd × Nat × List Nat)) :=
  (s.jobs, (getTbl s p tid).map Table.flushes)

/-- A writeback leaves both: only a durable one takes rows off a flush (R217, R220). -/
theorem flushesOf_writebackRow (s : State) (p : Part) (tid row : Nat) (urgent : Bool) :
    flushesOf p tid (writebackRow s p tid row urgent) = flushesOf p tid s := by
  cases ht : getTbl s p tid with
  | none => rw [writebackRow, ht]
  | some t =>
    obtain ⟨u, wb, ⟨hjobs, htables⟩, heq⟩ := writebackRow_eq ht row urgent
    rw [flushesOf, heq, modTbl_jobs, hjobs, getTbl_modTbl_same, getTbl_congr htables, ht, flushesOf, ht]
    rfl

/-! ### Flushes -/

section Flush

variable {s : State} {p : Part} {c : Cmd} {sl tid : Nat} {t : Table}

/-- A table without dirty rows and writebacks in progress lists no flush (R220). -/
theorem flushTable_clean (ht : getTbl s p tid = some t) (hleft : dirtyRows s t ++ t.wbs.flatMap (·.rows) = []) :
    flushTable s p c sl tid = putTbl s p tid t := by
  obtain ⟨hdirty, hwbs⟩ := List.append_eq_nil_iff.1 hleft
  simp only [flushTable, ht, hdirty, hwbs]
  rfl

/-- A table with rows left lists the flush, and its writebacks begin (R220). -/
theorem flushTable_dirty (ht : getTbl s p tid = some t) (hleft : dirtyRows s t ++ t.wbs.flatMap (·.rows) ≠ []) :
    ∃ v, getTbl (flushTable s p c sl tid) p tid = some v
      ∧ v.flushes = t.flushes ++ [(c, sl, dirtyRows s t ++ t.wbs.flatMap (·.rows))] ∧ (flushTable s p c sl tid).jobs = s.jobs := by
  have hkept : flushesOf p tid (flushTable s p c sl tid)
      = (s.jobs, some (t.flushes ++ [(c, sl, dirtyRows s t ++ t.wbs.flatMap (·.rows))])) := by
    simp only [flushTable, ht, List.isEmpty_iff, if_neg hleft]
    refine (foldl_field (flushesOf p tid) _ (fun u r => ?_) _ _).trans (by rw [flushesOf, getTbl_putTbl_same]; rfl)
    split
    · rfl
    · split
      · exact flushesOf_writebackRow ..
      · rfl
  obtain ⟨hjobs, hfl⟩ := Prod.ext_iff.1 hkept
  obtain ⟨v, hv, hflushes⟩ := Option.map_eq_some_iff.1 hfl
  exact ⟨v, hv, hflushes, hjobs⟩

/-- TFLUSH of one tiered table: its flush starts, and the command is done at once where that leaves no rows (R220). -/
theorem tierFlush_one (hid : tid < 4096)
    (hall : (((tblsOf s (partOf s c.fn)).filter fun t => t.desc.tier == 2).map (·.desc.tid)).filter (· == tid) = [tid]) :
    tierFlush s c tid =
      let u := flushTable s (partOf s c.fn) c (sealOrNone (lastSealOf s (partOf s c.fn))) tid
      if flushing u (partOf s c.fn) c then u else complete u c stDone (sealOrNone (lastSealOf s (partOf s c.fn))) 0 0 := by
  have hne : tid ≠ 0xFFFF := by omega
  simp only [tierFlush, Nat.mod_eq_of_lt hid, if_neg hne, hall]
  exact if_neg (by simp)

/-- TFLUSH of a table without tiers is refused (R220). -/
theorem tierFlush_none (hid : tid < 4096)
    (hall : (((tblsOf s (partOf s c.fn)).filter fun t => t.desc.tier == 2).map (·.desc.tid)).filter (· == tid) = []) :
    tierFlush s c tid = rejectCmd s c evProgError stInvalid [tid] := by
  have hne : tid ≠ 0xFFFF := by omega
  simp only [tierFlush, Nat.mod_eq_of_lt hid, if_neg hne, hall]
  exact if_pos ⟨hne, rfl⟩

end Flush

end Sys2Proof.Machine
end

section
/-! PROOFS. Digest builds (R187), and exports, flushes and builds together. -/

namespace Sys2Proof.Machine

/-- A table with a hash taken into its set digest and into the digest of a range (R185). -/
def Table.hashed (t : Table) (k h : Nat) : Table :=
  { t with set := t.set ^^^ h, ranges := tabSet t.ranges k (tabGet 0 t.ranges k ^^^ h) }

theorem planWork_xorDigest {s : State} {p : Part} {tid : Nat} {t : Table} (ht : getTbl s p tid = some t) (k h : Nat) :
    planWork p (putTbl s p tid (t.hashed k h)) (xorDigest s p tid k h) := by
  simp only [xorDigest, ht]
  exact (planWork_wrNow ..).trans (planWork_wrNow ..)

/-- A build in a calm state hashes the engine's next record, the row off its walk (R187). -/
theorem buildRow_eq {s : State} {p : Part} {tid e : Nat} {t : Table} {b : Build} {r : Nat} {rest : List Nat} (hcalm : calm s)
    (hflash : s.flash.bad = []) (ht : getTbl s p tid = some t) (hb : t.build = some b) (hrow : nth [] b.todo e = r :: rest)
    (hopen : memOpen s p (recAddr s t (lidxOf s p) r) t.desc.size false = true) :
    ∃ u, planFrame s u p ∧ getTbl u p tid = some { t with build := some { todo := setNth b.todo e rest } }
      ∧ buildRow s p tid e = xorDigest u p tid (rangeOf t.desc r)
          (recHash p tid (s.mem.read (recAddr s t (lidxOf s p) r) t.desc.size)) := by
  have hread := charged_rowRead hcalm hflash p (recAddr s t (lidxOf s p) r) t.desc.size e
  refine ⟨modTbl (chargeRead (countRec s p e) p (recAddr s t (lidxOf s p) r) t.desc.size (blkRow e)) p tid
    fun t => { t with build := some { todo := setNth b.todo e rest } }, ?frame, ?table, ?work⟩
  case frame => exact (planWork_fetch ..).frame.trans (planFrame_modTbl ..)
  case table =>
    rw [getTbl_modTbl_same, getTbl_congr hread.tables, ht]
    rfl
  case work => simp only [buildRow, ht, hb, hrow, whenOpen_one hopen, hread.mem]

/-- Settles O34: EXPORT by its checks, the walk by `exportRow_eq` and `emitRecords_advanced`, the end by `exportEnd_eq`, TFLUSH by
whether its table has rows left, the build by `buildRow_eq` and `planWork_xorDigest`. -/
theorem exports : Obligations.Exports := by
  unfold Obligations.Exports
  refine ⟨fun s c tid st chan c0 cc a b x area size t hruns ht => ⟨?accept, fun hbad => ?reject⟩, ?walk,
    fun s p tid t x hmst ht hx => ⟨fun hfail hactive htodo hchunks => ?done, fun st hfail hst => ?failed, fun hfail hactive => ?waits⟩,
    fun s c tid t hruns hid => ⟨fun hall ht hflushing => ⟨fun hleft => ?clean, fun hleft => ?dirty⟩, fun hall => ?none⟩, ?build⟩
  case accept =>
    intro hexp hlate hab hrows hfmt hcc hdim hc0 hccm harea hsize hmin htier hpart huse
    exact ⟨_, congrArg Host.Outcome.next ((command_of_runs hruns _).trans (exportStart_accept ht hexp hlate hab hrows hfmt hcc hdim
      hc0 hccm harea hsize hmin htier hpart huse)), rfl, getTbl_putTbl_same ..⟩
  case reject => exact congrArg Host.Outcome.next ((command_of_runs hruns _).trans (exportStart_reject ht hbad))
  case walk =>
    intro s p tid e t x r rest hmst hcalm hflash ht hx hactive hfail hrow hlen hrun src hopen
    have hexec : exec (.exportWalkRow p tid e) s = .next (exportRow s p tid.toNat e.toNat) := congrArg Host.Outcome.next (if_pos hmst)
    obtain ⟨u, v, n, heq⟩ := exportRow_eq hcalm hflash ht hx hactive hfail hrow hrun hopen
    change _ = (recRead s t src r).elim _ _ at heq
    cases hrec : recRead s t src r with
    | none =>
      rw [hrec] at heq
      exact ⟨_, _, _, hexec.trans (congrArg _ heq), getTbl_putTbl_same .., rfl, rfl, rfl, fun _ => ⟨rfl, rfl, rfl⟩, nofun⟩
    | some b =>
      rw [hrec] at heq
      obtain ⟨y, hget, hadv⟩ := emitRecords_advanced (t := { t with exp := some (x.walked t.desc e.toNat r rest b) })
        (r, cameoEntry t.desc x b) (getTbl_putTbl_same v p tid.toNat _) rfl
      refine ⟨_, _, y, hexec.trans (congrArg _ heq), hget, rfl, rfl, hadv.cmd, nofun, ?_⟩
      rintro _ ⟨⟩
      exact ⟨hadv.todo, hadv.fail.trans hfail, hadv.entry (List.mem_append_right _ List.mem_cons_self)⟩
  case done =>
    obtain ⟨u, heq, hget, hmem⟩ := exportEnd_eq ht hx stDone
    have hall := (exportDone_of_sound ht hx hfail).trans (if_pos ⟨hactive, htodo, hchunks⟩)
    exact ⟨u, congrArg Host.Outcome.next ((if_pos hmst).trans (hall.trans heq)), hget, hmem rfl⟩
  case failed =>
    obtain ⟨u, heq, hget, -⟩ := exportEnd_eq ht hx st
    exact ⟨u, congrArg Host.Outcome.next ((if_pos hmst).trans ((exportDone_of_fail ht hx hfail).trans heq)), hget⟩
  case waits =>
    have hsound := (exportDone_of_sound ht hx hfail).trans (if_neg (by simp [hactive]))
    exact congrArg Host.Outcome.next ((if_pos hmst).trans hsound)
  case clean =>
    have hone := tierFlush_one hid hall
    rw [flushTable_clean ht hleft] at hone
    exact congrArg Host.Outcome.next ((command_of_runs hruns _).trans (hone.trans (if_neg (by
      rw [flushing_putTbl_same hid ht hflushing]; decide))))
  case dirty =>
    obtain ⟨v, hv, hflushes, hjobs⟩ := flushTable_dirty (c := c) (sl := sealOrNone (lastSealOf s (partOf s c.fn))) ht hleft
    have hbusy := flushing_of_mem hid hv (hflushes ▸ List.mem_append_right _ List.mem_cons_self)
    exact ⟨_, v, congrArg Host.Outcome.next ((command_of_runs hruns _).trans ((tierFlush_one hid hall).trans (if_pos hbusy))), hv, hflushes,
      hjobs⟩
  case none => exact congrArg Host.Outcome.next ((command_of_runs hruns _).trans (tierFlush_none hid hall))
  case build =>
    intro s p tid e t b r rest hmst hcalm hflash ht hb hrow h hopen
    obtain ⟨u, hframe, hget, heq⟩ := buildRow_eq hcalm hflash ht hb hrow hopen
    have hwork := planWork_xorDigest hget (rangeOf t.desc r) h
    refine ⟨_, _, congrArg Host.Outcome.next ((if_pos hmst).trans heq), (hwork.getTbl p tid.toNat).trans (getTbl_putTbl_same ..),
      hframe.trans hwork.frame, rfl, rfl, ?_, fun k hk => ?_⟩
    · exact (tabGet_tabSet ..).trans (if_pos rfl)
    · exact (tabGet_tabSet ..).trans (if_neg hk)

end Sys2Proof.Machine
end

section
/-! PROOFS. Token buckets, temperatures, traffic caps and trips (R232, R234, R235, R442). -/

namespace Sys2Proof.Machine

/-! ### Buckets (R232) -/

/-- What one refill leaves in the bucket at key `k`. -/
def refilled (s : State) (k : Nat) : Nat :=
  Nat.min (tabGet 0 s.bucket k + rateOf s (BitVec.ofNat 2 (k / 4)) (k % 4) * refillUnit (k % 4)) (bucketDepth s (BitVec.ofNat 2 (k / 4)) (k % 4))

/-- The state with the bucket at key `k` refilled. -/
def refill (s : State) (k : Nat) : State := { s with bucket := tabSet s.bucket k (refilled s k) }

theorem refillAll_eq (s : State) : refillAll s = (List.range 16).foldl refill s := rfl

/-- Refills of the first `n` keys touch those buckets alone, each once. -/
theorem refills (s : State) (n : Nat) :
    (List.range n).foldl refill s = { s with bucket := ((List.range n).foldl refill s).bucket }
      ∧ ∀ k, tabGet 0 ((List.range n).foldl refill s).bucket k = if k < n then refilled s k else tabGet 0 s.bucket k := by
  induction n with
  | zero => exact ⟨rfl, fun _ => rfl⟩
  | succ n ih =>
    rw [List.range_succ, List.foldl_append, List.foldl_cons, List.foldl_nil]
    generalize (List.range n).foldl refill s = t at ih
    obtain ⟨ht, hget⟩ := ih
    have hn : refilled t n = refilled s n := by
      have h0 : tabGet 0 t.bucket n = tabGet 0 s.bucket n := (hget n).trans (if_neg (Nat.lt_irrefl n))
      rw [refilled, h0, ht]
      rfl
    refine ⟨by rw [refill, ht], fun k => ?_⟩
    rw [refill, tabGet_tabSet, hn, hget]
    by_cases hk : k = n
    · subst hk; simp
    · have : k < n + 1 ↔ k < n := by omega
      simp [hk, this]

/-- The buckets of a partition after REGULATOR_REFILL. -/
theorem bucket_refillAll (s : State) (p : Part) {b : Nat} (hb : b < 4) :
    tabGet 0 (refillAll s).bucket (4 * p.toNat + b)
      = Nat.min (tabGet 0 s.bucket (4 * p.toNat + b) + rateOf s p b * refillUnit b) (bucketDepth s p b) := by
  have hp := p.isLt
  have hdiv : (4 * p.toNat + b) / 4 = p.toNat := by omega
  have hmod : (4 * p.toNat + b) % 4 = b := by omega
  rw [refillAll_eq, (refills s 16).2, if_pos (by omega), refilled, hdiv, hmod, BitVec.ofNat_toNat, BitVec.setWidth_eq]

/-- What is raised on a state with the same log is raised. -/
theorem raises_of_log {s u t : State} (h : u.evLog = s.evLog) {code : Nat} {detail : List Nat} (hr : raises u t code detail) :
    raises s t code detail := by
  unfold raises at hr ⊢
  rwa [h] at hr

/-! ### Stacks (R234, R235) -/

theorem getStack_putStack_same {s : State} {i : Nat} (h : i < s.dramStacks.length) (k : Stack) : getStack (putStack s i k) i = k :=
  nth_setNth_same _ _ _ _ h

theorem getStack_putStack_other (s : State) {i n : Nat} (h : n ≠ i) (k : Stack) : getStack (putStack s i k) n = getStack s n :=
  nth_setNth_other _ _ _ _ _ h

theorem getStack_congr {s t : State} (h : t.dramStacks = s.dramStacks) (i : Nat) : getStack t i = getStack s i := by
  rw [getStack, h, getStack]

/-- The stack that a report stores: where its cap is 0 % no more, nothing has waited for it. -/
def Stack.stored (k : Stack) : Stack := if k.cap = 0 then k else { k with waitFrom := none }

/-- A stored report changes the stack and the counters alone; the counters only where an access has waited. -/
theorem capStack_effect (s : State) (i : Nat) (k : Stack) :
    counted (putStack s i k.stored) (capStack s i k) ∧ (k.waitFrom = none → capStack s i k = putStack s i k.stored) := by
  unfold capStack Stack.stored
  cases hw : k.waitFrom with
  | none =>
    have hk : { k with waitFrom := none } = k := by rw [← hw]
    simp only [hk, ite_self]
    exact ⟨.refl _, fun _ => trivial⟩
  | some t0 =>
    refine ⟨?_, nofun⟩
    dsimp only
    split
    · exact .refl _
    · exact counted_count ..

theorem counted.dramStacks {s t : State} (h : counted s t) : t.dramStacks = s.dramStacks := by
  unfold counted at h
  rw [h]

section Stored

variable {s : State} {i : Nat}

theorem getStack_capStack_same (h : i < s.dramStacks.length) (k : Stack) : getStack (capStack s i k) i = k.stored :=
  (getStack_congr (capStack_effect s i k).1.dramStacks i).trans (getStack_putStack_same h _)

theorem getStack_capStack_other {n : Nat} (h : n ≠ i) (k : Stack) : getStack (capStack s i k) n = getStack s n :=
  (getStack_congr (capStack_effect s i k).1.dramStacks n).trans (getStack_putStack_other s h _)

theorem capStack_rest (k : Stack) : capStack s i k = { s with dramStacks := (capStack s i k).dramStacks, isl := (capStack s i k).isl } := by
  have h := (capStack_effect s i k).1
  unfold counted at h
  rw [h]
  rfl

theorem capStack_isl {k : Stack} (h : k.waitFrom = none) : (capStack s i k).isl = s.isl := by
  rw [(capStack_effect s i k).2 h]
  rfl

end Stored

@[simp] theorem Stack.stored_temp (k : Stack) : k.stored.temp = k.temp := by unfold Stack.stored; split <;> rfl
@[simp] theorem Stack.stored_zone (k : Stack) : k.stored.zone = k.zone := by unfold Stack.stored; split <;> rfl
@[simp] theorem Stack.stored_cap (k : Stack) : k.stored.cap = k.cap := by unfold Stack.stored; split <;> rfl
@[simp] theorem Stack.stored_refresh2 (k : Stack) : k.stored.refresh2 = k.refresh2 := by unfold Stack.stored; split <;> rfl

/-! ### DRAM stacks (R234) -/

/-- A DRAM stack after a report. -/
def Stack.reported (k : Stack) (t : Int) : Stack :=
  { k with temp := t, zone := dramZone k t, cap := dramCap k (dramZone k t), refresh2 := decide (dramZone k t = .hot ∨ dramZone k t = .crit) }

/-- A report stores the stack and then raises what its new zone asks for: EV_MEM_CRIT on entry into critical. -/
theorem dramReport_events (s : State) (i : Nat) (t : Int) :
    eventFrame (capStack s i ((getStack s i).reported t)) (dramReport s i t)
      ∧ (dramZone (getStack s i) t = .crit → (getStack s i).zone ≠ .crit →
          raises (capStack s i ((getStack s i).reported t)) (dramReport s i t) evMemCrit [i]) := by
  unfold dramReport
  extract_lets k z u
  change eventFrame u _ ∧ (z = .crit → k.zone ≠ .crit → raises u _ evMemCrit [i])
  by_cases hsame : z = k.zone
  · rw [if_pos hsame]
    exact ⟨eventFrame_refl u, fun hcrit hold => absurd (hsame ▸ hcrit) hold⟩
  · rw [if_neg hsame]
    cases z with
    | normal => exact ⟨eventFrame_refl u, nofun⟩
    | warm => refine ⟨?_, nofun⟩; dsimp only; split; exacts [eventFrame_raiseE .., eventFrame_refl u]
    | hot => refine ⟨?_, nofun⟩; dsimp only; split; exacts [eventFrame_refl u, eventFrame_raiseE ..]
    | crit => exact ⟨eventFrame_raiseE .., fun _ _ => raises_raiseE ..⟩

theorem dramZone_crit {k : Stack} {t : Int} (h : 105 ≤ t) : dramZone k t = .crit := if_pos h

theorem dramZone_hot {k : Stack} {t : Int} (h : 95 ≤ t) (h1 : t < 100) : dramZone k t = .hot := by
  unfold dramZone
  rw [if_neg (by omega), if_neg (by omega), if_pos h]

theorem dramZone_cool {k : Stack} {t : Int} (h : t < 83) : dramZone k t = .normal ∨ dramZone k t = .warm := by
  unfold dramZone
  rw [if_neg (by omega), if_neg (by omega), if_neg (by omega), if_neg (by omega), if_neg (by omega)]
  split
  · exact .inr rfl
  · exact .inl rfl

theorem dramCap_hot (k : Stack) : dramCap k .hot ≤ 4 := by
  unfold dramCap
  dsimp only
  split
  · decide
  · exact Nat.min_le_left ..

/-- A stack that leaves critical starts at one eighth. -/
theorem dramCap_leaves {k : Stack} {z : Zone} (h : k.zone = .crit) (hz : z ≠ .crit) : dramCap k z = 1 := by
  cases z with
  | crit => exact absurd rfl hz
  | hot | warm | normal => exact if_pos h

section Report

variable {s : State} {k : Nat} (hk : k < s.dramStacks.length) (x : Int)
include hk

theorem getStack_dramReport_same : getStack (dramReport s k x) k = ((getStack s k).reported x).stored :=
  (getStack_congr (congrArg State.dramStacks (dramReport_events s k x).1.eventless_eq :) k).trans (getStack_capStack_same hk _)

omit hk in
theorem getStack_dramReport_other {i : Nat} (h : i ≠ k) : getStack (dramReport s k x) i = getStack s i :=
  (getStack_congr (congrArg State.dramStacks (dramReport_events s k x).1.eventless_eq :) i).trans (getStack_capStack_other h _)

omit hk in
/-- Beside its events a report changes the stacks and the counters. -/
theorem eventFrame_dramReport :
    eventFrame { s with dramStacks := (dramReport s k x).dramStacks, isl := (dramReport s k x).isl } (dramReport s k x) := by
  have h := (dramReport_events s k x).1
  have hstacks : (dramReport s k x).dramStacks = (capStack s k ((getStack s k).reported x)).dramStacks :=
    (congrArg State.dramStacks h.eventless_eq :)
  have hisl : (dramReport s k x).isl = (capStack s k ((getStack s k).reported x)).isl := (congrArg State.isl h.eventless_eq :)
  rw [hstacks, hisl, ← capStack_rest]
  exact h

omit hk in
theorem raises_dramReport (hz : dramZone (getStack s k) x = .crit) (hold : (getStack s k).zone ≠ .crit) :
    raises s (dramReport s k x) evMemCrit [k] :=
  raises_of_log (by rw [capStack_rest]) ((dramReport_events s k x).2 hz hold)

omit hk in
theorem dramReport_isl (hw : (getStack s k).waitFrom = none) : (dramReport s k x).isl = s.isl :=
  (congrArg State.isl (dramReport_events s k x).1.eventless_eq :).trans (capStack_isl hw)

end Report

/-- One millisecond moves a stack's cap by an eighth, within what its zone and its temperature allow (R234). -/
theorem dramTick_effect (o : Stack) :
    (dramTick o).temp = o.temp ∧ (o.zone = .crit → dramTick o = o) ∧ (o.zone = .normal → (dramTick o).cap = Nat.min 8 (o.cap + 1))
      ∧ (o.zone = .hot ∨ o.zone = .warm → 83 ≤ o.temp → (dramTick o).cap = Nat.max 1 (o.cap - 1))
      ∧ (o.zone = .hot → o.temp < 83 → (dramTick o).cap = Nat.min 4 (o.cap + 1))
      ∧ (o.zone = .warm → o.temp < 83 → (dramTick o).cap = Nat.min 8 (o.cap + 1)) := by
  unfold dramTick
  cases o.zone with
  | crit => exact ⟨rfl, fun _ => rfl, nofun, nofun, nofun, nofun⟩
  | normal => exact ⟨rfl, nofun, fun _ => rfl, nofun, nofun, nofun⟩
  | hot => exact ⟨rfl, nofun, nofun, fun _ h => if_pos h, fun _ h => if_neg (by omega), nofun⟩
  | warm => exact ⟨rfl, nofun, nofun, fun _ h => if_pos h, nofun, fun _ h => if_neg (by omega)⟩

theorem getStack_capTick {s : State} (hlen : s.dramStacks.length = 28) (i : Nat) :
    getStack { s with dramStacks := (s.dramStacks.take 20).map dramTick ++ s.dramStacks.drop 20 } i
      = if i < 20 then dramTick (getStack s i) else getStack s i := by
  have hcut : ((s.dramStacks.take 20).map dramTick).length = 20 := by simp [hlen]
  simp only [getStack, nth_eq_getD, List.getD_eq_getElem?_getD]
  split
  · next h =>
    rw [List.getElem?_append_left (by omega), List.getElem?_map, List.getElem?_take_of_lt h, List.getElem?_eq_getElem (by omega)]
    rfl
  · next h =>
    rw [List.getElem?_append_right (by omega), List.getElem?_drop, hcut, Nat.add_sub_cancel' (by omega)]

/-! ### Flash stacks (R235) -/

/-- The zone of a flash stack after a report. -/
def flashZone (k : Stack) (t : Int) : Zone :=
  if 95 ≤ t then .hot
  else if k.zone = .hot ∧ 93 ≤ t then .hot
  else if 85 ≤ t then .warm
  else if (k.zone = .warm ∨ k.zone = .hot) ∧ 83 ≤ t then .warm
  else .normal

/-- A flash stack after a report: it programs not at all in hot, at half its rate in warm. -/
def Stack.flashReported (k : Stack) (t : Int) : Stack :=
  { k with temp := t, zone := flashZone k t, cap := match flashZone k t with | .hot => 0 | .warm => 4 | _ => 8 }

theorem flashReport_eq (s : State) (i : Nat) (t : Int) : flashReport s i t = capStack s i ((getStack s i).flashReported t) := rfl

theorem cap_flashReported_hot {k : Stack} {t : Int} (h : 95 ≤ t) : (k.flashReported t).cap = 0 := by
  have hz : flashZone k t = .hot := if_pos h
  simp only [Stack.flashReported, hz]

theorem cap_flashReported_warm {k : Stack} {t : Int} (h : 85 ≤ t) (h1 : t < 93) : (k.flashReported t).cap = 4 := by
  have hz : flashZone k t = .warm := by
    rw [flashZone, if_neg (by omega), if_neg (by omega), if_pos h]
  simp only [Stack.flashReported, hz]

theorem cap_flashReported_cool {k : Stack} {t : Int} (h : t < 83) : (k.flashReported t).cap = 8 := by
  have hz : flashZone k t = .normal := by
    rw [flashZone, if_neg (by omega), if_neg (by omega), if_neg (by omega), if_neg (by omega)]
  simp only [Stack.flashReported, hz]

/-! ### Critical stacks and trips (R442) -/

/-- A module that is on turns off because of a trip: only its cause, the fuses and the waiting commands stand. -/
def tripped (s t : State) (cause : Nat) : Prop :=
  t.pwr.mst = .off ∧ t.pwr.trip = true ∧ t.pwr.tripCause = cause ∧ t.pwr.tripNew = true ∧ t.jobs = [] ∧ (∀ d, dom t d = .off)
    ∧ t.sec.otp = s.sec.otp ∧ t.pending = s.pending

theorem tripped_trip {s : State} (hoff : s.pwr.mst ≠ .off) (hvolts : s.pwr.mst ≠ .unpowered) (cause : Nat) : tripped s (trip s cause) cause := by
  rw [trip, if_neg (not_or.2 ⟨hoff, hvolts⟩)]
  refine ⟨rfl, rfl, rfl, rfl, rfl, fun d => ?_, rfl, rfl⟩
  change nth DomState.off (List.replicate 64 .off) d = .off
  rw [nth_eq_getD, List.getD_eq_getElem?_getD, List.getElem?_replicate]
  split <;> rfl

/-- A trip after reports that leave power, fuses and commands as they were. -/
theorem tripped_after {s u : State} (hpwr : u.pwr.mst = s.pwr.mst) (hsec : u.sec = s.sec) (hpend : u.pending = s.pending)
    (hoff : s.pwr.mst ≠ .off) (hvolts : s.pwr.mst ≠ .unpowered) (cause : Nat) : tripped s (trip u cause) cause := by
  obtain ⟨h1, h2, h3, h4, h5, h6, h7, h8⟩ := tripped_trip (hpwr ▸ hoff) (hpwr ▸ hvolts) cause
  exact ⟨h1, h2, h3, h4, h5, h6, h7.trans (by rw [hsec]), h8.trans hpend⟩

/-- A job under a critical stack: its step is withdrawn, unless it holds or runs its self-test. -/
def Job.underCritical (j : Job) : Job := if j.phase = .held ∨ j.phase = .testing then j else { j with withdrawn := true }

/-- The state with the job of one partition under a critical stack. -/
def withdraw (s : State) (n : Nat) : State :=
  match getJob s (BitVec.ofNat 2 n) with
  | some j => if j.phase = .held ∨ j.phase = .testing then s else abandonCause s (BitVec.ofNat 2 n)
  | none => s

theorem criticalHold_eq {s : State} {k : Nat} (hz : (getStack s k).zone = .crit) (hk : k < 20) :
    criticalHold s k = raiseM ((List.range 4).foldl withdraw s) evPwrThermHold [k] := by
  rw [criticalHold, if_neg (by simp [hz, hk])]
  rfl

theorem withdraw_effect (s : State) (n : Nat) :
    withdraw s n = { s with jobs := (withdraw s n).jobs }
      ∧ ∀ q, getJob (withdraw s n) q = if q = BitVec.ofNat 2 n then (getJob s q).map Job.underCritical else getJob s q := by
  unfold withdraw
  cases hj : getJob s (BitVec.ofNat 2 n) with
  | none =>
    refine ⟨rfl, fun q => ?_⟩
    by_cases hq : q = BitVec.ofNat 2 n
    · subst hq; simp [hj]
    · simp [hq]
  | some j =>
    dsimp only
    split
    · next hheld =>
      refine ⟨rfl, fun q => ?_⟩
      by_cases hq : q = BitVec.ofNat 2 n
      · subst hq; simp [hj, Job.underCritical, hheld]
      · simp [hq]
    · next hheld =>
      refine ⟨by simp only [abandonCause, modJob, hj], fun q => ?_⟩
      rw [abandonCause, getJob_modJob]
      by_cases hq : q = BitVec.ofNat 2 n
      · subst hq; simp [hj, Job.underCritical, hheld]
      · simp [hq]

theorem withdraws (s : State) {n : Nat} (hn : n ≤ 4) :
    (List.range n).foldl withdraw s = { s with jobs := ((List.range n).foldl withdraw s).jobs }
      ∧ ∀ q, getJob ((List.range n).foldl withdraw s) q = if q.toNat < n then (getJob s q).map Job.underCritical else getJob s q := by
  induction n with
  | zero => exact ⟨rfl, fun _ => rfl⟩
  | succ n ih =>
    obtain ⟨ht, hget⟩ := ih (by omega)
    rw [List.range_succ, List.foldl_append, List.foldl_cons, List.foldl_nil]
    generalize (List.range n).foldl withdraw s = t at ht hget
    obtain ⟨hw, hjob⟩ := withdraw_effect t n
    refine ⟨by rw [hw, ht], fun q => ?_⟩
    have hq : q = BitVec.ofNat 2 n ↔ q.toNat = n := by
      rw [← BitVec.toNat_inj, BitVec.toNat_ofNat, Nat.mod_eq_of_lt (by omega)]
    simp only [hjob, hq, hget]
    by_cases hlt : q.toNat < n
    · rw [if_neg (by omega), if_pos hlt, if_pos (by omega)]
    · by_cases he : q.toNat = n
      · rw [if_pos he, if_neg hlt, if_pos (by omega)]
      · rw [if_neg he, if_neg hlt, if_neg (by omega)]

/-! ### The statement -/

theorem dramTemp_eq {s : State} {k : Nat} (hoff : s.pwr.mst ≠ .off) (hvolts : s.pwr.mst ≠ .unpowered) (hk : k < 20) (t : Int) :
    dramTemp s k t = if 110 ≤ t then trip (dramReport s k t) 2 else dramReport s k t := by
  rw [dramTemp, if_neg (by simp [hoff, hvolts, hk])]

/-- The state with a die's temperature reported. -/
def dieHeated (s : State) (d : Nat) (t : Int) : State := { s with pwr := { s.pwr with dieTemp := setNth s.pwr.dieTemp d t } }

theorem dieReport_eq {s : State} {d : Nat} (hoff : s.pwr.mst ≠ .off) (hvolts : s.pwr.mst ≠ .unpowered) (hd : d < 3) (t : Int) :
    dieReport s d t = if 115 ≤ t then trip (dieHeated s d t) 1
      else if 100 ≤ t ∧ nth 0 s.pwr.dieTemp d < 100 then raiseM (dieHeated s d t) evPwrThermWarn [d] else dieHeated s d t := by
  rw [dieReport, if_neg (by simp [hoff, hvolts, hd])]
  rfl

/-- Settles O30: the buckets by `refills`, a stack's report by what `capStack` stores of it, a trip by `tripped_after`. -/
theorem thermal : Obligations.Thermal := by
  unfold Obligations.Thermal
  intro s hlen trips on
  refine ⟨?refill, ?report, ?stackTrip, ?tick, ?flash, ?critical, ?dieTrip, ?die⟩
  case refill => exact ⟨_, rfl, (refills s 16).1, fun p b hb => bucket_refillAll s p hb⟩
  case report =>
    intro k x ⟨hoff, hvolts⟩ hk hcool o
    have hexec : exec (.dramTempReport k x) s = .next (dramReport s k.toNat x.toInt) :=
      congrArg Host.Outcome.next ((dramTemp_eq hoff hvolts hk _).trans (if_neg (by omega)))
    refine ⟨_, _, hexec, getStack_dramReport_same (by omega) _, Stack.stored_temp _, ?_⟩
    simp only [Stack.stored_zone, Stack.stored_cap, Stack.stored_refresh2, Stack.reported, decide_eq_true_eq]
    refine ⟨fun h => ?crit, fun h h1 => ?hot, dramZone_cool, trivial, dramCap_leaves, raises_dramReport _,
      fun i hi => getStack_dramReport_other _ hi, eventFrame_dramReport _, dramReport_isl _⟩
    case crit => rw [dramZone_crit h]; exact ⟨rfl, rfl⟩
    case hot => rw [dramZone_hot h h1]; exact ⟨rfl, dramCap_hot _⟩
  case stackTrip =>
    intro k x ⟨hoff, hvolts⟩ hk hhot
    have hrep := (eventFrame_dramReport (s := s) (k := k.toNat) x.toInt).eventless_eq
    have hpwr : (dramReport s k.toNat x.toInt).pwr = s.pwr := (congrArg State.pwr hrep :)
    have hsec : (dramReport s k.toNat x.toInt).sec = s.sec := (congrArg State.sec hrep :)
    have hpend : (dramReport s k.toNat x.toInt).pending = s.pending := (congrArg State.pending hrep :)
    exact ⟨_, congrArg Host.Outcome.next ((dramTemp_eq hoff hvolts hk _).trans (if_pos hhot)),
      tripped_after (by rw [hpwr]) hsec hpend hoff hvolts 2⟩
  case tick =>
    have hget := getStack_capTick hlen
    refine ⟨_, rfl, rfl, by simp [hlen], fun i hi => (hget i).trans (if_neg (by omega)), fun i hi => ?_⟩
    rw [(hget i).trans (if_pos hi)]
    exact dramTick_effect _
  case flash =>
    intro k x
    refine ⟨_, rfl, capStack_rest _, fun hw => capStack_isl hw, fun i hi => getStack_capStack_other hi _, ?_⟩
    have hn : getStack (flashReport s (20 + k.toNat) x.toInt) (20 + k.toNat) = ((getStack s (20 + k.toNat)).flashReported x.toInt).stored := by
      rw [flashReport_eq, getStack_capStack_same (by omega)]
    rw [hn]
    simp only [Stack.stored_temp, Stack.stored_cap]
    exact ⟨rfl, cap_flashReported_hot, cap_flashReported_warm, cap_flashReported_cool⟩
  case critical =>
    intro k hk hz
    have hheld := withdraws s (n := 4) le_rfl
    generalize hu : (List.range 4).foldl withdraw s = u at hheld
    have heq : exec (.dramCriticalHold k) s = .next (raiseM u evPwrThermHold [k.toNat]) :=
      congrArg Host.Outcome.next (hu ▸ criticalHold_eq hz hk)
    obtain ⟨hjobs, hget⟩ := hheld
    have hevent := eventFrame_raiseE u { code := evPwrThermHold, time := u.tim.now, detail := [k.toNat] }
    refine ⟨⟨_, heq, ?_, fun p j hj => ?_, ?_⟩, fun ⟨hoff, hvolts⟩ => ?_⟩
    · exact raises_of_log (by rw [hjobs]) (raises_raiseE u _)
    · rw [raiseM, getJob_congr (raiseE_jobs ..), hget, if_pos (by omega), hj]
      rfl
    · rw [raiseM, raiseE_jobs, ← hjobs]
      exact hevent
    · exact ⟨_, congrArg Host.Outcome.next (if_pos ⟨hz, hk⟩), tripped_trip hoff hvolts 3⟩
  case dieTrip =>
    intro d x ⟨hoff, hvolts⟩ hd hhot
    exact ⟨_, congrArg Host.Outcome.next ((dieReport_eq hoff hvolts hd _).trans (if_pos hhot)),
      tripped_after (u := dieHeated s d.toNat x.toInt) rfl rfl rfl hoff hvolts 1⟩
  case die =>
    intro d x ⟨hoff, hvolts⟩ hd hcool hlen3
    have heq := (dieReport_eq (s := s) hoff hvolts hd x.toInt).trans (if_neg (by omega))
    refine ⟨_, congrArg Host.Outcome.next heq, ?_⟩
    split
    · next hwarn =>
      have h : eventFrame (dieHeated s d.toNat x.toInt) (raiseM (dieHeated s d.toNat x.toInt) evPwrThermWarn [d.toNat]) := eventFrame_raiseE ..
      have hpwr : (raiseM (dieHeated s d.toNat x.toInt) evPwrThermWarn [d.toNat]).pwr = (dieHeated s d.toNat x.toInt).pwr :=
        (congrArg State.pwr h.eventless_eq :)
      refine ⟨?_, hpwr, fun _ _ => raises_raiseE (dieHeated s d.toNat x.toInt) _, fun h => absurd h (by omega)⟩
      rw [hpwr]
      exact h
    · next hcalm => exact ⟨eventFrame_refl _, rfl, fun h h1 => absurd ⟨h, h1⟩ hcalm, fun _ => rfl⟩

end Sys2Proof.Machine
end

section
/-! PROOFS. The flash translation layer, the wear governor and the hour (R224, R225, R227, R229 to R231, R235, R449). -/

namespace Sys2Proof.Machine

/-! ### Page programs (R224, R230) -/

/-- A page program that is not urgent spends one credit. -/
theorem spendPage_none (s : State) : spendPage s none = { s with wear := { s.wear with c := s.wear.c - 1 } } := by
  unfold spendPage
  dsimp only
  split
  · next h => cases h
  · rfl

/-- Pages programmed one after another into the translation layer. -/
def Flash.programmed (f : Flash) (stopped : List Nat) (lps : List Nat) : Flash := lps.foldl (fun f lp => programPage f stopped lp) f

/-- Programs that are not urgent change the translation layer and spend one credit a page. -/
theorem programPages_none (s : State) (lps : List Nat) :
    programPages s none lps
      = { s with flash := s.flash.programmed (stoppedFlash s) lps, wear := { s.wear with c := s.wear.c - lps.length } } := by
  induction lps generalizing s with
  | nil => simp [programPages, Flash.programmed]
  | cons lp l ih =>
    have hstep : programPages s none (lp :: l)
        = programPages (spendPage { s with flash := programPage s.flash (stoppedFlash s) lp } none) none l := rfl
    rw [hstep, spendPage_none, ih]
    have hc : s.wear.c - 1 - (l.length : Int) = s.wear.c - ((lp :: l).length : Int) := by
      rw [List.length_cons]
      omega
    simp only [hc]
    rfl

theorem openBand_kept (f : Flash) : (openBand f).retired = f.retired ∧ (openBand f).erases = f.erases := by
  unfold openBand
  split
  · exact ⟨rfl, rfl⟩
  · split <;> exact ⟨rfl, rfl⟩

theorem programPage_kept (f : Flash) (stopped : List Nat) (lp : Nat) :
    (programPage f stopped lp).retired = f.retired ∧ (programPage f stopped lp).erases = f.erases := by
  have h := openBand_kept f
  unfold programPage
  dsimp only
  split <;> exact h

/-- Programs retire and erase no block. -/
theorem Flash.programmed_kept (f : Flash) (stopped : List Nat) (lps : List Nat) :
    (f.programmed stopped lps).retired = f.retired ∧ (f.programmed stopped lps).erases = f.erases := by
  induction lps generalizing f with
  | nil => exact ⟨rfl, rfl⟩
  | cons lp l ih =>
    obtain ⟨hr, he⟩ := ih (programPage f stopped lp)
    obtain ⟨kr, ke⟩ := programPage_kept f stopped lp
    exact ⟨hr.trans kr, he.trans ke⟩

/-! ### Bands moved and erased (R225) -/

theorem mem_bandBlocks {f : Flash} {b k : Nat} : k ∈ bandBlocks f b ↔ k / 32 = b ∧ k ∉ f.retired := by
  simp only [bandBlocks, List.mem_filter, List.mem_map, List.mem_range, Bool.not_eq_true', List.contains_eq_mem, decide_eq_false_iff_not]
  refine and_congr_left fun _ => ⟨fun ⟨i, hi, hk⟩ => by omega, fun h => ⟨k % 32, by omega, by omega⟩⟩

theorem nodup_bandBlocks (f : Flash) (b : Nat) : (bandBlocks f b).Nodup :=
  (List.nodup_range.map (add_left_injective (32 * b))).filter _

/-- Erases of a list of blocks count one for each time a block stands in it. -/
theorem erases_foldl (l : List Nat) (e : Tab Nat) (k : Nat) :
    tabGet 0 (l.foldl (fun t k => tabMod 0 t k (· + 1)) e) k = tabGet 0 e k + l.count k := by
  induction l generalizing e with
  | nil => rfl
  | cons a l ih =>
    rw [List.foldl_cons, ih, tabMod, tabGet_tabSet, List.count_cons]
    by_cases h : k = a
    · subst h; simp; omega
    · simp [h, Ne.symm h]

/-- The translation layer with a band erased. -/
def Flash.erased (f : Flash) (b : Nat) : Flash :=
  { f with
    oob := f.oob.filter fun kv => kv.1 / bandPages != b
    used := f.used.filter (· != b), openB := f.openB.filter fun x => x.1 != b
    erases := (bandBlocks f b).foldl (fun t k => tabMod 0 t k (· + 1)) f.erases }

/-- A band erased is out of use, and each of its blocks in service is erased once more, no other block. -/
theorem Flash.erased_effect (f : Flash) (b : Nat) :
    b ∉ (f.erased b).used ∧ (∀ k, k / 32 = b → k ∉ f.retired → eraseOf (f.erased b) k = eraseOf f k + 1)
      ∧ (∀ k, k / 32 ≠ b ∨ k ∈ f.retired → eraseOf (f.erased b) k = eraseOf f k) := by
  have hcount : ∀ k, eraseOf (f.erased b) k = eraseOf f k + if k ∈ bandBlocks f b then 1 else 0 := fun k =>
    (erases_foldl ..).trans (by rw [(nodup_bandBlocks f b).count]; rfl)
  refine ⟨by simp [Flash.erased], fun k hk hin => ?_, fun k hk => ?_⟩
  · rw [hcount, if_pos (mem_bandBlocks.2 ⟨hk, hin⟩)]
  · rw [hcount, if_neg fun h => hk.elim (· (mem_bandBlocks.1 h).1) (mem_bandBlocks.1 h).2, Nat.add_zero]

theorem moveBand_eq (s : State) (b : Nat) :
    moveBand s b = { s with
      flash := (s.flash.programmed (stoppedFlash s) (validPages s.flash b)).erased b
      wear := { s.wear with c := s.wear.c - (validPages s.flash b).length } } :=
  (congrArg (fun u : State => { u with flash := u.flash.erased b }) (programPages_none s (validPages s.flash b)) :)

/-- A band that moves is erased; beside the translation layer the credit alone changes. -/
theorem moveBand_effect (s : State) (b : Nat) :
    b ∉ (moveBand s b).flash.used ∧ (moveBand s b).flash.retired = s.flash.retired
      ∧ (∀ k, k / 32 = b → k ∉ s.flash.retired → eraseOf (moveBand s b).flash k = eraseOf s.flash k + 1)
      ∧ (∀ k, k / 32 ≠ b ∨ k ∈ s.flash.retired → eraseOf (moveBand s b).flash k = eraseOf s.flash k)
      ∧ moveBand s b = { s with flash := (moveBand s b).flash, wear := (moveBand s b).wear } := by
  obtain ⟨hret, her⟩ := s.flash.programmed_kept (stoppedFlash s) (validPages s.flash b)
  have hold : ∀ k, eraseOf (s.flash.programmed (stoppedFlash s) (validPages s.flash b)) k = eraseOf s.flash k := fun k => by
    rw [eraseOf, her, eraseOf]
  obtain ⟨hused, hin, hout⟩ := (s.flash.programmed (stoppedFlash s) (validPages s.flash b)).erased_effect b
  rw [hret] at hin hout
  rw [moveBand_eq]
  exact ⟨hused, hret, fun k hk hs => (hin k hk hs).trans (by rw [hold]), fun k hk => (hout k hk).trans (hold k), rfl⟩

theorem collectGarbage_eq {s : State} (h : erasedBands s.flash < 64) {b : Nat}
    (hb : pickBand s.flash (fun b => (validPages s.flash b).length) = some b) : collectGarbage s = moveBand s b := by
  simp only [collectGarbage, if_pos h, hb]

theorem levelWear_eq {s : State} (h : 256 < eraseSpread s.flash) {b : Nat} (hb : pickBand s.flash (bandErases s.flash) = some b) :
    levelWear s = moveBand s b := by
  simp only [levelWear, if_pos h, hb]

/-- A failed block is retired, and the pages that it held are programmed elsewhere (R224). -/
theorem retireBlock_eq {s : State} {blk : Nat} (h : blk ∉ s.flash.retired) :
    retireBlock s blk = programPages { s with flash := { s.flash with retired := blk :: s.flash.retired } } none
      ((s.flash.map.filter fun kv => pageBlock kv.2 == blk).map (·.1)) := by
  rw [retireBlock, if_neg (by simpa using h)]

/-! ### Checkpoints and mounts (R227) -/

theorem checkpointMap_idle {s : State} (h : ckDue s.flash = false) : checkpointMap s = s := by
  simp [checkpointMap, h]

/-- A checkpoint that is due goes to the copy that the one before it has left. -/
theorem checkpointMap_due {s : State} (hready : s.flash.ready = true) (hdue : ckDue s.flash = true) :
    let k : Ckpt := { seq := s.flash.ckSeq + 1, upTo := s.flash.seq, map := s.flash.map }
    checkpointMap s = { s with
      wear := { s.wear with c := s.wear.c - ckPages }
      flash := { s.flash with
        ckSeq := s.flash.ckSeq + 1, sinceCk := 0, ckHour := false
        ckA := if s.flash.ckSeq % 2 = 0 then some k else s.flash.ckA
        ckB := if s.flash.ckSeq % 2 = 0 then s.flash.ckB else some k } } := by
  have hidle : ¬ (!s.flash.ready || !ckDue s.flash) = true := by simp [hready, hdue]
  simp only [checkpointMap, if_neg hidle]
  by_cases h : s.flash.ckSeq % 2 = 0
  · have hn : ¬ (s.flash.ckSeq + 1) % 2 = 0 := by omega
    simp [h, hn]
  · have hn : (s.flash.ckSeq + 1) % 2 = 0 := by omega
    simp [h, hn]

theorem mountT3_ready {s : State} (h : s.flash.ready = true) : mountT3 s = s := by
  unfold mountT3
  split
  · rfl
  · exact if_pos h

theorem mountT3_newer {s : State} (h : s.flash.ready = false) {k : Ckpt} (hk : newerCkpt s.flash = some k) :
    mountT3 s = { s with flash := { s.flash with map := replayMap s.flash k.map k.upTo, ready := true } } := by
  simp [mountT3, hk, h]

theorem mountT3_none {s : State} (h : newerCkpt s.flash = none) : mountT3 s = s := by
  simp only [mountT3, h]

theorem rebuildMap_ready {s : State} (h : s.flash.ready = true) : rebuildMap s = s := by
  unfold rebuildMap
  split
  · exact if_pos h
  · rfl

theorem rebuildMap_newer {s : State} {k : Ckpt} (h : newerCkpt s.flash = some k) : rebuildMap s = s := by
  simp only [rebuildMap, h]

theorem rebuildMap_none {s : State} (h : s.flash.ready = false) (hk : newerCkpt s.flash = none) :
    rebuildMap s = raiseM { s with flash := { s.flash with map := replayMap s.flash [] 0, ready := true } } evFtlRebuild [] := by
  simp [rebuildMap, hk, h]

/-! ### The hour (R229 to R231, R449) -/

/-- What an hour writes besides the rest changes with it under the frame of events. -/
theorem eventFrame_hour {s t : State} (h : eventFrame s t) (m : Almanac) (a b : Option Almanac) (w : Wear) :
    eventFrame { s with alm := m, almA := a, almB := b, wear := w } { t with alm := m, almA := a, almB := b, wear := w } := by
  have h0 := congrArg (fun u : State => { u with alm := m, almA := a, almB := b, wear := w }) h.eventless_eq
  obtain ⟨-, hm, hr, hf, hp⟩ := h
  exact ⟨eq_but_events_iff.2 h0, hm, hr, hf, hp⟩

/-- The state with the allowance formed anew. -/
def allowed (s : State) : State := { s with wear := { s.wear with a := (allowance s).1 } }

/-- Forming the allowance may raise that the flash is worn, once; no more of wear than that changes beside it. -/
theorem setAllowance_effect (s : State) :
    ∃ w, (setAllowance s).wear = { s.wear with a := (allowance s).1, wornSaid := w }
      ∧ eventFrame { s with wear := (setAllowance s).wear } (setAllowance s) := by
  have heq : setAllowance s = if (allowance s).2 && !s.wear.wornSaid then
      raiseM { allowed s with wear := { (allowed s).wear with wornSaid := true } } evFtlWorn [] else allowed s := rfl
  rw [heq]
  split
  · have h : eventFrame { allowed s with wear := { (allowed s).wear with wornSaid := true } }
        (raiseM { allowed s with wear := { (allowed s).wear with wornSaid := true } } evFtlWorn []) := eventFrame_raiseE ..
    have hwear : (raiseM { allowed s with wear := { (allowed s).wear with wornSaid := true } } evFtlWorn []).wear
        = { (allowed s).wear with wornSaid := true } := (congrArg State.wear h.eventless_eq :)
    refine ⟨true, hwear, ?_⟩
    rw [hwear]
    exact h
  · exact ⟨s.wear.wornSaid, rfl, eventFrame_refl _⟩

/-- The image that is written to the older copy. -/
def State.image (s : State) (c : Int) : Almanac :=
  { s.alm with credit := c, signNext := nextSign s, seq := Nat.max (copySeq s.almA) (copySeq s.almB) + 1 }

theorem writeAlmanac_eq (s : State) :
    writeAlmanac s =
      let c := s.wear.c - (ceilDiv almLength 16384 : Nat)
      { s with
        wear := { s.wear with c := c }, alm := s.image c
        almA := if copySeq s.almA ≤ copySeq s.almB then some (s.image c) else s.almA
        almB := if copySeq s.almA ≤ copySeq s.almB then s.almB else some (s.image c) } := by
  unfold writeAlmanac
  dsimp only
  split <;> rfl

/-- The counts with the overdraft of the hour that ends and the hour counted. -/
def Almanac.hourOn (m : Almanac) (w : Wear) : Almanac :=
  { (if w.odPages = 0 then m else
      { m with overdrafts := ((m.hours, w.odPages, w.odTab) :: m.overdrafts).take 65536, odTotal := m.odTotal + w.odPages }) with
    hours := m.hours + 1 }

/-- The state of the hour before the allowance is formed. -/
def hourStart (s : State) : State :=
  { s with alm := s.alm.hourOn s.wear, wear := { s.wear with odPages := 0 }, flash := { s.flash with ckHour := true } }

theorem hourly_eq (s : State) :
    hourly s = let u := setAllowance (hourStart s); writeAlmanac { u with wear := { u.wear with c := addCredit u.wear } } := by
  unfold hourly hourStart Almanac.hourOn
  dsimp only
  split <;> rfl

/-- The hour's overdraft heads the list of overdrafts (R231). -/
theorem Almanac.hourOn_overdraft (m : Almanac) {w : Wear} (h : w.odPages ≠ 0) :
    (m.hourOn w).overdrafts.head? = some (m.hours, w.odPages, w.odTab) ∧ (m.hourOn w).odTotal = m.odTotal + w.odPages := by
  simp [Almanac.hourOn, h]

/-! ### The statement -/

theorem flashWork_eq {s : State} (hmst : s.pwr.mst = .active) (hready : s.flash.ready = true) (hopen : programsOpen s = true)
    (f : State → State) : flashWork s f = f s := by
  simp [flashWork, whileActive, hmst, hready, hopen]

theorem flashWork_waits {s : State} (hready : s.flash.ready = false) (f : State → State) : flashWork s f = s := by
  simp [flashWork, whileActive, hready]

/-- Settles O29: the engines by `moveBand_effect`, `programPages_none` and the checkpoint's equations, the hour by `hourly_eq`. -/
theorem flashEngines : Obligations.FlashEngines := by
  unfold Obligations.FlashEngines
  intro s hmst moves work
  have hwork : work → ∀ f, flashWork s f = f s := fun h f => flashWork_eq hmst h.1 h.2 f
  refine ⟨?idle, fun hw hlow b hb => ?collect, fun hw hlow => ?collected, fun hw hwide b hb => ?level, fun hw hnarrow => ?levelled,
    fun blk hw hin => ?failure, fun hw hdue => ?notDue, fun hw hdue => ?due, fun hready => ?mounted,
    fun hready k hk => ?newer, fun hready hk => ?rebuild, fun hdom => ?hour⟩
  case idle =>
    intro hready c hc
    have hwaits := flashWork_waits hready
    simp only [List.mem_cons, List.not_mem_nil, or_false] at hc
    rcases hc with rfl | rfl | rfl <;> exact congrArg Host.Outcome.next (hwaits _)
  case collect =>
    have heq : exec .garbageCollection s = .next (moveBand s b) :=
      congrArg Host.Outcome.next ((hwork hw _).trans (collectGarbage_eq hlow hb))
    exact ⟨_, heq, moveBand_effect s b⟩
  case collected => exact congrArg Host.Outcome.next ((hwork hw _).trans (if_neg (by omega)))
  case level =>
    have heq : exec .wearLevelMove s = .next (moveBand s b) := congrArg Host.Outcome.next ((hwork hw _).trans (levelWear_eq hwide hb))
    exact ⟨_, heq, moveBand_effect s b⟩
  case levelled => exact congrArg Host.Outcome.next ((hwork hw _).trans (if_neg (by omega)))
  case failure =>
    have heq : exec (.blockFailure blk) s = .next (retireBlock s blk.toNat) := congrArg Host.Outcome.next (hwork hw _)
    rw [retireBlock_eq hin, programPages_none] at heq
    exact ⟨_, heq, rfl, (Flash.programmed_kept ..).1, by simp⟩
  case notDue => exact congrArg Host.Outcome.next ((hwork hw _).trans (checkpointMap_idle hdue))
  case due => exact congrArg Host.Outcome.next ((hwork hw _).trans (checkpointMap_due hw.1 hdue))
  case mounted =>
    exact ⟨congrArg Host.Outcome.next ((if_pos hmst).trans (mountT3_ready hready)),
      congrArg Host.Outcome.next ((if_pos hmst).trans (rebuildMap_ready hready))⟩
  case newer =>
    exact ⟨congrArg Host.Outcome.next ((if_pos hmst).trans (mountT3_newer hready hk)),
      congrArg Host.Outcome.next ((if_pos hmst).trans (rebuildMap_newer hk))⟩
  case rebuild =>
    exact ⟨congrArg Host.Outcome.next ((if_pos hmst).trans (mountT3_none hk)), _,
      congrArg Host.Outcome.next ((if_pos hmst).trans (rebuildMap_none hready hk)), eventFrame_raiseE .., raises_raiseE ..⟩
  case hour =>
    obtain ⟨w, hwear, hframe⟩ := setAllowance_effect (hourStart s)
    have heq : exec .hourlyTick s = .next (hourly s) := congrArg Host.Outcome.next (if_pos hdom)
    rw [hourly_eq, writeAlmanac_eq] at heq
    generalize setAllowance (hourStart s) = u at hwear hframe heq
    have halm : u.alm = s.alm.hourOn s.wear := (congrArg State.alm hframe.eventless_eq :)
    have hA : u.almA = s.almA := (congrArg State.almA hframe.eventless_eq :)
    have hB : u.almB = s.almB := (congrArg State.almB hframe.eventless_eq :)
    have hcredit : addCredit u.wear = addCredit { s.wear with a := u.wear.a } := by
      rw [hwear]
      rfl
    refine ⟨_, heq, congrArg (·.hours) halm, congrArg (·.odPages) hwear, congrArg (· - ((ceilDiv almLength 16384 : Nat) : Int)) hcredit,
      congrArg (·.a) hwear, fun hod => ?_, fun hle => ?_, fun hlt => ?_, eventFrame_hour hframe ..⟩
    · obtain ⟨hhead, htotal⟩ := s.alm.hourOn_overdraft hod
      exact ⟨(congrArg (·.overdrafts.head?) halm).trans hhead, (congrArg (·.odTotal) halm).trans htotal⟩
    · rw [← hA, ← hB] at hle
      exact ⟨if_pos hle, (if_pos hle).trans hB⟩
    · rw [← hA, ← hB] at hlt
      exact ⟨if_neg (Nat.not_le.2 hlt), (if_neg (Nat.not_le.2 hlt)).trans hA⟩

end Sys2Proof.Machine
end

section
/-! PROOFS. What the work on the rows of a tiered table leaves, and its residency directory (R203, R204, R210 to R219). -/

namespace Sys2Proof.Machine

/-! ### Work on rows -/

/-- The state without what the work on tiered tables writes: beside the jobs what the work of a plan writes, the tables, and since
when accesses have waited for the stacks. -/
def tierless (s : State) : State := { planless s with jobs := s.jobs, tables := [], dramStacks := [] }

/-- Nothing but what the work on tiered tables writes is another. -/
def tierWork (s t : State) : Prop := tierless t = tierless s

/-- The same where the tables stay, too. -/
structure rowWork (s t : State) : Prop where
  rest : tierWork s t
  tables : t.tables = s.tables

namespace tierWork

variable {s t u : State}

theorem refl (s : State) : tierWork s s := rfl
theorem trans (h : tierWork s t) (k : tierWork t u) : tierWork s u := Eq.trans k h

theorem jobs (h : tierWork s t) : t.jobs = s.jobs := (congrArg State.jobs h :)

theorem frame (h : tierWork s t) (p : Part) : planFrame s t p :=
  ⟨(congrArg State.arr h :), (congrArg State.vec h :), (congrArg State.tim h :), (congrArg State.sec h :), (congrArg State.chans h :),
    (congrArg State.flash h :), (congrArg State.wins h :), (congrArg State.pctl h :), (congrArg State.pending h :),
    fun q _ => getJob_congr h.jobs q⟩

theorem foldl {α : Type} {f : State → α → State} (hf : ∀ s a, tierWork s (f s a)) (l : List α) (s : State) : tierWork s (l.foldl f s) := by
  induction l generalizing s with
  | nil => exact .refl s
  | cons a l ih => exact (hf s a).trans (ih _)

end tierWork

namespace rowWork

variable {s t u : State}

theorem refl (s : State) : rowWork s s := ⟨rfl, rfl⟩
theorem trans (h : rowWork s t) (k : rowWork t u) : rowWork s u := ⟨h.rest.trans k.rest, k.tables.trans h.tables⟩

theorem getTbl (h : rowWork s t) (p : Part) (tid : Nat) : getTbl t p tid = getTbl s p tid := getTbl_congr h.tables p tid

/-- Work of a plan that leaves the jobs alone. -/
theorem of_planWork {p : Part} (h : planWork p s t) (hj : t.jobs = s.jobs) : rowWork s t := by
  refine ⟨?_, h.tables⟩
  have := congrArg (fun u : State => { u with jobs := t.jobs, tables := [], dramStacks := [] }) h.rest
  unfold tierWork tierless
  rw [← hj]
  exact this

theorem of_counted (h : counted s t) : rowWork s t := .of_planWork (p := 0) (.of_counted h) (charged.of_counted h).jobs

theorem foldl {α : Type} {f : State → α → State} (hf : ∀ s a, rowWork s (f s a)) (l : List α) (s : State) : rowWork s (l.foldl f s) := by
  induction l generalizing s with
  | nil => exact .refl s
  | cons a l ih => exact (hf s a).trans (ih _)

end rowWork

section Pieces

variable (s : State) (p : Part)

theorem rowWork_mem (m : Memory) : rowWork s { s with mem := m } := ⟨rfl, rfl⟩
theorem rowWork_countRec (e : Nat) : rowWork s (countRec s p e) := .of_counted (counted_countRec ..)
theorem rowWork_tblCount (t i q : Nat) : rowWork s (tblCount s p t i q) := .of_counted (counted_tblCount ..)

theorem rowWork_charge (b n blk : Nat) : rowWork s (charge s p b n blk) :=
  .of_planWork (planWork_charge s 0 p b n blk) (charged_charge ..).jobs

theorem rowWork_chargeMem (a n blk : Nat) (write : Bool) : rowWork s (chargeMem s p a n blk write) :=
  .of_planWork (planWork_chargeMem s 0 p a n blk write) (chargeMem_jobs ..)

theorem rowWork_chargeRead (a n blk : Nat) : rowWork s (chargeRead s p a n blk) := rowWork_chargeMem ..
theorem rowWork_chargeWrite (a n blk : Nat) : rowWork s (chargeWrite s p a n blk) := rowWork_chargeMem ..

theorem rowWork_wrNow (a : Nat) (bs : List Byte) : rowWork s (wrNow s a bs) := .of_planWork (planWork_wrNow s 0 a bs) (wrNow_jobs ..)
theorem rowWork_recWrite (a : Nat) (bs : List Byte) : rowWork s (recWrite s a bs) := rowWork_wrNow ..

theorem rowWork_noteWait (a n : Nat) (write : Bool) : rowWork s (noteWait s a n write) := by
  refine .foldl (fun t k => ?_) _ s
  dsimp only
  split
  · exact .refl t
  · exact ⟨rfl, rfl⟩

/-- Accesses that may not all issue only wait. -/
theorem rowWork_waits (l : List (Nat × Nat × Bool)) : rowWork s (l.foldl (fun s x => noteWait s x.1 x.2.1 x.2.2) s) :=
  .foldl (fun t _ => rowWork_noteWait t ..) l s

theorem tierWork_putTbl (tid : Nat) (v : Table) : tierWork s (putTbl s p tid v) := rfl

theorem tierWork_modTbl (tid : Nat) (f : Table → Table) : tierWork s (modTbl s p tid f) := by
  unfold modTbl
  split
  · exact .refl s
  · rfl

theorem tierWork_whenOpen {f : State → State} (hf : ∀ s, tierWork s (f s)) (l : List (Nat × Nat × Bool)) : tierWork s (whenOpen s p l f) := by
  unfold whenOpen
  split
  · exact hf s
  · exact (rowWork_waits s l).rest

/-! ### The residency directory (R203, R204) -/

theorem rowWork_dirPut (e : Place) (g i v : Nat) : rowWork s (dirPut s e g i v) := rowWork_wrNow ..
theorem rowWork_dirInsert (t : Table) (r v : Nat) : rowWork s (dirInsert s t r v) := rowWork_dirPut ..

theorem rowWork_dirMod (t : Table) (r : Nat) (f : Nat → Nat) : rowWork s (dirMod s t r f) := by
  unfold dirMod
  split
  · exact .refl s
  · exact rowWork_dirPut ..

theorem rowWork_dirState (t : Table) (r x : Nat) : rowWork s (dirState s t r x) := rowWork_dirMod ..
theorem rowWork_setMark (t : Table) (r step : Nat) : rowWork s (setMark s t r step) := rowWork_dirMod ..

theorem rowWork_dirShift (t : Table) (g hole n i : Nat) : rowWork s (dirShift s t g hole n i) := by
  induction n generalizing s hole i with
  | zero => exact rowWork_dirPut ..
  | succ n ih =>
    unfold dirShift
    dsimp only
    split
    · exact rowWork_dirPut ..
    · split
      · exact ih ..
      · exact (rowWork_dirPut ..).trans (ih ..)

end Pieces

/-- A table without a row in one of its slots. -/
def Table.without (t : Table) (r slot : Nat) : Table :=
  { t with
    usedPool := t.usedPool.filter (· != slot), usedRes := t.usedRes.filter fun j => j + t.pl.pslots != slot
    evicting := t.evicting.filter (· != r), promoting := t.promoting.filter (·.1 != r) }

/-- The slot is free after that. -/
theorem Table.free_without (t : Table) (r slot : Nat) :
    slot ∉ (t.without r slot).usedPool ∧ ∀ k ∈ (t.without r slot).usedRes, k + t.pl.pslots ≠ slot := by
  simp [Table.without]

section Directory

variable {s : State} {p : Part} {tid r : Nat} {t : Table} {iv : Nat × Nat}

/-- A row that the directory holds is removed, its slot free; of the tables that one changes. -/
theorem dirRemove_eq (ht : getTbl s p tid = some t) (hf : dirFind s t r = some iv) :
    ∃ u, rowWork s u ∧ dirRemove s p tid r = putTbl u p tid (t.without r (deSlot iv.2)) :=
  ⟨_, rowWork_dirShift .., by simp only [dirRemove, ht, hf]; rfl⟩

theorem tierWork_dirRemove (s : State) (p : Part) (tid r : Nat) : tierWork s (dirRemove s p tid r) := by
  cases ht : getTbl s p tid with
  | none => rw [dirRemove, ht]; exact .refl s
  | some t =>
    cases hf : dirFind s t r with
    | none => simp only [dirRemove, ht, hf]; exact .refl s
    | some iv =>
      obtain ⟨u, hu, heq⟩ := dirRemove_eq ht hf
      rw [heq]
      exact hu.rest.trans (tierWork_putTbl ..)

theorem dirMod_eq (hf : dirFind s t r = some iv) (f : Nat → Nat) : dirMod s t r f = dirPut s t.pl (t.desc.eng r) iv.1 (f iv.2) := by
  simp only [dirMod, hf]

/-- The probe reads memory and of its table the descriptor, the placement and the promotions. -/
theorem dirFind_congr {s t : State} {v u : Table} (hm : t.mem = s.mem) (hd : u.desc = v.desc) (hp : u.place = v.place)
    (hpr : u.promoting = v.promoting) (r : Nat) : dirFind t u r = dirFind s v r := by
  have hpl : u.pl = v.pl := congrArg (·.getD {}) hp
  have hget : ∀ g i, dirGet t v.pl g i = dirGet s v.pl g i := fun g i => by rw [dirGet, hm, dirGet]
  have hslot : ∀ x, slotAddr u x = slotAddr v x := fun x => by simp only [slotAddr, hd, hpl]
  have hmatch : ∀ x, dirMatch t u r x = dirMatch s v r x := fun x => by
    unfold dirMatch
    dsimp only
    rw [hslot, hm, hd, hpr]
  have hprobe : ∀ n i, dirProbe t u r n i = dirProbe s v r n i := fun n => by
    induction n with
    | zero => exact fun _ => rfl
    | succ n ih => intro i; simp only [dirProbe, hpl, hd, hget, hmatch, ih]
  simp only [dirFind, hprobe, hpl]

theorem dirFind_mem {s t : State} (h : t.mem = s.mem) (v : Table) (r : Nat) : dirFind t v r = dirFind s v r := dirFind_congr h rfl rfl rfl r

/-- What the probe finds is an entry of the directory. -/
theorem exists_dirGet_of_dirFind (hf : dirFind s t r = some iv) : ∃ i, iv.2 = dirGet s t.pl (t.desc.eng r) i := by
  have hprobe : ∀ n i, dirProbe s t r n i = some iv → ∃ i, iv.2 = dirGet s t.pl (t.desc.eng r) i := fun n => by
    induction n with
    | zero => exact fun _ h => by cases h
    | succ n ih =>
      intro i h
      simp only [dirProbe] at h
      split_ifs at h
      · exact ⟨i, by cases h; rfl⟩
      · exact ih _ h
  exact hprobe _ _ hf

/-- A listed resident row is in the directory, with its slot (R203). -/
theorem dirFind_of_resident {g : Nat} {x : Nat × Nat × Nat × List Byte} (h : x ∈ residents s t g) :
    ∃ iv, dirFind s t x.1 = some iv ∧ deSlot iv.2 = x.2.1 := by
  obtain ⟨a, -, ha⟩ := List.mem_filterMap.1 h
  dsimp only at ha
  split at ha
  · next iv hf =>
    split at ha
    · next hs => cases ha; exact ⟨iv, hf, hs.1⟩
    · cases ha
  · cases ha

end Directory

/-- The coldest of a list is of the list. -/
theorem mem_of_coldest {l : List (Nat × Nat × Nat × List Byte)} {x : Nat × Nat × Nat × List Byte} (h : coldest l = some x) : x ∈ l := by
  have hall : ∀ (l : List (Nat × Nat × Nat × List Byte)) acc, l.foldl (fun acc x => match acc with
      | none => some x
      | some y => if hHeat x.2.2.2 < hHeat y.2.2.2 then some x else acc) acc = some x → x ∈ l ∨ acc = some x := fun l => by
    induction l with
    | nil => exact fun _ h => .inr h
    | cons a l ih =>
      intro acc h
      rcases ih _ h with hl | hacc
      · exact .inl (List.mem_cons_of_mem a hl)
      · dsimp only at hacc
        split at hacc
        · cases hacc; exact .inl List.mem_cons_self
        · split_ifs at hacc
          · cases hacc; exact .inl List.mem_cons_self
          · exact .inr hacc
  exact (hall l none h).resolve_right nofun

/-! ### Writebacks and evictions (R212, R213, R217, R218) -/

theorem le_gatherPages (s : State) (p : Part) (t : Table) (n lp : Nat) : lp ≤ gatherPages s p t n lp := by
  induction n generalizing lp with
  | zero => exact le_rfl
  | succ n ih =>
    unfold gatherPages
    dsimp only
    split
    · exact (Nat.le_succ lp).trans (ih _)
    · exact le_rfl

/-- A writeback of a row hands a group of pages to the translation layer, the first page of the row's home among them. -/
theorem writebackRow_handed {s : State} {p : Part} {tid : Nat} {t : Table} (ht : getTbl s p tid = some t) (row : Nat) (urgent : Bool) :
    ∃ u wb, rowWork s u ∧ writebackRow s p tid row urgent = putTbl u p tid { t with wbs := t.wbs ++ [wb] } ∧ wb.urgent = urgent
      ∧ (homeAddr t (lidxOf s p) row - t3Base) / 16384 ∈ wb.pages := by
  have heq : ∃ u wb, rowWork s u ∧ writebackRow s p tid row urgent = modTbl u p tid (fun t => { t with wbs := t.wbs ++ [wb] })
      ∧ wb.urgent = urgent ∧ (homeAddr t (lidxOf s p) row - t3Base) / 16384 ∈ wb.pages := by
    refine ⟨_, _, ?_, by rw [writebackRow, ht], rfl, ?_⟩
    · refine (rowWork_countRec s p (t.desc.eng row)).trans (.trans ?_ (rowWork_tblCount ..))
      refine (rowWork.foldl (fun t _ => ?_) _ _).trans ((rowWork.foldl (fun t _ => ?_) _ _).trans (.foldl (fun t _ => ?_) _ _))
      · exact rowWork_chargeRead ..
      · exact rowWork_chargeRead ..
      · exact (rowWork_chargeWrite ..).trans (rowWork_recWrite ..)
    · have hle := le_gatherPages s p t 512 ((homeAddr t (lidxOf s p) row - t3Base) / 16384)
      exact List.mem_map.2 ⟨0, List.mem_range.2 (by omega), Nat.zero_add _⟩
  obtain ⟨u, wb, hu, hwb, hurgent, hpage⟩ := heq
  refine ⟨u, wb, hu, ?_, hurgent, hpage⟩
  rw [hwb, modTbl, hu.getTbl, ht]

theorem tierWork_writebackRow (s : State) (p : Part) (tid row : Nat) (urgent : Bool) : tierWork s (writebackRow s p tid row urgent) := by
  cases ht : getTbl s p tid with
  | none => rw [writebackRow, ht]; exact .refl s
  | some t =>
    obtain ⟨u, wb, hu, heq, -⟩ := writebackRow_handed ht row urgent
    rw [heq]
    exact hu.rest.trans (tierWork_putTbl ..)

theorem tierWork_evictClean (s : State) (p : Part) (tid r : Nat) : tierWork s (evictClean s p tid r) :=
  (tierWork_dirRemove ..).trans (rowWork_tblCount ..).rest

theorem tierWork_drizzleEvict (s : State) (p : Part) (tid g : Nat) : tierWork s (drizzleEvict s p tid g) := by
  unfold drizzleEvict
  split
  · exact .refl s
  · split
    · exact .refl s
    · dsimp only
      split
      · exact (tierWork_putTbl s ..).trans (tierWork_evictClean ..)
      · split
        · split
          · exact (tierWork_putTbl s ..).trans (tierWork_whenOpen _ p (fun s => tierWork_writebackRow s p ..) _)
          · exact tierWork_putTbl s ..
        · exact tierWork_putTbl s ..

/-! ### Promotions (R207, R210, R215) -/

theorem tierWork_promoteInto (s : State) (p : Part) (tid r slot : Nat) (mark : Option Nat) : tierWork s (promoteInto s p tid r slot mark) := by
  unfold promoteInto
  split
  · exact .refl s
  · exact (tierWork_putTbl ..).trans (rowWork_dirInsert ..).rest

theorem tierWork_promoteStore (s : State) (p : Part) (tid r : Nat) : tierWork s (promoteStore s p tid r).1 := by
  unfold promoteStore
  split
  · exact .refl s
  · split
    · exact .refl s
    · split
      · exact (rowWork_tblCount ..).rest.trans (tierWork_dirRemove ..)
      · refine .trans ?_ ((tierWork_modTbl ..).trans (rowWork_tblCount ..).rest)
        exact ((rowWork_chargeWrite ..).trans ((rowWork_recWrite ..).trans (rowWork_dirState ..))).rest

end Sys2Proof.Machine
end

section
/-! PROOFS. The engines of a tiered table: Drizzle, writebacks, decay sweeps and merges (R206, R213, R215 to R221, R230, R231, R233). -/

namespace Sys2Proof.Machine

/-- The accesses of a writeback depend on memory and on the job's place among the modules. -/
theorem writebackSpans_congr {s t : State} (hm : t.mem = s.mem) (hj : t.jobs = s.jobs) (p : Part) (v : Table) (r : Nat) :
    writebackSpans t p v r = writebackSpans s p v r := by
  simp only [writebackSpans, residentSlot, dirFind_mem hm, lidxOf, getJob_congr hj]

/-! ### One window of the clock hand (R213, R216) -/

/-- A table whose clock hand has moved on one window in a segment. -/
def Table.handed (t : Table) (g : Nat) : Table :=
  { t with hand := setNth t.hand g ((nth 0 t.hand g + 1) % Nat.max 1 (ceilDiv (t.pl.pslots / 16) 64)) }

/-- The evictable rows of reserve slots of a segment. -/
def reserveCands (s : State) (p : Part) (t : Table) (g : Nat) : List (Nat × Nat × Nat × List Byte) :=
  (evictable s p t (residents s t g)).filter fun x => decide (t.pl.pslots ≤ x.2.1)

/-- The rows that a window of the hand looks at: those of reserve slots, or where there is none those of the window's slots. -/
def windowCands (s : State) (p : Part) (t : Table) (g : Nat) : List (Nat × Nat × Nat × List Byte) :=
  if (reserveCands s p t g).isEmpty then
    (evictable s p t (residents s t g)).filter fun x =>
      decide (x.2.1 < t.pl.pslots ∧ x.2.1 / 16 / 64 = nth 0 t.hand g % Nat.max 1 (ceilDiv (t.pl.pslots / 16) 64))
  else reserveCands s p t g

section Window

variable {s : State} {p : Part} {tid g : Nat} {t : Table}

theorem mem_residents_of_windowCands {x : Nat × Nat × Nat × List Byte} (h : x ∈ windowCands s p t g) : x ∈ residents s t g := by
  unfold windowCands at h
  split at h
  · exact List.mem_of_mem_filter (List.mem_of_mem_filter h)
  · exact List.mem_of_mem_filter (List.mem_of_mem_filter h)

variable (ht : getTbl s p tid = some t) (hbelow : belowHigh t g = true)
include ht hbelow

/-- A window does one of three things with the hand moved on: the coldest settled row goes, the coldest dirty one is written
back, or nothing more. -/
theorem drizzleEvict_eq :
    drizzleEvict s p tid g = match coldest ((windowCands s p t g).filter (settled t)) with
      | some x => evictClean (putTbl s p tid (t.handed g)) p tid x.1
      | none => match coldest ((windowCands s p t g).filter fun x => hDirty x.2.2.2) with
        | some x => if belowLow t g || !(reserveCands s p t g).isEmpty || routineOk s then
            whenOpen (putTbl s p tid (t.handed g)) p (writebackSpans s p t x.1) fun v =>
              writebackRow v p tid x.1 (belowLow t g || !(reserveCands s p t g).isEmpty)
          else putTbl s p tid (t.handed g)
        | none => putTbl s p tid (t.handed g) := by
  have hspans : ∀ r, writebackSpans (putTbl s p tid (t.handed g)) p t r = writebackSpans s p t r :=
    writebackSpans_congr (s := s) (t := putTbl s p tid (t.handed g)) rfl rfl p t
  simp only [← hspans]
  simp only [drizzleEvict, ht, hbelow, Bool.not_true, Bool.false_eq_true, if_false]
  rfl

/-- What a window leaves of its table. -/
theorem drizzleEvict_effect :
    ∃ u, getTbl (drizzleEvict s p tid g) p tid = some u ∧ u.hand = (t.handed g).hand
      ∧ (∀ x, coldest ((windowCands s p t g).filter (settled t)) = some x → u.wbs = t.wbs ∧ x.2.1 ∉ u.usedPool
          ∧ ∀ k ∈ u.usedRes, k + t.pl.pslots ≠ x.2.1)
      ∧ (∀ x, coldest ((windowCands s p t g).filter (settled t)) = none →
          coldest ((windowCands s p t g).filter fun x => hDirty x.2.2.2) = some x →
          (belowLow t g || !(reserveCands s p t g).isEmpty || routineOk s) = true → allOpen s p (writebackSpans s p t x.1) = true →
          u.wbs.length = t.wbs.length + 1) := by
  have hput := getTbl_putTbl_same s p tid (t.handed g)
  rw [drizzleEvict_eq ht hbelow]
  cases hclean : coldest ((windowCands s p t g).filter (settled t)) with
  | some x =>
    obtain ⟨iv, hf, hslot⟩ := dirFind_of_resident (mem_residents_of_windowCands (List.mem_of_mem_filter (mem_of_coldest hclean)))
    obtain ⟨u, -, heq⟩ := dirRemove_eq (iv := iv) hput
      ((dirFind_congr (s := s) (t := putTbl s p tid (t.handed g)) (v := t) (u := t.handed g) rfl rfl rfl rfl x.1).trans hf)
    have hget : getTbl (evictClean (putTbl s p tid (t.handed g)) p tid x.1) p tid = some ((t.handed g).without x.1 x.2.1) := by
      rw [evictClean, (rowWork_tblCount ..).getTbl, heq, getTbl_putTbl_same, hslot]
    refine ⟨_, hget, rfl, ?_, nofun⟩
    rintro _ ⟨⟩
    exact ⟨rfl, (t.handed g).free_without x.1 x.2.1⟩
  | none =>
    cases hdirty : coldest ((windowCands s p t g).filter fun x => hDirty x.2.2.2) with
    | none => exact ⟨_, hput, rfl, nofun, fun _ _ => nofun⟩
    | some x =>
      dsimp only
      by_cases hdue : (belowLow t g || !(reserveCands s p t g).isEmpty || routineOk s) = true
      · rw [if_pos hdue, whenOpen]
        by_cases hopen : allOpen (putTbl s p tid (t.handed g)) p (writebackSpans s p t x.1) = true
        · obtain ⟨u, wb, -, heq, -⟩ := writebackRow_handed hput x.1 (belowLow t g || !(reserveCands s p t g).isEmpty)
          rw [if_pos hopen, heq]
          exact ⟨_, getTbl_putTbl_same .., rfl, nofun, fun _ _ _ _ _ => by simp [Table.handed]⟩
        · rw [if_neg hopen]
          refine ⟨_, ((rowWork_waits ..).getTbl p tid).trans hput, rfl, nofun, ?_⟩
          rintro _ - ⟨⟩ - h
          exact absurd h hopen
      · rw [if_neg hdue]
        exact ⟨_, hput, rfl, nofun, fun _ _ _ h => absurd h hdue⟩

end Window

/-! ### The warm walk (R215) -/

/-- The places of the warm walks of a table. -/
def warmOf (p : Part) (tid : Nat) (s : State) : Option (List Nat) := (getTbl s p tid).map Table.warm

theorem warmOf_rowWork {s t : State} {p : Part} {tid : Nat} (h : rowWork s t) : warmOf p tid t = warmOf p tid s := by
  rw [warmOf, h.getTbl, warmOf]

theorem warmOf_modTbl (s : State) (p : Part) (tid : Nat) {f : Table → Table} (hf : ∀ t, (f t).warm = t.warm) :
    warmOf p tid (modTbl s p tid f) = warmOf p tid s := by
  rw [warmOf, getTbl_modTbl_same, Option.map_map, warmOf]
  exact congrArg (fun g => Option.map g (getTbl s p tid)) (funext hf)

theorem warm_useSlot (t : Table) (x : Nat) : (useSlot t x).warm = t.warm := by
  unfold useSlot
  split <;> rfl

/-- Promotions leave the walk where it stands. -/
theorem warmOf_promoteInto (s : State) (p : Part) (tid r slot : Nat) (mark : Option Nat) :
    warmOf p tid (promoteInto s p tid r slot mark) = warmOf p tid s := by
  unfold promoteInto
  split
  · rfl
  · next t ht =>
    refine (warmOf_rowWork (rowWork_dirInsert ..)).trans ?_
    rw [warmOf, getTbl_putTbl_same, warmOf, ht]
    exact congrArg some (warm_useSlot ..)

theorem warmOf_dirRemove (s : State) (p : Part) (tid r : Nat) : warmOf p tid (dirRemove s p tid r) = warmOf p tid s := by
  cases ht : getTbl s p tid with
  | none => rw [dirRemove, ht]
  | some t =>
    cases hf : dirFind s t r with
    | none => simp only [dirRemove, ht, hf]
    | some iv =>
      obtain ⟨u, -, heq⟩ := dirRemove_eq ht hf
      rw [heq, warmOf, getTbl_putTbl_same, warmOf, ht]
      rfl

theorem warmOf_promoteStore (s : State) (p : Part) (tid r : Nat) : warmOf p tid (promoteStore s p tid r).1 = warmOf p tid s := by
  unfold promoteStore
  split
  · rfl
  · split
    · rfl
    · split
      · exact (warmOf_dirRemove ..).trans (warmOf_rowWork (rowWork_tblCount ..))
      · refine (warmOf_rowWork (rowWork_tblCount ..)).trans
          ((warmOf_modTbl (f := fun t => { t with promoting := t.promoting.filter (·.1 != r) }) _ p tid fun _ => rfl).trans
            (warmOf_rowWork ?_))
        exact (rowWork_chargeWrite ..).trans ((rowWork_recWrite ..).trans (rowWork_dirState ..))

theorem warmOne_effect (s : State) (p : Part) (tid g r : Nat) :
    tierWork s (warmOne s p tid g r) ∧ warmOf p tid (warmOne s p tid g r) = warmOf p tid s := by
  unfold warmOne
  split
  · exact ⟨.refl s, rfl⟩
  · split
    · split
      · exact ⟨(tierWork_promoteInto ..).trans (tierWork_promoteStore ..), (warmOf_promoteStore ..).trans (warmOf_promoteInto ..)⟩
      · exact ⟨.refl s, rfl⟩
    · exact ⟨.refl s, rfl⟩

/-- Whether a row is hot enough depends on its table only in its descriptor, placement, map, storage and promotions. -/
theorem warmRow_warm (s : State) (p : Part) (tid : Nat) (t u : Table) (w : List Nat) (me : Nat) :
    warmRow (putTbl s p tid u) { t with warm := w } me = warmRow s t me := by
  funext r
  have hf : dirFind (putTbl s p tid u) { t with warm := w } r = dirFind s t r :=
    dirFind_congr (s := s) (t := putTbl s p tid u) (v := t) (u := { t with warm := w }) rfl rfl rfl rfl r
  unfold warmRow
  rw [hf]
  rfl

/-- The home pages of a segment's rows, ascending. -/
def warmPages (t : Table) (me g : Nat) : List Nat :=
  sortBy id (((engineRows t me g).map fun r => (homeAddr t me r - t3Base) / 16384).foldl (fun l x => if l.contains x then l else l ++ [x]) [])

/-- The rows of a segment whose homes begin in a page. -/
def warmRows (t : Table) (me g lp : Nat) : List Nat := (engineRows t me g).filter fun r => (homeAddr t me r - t3Base) / 16384 == lp

section Warm

variable {s : State} {p : Part} {tid g : Nat} {t : Table} (ht : getTbl s p tid = some t)
include ht

theorem warmPromote_end (h : (warmPages t (lidxOf s p) g)[nth 0 t.warm g]? = none) :
    warmPromote s p tid g = putTbl s p tid { t with warm := setNth t.warm g 0 } := by
  unfold warmPages at h
  simp only [warmPromote, ht, h]

theorem warmPromote_full {lp : Nat} (h : (warmPages t (lidxOf s p) g)[nth 0 t.warm g]? = some lp) (hroom : warmRoom t g = false) :
    warmPromote s p tid g = s := by
  unfold warmPages at h
  simp only [warmPromote, ht, h, hroom]
  rfl

/-- With room, the hot rows of the page are promoted; the walk stays while a hot one is left. -/
theorem warmPromote_page {lp : Nat} (h : (warmPages t (lidxOf s p) g)[nth 0 t.warm g]? = some lp) (hroom : warmRoom t g = true) :
    ∃ u, getTbl (warmPromote s p tid g) p tid = some u ∧ tierWork s (warmPromote s p tid g)
      ∧ u.warm = if (warmRows t (lidxOf s p) g lp).any (warmRow (warmPromote s p tid g) u (lidxOf s p)) then t.warm
          else setNth t.warm g ((nth 0 t.warm g + 1) % Nat.max 1 (warmPages t (lidxOf s p) g).length) := by
  have heq : ∃ v, tierWork s v ∧ warmOf p tid v = some t.warm ∧ warmPromote s p tid g = modTbl v p tid fun u =>
      { u with warm := if (warmRows t (lidxOf s p) g lp).any (warmRow v u (lidxOf s p)) then u.warm
          else setNth u.warm g ((nth 0 t.warm g + 1) % Nat.max 1 (warmPages t (lidxOf s p) g).length) } := by
    unfold warmPages at h
    simp only [warmPromote, ht, h, hroom, Bool.not_true, Bool.false_eq_true, if_false]
    refine ⟨_, ?work, ?walk, congrArg (modTbl _ p tid) (funext fun u => ?_)⟩
    case work =>
      exact (rowWork.foldl (fun v x => rowWork_chargeRead ..) _ _).rest.trans (.foldl (fun v r => (warmOne_effect v p tid g r).1) _ _)
    case walk =>
      refine (foldl_field (warmOf p tid) _ (fun v r => (warmOne_effect v p tid g r).2) _ _).trans ?_
      rw [warmOf_rowWork (rowWork.foldl (fun v x => rowWork_chargeRead ..) _ _), warmOf, ht]
      rfl
    · split
      · next hany => rw [warmRows, if_pos hany]
      · next hany => rw [warmRows, if_neg hany]; rfl
  obtain ⟨v, hv, hwarm, heq⟩ := heq
  obtain ⟨u, hu, huw⟩ := Option.map_eq_some_iff.1 hwarm
  rw [heq, modTbl, hu]
  refine ⟨_, getTbl_putTbl_same .., hv.trans (tierWork_putTbl ..), ?_⟩
  rw [warmRow_warm, huw]

end Warm

/-! ### Durable writebacks (R217, R230) -/

/-- The state without what page programs write: the translation layer, wear, and what events write. -/
def pageless (s : State) : State := { eventless s with flash := {}, wear := {} }

/-- Page programs that spend `n` credits leave the rest, memory outside the rings' shadows among it. -/
structure pageWork (n : Nat) (s t : State) : Prop where
  rest : pageless t = pageless s
  credit : t.wear.c = s.wear.c - n
  shadows : shadowsKept s t

theorem pageWork.trans {m n : Nat} {s t u : State} (h : pageWork m s t) (k : pageWork n t u) : pageWork (m + n) s u := by
  refine ⟨k.rest.trans h.rest, ?_, h.shadows.trans k.shadows⟩
  rw [k.credit, h.credit, Nat.cast_add, Int.sub_sub]

/-- A page program spends one credit; an urgent one that is the hour's first without credit raises an event. -/
theorem spendPage_cases (s : State) (urgent : Option Nat) :
    ∃ w, w.c = s.wear.c - 1 ∧ (spendPage s urgent = { s with wear := w } ∨ ∃ e, spendPage s urgent = raiseE { s with wear := w } e) := by
  unfold spendPage
  dsimp only
  split
  · split
    · exact ⟨_, rfl, .inr ⟨_, rfl⟩⟩
    · exact ⟨_, rfl, .inl rfl⟩
  · exact ⟨_, rfl, .inl rfl⟩

theorem pageWork_flash (s : State) (f : Flash) : pageWork 0 s { s with flash := f } := ⟨rfl, (Int.sub_zero _).symm, .of_eq rfl rfl⟩

theorem pageWork_spendPage (s : State) (urgent : Option Nat) : pageWork 1 s (spendPage s urgent) := by
  obtain ⟨w, hw, heq | ⟨e, heq⟩⟩ := spendPage_cases s urgent
  · rw [heq]
    exact ⟨rfl, hw, .of_eq rfl rfl⟩
  · have hkept : shadowsKept s { s with wear := w } := .of_eq rfl rfl
    have hrest := (eventFrame_raiseE { s with wear := w } e).eventless_eq
    rw [heq]
    exact ⟨(congrArg (fun u : State => { u with flash := {}, wear := {} }) hrest :), (congrArg (fun u : State => u.wear.c) hrest :).trans hw,
      hkept.trans (shadowsKept_raiseE ..)⟩

theorem pageWork_programPages (s : State) (urgent : Option Nat) (lps : List Nat) : pageWork lps.length s (programPages s urgent lps) := by
  induction lps generalizing s with
  | nil => exact ⟨rfl, (Int.sub_zero _).symm, .refl s⟩
  | cons lp l ih =>
    rw [List.length_cons, Nat.add_comm, ← Nat.zero_add 1]
    exact ((pageWork_flash s (programPage s.flash (stoppedFlash s) lp)).trans (pageWork_spendPage _ urgent)).trans (ih _)

section Durable

variable {s : State} {p : Part} {tid : Nat} {v : Table}

theorem finishEvictions_none (ht : getTbl s p tid = some v) (h : v.evicting = []) (rows : List Nat) :
    finishEvictions s p tid rows = s := by
  refine List.foldl_fixed' (fun r => ?_) rows
  simp only [ht, h]
  split <;> rfl

theorem flushProgress_none (ht : getTbl s p tid = some v) (h : v.flushes = []) (rows : List Nat) :
    flushProgress s p tid rows = putTbl s p tid v := by
  have hv : { v with flushes := [] } = v := by rw [← h]
  simp only [flushProgress, ht, h, List.map_nil, List.filter_nil, List.foldl_nil, hv]

/-- The state with the pages of a writeback in T3. -/
def pagesWritten (s : State) (l : List (Nat × List Byte)) : State :=
  l.foldl (fun s x => { s with mem := s.mem.write (t3Base + 16384 * x.1) x.2 }) s

theorem pagesWritten_eq (s : State) (l : List (Nat × List Byte)) : pagesWritten s l = { s with mem := (pagesWritten s l).mem } := by
  induction l generalizing s with
  | nil => rfl
  | cons x l ih => exact ih _

/-- The state in which the oldest writeback is programmed: off its table's list, charged, its pages in T3. -/
def programming (s : State) (p : Part) (tid : Nat) (v : Table) (wb : Writeback) (rest : List Writeback) : State :=
  pagesWritten (winAdd (charge (putTbl s p tid { v with wbs := rest }) p 3 (16384 * wb.pages.length) (blkRow 0)) 57 (16384 * wb.pages.length))
    wb.bytes

theorem charged_programming (s : State) (p : Part) (tid : Nat) (v : Table) (wb : Writeback) (rest : List Writeback) :
    charged { putTbl s p tid { v with wbs := rest } with mem := (programming s p tid v wb rest).mem } (programming s p tid v wb rest) := by
  have hu : charged (putTbl s p tid { v with wbs := rest })
      (winAdd (charge (putTbl s p tid { v with wbs := rest }) p 3 (16384 * wb.pages.length) (blkRow 0)) 57 (16384 * wb.pages.length)) :=
    (charged_charge ..).trans (.of_counted (counted_winAdd ..))
  unfold programming
  generalize winAdd (charge (putTbl s p tid { v with wbs := rest }) p 3 (16384 * wb.pages.length) (blkRow 0)) 57 (16384 * wb.pages.length) = u at hu ⊢
  rw [pagesWritten_eq u]
  generalize (pagesWritten u wb.bytes).mem = m
  exact ⟨(congrArg (fun w : State => { w with mem := m }) hu.rest :), hu.off⟩

variable {wb : Writeback} {rest : List Writeback} (ht : getTbl s p tid = some v) (hwbs : v.wbs = wb :: rest) (hev : v.evicting = [])
  (hfl : v.flushes = [])
include ht hwbs hev hfl

/-- The oldest writeback becomes durable: its pages stand in T3 and have spent their credit, and nothing of the job, the array or
the vector engine is another. -/
theorem durable_effect :
    ∃ t, durable s p tid = t ∧ getTbl t p tid = some { v with wbs := rest } ∧ t.arr = s.arr ∧ t.vec = s.vec ∧ t.jobs = s.jobs
      ∧ t.wear.c = s.wear.c - wb.pages.length
      ∧ ∀ lp b, wb.bytes = [(lp, b)] → (∀ i, i < b.length → shadowed s (t3Base + 16384 * lp + i) = false) →
          t.mem.read (t3Base + 16384 * lp) b.length = b := by
  have hbase := charged_programming s p tid v wb rest
  have hpages := pageWork_programPages (programming s p tid v wb rest) (if wb.urgent then some (tkey p tid) else none) wb.pages
  have heq : durable s p tid = flushProgress (finishEvictions (healPages (programPages (programming s p tid v wb rest)
      (if wb.urgent then some (tkey p tid) else none) wb.pages) wb.pages) p tid wb.rows) p tid wb.rows := by
    simp only [durable, ht, hwbs]
    rfl
  generalize programPages (programming s p tid v wb rest) (if wb.urgent then some (tkey p tid) else none) wb.pages = t at hpages heq
  have hget : getTbl (healPages t wb.pages) p tid = some { v with wbs := rest } := by
    have htables : t.tables = (putTbl s p tid { v with wbs := rest }).tables :=
      (congrArg State.tables hpages.rest :).trans hbase.tables
    exact (getTbl_congr htables p tid).trans (getTbl_putTbl_same ..)
  rw [finishEvictions_none hget hev, flushProgress_none hget hfl] at heq
  refine ⟨_, heq, getTbl_putTbl_same .., ?arr, ?vec, ?jobs, ?credit, fun lp b hbytes hout => ?read⟩
  case arr => exact (congrArg State.arr hpages.rest :).trans hbase.arr
  case vec => exact (congrArg State.vec hpages.rest :).trans (congrArg State.vec hbase.rest :)
  case jobs => exact (congrArg State.jobs hpages.rest :).trans hbase.jobs
  case credit => exact hpages.credit.trans (congrArg (fun u : State => u.wear.c - (wb.pages.length : Int)) hbase.rest :)
  case read =>
    have hrings : (programming s p tid v wb rest).rings = s.rings := (congrArg State.rings hbase.rest :)
    have hmem : (programming s p tid v wb rest).mem.read (t3Base + 16384 * lp) b.length = b := by
      rw [programming, hbytes]
      exact Memory.read_write ..
    refine (Memory.read_congr fun x hx hlt => hpages.shadows.mem x ?_).trans hmem
    rw [shadowed, hrings, ← Nat.add_sub_cancel' hx]
    exact hout (x - (t3Base + 16384 * lp)) (by omega)

end Durable

/-! ### Decay sweeps (R206) -/

theorem rowWork_sweepSlot (s : State) (p : Part) (t : Table) (slot sh : Nat) : rowWork s (sweepSlot s p t slot sh) := by
  unfold sweepSlot
  extract_lets a blk u b r
  have hu : rowWork s u := rowWork_chargeRead ..
  split
  · exact hu
  · split
    · extract_lets w
      have hw : rowWork s w := by
        refine hu.trans ?_
        simp only [w]
        split
        · exact .refl _
        · exact (rowWork_chargeWrite ..).trans (rowWork_wrNow ..)
      split
      · exact hw
      · exact hw.trans (rowWork_dirMod ..)
    · exact hu

/-- A table whose oldest due sweep of a segment has run. -/
def Table.swept (t : Table) (g : Nat) (rest : List Nat) : Table :=
  { t with sweeps := t.sweeps.map fun y => if y.seg == g then { y with shifts := rest } else y }

/-- The oldest due sweep of a segment runs to its end. -/
theorem runSweep_eq {s : State} {p : Part} {tid g : Nat} {t : Table} {sh : Nat} {rest : List Nat} (ht : getTbl s p tid = some t)
    (hsh : t.shifts g = sh :: rest) : ∃ u, rowWork s u ∧ runSweep s p tid g = putTbl u p tid (t.swept g rest) := by
  have hwork : rowWork s ((segSlots t g).foldl (fun s x => sweepSlot s p t x sh) s) := .foldl (fun u x => rowWork_sweepSlot ..) _ _
  refine ⟨_, hwork, ?_⟩
  simp only [runSweep, ht, hsh, modTbl, hwork.getTbl]
  rfl

/-! ### Merges (R221) -/

/-- The home page of a row before a merge has moved it. -/
def mergePage (t : Table) (me r : Nat) : Nat := (t.desc.lbase + rowOff t me r - t3Base) / 16384

/-- The rows of a merge beyond one home page. -/
def Merge.beyond (m : Merge) (t : Table) (me lp : Nat) : List Nat := m.rows.filter fun r => mergePage t me r != lp

theorem trimRange_frame (s : State) (a n : Nat) :
    (trimRange s a n).arr = s.arr ∧ (trimRange s a n).vec = s.vec ∧ (trimRange s a n).tables = s.tables := by
  unfold trimRange
  dsimp only
  refine ⟨(foldl_field State.arr _ ?_ _ _).trans rfl, (foldl_field State.vec _ ?_ _ _).trans rfl,
    (foldl_field State.tables _ ?_ _ _).trans rfl⟩ <;>
    exact fun _ _ => rfl

section Merging

variable {s : State} {p : Part} {tid : Nat} {t : Table} {m : Merge} (ht : getTbl s p tid = some t) (hm : t.merge = some m)
include ht hm

/-- A merge waits behind the writebacks of its table. -/
theorem mergeRange_waits (hw : t.wbs ≠ []) : mergeRange s p tid = s := by
  obtain ⟨wb, rest, hw⟩ := List.exists_cons_of_ne_nil hw
  simp only [mergeRange, ht, hm, hw]

/-- One home page is merged: its rows are off the merge, the lowest page's among them. -/
theorem mergeRange_effect {r0 : Nat} (hw : t.wbs = []) (hr : (sortBy (mergePage t (lidxOf s p)) m.rows).head? = some r0) :
    ∃ u, getTbl (mergeRange s p tid) p tid = some u ∧ (mergeRange s p tid).arr = s.arr ∧ (mergeRange s p tid).vec = s.vec
      ∧ u.merge = if (m.beyond t (lidxOf s p) (mergePage t (lidxOf s p) r0)).isEmpty then none
          else some { m with rows := m.beyond t (lidxOf s p) (mergePage t (lidxOf s p) r0) } := by
  have heq : ∃ w a n, w.arr = s.arr ∧ w.vec = s.vec ∧ mergeRange s p tid =
      let left := m.beyond t (lidxOf s p) (mergePage t (lidxOf s p) r0)
      let v := putTbl w p tid { t with merge := if left.isEmpty then none else some { m with rows := left } }
      if left.isEmpty then trimRange v a n else v := by
    unfold mergePage at hr
    simp only [mergeRange, ht, hm, hw, hr]
    have hframe : ∀ v lps, rowWork s v → (programPages v none lps).arr = s.arr ∧ (programPages v none lps).vec = s.vec := fun v lps hv => by
      have hpages := pageWork_programPages v none lps
      obtain ⟨harr, hvec, -⟩ := hv.rest.frame p
      exact ⟨(congrArg State.arr hpages.rest :).trans harr, (congrArg State.vec hpages.rest :).trans hvec⟩
    refine ⟨_, _, _, (hframe _ _ ?_).1, (hframe _ _ ?_).2, rfl⟩
    all_goals
      refine .trans (.foldl (fun v r => ?_) _ s) ((rowWork_charge ..).trans (.of_counted (counted_winAdd ..)))
      exact (rowWork_countRec ..).trans ((rowWork_chargeRead ..).trans (rowWork_mem ..))
  obtain ⟨w, a, n, harr, hvec, heq⟩ := heq
  obtain ⟨tarr, tvec, ttables⟩ := trimRange_frame (putTbl w p tid { t with
    merge := if (m.beyond t (lidxOf s p) (mergePage t (lidxOf s p) r0)).isEmpty then none
      else some { m with rows := m.beyond t (lidxOf s p) (mergePage t (lidxOf s p) r0) } }) a n
  rw [heq]
  dsimp only
  split
  · next hleft =>
    simp only [hleft, if_true] at tarr tvec ttables
    exact ⟨_, (getTbl_congr ttables p tid).trans (getTbl_putTbl_same ..), tarr.trans harr, tvec.trans hvec, rfl⟩
  · exact ⟨_, getTbl_putTbl_same .., harr, hvec, rfl⟩

end Merging

theorem Merge.beyond_shorter {m : Merge} {t : Table} {me r0 : Nat} (h : r0 ∈ m.rows) :
    r0 ∉ m.beyond t me (mergePage t me r0) ∧ (m.beyond t me (mergePage t me r0)).length < m.rows.length := by
  refine ⟨by simp [Merge.beyond], List.length_filter_lt_length_iff_exists.2 ⟨r0, h, by simp⟩⟩

/-! ### The statement -/

section Background

variable {s : State} {p : Part} {tid : Nat} {v : Table} (ht : getTbl s p tid = some v)

theorem background_eq (hmst : s.pwr.mst = .active) (hperm : permuting s p tid = false) (f : State → State) : background s p tid f = f s := by
  simp [background, hmst, hperm]

include ht

/-- Drizzle's work at a share of 0 % (R233). -/
theorem drizzle_off (h : v.pl.dsh = 0) (f : State → State) : drizzle s p tid f = s := by
  simp [drizzle, ht, h]

theorem drizzle_eq (hmst : s.pwr.mst = .active) (h : v.pl.dsh ≠ 0) (hperm : permuting s p tid = false) (f : State → State) :
    drizzle s p tid f = f s := by
  simp only [drizzle, ht, if_neg h, background_eq hmst hperm]

/-- Drizzle's work that leaves the state as it is. -/
theorem drizzle_idle {f : State → State} (hf : f s = s) : drizzle s p tid f = s := by
  simp only [drizzle, ht, background, hf, ite_self]

theorem writebackDue_eq {row : Nat} (htier : v.desc.tier = 2) (hrow : row ∈ dirtyRows s v)
    (hdue : (urgentRow s v row || (routineOk s && v.pl.dsh != 0)) = true) (hopen : allOpen s p (writebackSpans s p v row) = true) :
    writebackDue s p tid row = writebackRow s p tid row (urgentRow s v row) := by
  have hgo : v.desc.tier = 2 ∧ (dirtyRows s v).contains row = true ∧ (urgentRow s v row = true ∨ routineOk s = true ∧ v.pl.dsh ≠ 0) := by
    simpa [htier, hrow] using hdue
  simp only [writebackDue, ht, if_pos hgo]
  exact if_pos hopen

end Background

theorem startMoves_none {s : State} {p : Part} (h : getJob s p = none) : startMoves s p = s := by
  simp only [startMoves, h]

/-- Settles O28: each engine by what it leaves of its table, which runs as `drizzle_eq` and `background_eq` say. -/
theorem tierEngines : Obligations.TierEngines := by
  unfold Obligations.TierEngines
  intro s p tid v hmst ht _
  have hrun := drizzle_eq ht hmst
  refine ⟨fun hoff e c hc => ?off, fun e hdsh hperm hbelow => ?evict, fun e hbelow => ?enough, fun e hdsh hperm hopen => ?warm,
    fun row htier hperm hrow hdue hopen => ?writeback, fun wb rest hwbs hopen hjob hev hfl => ?durable,
    fun e sh rest hdsh hperm hopen hsh => ?sweep, fun m hm hopen hw => ?waits, fun m r0 hdsh hperm hm hw hopen hr => ?merge⟩
  case off =>
    simp only [List.mem_cons, List.not_mem_nil, or_false] at hc
    rcases hc with rfl | rfl | rfl | rfl <;> exact congrArg Host.Outcome.next (drizzle_off ht hoff _)
  case evict =>
    obtain ⟨u, hu, heffect⟩ := drizzleEvict_effect ht hbelow
    exact ⟨_, u, congrArg Host.Outcome.next (hrun hdsh hperm _), hu, (tierWork_drizzleEvict ..).frame p, heffect⟩
  case enough =>
    have hidle : drizzleEvict s p tid.toNat e.toNat = s := by simp [drizzleEvict, ht, hbelow]
    exact congrArg Host.Outcome.next (drizzle_idle ht hidle)
  case warm =>
    have hexec : exec (.drizzleWarmPromote p tid e) s = .next (warmPromote s p tid.toNat e.toNat) :=
      congrArg Host.Outcome.next ((hrun hdsh hperm _).trans (if_pos hopen))
    cases hlp : (warmPages v (lidxOf s p) e.toNat)[nth 0 v.warm e.toNat]? with
    | none =>
      rw [warmPromote_end ht hlp] at hexec
      exact ⟨_, _, hexec, getTbl_putTbl_same .., (tierWork_putTbl ..).frame p, fun _ => rfl, fun lp h => absurd (hlp.symm.trans h) nofun,
        fun lp h => absurd (hlp.symm.trans h) nofun⟩
    | some lp =>
      have hsame : ∀ lp', (warmPages v (lidxOf s p) e.toNat)[nth 0 v.warm e.toNat]? = some lp' → lp' = lp := fun lp' h =>
        Option.some.inj (h.symm.trans hlp)
      cases hroom : warmRoom v e.toNat with
      | false =>
        rw [warmPromote_full ht hlp hroom] at hexec
        exact ⟨_, _, hexec, ht, (tierWork.refl s).frame p, fun h => absurd (hlp.symm.trans h) nofun, fun _ _ _ => rfl, fun _ _ => nofun⟩
      | true =>
        obtain ⟨u, hu, hwork, hwarm⟩ := warmPromote_page ht hlp hroom
        refine ⟨_, u, hexec, hu, hwork.frame p, fun h => absurd (hlp.symm.trans h) nofun, fun _ _ => nofun, fun lp' h _ => ?_⟩
        rw [hsame lp' h]
        exact hwarm
  case writeback =>
    obtain ⟨u, wb, hwork, heq, hurgent, hpage⟩ := writebackRow_handed ht row.toNat (urgentRow s v row.toNat)
    have hexec : exec (.writeback p tid row) s = .next (writebackRow s p tid.toNat row.toNat (urgentRow s v row.toNat)) :=
      congrArg Host.Outcome.next ((background_eq hmst hperm _).trans (writebackDue_eq ht htier hrow hdue hopen))
    rw [heq] at hexec
    exact ⟨_, _, wb, hexec, getTbl_putTbl_same .., (hwork.rest.trans (tierWork_putTbl ..)).frame p, rfl, hurgent, hpage⟩
  case durable =>
    obtain ⟨t, heq, hget, harr, hvec, hjobs, hcredit, hbytes⟩ := durable_effect ht hwbs hev hfl
    have hexec : exec (.writebackDurable p tid) s = .next (startMoves (durable s p tid.toNat) p) :=
      congrArg Host.Outcome.next ((if_pos hmst).trans (if_pos hopen))
    rw [heq, startMoves_none ((getJob_congr hjobs p).trans hjob)] at hexec
    exact ⟨t, _, hexec, hget, harr, hvec, rfl, hcredit, hbytes⟩
  case sweep =>
    obtain ⟨u, hwork, heq⟩ := runSweep_eq ht hsh
    have hexec : exec (.decaySweep p tid e) s = .next (runSweep s p tid.toNat e.toNat) :=
      congrArg Host.Outcome.next ((hrun hdsh hperm _).trans (if_pos hopen))
    rw [heq] at hexec
    exact ⟨_, _, hexec, getTbl_putTbl_same .., (hwork.rest.trans (tierWork_putTbl ..)).frame p, rfl⟩
  case waits =>
    exact congrArg Host.Outcome.next (drizzle_idle ht ((if_pos hopen).trans (mergeRange_waits ht hm hw)))
  case merge =>
    obtain ⟨u, hu, harr, hvec, hmerge⟩ := mergeRange_effect ht hm hw hr
    obtain ⟨hgone, hless⟩ := Merge.beyond_shorter (t := v) (me := lidxOf s p) ((perm_sortBy ..).mem_iff.1 (List.mem_of_mem_head? hr))
    refine ⟨_, u, congrArg Host.Outcome.next ((hrun hdsh hperm _).trans (if_pos hopen)), hu, harr, hvec, ?_⟩
    rw [hmerge]
    split
    · next hnone => split at hnone <;> trivial
    · next m' hsome =>
      split at hsome
      · cases hsome
      · cases hsome; exact ⟨rfl, hgone, hless⟩

end Sys2Proof.Machine
end

section
/-! PROOFS. Forecast hints and the promotions that they ask for (R206, R207, R209, R210). -/

namespace Sys2Proof.Machine

/-! ### Hints that arrive (R209) -/

/-- Whether an index entry names a row that the module owns in a tiered table. -/
def hintable (s : State) (p : Part) (me : Nat) (e : Nat × Nat) : Bool :=
  match getTbl s p e.1 with
  | some v => v.desc.tier == 2 && decide (e.2 < v.desc.rows) && decide (ownerOf v.map v.desc e.2 = me)
  | none => false

/-- The hint of an index entry for a step. -/
def hintOf (step : Nat) (e : Nat × Nat) : Hint := { tid := e.1, row := e.2, step := step }

/-- One entry of a message in time: its hint is queued where there is room, else dropped and counted. -/
def takeHint (p : Part) (me step : Nat) (s : State) (e : Nat × Nat) : State :=
  match getJob s p with
  | none => s
  | some j =>
    if hintable s p me e && decide (j.hints.length < 1048576) then modJob s p fun j => { j with hints := j.hints ++ [hintOf step e] }
    else tblCount s p e.1 6 1

section Arrive

variable {s : State} {p : Part} {j : Job} (hj : getJob s p = some j)
include hj

/-- A message of the epoch that is not of a sealed step takes its entries one by one. -/
theorem hintArrive_eq {m : RMsg} (hepoch : epochOk j m.epoch = true)
    (hd : (m.step + 65536 - nextStep s p % 65536) % 65536 < 32768) :
    hintArrive s p m = (idxEntries m.body m.n).foldl
      (takeHint p j.plan.lidx (nextStep s p + (m.step + 65536 - nextStep s p % 65536) % 65536)) s := by
  have hsealed : decide (32768 ≤ (m.step + 65536 - nextStep s p % 65536) % 65536) = false := decide_eq_false (by omega)
  simp only [hintArrive, hj, hepoch, hsealed, Bool.and_true, Bool.not_false]
  rfl

/-- The hints of a list of entries are queued in their order, as many as the queue has room for. -/
theorem takeHints_effect (me step : Nat) (l : List (Nat × Nat)) (hroom : j.hints.length + l.length ≤ 1048576) :
    onlyJobCtr s (l.foldl (takeHint p me step) s) p
      ∧ getJob (l.foldl (takeHint p me step) s) p = some { j with hints := j.hints ++ (l.filter (hintable s p me)).map (hintOf step) } := by
  induction l generalizing s j with
  | nil => exact ⟨⟨rfl, fun _ _ => rfl⟩, by simpa using hj⟩
  | cons e l ih =>
    rw [List.length_cons] at hroom
    have hgo : ∀ t k, onlyJobCtr s t p → t.tables = s.tables → getJob t p = some k → k.hints.length + l.length ≤ 1048576 →
        onlyJobCtr s (l.foldl (takeHint p me step) t) p ∧ getJob (l.foldl (takeHint p me step) t) p
          = some { k with hints := k.hints ++ (l.filter (hintable s p me)).map (hintOf step) } := by
      intro t k ⟨hrest, hothers⟩ htables hk hlen
      obtain ⟨⟨hrest', hothers'⟩, hjob⟩ := ih hk hlen
      have hsame : hintable t p me = hintable s p me := funext fun e => by simp only [hintable, getTbl_congr htables]
      refine ⟨⟨hrest'.trans (by rw [hrest]), fun q hq => (hothers' q hq).trans (hothers q hq)⟩, hsame ▸ hjob⟩
    rw [List.foldl_cons]
    cases hwant : hintable s p me e with
    | true =>
      have hstep : takeHint p me step s e = modJob s p fun j => { j with hints := j.hints ++ [hintOf step e] } := by
        simp only [takeHint, hj, hwant, Bool.true_and]
        exact if_pos (decide_eq_true (by omega))
      rw [hstep]
      have hk : getJob (modJob s p fun j => { j with hints := j.hints ++ [hintOf step e] }) p
          = some { j with hints := j.hints ++ [hintOf step e] } := by
        rw [getJob_modJob, if_pos rfl, hj]
        rfl
      have honly : onlyJobCtr s (modJob s p fun j => { j with hints := j.hints ++ [hintOf step e] }) p :=
        ⟨by simp only [modJob, hj], fun q hq => by rw [getJob_modJob, if_neg hq]⟩
      obtain ⟨h1, h2⟩ := hgo _ _ honly (modJob_tables ..) hk (by simp; omega)
      exact ⟨h1, h2.trans (by simp [hwant])⟩
    | false =>
      have hstep : takeHint p me step s e = tblCount s p e.1 6 1 := by
        simp only [takeHint, hj, hwant, Bool.false_and]
        rfl
      rw [hstep]
      obtain ⟨h1, h2⟩ := hgo (tblCount s p e.1 6 1) j ⟨rfl, fun _ _ => rfl⟩ rfl hj (by omega)
      exact ⟨h1, h2.trans (by simp [hwant])⟩

end Arrive

/-! ### Marks (R206) -/

/-- A byte string spells a number of its width. -/
theorem natOf_lt (l : List Byte) : natOf l < 2 ^ (8 * l.length) := by
  induction l with
  | nil => exact Nat.one_pos
  | cons b l ih =>
    have hb := b.isLt
    have hpow : 2 ^ (8 * (b :: l).length) = 256 * 2 ^ (8 * l.length) := by rw [List.length_cons, Nat.mul_add, Nat.pow_add]; omega
    rw [natOf, hpow]
    omega

/-- The mark that a hint leaves in an entry. -/
def marked (v step : Nat) : Nat := setBits 60 57 (setBits 61 61 v 1) (step % 16)

theorem marked_lt {v : Nat} (h : v < 2 ^ 64) (step : Nat) : marked v step < 2 ^ 64 := by
  simp only [marked, setBits, bits, Nat.reduceAdd, Nat.reduceSub]
  omega

section Mark

variable {s : State} {v : Table} {r : Nat} {iv : Nat × Nat} (hf : dirFind s v r = some iv)
  (ha : t0End ≤ dirAddr v.pl (v.desc.eng r) iv.1)
include hf ha

/-- Marking a row writes its entry alone. -/
theorem setMark_effect (step : Nat) :
    setMark s v r step = { s with
        mem := (setMark s v r step).mem, poison := (setMark s v r step).poison, spdErr := (setMark s v r step).spdErr }
      ∧ dirGet (setMark s v r step) v.pl (v.desc.eng r) iv.1 = marked iv.2 step
      ∧ ∀ a, a < dirAddr v.pl (v.desc.eng r) iv.1 ∨ dirAddr v.pl (v.desc.eng r) iv.1 + 8 ≤ a → (setMark s v r step).mem.get a = s.mem.get a := by
  obtain ⟨i, hi⟩ := exists_dirGet_of_dirFind hf
  have hlt : iv.2 < 2 ^ 64 := by
    rw [hi]
    have h := natOf_lt (s.mem.read (dirAddr v.pl (v.desc.eng r) i) 8)
    rwa [Memory.length_read] at h
  have hmark : marked iv.2 step < 2 ^ 64 := marked_lt hlt step
  have heq : setMark s v r step = wrNow s (dirAddr v.pl (v.desc.eng r) iv.1) (bytesOf 8 (marked iv.2 step)) := dirMod_eq hf _
  have hmem := wrNow_mem_of_device ha s (bytesOf 8 (marked iv.2 step))
  rw [heq]
  refine ⟨?_, ?_, fun a hout => ?_⟩
  · rw [wrNow_of_device ha]
    rfl
  · rw [dirGet, hmem]
    exact (Memory.readNat_writeNat ..).trans (Nat.mod_eq_of_lt hmark)
  · rw [hmem]
    exact Memory.get_write_outside _ _ _ _ (by rwa [length_bytesOf])

end Mark

/-! ### Hints served (R210) -/

theorem tierWork_setMark (s : State) (t : Table) (r step : Nat) : tierWork s (setMark s t r step) := (rowWork_setMark ..).rest

theorem tierWork_askDrizzle (s : State) (p : Part) (tid g n : Nat) : tierWork s (askDrizzle s p tid g n) := by
  induction n generalizing s with
  | zero => exact .refl s
  | succ n ih =>
    unfold askDrizzle
    split
    · exact .refl s
    · split
      · exact .refl s
      · exact (tierWork_drizzleEvict ..).trans (ih _)

theorem tierWork_serveHint (s : State) (p : Part) (h : Hint) : tierWork s (serveHint s p h).1 := by
  unfold serveHint
  split
  · exact .refl s
  · split
    · split
      · exact ((rowWork_dirState ..).trans (rowWork_setMark ..)).rest.trans (tierWork_modTbl ..)
      · exact tierWork_setMark ..
    · dsimp only
      split
      · exact tierWork_promoteInto ..
      · split
        · exact tierWork_askDrizzle ..
        · split
          · exact (tierWork_askDrizzle ..).trans (tierWork_promoteInto ..)
          · exact tierWork_askDrizzle ..

/-- A hint whose row is in the directory, or whose segment has a free slot, is served. -/
theorem serveHint_served {s : State} {p : Part} {h : Hint} {v : Table} (hv : getTbl s p h.tid = some v)
    (hslot : (dirFind s v h.row).isSome = true ∨ (freePoolSlot v (v.desc.eng h.row)).isSome = true) : (serveHint s p h).2 = true := by
  simp only [serveHint, hv]
  cases hf : dirFind s v h.row with
  | some iv => dsimp only; split <;> rfl
  | none =>
    rw [hf] at hslot
    obtain ⟨x, hx⟩ := Option.isSome_iff_exists.1 (hslot.resolve_left nofun)
    simp only [hx]

/-- The hint of a resident row, not under eviction, marks its entry. -/
theorem serveHint_resident {s : State} {p : Part} {h : Hint} {v : Table} {iv : Nat × Nat} (hv : getTbl s p h.tid = some v)
    (hf : dirFind s v h.row = some iv) (hst : deState iv.2 ≠ 3) : serveHint s p h = (setMark s v h.row h.step, true) := by
  simp only [serveHint, hv, hf, if_neg hst]

section Serve

variable {s : State} {p : Part} {j : Job} {h : Hint} (hj : getJob s p = some j) (hh : (sortBy (·.step) j.hints).head? = some h)
include hj hh

/-- A served hint leaves the queue; the others stay. -/
theorem hintServe_effect :
    ∃ k, getJob (hintServe s p) p = some k ∧ planFrame s (hintServe s p) p
      ∧ (((serveHint s p h).2 = true → k.hints = j.hints.erase h) ∧ ((serveHint s p h).2 = false → k.hints = j.hints)) := by
  have hwork := tierWork_serveHint s p h
  have hjob := (getJob_congr hwork.jobs p).trans hj
  simp only [hintServe, hj, hh]
  cases hserved : (serveHint s p h).2 with
  | true =>
    refine ⟨{ j with hints := j.hints.erase h }, ?_, (hwork.frame p).trans (aroundJob_modJob ..).frame, fun _ => rfl, nofun⟩
    simp only [if_true, getJob_modJob, hjob]
    rfl
  | false => exact ⟨j, hjob, hwork.frame p, nofun, fun _ => rfl⟩

theorem hintServe_resident {v : Table} {iv : Nat × Nat} (hv : getTbl s p h.tid = some v) (hf : dirFind s v h.row = some iv)
    (hst : deState iv.2 ≠ 3) :
    hintServe s p = modJob (setMark s v h.row h.step) p fun j => { j with hints := j.hints.erase h } := by
  simp only [hintServe, hj, hh, serveHint_resident hv hf hst, if_true]

end Serve

/-! ### Promotions (R207, R210) -/

/-- The tables' counters of a state (R484). -/
def tblCounts (s : State) : Tab TblCtr := s.isl.live.tbl

theorem tblCounts_raiseE (s : State) (e : Event) : tblCounts (raiseE s e) = tblCounts s :=
  (congrArg (fun u : State => u.isl.live.tbl) (eventFrame_raiseE s e).eventless_eq :)

theorem tblCounts_countRec (s : State) (p : Part) (e : Nat) : tblCounts (countRec s p e) = tblCounts s := by
  unfold countRec sampleTick
  dsimp only
  split
  · rfl
  · split <;> rfl

theorem tblCounts_countMem (s : State) (p : Part) (a n blk : Nat) (write : Bool) : tblCounts (countMem s p a n blk write) = tblCounts s := by
  unfold countMem
  extract_lets k at' s1
  split
  · rfl
  · rfl
  · refine (foldl_field tblCounts _ (fun t x => ?_) _ s1).trans rfl
    split <;> rfl

theorem tblCounts_charge (s : State) (p : Part) (b n blk : Nat) : tblCounts (charge s p b n blk) = tblCounts s := by
  unfold charge
  dsimp only
  split <;> rfl

theorem tblCounts_wrNow (s : State) (a : Nat) (bs : List Byte) : tblCounts (wrNow s a bs) = tblCounts s := by
  unfold wrNow
  split
  · exact tblCounts_raiseE ..
  · rfl

theorem tblCounts_dirMod (s : State) (t : Table) (r : Nat) (f : Nat → Nat) : tblCounts (dirMod s t r f) = tblCounts s := by
  unfold dirMod
  split
  · rfl
  · exact tblCounts_wrNow ..

theorem tblCounts_dirShift (s : State) (t : Table) (g hole n i : Nat) : tblCounts (dirShift s t g hole n i) = tblCounts s := by
  induction n generalizing s hole i with
  | zero => exact tblCounts_wrNow ..
  | succ n ih =>
    unfold dirShift
    dsimp only
    split
    · exact tblCounts_wrNow ..
    · split
      · exact ih ..
      · exact (ih ..).trans (tblCounts_wrNow ..)

theorem tblCounts_dirRemove (s : State) (p : Part) (tid r : Nat) : tblCounts (dirRemove s p tid r) = tblCounts s := by
  unfold dirRemove
  split
  · rfl
  · split
    · rfl
    · exact tblCounts_dirShift ..

/-- The number that stands in counter `i` of a table. -/
def tblTotal (s : State) (p : Part) (tid i : Nat) : Nat := (tabGet {} (tblCounts s) ((4096 * p.toNat + tid) * 12 + i)).total

theorem tblTotal_tblCount (s : State) (p : Part) (tid i : Nat) : tblTotal (tblCount s p tid i 1) p tid i = (tblTotal s p tid i + 1) % 2 ^ 48 :=
  congrArg TblCtr.total ((tabGet_tabSet ..).trans (if_pos rfl))

theorem tblTotal_congr {s t : State} (h : tblCounts t = tblCounts s) (p : Part) (tid i : Nat) : tblTotal t p tid i = tblTotal s p tid i := by
  rw [tblTotal, h, tblTotal]

/-- The read of a home record in T3, no unit of which is uncorrectable, changes counts and tokens alone. -/
theorem charged_homeRead {s : State} {p : Part} {a : Nat} (h : tierOf a = some 3) (hbad : s.flash.bad = []) (n e : Nat) :
    charged s (chargeRead (countRec s p e) p a n (blkRow e)) ∧ tblCounts (chargeRead (countRec s p e) p a n (blkRow e)) = tblCounts s := by
  have hcount : charged s (countMem (countRec s p e) p a n (blkRow e) false) :=
    (charged.of_counted (counted_countRec s p e)).trans (.of_counted (counted_countMem ..))
  unfold chargeRead chargeMem
  rw [h]
  simp only [Bool.false_eq_true, if_false]
  rw [meetFlash_of_none (by rw [hcount.flash, hbad])]
  exact ⟨hcount.trans ((charged_charge ..).trans (.of_counted (counted_winAdd ..))),
    (tblCounts_charge ..).trans ((tblCounts_countMem ..).trans (tblCounts_countRec ..))⟩

theorem tblCounts_slotWrite {s : State} {p : Part} {a : Nat} (h : tierOf a = some 1) (n blk : Nat) :
    tblCounts (chargeWrite s p a n blk) = tblCounts s := by
  unfold chargeWrite chargeMem
  rw [h]
  exact (tblCounts_charge ..).trans (tblCounts_countMem ..)

section Promotion

variable {s : State} {p : Part} {tid row : Nat} {v : Table} {iv : Nat × Nat}
  (hv : getTbl s p tid = some v) (hf : dirFind s v row = some iv)
include hv hf

/-- A home record that fails its check is counted, and the promotion gives its slot back. -/
theorem promoteStore_bad (hrec : recRead s v (homeAddr v (lidxOf s p) row) row = none) :
    ∃ u, promoteStore s p tid row = (u, false) ∧ tierWork s u ∧ getTbl u p tid = some (v.without row (deSlot iv.2))
      ∧ tblTotal u p tid 7 = (tblTotal s p tid 7 + 1) % 2 ^ 48 := by
  obtain ⟨u, -, heq⟩ := dirRemove_eq (s := tblCount s p tid 7 1) (iv := iv) hv
    ((dirFind_mem (s := s) (t := tblCount s p tid 7 1) rfl v row).trans hf)
  refine ⟨dirRemove (tblCount s p tid 7 1) p tid row, by simp only [promoteStore, hv, hf, hrec],
    (rowWork_tblCount ..).rest.trans (tierWork_dirRemove ..), ?_, ?_⟩
  · rw [heq, getTbl_putTbl_same]
  · rw [tblTotal_congr (tblCounts_dirRemove ..), tblTotal_tblCount]

/-- A good home record goes into its slot, which the promotion keeps. -/
theorem promoteStore_good (hslot : tierOf (slotAddr v (deSlot iv.2)) = some 1) {b : List Byte}
    (hrec : recRead s v (homeAddr v (lidxOf s p) row) row = some b) :
    ∃ u, promoteStore s p tid row = (u, true) ∧ tierWork s u
      ∧ getTbl u p tid = some { v with promoting := v.promoting.filter (·.1 != row) }
      ∧ tblTotal u p tid 9 = (tblTotal s p tid 9 + 1) % 2 ^ 48 := by
  have heq : ∃ t, rowWork s t ∧ tblCounts t = tblCounts s ∧ promoteStore s p tid row
      = (tblCount (modTbl t p tid fun v => { v with promoting := v.promoting.filter (·.1 != row) }) p tid 9 1, true) := by
    refine ⟨_, ?work, ?counts, by simp only [promoteStore, hv, hf, hrec]; rfl⟩
    case work => exact (rowWork_chargeWrite ..).trans ((rowWork_recWrite ..).trans (rowWork_dirState ..))
    case counts => exact (tblCounts_dirMod ..).trans ((tblCounts_wrNow ..).trans (tblCounts_slotWrite hslot ..))
  obtain ⟨t, hwork, hcounts, heq⟩ := heq
  rw [modTbl, hwork.getTbl, hv] at heq
  refine ⟨_, heq, hwork.rest.trans ((tierWork_putTbl ..).trans (rowWork_tblCount ..).rest), getTbl_putTbl_same .., ?_⟩
  rw [tblTotal_tblCount]
  exact congrArg (fun n => (n + 1) % 2 ^ 48) (tblTotal_congr hcounts p tid 9)

end Promotion

section HomeRead

variable {s : State} {p : Part} {tid row : Nat} {j : Job} {v : Table}
  (hj : getJob s p = some j) (hv : getTbl s p tid = some v) (hbad : s.flash.bad = [])
  (hhome : tierOf (homeAddr v j.plan.lidx row) = some 3)
include hj hv hbad hhome

/-- A promotion reads its home record and stores it from a state in which counts and tokens alone are others. -/
theorem promoteFinish_eq :
    ∃ t, charged s t ∧ tblCounts t = tblCounts s ∧ rowWork s t ∧ promoteFinish s p tid row = promoteStore t p tid row := by
  have hl : lidxOf s p = j.plan.lidx := by simp [lidxOf, hj]
  obtain ⟨hread, hcounts⟩ := charged_homeRead (p := p) hhome hbad v.desc.size (v.desc.eng row)
  exact ⟨_, hread, hcounts, (rowWork_countRec ..).trans (rowWork_chargeRead ..), by simp only [promoteFinish, hv, hl]⟩

variable {iv : Nat × Nat} {x : Nat} (hprom : v.promoting.find? (fun y => y.1 == row) = some (row, x)) (hf : dirFind s v row = some iv)
  (hx : deSlot iv.2 = x) (hwaits : waitsFor j tid row = []) (hslot : tierOf (slotAddr v x) = some 1)
  (hread : memOpen s p (homeAddr v j.plan.lidx row) v.desc.size false = true) (hwrite : memOpen s p (slotAddr v x) v.desc.size true = true)
include hprom hf hx hwaits hslot hread hwrite

/-- The home read of a promotion ends, with no fetch that waits for its row. -/
theorem promotionEnd_effect :
    ∃ u, tierWork s (promotionEnd s p tid row) ∧ getTbl (promotionEnd s p tid row) p tid = some u
      ∧ (∀ y ∈ u.promoting, y.1 ≠ row)
      ∧ (∀ b, recRead s v (homeAddr v j.plan.lidx row) row = some b →
          tblTotal (promotionEnd s p tid row) p tid 9 = (tblTotal s p tid 9 + 1) % 2 ^ 48 ∧ u.usedPool = v.usedPool ∧ u.usedRes = v.usedRes)
      ∧ (recRead s v (homeAddr v j.plan.lidx row) row = none →
          tblTotal (promotionEnd s p tid row) p tid 7 = (tblTotal s p tid 7 + 1) % 2 ^ 48 ∧ x ∉ u.usedPool) := by
  subst hx
  obtain ⟨t, hcharged, hcounts, hwork, hfin⟩ := promoteFinish_eq hj hv hbad hhome
  have hl : lidxOf s p = j.plan.lidx := by simp [lidxOf, hj]
  have hlt : lidxOf t p = j.plan.lidx := by simp [lidxOf, getJob_congr hcharged.jobs, hj]
  have hvt : getTbl t p tid = some v := (hwork.getTbl p tid).trans hv
  have hft : dirFind t v row = some iv := (dirFind_mem hcharged.mem v row).trans hf
  have hrec : recRead t v (homeAddr v (lidxOf t p) row) row = recRead s v (homeAddr v j.plan.lidx row) row := by
    rw [hlt]
    exact hcharged.recRead ..
  have hend : promotionEnd s p tid row = if (promoteStore t p tid row).2 then rerunWaits (promoteStore t p tid row).1 p tid row
      else failWaits (promoteStore t p tid row).1 p tid row := by
    simp only [promotionEnd, hv, hprom, hl]
    refine (if_pos (by simp [allOpen, hread, hwrite])).trans ?_
    dsimp only
    rw [hfin]
  have hjob : ∀ u, tierWork t u → getJob u p = some j := fun u hu => (getJob_congr (hu.jobs.trans hcharged.jobs) p).trans hj
  cases hb : recRead s v (homeAddr v j.plan.lidx row) row with
  | none =>
    obtain ⟨u, hstore, hu, hget, htotal⟩ := promoteStore_bad hvt hft (hrec.trans hb)
    have hfail : failWaits u p tid row = u := by simp only [failWaits, hjob u hu, hget, hwaits, List.foldl_nil]
    rw [hstore] at hend
    rw [hend.trans hfail]
    refine ⟨_, hwork.rest.trans hu, hget, ?_, nofun, fun _ => ⟨?_, (v.free_without ..).1⟩⟩
    · simp [Table.without]
    · rw [htotal, tblTotal_congr hcounts]
  | some b =>
    obtain ⟨u, hstore, hu, hget, htotal⟩ := promoteStore_good hvt hft hslot (hrec.trans hb)
    have hrerun : rerunWaits u p tid row = u := by simp only [rerunWaits, hjob u hu, hwaits, List.foldl_nil]
    rw [hstore] at hend
    rw [hend.trans hrerun]
    refine ⟨_, hwork.rest.trans hu, hget, ?_, fun _ _ => ⟨?_, rfl, rfl⟩, nofun⟩
    · simp
    · rw [htotal, tblTotal_congr hcounts]

end HomeRead

/-! ### A job that changes beside what is stored -/

theorem modJob_only (s : State) (p : Part) (f : Job → Job) : modJob s p f = { s with jobs := (modJob s p f).jobs } := by
  unfold modJob
  split <;> rfl

/-- A state that differs from another by what is stored still does after its job has been changed, but for the jobs. -/
theorem modJob_of_stored {s u : State} (h : u = { s with mem := u.mem, poison := u.poison, spdErr := u.spdErr }) (p : Part) (f : Job → Job) :
    modJob u p f = { s with
      jobs := (modJob u p f).jobs, mem := (modJob u p f).mem, poison := (modJob u p f).poison, spdErr := (modJob u p f).spdErr } := by
  refine (modJob_only ..).trans ?_
  rw [modJob_mem, modJob_poison, modJob_spdErr]
  generalize (modJob u p f).jobs = jobs
  exact congrArg (fun u : State => { u with jobs := jobs }) h

/-! ### The statement -/

/-- Settles O27: the message by `takeHints_effect`, a served hint by `hintServe_effect` and `setMark_effect`, a promotion by
`promotionEnd_effect`. -/
theorem forecast : Obligations.Forecast := by
  unfold Obligations.Forecast
  refine ⟨?message, ?service, ?promotion⟩
  case message =>
    intro s p m j hj hepoch d hd hroom
    obtain ⟨honly, hjob⟩ := takeHints_effect hj j.plan.lidx (nextStep s p + d) (idxEntries m.body m.n) (by simpa [idxEntries] using hroom)
    exact ⟨_, _, congrArg Host.Outcome.next (hintArrive_eq hj hepoch hd), honly, hjob, rfl⟩
  case service =>
    intro s p j h hmst hj hh
    have hexec : exec (.hintService p) s = .next (hintServe s p) := congrArg Host.Outcome.next (if_pos hmst)
    obtain ⟨k, hk, hframe, hserved, hkept⟩ := hintServe_effect hj hh
    refine ⟨_, k, hexec, hk, hframe, ?_, fun v hv hslot => hserved (serveHint_served hv hslot), fun v iv hv hf hst ha => ?_⟩
    · cases hs : (serveHint s p h).2 with
      | true => exact .inl (hserved hs)
      | false => exact .inr (hkept hs)
    · obtain ⟨hrest, hmark, hout⟩ := setMark_effect hf ha h.step
      rw [hintServe_resident hj hh hv hf hst]
      refine ⟨?_, by rw [dirGet, modJob_mem]; exact hmark, fun a hout' => by rw [modJob_mem]; exact hout a hout'⟩
      exact modJob_of_stored hrest p _
  case promotion =>
    intro s p tid row j v iv x hmst hj hv _ hprom hf hx hwaits hbad hhome hslot hread hwrite n
    obtain ⟨u, hwork, hget, heffect⟩ := promotionEnd_effect hj hv hbad hhome hprom hf hx hwaits hslot hread hwrite
    obtain ⟨hprom', hgood, hfail⟩ := heffect
    exact ⟨_, u, congrArg Host.Outcome.next (if_pos hmst), hget, hwork.frame p, hprom', hgood, hfail⟩

end Sys2Proof.Machine
end
